-- ==== Sys2Proof/Word.lean ====
section
/-!
DEFINITION. Words of the K1024 and their plainest arithmetic: the widths the manual reads registers, fields and
time stamps in (R2, R3), and saturating counters.
-/

namespace Sys2Proof

/-- One byte (R2: byte 0 of a field holds its bits [7:0]). -/
abbrev Byte := BitVec 8

/-- A 32-bit register word. -/
abbrev Word := BitVec 32

/-- A 64-bit word: a 64-bit register pair or one word of a spill-queue item. -/
abbrev DWord := BitVec 64

/-- A value of the time base TB (R3), in ticks of 0.625 ns. -/
abbrev Time := BitVec 64

/-- The number of a function: 0 is the PF, 1 to 63 are VF1 to VF63. -/
abbrev Fn := BitVec 6

end Sys2Proof
end

