-- ==== Sys2Proof/Config.lean ====
section
/-!
DEFINITION. What the manual leaves to the single part or leaves open: constants with no body, so that no proof can
see a value. The functions are applied to the counter `fresh` of the state, one value per draw.
-/

namespace Sys2Proof

/-- Byte `n` of the output of the DRBG of R171: random by construction, so no value is ever known. -/
opaque Config.drbgByte : Nat → Byte

/-- A byte the manual calls undefined (R61, R119, R152, R374). -/
opaque Config.freeByte : Nat → Byte

/-- A number the manual states no value for, where the machine goes on. -/
opaque Config.freeNat : Nat → Nat

/-- An integer the manual states no value for, where the machine goes on. -/
opaque Config.freeInt : Nat → Int

/-- The device serial of SE_SERIAL (R383). -/
opaque Config.deviceSerial : DWord

/-- SHA-256 digest of the 2 MiB mask ROM, measurement 1 (R387). -/
opaque Config.romDigest : List Byte

/-- Digest of the MRAM head-calibration area after its `n`-th write, measurement 3 (R387): the manual gives no byte
layout of the area. -/
opaque Config.headCalDigest : Nat → List Byte

/-- The fused hash of the patch key (R381, R390). -/
opaque Config.patchKeyHash : List Byte

/-- The fused hash of the service key (R381, R393). -/
opaque Config.serviceKeyHash : List Byte

/-- Modulus of the identity key (R381, R383). -/
opaque Config.identityModulus : Nat

/-- Private exponent of the identity key (R381, R383). -/
opaque Config.identityExponent : Nat

/-- Modulus of the transport key (R159, R381, R383). -/
opaque Config.transportModulus : Nat

/-- Private exponent of the transport key (R159, R381, R383). -/
opaque Config.transportExponent : Nat

/-- The certificate chain of SPDM slot 0, root CA, device CA and leaf in that order, in DER (R383, R385). -/
opaque Config.certChain : List Byte

/-- The root certificate's DER bytes, whose SHA-256 hash is the RootHash of slot 0 (R383). -/
opaque Config.rootCert : List Byte

/-- The transport certificate in DER, measurement 6 (R383, R387). -/
opaque Config.transportCert : List Byte

/-- The DER SubjectPublicKeyInfo of the leaf, whose hash is DEVICE_ID (R383). -/
opaque Config.leafSpki : List Byte

/-- Head serial stored in MRAM head calibration for module `m` when the part left the factory (R321). -/
opaque Config.shippedSerial : Nat → DWord

/-- CTExponent of the SPDM CAPABILITIES response: the manual gives it no value. -/
opaque Config.spdmCtExponent : Byte

/-- MRAM head-calibration words with no value in the manual that Coxswain loads at PHASE 3 (R400): word `i` of the
load list. -/
opaque Config.calWord : Nat → Word

/-- Whether a reel encoder counts up when its A line leads its B line: the manual gives the sense of counting no name
(R334). -/
opaque Config.encLeadsUp : Bool


end Sys2Proof
end

