-- ==== Sys2Proof/Syntax.lean ====
section
/-!
DEFINITION. The commands of the K1024: one constructor of `Instr` for each row of the operation table, with the
operands the row's rules give it. Every command carries first the TB instant at which it happens. What reaches the
device from outside (bytes read from host memory, cells from the heads, packets from the motion side, what is found
on tape, outcomes of physical measurements) is an operand too.
-/

namespace Sys2Proof

/-- A fetched command is named by its function, its submission queue and its tag: among fetched and uncompleted
commands of one SQ the tag is unique (R76, R77). -/
structure CmdRef where
  fn  : Fn
  sq  : Nat
  tag : BitVec 16
deriving DecidableEq, Repr

/-- One element of a scatter-list segment (R60). -/
structure SgElem where
  addr : DWord
  len  : BitVec 32
  /-- byte 12: TYPE in bits [3:0], bits [7:4] reserved -/
  type : Byte
  /-- bytes 15:13, reserved -/
  rsv  : BitVec 24
deriving DecidableEq, Repr

/-- One scatter-list segment as read from host memory (R60). -/
structure SgSeg where
  addr  : DWord
  elems : List SgElem
deriving DecidableEq, Repr

/-- Where a task-register or board-bus access comes from (TK_STATUS.SOURCE). -/
inductive BusSource
  | pcie | i3c | smbus
deriving DecidableEq, Repr

/-- The two SPDM connections (R384). -/
inductive SpdmConn
  | doe | task
deriving DecidableEq, Repr

/-- What link bring-up meets in FILL PHASE 3 (R33, R321): for each head module the record its two lanes carry
(empty when the module does not answer), the Sheet Port links that come into sync, and whether the entropy input
of the DRBG passes its health tests (R171). -/
structure BringUp where
  heads     : List (List Byte × List Byte)
  sheetSync : BitVec 24
  entropyOk : Bool
deriving DecidableEq, Repr

/-- A data set found on tape by LOAD (R198): the path position of its block and its length, both in units of 10 nm,
what its frame headers say, its directory and its record index. Parity data sets have no directory. -/
structure FoundSet where
  at_       : Nat
  len       : Nat
  kind      : BitVec 2
  dsn       : Nat
  directory : List Byte
  index     : List Byte
  /-- the last element that begins or goes on in it is not whole at the end of its stream area -/
  cut       : Bool
deriving DecidableEq, Repr

/-- What LOAD finds (R92, R198, R200): whether a cartridge is present, whether the housekeeping reserve is blank, the
housekeeping generations that decode, each with its path slot and payload, the values of the threading measurements
(R286), and the data sets found in each partition, in reading order, up to blank tape. -/
structure LoadScan where
  present   : Bool
  blank     : Bool
  gens      : List (Nat × Nat × List Byte)
  azk       : List Word
  reelK     : Word
  radii     : Word × Word
  parts     : List (List FoundSet)
deriving DecidableEq, Repr

/-- Whether the housekeeping write of a command succeeds (R200). -/
structure HkWrite where
  ok : Bool
deriving DecidableEq, Repr

/-- Physical outcome of a CALIBRATE run (R98, R286, R309): the procedures that met their accuracy, the modules whose
384 zones were all measured with the head entries measured, the units that failed self-test, the values the procedures
measured, the coefficient words of loop slots that LOOP_ID and ACT_GAIN rescaled (by slot and window offset), and the
head records that retrained lanes carry, lower and upper. -/
structure CalOutcome where
  passed   : BitVec 7
  zoned    : BitVec 8
  entries  : List (Nat × List Byte)
  failed   : List Nat
  adc      : List (Nat × Word × Word)
  azk      : List Word
  reelK    : Word
  radii    : Word × Word
  loops    : List (Nat × Nat × Word)
  records  : List (Nat × List Byte × List Byte)
deriving DecidableEq, Repr

/-- What the read-while-write verify of one frame observes (R212, R213). -/
structure VerifyObs where
  syncFound  : Bool
  hdrDecoded : Bool
  hdrFixed   : Nat
  hdrEqual   : Bool
  converged  : Bool
  bitsEqual  : Bool
  weak       : Nat
deriving DecidableEq, Repr

/-- How a piece of an item reaches a spill queue (R351): a whole item, its first words, or its last words. -/
inductive ItemPart
  | whole | begin_ | rest
deriving DecidableEq, Repr

/-- The servo-loss conditions of R284. -/
inductive ServoLoss
  | lostHold (module_ : BitVec 3)
  | modHold
  | acqHold (module_ : BitVec 3)
  | offTrack (module_ : BitVec 3)
deriving DecidableEq, Repr

/-- The two sample kinds of a servo frame (R274). -/
inductive SampleKind
  | ab | cd
deriving DecidableEq, Repr

/-- What a cox core meets at an instruction fetch that decodes as uncorrectable or poisoned (R373). -/
structure FetchFault where
  addr      : Nat
  fromRom   : Bool
  poisoned  : Bool
  refetchOk : Bool
  /-- the SHA-256 hash of the active copy as read from MRAM -/
  hash      : List Byte
deriving DecidableEq, Repr

/-- What a protected unit of memory holds (R370), where the manual gives no layout that the state could show: the sub-areas
of the fixed buffer regions, the cached data set, the spill items with a word in the unit, the SRAM macro directory and
the MRAM areas. Staging pages are not among them: the state knows whose they are. -/
inductive UnitUse
  | free
  | cache (part dsn : Nat)
  | working (ref : CmdRef)
  | table (f : Option Fn) (ref : Option CmdRef)
  | image
  | accumulator
  | recovery
  | bundle
  | items (q : Nat) (idx : List Nat)
  | calibration
  | keySlot (slot : Nat)
  | kek (f : Fn)
  | rosterUnit (i : Nat)
  | instruction
  | headEntry (elem zone : Nat)
  | identityKey
  | transportKey
  | mram
deriving DecidableEq, Repr

/-- What a scrubber read meets (R366, R369, R376): the stored bits that have changed by themselves since the last access,
the use of the unit, a write of the unit between the read and its poisoning, whether all write-back slots are occupied,
the pseudo-channel of a class 0 line, and the next word of the class 1 macro directory, none at its end. -/
structure ScrubObs where
  upset  : BitVec 288
  use    : UnitUse
  newer  : Option (BitVec 256)
  wbFull : Bool
  bank   : BitVec 6
  next   : Option Nat
deriving DecidableEq, Repr

/-- The operation table, row by row. -/
inductive Instr
  | perstNFall (t : Time)
  | perstNRise (t : Time) (addrSel : BitVec 2) (temps : List (BitVec 16))
  | rootPllLock (t : Time) (env : BringUp)
  | refClkLoss (t : Time)
  | supplyMonitorTrip (t : Time)
  | tempUpdate (t : Time) (temps : List (BitVec 16))
  | pwrWarnNFall (t : Time)
  | holdInNFall (t : Time)
  | tapeAtRest (t : Time)
  | warmResetRequest (t : Time) (value : Word)
  | warmResetStart (t : Time) (env : BringUp)
  | flr (t : Time) (f : Fn)
  | gateDelayExpiry (t : Time)
  | dieShutdownDone (t : Time) (die : BitVec 2)
  | dieWakeDone (t : Time) (die : BitVec 2)
  | readWaitExpiry (t : Time)
  | writeSessionStart (t : Time) (hk : HkWrite)
  | commandAged (t : Time) (ref : CmdRef)
  | tapeCommandChoose (t : Time)
  | locateTargetReached (t : Time)
  | wrapChange (t : Time) (wrap : Nat)
  | sqTailDoorbell (t : Time) (f : Fn) (q : Nat) (width : Nat) (value : DWord)
  | cqHeadDoorbell (t : Time) (f : Fn) (q : Nat) (width : Nat) (value : DWord)
  | commandFetch (t : Time) (entry : BitVec 512)
  | hqEnable (t : Time) (f : Fn)
  | hqDisable (t : Time) (f : Fn)
  | hqAllotWrite (t : Time) (g : Fn) (word : BitVec 2) (value : Word)
  | append (t : Time) (ref : CmdRef) (rlist : List Nat) (segs : List SgSeg) (data : List Byte)
  | stagingGrant (t : Time)
  | acceptancePoint (t : Time)
  | read (t : Time) (ref : CmdRef) (segs : List SgSeg)
  | verify (t : Time) (ref : CmdRef)
  | flush (t : Time) (ref : CmdRef)
  | writeMark (t : Time) (ref : CmdRef)
  | readPosition (t : Time) (ref : CmdRef) (segs : List SgSeg)
  | orderQuery (t : Time) (ref : CmdRef) (segs : List SgSeg) (list : List (Byte × BitVec 56 × DWord))
  | locate (t : Time) (ref : CmdRef)
  | createCq (t : Time) (ref : CmdRef)
  | deleteCq (t : Time) (ref : CmdRef)
  | createSq (t : Time) (ref : CmdRef)
  | deleteSq (t : Time) (ref : CmdRef)
  | abort (t : Time) (ref : CmdRef) (ahead : List (BitVec 16))
  | getParam (t : Time) (ref : CmdRef)
  | setParam (t : Time) (ref : CmdRef)
  | getLog (t : Time) (ref : CmdRef) (segs : List SgSeg)
  | keyLoadKek (t : Time) (ref : CmdRef) (segs : List SgSeg) (blob : List Byte)
  | keyLoadRecordKey (t : Time) (ref : CmdRef) (segs : List SgSeg) (blob : List Byte)
  | keyErase (t : Time) (ref : CmdRef)
  | keyEraseImmediate (t : Time) (ref : CmdRef)
  | keyEraseKek (t : Time) (ref : CmdRef)
  | load (t : Time) (ref : CmdRef) (scan : LoadScan)
  | unload (t : Time) (ref : CmdRef) (present : Bool) (hk : HkWrite)
  | partition (t : Time) (ref : CmdRef) (segs : List SgSeg) (sizes : List Word) (hk : HkWrite)
  | eraseTruncate (t : Time) (ref : CmdRef)
  | eraseLong (t : Time) (ref : CmdRef) (finished : Bool)
  | eraseSanitise (t : Time) (ref : CmdRef) (finished : Bool) (headersFound : Bool)
  | calibrate (t : Time) (ref : CmdRef) (segs : List SgSeg) (units : List (BitVec 16)) (out : CalOutcome)
  | telltaleStart (t : Time) (ref : CmdRef)
  | telltaleStop (t : Time) (ref : CmdRef)
  | bench (t : Time) (ref : CmdRef)
  | selfTest (t : Time) (ref : CmdRef) (code : DWord)
  | holdEnter (t : Time) (ref : CmdRef)
  | holdRelease (t : Time) (ref : CmdRef)
  | lcChange (t : Time) (ref : CmdRef) (segs : List SgSeg) (auth : List Byte)
  | lcArmExpiry (t : Time)
  | patchDownload (t : Time) (ref : CmdRef) (segs : List SgSeg) (data : List Byte)
  | fwActivate (t : Time) (ref : CmdRef)
  | fwActivateSwap (t : Time)
  | fwActivateTimeout (t : Time)
  | health (t : Time) (src : BusSource)
  | logRead (t : Time) (src : BusSource)
  | taskLcChange (t : Time) (src : BusSource)
  | attest (t : Time) (src : BusSource)
  | queueSetup (t : Time) (src : BusSource)
  | emergencyHold (t : Time) (src : BusSource)
  | warmReset (t : Time) (src : BusSource)
  | taskWriteWhileBusy (t : Time) (src : BusSource) (offset : Nat) (value : Word)
  | boardBusWrite (t : Time) (src : BusSource) (address : BitVec 7) (bytes : List Byte)
  | smbusTimeout (t : Time)
  | getVersion (t : Time) (conn : SpdmConn) (msg : List Byte)
  | getCapabilities (t : Time) (conn : SpdmConn) (msg : List Byte)
  | negotiateAlgorithms (t : Time) (conn : SpdmConn) (msg : List Byte)
  | getDigests (t : Time) (conn : SpdmConn) (msg : List Byte)
  | getCertificate (t : Time) (conn : SpdmConn) (msg : List Byte)
  | challenge (t : Time) (conn : SpdmConn) (msg : List Byte)
  | getMeasurements (t : Time) (conn : SpdmConn) (msg : List Byte)
  | doeDiscovery (t : Time) (index : Byte)
  | doeAbort (t : Time)
  | unlock (t : Time) (auth : List Byte)
  | sourceLineChange (t : Time) (f : Fn) (fast : Bool) (src : Nat)
  | interruptDelivery (t : Time)
  | fastDelivery (t : Time)
  | holdoffExpiry (t : Time) (f : Fn) (fast : Bool) (vec : Nat)
  | msixUnmask (t : Time) (f : Fn) (vec : Option Nat)
  | icEoi (t : Time) (f : Fn) (value : Word)
  | icFEoi (t : Time) (value : Word)
  | icActiveRead (t : Time) (f : Fn) (fast : Bool) (word : Nat)
  | icPendWrite (t : Time) (f : Fn) (fast : Bool) (word : Nat) (value : Word)
  | icSrcCfgWrite (t : Time) (f : Fn) (value : Word)
  | itemOffer (t : Time) (q : Nat) (part : ItemPart) (words : List DWord)
  | batchIdleTimeout (t : Time) (q : Nat)
  | spillHeadWrite (t : Time) (q : Nat) (value : Word)
  | spillFlush (t : Time) (q : Nat)
  | spillFlushEffect (t : Time) (q : Nat)
  | spillStart (t : Time) (q : Nat)
  | spillStop (t : Time) (q : Nat)
  | strokeBoundary (t : Time)
  | slotStart (t : Time)
  | slotComplete (t : Time) (slot : BitVec 6)
  | loopStart (t : Time) (slot : BitVec 6) (value : Word)
  | loopStop (t : Time) (slot : BitVec 6) (value : Word)
  | ceSwapWrite (t : Time) (value : Word)
  | rcDataAccess (t : Time) (slot : BitVec 6) (write : Option Word)
  | readSampleCell (t : Time) (lane : BitVec 4) (session : BitVec 12) (cell : BitVec 512)
  | servoSampleCell (t : Time) (lane : BitVec 4) (session : BitVec 12) (cell : BitVec 512)
  | headStatusCell (t : Time) (lane : BitVec 4) (session : BitVec 12) (cell : BitVec 512)
  | laneLoss (t : Time) (lane : BitVec 4)
  | laneTrainingDone (t : Time) (lane : BitVec 4) (ok : Bool) (lower : List Byte) (upper : List Byte)
  | burstWindowClose (t : Time) (reader : BitVec 4)
  | moduleSample (t : Time) (m : BitVec 3) (kind : SampleKind)
  | writeGateOpen (t : Time) (m : BitVec 3) (bit : BitVec 20)
  | servoLossLimit (t : Time) (cond : ServoLoss)
  | sheetPacketReceive (t : Time) (link : BitVec 5) (code : BitVec 3) (data : BitVec 32) (crc : Byte) (intact : Bool)
  | sheetLinkSync (t : Time) (link : BitVec 5)
  | sheetLinkLoss (t : Time) (link : BitVec 5)
  | sheetLinkStable (t : Time)
  | sheetRefresh (t : Time)
  | encoderEdge (t : Time) (enc : BitVec 1) (a : Bool) (b : Bool)
  | encoderIndex (t : Time) (enc : BitVec 1)
  | gpiEdge (t : Time) (pin : BitVec 5) (level : Bool)
  | rowDispatch (t : Time)
  | tapeResume (t : Time)
  | readAheadStop (t : Time)
  | demandUpdate (t : Time)
  | reefRampDone (t : Time)
  | verifyResult (t : Time) (copy : Nat) (obs : VerifyObs)
  | verifyDeadline (t : Time) (copy : Nat)
  | frameDecodeStart (t : Time) (die : BitVec 2) (engine : BitVec 5)
  | frameDecodeDone (t : Time) (die : BitVec 2) (engine : BitVec 5)
  | blankDetect (t : Time)
  | runDispatch (t : Time) (engine : BitVec 5)
  | runComplete (t : Time) (engine : BitVec 5) (agrees : Bool)
  | cipherRecordStart (t : Time) (pair : BitVec 2)
  | cipherRecordEnd (t : Time) (pair : BitVec 2) (agrees : Bool)
  | drbgReseed (t : Time) (entropyOk : Bool)
  | entropyHealthFail (t : Time)
  | scrubRead (t : Time) (cls : BitVec 2) (obs : ScrubObs)
  | instructionFetchTrap (t : Time) (fault : FetchFault)
  | dmaChannelHalt (t : Time) (f : Fn) (q : Nat)
  | completionTimeout (t : Time) (f : Fn) (q : Nat)
  | miFlipaddrWrite (t : Time) (cls : BitVec 2) (high : Bool) (width : Nat) (value : DWord)
  | injectedWrite (t : Time) (cls : BitVec 2) (addr : BitVec 40) (data : BitVec 256)
  | bar0AccessReject (t : Time) (f : Fn) (isWrite : Bool) (offset : Nat) (width : Nat)
  | rocRead (t : Time) (f : Fn) (offset : Nat) (width : Nat)
  | registerWrite (t : Time) (f : Fn) (bar : BitVec 3) (offset : Nat) (width : Nat) (value : DWord)
  | holdInNRise (t : Time)
  | pwrWarnNRise (t : Time)
  | lowHalfRead (t : Time) (f : Fn) (offset : Nat)
  | spillConsumerHalt (t : Time) (q : Nat)
  | rsaOperationDone (t : Time)
  | doeResponseRead (t : Time)
  | vfEnableWrite (t : Time) (on : Bool)
  | setdasaOrEntdaa (t : Time) (address : BitVec 7)
deriving DecidableEq, Repr

end Sys2Proof
end

