-- ==== Sys2Proof/Machine/Bytes.lean ====
section
/-!
DEFINITION. Byte strings, bit strings and tables: little-endian numbers (R2), slices, sorted tables with a default
entry, saturation and rounding as the chapters use them.
-/

namespace Sys2Proof.Machine

/-! ### Byte strings -/

/-- The number a little-endian byte string holds (R2). -/
def leNat : List Byte → Nat
  | [] => 0
  | b :: r => b.toNat + 256 * leNat r

/-- `n` little-endian bytes of the number `v` (R2). -/
def natLe : Nat → Nat → List Byte
  | 0, _ => []
  | n + 1, v => BitVec.ofNat 8 v :: natLe n (v / 256)

/-- The number a big-endian byte string holds (R155, R389). -/
def beNat (l : List Byte) : Nat := leNat l.reverse

/-- `n` big-endian bytes of the number `v` (R155, R389). -/
def natBe (n v : Nat) : List Byte := (natLe n v).reverse

/-- `n` elements from offset `o`. -/
def slice {α : Type} (l : List α) (o n : Nat) : List α := (l.drop o).take n

/-- The little-endian field of `n` bytes at offset `o` of a structure. -/
def fieldLe (l : List Byte) (o n : Nat) : Nat := leNat (slice l o n)

/-- A little-endian list of 64-bit words as bytes. -/
def dwordBytes (ws : List DWord) : List Byte := ws.flatMap fun w => natLe 8 w.toNat

/-- The XOR of two byte strings, as long as the shorter. -/
def xorBytes (a b : List Byte) : List Byte := List.zipWith (· ^^^ ·) a b

/-- A byte string padded with zero bytes to `n` bytes. -/
def padTo (n : Nat) (l : List Byte) : List Byte := l ++ List.replicate (n - l.length) 0

/-- `l` with element `i` replaced, and itself when it has no element `i`. -/
def setAt {α : Type} (l : List α) (i : Nat) (v : α) : List α := l.set i v

/-- The bits of a byte string, bit 7 of each byte first (R185). -/
def bitsMsb (l : List Byte) : List Bool :=
  l.flatMap fun b => (List.range 8).map fun i => b.getLsbD (7 - i)

/-- The number whose bits, most significant first, are `l`. -/
def bitsNat (l : List Bool) : Nat := l.foldl (fun a b => 2 * a + (if b then 1 else 0)) 0

/-- The `n` low bits of `v`, most significant first. -/
def natBits (n v : Nat) : List Bool := (List.range n).map fun i => v.testBit (n - 1 - i)

/-- Bits packed into bytes from bit 0 of each byte upward, padded with zero bits (R140). -/
def packLsb : Nat → List Bool → List Byte
  | 0, _ => []
  | _, [] => []
  | n + 1, l => BitVec.ofNat 8 (bitsNat ((l.take 8).reverse)) :: packLsb n (l.drop 8)

/-- The bits of a byte string, bit 0 of each byte first (R140). -/
def bitsLsb (l : List Byte) : List Bool :=
  l.flatMap fun b => (List.range 8).map fun i => b.getLsbD i

/-! ### Tables

A table is a list of (index, entry) pairs in rising order of index that lists no entry equal to the default: what is
not listed reads as the default. -/

/-- Entry `i` of a table whose default is `d`. -/
def tabGet {α : Type} (d : α) : List (Nat × α) → Nat → α
  | [], _ => d
  | (k, v) :: r, i => if i = k then v else tabGet d r i

/-- The table with (i, v) put ahead of the first entry above it. -/
def tabPut {α : Type} (i : Nat) (v : α) : List (Nat × α) → List (Nat × α)
  | [] => [(i, v)]
  | (k, w) :: r => if i < k then (i, v) :: (k, w) :: r else (k, w) :: tabPut i v r

/-- The table with entry `i` set to `v`. -/
def tabSet {α : Type} [DecidableEq α] (d : α) (t : List (Nat × α)) (i : Nat) (v : α) : List (Nat × α) :=
  let r := t.filter fun p => !decide (p.1 = i)
  if v = d then r else tabPut i v r

/-- Every index of the table is above `b`, the indices rise, and no entry is the default. -/
def tabWfFrom {α : Type} [DecidableEq α] (d : α) : Option Nat → List (Nat × α) → Bool
  | _, [] => true
  | b, (k, v) :: r =>
    (match b with | none => true | some m => decide (m < k)) && decide (v ≠ d) && tabWfFrom d (some k) r

/-- The canonical form of a table: indices strictly rising, no entry equal to the default. -/
def tabWf {α : Type} [DecidableEq α] (d : α) (t : List (Nat × α)) : Bool := tabWfFrom d none t

/-! ### Integer arithmetic of the fixed-point chapters -/

/-- `v` limited to [lo, hi]; the lower limit prevails when it lies above the upper (R296). -/
def clampInt (lo hi v : Int) : Int := max lo (min v hi)

/-- Saturation to `n` bits, two's complement (R204, R235, R293). -/
def satN (n : Nat) (v : Int) : Int := clampInt (-(2 ^ (n - 1) : Int)) ((2 ^ (n - 1) : Int) - 1) v

/-- `v / 2^s` rounded to the nearest integer, ties to the even integer (R235, R293). -/
def rne (v : Int) (s : Nat) : Int :=
  let p : Int := 2 ^ s
  let q := v / p
  let r := v % p
  if 2 * r < p then q
  else if p < 2 * r then q + 1
  else if s = 0 then v
  else if q % 2 = 0 then q else q + 1

/-- `v / m` rounded to the nearest integer, ties to the even integer, for a positive `m`. -/
def rneDiv (v m : Int) : Int :=
  let q := v / m
  let r := v % m
  if 2 * r < m then q
  else if m < 2 * r then q + 1
  else if q % 2 = 0 then q else q + 1

/-- Arithmetic shift right. -/
def asr (v : Int) (s : Nat) : Int := v / (2 ^ s : Int)

/-- A 32-bit word read as int32. -/
def i32 (w : Word) : Int := w.toInt

/-- An integer stored as a 32-bit two's-complement word. -/
def w32 (v : Int) : Word := BitVec.ofInt 32 v

/-- A counter of `n` bits that saturates (R225, R254, R380). -/
def satInc {n : Nat} (c : BitVec n) : BitVec n := if c = BitVec.allOnes n then c else c + 1

/-- A counter of `n` bits raised by `k`, saturating. -/
def satAdd {n : Nat} (c : BitVec n) (k : Nat) : BitVec n :=
  if c.toNat + k < 2 ^ n then BitVec.ofNat n (c.toNat + k) else BitVec.allOnes n

/-- Division of naturals rounded up. -/
def ceilDiv (a b : Nat) : Nat := (a + b - 1) / b

/-- The field of `n` bits at bit `o` of a word, as a number. -/
def bits {w : Nat} (v : BitVec w) (o n : Nat) : Nat := (v.toNat / 2 ^ o) % 2 ^ n

/-- Word `v` with the field of `n` bits at bit `o` replaced by `x`. -/
def putBits {w : Nat} (v : BitVec w) (o n x : Nat) : BitVec w :=
  BitVec.ofNat w (v.toNat - bits v o n * 2 ^ o + (x % 2 ^ n) * 2 ^ o)

/-- A Boolean as a bit value. -/
def b2n (b : Bool) : Nat := if b then 1 else 0

end Sys2Proof.Machine
end

