-- ==== Sys2Proof/Machine/Aes.lean ====
section
/-!
DEFINITION. AES-256, Galois/Counter Mode as the seal of R154 uses it, and the AES key unwrap of R160. The pipelines'
masking (R170) changes no output bit, so it does not appear here.
-/

namespace Sys2Proof.Machine

/-! ### AES-256 -/

/-- Multiplication by x in the field of AES. -/
def aesDouble (a : Byte) : Byte := if a.getLsbD 7 then (a <<< 1) ^^^ 0x1B#8 else a <<< 1

/-- The product in the field of AES. -/
def aesMul (a b : Byte) : Byte :=
  (List.range 8).foldl (fun acc i => aesDouble acc ^^^ (if b.getLsbD (7 - i) then a else 0#8)) 0#8

/-- The inverse in the field of AES, 0 for 0. -/
def aesInv (a : Byte) : Byte := (List.range 254).foldl (fun acc _ => aesMul acc a) 1#8

/-- The S-box. -/
def aesSbox (a : Byte) : Byte :=
  let b := aesInv a
  b ^^^ b.rotateLeft 1 ^^^ b.rotateLeft 2 ^^^ b.rotateLeft 3 ^^^ b.rotateLeft 4 ^^^ 0x63#8

/-- The S-box as a table of 256 bytes. -/
def aesSboxTable : List Byte := (List.range 256).map fun i => aesSbox (BitVec.ofNat 8 i)

/-- The inverse S-box as a table of 256 bytes. -/
def aesInvTable : List Byte := (List.range 256).map fun i => BitVec.ofNat 8 ((aesSboxTable.findIdx? (· == BitVec.ofNat 8 i)).getD 0)

/-- A byte through a table. -/
def aesLook (tbl : List Byte) (a : Byte) : Byte := tbl.getD a.toNat 0

/-- The key schedule of a 32 B key: 60 words of 4 bytes. -/
def aesSchedule (sb : List Byte) (key : List Byte) : List (List Byte) :=
  let w0 := (List.range 8).map fun i => slice key (4 * i) 4
  (List.range 52).foldl
    (fun w i =>
      let k := i + 8
      let prev := w.getD (k - 1) []
      let t :=
        if k % 8 = 0 then
          let r := (prev.drop 1 ++ prev.take 1).map (aesLook sb)
          let rcon := (List.range (k / 8 - 1)).foldl (fun a _ => aesDouble a) 1#8
          xorBytes r [rcon, 0, 0, 0]
        else if k % 8 = 4 then prev.map (aesLook sb)
        else prev
      w ++ [xorBytes (w.getD (k - 8) []) t])
    w0

/-- The round key of round `r`. -/
def roundKey (w : List (List Byte)) (r : Nat) : List Byte := (slice w (4 * r) 4).flatten

/-- Byte (row, column) rotated by the row: ShiftRows, or its inverse with `back`. -/
def shiftRows (back : Bool) (s : List Byte) : List Byte :=
  (List.range 16).map fun i =>
    let r := i % 4
    let c := i / 4
    s.getD (r + 4 * ((if back then c + 4 - r else c + r) % 4)) 0

/-- MixColumns by the coefficients of one row. -/
def mixColumns (m : List Byte) (s : List Byte) : List Byte :=
  (List.range 16).map fun i =>
    let r := i % 4
    let c := i / 4
    (List.range 4).foldl (fun acc k => acc ^^^ aesMul (m.getD ((k + 4 - r) % 4) 0) (s.getD (4 * c + k) 0)) 0#8

/-- One block encrypted under an expanded key. -/
def aesEncryptBlock (sb : List Byte) (w : List (List Byte)) (blk : List Byte) : List Byte :=
  let s0 := xorBytes blk (roundKey w 0)
  let s := (List.range 13).foldl
    (fun s i => xorBytes (mixColumns [2, 3, 1, 1] (shiftRows false (s.map (aesLook sb)))) (roundKey w (i + 1))) s0
  xorBytes (shiftRows false (s.map (aesLook sb))) (roundKey w 14)

/-- One block decrypted under an expanded key. -/
def aesDecryptBlock (isb : List Byte) (w : List (List Byte)) (blk : List Byte) : List Byte :=
  let s0 := xorBytes blk (roundKey w 14)
  let s := (List.range 13).foldl
    (fun s i => mixColumns [14, 11, 13, 9] (xorBytes ((shiftRows true s).map (aesLook isb)) (roundKey w (13 - i)))) s0
  xorBytes ((shiftRows true s).map (aesLook isb)) (roundKey w 0)

/-! ### Galois/Counter Mode (R154) -/

/-- The product of two blocks in the field of GHASH, bit 0 the most significant. -/
def ghashMul (x y : BitVec 128) : BitVec 128 :=
  ((List.range 128).foldl
    (fun (zv : BitVec 128 × BitVec 128) i =>
      let z := if x.getLsbD (127 - i) then zv.1 ^^^ zv.2 else zv.1
      let v := if zv.2.getLsbD 0 then (zv.2 >>> 1) ^^^ (BitVec.ofNat 128 (0xE1 * 2 ^ 120)) else zv.2 >>> 1
      (z, v)) (0, y)).1

/-- A byte string as blocks of 128 bits, the last padded with zero bytes. -/
def blocks128 : Nat → List Byte → List (BitVec 128)
  | 0, _ => []
  | n + 1, l => BitVec.ofNat 128 (beNat (padTo 16 (l.take 16))) :: blocks128 n (l.drop 16)

/-- GHASH under the hash key `h`. -/
def ghash (h : BitVec 128) (bs : List (BitVec 128)) : BitVec 128 := bs.foldl (fun y b => ghashMul (y ^^^ b) h) 0

/-- The key stream of `n` blocks from counter `c` on, after a 12 B IV. -/
def gcmStream (sb : List Byte) (w : List (List Byte)) (iv : List Byte) : Nat → Nat → List Byte
  | 0, _ => []
  | n + 1, c => aesEncryptBlock sb w (iv ++ natBe 4 c) ++ gcmStream sb w iv n (c + 1)

/-- The tag over an AAD and a ciphertext. -/
def gcmTag (sb : List Byte) (w : List (List Byte)) (iv aad ct : List Byte) : List Byte :=
  let h := BitVec.ofNat 128 (beNat (aesEncryptBlock sb w (List.replicate 16 0)))
  let lens := BitVec.ofNat 128 (8 * aad.length * 2 ^ 64 + 8 * ct.length)
  let s := ghash h (blocks128 (ceilDiv aad.length 16) aad ++ blocks128 (ceilDiv ct.length 16) ct ++ [lens])
  xorBytes (natBe 16 s.toNat) (aesEncryptBlock sb w (iv ++ natBe 4 1))

/-- The body sealed: its ciphertext, byte for byte from J0 + 1, and the 16 B tag (R154). -/
def gcmSeal (key iv aad body : List Byte) : List Byte × List Byte :=
  let sb := aesSboxTable
  let w := aesSchedule sb key
  let ct := xorBytes body (gcmStream sb w iv (ceilDiv body.length 16) 2)
  (ct, gcmTag sb w iv aad ct)

/-- The body opened: its plaintext and whether the tag verifies (R154). -/
def gcmOpen (key iv aad ct tag : List Byte) : List Byte × Bool :=
  let sb := aesSboxTable
  let w := aesSchedule sb key
  (xorBytes ct (gcmStream sb w iv (ceilDiv ct.length 16) 2), gcmTag sb w iv aad ct == tag)

/-- The 12 B IV of a record: session, partition and RECORD_NO, most significant byte first (R155). -/
def recordIv (session part block : Nat) : List Byte :=
  natBe 4 session ++ natBe 8 ((part % 64) * 2 ^ 58 + block % 2 ^ 58)

/-! ### AES key wrap (R160) -/

/-- One step of the unwrap of RFC 3394: `t` the step number, `i` the register index from 0. -/
def unwrapStep (isb : List Byte) (w : List (List Byte)) (a : List Byte) (r : List (List Byte)) (t i : Nat) :
    List Byte × List (List Byte) :=
  let b := aesDecryptBlock isb w (xorBytes a (natBe 8 t) ++ r.getD i [])
  (b.take 8, setAt r i (b.drop 8))

/-- The 32 B key inside a 40 B key-wrap blob, or nothing when the integrity check fails (R160). -/
def keyUnwrap (kek blob : List Byte) : Option (List Byte) :=
  if blob.length ≠ 40 then none
  else
    let w := aesSchedule aesSboxTable kek
    let isb := aesInvTable
    let r0 := (List.range 4).map fun i => slice blob (8 + 8 * i) 8
    let fin := (List.range 24).foldl
      (fun (ar : List Byte × List (List Byte)) k =>
        let t := 24 - k
        unwrapStep isb w ar.1 ar.2 t ((t - 1) % 4)) (blob.take 8, r0)
    if fin.1 = List.replicate 8 0xA6#8 then some fin.2.flatten else none

end Sys2Proof.Machine
end

