-- ==== Sys2Proof/Machine/State.lean ====
section
/-!
DEFINITION. The state of the K1024 as plain data, block by block in the order of the manual's chapters, and the
machine right after reset. Tables are sorted lists of (index, entry) that leave out entries equal to their default
(Sys2Proof/Machine/Bytes.lean). The reasons a step can stop are closed inductives; no meaning uses them, because the
manual gives every operation of its table an effect.
-/

namespace Sys2Proof.Machine

/-- Why the machine could stop with a fault. No command raises one: every error of the manual is a status, a counter,
an event or an interrupt (safe: nothing is claimed of it). -/
inductive Fault
  /-- An address that no unit of its memory class has; raised by nobody, kept so that the type is inhabited. Safe. -/
  | noSuchUnit
deriving DecidableEq, Repr

/-- Why a command could be refused. -/
inductive Refusal
  /-- A command whose meaning is not written yet, by mnemonic; raised by the arms of `exec` alone. Safe. -/
  | notModelled (mnemonic : String)
deriving DecidableEq, Repr

/-! ### Modes, resets and pins (chapters 2 and 19) -/

/-- The twelve major modes (R19). -/
inductive Mode
  | reset | fill | idle | thread | calibrate | locate | write | read | verify | erase | service | hold
deriving DecidableEq, Repr

/-- The STATE field of a unit that is shut down before it is enabled again (R49). -/
inductive UnitSt
  | stopped | starting | running | stopping
deriving DecidableEq, Repr

/-- STATE with the latch of R49, which holds the last enable or disable that came too early. -/
structure Unit_ where
  st    : UnitSt
  latch : Option Bool
deriving DecidableEq, Repr

/-- STATE of a crew roster entry (R43). -/
inductive CrewSt
  | active | spare | benched | sleeping
deriving DecidableEq, Repr

/-- One entry of the crew roster (R43), with the state a sleeping unit wakes to (R24). -/
structure Crew where
  st    : CrewSt
  cause : BitVec 4
  epoch : BitVec 16
  slept : CrewSt
deriving DecidableEq, Repr

/-- The power-loss record of R423. -/
structure LossRecord where
  tbWarn   : Time
  tbStored : Time
  lpos     : Word
  wrap     : Byte
  mode     : Byte
  flags    : Byte
  roster   : List Byte
  count    : Word
deriving DecidableEq, Repr

/-- A life-cycle change that a first request has armed (R40, R101): what the request asked for, which an identical one
repeats, and the arming instant. -/
structure Armed where
  target : BitVec 3
  auth   : List Byte
  at_    : Time
deriving DecidableEq, Repr

/-- A warm reset that has been requested (R37, R42, R403): the CAUSE code it leaves, and the cause of a further reset
that waits for a life-cycle change to finish. -/
structure ResetWait where
  cause : BitVec 3
  again : Option (BitVec 3)
deriving DecidableEq, Repr

/-- Modes, GL block and what the MRAM keeps for them (R19, R28, R36, R39, R423). -/
structure Global where
  cur       : Mode
  prev      : Mode
  phase     : BitVec 3
  cart      : Bool
  moving    : Bool
  patched   : Bool
  modeTs    : Time
  latched   : BitVec 7
  liveSheet : Bool
  liveFetch : Bool
  resetWait : Option ResetWait
  resetCause : BitVec 3
  locked    : Bool
  lc        : BitVec 3
  /-- life-cycle state that MRAM holds (R39) -/
  lcMram    : BitVec 3
  /-- target of a life-cycle change that is accepted and not finished (CHANGING) -/
  lcPending : Option (BitVec 3)
  armed     : Option Armed
  accErr    : Word
  lossCount : Word
  lossRec   : Option LossRecord
  /-- the wipe of a life-cycle change that a power loss cut short is due (R42) -/
  wipeDue   : Bool
deriving DecidableEq, Repr

/-- The crew: the roster, what MRAM keeps of it, its stale counters and the re-admissions that wait (R43 to R48). -/
structure CrewBlock where
  roster   : List (Nat × Crew)
  stored   : List (Nat × Crew)
  stale    : List (Nat × Word)
  epochs   : Nat
  /-- head modules whose serial changed and whose 384 zones have not been measured since (R48) -/
  changed  : BitVec 8
  dies     : List (Nat × Unit_)
  /-- TB at which the gate delay of an idle device runs out (R24), when it runs -/
  gateAt   : Option Time
deriving DecidableEq, Repr

/-! ### Host queues and commands (chapters 3, 4 and 5) -/

/-- One entry of the allotment window (R55). -/
structure Allot where
  qcount   : Nat
  keyBase  : Nat
  keyCount : Nat
  vectors  : Nat
  inflRes  : Nat
  weight   : Nat
deriving DecidableEq, Repr

/-- The HQ registers of one function (R71). -/
structure HqFn where
  en      : Bool
  unit    : Unit_
  err     : Bool
  aqSize  : Word
  asqBase : DWord
  acqBase : DWord
  aqVec   : Word
  dbErrs  : BitVec 16
  dbErrId : BitVec 16
deriving DecidableEq, Repr

/-- One submission queue (R57, R67, R72, R73). -/
structure Sq where
  unit   : Unit_
  halted : Bool
  base   : DWord
  depth  : Nat
  head   : Nat
  tail   : Nat
  cqid   : Nat
  weight : Nat
  bell   : Word
deriving DecidableEq, Repr

/-- One completion queue (R57, R63, R64, R70). -/
structure Cq where
  unit   : Unit_
  base   : DWord
  depth  : Nat
  head   : Nat
  tail   : Nat
  phase  : Bool
  bell   : Word
deriving DecidableEq, Repr

/-- Where a fetched command stands. -/
inductive Stage
  /-- fetched, its checks passed, its work not done (R83) -/
  | ready
  /-- an APPEND that waits for staging space (R258) -/
  | waiting
  /-- held by a PARTITION or a long or sanitising ERASE (R93, R424) -/
  | held
  /-- in the tape queue of R114 -/
  | queued
  /-- chosen from the tape queue -/
  | chosen
  /-- an APPEND whose staging space is granted and whose data is in staging (R106, R258) -/
  | staged
  /-- an APPEND past its acceptance point (R106) -/
  | accepted
  /-- past its point of no return (R119) -/
  | running
  /-- a long or sanitising ERASE that a HOLD entry paused (R92) -/
  | paused
  /-- an ABORT that waits for its target to be fetched (R120) -/
  | abortWait
  /-- an ABORT that waits for its target's own completion (R120) -/
  | abortOwn
deriving DecidableEq, Repr

/-- A command in flight (R66): its place, its entry, its fetch order and instant, and its progress. -/
structure InFlight where
  ref    : CmdRef
  slot   : Nat
  entry  : BitVec 512
  order  : Nat
  tb     : Time
  stage  : Stage
  /-- first assigned block of an accepted APPEND, next undelivered block of a READ or VERIFY -/
  first  : Nat
  /-- records of an accepted APPEND, records delivered of a READ or VERIFY -/
  count  : Nat
  /-- bytes in the stream of an accepted APPEND, bytes delivered of a READ -/
  bytes  : Nat
  /-- the plain records of an APPEND in staging, in block-number order; the plain runs of a READ or VERIFY record -/
  recs   : List (List Byte)
  /-- data pointer of the command as read from host memory -/
  segs   : List SgSeg
  /-- body in the clear of the READ or VERIFY record under way -/
  body   : Option (List Byte)
  /-- a cipher pair or engine works on the READ or VERIFY record under way, or waits to -/
  busy   : Bool
  /-- status at which the READ or VERIFY stops, found by a cipher pair or engine -/
  stop   : Option Nat
  /-- TB of entry for a HOLD_ENTER, arming and other instants -/
  mark   : Time
deriving DecidableEq, Repr

/-- The turn of the weighted round robin of R75: whose turn it is and how many entries are left of it. -/
structure Turn where
  adminNext : Nat
  fn        : Nat
  fnLeft    : Nat
  sqNext    : List (Nat × Nat)
  sqLeft    : Nat
deriving DecidableEq, Repr

/-- The task registers (R78 to R80) and the board bus (R81, R419). -/
structure Task where
  cmd     : Byte
  busy    : Bool
  /-- an accepted command waits behind BUSY for a firmware activation to end (R126) -/
  held    : Bool
  overrun : Bool
  source  : BitVec 2
  ehold   : Bool
  seq     : Byte
  result  : Word
  args    : List (Nat × Word)
  data    : List (Nat × Byte)
  pecErrs : Word
  /-- I3C until the first transaction after reset is an SMBus transaction -/
  smbus   : Option Bool
  dynAddr : Option (BitVec 7)
deriving DecidableEq, Repr

/-- One lost range (R128, R129). -/
structure Lost where
  fn    : Fn
  part  : Nat
  first : Nat
  count : Nat
deriving DecidableEq, Repr

/-- A FLUSH in progress, or the flush of another command: the flush point is the acceptance sequence number before
which every block is covered (R115), with the ranges lost under it (R130). -/
structure FlushRun where
  ref    : CmdRef
  point  : Nat
  losses : List Lost
deriving DecidableEq, Repr

/-- Firmware activation as a barrier (R126). -/
structure Activation where
  ref    : CmdRef
  since  : Time
  swapAt : Option Time
deriving DecidableEq, Repr

/-- Queues, doorbells, commands in flight, ordering and deferred errors (chapters 3 to 5). -/
structure Hq where
  allot    : List (Nat × Allot)
  allotErr : Word
  fns      : List (Nat × HqFn)
  sqs      : List (Nat × Sq)
  cqs      : List (Nat × Cq)
  turn     : Turn
  inflight : List InFlight
  fetched  : Nat
  vfEnable : Bool
  act      : Option Activation
  flushes  : List FlushRun
  lost     : List Lost
deriving DecidableEq, Repr

/-- Parameters (R95): current values, and the values that the MRAM customer area holds, by identifier * 64 + target. -/
structure Params where
  cur    : List (Nat × Nat)
  stored : List (Nat × Option Nat)
deriving DecidableEq, Repr

/-! ### Record streams, engines, keys and volume (chapters 6, 7 and 8) -/

/-- What an element of a partition's stream is (R132, R86, R108). -/
inductive ElemKind
  | record
  | mark (value : BitVec 16)
  | void
deriving DecidableEq, Repr

/-- One element of a partition's record stream whose data sets are not all settled. `bytes` is a finished record element
whole; `placed` says that R194 has given it its entry, `packed` how many of its bytes lie in assembled data sets. -/
structure Element where
  block : Nat
  fn    : Fn
  seq   : Nat
  kind  : ElemKind
  done  : Bool
  lost  : Bool
  placed : Bool
  packed : Nat
  bytes : List Byte
  /-- staging pages that hold the element, and its byte offset from the start of the first of them -/
  pages : List Nat
  off   : Nat
  /-- length of the whole element -/
  size  : Nat
deriving DecidableEq, Repr

/-- A close point of R14 that is fixed: every element with an acceptance number below `seq` lies before it; `code` is
the CLOSE code of R192. -/
structure ClosePoint where
  seq  : Nat
  code : Nat
  /-- session value of a session end (R197) -/
  session : Nat
deriving DecidableEq, Repr

/-- A block of the stream with its owner and place in the acceptance order, voided or not. -/
structure Owned where
  block : Nat
  fn    : Fn
  seq   : Nat
  void  : Bool
deriving DecidableEq, Repr

/-- One data set (R192, R196, R197): what its frames carry and which blocks it places. -/
structure DataSet where
  part    : Nat
  dsn     : Nat
  kind    : Nat
  session : Nat
  first   : Nat
  next    : Nat
  contLen : Nat
  close   : Nat
  spanP   : Nat
  spanAt  : Nat
  payload : List Byte
  owned   : List Owned
  carried : List (Nat × Nat)
deriving DecidableEq, Repr

/-- Where a data set of the partition lies on tape, as a path position in units of 10 nm from the start of wrap 0, and
what its directory says. -/
structure Placed where
  dsn     : Nat
  at_     : Nat
  kind    : Nat
  session : Nat
  first   : Nat
  next    : Nat
  contLen : Nat
deriving DecidableEq, Repr

/-- One partition of the loaded volume: its range (R178), what housekeeping last recorded of its end (R200), its stream,
its session (R157), the lost ranges that wait for a data set and those on tape (R195), its next data set with its path
position, its open span (R196), and the data sets on tape. -/
structure Part where
  start    : Nat
  end_     : Nat
  eodPsa   : Nat
  eodDsn   : Nat
  base     : Nat
  next     : Nat
  session  : Option Nat
  elems    : List Element
  closes   : List ClosePoint
  carried  : List (Nat × Nat)
  gone     : List (Nat × Nat)
  dsn      : Nat
  spanAt   : Nat
  spanP    : Nat
  span     : List (List Byte)
  placed   : List Placed
  at_      : Nat
deriving DecidableEq, Repr

/-- The loaded volume (R92, R157, R200): `hkPsa` is the path slot at which the next housekeeping generation begins. -/
structure Volume where
  loaded   : Bool
  serial   : DWord
  hwm      : Nat
  nextSess : Nat
  count    : Nat
  gen      : Nat
  hkPsa    : Nat
  delta    : List (Nat × Byte)
  parts    : List (Nat × Part)
  accepted : Nat
  unloadAt : Option Nat
deriving DecidableEq, Repr

/-- One compression run waiting for an engine or on one (R147, R148, R152). -/
structure Run where
  ref    : CmdRef
  order  : Nat
  recNo  : Nat
  run    : Nat
  decomp : Bool
  input  : List Byte
  /-- the record came from tape, not from staging or the read cache (R152) -/
  tape   : Bool
  /-- epoch of the engine when it took the run (R44) -/
  epoch  : BitVec 16
  /-- engines whose attempt at this run failed its comparison or check, oldest first -/
  tried  : List Nat
  live   : Bool
deriving DecidableEq, Repr

/-- The compression engine pool (R147 to R150). -/
structure Engines where
  waiting  : List Run
  busy     : List (Nat × Run)
  nextKind : Bool
  frames   : List (CmdRef × Nat × Nat × List Byte)
  idleSaid : Bool
deriving DecidableEq, Repr

/-- State of a key slot (R161). -/
inductive KeySt
  | never | loaded | erased
deriving DecidableEq, Repr

/-- One key slot (R161): state, generation, key and captured copies. -/
structure KeySlot where
  st   : KeySt
  gen  : BitVec 16
  key  : List Byte
deriving DecidableEq, Repr

/-- A record at a cipher pair or waiting for one (R162, R172 to R174). -/
structure CipherRec where
  ref    : CmdRef
  part   : Nat
  block  : Nat
  sealing : Bool
  header : List Byte
  body   : List Byte
  tag    : List Byte
  slot   : Nat
  /-- captured key while the record runs -/
  key    : List Byte
  /-- epoch of the pair when it took the record (R44) -/
  epoch  : BitVec 16
  /-- pair of the first attempt, when that mismatched -/
  first  : Option Nat
deriving DecidableEq, Repr

/-- Cipher block: slots, key-encryption keys, fault counters, pairs and the DRBG (chapter 7). -/
structure Cipher where
  slots    : List (Nat × KeySlot)
  keks     : List (Nat × List Byte)
  faults   : List (Nat × Word)
  waiting  : List CipherRec
  busy     : List (Nat × CipherRec)
  nextOpen : Bool
  idleSaid : Bool
  seeded   : Bool
  health   : Bool
  reseeds  : BitVec 16
deriving DecidableEq, Repr

/-! ### Writing, verify and rewrites (chapter 9) -/

/-- The verify and benching thresholds in force for a block (R225). -/
structure Limits where
  weakLlr : Nat
  weakMax : Nat
  failRun : Nat
  failWin : Nat
deriving DecidableEq, Repr

/-- A frame copy whose verify result is awaited (R212, R214, R217): a filler, or the copy of a codeword that is no longer
wanted, has CW 8,191. `block` is the DSN of the block that carries it. -/
structure Copy where
  id       : Nat
  dsn      : Nat
  cw       : Nat
  block    : Nat
  row      : Nat
  track    : Nat
  elem     : Nat
  first    : Time
  window   : Nat
  limits   : Limits
  /-- the frame counts toward the benching statistics of its channel (R214, R222, R282, R325) -/
  counts   : Bool
  /-- the frame's verify data is discarded: it fails whatever is observed -/
  doomed   : Bool
  /-- the frame was written while its lane was not active (R325) -/
  lane     : Bool
  /-- TB of the frame's last bit, and whether a closed write gate cut the frame or kept it from being written (R282) -/
  last     : Time
  gated    : Bool
deriving DecidableEq, Repr

/-- One entry of the rewrite queue (R215): the track whose copy failed, and whether that copy was written while its lane
was not active (R325). -/
structure Rewrite where
  tb    : Time
  dsn   : Nat
  cw    : Nat
  track : Nat
  lane  : Bool
deriving DecidableEq, Repr

/-- A data set of the burst: its attempt, the path position of its row 0, its rewrites in this attempt and the codewords
that have a passing copy (R216, R217). -/
structure SetRun where
  set      : DataSet
  attempt  : Nat
  at_      : Nat
  rewrites : Nat
  passed   : List Nat
  failed   : Bool
deriving DecidableEq, Repr

/-- The block being written (R188, R216, R222): its ordinal in the burst, its own data set with its ATTEMPT, rows
dispatched, whether its separator is dispatched, track map and thresholds, and the path position of its row 0 in units of
10 nm. -/
structure Block where
  ord    : Nat
  set    : DataSet
  attempt : Nat
  rows   : Nat
  sep    : Bool
  map    : List Nat
  limits : Limits
  at_    : Nat
deriving DecidableEq, Repr

/-- Verify statistics of one element channel (R221, R223, FM_ELEM). -/
structure ElemStat where
  fails    : BitVec 16
  run      : Nat
  window   : List Bool
  degraded : Bool
deriving DecidableEq, Repr

/-- The write side of the tape path (chapters 8 and 9). -/
structure Writer where
  part     : Option Nat
  ord      : Nat
  block    : Option Block
  sets     : List SetRun
  /-- data sets to be written again, in DSN order, each with its ATTEMPT (R218, R180) -/
  again    : List (Nat × DataSet)
  /-- assembled data sets waiting for their block: span parity and end-of-data sets behind the last one -/
  images   : List DataSet
  queue    : List Rewrite
  copies   : List Copy
  nextCopy : Nat
  /-- element channel that carries each logical track, where it differs from the fresh map (R183, R222) -/
  map      : List (Nat × Nat)
  ending   : Bool
  wrap     : Nat
  pos      : Nat
  elems    : List (Nat × ElemStat)
  rows256  : List (Nat × Nat)
deriving DecidableEq, Repr

/-- FM error-correction and verify registers (R225). -/
structure FmRegs where
  ecc     : Word
  vfy     : Word
  bench   : Word
  vfyFail : Word
  vfyLate : Word
  rewrites : Word
  wset    : Word
  c2Stat  : Word
  c3Stat  : Word
deriving DecidableEq, Repr

/-! ### Read channel (chapter 10) -/

/-- The tentative detector of one front end (R237): path metrics and surviving decisions, newest first. -/
structure Tentative where
  metric : List Int
  path   : List (List Bool)
deriving DecidableEq, Repr

/-- Refinement sums of one channel and zone (R233). -/
structure RefSums where
  frames : Nat
  n      : Nat
  sumH   : Int
  sumAbs : Int
  posN   : Nat
  posSum : Int
  negN   : Nat
  negSum : Int
deriving DecidableEq, Repr

/-- The front end of one element channel (R235 to R243). -/
structure FrontEnd where
  /-- FM_RC_CTL, FM_RC_SYNC and FM_RC_TIMING as the search window under way took them (R254) -/
  ctl    : Word
  sync   : Word
  timing : Word
  /-- zone of the frame under way with its entry, and its target set as the frame took it (R231, R254) -/
  zone   : Nat
  entry  : List Byte
  target : List Byte
  /-- int24 accumulators of the equaliser (R236) -/
  acc    : List Int
  /-- h and y, newest first, and the number of samples taken -/
  hs     : List Int
  ys     : List Int
  n      : Nat
  phi    : Nat
  step   : Int
  tent   : Tentative
  /-- z_k and n_k of the bit instants, and the decided magnetisations, newest first -/
  insts  : List (Int × Nat)
  mags   : List Bool
  /-- bit instants so far -/
  idx    : Nat
  /-- first bit of the frame behind, prediction, row counter, and how far the frame under way has come: 0 before its
  window, 1 window open, 2 window closed, 3 frame taken and voted -/
  last   : Option Nat
  pred   : Nat
  row    : Nat
  stage  : Nat
  /-- found mark of the frame under way -/
  mark   : Option Nat
  adapt  : Bool
  /-- bit index up to which the acquisition gains hold (R238) -/
  acqTo  : Nat
  run    : Nat
  los    : Bool
  /-- reading track of this block's earlier counted nominal rows (R241) -/
  track  : Option Nat
  /-- sums of h over the samples of the frame under way (R233) -/
  sums   : RefSums
deriving DecidableEq, Repr

/-- One alignment of a frame that an engine may try (R242): its first bit, its header, whether it is an alternative, the
magnetisations at the last header bit, newest first, and the samples of the payload bits. -/
structure FrameTrial where
  at_    : Nat
  header : BitVec 64
  alt    : Bool
  start  : List Bool
  soft   : List Int
deriving DecidableEq, Repr

/-- A frame waiting for a decode engine or on one (R242, R249): its channel, the TB of its last sample, the copy it
verifies, its zone entry and taps, its alignments in order, whether a mark was found, the sums over its samples (R233),
and what it took when an engine took it: the engine's epoch, FM_ECC_CTL, SYND_MAX and a cut budget. -/
structure FrameJob where
  channel : Nat
  tb      : Time
  verify  : Option Nat
  zone    : Nat
  entry   : List Byte
  taps    : List Int
  trials  : List FrameTrial
  found   : Bool
  sums    : RefSums
  epoch   : BitVec 16
  ecc     : Word
  synd    : Nat
  cut     : Bool
deriving DecidableEq, Repr

/-- What reading has gathered of one data set (R211). -/
structure Gather where
  part   : Nat
  dsn    : Nat
  kind   : Nat
  cws    : List (Nat × List Byte)
  /-- re-reads so far, whether the present pass has reached the data set, and whether its span is being read (R211) -/
  reread : Nat
  seen   : Bool
  span   : Bool
deriving DecidableEq, Repr

/-- A channel's vote on the frame where a separator is expected (R239), with the first bit of that frame. -/
structure Vote where
  channel : Nat
  at_     : Nat
  sep     : Bool
deriving DecidableEq, Repr

/-- What a channel reported of row 0 (R241): the tuple of its frame header where a header passed. -/
structure RowZero where
  channel : Nat
  tuple   : Option (Nat × Nat × Nat)
deriving DecidableEq, Repr

/-- A data set in the read cache: its payload with the bytes still unknown (R210, R257). -/
structure Cached where
  part    : Nat
  dsn     : Nat
  kind    : Nat
  payload : List (Option Byte)
  /-- TB of the last use (R257), and whether a READ has had a record of it (R267) -/
  used    : Nat
  given   : Bool
deriving DecidableEq, Repr

/-- The read channel (chapter 10). -/
structure ReadCh where
  ctl     : Word
  sync    : Word
  timing  : Word
  ref     : Word
  queueR  : Word
  coast   : Word
  alt     : Word
  los     : Word
  cut     : Word
  peak    : List (Nat × Nat)
  ztSel   : Word
  targets : List (Nat × Byte)
  head    : List (Nat × Byte)
  working : List (Nat × List Byte)
  /-- refined entries as Coxswain collects them, by 384 * channel + zone (R233, R234) -/
  kept    : List (Nat × List Byte)
  sums    : List (Nat × RefSums)
  fronts  : List (Nat × FrontEnd)
  queues  : List (Nat × List FrameJob)
  engines : List (Nat × FrameJob)
  cutting : BitVec 4
  tuple   : List (Nat × (Nat × Nat × Nat))
  /-- votes of a module's channels on the separator (R239) -/
  votes   : List (Nat × List Vote)
  /-- what a die's channels reported of row 0 (R241) -/
  tupleIn : List (Nat × List RowZero)
  /-- row-0 frames that a die holds until its tuple is fixed -/
  held    : List (Nat × List FrameJob)
deriving DecidableEq, Repr

/-- Reading a volume: gathered data sets, the read cache, and the last position at which a header decoded (R253). -/
structure Reader where
  gathers  : List Gather
  cache    : List Cached
  /-- path position of the last header that decoded (R253) -/
  lastHdr  : Nat
  /-- path position from which the tape is blank (R253) -/
  blankAt  : Option Nat
  /-- target of the move under way: path position, and the fetch order of its command, 0 for a write session -/
  locate   : Option (Nat × Nat)
deriving DecidableEq, Repr

/-! ### Speed matching (chapter 11) -/

/-- The backhitch of R265. -/
inductive Hitch
  | none | stopping | waiting
deriving DecidableEq, Repr

/-- Write staging of one APPEND (R256): its pages, the bytes it holds of the staging space, and, once it is past its
acceptance point, the records whose elements it still keeps: partition, block, bytes. -/
structure Grant where
  ref      : CmdRef
  pages    : List Nat
  bytes    : Nat
  accepted : Bool
  recs     : List (Nat × Nat × Nat)
deriving DecidableEq, Repr

/-- Speed matching (chapter 11). -/
structure Speed where
  quota    : List (Nat × Nat)
  ctl      : Word
  resume   : Word
  buf      : Word
  reef     : Nat
  ramp     : Bool
  trim     : Int
  readSide : Bool
  hitch    : Hitch
  /-- the backhitch under way follows the loss of a lane (R325) -/
  laneStop : Bool
  resumeK  : Nat
  count    : Word
  demand   : List (Nat × Nat)
  /-- packable bytes of a partition at the last millisecond, less the bytes assembled since (R260) -/
  inMs     : List (Nat × Int)
  grants   : List Grant
  readStop : Bool
  /-- stream bytes delivered to READs, with their TB, newest first (R267) -/
  consumed : List (Nat × Nat)
  /-- rate word sent to the heads last (R316) -/
  rateSent : Nat
deriving DecidableEq, Repr

/-! ### Servo (chapter 12) -/

/-- State of a servo reader (R283). -/
inductive RdState
  | idle | acquire | track | lost
deriving DecidableEq, Repr

/-- One servo reader and its processor (R270 to R276, R283). Times are in subsamples of 1/64 sample on the TB origin. -/
structure ServoRd where
  st       : RdState
  known    : Bool
  dir      : Bool
  seq      : BitVec 16
  y        : Int
  /-- LPOS of the last frame reference point, and its time t_m -/
  lpos     : Nat
  tm       : Nat
  vel      : Int
  ts       : Time
  miss     : Word
  /-- consecutive valid samples in ACQUIRE and LOST, consecutive misses in TRACK -/
  run      : Nat
  lostN    : Nat
  peaks    : List Nat
  /-- samples since the armed positive peak at least, newest first, with the time and the index of the newest -/
  wave     : List Int
  waveAt   : Nat
  sidx     : Nat
  armed    : Option Nat
  /-- crossing times not yet taken into a burst, oldest first -/
  cross    : List Nat
  /-- the last bursts, newest first: 0 A to 3 D, the stripe times by stripe index, none for an invalid burst, and the
  scale of the band at the opening of its window -/
  bursts   : List (Nat × Option (List Nat) × Word)
  nextB    : Nat
  winFrom  : Nat
  winTo    : Nat
  /-- interval of the last two frames, and t_m of the frame just before where it has one -/
  ival     : Nat
  prevTm   : Option Nat
  /-- SV_AZK of the reader's band and SV_CTL as the open or coming window takes them (R288) -/
  kb       : Word
  ctl      : Word
  preds    : List (Nat × (Nat × Nat))
  /-- shifts of the frames of the word being collected, newest first: none for a sync frame -/
  word     : List (Option Bool)
  /-- difference from the frame count at which the last accepted word disagreed with it (R271) -/
  agree    : Option Int
  /-- sample AB or CD given (some) or missed (none) since the combiner took it last -/
  giveAB   : Option (Option Int)
  giveCD   : Option (Option Int)
deriving DecidableEq, Repr

/-- One module of the combiner (R277, R282, R284). -/
structure ServoMod where
  y       : Int
  err     : Int
  held    : Int
  m       : Int
  /-- TB at which the mismatch was measured last -/
  mAt     : Option Time
  single  : Bool
  gate    : Bool
  seq     : BitVec 16
  ts      : Time
  valid   : Bool
  /-- |e_k| of the last module samples that kept the gate conditions, newest first (R282) -/
  good    : List Nat
  off     : Nat
  lostAt  : Option Time
  closing : Option Time
  /-- SV_LIMIT and SV_WI as the frame under way takes them (R288) -/
  limit   : Word
  wi      : Word
deriving DecidableEq, Repr

/-- The servo block (chapter 12). -/
structure Servo where
  ctl     : Word
  loss    : Word
  limit   : Word
  wi      : Word
  wiCount : Word
  wordErr : Word
  y0      : List (Nat × Word)
  azk     : List (Nat × Word)
  reelK   : Word
  rad0    : Word
  rad1    : Word
  rds     : List (Nat × ServoRd)
  mods    : List (Nat × ServoMod)
  skew    : Int
  mbar    : Int
  speed   : Int
  speedAt : Option Time
  /-- the coarse loop runs on its second slot, in a fast LOCATE (R280) -/
  fast    : Bool
  /-- servo-loss conditions of R284 that hold now -/
  bad     : List ServoLoss
  wrap    : Nat
deriving DecidableEq, Repr

/-! ### Trim engine (chapter 13) -/

/-- A coefficient pair (R293). -/
structure Coef where
  value : Word
  shift : Nat
deriving DecidableEq, Repr

/-- The coefficients of one section (R297). -/
structure SectRegs where
  en : Bool
  b0 : Coef
  b1 : Coef
  b2 : Coef
  a1 : Coef
  a2 : Coef
deriving DecidableEq, Repr

/-- The history of one section (R297). -/
structure SectHist where
  x1 : Int
  x2 : Int
  y1 : Int
  y2 : Int
deriving DecidableEq, Repr

/-- The set-point ramp registers of a slot (R298, R303). -/
structure RampRegs where
  tgt   : Word
  slew  : Word
  jerk  : Word
  hslew : Word
  hjerk : Word
deriving DecidableEq, Repr

/-- The gains of a slot (R296, R299). -/
structure Gains where
  kp  : Coef
  ki  : Coef
  kd  : Coef
  kaw : Coef
  kff : Coef
  kl  : Coef
deriving DecidableEq, Repr

/-- What a computation latches of its slot's registers (R291). -/
structure SlotRegs where
  ctl   : Word
  src0  : Word
  src1  : Word
  out   : Word
  safe  : Word
  omin  : Word
  omax  : Word
  imin  : Word
  imax  : Word
  ramp  : RampRegs
  gains : Gains
  rcCtl : Word
  rcLen : Word
  rcQ   : Word
  sects : List SectRegs
deriving DecidableEq, Repr

/-- What a slot computes on and shows (R296, R298, R300 to R302). -/
structure SlotVals where
  hist   : List SectHist
  integ  : Int
  ePrev  : Int
  rampSp : Int
  rate   : Int
  y      : Int
  table  : List (Nat × Int)
  rcAddr : Nat
  capA   : Int
  capB   : Int
  /-- ramp output after the last completed computation -/
  spOut  : Int
deriving DecidableEq, Repr

/-- The inputs a computation latches at its start (R291, R306). -/
structure Latched where
  regs   : SlotRegs
  vals   : SlotVals
  m      : Int
  f      : Int
  s1     : Int
  s2     : Int
  injSp  : Int
  injErr : Int
  injOut : Int
  bin    : Option Nat
  hold   : Bool
  /-- latched with the Telltale shutting down: the injection is zero (R308) -/
  quiet  : Bool
deriving DecidableEq, Repr

/-- One loop slot (chapter 13). -/
structure Slot where
  regs     : SlotRegs
  vals     : SlotVals
  unit     : Unit_
  /-- the next computation is the first after a start (R300) -/
  fresh    : Bool
  frozen   : Bool
  clampOut : Bool
  clampInt : Bool
  ovrRun   : Nat
  seq      : BitVec 16
  sat      : Bool
  overrun  : Bool
  ovr      : Word
  /-- TB and count of the due boundary whose computation is under way or was the last -/
  dueTb    : Time
  dueCnt   : Nat
  run      : Option Latched
deriving DecidableEq, Repr

/-- The Trim engine (R289 to R305). -/
structure Trim where
  stroke  : Word
  cnt     : DWord
  tb      : Time
  page    : Bool
  swap    : Option (Nat × Nat × Bool)
  swapReg : Word
  finesp0 : Word
  finesp1 : Word
  lane    : BitVec 16
  ovrAny  : DWord
  satAny  : DWord
  consts  : List (Nat × Word)
  slots   : List (Nat × Slot)
  ready   : List Nat
  /-- slots due at this boundary that wait for lower-numbered slots, with those slots (R290) -/
  waiting : List (Nat × List Nat)
  due     : List Nat
  holdOn  : Bool
deriving DecidableEq, Repr

/-- One Telltale generator (R306): registers and progress. -/
structure Gen where
  ctl     : Word
  amp     : Word
  freq    : Word
  freqEnd : Word
  sweep   : Word
  seed    : Word
  holdN   : Word
  phase   : Word
  freqNow : Word
  lfsr    : BitVec 31
  held    : Nat
  done    : Bool
deriving DecidableEq, Repr

/-- The Telltale (R306 to R308). -/
structure Telltale where
  unit : Unit_
  gens : List (Nat × Gen)
  caps : List (Nat × Word)
  /-- injected slots that have not had a due boundary since TELLTALE_STOP (R308) -/
  left : List Nat
  /-- the TELLTALE_STOP command that waits for the shut-down to end (R99) -/
  stop : Option CmdRef
deriving DecidableEq, Repr

/-! ### Shroud Link and Sheet Port (chapter 14) -/

/-- LSTATE of a lane (R322). -/
inductive LaneSt
  | down | training | up | lost
deriving DecidableEq, Repr

/-- One Shroud lane (R319, R322, R323). The last sessions are kept with the epochs of the lane's units under them. -/
structure Lane where
  st      : LaneSt
  phase   : BitVec 3
  session : BitVec 12
  losses  : Nat
  corr    : Word
  unc     : Word
  stale   : Word
  hist    : List (BitVec 12 × List (Nat × BitVec 16))
deriving DecidableEq, Repr

/-- One head module (R320, R321). -/
structure Head where
  serial   : DWord
  valid    : Bool
  changed  : Bool
  noAnswer : Bool
  record   : List Byte
  /-- serial held in MRAM head calibration -/
  stored   : DWord
deriving DecidableEq, Repr

/-- The Shroud Link block. -/
structure Shroud where
  ctl     : Word
  hrecSel : Nat
  lanes   : List (Nat × Lane)
  heads   : List (Nat × Head)
  /-- bytes of head records received in status cells, by lane * 2048 + offset -/
  status  : List (Nat × Byte)
deriving DecidableEq, Repr

/-- One reel encoder (R334): accepted levels, count, and the accepted edges with their stamps, newest first. -/
structure Enc where
  cpr   : Word
  a     : Bool
  b     : Bool
  count : Int
  idx   : Bool
  edges : List (Time × Int)
  /-- count before the oldest edge that is kept -/
  base  : Int
deriving DecidableEq, Repr

/-- The Sheet Port block (R326 to R337). -/
structure Sheet where
  ctl    : Word
  sync   : BitVec 24
  err    : Word
  gpi    : Word
  deb    : List (Nat × Word)
  encs   : List (Nat × Enc)
  encCtl : Word
  encErr : Word
  meas   : List (Nat × Int)
  cal    : List (Nat × Word)
  nom    : List (Nat × Coef)
  cmd    : List (Nat × Word)
  allUp  : Option Time
deriving DecidableEq, Repr

/-! ### Interrupts and spill queues (chapter 15) -/

/-- One interrupt source (R341 to R346). -/
structure Src where
  sense    : Nat
  vector   : Nat
  masked   : Bool
  count    : Nat
  insvc    : Bool
  looked   : Bool
  line     : Bool
  edges    : Word
  vanished : BitVec 16
deriving DecidableEq, Repr

/-- IC registers of one function. -/
structure IcFn where
  en    : Bool
  nogrp : Bool
  sel   : Nat
  vsel  : Nat
deriving DecidableEq, Repr

/-- The interrupt controller. Sources are listed by function * 16384 + local number, vectors by function * 2048 +
vector; the fast sources by number. -/
structure Ic where
  fns      : List (Nat × IcFn)
  srcs     : List (Nat × Src)
  holdoff  : List (Nat × Nat)
  holdEnd  : List (Nat × Nat)
  lastGrp  : Nat
  fastEn   : Bool
  alertEn  : Bool
  fast     : List (Nat × Src)
  fHoldoff : Nat
  fHoldEnd : Nat
  /-- MSI-X table words, by (function * 2048 + vector) * 4 + word -/
  msix     : List (Nat × Word)
  fmask    : List (Nat × Bool)
  pba      : List (Nat × Bool)
deriving DecidableEq, Repr

/-- Tag of an item's first word (R351). -/
inductive ItemKind
  | data | gap | mark
deriving DecidableEq, Repr

/-- A complete item in a spill queue with the TB at which it became complete. -/
structure Item where
  kind  : ItemKind
  words : List DWord
  at_   : Time
deriving DecidableEq, Repr

/-- One spill queue (R351 to R358). -/
structure Spill where
  idle    : Nat
  idleNow : Nat
  unit    : Unit_
  halted  : Bool
  base    : DWord
  size    : Nat
  head    : Nat
  tail    : Nat
  seq     : BitVec 16
  phase   : Bool
  drop    : Word
  flushed : Word
  items   : Word
  queue   : List Item
  part    : Option (List DWord)
  /-- complete items in the queue when a flush was requested, and whether it is a pushing flush (R356, R357) -/
  flush   : Option (Nat × Bool)
  gapOpen : Bool
  gapHeld : Option (Nat × Time)
  /-- a pushing flush has placed its mark and the SHORT batch that ends with it is not written (R357) -/
  pushing : Bool
deriving DecidableEq, Repr

/-- Event logs beside their queues: SEQ of each function (R359), recent items for log 0x01 (R361), and FLR summaries
that wait for the queue to start (R124). -/
structure Events where
  seq     : List (Nat × Word)
  recent  : List (Nat × List (List DWord))
deriving DecidableEq, Repr

/-! ### Memory integrity (chapter 16) -/

/-- One injector (R378). -/
structure Inject where
  mask  : BitVec 288
  addr  : BitVec 40
  addrHi : BitVec 24
  armed : Bool
deriving DecidableEq, Repr

/-- Memory integrity (chapter 16). Units are listed by class * 2^40 + address with all their stored bits, data below
check bits; a unit not listed holds zero data with valid check bits. -/
structure Mem where
  ctl      : Word
  pos      : List (Nat × Nat)
  passed   : List (Nat × Nat)
  passes   : BitVec 16
  corr     : List (Nat × Word)
  unc      : List (Nat × Word)
  poison   : List (Nat × Word)
  wbdrop   : Word
  thresh   : List (Nat × Word)
  ffault   : BitVec 64
  log      : List (DWord × DWord)
  logN     : Nat
  inj      : List (Nat × Inject)
  units    : List (Nat × BitVec 288)
  injected : List Nat
  seen     : List (Nat × Nat)
  remapped : List (Nat × Nat)
  fullSaid : List Nat
  handled  : List Nat
  traps    : List Nat
deriving DecidableEq, Repr

/-! ### Security (chapter 17) -/

/-- One SPDM connection (R384 to R386): its state and its transcripts. -/
structure Spdm where
  st    : Nat
  vca   : List Byte
  msgB  : List Byte
  msgL  : List Byte
  /-- DataTransferSize of the requester, the longest response it takes in one piece -/
  limit : Nat
  /-- a request whose signature is being computed: the bytes of the response without it, and the transcript to sign -/
  wait  : Option (List Byte × List Byte)
deriving DecidableEq, Repr

/-- An operation of the RSA engine (R388): its class, which serves 0 before 1 before 2, and what it is for. -/
inductive RsaJob
  | kek (ref : CmdRef) (blob : List Byte)
  | bundle (ref : CmdRef) (bytes : List Byte)
  | auth (ref : Option CmdRef) (target : BitVec 3) (bytes : List Byte)
  | unlock (bytes : List Byte)
  | spdm (conn : SpdmConn)
deriving DecidableEq, Repr

/-- The security block and patch store (chapter 17). -/
structure Sec where
  idKey    : Bool
  xport    : Bool
  chain    : Bool
  jtagOpen : Bool
  authFail : Word
  nonce    : List Byte
  rollback : Nat
  active   : List Byte
  pend     : List Byte
  patchRam : List Byte
  runVer   : Nat
  partial_ : Option (List Byte)
  cause    : Nat
  causeTb  : Time
  doe      : Spdm
  task     : Spdm
  doeResp  : Option (List Byte)
  rsa      : Option RsaJob
  rsaWait  : List RsaJob
  calWrites : Nat
  wiped    : Bool
deriving DecidableEq, Repr

/-! ### Pins, clocks and temperatures (chapter 19) -/

/-- Pins, straps, clocks and temperatures. -/
structure Pins where
  perstN   : Bool
  holdInN  : Bool
  pwrWarnN : Bool
  addrSel  : BitVec 2
  pllLost  : Bool
  supply   : Bool
  hot      : Bool
  thermal  : Bool
  temps    : List (BitVec 16)
  outputs  : Bool
deriving DecidableEq, Repr

/-! ### What leaves the device -/

/-- What the device sends, newest first in `State.out`: completion entries (R62), messages (R345), writes of output
data to host memory (R88), areas it leaves undefined (R61, R119), batches (R352), words read over a BAR or the board
bus, cells to the heads (R313), packets to the motion side (R327), rows on tape as the channel bits of each element
channel (R188), separators (R189), housekeeping payloads (R200), responses of the SPDM responder (R385), data
objects read out of the DOE mailbox (R339). -/
inductive Out
  | completion (f : Fn) (cq : Nat) (slot : Nat) (entry : List Byte)
  | msix (f : Fn) (vec : Nat)
  | hostWrite (f : Fn) (addr : DWord) (bytes : List Byte)
  | undefinedArea (f : Fn) (addr : DWord) (len : Nat)
  | batch (q : Nat) (addr : DWord) (words : List DWord)
  | readValue (f : Fn) (offset : Nat) (value : DWord)
  | boardRead (bytes : List Byte)
  | cell (lane : Nat) (cell : BitVec 512)
  | packet (link : Nat) (code : Nat) (data : Word)
  | row (part dsn row : Nat) (frames : List (Nat × List Bool))
  | separator (part dsn : Nat)
  | housekeeping (gen psa : Nat) (payload : List Byte)
  | spdm (conn : SpdmConn) (bytes : List Byte)
  | doe (bytes : List Byte)
  | erased (sanitise : Bool)
deriving DecidableEq, Repr

/-- Log 0x07 (R97) and the MRAM head calibration that bring-up loads (R279, R400): whether it holds values, and the
words that procedures have stored in it, by BAR0 offset. -/
structure Logs where
  cal   : List Byte
  held  : Bool
  store : List (Nat × Word)
deriving DecidableEq, Repr

/-- The machine: every piece of state the manual gives the K1024, what has left it, the counter of free values and the
commands that wait, first in first out. -/
structure State where
  tb      : Time
  gl      : Global
  pins    : Pins
  crew    : CrewBlock
  hq      : Hq
  task    : Task
  par     : Params
  eng     : Engines
  cy      : Cipher
  vol     : Volume
  wr      : Writer
  fm      : FmRegs
  rch     : ReadCh
  rdr     : Reader
  sm      : Speed
  sv      : Servo
  ce      : Trim
  tt      : Telltale
  lk      : Shroud
  sp      : Sheet
  ic      : Ic
  spill   : List (Nat × Spill)
  ev      : Events
  mi      : Mem
  se      : Sec
  logs    : Logs
  /-- high halves latched by a read of the low half (R8), by function * 2^20 + offset of the high half -/
  latch   : List (Nat × Option Word)
  out     : List Out
  fresh   : Nat
  pending : List Instr
deriving DecidableEq, Repr

/-! ### Reset -/

/-- A unit that is stopped with nothing latched. -/
def unitStopped : Unit_ := { st := .stopped, latch := none }

/-- Roster entry as the Reset column of R43 gives it. -/
def crewZero : Crew := { st := .active, cause := 0, epoch := 0, slept := .active }

/-- Spare element channels of a new part: channels 124 to 127 of each module, because a freshly calibrated head
carries its 124 logical tracks on channels 0 to 123 (R183) and 32 of 1,024 channels are spare. DEDUCED (log entry 3). Unsafe. -/
def shippedRoster : List (Nat × Crew) :=
  (List.range 8).flatMap fun m => (List.range 4).map fun k => (128 * m + 124 + k, { crewZero with st := .spare })

/-- SPDM connection in its initial state (R386). -/
def spdmInitial : Spdm :=
  { st := 0, vca := [], msgB := [], msgL := [], limit := 4096, wait := none }

/-- Modes and GL block after a cold reset, PERST_N low (R19, R28, R402): every field at its Reset column, MRAM as
shipped in USER (R39) with no power-loss record (R423). -/
def Global.reset : Global :=
  { cur := .reset, prev := .reset, phase := 0, cart := false, moving := false, patched := false, modeTs := 0,
    latched := 0, liveSheet := false, liveFetch := false, resetWait := none, resetCause := 0, locked := false,
    lc := 0, lcMram := 1, lcPending := none, armed := none, accErr := 0, lossCount := 0, lossRec := none,
    wipeDue := false }

/-- Host queues after reset (R55, R71): tables at their defaults. -/
def Hq.reset : Hq :=
  { allot := [], allotErr := 0, fns := [], sqs := [], cqs := [],
    turn := { adminNext := 0, fn := 0, fnLeft := 0, sqNext := [], sqLeft := 0 },
    inflight := [], fetched := 0, vfEnable := false, act := none, flushes := [], lost := [] }

/-- Task registers after reset (R78). -/
def Task.reset : Task :=
  { cmd := 0, busy := false, held := false, overrun := false, source := 0, ehold := false, seq := 0, result := 0, args := [],
    data := [], pecErrs := 0, smbus := none, dynAddr := none }

/-- Volume block with no volume loaded (R125). -/
def Volume.reset : Volume :=
  { loaded := false, serial := 0, hwm := 0, nextSess := 0, count := 0, gen := 0, hkPsa := 0, delta := [],
    parts := [], accepted := 0, unloadAt := none }

/-- Engines after reset (R147). -/
def Engines.reset : Engines := { waiting := [], busy := [], nextKind := false, frames := [], idleSaid := false }

/-- Cipher block after reset: every slot never loaded (R161), no KEK, DRBG unseeded (R171). -/
def Cipher.reset : Cipher :=
  { slots := [], keks := [], faults := [], waiting := [], busy := [], nextOpen := false, idleSaid := false,
    seeded := false, health := false, reseeds := 0 }

/-- Write side after reset. -/
def Writer.reset : Writer :=
  { part := none, ord := 0, block := none, sets := [], again := [], images := [], queue := [], copies := [],
    nextCopy := 0, map := [], ending := false, wrap := 0, pos := 0, elems := [], rows256 := [] }

/-- FM error-correction and verify registers at their Reset column (R225). -/
def FmRegs.reset : FmRegs :=
  { ecc := 0x0000040C#32, vfy := 0x00600018#32, bench := 0x00400010#32, vfyFail := 0, vfyLate := 0, rewrites := 0,
    wset := 0, c2Stat := 0, c3Stat := 0 }

/-- Read-channel registers at their Reset column (R254). -/
def ReadCh.reset : ReadCh :=
  { ctl := 0x10040A03#32, sync := 0x000300C8#32, timing := 0x0E070904#32, ref := 0x00000210#32,
    queueR := 0x01000180#32, coast := 0, alt := 0, los := 0, cut := 0, peak := [], ztSel := 0, targets := [],
    head := [], working := [], kept := [], sums := [], fronts := [], queues := [], engines := [], cutting := 0, tuple := [],
    votes := [], tupleIn := [], held := [] }

/-- Reading with nothing gathered and nothing cached. -/
def Reader.reset : Reader := { gathers := [], cache := [], lastHdr := 0, blankAt := none, locate := none }

/-- Speed-matching registers at their Reset column (R268). -/
def Speed.reset : Speed :=
  { quota := [], ctl := 0x00600100#32, resume := 0x02000200#32, buf := 0x00000020#32, reef := 0, ramp := false,
    trim := 0, readSide := false, hitch := .none, laneStop := false, resumeK := 0, count := 0, demand := [], inMs := [], grants := [],
    readStop := false, consumed := [], rateSent := 0 }

/-- Servo registers at their Reset column (R288). -/
def Servo.reset : Servo :=
  { ctl := 0x00080410#32, loss := 0x00648364#32, limit := 0x00960640#32, wi := 0x00004000#32, wiCount := 0,
    wordErr := 0, y0 := [], azk := [], reelK := 0, rad0 := 0, rad1 := 0, rds := [], mods := [], skew := 0, mbar := 0,
    speed := 0, speedAt := none, fast := false, bad := [], wrap := 0 }

/-- Trim engine after a cold reset (R289, Registers of chapter 13). -/
def Trim.reset : Trim :=
  { stroke := 0x0000031F#32, cnt := 0, tb := 0, page := false, swap := none, swapReg := 0, finesp0 := 0x03020100#32,
    finesp1 := 0x07060504#32, lane := 0, ovrAny := 0, satAny := 0, consts := [], slots := [], ready := [],
    waiting := [], due := [], holdOn := false }

/-- Telltale after reset (R308). -/
def Telltale.reset : Telltale := { unit := unitStopped, gens := [], caps := [], left := [], stop := none }

/-- Shroud Link after reset; the serials that MRAM holds are the ones of shipping (R321). -/
def Shroud.reset : Shroud := { ctl := 0x00000403#32, hrecSel := 0, lanes := [], heads := [], status := [] }

/-- Sheet Port after a cold reset (R337). -/
def Sheet.reset : Sheet :=
  { ctl := 0x00FFFFFF#32, sync := 0, err := 0, gpi := 0, deb := [], encs := [], encCtl := 0x000003E8#32,
    encErr := 0, meas := [], cal := [], nom := [], cmd := [], allUp := none }

/-- Interrupt controller after reset (R341, R343, R349). -/
def Ic.reset : Ic :=
  { fns := [], srcs := [], holdoff := [], holdEnd := [], lastGrp := 0, fastEn := false, alertEn := true, fast := [],
    fHoldoff := 0, fHoldEnd := 0, msix := [], fmask := [], pba := [] }

/-- Memory integrity after a cold reset (R34, R380): no unit listed, every unit clean zero. -/
def Mem.reset : Mem :=
  { ctl := 3, pos := [], passed := [], passes := 0, corr := [], unc := [], poison := [], wbdrop := 0, thresh := [],
    ffault := 0, log := [], logN := 0, inj := [], units := [], injected := [], seen := [], remapped := [],
    fullSaid := [], handled := [], traps := [] }

/-- Security block as shipped in USER: keys and chain present, no bundle stored, rollback counter 0. -/
def Sec.reset : Sec :=
  { idKey := false, xport := false, chain := false, jtagOpen := false, authFail := 0,
    nonce := List.replicate 32 0, rollback := 0, active := [], pend := [], patchRam := [], runVer := 0,
    partial_ := none, cause := 0, causeTb := 0, doe := spdmInitial, task := spdmInitial, doeResp := none,
    rsa := none, rsaWait := [], calWrites := 0, wiped := false }

/-- Pins with PERST_N held low and both stop inputs high; junction temperatures read 0 (R402). -/
def Pins.reset : Pins :=
  { perstN := false, holdInN := true, pwrWarnN := true, addrSel := 0, pllLost := false, supply := false, hot := false,
    thermal := false, temps := List.replicate 8 0, outputs := false }

/-- The machine right after a cold reset, with PERST_N still low (R19, R33 step 1, R400): mode RESET, TB 0, every
register at its Reset column, no queue, no command waiting. -/
def State.reset : State :=
  { tb := 0, gl := Global.reset, pins := Pins.reset,
    crew := { roster := [], stored := shippedRoster, stale := [], epochs := 0, changed := 0, dies := [],
              gateAt := none },
    hq := Hq.reset, task := Task.reset, par := { cur := [], stored := [] }, eng := Engines.reset, cy := Cipher.reset,
    vol := Volume.reset, wr := Writer.reset, fm := FmRegs.reset, rch := ReadCh.reset, rdr := Reader.reset,
    sm := Speed.reset, sv := Servo.reset, ce := Trim.reset, tt := Telltale.reset, lk := Shroud.reset,
    sp := Sheet.reset, ic := Ic.reset, spill := [], ev := { seq := [], recent := [] }, mi := Mem.reset,
    se := Sec.reset, logs := { cal := [], held := true, store := [] }, latch := [], out := [], fresh := 0, pending := [] }

end Sys2Proof.Machine
end

