-- ==== Sys2Proof/Machine/Ops.lean ====
section
/-!
DEFINITION. Shared operations: time, free values, table access with the default entries of the Reset columns, the
shut-down rule of R49, sensing of interrupt sources, spill queues and event items, crew epochs.
-/

namespace Sys2Proof.Machine

/-! ### Time and free values -/

/-- TB moves to the instant of the command when the root PLL is locked; it never moves back (R3, R17). -/
def advance (t : Time) (s : State) : State :=
  if s.gl.locked && decide (s.tb.toNat < t.toNat) then { s with tb := t } else s

/-- TB ticks of a number of microseconds (R3: one tick is 0.625 ns). -/
def usTicks (n : Nat) : Nat := 1600 * n

/-- `n` fresh bytes of the DRBG (R171). -/
def drbgBytes (n : Nat) (s : State) : List Byte × State :=
  ((List.range n).map fun i => Config.drbgByte (s.fresh + i), { s with fresh := s.fresh + n })

/-- A fresh number that the manual leaves open. -/
def openNat (s : State) : Nat × State := (Config.freeNat s.fresh, { s with fresh := s.fresh + 1 })

/-- Something leaves the device. -/
def emit (o : Out) (s : State) : State := { s with out := o :: s.out }

/-- Replace the value under key `k` in a table that keeps presence: `none` removes. -/
def optSet {α : Type} [DecidableEq α] (t : List (Nat × Option α)) (k : Nat) (v : Option α) : List (Nat × Option α) :=
  tabSet none t k v

/-! ### Table access -/

/-- Reset entry of the allotment window (R55). -/
def allotDefault (f : Nat) : Allot :=
  if f = 0 then { qcount := 8192, keyBase := 0, keyCount := 1024, vectors := 2048, inflRes := 0, weight := 0 }
  else { qcount := 0, keyBase := 0, keyCount := 0, vectors := 0, inflRes := 0, weight := 0 }

/-- Allotment of function `f`. -/
def allotOf (s : State) (f : Fn) : Allot := tabGet (allotDefault f.toNat) s.hq.allot f.toNat

/-- HQ registers at their Reset column (R71). -/
def hqFnDefault : HqFn :=
  { en := false, unit := unitStopped, err := false, aqSize := 0, asqBase := 0, acqBase := 0, aqVec := 0, dbErrs := 0,
    dbErrId := 0 }

/-- HQ registers of function `f`. -/
def hqFn (s : State) (f : Fn) : HqFn := tabGet hqFnDefault s.hq.fns f.toNat

/-- Set the HQ registers of function `f`. -/
def setHqFn (f : Fn) (v : HqFn) (s : State) : State :=
  { s with hq := { s.hq with fns := tabSet hqFnDefault s.hq.fns f.toNat v } }

/-- A submission queue that does not exist. -/
def sqNone : Sq :=
  { unit := unitStopped, halted := false, base := 0, depth := 0, head := 0, tail := 0, cqid := 0, weight := 0, bell := 0 }

/-- A completion queue that does not exist. -/
def cqNone : Cq :=
  { unit := unitStopped, base := 0, depth := 0, head := 0, tail := 0, phase := true, bell := 0 }

/-- Place of queue `q` of function `f` in the queue tables; identifiers from 8,192, which no queue has, lie above. -/
def queueKey (f : Fn) (q : Nat) : Nat := if q < 8192 then f.toNat * 8192 + q else 524288 + q * 64 + f.toNat

/-- Submission queue `q` of function `f`. -/
def sqOf (s : State) (f : Fn) (q : Nat) : Sq := tabGet sqNone s.hq.sqs (queueKey f q)

/-- Completion queue `q` of function `f`. -/
def cqOf (s : State) (f : Fn) (q : Nat) : Cq := tabGet cqNone s.hq.cqs (queueKey f q)

/-- Set submission queue `q` of function `f`. -/
def setSq (f : Fn) (q : Nat) (v : Sq) (s : State) : State :=
  { s with hq := { s.hq with sqs := tabSet sqNone s.hq.sqs (queueKey f q) v } }

/-- Set completion queue `q` of function `f`. -/
def setCq (f : Fn) (q : Nat) (v : Cq) (s : State) : State :=
  { s with hq := { s.hq with cqs := tabSet cqNone s.hq.cqs (queueKey f q) v } }

/-- The in-flight command that a reference names. -/
def findCmd (s : State) (r : CmdRef) : Option InFlight := s.hq.inflight.find? fun c => c.ref == r

/-- Replace the in-flight command of the same reference. -/
def setCmd (c : InFlight) (s : State) : State :=
  { s with hq := { s.hq with inflight := s.hq.inflight.map fun d => if d.ref = c.ref then c else d } }

/-- Number of roster entries (R43). -/
def rosterSize : Nat := 1224

/-- Roster entry `i` (R43). -/
def crewOf (s : State) (i : Nat) : Crew := tabGet crewZero s.crew.roster i

/-- Set roster entry `i`, in the roster alone. -/
def setCrew (i : Nat) (v : Crew) (s : State) : State :=
  { s with crew := { s.crew with roster := tabSet crewZero s.crew.roster i v } }

/-- Roster class of an index: 0 element channels, 1 decode engines, 2 compression engines, 3 cipher pairs, 4 Shroud
lanes, 5 servo readers, 6 channel dies (R43, R402). -/
def rosterClass (i : Nat) : Nat :=
  if i < 1024 then 0 else if i < 1152 then 1 else if i < 1184 then 2 else if i < 1188 then 3
  else if i < 1204 then 4 else if i < 1220 then 5 else 6

/-- Key slot never loaded (R161). -/
def slotNever : KeySlot := { st := .never, gen := 0, key := [] }

/-- Device key slot `k`. -/
def keySlot (s : State) (k : Nat) : KeySlot := tabGet slotNever s.cy.slots k

/-- Set device key slot `k`. -/
def setKeySlot (k : Nat) (v : KeySlot) (s : State) : State :=
  { s with cy := { s.cy with slots := tabSet slotNever s.cy.slots k v } }

/-- Default of a parameter (R95): `id` and target function. -/
def paramDefault (id target : Nat) : Nat :=
  match id with
  | 1 => 2000 | 2 => 5 | 3 => 8000 | 4 => 400000 | 5 => 10000 | 6 => 500000 | 7 => 2 | 8 => 86400
  | 9 => if target = 0 then 2 ^ 64 - 1 else 0
  | 10 => 15
  | _ => 0

/-- Place of a parameter in the parameter tables. -/
def paramKey (id target : Nat) : Nat := id * 64 + target

/-- Current value of a parameter. -/
def param (s : State) (id target : Nat) : Nat := tabGet (paramDefault id target) s.par.cur (paramKey id target)

/-- Set the current value of a parameter. -/
def setParamCur (id target v : Nat) (s : State) : State :=
  { s with par := { s.par with cur := tabSet (paramDefault id target) s.par.cur (paramKey id target) v } }

/-! ### Shut-down before re-enable (R49) -/

/-- An enable request. -/
def unitEnable (u : Unit_) : Unit_ :=
  match u.st with
  | .stopped => { st := .starting, latch := none }
  | .starting => { u with latch := none }
  | .running => u
  | .stopping => { u with latch := some true }

/-- A disable request. -/
def unitDisable (u : Unit_) : Unit_ :=
  match u.st with
  | .stopped => u
  | .starting => { u with latch := some false }
  | .running => { st := .stopping, latch := none }
  | .stopping => { u with latch := none }

/-- The end of the start or shut-down under way. -/
def unitDone (u : Unit_) : Unit_ :=
  match u.st with
  | .starting => if u.latch = some false then { st := .stopping, latch := none } else { st := .running, latch := none }
  | .stopping => if u.latch = some true then { st := .starting, latch := none } else unitStopped
  | _ => u

/-- STATE as a register field (R49). -/
def unitCode (u : Unit_) : Nat :=
  match u.st with | .stopped => 0 | .starting => 1 | .running => 2 | .stopping => 3

/-! ### Sensing of interrupt sources (R341, R342) -/

/-- Local number of PF internal source `i` (R338). -/
def internalSrc (i : Nat) : Nat := 8192 + i

/-- Place of a source in the source table. -/
def srcKey (f : Fn) (n : Nat) : Nat := f.toNat * 16384 + n

/-- The pulse sources among the PF's normal sources (R339). -/
def pulseSrc (n : Nat) : Bool := n == internalSrc 80 || n == internalSrc 213 || n == internalSrc 214

/-- A source at reset: SENSE 2 for pulse lines and 0 for the others, vector 0, masked (R341, R343). -/
def srcDefault (k : Nat) : Src :=
  { sense := if pulseSrc k then 2 else 0, vector := 0, masked := true, count := 0, insvc := false, looked := false,
    line := false, edges := 0, vanished := 0 }

/-- A fast source at reset: SENSE 2, unmasked (R341, R347). -/
def fastDefault : Src :=
  { sense := 2, vector := 0, masked := false, count := 0, insvc := false, looked := false, line := false, edges := 0,
    vanished := 0 }

/-- Source `n` of function `f`. -/
def srcOf (s : State) (f : Fn) (n : Nat) : Src := tabGet (srcDefault (srcKey f n)) s.ic.srcs (srcKey f n)

/-- Set source `n` of function `f`. -/
def setSrc (f : Fn) (n : Nat) (v : Src) (s : State) : State :=
  { s with ic := { s.ic with srcs := tabSet (srcDefault (srcKey f n)) s.ic.srcs (srcKey f n) v } }

/-- Fast source `n`. -/
def fastOf (s : State) (n : Nat) : Src := tabGet fastDefault s.ic.fast n

/-- Set fast source `n`. -/
def setFast (n : Nat) (v : Src) (s : State) : State :=
  { s with ic := { s.ic with fast := tabSet fastDefault s.ic.fast n v } }

/-- One edge adds to the pending count up to `cap` and advances EDGE_COUNT, saturated or not (R342). -/
def srcEdge (cap : Nat) (v : Src) : Src := { v with count := min cap (v.count + 1), edges := v.edges + 1 }

/-- The line of a source takes a level: an edge that the SENSE code counts adds to the pending count (R341). -/
def senseLine (level : Bool) (v : Src) : Src :=
  if v.line == level then v
  else
    let w := { v with line := level }
    match v.sense with
    | 2 => if level then srcEdge 1 w else w
    | 3 => if level then w else srcEdge 1 w
    | 4 => srcEdge 1 w
    | 5 => srcEdge 2 w
    | _ => w

/-- A pulse line is active for one cycle: it rises and falls. -/
def sensePulse (v : Src) : Src := senseLine false (senseLine true v)

/-- A pulse of PF internal source `i` (R339). -/
def pulseInternal (i : Nat) (s : State) : State := setSrc 0 (internalSrc i) (sensePulse (srcOf s 0 (internalSrc i))) s

/-- A pulse of fast source `n` (R340). -/
def pulseFast (n : Nat) (s : State) : State := setFast n (sensePulse (fastOf s n)) s

/-- A source is pending (R341). -/
def srcPending (v : Src) : Bool :=
  match v.sense with
  | 0 => v.line && !v.insvc
  | 1 => !v.line && !v.insvc
  | _ => decide (0 < v.count)

/-! ### Spill queues (R351 to R358) -/

/-- Words that the tail, the middle and the head hold together: 32, 16 MiB and 32 (R351). -/
def spillCapacity : Nat := 32 + 2097152 + 32

/-- Words of items in one batch (R352). -/
def batchWords : Nat := 495

/-- A spill queue at its Reset column. -/
def spillDefault : Spill :=
  { idle := 100, idleNow := 100, unit := unitStopped, halted := false, base := 0, size := 1, head := 0, tail := 0,
    seq := 0, phase := true, drop := 0, flushed := 0, items := 0, queue := [], part := none, flush := none,
    gapOpen := false, gapHeld := none, pushing := false }

/-- Spill queue `q`: 0 to 63 the event logs of functions, 64 to 79 the capture streams. -/
def spillOf (s : State) (q : Nat) : Spill := tabGet spillDefault s.spill q

/-- Set spill queue `q`. -/
def setSpill (q : Nat) (v : Spill) (s : State) : State := { s with spill := tabSet spillDefault s.spill q v }

/-- Words in a spill queue. -/
def spillUsed (v : Spill) : Nat :=
  (v.queue.map fun i => i.words.length).sum + (match v.part with | none => 0 | some l => l.length)

/-- The GAP item of R355: items dropped, and TB[31:0] of the last drop. -/
def gapItem (n : Nat) (t : Time) : Item :=
  { kind := .gap, words := [BitVec.ofNat 64 (min n (2 ^ 32 - 1) + (t.toNat % 2 ^ 32) * 2 ^ 32)], at_ := t }

/-- Count a further drop in the GAP item that stands last. -/
def bumpGap (t : Time) (l : List Item) : List Item :=
  match l.reverse with
  | [] => l
  | _ => match l.reverse.findIdx? (fun i => decide (i.kind = .gap)) with
    | none => l
    | some k =>
      let i := l.length - 1 - k
      match l[i]? with
      | none => l
      | some g => setAt l i { gapItem ((g.words.headD 0).toNat % 2 ^ 32 + 1) t with at_ := g.at_ }

/-- A held GAP takes the first free word, ahead of any later item (R355). -/
def placeHeldGap (v : Spill) : Spill :=
  match v.gapHeld with
  | none => v
  | some (n, t) =>
    if spillUsed v < spillCapacity then { v with queue := v.queue ++ [gapItem n t], gapHeld := none, gapOpen := true }
    else v

/-- A drop of the item that is offered (R355). -/
def dropItem (t : Time) (v : Spill) : Spill :=
  let v := { v with drop := satInc v.drop }
  if v.gapOpen then { v with queue := bumpGap t v.queue }
  else match v.gapHeld with
    | some (n, _) => { v with gapHeld := some (n + 1, t) }
    | none =>
      if spillUsed v < spillCapacity then { v with queue := v.queue ++ [gapItem 1 t], gapOpen := true }
      else { v with gapHeld := some (1, t) }

/-- A whole item of `words` is offered: accepted when at least one more word than it needs is free, dropped otherwise
(R355). -/
def offerWhole (t : Time) (words : List DWord) (v : Spill) : Spill :=
  let v := placeHeldGap v
  if spillUsed v + words.length + 1 ≤ spillCapacity && v.gapHeld.isNone then
    { v with queue := v.queue ++ [{ kind := .data, words := words, at_ := t }], items := satInc v.items,
             gapOpen := false }
  else dropItem t v

/-- Tag of the first word of an item (R351). -/
def itemTag (k : ItemKind) : Nat := match k with | .data => 1 | .gap => 2 | .mark => 3

/-- Tags of a batch's items, word by word: the kind at the start of an item, 0 inside it. -/
def itemTags (l : List Item) : List Nat :=
  l.flatMap fun i => itemTag i.kind :: List.replicate (i.words.length - 1) 0

/-- As many complete items, from the oldest, as fit into one batch. -/
def takeBatch : Nat → List Item → List Item × List Item
  | _, [] => ([], [])
  | room, i :: r =>
    if i.words.length ≤ room then
      let (a, b) := takeBatch (room - i.words.length) r
      (i :: a, b)
    else ([], i :: r)

/-- The 512 words of a batch (R352): header, tag map, items, zeros. -/
def batchOf (q : Nat) (v : Spill) (short : Bool) (l : List Item) : List DWord :=
  let ws := l.flatMap fun i => i.words
  let tags := ((itemTags l).zipIdx.map fun (t, k) => t * 4 ^ k).sum
  BitVec.ofNat 64 (ws.length + b2n short * 2 ^ 9 + b2n v.phase * 2 ^ 10 + v.seq.toNat * 2 ^ 16 + q * 2 ^ 32)
    :: ((List.range 16).map fun k => BitVec.ofNat 64 (tags / 2 ^ (64 * k)))
    ++ ws ++ List.replicate (batchWords - ws.length) 0

/-- Batches in the ring that the host has not released (R353). -/
def unreleased (v : Spill) : Nat := (v.tail + (v.size + 1) - v.head) % (v.size + 1)

/-- The host ring is full (R353). -/
def ringFull (v : Spill) : Bool := decide (v.size ≤ unreleased v)

/-- The consumer runs and has a slot of the ring to write. -/
def canBatch (v : Spill) : Bool :=
  (match v.unit.st with | .running => true | _ => false) && !v.halted && !ringFull v

/-- The consumer closes and writes a batch of the given items (R353, R354). -/
def writeBatch (q : Nat) (short : Bool) (l rest : List Item) (s : State) : State :=
  let v := spillOf s q
  let last := v.tail = v.size
  emit (.batch q (v.base + BitVec.ofNat 64 (4096 * v.tail)) (batchOf q v short l))
    (setSpill q (placeHeldGap
      { v with queue := rest, tail := if last then 0 else v.tail + 1, phase := if last then !v.phase else v.phase,
               seq := v.seq + 1, idleNow := v.idle,
               gapOpen := v.gapOpen && rest.any fun i => decide (i.kind = .gap) }) s)

/-- Full batches are closed as long as the next complete item would not fit (R354). -/
def closeFull (q : Nat) : Nat → State → State
  | 0, s => s
  | n + 1, s =>
    let v := spillOf s q
    let (a, b) := takeBatch batchWords v.queue
    if canBatch v && !b.isEmpty && !a.isEmpty then closeFull q n (writeBatch q false a b s) else s

/-- The flush that waits takes effect at this item boundary (R356, R357): the complete items of the request and any
held GAP count are discarded, unless it pushes, and a FLUSH_MARK takes their place. -/
def flushEffect (t : Time) (v : Spill) : Spill :=
  match v.flush with
  | none => v
  | some (n, push) =>
    let held := match v.gapHeld with | none => 0 | some (k, _) => k
    let n := min n v.queue.length
    let gone := if push then 0 else n
    let w1 := if push then 0#64 else BitVec.ofNat 64 (n + held * 2 ^ 32)
    { v with queue := v.queue.drop gone ++ [{ kind := .mark, words := [t, w1], at_ := t }],
             flushed := if push then v.flushed else satAdd v.flushed n,
             gapHeld := if push then v.gapHeld else none, gapOpen := false, flush := none }

/-- An item is offered to spill queue `q` and full batches are closed (R354, R355). -/
def offerItem (q : Nat) (words : List DWord) (s : State) : State :=
  closeFull q 5000 (setSpill q (offerWhole s.tb words (spillOf s q)) s)

/-! ### Event items (R359 to R361) -/

/-- Words of an event item: CODE, function and SEQ, then TB, then the payload (R359). -/
def eventWords (code : Nat) (f : Fn) (seq : Word) (t : Time) (payload : List DWord) : List DWord :=
  BitVec.ofNat 64 (code + f.toNat * 2 ^ 16 + seq.toNat * 2 ^ 32) :: t :: payload

/-- An event item about function `f` is offered to the log of function `log`; SEQ advances whether it is accepted or
dropped (R359), and an accepted item is kept for log 0x01 (R361). -/
def eventAt (t : Time) (log f : Fn) (code : Nat) (payload : List DWord) (s : State) : State :=
  let seq := tabGet 0 s.ev.seq log.toNat
  let words := eventWords code f seq t payload
  let before := (spillOf s log.toNat).items
  let s := offerItem log.toNat words s
  let kept := (spillOf s log.toNat).items != before
  { s with ev := { seq := tabSet 0 s.ev.seq log.toNat (seq + 1),
                   recent := if kept then
                       tabSet [] s.ev.recent log.toNat (((tabGet [] s.ev.recent log.toNat) ++ [words]).reverse.take 256).reverse
                     else s.ev.recent } }

/-- An event item at the present instant. -/
def event (log f : Fn) (code : Nat) (payload : List DWord) (s : State) : State := eventAt s.tb log f code payload s

/-! ### Crew roster (R43 to R47) and Shroud sessions (R319) -/

/-- STATE of a roster entry as a field (R43). -/
def crewCode (c : CrewSt) : Nat := match c with | .active => 0 | .spare => 1 | .benched => 2 | .sleeping => 3

/-- The 32-bit word of a roster entry (R43). -/
def crewWord (c : Crew) : Word :=
  BitVec.ofNat 32 (crewCode c.st + c.cause.toNat * 2 ^ 8 + c.epoch.toNat * 2 ^ 16)

/-- The Shroud lane that carries a unit (R310). -/
def laneOfUnit (i : Nat) : Option Nat :=
  if i < 1024 then some (2 * (i / 128) + (i % 128) / 64)
  else if 1188 ≤ i && i < 1204 then some (i - 1188)
  else if 1204 ≤ i && i < 1220 then some (i - 1204)
  else none

/-- The units that lane `l` carries, itself included (R310). -/
def unitsOfLane (l : Nat) : List Nat :=
  ((List.range 64).map fun c => 128 * (l / 2) + 64 * (l % 2) + c) ++ [1188 + l, 1204 + l]

/-- A lane after reset. -/
def laneDefault : Lane :=
  { st := .down, phase := 0, session := 0, losses := 0, corr := 0, unc := 0, stale := 0, hist := [] }

/-- Shroud lane `l`. -/
def laneOf (s : State) (l : Nat) : Lane := tabGet laneDefault s.lk.lanes l

/-- Set Shroud lane `l`. -/
def setLane (l : Nat) (v : Lane) (s : State) : State :=
  { s with lk := { s.lk with lanes := tabSet laneDefault s.lk.lanes l v } }

/-- A downstream control cell (R313): OP, ARG and payload. -/
def controlCell (op arg : Nat) (payload : BitVec 480) : BitVec 512 :=
  BitVec.ofNat 512 ((5 * 2 ^ 28 + op * 2 ^ 20 + arg) * 2 ^ 480 + payload.toNat)

/-- The session of lane `l` advances by 1; the epochs of its units are recorded under it, and the new value goes
downstream (R319). -/
def sessionAdvance (l : Nat) (s : State) : State :=
  let v := laneOf s l
  let n := v.session + 1
  let eps := (unitsOfLane l).map fun i => (i, (crewOf s i).epoch)
  emit (.cell l (controlCell 1 n.toNat 0)) (setLane l { v with session := n, hist := ((n, eps) :: v.hist).take 8 } s)

/-- Apply an operation to each of a list of numbers in turn. -/
def forEach {α : Type} (l : List α) (op : α → State → State) (s : State) : State := l.foldl (fun s a => op a s) s

/-- The epochs of some units advance by 1 (R44) in one event, and with them, once, the session of each lane that
carries one of them (R319). -/
def bumpEpochs (units : List Nat) (s : State) : State :=
  let s := forEach units (fun i s => let c := crewOf s i; setCrew i { c with epoch := c.epoch + 1 } s) s
  let s := { s with crew := { s.crew with epochs := s.crew.epochs + units.length } }
  forEach (units.filterMap laneOfUnit).eraseDups sessionAdvance s

/-- What MRAM keeps of a roster entry: the state a sleeping unit held before it slept, and no epoch (R43). -/
def storedCrew (c : Crew) : Crew :=
  { st := if c.st = .sleeping then c.slept else c.st, cause := c.cause, epoch := 0, slept := .active }

/-- Units change STATE in one event, and others take new epochs in it: new epochs, MRAM copy, and for each change a
ROSTER_CHANGE item and a pulse of source 214 (R43, R44, R339, R360). A unit that already has the state is left alone. -/
def unitsChange (changes : List (Nat × CrewSt)) (cause : Nat) (bump : List Nat) (s : State) : State :=
  let changes := changes.filter fun (i, st) => decide ((crewOf s i).st ≠ st)
  let olds := changes.map fun (i, st) => (i, (crewOf s i).st, st)
  let s := forEach changes (fun (i, st) s =>
    let c := crewOf s i
    let c' : Crew :=
      { c with
        st := st, slept := if st = .sleeping then c.st else .active,
        cause := if st = .benched then BitVec.ofNat 4 cause else 0 }
    let s := setCrew i c' s
    { s with crew := { s.crew with stored := tabSet crewZero s.crew.stored i (storedCrew c') } }) s
  let s := bumpEpochs (changes.map Prod.fst ++ bump) s
  forEach olds (fun (i, old, st) s =>
    let c := crewOf s i
    pulseInternal 214 (event 0 0 0x10
      [BitVec.ofNat 64 (i + crewCode old * 2 ^ 16 + crewCode st * 2 ^ 18 + c.cause.toNat * 2 ^ 20 + c.epoch.toNat * 2 ^ 32)] s)) s

/-- Units all take one STATE. -/
def setUnitsState (units : List Nat) (st : CrewSt) (cause : Nat) (s : State) : State :=
  unitsChange (units.map fun i => (i, st)) cause [] s

/-- One unit changes STATE. -/
def setUnitState (i : Nat) (st : CrewSt) (cause : Nat) (s : State) : State := setUnitsState [i] st cause s

/-- One more stale item of a roster class (R44). -/
def countStale (i : Nat) (s : State) : State :=
  let k := rosterClass i
  { s with crew := { s.crew with stale := tabSet 0 s.crew.stale k (satInc (tabGet 0 s.crew.stale k)) } }

/-- An item of unit `i` tagged with `epoch` is accepted (R44). -/
def itemAccepted (s : State) (i : Nat) (epoch : BitVec 16) : Bool :=
  let c := crewOf s i
  decide (c.epoch = epoch) && (decide (c.st = .active) || decide (c.st = .spare))

end Sys2Proof.Machine
end

