-- ==== Sys2Proof/Machine/Flags.lean ====
section
/-!
DEFINITION. Conditions and status words computed from the state: LIVE bits of GL_HOLD (R28), interrupt lines (R339,
R340), FAULT_N and ALERT_N (R349, R408), the words of the GL block (R402), and access to the units they look at.
-/

namespace Sys2Proof.Machine

/-! ### Units -/

/-- A zero coefficient. -/
def coefZero : Coef := { value := 0, shift := 0 }

/-- A disabled section (R297). -/
def sectRegsZero : SectRegs := { en := false, b0 := coefZero, b1 := coefZero, b2 := coefZero, a1 := coefZero, a2 := coefZero }

/-- A clear section history. -/
def sectHistZero : SectHist := { x1 := 0, x2 := 0, y1 := 0, y2 := 0 }

/-- Slot registers at their Reset column (chapter 13). -/
def slotRegsDefault : SlotRegs :=
  { ctl := 0x20000000#32, src0 := 0, src1 := 0, out := 0, safe := 0, omin := 0x80000000#32, omax := 0x7FFFFFFF#32,
    imin := 0x80000000#32, imax := 0x7FFFFFFF#32,
    ramp := { tgt := 0, slew := 0, jerk := 0, hslew := 0, hjerk := 0 },
    gains := { kp := coefZero, ki := coefZero, kd := coefZero, kaw := coefZero, kff := coefZero, kl := coefZero },
    rcCtl := 0, rcLen := 50000, rcQ := 0x00008000#32, sects := List.replicate 8 sectRegsZero }

/-- A loop slot at reset. -/
def slotDefault : Slot :=
  { regs := slotRegsDefault,
    vals := { hist := List.replicate 8 sectHistZero, integ := 0, ePrev := 0, rampSp := 0, rate := 0, y := 0,
              table := [], rcAddr := 0, capA := 0, capB := 0, spOut := 0 },
    unit := unitStopped, fresh := false, frozen := false, clampOut := false, clampInt := false, ovrRun := 0, seq := 0,
    sat := false, overrun := false, ovr := 0, dueTb := 0, dueCnt := 0, run := none }

/-- Loop slot `i`. -/
def slotOf (s : State) (i : Nat) : Slot := tabGet slotDefault s.ce.slots i

/-- Set loop slot `i`. -/
def setSlot (i : Nat) (v : Slot) (s : State) : State :=
  { s with ce := { s.ce with slots := tabSet slotDefault s.ce.slots i v } }

/-- A slot is RUNNING. -/
def slotRunning (v : Slot) : Bool := decide (v.unit.st = .running)

/-- CTL.CRIT of a slot. -/
def slotCrit (v : Slot) : Bool := v.regs.ctl.getLsbD 2

/-- A head module before any training; the stored serial is the one of shipping (R321). -/
def headDefault (m : Nat) : Head :=
  { serial := 0, valid := false, changed := false, noAnswer := false, record := [], stored := Config.shippedSerial m }

/-- Head module `m`. -/
def headOf (s : State) (m : Nat) : Head := tabGet (headDefault m) s.lk.heads m

/-- Set head module `m`. -/
def setHead (m : Nat) (v : Head) (s : State) : State :=
  { s with lk := { s.lk with heads := tabSet (headDefault m) s.lk.heads m v } }

/-- A servo reader in IDLE (R283). -/
def servoRdDefault : ServoRd :=
  { st := .idle, known := false, dir := false, seq := 0, y := 0, lpos := 0, tm := 0, vel := 0, ts := 0, miss := 0,
    run := 0, lostN := 0, peaks := [], wave := [], waveAt := 0, sidx := 0, armed := none, cross := [], bursts := [], nextB := 0,
    winFrom := 0, winTo := 0, ival := 0, prevTm := none, kb := 0, ctl := 0, preds := [], word := [], agree := none, giveAB := none,
    giveCD := none }

/-- Servo reader `n`. -/
def servoRd (s : State) (n : Nat) : ServoRd := tabGet servoRdDefault s.sv.rds n

/-- Set servo reader `n`. -/
def setServoRd (n : Nat) (v : ServoRd) (s : State) : State :=
  { s with sv := { s.sv with rds := tabSet servoRdDefault s.sv.rds n v } }

/-- A module of the combiner at reset. -/
def servoModDefault : ServoMod :=
  { y := 0, err := 0, held := 0, m := 0, mAt := none, single := false, gate := false, seq := 0, ts := 0, valid := false,
    good := [], off := 0, lostAt := none, closing := none, limit := 0, wi := 0 }

/-- Module `k` of the combiner. -/
def servoMod (s : State) (k : Nat) : ServoMod := tabGet servoModDefault s.sv.mods k

/-- Set module `k` of the combiner. -/
def setServoMod (k : Nat) (v : ServoMod) (s : State) : State :=
  { s with sv := { s.sv with mods := tabSet servoModDefault s.sv.mods k v } }

/-- Reader `n` is in TRACK and not benched: a benched reader counts as LOST (R283). -/
def readerTracks (s : State) (n : Nat) : Bool :=
  decide ((servoRd s n).st = .track) && decide ((crewOf s (1204 + n)).st ≠ .benched)

/-- Module `k` has servo: one of its readers is in TRACK (R283). -/
def hasServo (s : State) (k : Nat) : Bool := readerTracks s (2 * k) || readerTracks s (2 * k + 1)

/-- Channel die `d` as a unit of R49. -/
def dieOf (s : State) (d : Nat) : Unit_ := tabGet unitStopped s.crew.dies d

/-- Set channel die `d`. -/
def setDie (d : Nat) (v : Unit_) (s : State) : State :=
  { s with crew := { s.crew with dies := tabSet unitStopped s.crew.dies d v } }

/-- Link `n` of the Sheet Port is enabled (R333). -/
def linkEnabled (s : State) (n : Nat) : Bool := s.sp.ctl.getLsbD n

/-- Link `n` of the Sheet Port is in sync (R326). -/
def linkInSync (s : State) (n : Nat) : Bool := s.sp.sync.getLsbD n

/-- Thresholds of a memory class at reset (R380). -/
def threshDefault : Word := 0x00010400#32

/-! ### Longitudinal position (R271) -/

/-- The reader whose position counts: the lowest-numbered one with a known LPOS, otherwise the one heard of last. -/
def posReader (s : State) : ServoRd :=
  let rds := (List.range 16).map (servoRd s)
  match rds.find? fun r => r.known with
  | some r => r
  | none => { rds.foldl (fun a r => if a.tm < r.tm then r else a) (servoRd s 0) with vel := 0 }

/-- LPOS in µm at the present instant: reference plus speed times the time since (R271). -/
def lposNow (s : State) : Nat :=
  let r := posReader s
  ((r.lpos : Int) + r.vel * (4 * (s.tb.toNat : Int) - r.tm) * 5 / (32000 * 2 ^ 24)).toNat

/-! ### LIVE bits of GL_HOLD (R28) and the mode register (R19) -/

/-- LIVE_CRIT: a critical slot has a non-zero OVR_RUN (R302). -/
def liveCrit (s : State) : Bool := s.ce.slots.any fun p => slotCrit p.2 && decide (p.2.ovrRun ≠ 0)

/-- LIVE_SERVO: a servo-loss condition holds with the tape not at rest (R284). -/
def liveServo (s : State) : Bool := s.gl.moving && !s.sv.bad.isEmpty

/-- The six LIVE bits of GL_HOLD, bit 0 LIVE_CRIT. -/
def liveBits (s : State) : BitVec 6 :=
  BitVec.ofNat 6 (b2n (liveCrit s) + 2 * b2n (!s.pins.holdInN) + 4 * b2n (!s.pins.pwrWarnN) + 8 * b2n s.gl.liveSheet
    + 16 * b2n (liveServo s) + 32 * b2n s.gl.liveFetch)

/-- GL_HOLD (R28). -/
def holdWord (s : State) : Word := BitVec.ofNat 32 (s.gl.latched.toNat + (liveBits s).toNat * 2 ^ 16)

/-- Code of a mode (R19). -/
def modeCode (m : Mode) : Nat :=
  match m with
  | .reset => 0 | .fill => 1 | .idle => 2 | .thread => 3 | .calibrate => 4 | .locate => 5 | .write => 6 | .read => 7
  | .verify => 8 | .erase => 9 | .service => 10 | .hold => 11

/-- WRITE would be refused with CAL_REQUIRED: a changed module is not zoned (R48), or a lane is benched (R324). -/
def calReq (s : State) : Bool :=
  s.crew.changed != 0 || (List.range 16).any fun l => decide ((crewOf s (1188 + l)).st = .benched)

/-- GL_MODE (R19). -/
def modeWord (s : State) : Word :=
  BitVec.ofNat 32 (modeCode s.gl.cur + modeCode s.gl.prev * 2 ^ 4 + s.gl.phase.toNat * 2 ^ 8 + b2n s.gl.cart * 2 ^ 16
    + b2n s.gl.moving * 2 ^ 17 + b2n (calReq s) * 2 ^ 18 + b2n s.gl.patched * 2 ^ 19)

/-- The mode fetches commands: every mode but RESET and FILL (R25). -/
def fetching (s : State) : Bool := decide (s.gl.cur ≠ .reset) && decide (s.gl.cur ≠ .fill)

/-- BAR0 as a whole responds: after FILL, with no warm reset requested (R398). -/
def regsLive (s : State) : Bool := fetching s && s.gl.resetWait.isNone

/-- A register access through BAR0 of function `f` reaches its registers: a VF exists while VF Enable is 1 (R56). -/
def fnLive (s : State) (f : Fn) : Bool := regsLive s && (f == 0 || s.hq.vfEnable)

/-- Ready to release: HOLD, every LIVE bit 0, tape at rest (R31, R339). -/
def releaseReady (s : State) : Bool := decide (s.gl.cur = .hold) && liveBits s == 0 && !s.gl.moving

/-! ### Interrupt lines -/

/-- The CQ holds committed entries that the host has not released (R70). -/
def cqLine (s : State) (f : Fn) (q : Nat) : Bool :=
  let c := cqOf s f q
  decide (c.unit.st ≠ .stopped) && decide (c.tail ≠ c.head)

/-- The host ring of a spill queue holds batches not released (R339). -/
def spillLine (s : State) (q : Nat) : Bool := decide (unreleased (spillOf s q) ≠ 0)

/-- A threshold of R380 is reached. -/
def memThreshold (s : State) : Bool :=
  (List.range 3).any fun c =>
    let t := tabGet threshDefault s.mi.thresh c
    (bits t 0 16 != 0 && decide (bits t 0 16 ≤ (tabGet 0 s.mi.corr c).toNat))
      || (bits t 16 16 != 0 && decide (bits t 16 16 ≤ (tabGet 0 s.mi.unc c).toNat))

/-- Line of PF internal source `i` (R339). Pulse lines are low between their pulses. -/
def internalLine (s : State) (i : Nat) : Bool :=
  if i = 0 then spillLine s 0
  else if i < 64 then false
  else if i < 80 then spillLine s i
  else if i = 81 then releaseReady s
  else if i = 82 then !s.task.busy
  else if i = 83 then s.se.doeResp.isSome
  else if i < 84 then false
  else if i < 100 then decide ((laneOf s (i - 84)).st ≠ .up)
  else if i < 108 then (headOf s (i - 100)).changed || (headOf s (i - 100)).noAnswer
  else if i < 124 then decide ((servoRd s (i - 108)).st = .lost)
  else if i < 188 then (slotOf s (i - 124)).sat || (slotOf s (i - 124)).overrun
  else if i < 212 then linkEnabled s (i - 188) && !linkInSync s (i - 188)
  else if i = 212 then memThreshold s
  else false

/-- A local source number with a source behind it (R338). -/
def srcExists (s : State) (f : Fn) (n : Nat) : Bool :=
  if f = 0 then
    if n < 8192 then decide ((cqOf s 0 n).unit.st ≠ .stopped)
    else n == 8192 || (decide (8256 ≤ n) && decide (n < 8407)) || (decide (8704 ≤ n) && decide (n < 8736))
  else if n < 512 then decide ((cqOf s f n).unit.st ≠ .stopped) else n == 512

/-- Line of a normal source by its local number (R338). -/
def srcLine (s : State) (f : Fn) (n : Nat) : Bool :=
  if f = 0 then
    if n < 8192 then cqLine s 0 n
    else if n < 8672 then internalLine s (n - 8192)
    else if 8704 ≤ n && n < 8736 then s.sp.gpi.getLsbD (n - 8704)
    else false
  else if n < 512 then cqLine s f n
  else if n = 512 then spillLine s f.toNat
  else false

/-- Line of fast source `n` (R340). -/
def fastLine (s : State) (n : Nat) : Bool :=
  match n with
  | 0 => decide (s.gl.cur = .hold)
  | 1 => (liveBits s).getLsbD 1
  | 2 => (liveBits s).getLsbD 2
  | 3 => (liveBits s).getLsbD 3
  | 4 => (liveBits s).getLsbD 4
  | 5 => (liveBits s).getLsbD 0
  | 6 => s.ce.slots.any fun p => slotCrit p.2 && p.2.sat
  | 8 => s.cy.health
  | 9 => s.gl.liveFetch
  | _ => false

/-- A fast source's line is sensed at once: fast source `n` follows its condition (R347). -/
def senseFast (n : Nat) (s : State) : State := setFast n (senseLine (fastLine s n) (fastOf s n)) s

/-- A normal source's line is sensed (R341). -/
def senseSrc (f : Fn) (n : Nat) (s : State) : State :=
  if srcExists s f n then setSrc f n (senseLine (srcLine s f n) (srcOf s f n)) s else s

/-! ### Pins that the device drives -/

/-- ALERT_N is driven low (R349, R408): ALERT_EN and a fast source pending or in service, PERST_N high. -/
def alertLow (s : State) : Bool :=
  s.pins.perstN && s.ic.alertEn && (List.range 32).any fun n => srcPending (fastOf s n) || (fastOf s n).insvc

/-- FAULT_N is driven low (R408). -/
def faultLow (s : State) : Bool :=
  s.pins.pllLost || s.pins.hot || s.pins.thermal || (s.pins.perstN && (s.gl.liveFetch || s.pins.supply))

/-! ### Words of the GL block (R402) -/

/-- GL_RESET. -/
def resetWord (s : State) : Word :=
  BitVec.ofNat 32 (s.gl.resetCause.toNat * 2 ^ 8 + b2n (s.gl.resetWait.isSome && s.gl.moving) * 2 ^ 16)

/-- GL_LC: an armed change shows for 10 s from its arming (R402). -/
def lcWord (s : State) : Word :=
  BitVec.ofNat 32 (s.gl.lc.toNat + (match s.gl.armed with
      | none => 0
      | some a => if s.tb.toNat < a.at_.toNat + 16000000000 then a.target.toNat * 2 ^ 4 + 2 ^ 7 else 0)
    + b2n s.gl.lcPending.isSome * 2 ^ 8)

/-- GL_CLK: a gated die has its SHR_LOCK bit at 0. -/
def clkWord (s : State) : Word :=
  BitVec.ofNat 32 (b2n s.gl.locked + 2 * b2n s.gl.locked
    + ((List.range 4).map fun d => b2n (s.gl.locked && decide ((dieOf s d).st = .running)) * 2 ^ (2 + d)).sum)

/-- GL_ROSTER_SUM. -/
def rosterSum (s : State) : Word :=
  let n (st : CrewSt) := ((List.range rosterSize).filter fun i => decide ((crewOf s i).st = st)).length
  BitVec.ofNat 32 (n .benched + n .sleeping * 2 ^ 16)

/-- The roster digest's input: the 1,224 entries as 4 little-endian bytes each (R43). -/
def rosterBytes (s : State) : List Byte :=
  (List.range rosterSize).flatMap fun i => natLe 4 (crewWord (crewOf s i)).toNat

end Sys2Proof.Machine
end

