-- ==== Sys2Proof/Machine/Klz.lean ====
section
/-!
DEFINITION. The KLZ run format: CRC-32C (R146), the run frame (R134 to R136), the normative encoder (R141 to R145)
and the decoder with the checks made on the way back (R137 to R140, R151).
-/

namespace Sys2Proof.Machine

/-! ### CRC-32C and CRC-8 -/

/-- One bit of the reflected CRC-32C register (R146). -/
def crc32cBit (c : Word) : Word := if c.getLsbD 0 then (c >>> 1) ^^^ 0x82F63B78#32 else c >>> 1

/-- One byte of the CRC-32C register (R146). -/
def crc32cByte (c : Word) (b : Byte) : Word :=
  (List.range 8).foldl (fun x _ => crc32cBit x) (c ^^^ b.setWidth 32)

/-- CRC-32C with polynomial 0x1EDC_6F41 reflected, initial value and final XOR all ones (R146). -/
def crc32c (l : List Byte) : Word := (l.foldl crc32cByte 0xFFFFFFFF#32) ^^^ 0xFFFFFFFF#32

/-- One bit of CRC-8 with polynomial x^8 + x^2 + x + 1, most significant bit first (R270, R327). -/
def crc8Bit (c : Byte) (b : Bool) : Byte :=
  if c.getLsbD 7 != b then (c <<< 1) ^^^ 0x07#8 else c <<< 1

/-- CRC-8 of a bit string, initial value 0 (R270). -/
def crc8Bits (l : List Bool) : Byte := l.foldl crc8Bit 0

/-- CRC-8 of a byte string, initial value 0 (R327). -/
def crc8 (l : List Byte) : Byte := crc8Bits (bitsMsb l)

/-! ### The match finder (R141, R142) -/

/-- The match table: for each set the positions its ways hold, the newest first, at most four (R141). -/
abbrev MatchTable := List (Nat × List Nat)

/-- The hash of the four input bytes at the head of `l` (R141). -/
def hash4 (l : List Byte) : Nat := (leNat (l.take 4) * 0x9e3779b1 % 2 ^ 32) / 2 ^ 18

/-- Position `p` inserted into the match table, when four bytes remain at it (R141). -/
def matchInsert (inp : List Byte) (tbl : MatchTable) (p : Nat) : MatchTable :=
  if p + 4 ≤ inp.length then
    let h := hash4 (inp.drop p)
    tabSet [] tbl h ((p :: tabGet [] tbl h).take 4)
  else tbl

/-- Every position from `next` on below `x` inserted, in ascending order (R142). -/
def insertBelow (inp : List Byte) : Nat → MatchTable → Nat → MatchTable
  | 0, tbl, _ => tbl
  | n + 1, tbl, next => insertBelow inp n (matchInsert inp tbl next) (next + 1)

/-- How many leading bytes two strings share, at most `cap`. -/
def commonLen : Nat → List Byte → List Byte → Nat
  | 0, _, _ => 0
  | n + 1, a :: x, b :: y => if a = b then commonLen n x y + 1 else 0
  | _ + 1, _, _ => 0

/-- The best match at position `p`: its length and offset, (0, 0) for none (R142). -/
def bestMatch (inp : List Byte) (tbl : MatchTable) (p : Nat) : Nat × Nat :=
  if p + 4 ≤ inp.length then
    let cap := min (inp.length - p) 65536
    (tabGet [] tbl (hash4 (inp.drop p))).foldl
      (fun best q =>
        if 65536 < p - q then best
        else
          let l := commonLen cap (inp.drop q) (inp.drop p)
          if 4 ≤ l ∧ best.1 < l then (l, p - q) else best)
      (0, 0)
  else (0, 0)

/-! ### Token stream (R137, R143) -/

/-- The extension bytes of the value `v`: 255 as long as `v` is at least 255, then the rest (R143). -/
def extBytes (v : Nat) : List Byte := List.replicate (v / 255) 255#8 ++ [BitVec.ofNat 8 (v % 255)]

/-- The sequence of `lits` followed by a match of `len` bytes at `off` (R143). -/
def emitSeq (lits : List Byte) (len off : Nat) : List Byte :=
  let ll := lits.length
  let ln := min ll 15
  let mn := min (len - 4) 15
  [BitVec.ofNat 8 (16 * ln + mn)] ++ (if 15 ≤ ll then extBytes (ll - 15) else []) ++ lits
    ++ natLe 2 (off - 1) ++ (if 19 ≤ len then extBytes (len - 19) else [])

/-- The last sequence of a run that ends with literals: MN is 0 and there is no OFF (R143). -/
def emitLast (lits : List Byte) : List Byte :=
  let ll := lits.length
  [BitVec.ofNat 8 (16 * min ll 15)] ++ (if 15 ≤ ll then extBytes (ll - 15) else []) ++ lits

/-- The encoder's walk with one-step lazy evaluation (R142): `p` the position, `lit` the first pending literal. -/
def klzTokensFrom (inp : List Byte) : Nat → MatchTable → Nat → Nat → Nat → List Byte
  | 0, _, _, _, _ => []
  | fuel + 1, tbl, next, p, lit =>
    if inp.length ≤ p then
      (if lit < inp.length then emitLast (slice inp lit (inp.length - lit)) else [])
    else
      let tbl0 := insertBelow inp (p - next) tbl next
      let next0 := max next p
      let m := bestMatch inp tbl0 p
      if m.1 = 0 then klzTokensFrom inp fuel tbl0 next0 (p + 1) lit
      else
        let tbl1 := insertBelow inp (p + 1 - next0) tbl0 next0
        let next1 := max next0 (p + 1)
        let m1 := bestMatch inp tbl1 (p + 1)
        if m.1 < m1.1 then
          emitSeq (slice inp lit (p + 1 - lit)) m1.1 m1.2
            ++ klzTokensFrom inp fuel tbl1 next1 (p + 1 + m1.1) (p + 1 + m1.1)
        else
          emitSeq (slice inp lit (p - lit)) m.1 m.2
            ++ klzTokensFrom inp fuel tbl1 next1 (p + m.1) (p + m.1)

/-- The token stream of a run (R137, R142). -/
def klzTokens (inp : List Byte) : List Byte := klzTokensFrom inp (inp.length + 1) [] 0 0 0

/-! ### Code lengths (R145) -/

/-- A node of the code tree: its weight, its key and the depth of every leaf below it. -/
structure HuffNode where
  weight : Nat
  key    : Nat
  leaves : List (Nat × Nat)
deriving DecidableEq, Repr

/-- The order in which nodes are taken: smallest (weight, key) first (R145). -/
def nodeBefore (a b : HuffNode) : Bool := a.weight < b.weight || (a.weight == b.weight && a.key < b.key)

/-- A node inserted into a list kept in that order. -/
def nodeInsert (n : HuffNode) : List HuffNode → List HuffNode
  | [] => [n]
  | m :: r => if nodeBefore n m then n :: m :: r else m :: nodeInsert n r

/-- The tree: the two smallest nodes joined until one is left (R145, step 1). -/
def huffTree : Nat → Nat → List HuffNode → List (Nat × Nat)
  | fuel + 1, key, a :: b :: r =>
    let deeper : List (Nat × Nat) → List (Nat × Nat) := fun l => l.map fun x => (x.1, x.2 + 1)
    huffTree fuel (key + 1) (nodeInsert ⟨a.weight + b.weight, key, deeper a.leaves ++ deeper b.leaves⟩ r)
  | _, _, [a] => a.leaves
  | _, _, _ => []

/-- How often each byte value occurs. -/
def byteCounts (l : List Byte) : List (Nat × Nat) := l.foldl (fun t b => tabSet 0 t b.toNat (tabGet 0 t b.toNat + 1)) []

/-- The sum K of R140 over a table of code lengths. -/
def kraftSum (len : List (Nat × Nat)) : Nat := (len.map fun (_, l) => 2 ^ (15 - l)).sum

/-- The symbol step 2 of R145 lengthens: the greatest length below 15, then the smallest count, then the largest
symbol. -/
def limitPick (cnt len : List (Nat × Nat)) : Option Nat :=
  let better := fun (a b : Nat × Nat) =>
    let fa := tabGet 0 cnt a.1
    let fb := tabGet 0 cnt b.1
    decide (b.2 < a.2) || (a.2 == b.2 && (fa < fb || (fa == fb && b.1 < a.1)))
  ((len.filter fun (_, l) => l < 15).foldl
    (fun best x => match best with
      | none => some x
      | some y => if better x y then some x else some y) none).map (·.1)

/-- Step 2 of R145: lengths raised until K is at most 32,768. -/
def limitLens (cnt : List (Nat × Nat)) : Nat → List (Nat × Nat) → List (Nat × Nat)
  | 0, len => len
  | fuel + 1, len =>
    if kraftSum len ≤ 32768 then len
    else match limitPick cnt len with
      | none => len
      | some s => limitLens cnt fuel (tabSet 0 len s (tabGet 0 len s + 1))

/-- Whether step 3 of R145 takes `a` before `b`: shorter first, then the larger count, then the smaller symbol. -/
def fillBefore (cnt : List (Nat × Nat)) (a b : Nat × Nat) : Bool :=
  let fa := tabGet 0 cnt a.1
  let fb := tabGet 0 cnt b.1
  a.2 < b.2 || (a.2 == b.2 && (fb < fa || (fb == fa && a.1 < b.1)))

/-- Insertion into a list kept in the order of `before`. -/
def insertBy {α : Type} (before : α → α → Bool) (x : α) : List α → List α
  | [] => [x]
  | y :: r => if before x y then x :: y :: r else y :: insertBy before x r

/-- A list sorted by `before`; elements that tie keep their order. -/
def sortBy {α : Type} (before : α → α → Bool) (l : List α) : List α :=
  l.foldl (fun acc x => insertBy before x acc) []

/-- Step 3 of R145: lengths lowered in turn where K stays at most 32,768. -/
def fillLens (cnt len : List (Nat × Nat)) : List (Nat × Nat) :=
  ((sortBy (fillBefore cnt) len).foldl
    (fun (acc : List (Nat × Nat) × Nat) (s, l) =>
      if 1 < l ∧ acc.2 + 2 ^ (15 - l) ≤ 32768 then (tabSet 0 acc.1 s (l - 1), acc.2 + 2 ^ (15 - l)) else acc)
    (len, kraftSum len)).1

/-- The code lengths of a block's symbols (R145). -/
def codeLengths (block : List Byte) : List (Nat × Nat) :=
  let cnt := byteCounts block
  match cnt with
  | [] => []
  | [(s, _)] => [(s, 1)]
  | _ =>
    let nodes := sortBy nodeBefore (cnt.map fun (s, f) => ⟨f, s, [(s, 0)]⟩)
    let depths := (huffTree 256 256 nodes).foldl (fun t (s, d) => tabSet 0 t s d) []
    if depths.all fun (_, d) => d ≤ 15 then depths
    else
      let cut := depths.map fun (s, d) => (s, min d 15)
      let lim := limitLens cnt 4096 cut
      if kraftSum lim < 32768 then fillLens cnt lim else lim

/-! ### Canonical codes and blocks (R139, R140, R144) -/

/-- The first code of length `l` (R140). -/
def firstCode (len : List (Nat × Nat)) : Nat → Nat
  | 0 => 0
  | l + 1 => 2 * (firstCode len l + (if l = 0 then 0 else (len.filter fun (_, x) => x == l).length))

/-- The canonical codes: for each used symbol its length and its code (R140). -/
def canonicalCodes (len : List (Nat × Nat)) : List (Nat × Nat × Nat) :=
  len.filterMap fun (s, l) =>
    if l = 0 then none
    else some (s, l, firstCode len l + (len.filter fun (x, m) => m == l && x < s).length)

/-- The coded bits of a block, each code from its most significant bit (R140). -/
def codeBits (codes : List (Nat × Nat × Nat)) (block : List Byte) : List Bool :=
  block.flatMap fun b =>
    match codes.find? (fun c => c.1 == b.toNat) with
    | some (_, l, c) => natBits l c
    | none => []

/-- The 128 bytes of LENGTHS: symbol 2i in the low nibble of byte i (R139). -/
def lengthBytes (len : List (Nat × Nat)) : List Byte :=
  (List.range 128).map fun i => BitVec.ofNat 8 (tabGet 0 len (2 * i) + 16 * tabGet 0 len (2 * i + 1))

/-- One Huffman block: the smaller of the Huffman form and the stored form (R139, R144). -/
def klzBlock (last : Bool) (block : List Byte) : List Byte :=
  let len := codeLengths block
  let coded := codeBits (canonicalCodes len) block
  let huff := 131 + ceilDiv coded.length 8
  let stored := 3 + block.length
  let tok := natLe 2 (block.length - 1)
  let mark := if last then 128 else 0
  if huff < stored then
    [BitVec.ofNat 8 mark] ++ tok ++ lengthBytes len ++ packLsb (ceilDiv coded.length 8) coded
  else [BitVec.ofNat 8 (mark + 1)] ++ tok ++ block

/-- The token stream cut into blocks of 65,536 bytes (R139). -/
def klzBlocks : Nat → List Byte → List Byte
  | 0, _ => []
  | fuel + 1, l =>
    if l.length ≤ 65536 then (if l = [] then [] else klzBlock true l)
    else klzBlock false (l.take 65536) ++ klzBlocks fuel (l.drop 65536)

/-- The KLZ body of a run (R139, R141 to R145). -/
def klzBody (inp : List Byte) : List Byte :=
  let tok := klzTokens inp
  klzBlocks (tok.length / 65536 + 1) tok

/-! ### Run frames (R134 to R136) -/

/-- A run of `n` input bytes stored with the body `body`: the 16 B run header and the body (R135). -/
def runFrameOf (inp : List Byte) (raw : Bool) (body : List Byte) : List Byte :=
  natLe 4 (inp.length + 2 ^ 21 * b2n raw) ++ natLe 4 body.length ++ natLe 4 (crc32c inp).toNat ++ natLe 4 0 ++ body

/-- The frame of a run under the record's COMPRESS option (R136). -/
def runFrame (compress : Bool) (inp : List Byte) : List Byte :=
  if compress then
    let body := klzBody inp
    if inp.length ≤ body.length then runFrameOf inp true inp else runFrameOf inp false body
  else runFrameOf inp true inp

/-- The runs of a record: 1 MiB each, the last holding the remainder (R134). -/
def recordRuns : Nat → List Byte → List (List Byte)
  | 0, _ => []
  | n + 1, l => l.take 1048576 :: recordRuns n (l.drop 1048576)

/-- The number of runs of a record of `len` bytes (R133). -/
def runCount (len : Nat) : Nat := ceilDiv len 1048576

/-! ### The decoder (R137 to R140, R151) -/

/-- One symbol read from a bit string by a canonical code; a pattern that reaches no code is an error (R140). -/
def huffSymbol (codes : List (Nat × Nat × Nat)) : Nat → Nat → Nat → List Bool → Option (Byte × List Bool)
  | 0, _, _, _ => none
  | _, _, _, [] => none
  | fuel + 1, l, c, b :: r =>
    let c' := 2 * c + b2n b
    match codes.find? (fun x => x.2.1 == l + 1 && x.2.2 == c') with
    | some (s, _, _) => some (BitVec.ofNat 8 s, r)
    | none => huffSymbol codes fuel (l + 1) c' r

/-- `n` symbols read from a bit string. -/
def huffSymbols (codes : List (Nat × Nat × Nat)) : Nat → List Bool → Option (List Byte × List Bool)
  | 0, l => some ([], l)
  | n + 1, l =>
    match huffSymbol codes 15 0 0 l with
    | none => none
    | some (s, r) =>
      match huffSymbols codes n r with
      | none => none
      | some (ss, r') => some (s :: ss, r')

/-- The blocks of a KLZ body decoded into the token stream; anything R139 or R140 forbids is an error. -/
def klzUnblock : Nat → List Byte → Option (List Byte)
  | 0, _ => none
  | fuel + 1, l =>
    match l with
    | hd :: l1 :: l2 :: rest =>
      let mode := bits hd 0 2
      let n := leNat [l1, l2] + 1
      let last := hd.getLsbD 7
      let cont := fun (tok after : List Byte) =>
        if last then (if after = [] then some tok else none)
        else if n ≠ 65536 then none
        else (klzUnblock fuel after).map (tok ++ ·)
      if bits hd 2 5 ≠ 0 then none
      else if mode = 1 then
        (if rest.length < n then none else cont (rest.take n) (rest.drop n))
      else if mode = 0 then
        if rest.length < 128 then none
        else
          let len := (List.range 256).foldl
            (fun t s =>
              let b := (rest.getD (s / 2) 0)
              tabSet 0 t s (if s % 2 = 0 then bits b 0 4 else bits b 4 4)) ([] : List (Nat × Nat))
          if len = [] ∨ 32768 < kraftSum len then none
          else
            let all := bitsLsb (rest.drop 128)
            match huffSymbols (canonicalCodes len) n all with
            | none => none
            | some (tok, left) =>
              let used := all.length - left.length
              let bytes := ceilDiv used 8
              if (left.take (8 * bytes - used)).all (· == false) then cont tok (rest.drop (128 + bytes)) else none
      else none
    | _ => none

/-- The sum of an extension and what follows it (R137). -/
def readExt : List Byte → Option (Nat × List Byte)
  | [] => none
  | b :: r => if b = 255#8 then (readExt r).map fun (v, x) => (v + 255, x) else some (b.toNat, r)

/-- `n` bytes copied one at a time from `off` bytes before the end of the output, which is held newest first. -/
def copyBack (off : Nat) : Nat → List Byte → List Byte
  | 0, out => out
  | n + 1, out => copyBack off n (out.getD (off - 1) 0 :: out)

/-- The decoder's walk over the token stream (R138): the output is held newest first. -/
def klzUntoken (inLen : Nat) : Nat → List Byte → List Byte → Option (List Byte)
  | 0, _, _ => none
  | fuel + 1, tok, out =>
    match tok with
    | [] => none
    | ctrl :: r =>
      let ln := bits ctrl 4 4
      let mn := bits ctrl 0 4
      match (if ln = 15 then (readExt r).map fun (v, x) => (15 + v, x) else some (ln, r)) with
      | none => none
      | some (ll, r1) =>
        if r1.length < ll ∨ inLen < out.length + ll then none
        else
          let out1 := (r1.take ll).reverse ++ out
          let r2 := r1.drop ll
          if out1.length = inLen then (if mn = 0 ∧ r2 = [] then some out1.reverse else none)
          else match r2 with
            | o1 :: o2 :: r3 =>
              let off := leNat [o1, o2] + 1
              match (if mn = 15 then (readExt r3).map fun (v, x) => (19 + v, x) else some (4 + mn, r3)) with
              | none => none
              | some (ml, r4) =>
                if out1.length < off ∨ inLen < out1.length + ml ∨ 65536 < ml then none
                else
                  let out2 := copyBack off ml out1
                  if out2.length = inLen then (if r4 = [] then some out2.reverse else none)
                  else klzUntoken inLen fuel r4 out2
            | _ => none

/-- A KLZ body of a run of `inLen` bytes decoded, or a format error (R138, R151). -/
def klzDecode (inLen : Nat) (body : List Byte) : Option (List Byte) :=
  match klzUnblock (body.length + 1) body with
  | none => none
  | some tok => klzUntoken inLen (tok.length + 1) tok []

/-- The plaintext of one run frame at the head of `l` and what follows it, or a format error: checks 2 to 5 of R151.
`want` is the IN_LEN the run must have. -/
def runPlain (compressed : Bool) (want : Nat) (l : List Byte) : Option (List Byte × List Byte) :=
  let w0 := fieldLe l 0 4
  let w1 := fieldLe l 4 4
  let inLen := w0 % 2 ^ 21
  let raw := (w0 / 2 ^ 21) % 2 = 1
  let bodyLen := w1 % 2 ^ 21
  if l.length < 16 ∨ 2 ^ 22 ≤ w0 ∨ 2 ^ 21 ≤ w1 ∨ fieldLe l 12 4 ≠ 0 ∨ inLen ≠ want ∨ l.length < 16 + bodyLen
    ∨ (¬ compressed ∧ ¬ raw) ∨ (raw ∧ bodyLen ≠ inLen) ∨ (¬ raw ∧ inLen ≤ bodyLen) then none
  else
    let body := slice l 16 bodyLen
    match (if raw then some body else klzDecode inLen body) with
    | none => none
    | some out => if (crc32c out).toNat = fieldLe l 8 4 then some (out, l.drop (16 + bodyLen)) else none

/-- The plaintext of the runs of a body, each as long as R134 makes it (R151). -/
def runsPlain (compressed : Bool) : Nat → Nat → List Byte → Option (List Byte)
  | 0, _, l => if l = [] then some [] else none
  | n + 1, len, l =>
    match runPlain compressed (min len 1048576) l with
    | none => none
    | some (a, r) => (runsPlain compressed n (len - 1048576) r).map (a ++ ·)

end Sys2Proof.Machine
end

