-- ==== Sys2Proof/Machine/Interrupts.lean ====
section
/-!
DEFINITION. The interrupt controller (chapter 15): groups and bindings (R343), delivery (R345), end of service (R346),
the fast class (R347), plain pending words (R350) and the MSI-X mask rules.
-/

namespace Sys2Proof.Machine

/-! ### Sources and groups -/

/-- IC registers of a function at their Reset column. -/
def icFnDefault : IcFn := { en := false, nogrp := false, sel := 0, vsel := 0 }

/-- IC registers of function `f`. -/
def icFn (s : State) (f : Fn) : IcFn := tabGet icFnDefault s.ic.fns f.toNat

/-- Set the IC registers of function `f`. -/
def setIcFn (f : Fn) (v : IcFn) (s : State) : State :=
  { s with ic := { s.ic with fns := tabSet icFnDefault s.ic.fns f.toNat v } }

/-- The local source numbers of function `f` with a source behind them (R338): its CQs that exist, and its fixed
sources. -/
def sourcesOf (s : State) (f : Fn) : List Nat :=
  let cqs := (s.hq.cqs.filter fun p => p.1 / 8192 == f.toNat && decide (p.2.unit.st ≠ .stopped)).map fun p => p.1 % 8192
  if f = 0 then cqs ++ [8192] ++ List.range' 8256 151 ++ List.range' 8704 32 else cqs ++ [512]

/-- Place of a function's vector in the tables of groups. -/
def vecKey (f : Fn) (v : Nat) : Nat := f.toNat * 2048 + v

/-- The vectors that the sources of function `f` name, each once (R343). -/
def vectorsOf (s : State) (f : Fn) : List Nat := ((sourcesOf s f).map fun n => (srcOf s f n).vector).eraseDups

/-- Groups bound to a function (IC_STS). -/
def groupsOf (s : State) (f : Fn) : Nat := (vectorsOf s f).length

/-- All functions. -/
def allFns : List Fn := (List.range 64).map fun f => BitVec.ofNat 6 f

/-- Groups bound in the device (R343). -/
def groupsBound (s : State) : Nat := (allFns.map (groupsOf s)).sum

/-- Binding a new CQ source of function `f` to vector `v` needs no 1,025th group (R343). -/
def bindFits (s : State) (f : Fn) (v : Nat) : Bool := (vectorsOf s f).contains v || decide (groupsBound s < 1024)

/-- The sources of a group. -/
def groupSources (s : State) (f : Fn) (v : Nat) : List Nat := (sourcesOf s f).filter fun n => (srcOf s f n).vector == v

/-- The line of a source is at its active level (R341): low for SENSE 1, high otherwise. -/
def lineActive (sense : Nat) (line : Bool) : Bool := if sense = 1 then !line else line

/-- A source is pending now: a level source by its line, an edge source by its count (R341). -/
def pendingNow (s : State) (f : Fn) (n : Nat) : Bool :=
  let v := srcOf s f n
  if v.sense < 2 then lineActive v.sense (srcLine s f n) && !v.insvc else decide (0 < v.count)

/-- Fast source `n` is pending now. -/
def fastPendingNow (s : State) (n : Nat) : Bool :=
  let v := fastOf s n
  if v.sense < 2 then lineActive v.sense (fastLine s n) && !v.insvc else decide (0 < v.count)

/-! ### Delivery (R344, R345) -/

/-- The claim of a source: in service, one off an edge count, LOOKED clear (R345). -/
def claim (v : Src) : Src :=
  { v with insvc := true, looked := false, count := if v.sense < 2 then v.count else v.count - 1 }

/-- Word `w` of an MSI-X table entry; its mask bit resets to 1 as PCIe defines. PRESUMED (log entry 16). Unsafe. -/
def msixDefault (w : Nat) : Word := if w = 3 then 1#32 else 0

/-- MSI-X table word. -/
def msixWord (s : State) (f : Fn) (v w : Nat) : Word := tabGet (msixDefault w) s.ic.msix (vecKey f v * 4 + w)

/-- Set an MSI-X table word. -/
def setMsixWord (f : Fn) (v w : Nat) (x : Word) (s : State) : State :=
  { s with ic := { s.ic with msix := tabSet (msixDefault w) s.ic.msix (vecKey f v * 4 + w) x } }

/-- The vector or its function is masked under the PCIe rules. -/
def msixMasked (s : State) (f : Fn) (v : Nat) : Bool := (msixWord s f v 3).getLsbD 0 || tabGet false s.ic.fmask f.toNat

/-- The message write of a vector is issued: the memory write is sent, or the PBA bit is set while the mask holds
(R345). -/
def messageWrite (f : Fn) (v : Nat) (s : State) : State :=
  if msixMasked s f v then { s with ic := { s.ic with pba := tabSet false s.ic.pba (vecKey f v) true } }
  else emit (.msix f v) s

/-- A PBA message goes once nothing masks its vector. -/
def messageHeld (f : Fn) (v : Nat) (s : State) : State :=
  if tabGet false s.ic.pba (vecKey f v) && !msixMasked s f v then
    emit (.msix f v) { s with ic := { s.ic with pba := tabSet false s.ic.pba (vecKey f v) false } }
  else s

/-- A hold-off window of the group is open (R344). -/
def holding (s : State) (f : Fn) (v : Nat) : Bool := decide (s.tb.toNat < tabGet 0 s.ic.holdEnd (vecKey f v))

/-- The pending, unmasked sources of a group. -/
def groupPending (s : State) (f : Fn) (v : Nat) : List Nat :=
  (groupSources s f v).filter fun n => pendingNow s f n && !(srcOf s f n).masked

/-- A group is ready (R345, R343). -/
def groupReady (s : State) (f : Fn) (v : Nat) : Bool :=
  (icFn s f).en && decide (v < (allotOf s f).vectors) && !holding s f v
    && !(groupSources s f v).any (fun n => (srcOf s f n).insvc) && !(groupPending s f v).isEmpty

/-- The ready groups in group order: by function, then vector. -/
def readyGroups (s : State) : List (Fn × Nat) :=
  allFns.flatMap fun f =>
    if (icFn s f).en then ((sortBy (fun a b => decide (a < b)) (vectorsOf s f)).filter (groupReady s f)).map fun v => (f, v)
    else []

/-- The group that the engine serves next: the first ready one after the group served last, round robin (R345). The
manual gives the groups no numbers; this order is by function and vector. DESIGN CHOICE (log entry 15). -/
def nextGroup (s : State) : Option (Fn × Nat) :=
  let l := readyGroups s
  match l.find? fun g => decide (s.ic.lastGrp ≤ vecKey g.1 g.2) with
  | some g => some g
  | none => l.head?

/-- The delivery of a group (R345): snapshot, claim, message write, hold-off window. -/
def deliverGroup (f : Fn) (v : Nat) (s : State) : State :=
  let s := forEach (groupPending s f v) (fun n s => setSrc f n (claim (srcOf s f n)) s) s
  let s := messageWrite f v s
  let h := tabGet 0 s.ic.holdoff (vecKey f v)
  { s with ic := { s.ic with
    lastGrp := vecKey f v + 1
    holdEnd := tabSet 0 s.ic.holdEnd (vecKey f v) (if h = 0 then 0 else s.tb.toNat + 160 * h) } }

/-- The pending, unmasked fast sources. -/
def fastPending (s : State) : List Nat := (List.range 32).filter fun n => fastPendingNow s n && !(fastOf s n).masked

/-- The fast group is ready (R347). -/
def fastReady (s : State) : Bool :=
  s.ic.fastEn && decide (s.ic.fHoldEnd ≤ s.tb.toNat) && !(List.range 32).any (fun n => (fastOf s n).insvc)
    && !(fastPending s).isEmpty

/-- The delivery of the fast group on PF vector 0 (R347). -/
def deliverFast (s : State) : State :=
  let s := forEach (fastPending s) (fun n s => setFast n (claim (fastOf s n)) s) s
  let s := messageWrite 0 0 s
  { s with ic := { s.ic with fHoldEnd := if s.ic.fHoldoff = 0 then 0 else s.tb.toNat + 160 * s.ic.fHoldoff } }

/-! ### End of service (R346) -/

/-- The EOI of a source in service: a level source whose line is inactive and that no handler has looked at counts in
VANISHED. -/
def eoiSrc (line : Bool) (v : Src) : Src :=
  let gone := decide (v.sense < 2) && !lineActive v.sense line && !v.looked
  { v with insvc := false, vanished := if gone then satInc v.vanished else v.vanished }

/-- EOI of vector `v` of function `f`; a group with no source in service is ignored. -/
def eoiGroup (f : Fn) (v : Nat) (s : State) : State :=
  forEach ((groupSources s f v).filter fun n => (srcOf s f n).insvc)
    (fun n s => setSrc f n (eoiSrc (srcLine s f n) (srcOf s f n)) s) s

/-- EOI of the fast group. -/
def eoiFast (s : State) : State :=
  forEach ((List.range 32).filter fun n => (fastOf s n).insvc)
    (fun n s => setFast n (eoiSrc (fastLine s n) (fastOf s n)) s) s

/-! ### Words of 32 sources -/

/-- A word built from 32 bits. -/
def wordOf (b : Nat → Bool) : Word := BitVec.ofNat 32 ((List.range 32).map fun i => b2n (b i) * 2 ^ i).sum

/-- The bit that IC_ACTIVE shows of a source (R346). -/
def activeBit (line : Bool) (v : Src) : Bool := v.insvc && (decide (2 ≤ v.sense) || lineActive v.sense line)

/-- The look sets LOOKED on a level source that the read returns as 1 (R346). -/
def lookSrc (line : Bool) (v : Src) : Src :=
  if activeBit line v && decide (v.sense < 2) then { v with looked := true } else v

/-- A PEND bit is written (R341): level sources ignore it. -/
def pendWrite (b : Bool) (v : Src) : Src :=
  if v.sense < 2 then v else { v with count := if b then max 1 v.count else 0 }

/-- A SENSE code is written (R341): a change clears the count, codes 6 and 7 change nothing. -/
def senseWrite (c : Nat) (v : Src) : Src :=
  if 6 ≤ c ∨ c = v.sense then v else { v with sense := c, count := 0 }

/-- IC_PEND word `w` of function `f`. -/
def pendWord (s : State) (f : Fn) (w : Nat) : Word :=
  wordOf fun i => srcExists s f (32 * w + i) && pendingNow s f (32 * w + i)

/-- IC_MASK word `w` of function `f`: a number with no source reads its reset value. -/
def maskWord (s : State) (f : Fn) (w : Nat) : Word := wordOf fun i => (srcOf s f (32 * w + i)).masked

/-- IC_ACTIVE word `w` of function `f`. -/
def activeWord (s : State) (f : Fn) (w : Nat) : Word :=
  wordOf fun i => srcExists s f (32 * w + i) && activeBit (srcLine s f (32 * w + i)) (srcOf s f (32 * w + i))

/-- Words of the normal bank's maps (R404): 280 for the PF, 17 for a VF. -/
def icWords (f : Fn) : Nat := if f = 0 then 280 else 17

/-- The look at IC_ACTIVE word `w` (R346). -/
def lookWord (f : Fn) (w : Nat) (s : State) : State :=
  forEach ((List.range' (32 * w) 32).filter (srcExists s f)) (fun n s => setSrc f n (lookSrc (srcLine s f n) (srcOf s f n)) s) s

/-- The look at IC_F_ACTIVE. -/
def lookFast (s : State) : State :=
  forEach (List.range 32) (fun n s => setFast n (lookSrc (fastLine s n) (fastOf s n)) s) s

/-- IC_F_ACTIVE. -/
def fastActiveWord (s : State) : Word := wordOf fun n => activeBit (fastLine s n) (fastOf s n)

/-- IC_F_PEND. -/
def fastPendWord (s : State) : Word := wordOf (fastPendingNow s)

/-- A write of IC_PEND word `w`. -/
def pendWordWrite (f : Fn) (w : Nat) (value : Word) (s : State) : State :=
  forEach ((List.range' (32 * w) 32).filter (srcExists s f))
    (fun n s => setSrc f n (pendWrite (value.getLsbD (n % 32)) (srcOf s f n)) s) s

/-- A write of IC_MASK word `w`. -/
def maskWordWrite (f : Fn) (w : Nat) (value : Word) (s : State) : State :=
  forEach ((List.range' (32 * w) 32).filter (srcExists s f))
    (fun n s => setSrc f n { srcOf s f n with masked := value.getLsbD (n % 32) } s) s

/-- A write of IC_SRC_CFG for the selected source (R341, R343): SENSE, and VECTOR where the source's vector may be set
here, the value is below VECTORS and the binding needs no 1,025th group. -/
def srcCfgWrite (f : Fn) (value : Word) (s : State) : State :=
  let n := (icFn s f).sel
  if !srcExists s f n then s
  else
    let s := setSrc f n (senseWrite (bits value 0 3) (srcOf s f n)) s
    let v := bits value 8 11
    let isCq := if f = 0 then decide (n < 8192) else decide (n < 512)
    if isCq || decide ((allotOf s f).vectors ≤ v) then s
    else
      let s' := setSrc f n { srcOf s f n with vector := v } s
      if groupsBound s' ≤ 1024 then s' else setIcFn f { icFn s f with nogrp := true } s

/-- The source of a new CQ names its vector, and its mask bit is the inverse of IEN (R343). -/
def bindCq (f : Fn) (q v : Nat) (ien : Bool) (s : State) : State :=
  setSrc f q { srcDefault (srcKey f q) with vector := v, masked := !ien } s

/-- The source of a CQ that no longer exists (R338): its entry returns to reset values. -/
def unbindCq (f : Fn) (q : Nat) (s : State) : State := setSrc f q (srcDefault (srcKey f q)) s

/-- IC registers and hold-offs of a function return to reset values (R124, R362). -/
def icReset (f : Fn) (s : State) : State :=
  { s with ic := { s.ic with
    fns := tabSet icFnDefault s.ic.fns f.toNat icFnDefault
    srcs := s.ic.srcs.filter fun p => p.1 / 16384 != f.toNat
    holdoff := s.ic.holdoff.filter fun p => p.1 / 2048 != f.toNat
    holdEnd := s.ic.holdEnd.filter fun p => p.1 / 2048 != f.toNat } }

/-! ### Meanings -/

/-- A source's line changes level and is sensed (R341, R342). -/
def execSourceLineChange (t : Time) (f : Fn) (fast : Bool) (src : Nat) (s : State) : Host.Outcome State Fault Refusal :=
  let s := advance t s
  .next (if fast then (if src = 7 then s else senseFast src s) else senseSrc f src s)

/-- The delivery engine serves the next ready group, if one is ready (R345). -/
def execInterruptDelivery (t : Time) (s : State) : Host.Outcome State Fault Refusal :=
  let s := advance t s
  match nextGroup s with
  | none => .next s
  | some (f, v) => .next (deliverGroup f v s)

/-- The fast group is delivered when it is ready (R347). -/
def execFastDelivery (t : Time) (s : State) : Host.Outcome State Fault Refusal :=
  let s := advance t s
  .next (if fastReady s then deliverFast s else s)

/-- A hold-off window ends: the group may be ready again at this edge (R344). -/
def execHoldoffExpiry (t : Time) (f : Fn) (fast : Bool) (vec : Nat) (s : State) : Host.Outcome State Fault Refusal :=
  let s := advance t s
  if fast then
    .next (if s.ic.fHoldEnd ≤ s.tb.toNat then { s with ic := { s.ic with fHoldEnd := 0 } } else s)
  else if holding s f vec then .next s
  else .next { s with ic := { s.ic with holdEnd := tabSet 0 s.ic.holdEnd (vecKey f vec) 0 } }

/-- A vector, or the function as a whole, is unmasked, and messages held in the PBA go (R345). -/
def execMsixUnmask (t : Time) (f : Fn) (vec : Option Nat) (s : State) : Host.Outcome State Fault Refusal :=
  let s := advance t s
  match vec with
  | some v => .next (messageHeld f v (setMsixWord f v 3 (msixWord s f v 3 &&& 0xFFFFFFFE#32) s))
  | none =>
    let s := { s with ic := { s.ic with fmask := tabSet false s.ic.fmask f.toNat false } }
    .next (forEach ((s.ic.pba.filter fun p => p.1 / 2048 == f.toNat).map fun p => p.1 % 2048) (messageHeld f) s)

/-- A write of a vector to IC_EOI (R346). -/
def execIcEoi (t : Time) (f : Fn) (value : Word) (s : State) : Host.Outcome State Fault Refusal :=
  let s := advance t s
  .next (if fnLive s f then eoiGroup f (bits value 0 11) s else s)

/-- A write of GO to IC_F_EOI (R346, R347). -/
def execIcFEoi (t : Time) (value : Word) (s : State) : Host.Outcome State Fault Refusal :=
  let s := advance t s
  .next (if regsLive s && value.getLsbD 0 then eoiFast s else s)

/-- A read of an IC_ACTIVE word or of IC_F_ACTIVE is the handler's look (R346). -/
def execIcActiveRead (t : Time) (f : Fn) (fast : Bool) (word : Nat) (s : State) : Host.Outcome State Fault Refusal :=
  let s := advance t s
  if !fetching s || !(f == 0 || s.hq.vfEnable) then .next s
  else if !regsLive s then .next (emit (.readValue f (if fast then 0xF00C else 0x1B00 + 4 * word) 0) s)
  else if fast then
    .next (if f = 0 then lookFast (emit (.readValue f 0xF00C ((fastActiveWord s).setWidth 64)) s) else s)
  else if icWords f ≤ word then .next s
  else .next (lookWord f word (emit (.readValue f (0x1B00 + 4 * word) ((activeWord s f word).setWidth 64)) s))

/-- A write of an IC_PEND word or of IC_F_PEND (R341, R350). -/
def execIcPendWrite (t : Time) (f : Fn) (fast : Bool) (word : Nat) (value : Word) (s : State) :
    Host.Outcome State Fault Refusal :=
  let s := advance t s
  if !fnLive s f then .next s
  else if fast then
    .next (if f = 0 then forEach (List.range 32) (fun n s => setFast n (pendWrite (value.getLsbD n) (fastOf s n)) s) s else s)
  else if icWords f ≤ word then .next s
  else .next (pendWordWrite f word value s)

/-- A write of IC_SRC_CFG (R341, R343, R405). -/
def execIcSrcCfgWrite (t : Time) (f : Fn) (value : Word) (s : State) : Host.Outcome State Fault Refusal :=
  let s := advance t s
  .next (if fnLive s f then srcCfgWrite f value s else s)

end Sys2Proof.Machine
end

