-- ==== Sys2Proof/Machine/Loops.lean ====
section
/-!
DEFINITION. Starting and stopping loop slots (R300), the default cascade that bring-up loads (R279), the profile limits
of the reel velocity slots (R95, R298), and which slots a mode runs (R24).
-/

namespace Sys2Proof.Machine

/-! ### Starting and stopping a slot (R300) -/

/-- What a start does to a slot beside its STATE: histories, integ and r cleared, ramp_sp taken from TGT; with BUMPLESS
the first computation sets ramp_sp. -/
def slotArm (v : Slot) : Slot :=
  { v with
    vals := { v.vals with hist := List.replicate 8 sectHistZero, integ := 0, rate := 0, rampSp := i32 v.regs.ramp.tgt * 65536 }
    fresh := true, frozen := false, ovrRun := 0, run := none }

/-- CTL.EN takes 1: a STOPPED slot starts, a STOPPING one latches the start (R49). -/
def slotStart (v : Slot) : Slot :=
  let w := { v with regs := { v.regs with ctl := v.regs.ctl ||| 1#32 }, unit := unitEnable v.unit }
  match v.unit.st with
  | .stopped => slotArm w
  | _ => w

/-- CTL.EN takes 0 (R300). -/
def slotStop (v : Slot) : Slot :=
  { v with regs := { v.regs with ctl := v.regs.ctl &&& 0xFFFFFFFE#32 }, unit := unitDisable v.unit }

/-! ### Profile limits (R95, R298, R427) -/

/-- Period of a slot of divider 32 in units of 5 ns. -/
def reelPeriod (s : State) : Nat := 32 * (bits s.ce.stroke 0 16 + 1)

/-- An acceleration in mm/s² as a slew register: 2^-8 LSB of 2^-24 m/s per computation. -/
def slewWord (s : State) (a : Nat) : Word :=
  BitVec.ofNat 32 (min (2 ^ 32 - 1) ((2 * a * reelPeriod s * 2 ^ 32 + 200000000000) / 400000000000))

/-- A jerk in mm/s³ as a jerk register: 2^-16 LSB of 2^-24 m/s per computation per computation. -/
def jerkWord (s : State) (j : Nat) : Word :=
  BitVec.ofNat 32 (min (2 ^ 32 - 1)
    ((2 * j * reelPeriod s * reelPeriod s * 2 ^ 40 + 40000000000000000000) / 80000000000000000000))

/-- Coxswain writes the profile limits of slots 12 and 13 while the slot's ramp is at rest (R298). -/
def profileWords (s : State) : State :=
  (List.range 2).foldl (fun s k =>
    let v := slotOf s (12 + k)
    if v.vals.rate ≠ 0 ∨ v.vals.rampSp ≠ i32 v.regs.ramp.tgt * 65536 then s
    else setSlot (12 + k) { v with regs := { v.regs with ramp := { v.regs.ramp with
      slew := slewWord s (param s 3 0), jerk := jerkWord s (param s 4 0)
      hslew := slewWord s (param s 5 0), hjerk := jerkWord s (param s 6 0) } } } s) s

/-! ### The default cascade (R279, R301, R303, R328) -/

/-- MRAM head calibration for the register at a BAR0 offset: a word that a procedure stored, and otherwise the value of
shipping, which the manual does not state. -/
def calRead (s : State) (off : Nat) : Word :=
  match s.logs.store.find? fun p => p.1 == off with
  | some p => p.2
  | none => Config.calWord off

/-- MRAM head calibration takes a word. -/
def calWrite (off : Nat) (w : Word) (s : State) : State :=
  { s with logs := { s.logs with held := true, store := (off, w) :: s.logs.store.filter fun p => p.1 != off } }

/-- A source field of R297. -/
def srcField (cls idx : Nat) (neg : Bool) : Nat := idx + cls * 2 ^ 8 + b2n neg * 2 ^ 15

/-- Divider, critical flag, HOLD_INVALID, M source, S1 and S2 sources, and command word of a default slot (R279, R301,
R328). Fine loops sense e_k as set-point minus y_k; heater loops sense m_k − m̄ as m̄ added to the set-point. -/
def defaultLoop (i : Nat) : Nat × Bool × Bool × Nat × Nat × Nat × Option Nat :=
  if i < 8 then (1, true, true, srcField 3 i false, 0, 0, some (4 * i))
  else match i with
    | 8 => (16, true, false, srcField 10 0 false, 0, 0, some 32)
    | 9 => (64, false, false, srcField 6 1 false, 0, 0, some 36)
    | 10 => (4, true, false, srcField 7 40 false, srcField 9 12 false, srcField 9 14 false, some 40)
    | 11 => (4, true, false, srcField 7 44 false, srcField 9 13 false, srcField 9 14 true, some 44)
    | 12 | 13 => (32, true, false, srcField 6 3 false, 0, 0, none)
    | 14 => (128, true, false, srcField 7 48 false, srcField 9 15 false, 0, none)
    | 15 => (256, false, true, srcField 6 0 false, 0, 0, none)
    | _ => (250, false, true, srcField 5 (i - 16) false, srcField 6 0 false, 0, some (52 + (i - 16)))

/-- CTL of a default slot: CRIT, HOLD_INVALID, the divider, and HOLD_ACT 1 on the reel velocity slots (R303). -/
def defaultCtl (i : Nat) : Word :=
  let (d, crit, inv, _) := defaultLoop i
  BitVec.ofNat 32 (b2n crit * 4 + b2n inv * 8 + (d - 1) * 2 ^ 8 + (if i = 12 ∨ i = 13 then 1 else 0) * 2 ^ 28)

/-- Offset of a slot's register window, both halves told apart. -/
def slotOffset (i : Nat) : Nat := 0x18000 + 1024 * i

/-- A coefficient pair from MRAM head calibration. -/
def calCoef (s : State) (off : Nat) : Coef := { value := calRead s off, shift := bits (calRead s (off + 4)) 0 5 }

/-- Section `n` of a slot whose window is at `o`, from MRAM head calibration (R309). -/
def calSect (s : State) (o n : Nat) : SectRegs :=
  let b := o + 0x100 + 64 * n
  { en := (calRead s (b + 0x28)).getLsbD 0, b0 := calCoef s b, b1 := calCoef s (b + 8), b2 := calCoef s (b + 0x10)
    a1 := calCoef s (b + 0x18), a2 := calCoef s (b + 0x20) }

/-- The registers that bring-up loads into default slot `i`: what R279 states, and the gains, clamps and set-points of
MRAM head calibration. -/
def defaultRegs (s : State) (i : Nat) : SlotRegs :=
  let (_, _, _, m, s1, s2, dest) := defaultLoop i
  let o := slotOffset i
  { ctl := defaultCtl i, src0 := BitVec.ofNat 32 m, src1 := BitVec.ofNat 32 (s1 + s2 * 2 ^ 16),
    out := (match dest with | some d => BitVec.ofNat 32 (d + 128) | none => 0), safe := calRead s (o + 0x18),
    omin := calRead s (o + 0x20), omax := calRead s (o + 0x24), imin := calRead s (o + 0x28), imax := calRead s (o + 0x2C),
    ramp := if i = 12 ∨ i = 13 then { slotRegsDefault.ramp with tgt := 0 }
            else { tgt := calRead s (o + 0x30), slew := calRead s (o + 0x34), jerk := calRead s (o + 0x38), hslew := 0, hjerk := 0 },
    gains := { kp := calCoef s (o + 0x50), ki := calCoef s (o + 0x58), kd := calCoef s (o + 0x60), kaw := calCoef s (o + 0x68)
               kff := calCoef s (o + 0x70), kl := calCoef s (o + 0x78) },
    rcCtl := 0, rcLen := 50000, rcQ := 0x00008000#32, sects := (List.range 8).map (calSect s o) }

/-- Bring-up loads the default loops into slots 0 to 23 (R279, R400), if MRAM holds a calibration. -/
def loadLoops (s : State) : State :=
  if s.logs.held then
    profileWords ((List.range 24).foldl (fun s i => setSlot i { slotDefault with regs := defaultRegs s i } s) s)
  else s

/-! ### Loops of a mode (R24, R300) -/

/-- The slots that Coxswain keeps running in a mode: the reel and tension loops wherever a cartridge is threaded, all
default loops in the motion modes. None: the mode leaves the slots as they are. -/
def modeSlots (m : Mode) : Option (List Nat) :=
  match m with
  | .idle | .thread => some (List.range' 10 5)
  | .locate | .write | .read | .verify | .erase => some (List.range 24)
  | _ => none

/-- Coxswain starts and stops the default slots for the mode that is entered. -/
def modeLoops (m : Mode) (s : State) : State :=
  match modeSlots m with
  | none => s
  | some on =>
    (List.range 24).foldl (fun s i =>
      let v := slotOf s i
      if v.regs == slotRegsDefault then s
      else if on.contains i && s.gl.cart then setSlot i (slotStart v) s
      else setSlot i (slotStop v) s) s

/-- On entry to a mode other than CALIBRATE and SERVICE, slots 25 to 63 stop, and slot 24 unless the mode is LOCATE
(R300). -/
def stopCustom (m : Mode) (s : State) : State :=
  if m = .calibrate ∨ m = .service then s
  else
    (s.ce.slots.map Prod.fst).foldl (fun s i =>
      if 25 ≤ i ∨ (i = 24 ∧ m ≠ .locate) then setSlot i (slotStop (slotOf s i)) s else s) s

end Sys2Proof.Machine
end

