-- ==== Sys2Proof/Machine/Operands.lean ====
section
/-!
DEFINITION. Operand forms: the fields of a submission entry (R59), its reserved bits (R6), its field values as each
command defines them, scatter lists (R60, R61), and the places of output bytes in host memory.
-/

namespace Sys2Proof.Machine

/-! ### Fields of a submission entry (R59) -/

/-- The little-endian field of `n` bytes at byte `o` of an entry. -/
def eField (e : BitVec 512) (o n : Nat) : Nat := (e.toNat / 2 ^ (8 * o)) % 2 ^ (8 * n)

/-- OPCODE. -/
def eOpcode (e : BitVec 512) : Nat := eField e 0 1

/-- FLAGS bit 0, ORDERED (R112). -/
def eOrdered (e : BitVec 512) : Bool := (eField e 1 1).testBit 0

/-- FLAGS bit 1, DLIST. -/
def eDlist (e : BitVec 512) : Bool := (eField e 1 1).testBit 1

/-- TAG. -/
def eTag (e : BitVec 512) : BitVec 16 := BitVec.ofNat 16 (eField e 2 2)

/-- DATA_ADDR. -/
def eAddr (e : BitVec 512) : DWord := BitVec.ofNat 64 (eField e 8 8)

/-- DATA_LEN. -/
def eLen (e : BitVec 512) : Nat := eField e 16 4

/-- PARTITION (R84). -/
def ePart (e : BitVec 512) : Nat := eField e 4 1 % 64

/-- Byte 5: OPTIONS, TARGET, KIND, TYPE or operation of the command. -/
def eOpt (e : BitVec 512) : Nat := eField e 5 1

/-- KEY_SLOT (R84). -/
def eKey (e : BitVec 512) : Nat := eField e 6 2

/-- BLOCK of READ, VERIFY, LOCATE and ERASE. -/
def eBlock (e : BitVec 512) : Nat := eField e 24 8

/-- COUNT of READ and VERIFY. -/
def eCount (e : BitVec 512) : Nat := eField e 32 4

/-! ### The opcode table (R82) -/

/-- Queue and functions of an opcode: on an admin SQ, from the PF only. -/
structure OpRow where
  admin  : Bool
  pfOnly : Bool
  /-- the command uses a data buffer -/
  data   : Bool
deriving DecidableEq, Repr

/-- The row of an opcode; none for an opcode that is not listed (R82). -/
def opRow (op : Nat) : Option OpRow :=
  match op with
  | 0x01 | 0x02 | 0x06 | 0x07 => some { admin := false, pfOnly := false, data := true }
  | 0x03 | 0x04 | 0x05 => some { admin := false, pfOnly := false, data := false }
  | 0x08 => some { admin := false, pfOnly := true, data := false }
  | 0x10 | 0x12 | 0x17 | 0x18 => some { admin := true, pfOnly := false, data := true }
  | 0x11 | 0x13 | 0x14 | 0x15 | 0x16 | 0x19 => some { admin := true, pfOnly := false, data := false }
  | 0x20 | 0x21 | 0x23 | 0x25 | 0x26 | 0x27 | 0x2A => some { admin := true, pfOnly := true, data := false }
  | 0x22 | 0x24 | 0x28 | 0x29 => some { admin := true, pfOnly := true, data := true }
  | _ => none

/-- Bits of the command-specific bytes that a command defines: (byte, bits). All others are reserved. -/
def opBytes (e : BitVec 512) : List (Nat × Nat) :=
  let all (o n : Nat) : List (Nat × Nat) := (List.range n).map fun k => (o + k, 255)
  match eOpcode e with
  | 0x01 => [(4, 63), (5, 3)] ++ all 6 2 ++ all 24 4 ++ all 32 8
  | 0x02 => [(4, 63)] ++ all 6 2 ++ all 24 12 ++ all 40 8
  | 0x03 => [(4, 63), (5, 1)] ++ all 6 2 ++ all 24 12
  | 0x05 => [(4, 63)] ++ all 24 2
  | 0x06 => [(4, 63)]
  | 0x07 => all 24 2 ++ all 32 8
  | 0x08 => [(4, 63), (5, 3)] ++ all 24 8
  | 0x10 => all 24 5 ++ [(29, 7), (30, 1)]
  | 0x11 | 0x13 => all 24 2
  | 0x12 => all 24 6 ++ [(30, 15)]
  | 0x14 => all 24 4
  | 0x15 => all 24 2 ++ [(26, 63)]
  | 0x16 => [(5, 1)] ++ all 24 2 ++ [(26, 63)] ++ all 32 8
  | 0x17 => all 24 1 ++ all 28 4
  | 0x18 => (5, 1) :: (if (eOpt e).testBit 0 then all 24 2 else [])
  | 0x19 => [(5, 3)] ++ all 24 4
  | 0x22 => [(5, 1)] ++ all 24 1
  | 0x23 => [(4, 63), (5, 3)] ++ (if eOpt e % 4 = 0 then all 24 8 else [])
  | 0x24 => [(24, 127), (28, 255)] ++ all 30 2
  | 0x25 => [(5, 255)] ++ all 24 2
  | 0x28 => [(24, 7)]
  | 0x29 => [(5, 3)] ++ all 24 4
  | _ => []

/-- Bits that every command defines: OPCODE, FLAGS bits 0 and 1, TAG, DATA_ADDR and DATA_LEN. -/
def commonBytes : List (Nat × Nat) :=
  [(0, 255), (1, 3), (2, 255), (3, 255)] ++ (List.range 12).map fun k => (8 + k, 255)

/-- Every reserved bit of the entry is 0 (R6, R82). -/
def reservedZero (e : BitVec 512) : Bool :=
  let ok := commonBytes ++ opBytes e
  (List.range 64).all fun k =>
    let m := (ok.filter fun p => p.1 == k).foldl (fun m p => m ||| p.2) 0
    (eField e k 1) &&& (255 - m) == 0

/-- The data pointer of the entry is well formed as far as the entry shows it (R59, R60): no buffer, bytes 8 to 19
zero; a direct buffer of at least one byte; a first segment aligned to 16 B of 1 to 4,096 elements. -/
def pointerOk (e : BitVec 512) (needs : Bool) : Bool :=
  if !needs then eField e 8 12 == 0
  else if eDlist e then (eAddr e).toNat % 16 == 0 && decide (1 ≤ eLen e) && decide (eLen e ≤ 4096)
  else decide (1 ≤ eLen e)

/-- The command needs its data buffer: always, but for LC_CHANGE without an authorisation and CALIBRATE without units
(R98, R101). -/
def needsData (e : BitVec 512) (row : OpRow) : Bool :=
  row.data && !(eOpcode e == 0x28 && eField e 8 12 == 0) && !(eOpcode e == 0x24 && eField e 30 2 == 0)

/-- The direct buffer has exactly the length the command asks for, where DLIST is 0; the length of a scatter list is
known only once it is walked. -/
def lenIs (e : BitVec 512) (n : Nat) : Bool := eDlist e || eLen e == n

/-- A key-slot field is 0xFFFF or below KEY_COUNT (R84). -/
def keyFieldOk (s : State) (f : Fn) (e : BitVec 512) : Bool :=
  eKey e == 65535 || decide (eKey e < (allotOf s f).keyCount)

/-- Range of a parameter (R95). -/
def paramRange (id v : Nat) : Bool :=
  match id with
  | 1 => decide (v ≤ 60000)
  | 2 => decide (v ≤ 600)
  | 3 => decide (100 ≤ v) && decide (v ≤ 8000)
  | 4 => decide (1000 ≤ v) && decide (v ≤ 400000)
  | 5 => decide (1000 ≤ v) && decide (v ≤ 10000)
  | 6 => decide (10000 ≤ v) && decide (v ≤ 500000)
  | 7 => v == 0 || v == 2 || v == 4
  | 8 => decide (30 ≤ v) && decide (v ≤ 604800)
  | 9 => true
  | 10 => decide (v ≤ 15)
  | _ => false

/-- A parameter of device scope (R95): every one but PART_ACCESS. -/
def paramDevice (id : Nat) : Bool := id != 9

/-- The function whose value a parameter command names: device parameters have one value; a VF's 0 means itself
(R95). -/
def paramTarget (f : Fn) (id target : Nat) : Nat := if paramDevice id then 0 else if f = 0 then target else f.toNat

/-- Field values as the command defines them, as far as entry and allotment decide them (R83 step 2). The values of
the queue admin commands are judged with the queues (R72). -/
def fieldsOk (s : State) (f : Fn) (e : BitVec 512) : Bool :=
  match eOpcode e with
  | 0x01 =>
    let n := eField e 24 4
    decide (1 ≤ n) && decide (n ≤ 4096) && eField e 32 8 % 4 == 0 && (n != 1 || eField e 32 8 == 0)
      && keyFieldOk s f e && !((eOpt e).testBit 1 && eKey e == 65535)
      && (eDlist e || (decide (n ≤ eLen e) && decide (eLen e ≤ if n = 1 then 268435456 else 1073741824)))
  | 0x02 => decide (1 ≤ eCount e) && decide (eCount e ≤ 4096) && eField e 40 8 % 4 == 0 && keyFieldOk s f e
  | 0x03 => ((eOpt e).testBit 0 || decide (1 ≤ eCount e)) && keyFieldOk s f e
  | 0x06 => eDlist e || decide (64 ≤ eLen e)
  | 0x07 =>
    let n := eField e 24 2
    decide (1 ≤ n) && decide (n ≤ 8192) && eField e 32 8 % 2 == 0 && lenIs e (16 * n)
  | 0x08 => eOpt e % 4 != 3
  | 0x14 => decide (eField e 24 2 < (allotOf s f).qcount)
  | 0x15 => decide (1 ≤ eField e 24 2) && decide (eField e 24 2 ≤ 10) && (f = 0 || eField e 26 1 == 0)
  | 0x16 => paramRange (eField e 24 2) (eField e 32 8) && (f = 0 || eField e 26 1 == 0)
  | 0x17 => decide (1 ≤ eField e 24 1) && decide (eField e 24 1 ≤ 7)
  | 0x18 =>
    if (eOpt e).testBit 0 then lenIs e 40 && decide (eField e 24 2 < (allotOf s f).keyCount) else lenIs e 384
  | 0x19 =>
    (eOpt e).testBit 1 ||
      (decide (1 ≤ eField e 26 2) && decide (eField e 26 2 ≤ 1024)
        && decide (eField e 24 2 + eField e 26 2 ≤ (allotOf s f).keyCount))
  | 0x22 => decide (1 ≤ eField e 24 1) && decide (eField e 24 1 ≤ 64) && lenIs e (4 * eField e 24 1)
  | 0x23 => eOpt e % 4 != 3
  | 0x24 =>
    decide (eField e 30 2 ≤ 1224) && ((eField e 24 1).testBit 6 || eField e 30 2 == 0)
      && (eField e 30 2 == 0 || lenIs e (2 * eField e 30 2))
  | 0x25 => decide (1 ≤ eOpt e) && decide (eOpt e ≤ 4) && (decide (eOpt e < 3) || decide (eField e 24 2 < rosterSize))
  | 0x29 => eDlist e || decide (eLen e ≤ 262144)
  | _ => true

/-! ### Scatter lists (R60, R61) -/

/-- Data pieces of a segment walked at most `fuel` segments deep: (address, length) of each data element in order;
none where the pointer is malformed (R61). -/
def walkSegs : Nat → DWord → Nat → List SgSeg → Option (List (DWord × Nat))
  | 0, _, _, _ => none
  | fuel + 1, addr, count, segs =>
    match segs with
    | [] => none
    | g :: rest =>
      if g.addr ≠ addr || g.elems.length ≠ count || addr.toNat % 16 ≠ 0 || count < 1 || 4096 < count then none
      else
        let bad (x : SgElem) : Bool := x.rsv != 0 || decide (1 < x.type.toNat) || x.len == 0
        if g.elems.any bad then none
        else
          let (datas, chains) := (g.elems.dropLast, g.elems.getLast?)
          if datas.any fun x => x.type == 1 then none
          else
            let pieces := datas.map fun x => (x.addr, x.len.toNat)
            match chains with
            | none => none
            | some x =>
              if x.type = 1 then
                match walkSegs fuel x.addr x.len.toNat rest with
                | none => none
                | some more => some (pieces ++ more)
              else if rest.isEmpty then some (pieces ++ [(x.addr, x.len.toNat)]) else none

/-- The pieces of host memory that the data pointer of an entry names, or none where it is malformed: more than
262,144 data elements, or a fault of R61. -/
def dataPieces (e : BitVec 512) (segs : List SgSeg) : Option (List (DWord × Nat)) :=
  if eDlist e then
    match walkSegs (segs.length + 1) (eAddr e) (eLen e) segs with
    | none => none
    | some p => if p.length ≤ 262144 then some p else none
  else some [(eAddr e, eLen e)]

/-- Total length of some pieces. -/
def piecesLen (p : List (DWord × Nat)) : Nat := (p.map Prod.snd).sum

/-- The pieces from byte `o` on for `n` bytes. -/
def piecesAt : List (DWord × Nat) → Nat → Nat → List (DWord × Nat)
  | [], _, _ => []
  | (a, l) :: r, o, n =>
    if n = 0 then []
    else if l ≤ o then piecesAt r (o - l) n
    else
      let k := min n (l - o)
      (a + BitVec.ofNat 64 o, k) :: piecesAt r 0 (n - k)

/-- Output bytes placed at byte `o` of the output area (R88). -/
def writeArea (f : Fn) (p : List (DWord × Nat)) (o : Nat) (bytes : List Byte) (s : State) : State :=
  ((piecesAt p o bytes.length).foldl
    (fun (acc : List Byte × State) (x : DWord × Nat) =>
      (acc.1.drop x.2, emit (.hostWrite f x.1 (acc.1.take x.2)) acc.2)) (bytes, s)).2

/-- Bytes of the output area from `o` on that are undefined (R61, R119, R152). -/
def undefineArea (f : Fn) (p : List (DWord × Nat)) (o n : Nat) (s : State) : State :=
  forEach (piecesAt p o n) (fun x s => emit (.undefinedArea f x.1 x.2) s) s

end Sys2Proof.Machine
end

