-- ==== Sys2Proof/Machine/Control.lean ====
section
/-!
DEFINITION. Operations that several families share: mode changes (R21, R300), write staging (R256 to R258), completion
of commands (R62, R63, R109), voided blocks (R108), lost ranges (R128, R129), FLUSH (R115, R130), write sessions (R14,
R157), entry to HOLD (R29, R30).
-/

namespace Sys2Proof.Machine

/-! ### Modes -/

/-- GL_MODE.CUR takes mode `m`: PREV, GL_MODE_TS, the pulse of source 80, fast source 0, the slots of R300, and the
gate delay that starts to run on entry to IDLE and stops on leaving it (R19, R24, R339). -/
def setMode (m : Mode) (s : State) : State :=
  if s.gl.cur = m then s
  else
    let s := { s with gl := { s.gl with prev := s.gl.cur, cur := m, modeTs := s.tb } }
    let delay := param s 2 0
    let s := { s with crew := { s.crew with
      gateAt := if m = .idle ∧ delay ≠ 0 then some (s.tb + BitVec.ofNat 64 (delay * 1600000000)) else none } }
    senseFast 0 (pulseInternal 80 (modeLoops m (stopCustom m s)))

/-! ### Write staging (R256 to R258) -/

/-- Bytes of a staging page. -/
def pageBytes : Nat := 2097152

/-- MiB in bytes. -/
def mib : Nat := 1048576

/-- Write staging in use, in bytes. -/
def stagingUsed (s : State) : Nat := (s.sm.grants.map fun g => g.bytes).sum

/-- Write staging that function `f` holds, in bytes. -/
def stagingOf (s : State) (f : Fn) : Nat := ((s.sm.grants.filter fun g => g.ref.fn == f).map fun g => g.bytes).sum

/-- The most that write staging may hold: the shared region less READ_MIN (R257). -/
def stagingLimit (s : State) : Nat := (47104 - 64 * bits s.sm.buf 0 10) * mib

/-- Quota of a function in bytes, 0 for no limit. -/
def quotaOf (s : State) (f : Fn) : Nat := tabGet 0 s.sm.quota f.toNat * 64 * mib

/-- The function's quota admits a grant of `need` bytes (R258). -/
def quotaAdmits (s : State) (f : Fn) (need : Nat) : Bool :=
  let q := quotaOf s f
  q == 0 || decide (stagingOf s f + need ≤ q) || (decide (q < need) && stagingOf s f == 0)

/-- The lowest `n` pages of the shared region that no grant holds. -/
def freePages (s : State) (n : Nat) : List Nat :=
  let used := s.sm.grants.flatMap fun g => g.pages
  ((List.range (used.length + n)).filter fun p => !used.contains p).take n

/-- The least recently used data sets leave the read cache until it fits beside staging (R257). -/
def trimCache : Nat → State → State
  | 0, s => s
  | n + 1, s =>
    let size := (s.rdr.cache.map fun c => c.payload.length).sum
    if stagingUsed s + size ≤ 47104 * mib then s
    else
      let oldest := (s.rdr.cache.map fun c => c.used).foldl min ((s.rdr.cache.headD { part := 0, dsn := 0, kind := 0, payload := [], used := 0, given := false }).used)
      trimCache n { s with rdr := { s.rdr with cache := s.rdr.cache.filter fun c => c.used != oldest } }

/-- The runs of an APPEND whose data lies in staging: they wait for an engine, or, with COMPRESS 0, the staging DMA
frames them raw (R136, R147). -/
def startRuns (c : InFlight) (s : State) : State :=
  let all := (c.recs.zipIdx.map fun (b, n) => (recordRuns (runCount b.length) b).zipIdx.map fun (r, k) => (n, k, r)).flatten
  if (eOpt c.entry).testBit 0 then
    let runs := all.map fun (n, k, r) =>
      ({ ref := c.ref, order := c.order, recNo := n, run := k, decomp := false, input := r, tape := false, epoch := 0, tried := [],
         live := true } : Run)
    { s with eng := { s.eng with waiting := s.eng.waiting ++ runs } }
  else { s with eng := { s.eng with frames := s.eng.frames ++ all.map fun (n, k, r) => (c.ref, n, k, runFrame false r) } }

/-- An APPEND takes staging space, and its data enters it (R106, R256). -/
def grantTo (c : InFlight) (s : State) : State :=
  let g : Grant := { ref := c.ref, pages := freePages s (c.bytes / pageBytes), bytes := c.bytes, accepted := false, recs := [] }
  let s := setCmd { c with stage := .staged } { s with sm := { s.sm with grants := s.sm.grants ++ [g] } }
  startRuns c (trimCache s.rdr.cache.length s)

/-- The grant pass of R258 over the APPENDs that wait, in fetch order: a function above its quota is passed over, and
the first one that finds no space ends the pass. -/
def grantList : List InFlight → State → State
  | [], s => s
  | c :: r, s =>
    if !quotaAdmits s c.ref.fn c.bytes then grantList r s
    else if stagingUsed s + c.bytes ≤ stagingLimit s then grantList r (grantTo c s)
    else s

/-- Commands in flight at a stage, in fetch order. -/
def atStage (s : State) (st : Stage) : List InFlight :=
  sortBy (fun a b => decide (a.order < b.order)) (s.hq.inflight.filter fun c => decide (c.stage = st))

/-- A grant pass (R258). -/
def grantPass (s : State) : State := grantList (atStage s .waiting) s

/-- The staging of a command is released (R256), and a grant pass follows. -/
def releaseStaging (r : CmdRef) (s : State) : State :=
  grantPass { s with sm := { s.sm with grants := s.sm.grants.filter fun g => g.ref != r } }

/-- A record's element leaves staging, once every data set that holds its bytes is resolved or has failed (R256). -/
def releaseRecord (part block : Nat) (s : State) : State :=
  let out := fun (x : Nat × Nat × Nat) => x.1 == part && x.2.1 == block
  let gs := (s.sm.grants.map fun g =>
    let gone := ((g.recs.filter out).map fun x => x.2.2).sum
    { g with recs := g.recs.filter fun x => !out x, bytes := g.bytes - gone }).filter fun g => !(g.accepted && g.recs.isEmpty)
  grantPass { s with sm := { s.sm with grants := gs } }

/-! ### Partitions -/

/-- A partition that the volume does not have. -/
def partNone : Part :=
  { start := 0, end_ := 0, eodPsa := 0, eodDsn := 0, base := 0, next := 0, session := none, elems := [],
    closes := [], carried := [], gone := [], dsn := 0, spanAt := 0, spanP := 0, span := [], placed := [], at_ := 0 }

/-- Partition `p` of the loaded volume. -/
def partOf (s : State) (p : Nat) : Part := tabGet partNone s.vol.parts p

/-- Set partition `p`. -/
def setPart (p : Nat) (v : Part) (s : State) : State :=
  { s with vol := { s.vol with parts := tabSet partNone s.vol.parts p v } }

/-- Number of partitions that commands may name: 1 for a volume without a table (R179). -/
def partCount (s : State) : Nat := if s.vol.count = 0 then 1 else s.vol.count

/-- Blocks [first, first + count) of a partition are voided: they stay assigned and carry no bytes (R108). -/
def voidBlocks (p first count : Nat) (s : State) : State :=
  let v := partOf s p
  setPart p { v with elems := v.elems.map fun e =>
    if first ≤ e.block ∧ e.block < first + count then { e with kind := .void, done := true, bytes := [], size := 0 } else e } s

/-- Every byte of the element, and its entry, lie in assembled data sets. -/
def wholly (e : Element) : Bool := e.placed && e.packed == e.size

/-- The elements of a partition that are still to be packed, in block order. -/
def unpacked (v : Part) : List Element := v.elems.filter fun e => !wholly e

/-! ### Work of a command on engines and pairs (R150, R172) -/

/-- Runs of the command that have not started are dropped, those in progress run to their end for nothing, and its
records at cipher pairs are abandoned with their captured copies (R150, R162). -/
def dropWork (r : CmdRef) (s : State) : State :=
  { s with
    eng := { s.eng with
      waiting := s.eng.waiting.filter fun w => w.ref != r
      busy := s.eng.busy.map fun (e, w) => (e, if w.ref = r then { w with live := false } else w)
      frames := s.eng.frames.filter fun x => x.1 != r }
    cy := { s.cy with
      waiting := s.cy.waiting.filter fun w => w.ref != r
      busy := s.cy.busy.filter fun (_, w) => w.ref != r } }

/-! ### Completion (R62 to R65, R109) -/

/-- The 32 B completion entry (R62). -/
def entryBytes (r0 r1 sqid sqHead : Nat) (tag : BitVec 16) (slot status : Nat) (phase more : Bool) (ts : Time) : List Byte :=
  natLe 8 r0 ++ natLe 4 r1 ++ natLe 2 sqid ++ natLe 2 sqHead ++ natLe 2 tag.toNat ++ natLe 2 slot ++ natLe 2 status
    ++ natLe 2 (b2n phase + 2 * b2n more) ++ natLe 8 ts.toNat

/-- The completion entry of a command is committed in its CQ: the tail moves on, and PHASE turns at the wrap (R63,
R64). -/
def postEntry (c : InFlight) (status r0 r1 : Nat) (more : Bool) (s : State) : State :=
  if 8192 ≤ c.ref.sq then s else
  let f := c.ref.fn
  let sq := sqOf s f c.ref.sq
  let cq := cqOf s f sq.cqid
  let bytes := entryBytes r0 r1 c.ref.sq sq.head c.ref.tag c.slot status cq.phase more s.tb
  let wrap := cq.tail + 1 = cq.depth
  let cq' := { cq with tail := if wrap then 0 else cq.tail + 1, phase := if wrap then !cq.phase else cq.phase }
  emit (.completion f sq.cqid cq.tail bytes) (setCq f sq.cqid cq' s)

/-- The command leaves the in-flight list, with its work, its flush and, unless it is an APPEND that succeeded, its
staging; blocks of an APPEND past its acceptance point are voided when it does not succeed (R108, R256). -/
def retire (c : InFlight) (status : Nat) (s : State) : State :=
  let s := { s with hq := { s.hq with
    inflight := s.hq.inflight.filter fun d => d.ref != c.ref
    flushes := s.hq.flushes.filter fun w => w.ref != c.ref } }
  let s := dropWork c.ref s
  let s := if eOpcode c.entry = 0x21 then { s with vol := { s.vol with unloadAt := none } } else s
  if eOpcode c.entry = 1 ∧ status ≠ 0 then
    let s := if c.stage = .accepted then voidBlocks (ePart c.entry) c.first c.count s else s
    releaseStaging c.ref s
  else s

/-- ABORTs that wait for the end of the command that `target` names complete with ABORT_COMPLETED_FIRST (R120). -/
def abortsDone (target : InFlight) (s : State) : State :=
  let waits := s.hq.inflight.filter fun a => decide (a.stage = .abortOwn) && a.ref.fn == target.ref.fn
    && eField a.entry 24 2 == target.ref.sq && BitVec.ofNat 16 (eField a.entry 26 2) == target.ref.tag
  forEach waits (fun a s => postEntry a 0x0102 0 0 false (retire a 0x0102 s)) s

/-- The register values of the admin queue pass R71 and R57. -/
def aqOk (s : State) (f : Fn) : Bool :=
  let h := hqFn s f
  decide (0 < (allotOf s f).qcount) && decide (1 ≤ bits h.aqSize 0 12) && decide (1 ≤ bits h.aqSize 16 12)
    && h.asqBase.toNat % 4096 == 0 && h.acqBase.toNat % 4096 == 0 && decide (bits h.aqVec 0 11 < (allotOf s f).vectors)

/-- A new submission queue, with both ends at 0 (R57, R71). -/
def sqNew (base : DWord) (depth cqid weight : Nat) : Sq :=
  { sqNone with unit := { st := .running, latch := none }, base := base, depth := depth, cqid := cqid, weight := weight }

/-- A new completion queue, with both ends at 0 and PHASE 1 (R57, R64). -/
def cqNew (base : DWord) (depth : Nat) : Cq :=
  { cqNone with unit := { st := .running, latch := none }, base := base, depth := depth }

/-- A function starts (R71): EN is refused with ERR set, or the admin queue exists. The start takes no time of its own
here. DESIGN CHOICE (log entry 4). -/
def fnStart (f : Fn) (s : State) : State :=
  let h := hqFn s f
  let vec := bits h.aqVec 0 11
  let refuse (s : State) : State := setHqFn f { hqFn s f with en := false, err := true, unit := unitStopped } s
  if !aqOk s f then refuse s
  else if !bindFits s f vec then refuse (setIcFn f { icFn s f with nogrp := true } s)
  else
    let s := setHqFn f { h with en := true, err := false, unit := { st := .running, latch := none } } s
    let s := setSq f 0 (sqNew h.asqBase (bits h.aqSize 0 12 + 1) 0 1) s
    bindCq f 0 vec (h.aqVec.getLsbD 16) (setCq f 0 (cqNew h.acqBase (bits h.aqSize 16 12 + 1)) s)

/-- The shut-down of a function ends once none of its commands is left: the admin queue goes, and a latched enable
starts it again (R71, R49). -/
def fnSettle (f : Fn) (s : State) : State :=
  let h := hqFn s f
  match h.unit.st with
  | .stopping =>
    if s.hq.inflight.any fun c => c.ref.fn == f && decide (c.ref.sq < 8192) then s
    else
      let s := unbindCq f 0 (setCq f 0 cqNone (setSq f 0 sqNone s))
      let u := unitDone h.unit
      let s := setHqFn f { h with unit := u } s
      match u.st with
      | .starting => fnStart f s
      | _ => s
  | _ => s

/-- A command completes: its entry is committed, it leaves the in-flight list, and ABORTs that waited for it complete
behind it (R120, R122). -/
def complete (r : CmdRef) (status r0 r1 : Nat) (more : Bool) (s : State) : State :=
  match findCmd s r with
  | none => s
  | some c => fnSettle r.fn (abortsDone c (retire c status (postEntry c status r0 r1 more s)))

/-- 64 bits of ones. -/
def ones64 : Nat := 2 ^ 64 - 1

/-- RESULT0 of a command that ends before its work is done: the block range of an APPEND (R109), bytes delivered of a
READ (R88), the block after the last one verified (R89). -/
def failR0 (c : InFlight) : Nat :=
  match eOpcode c.entry with
  | 0x01 => if c.stage = .accepted then c.first else ones64
  | 0x02 => c.bytes
  | 0x03 => c.first
  | _ => 0

/-- RESULT1 of a command that ends before its work is done. -/
def failR1 (c : InFlight) : Nat :=
  match eOpcode c.entry with
  | 0x02 => c.count % 65536
  | 0x03 => c.count % 2 ^ 32
  | _ => 0

/-- A command ends with a status other than SUCCESS. -/
def failCmd (r : CmdRef) (status : Nat) (s : State) : State :=
  match findCmd s r with
  | none => s
  | some c => complete r status (failR0 c) (failR1 c) false s

/-! ### Lost ranges and FLUSH (R115 to R117, R127 to R131) -/

/-- Two lost ranges in the order of R130: partition, then first block. -/
def lostBefore (a b : Lost) : Bool := decide (a.part < b.part) || (a.part == b.part && decide (a.first < b.first))

/-- Blocks with their owners, in order, as lost ranges: consecutive blocks of one function form one range (R128). -/
def lostRanges (p : Nat) : List Owned → List Lost
  | [] => []
  | o :: r =>
    match lostRanges p r with
    | [] => [{ fn := o.fn, part := p, first := o.block, count := 1 }]
    | l :: ls =>
      if l.fn = o.fn ∧ l.first = o.block + 1 then { l with first := o.block, count := l.count + 1 } :: ls
      else { fn := o.fn, part := p, first := o.block, count := 1 } :: l :: ls

/-- The LOST_RANGE event of a range: cause 1 scrubber, 2 write failure (R129, R360). -/
def lostEvent (cause : Nat) (l : Lost) (s : State) : State :=
  event l.fn l.fn 1 [BitVec.ofNat 64 l.first, BitVec.ofNat 64 (l.count % 2 ^ 32 + l.part * 2 ^ 32 + cause * 2 ^ 40)] s

/-- Some block that the flush point covers is still off tape and neither lost nor given up (R115), or lies in a burst
that has not ended (R220). -/
def offTape (s : State) (point : Nat) : Bool :=
  (s.vol.parts.any fun (_, v) => v.elems.any fun e => decide (e.seq < point) && decide (e.kind ≠ .void) && !e.lost)
    || (s.wr.sets.any fun r => !r.failed && r.set.owned.any fun o => decide (o.seq < point) && !o.void)

/-- A command whose flush is done completes with the first of the ranges `all`, in the order of R130 and told apart by
whether they were lost under this flush: WRITE_FAILED for those; what is not reported stays, and MORE says so behind a
COMMAND_DETAIL item (R87, R130). `r0` and `r1` are the results without a loss. -/
def flushReport (r : CmdRef) (c : InFlight) (r0 r1 : Nat) (all : List (Bool × Lost)) (s : State) : State :=
  match all with
  | [] => complete r 0 r0 r1 false s
  | (isOwn, l) :: rest =>
    let status := if isOwn then 0x0205 else 0x0501
    let s := { s with hq := { s.hq with lost := (s.hq.lost.filter fun x => x.fn != r.fn) ++ rest.map Prod.snd } }
    let s := if rest.isEmpty then s
      else event r.fn r.fn 3 [BitVec.ofNat 64 (r.sq + r.tag.toNat * 2 ^ 16 + c.slot * 2 ^ 32 + status * 2 ^ 48), BitVec.ofNat 64 rest.length] s
    complete r status l.first (min l.count (2 ^ 26 - 1) + l.part * 2 ^ 26) (!rest.isEmpty) s

/-- The flush of a command completes it with the range it reports (R87, R130): the lowest of the function's lost
ranges not yet cleared and of the ranges lost under this flush. -/
def completeFlush (r : CmdRef) (r0 r1 : Nat) (s : State) : State :=
  match findCmd s r with
  | none => s
  | some c =>
    let own := ((s.hq.flushes.find? fun w => w.ref == r).map fun w => w.losses).getD []
    let old := s.hq.lost.filter fun l => l.fn == r.fn
    flushReport r c r0 r1
      (sortBy (fun (a b : Bool × Lost) => lostBefore a.2 b.2) ((own.map fun l => (true, l)) ++ old.map fun l => (false, l))) s

/-- Every FLUSH whose covered blocks are all settled completes, one at a time (R115, R131). -/
def flushPass (s : State) : State :=
  forEach s.hq.flushes (fun w s =>
    match findCmd s w.ref with
    | none => s
    | some c => if eOpcode c.entry = 4 ∧ !offTape s w.point then completeFlush w.ref 0 0 s else s) s

/-- A flush begins for a command: its point is the present place in the acceptance order, and each partition's open
data set closes there (R14, R115). -/
def beginFlush (r : CmdRef) (s : State) : State :=
  let point := s.vol.accepted
  let parts := s.vol.parts.map fun (p, v) =>
    (p, if (unpacked v).any (fun e => decide (e.seq < point)) then { v with closes := v.closes ++ [{ seq := point, code := 1, session := 0 }] } else v)
  { s with vol := { s.vol with parts := parts },
           hq := { s.hq with flushes := s.hq.flushes ++ [{ ref := r, point := point, losses := [] }] } }

/-- The flush of a command that closes no data set: its point is the present place in the acceptance order (R93). -/
def noteFlush (r : CmdRef) (s : State) : State :=
  { s with hq := { s.hq with flushes := s.hq.flushes ++ [{ ref := r, point := s.vol.accepted, losses := [] }] } }

/-- New lost ranges: each is reported by an event, and becomes a loss of an outstanding flush of its function that
covers it, when it is a write failure, and otherwise a lost range not yet cleared (R127, R129, R130). -/
def addLosses (cause : Nat) (seq : Nat) (ls : List Lost) (s : State) : State :=
  forEach ls (fun l s =>
    let s := lostEvent cause l s
    let covers := fun (w : FlushRun) => w.ref.fn == l.fn && decide (seq < w.point)
    if cause = 2 ∧ s.hq.flushes.any covers then
      match s.hq.flushes.find? covers with
      | none => s
      | some w => { s with hq := { s.hq with flushes := s.hq.flushes.map fun x =>
          if x.ref = w.ref then { x with losses := x.losses ++ [l] } else x } }
    else { s with hq := { s.hq with lost := s.hq.lost ++ [l] } }) s

/-! ### Write sessions (R14, R157) -/

/-- The write session of partition `p` ends: the open data set closes there with CLOSE 3, and the span with it (R14,
R196, R197). -/
def endSession (p : Nat) (s : State) : State :=
  let v := partOf s p
  match v.session with
  | none => s
  | some n => setPart p { v with session := none, closes := v.closes ++ [{ seq := s.vol.accepted, code := 3, session := n }] } s

/-- Every open write session ends. -/
def endSessions (s : State) : State := forEach (s.vol.parts.map Prod.fst) endSession s

/-- The write burst stops where it is: data sets not settled are kept to be written again whole, with their ATTEMPT
(R30, R180, R325), from the end of the last block that has closed. -/
def dropBurst (s : State) : State :=
  let s := match s.wr.part, s.wr.block with
    | some p, some b =>
      let v := partOf s p
      setPart p { v with at_ := if b.sep && b.set.kind != 3 then s.wr.pos else b.at_ } s
    | _, _ => s
  let again := (s.wr.sets.filter fun r => !r.failed && decide (r.passed.length < 7936)).map fun r => (r.attempt, r.set)
  { s with wr := { s.wr with part := none, block := none, sets := [], queue := [], copies := [], ending := false,
                             again := again ++ s.wr.again } }

/-! ### HOLD (R28 to R30) -/

/-- A command needs tape motion: it stands in the tape queue or was chosen from it, or is a tape command that a
PARTITION or ERASE holds (R25, R114). -/
def isTape (c : InFlight) : Bool :=
  decide (c.stage = .queued) || decide (c.stage = .chosen)
    || (decide (c.stage = .held) && [0x03, 0x08, 0x20, 0x21, 0x22, 0x23, 0x24, 0x25].contains (eOpcode c.entry))

/-- A long or sanitising ERASE whose tape motion has begun. -/
def isLongErase (c : InFlight) : Bool :=
  eOpcode c.entry == 0x23 && eOpt c.entry % 4 != 0 && decide (c.stage = .running)

/-- The write gate of module `k` closes (R282): the closing counts, a GATE close cell goes out on both lanes (R318), and
frames that are not written to their end are cut. -/
def closeGate (k : Nat) (s : State) : State :=
  let m := servoMod s k
  if m.gate then
    let s := setServoMod k { m with gate := false, good := [], closing := some s.tb } s
    let s := { s with
      sv := { s.sv with wiCount := satInc s.sv.wiCount }
      wr := { s.wr with copies := s.wr.copies.map fun c =>
        if c.elem / 128 = k ∧ s.tb.toNat < c.last.toNat then { c with gated := true } else c } }
    emit (.cell (2 * k + 1) (controlCell 2 1 0)) (emit (.cell (2 * k) (controlCell 2 1 0)) s)
  else s

/-- Every write gate closes. -/
def closeGates (s : State) : State := forEach (List.range 8) closeGate s

/-- Commands at the entry to HOLD (R30): the long or sanitising ERASE in motion pauses, tape commands end with
MODE_REFUSED, a tape command past its point of no return included, and so does a FLUSH whose data is not all on tape
(R117). -/
def holdCommands (s : State) : State :=
  let s := { s with hq := { s.hq with inflight := s.hq.inflight.map fun c => if isLongErase c then { c with stage := .paused } else c } }
  let ends := s.hq.inflight.filter fun c => isTape c || (decide (c.stage = .running)
    && [0x08, 0x20, 0x21, 0x22, 0x23, 0x24, 0x25].contains (eOpcode c.entry))
  let s := forEach ends (fun c s => failCmd c.ref 0x0007 s) s
  let fl := s.hq.flushes.filter fun w => (match findCmd s w.ref with | some c => eOpcode c.entry == 4 | none => false) && offTape s w.point
  forEach fl (fun w s => failCmd w.ref 0x0007 s) s

/-- Entry to HOLD (R29, R30): write sessions and speed matching end (R268), HOLD_ENTRY event, write gates closed,
commands as R30 states. From the next stroke boundary each slot acts as its HOLD_ACT states (R303). -/
def enterHold (s : State) : State :=
  let s := endSessions (dropBurst s)
  let s := setMode .hold s
  let s := event 0 0 0x19 [(holdWord s).setWidth 64] s
  let s := closeGates s
  let s := { s with sm := { s.sm with hitch := .none, ramp := false, readStop := false } }
  holdCommands s

/-- A HOLD cause arises, `b` its LATCHED bit (R22, R28). In RESET and FILL it is latched; in HOLD it sets its bit; in
any other mode the device enters HOLD. -/
def holdCause (b : Nat) (s : State) : State :=
  let s := { s with gl := { s.gl with latched := s.gl.latched ||| BitVec.ofNat 7 (2 ^ b) } }
  if s.gl.cur = .reset ∨ s.gl.cur = .fill ∨ s.gl.cur = .hold then s else enterHold s

/-- Every fast source follows its condition (R340). -/
def senseFastAll (s : State) : State := forEach (List.range 10) (fun n s => if n = 7 then s else senseFast n s) s

/-- The end of a command: in END of the life cycle nothing but its own list is accepted (R39). -/
def lcEnd (s : State) : Bool := s.gl.lc == 4

end Sys2Proof.Machine
end

