-- ==== Sys2Proof/Machine/Galois.lean ====
section
/-!
DEFINITION. Arithmetic of GF(2^8) with the polynomial x^8 + x^4 + x^3 + x^2 + 1 (R184, R206) and the codes over it:
C2 (R206 to R208), C3 (R209, R210), the memory codes (R363 to R365) and the header code's decoder (R184).
-/

namespace Sys2Proof.Machine

/-! ### The field -/

/-- Multiplication by x. -/
def gfDouble (a : Byte) : Byte := if a.getLsbD 7 then (a <<< 1) ^^^ 0x1D#8 else a <<< 1

/-- The product of two field elements (R206). -/
def gfMul (a b : Byte) : Byte :=
  (List.range 8).foldl (fun acc i => gfDouble acc ^^^ (if b.getLsbD (7 - i) then a else 0#8)) 0#8

/-- The `n`-th power. -/
def gfPow (a : Byte) : Nat → Byte
  | 0 => 1
  | n + 1 => gfMul a (gfPow a n)

/-- α^n, with α = 0x02 (R206). -/
def alphaPow (n : Nat) : Byte := gfPow 2#8 (n % 255)

/-- The multiplicative inverse, 0 for 0. -/
def gfInv (a : Byte) : Byte := gfPow a 254

/-! ### Polynomials, coefficient of x^0 first -/

/-- Leading zero coefficients removed. -/
def polyTrim (p : List Byte) : List Byte := (p.reverse.dropWhile (· == 0#8)).reverse

/-- The sum of two polynomials. -/
def polyAdd : List Byte → List Byte → List Byte
  | [], q => q
  | p, [] => p
  | a :: p, b :: q => (a ^^^ b) :: polyAdd p q

/-- The product of two polynomials. -/
def polyMul : List Byte → List Byte → List Byte
  | [], _ => []
  | a :: p, q => polyAdd (q.map (gfMul a)) (0#8 :: polyMul p q)

/-- The value of a polynomial. -/
def polyEval (p : List Byte) (x : Byte) : Byte := p.foldr (fun c acc => gfMul acc x ^^^ c) 0#8

/-- The formal derivative: only odd powers survive. -/
def polyDeriv : List Byte → List Byte
  | [] => []
  | [_] => []
  | _ :: b :: r => b :: 0#8 :: polyDeriv r

/-- Division of `p` by the non-zero `d`: quotient and remainder. -/
def polyDivMod (d : List Byte) : Nat → List Byte → List Byte → List Byte × List Byte
  | 0, q, p => (q, p)
  | fuel + 1, q, p =>
    let p := polyTrim p
    if p.length < d.length then (q, p)
    else
      let c := gfMul (p.getLastD 0) (gfInv (d.getLastD 1))
      let s := List.replicate (p.length - d.length) 0#8
      polyDivMod d fuel (polyAdd q (s ++ [c])) (polyAdd p (s ++ d.map (gfMul c)))

/-- The extended Euclidean algorithm of the key equation: it stops at the first remainder of degree below `bound`
and gives that remainder with its cofactor. -/
def keyEuclid (bound : Nat) : Nat → List Byte → List Byte → List Byte → List Byte → List Byte × List Byte
  | 0, _, r1, _, t1 => (r1, t1)
  | fuel + 1, r0, r1, t0, t1 =>
    let r1 := polyTrim r1
    if r1.length ≤ bound then (r1, t1)
    else
      let (q, r) := polyDivMod r1 (r0.length + 1) [] r0
      keyEuclid bound fuel r1 r t1 (polyTrim (polyAdd t0 (polyMul q t1)))

/-! ### Systematic Reed–Solomon encoding, highest power first -/

/-- The generator with roots α^0 to α^(k-1), highest power first (R206, R209). -/
def rsGenerator : Nat → List Byte
  | 0 => [1]
  | k + 1 =>
    let g := rsGenerator k
    List.zipWith (· ^^^ ·) (g ++ [0]) (0 :: g.map (gfMul (alphaPow k)))

/-- The `k` parity symbols of a data string, from the highest power down (R207, R209, R363). -/
def rsParity (k : Nat) (data : List Byte) : List Byte :=
  let g := (rsGenerator k).drop 1
  data.foldl
    (fun reg d =>
      let fb := d ^^^ reg.headD 0
      List.zipWith (· ^^^ ·) (reg.drop 1 ++ [0]) (g.map (gfMul fb)))
    (List.replicate k 0#8)

/-- The `k` syndromes of a word given from its highest power down: its values at α^0 to α^(k-1). -/
def rsSyndromes (k : Nat) (word : List Byte) : List Byte :=
  (List.range k).map fun i => word.foldl (fun acc c => gfMul acc (alphaPow i) ^^^ c) 0#8

/-- Errors and erasures decoding of a word given from its highest power down. `erased` lists erased positions from
the front. A result is given only when 2e + f is at most `k` and e at most `emax` (R208): the corrected word and the
number of errors outside the erasures. -/
def rsDecode (k emax : Nat) (word : List Byte) (erased : List Nat) : Option (List Byte × Nat) :=
  let n := word.length
  let f := erased.length
  let locOf := fun (m : Nat) => alphaPow (n - 1 - m)
  let fix := fun (out : List Byte) =>
    if (rsSyndromes k out).all (· == 0#8) then
      let e := ((List.range n).filter fun m => !erased.contains m && out.getD m 0 != word.getD m 0).length
      if 2 * e + f ≤ k ∧ e ≤ emax then some (out, e) else none
    else none
  if k < f then none
  else
    let syn := rsSyndromes k word
    if syn.all (· == 0#8) then fix word
    else
      let gam := erased.foldl (fun g m => polyMul g [1, locOf m]) [1#8]
      let xi := (polyMul syn gam).take k
      let (om, lam) := keyEuclid ((k + f + 1) / 2) (k + 1) (List.replicate k 0#8 ++ [1]) xi [] [1]
      let psi := polyMul lam gam
      let der := polyDeriv psi
      fix ((List.range n).map fun m =>
        let x := locOf m
        let xi := gfInv x
        let c := word.getD m 0
        if polyEval psi xi = 0#8 then c ^^^ gfMul x (gfMul (polyEval om xi) (gfInv (polyEval der xi))) else c)

/-! ### C2 (R206 to R208) and C3 (R209, R210) -/

/-- The 24 C2 parity bytes of the 224 data bytes of a codeword (R207). -/
def c2Parity (data : List Byte) : List Byte := rsParity 24 data

/-- Decoding of one C2 codeword of 248 bytes with the erased members `erased` (R208). -/
def c2Decode (emax : Nat) (word : List Byte) (erased : List Nat) : Option (List Byte × Nat) := rsDecode 24 emax word erased

/-- The `p` C3 parity bytes of the 32 data bytes at one payload position (R209). -/
def c3Parity (p : Nat) (data : List Byte) : List Byte := rsParity p data

/-- Erasure-only decoding of one C3 codeword of 32 + p bytes (R210). -/
def c3Decode (p : Nat) (word : List Byte) (unknown : List Nat) : Option (List Byte) :=
  if unknown = [] then some word else (rsDecode p 0 word unknown).map (·.1)

/-! ### Memory codes (R363 to R365) -/

/-- What a read of a protected unit decides (R363, R364). -/
inductive ReadResult
  | clean
  | corrected (pos : Nat)
  | poisoned
  | uncorrectable
deriving DecidableEq, Repr

/-- The four check bytes of a 32 B unit, from x^3 down (R363). -/
def unitCheck (data : List Byte) : List Byte := rsParity 4 data

/-- The pattern over the four check bytes whose syndrome is (0, 0, 0, 0x01) (R365). -/
def poisonCheck : List Byte :=
  -- the four check positions hold the polynomial that vanishes at α^0, α^1 and α^2 and is 1 at α^3
  let g3 := rsGenerator 3
  let v := g3.foldl (fun acc c => gfMul acc (alphaPow 3) ^^^ c) 0#8
  g3.map (gfMul (gfInv v))

/-- The decision on a 36 B codeword of class 0 or 2 (R363), with the word after correction. -/
def unitRead (word : List Byte) : ReadResult × List Byte :=
  let s := rsSyndromes 4 word
  let s0 := s.getD 0 0
  if s.all (· == 0#8) then (.clean, word)
  else if s = [0#8, 0#8, 0#8, 1#8] then (.poisoned, word)
  else
    match (List.range 36).find? (fun k =>
        s0 ≠ 0#8 && (List.range 4).all fun i => s.getD i 0 == gfMul s0 (alphaPow (i * (35 - k)))) with
    | some k => (.corrected k, setAt word k (word.getD k 0 ^^^ s0))
    | none => (.uncorrectable, word)

/-- A 36 B codeword with its check bytes poisoned over its data (R365). -/
def unitPoison (word : List Byte) : List Byte :=
  let d := word.take 32
  d ++ xorBytes (unitCheck d) poisonCheck

/-- The codeword of 32 B of data (R363). -/
def unitWord (data : List Byte) : List Byte := data ++ unitCheck data

/-- The data bit positions of the 12-position Hamming code, d0 to d7 (R364). -/
def hamPos : List Nat := [3, 5, 6, 7, 9, 10, 11, 12]

/-- The 13 stored bits of a class 1 byte at positions 1 to 12 and c4 last, from a number whose bits are d[7:0] then
c[4:0] (R364, R378). -/
def hamBit (v : Nat) (pos : Nat) : Bool :=
  match pos with
  | 1 => v.testBit 8
  | 2 => v.testBit 9
  | 4 => v.testBit 10
  | 8 => v.testBit 11
  | _ => match hamPos.findIdx? (· == pos) with
    | some i => v.testBit i
    | none => false

/-- The stored form of a class 1 byte: d[7:0] in bits 0 to 7 and c[4:0] in bits 8 to 12 (R364). -/
def hamStore (b : Byte) : Nat :=
  let d := b.toNat
  let par := fun (m : Nat) =>
    ((List.range 8).filter fun i => d.testBit i && (hamPos.getD i 0).testBit m).length % 2
  let c := par 0 + 2 * par 1 + 4 * par 2 + 8 * par 3
  let all := ((List.range 8).filter fun i => d.testBit i).length + (par 0 + par 1 + par 2 + par 3)
  d + 256 * c + 4096 * (all % 2)

/-- The decision on the 13 stored bits of a class 1 byte (R364), with the bits after correction. The position of a
corrected bit is its index among the 13 stored bits. -/
def hamRead (v : Nat) : ReadResult × Nat :=
  let syn := (List.range 4).foldl
    (fun acc m =>
      let odd := (((List.range 12).filter fun i => (i + 1).testBit m && hamBit v (i + 1)).length % 2) == 1
      acc + (if odd then 2 ^ m else 0)) 0
  let odd := (((List.range 13).filter fun i => v.testBit i).length % 2) == 1
  let flip := fun (i : Nat) => if v.testBit i then v - 2 ^ i else v + 2 ^ i
  let idx := fun (pos : Nat) =>
    match pos with
    | 1 => 8 | 2 => 9 | 4 => 10 | 8 => 11
    | _ => (hamPos.findIdx? (· == pos)).getD 0
  if syn = 0 ∧ ¬ odd then (.clean, v)
  else if syn = 0 ∧ odd then (.corrected 12, flip 12)
  else if syn = 15 ∧ odd then (.poisoned, v)
  else if syn ≤ 12 ∧ odd then (.corrected (idx syn), flip (idx syn))
  else (.uncorrectable, v)

/-- A class 1 byte poisoned: 0b1_1111 XORed into c[4:0] of the correct bits (R365). -/
def hamPoison (v : Nat) : Nat :=
  let s := hamStore (BitVec.ofNat 8 v)
  (s % 256) + 256 * (31 - s / 256)

/-! ### The header code (R184) -/

/-- One step of the division by g(x) = 0x1_EE5B_42FD, most significant bit first. -/
def bchStep (r : BitVec 32) (b : Bool) : BitVec 32 :=
  if r.getLsbD 31 != b then (r <<< 1) ^^^ 0xEE5B42FD#32 else r <<< 1

/-- The 32 check bits of 64 information bits: the remainder of the information polynomial times x^32 (R184). -/
def bchCheck (info : BitVec 64) : BitVec 32 := (natBits 64 info.toNat).foldl bchStep 0

/-- The 96-bit header as written: codeword XOR the byte 0x6C repeated twelve times (R184). -/
def headerEncode (info : BitVec 64) : BitVec 96 :=
  (info ++ bchCheck info) ^^^ BitVec.ofNat 96 0x6C6C6C6C6C6C6C6C6C6C6C6C

/-- A received header decoded: the information bits and the number of corrected bits, at most 4 (R184). -/
def headerDecode (w : BitVec 96) : Option (BitVec 64 × Nat) :=
  let c := w ^^^ BitVec.ofNat 96 0x6C6C6C6C6C6C6C6C6C6C6C6C
  let word := (natBits 96 c.toNat).map fun b => if b then 1#8 else 0#8
  let syn := (List.range 8).map fun i => word.foldl (fun acc x => gfMul acc (alphaPow (i + 1)) ^^^ x) 0#8
  if syn.all (· == 0#8) then some (c.extractLsb' 32 64, 0)
  else
    let (_, lam) := keyEuclid 4 9 (List.replicate 8 0#8 ++ [1]) syn [] [1]
    let wrong := (List.range 96).filter fun i => polyEval lam (gfInv (alphaPow i)) == 0#8
    let fixed := wrong.foldl (fun (x : BitVec 96) i => x ^^^ BitVec.ofNat 96 (2 ^ i)) c
    let info := fixed.extractLsb' 32 64
    if wrong.length ≤ 4 ∧ fixed.extractLsb' 0 32 = bchCheck info then some (info, wrong.length) else none

end Sys2Proof.Machine
end

