-- ==== Sys2Proof/Machine/Sha.lean ====
section
/-!
DEFINITION. SHA-256 and the RSA-3072 operations of the security block: PKCS #1 v1.5 signatures with SHA-256 (R383)
and OAEP decryption (R159).
-/

namespace Sys2Proof.Machine

/-! ### SHA-256 -/

/-- The largest number whose square is at most `n`, found bit by bit. -/
def rootBits (pow : Nat) (n : Nat) : Nat → Nat → Nat
  | 0, x => x
  | k + 1, x => let y := x + 2 ^ k; if y ^ pow ≤ n then rootBits pow n k y else rootBits pow n k x

/-- The first 64 primes. -/
def shaPrimes : List Nat :=
  [2, 3, 5, 7, 11, 13, 17, 19, 23, 29, 31, 37, 41, 43, 47, 53, 59, 61, 67, 71, 73, 79, 83, 89, 97, 101, 103, 107,
   109, 113, 127, 131] ++
  [137, 139, 149, 151, 157, 163, 167, 173, 179, 181, 191, 193, 197, 199, 211, 223, 227, 229, 233, 239, 241, 251,
   257, 263, 269, 271, 277, 281, 283, 293, 307, 311]

/-- The round constants: the first 32 fraction bits of the primes' cube roots. -/
def shaK : List Word := shaPrimes.map fun p => BitVec.ofNat 32 (rootBits 3 (p * 2 ^ 96) 36 0)

/-- The initial hash words: the first 32 fraction bits of the first eight primes' square roots. -/
def shaH0 : List Word := (shaPrimes.take 8).map fun p => BitVec.ofNat 32 (rootBits 2 (p * 2 ^ 64) 37 0)

/-- Rotation right. -/
def ror (x : Word) (n : Nat) : Word := x.rotateRight n

/-- The message schedule of one 64 B block, newest word first. -/
def shaSchedule (blk : List Byte) : List Word :=
  let w0 := (List.range 16).map fun i => BitVec.ofNat 32 (beNat (slice blk (4 * i) 4))
  ((List.range 48).foldl
    (fun (w : List Word) _ =>
      let a := w.getD 14 0
      let b := w.getD 1 0
      let s0 := ror a 7 ^^^ ror a 18 ^^^ (a >>> 3)
      let s1 := ror b 17 ^^^ ror b 19 ^^^ (b >>> 10)
      (w.getD 15 0 + s0 + w.getD 6 0 + s1) :: w) w0.reverse)

/-- One round on the eight working words. -/
def shaRound (s : List Word) (kw : Word) : List Word :=
  match s with
  | [a, b, c, d, e, f, g, h] =>
    let t1 := h + (ror e 6 ^^^ ror e 11 ^^^ ror e 25) + ((e &&& f) ^^^ (~~~e &&& g)) + kw
    let t2 := (ror a 2 ^^^ ror a 13 ^^^ ror a 22) + ((a &&& b) ^^^ (a &&& c) ^^^ (b &&& c))
    [t1 + t2, a, b, c, d + t1, e, f, g]
  | _ => s

/-- One block folded into the hash. -/
def shaBlock (h : List Word) (blk : List Byte) : List Word :=
  let kw := List.zipWith (· + ·) shaK (shaSchedule blk).reverse
  List.zipWith (· + ·) h (kw.foldl shaRound h)

/-- The blocks of a padded message folded into the hash. -/
def shaBlocks : Nat → List Word → List Byte → List Word
  | 0, h, _ => h
  | n + 1, h, l => shaBlocks n (shaBlock h (l.take 64)) (l.drop 64)

/-- SHA-256 of a byte string: 32 bytes. -/
def sha256 (m : List Byte) : List Byte :=
  let z := (119 - m.length % 64) % 64
  let p := m ++ [0x80#8] ++ List.replicate z 0 ++ natBe 8 (8 * m.length)
  (shaBlocks (p.length / 64) shaH0 p).flatMap fun w => natBe 4 w.toNat

/-! ### RSA-3072 -/

/-- base^e mod m by squaring, over the bits of e, most significant first. -/
def modPow (base m : Nat) (e : List Bool) : Nat :=
  e.foldl (fun acc b => let sq := acc * acc % m; if b then sq * base % m else sq) (1 % m)

/-- The RSA operation of a 384 B block under modulus `n` and exponent `e`. -/
def rsaOp (n e : Nat) (x : Nat) : Nat := modPow (x % n) n (natBits 3072 e)

/-- The DER prefix of a SHA-256 DigestInfo. -/
def sha256Prefix : List Byte :=
  [0x30, 0x31, 0x30, 0x0d, 0x06, 0x09, 0x60, 0x86, 0x48, 0x01, 0x65, 0x03, 0x04, 0x02, 0x01, 0x05, 0x00, 0x04, 0x20]

/-- The encoded message of RSASSA-PKCS1-v1_5 with SHA-256 for a 384 B modulus. -/
def pkcs1Encode (m : List Byte) : List Byte :=
  let t := sha256Prefix ++ sha256 m
  [0x00#8, 0x01#8] ++ List.replicate (384 - t.length - 3) 0xFF#8 ++ [0x00#8] ++ t

/-- Whether `sig` is a signature of `m` under the modulus bytes and the exponent (R383). -/
def pkcs1Verify (modulus : List Byte) (e : Nat) (m sig : List Byte) : Bool :=
  let n := beNat modulus
  decide (sig.length = 384) && decide (beNat sig < n) && natBe 384 (rsaOp n e (beNat sig)) == pkcs1Encode m

/-- A signature of `m` under the private exponent (R383). -/
def pkcs1Sign (n d : Nat) (m : List Byte) : List Byte := natBe 384 (rsaOp n d (beNat (pkcs1Encode m)))

/-- MGF1 with SHA-256: `len` bytes of mask from a seed. -/
def mgf1 (seed : List Byte) (len : Nat) : List Byte :=
  ((List.range (ceilDiv len 32)).flatMap fun c => sha256 (seed ++ natBe 4 c)).take len

/-- RSAES-OAEP decryption with SHA-256 and a label: the message, or nothing (R159). -/
def oaepDecrypt (n d : Nat) (label blob : List Byte) : Option (List Byte) :=
  if blob.length ≠ 384 ∨ n ≤ beNat blob then none
  else
    let em := natBe 384 (rsaOp n d (beNat blob))
    let maskedSeed := slice em 1 32
    let maskedDb := em.drop 33
    let seed := xorBytes maskedSeed (mgf1 maskedDb 32)
    let db := xorBytes maskedDb (mgf1 seed 351)
    let body := (db.drop 32).dropWhile (· == 0#8)
    if em.headD 1 = 0#8 ∧ db.take 32 = sha256 label ∧ body.headD 0 = 1#8 then some (body.drop 1) else none

end Sys2Proof.Machine
end

