-- ==== Sys2Proof/Machine/Bundle.lean ====
section
/-!
DEFINITION. Patch bundles (R389 to R391), signed authorisations (R392, R393), the authorisation nonce, and the RSA
engine's queue (R388).
-/

namespace Sys2Proof.Machine

/-! ### Patch bundles -/

/-- VERSION of a bundle, 0 for an empty slot (R389). -/
def bundleVersion (b : List Byte) : Nat := fieldLe b 8 4

/-- SVN of a bundle (R389). -/
def bundleSvn (b : List Byte) : Nat := fieldLe b 12 4

/-- BODY_LEN of a bundle (R389). -/
def bundleLen (b : List Byte) : Nat := fieldLe b 16 4

/-- Every byte of a range is 0. -/
def zeroRange (b : List Byte) (o n : Nat) : Bool := (slice b o n).all fun x => x == 0

/-- Format check of a bundle (R390 item 1, with the ranges of R389). -/
def bundleFormat (b : List Byte) : Bool :=
  decide (512 ≤ b.length) && b.length == 896 + bundleLen b && decide (1 ≤ bundleLen b) && decide (bundleLen b ≤ 1047680)
    && fieldLe b 0 4 == 0x42505850 && fieldLe b 4 2 == 1 && zeroRange b 6 2 && decide (1 ≤ bundleVersion b)
    && zeroRange b 20 44 && fieldLe b 448 4 == 65537 && zeroRange b 452 60

/-- Cause for which a bundle is rejected: 0 valid, 1 format, 2 key, 3 signature, 4 rollback, in that order (R390). -/
def bundleCause (rollback : Nat) (b : List Byte) : Nat :=
  if !bundleFormat b then 1
  else if sha256 (slice b 64 388) ≠ Config.patchKeyHash then 2
  else if !pkcs1Verify (slice b 64 384) 65537 (b.take (512 + bundleLen b)) (slice b (512 + bundleLen b) 384) then 3
  else if bundleSvn b < rollback ∨ 64 < bundleSvn b then 4
  else 0

/-- A bundle is valid (R390). -/
def bundleValid (s : State) (b : List Byte) : Bool := bundleCause s.se.rollback b == 0

/-- The bundle becomes active code: patch RAM takes its body, PATCHED is set, and the rollback counter rises to its SVN
(R35, R391). -/
def bundleRun (b : List Byte) (s : State) : State :=
  { s with
    gl := { s.gl with patched := true }
    se := { s.se with patchRam := slice b 512 (bundleLen b), runVer := bundleVersion b
                      rollback := max s.se.rollback (bundleSvn b) } }

/-- A rejected bundle is recorded: cause and TB for log 0x06, the count in SE_AUTH_FAIL, and the PATCH_REJECTED event,
whose signature bit a format or key failure sets too (R390, R360). -/
def bundleReject (cause : Nat) (s : State) : State :=
  let s := { s with se := { s.se with
    cause := cause, causeTb := s.tb
    authFail := putBits s.se.authFail 16 16 (min 65535 (bits s.se.authFail 16 16 + 1)) } }
  event 0 0 0x15 [if cause = 4 then 2 else 1] s

/-- The patch check of R35: an empty store is not checked, a valid ACTIVE runs, an invalid one is left unused. -/
def patchCheck (s : State) : State :=
  if s.se.active.isEmpty then s
  else
    let cause := bundleCause s.se.rollback s.se.active
    if cause = 0 then bundleRun s.se.active s else bundleReject cause s

/-! ### Authorisations -/

/-- DEVICE_ID (R383). -/
def deviceId : List Byte := sha256 Config.leafSpki

/-- An authorisation passes every condition of R393 for a kind and a target. -/
def authPasses (s : State) (kind target : Nat) (a : List Byte) : Bool :=
  a.length == 848 && fieldLe a 0 4 == 0x41545850 && fieldLe a 4 1 == kind && fieldLe a 5 1 == target
    && zeroRange a 6 2 && slice a 8 32 == deviceId && slice a 40 32 == s.se.nonce
    && fieldLe a 456 4 == 65537 && zeroRange a 460 4 && sha256 (slice a 72 388) == Config.serviceKeyHash
    && pkcs1Verify (slice a 72 384) 65537 (a.take 464) (slice a 464 384)

/-- SE_NONCE takes 32 fresh bytes (R393). -/
def freshNonce (s : State) : State :=
  let (n, s) := drbgBytes 32 s
  { s with se := { s.se with nonce := n } }

/-- A request without a valid authorisation was rejected (R393). -/
def authReject (s : State) : State :=
  { s with se := { s.se with authFail := putBits s.se.authFail 0 16 (min 65535 (bits s.se.authFail 0 16 + 1)) } }

/-! ### The RSA engine (R388) -/

/-- Class of an operation: 0 served before 1 before 2. -/
def rsaClass (j : RsaJob) : Nat :=
  match j with
  | .kek _ _ => 0
  | .bundle _ _ => 1
  | .auth _ _ _ => 1
  | .unlock _ => 1
  | .spdm _ => 2

/-- The first waiting operation of the lowest class, with the others. -/
def rsaPick (l : List RsaJob) : Option (RsaJob × List RsaJob) :=
  match sortBy (fun (a b : Nat × RsaJob) => decide (rsaClass a.2 < rsaClass b.2)) (l.zipIdx.map fun (j, i) => (i, j)) with
  | [] => none
  | (i, j) :: _ => some (j, l.eraseIdx i)

/-- The engine takes the next operation when it is free. -/
def rsaNext (s : State) : State :=
  match s.se.rsa with
  | some _ => s
  | none =>
    match rsaPick s.se.rsaWait with
    | none => s
    | some (j, rest) => { s with se := { s.se with rsa := some j, rsaWait := rest } }

/-- An operation arrives at the engine. -/
def rsaSubmit (j : RsaJob) (s : State) : State :=
  rsaNext { s with se := { s.se with rsaWait := s.se.rsaWait ++ [j] } }

/-! ### Life cycle (R40, R41) -/

/-- How a life-cycle change is authorised (R40): 0 none, 1 second confirming request, 2 signed, 3 not allowed. -/
def lcAuth (a b : Nat) : Nat :=
  if a = 0 ∧ b = 1 then 0
  else if a = 1 ∧ b = 2 then 0
  else if a = 2 ∧ b = 1 then 1
  else if (a = 1 ∨ a = 2) ∧ b = 3 then 1
  else if a = 3 ∧ b = 1 then 2
  else if a ≤ 3 ∧ b = 4 then 1
  else 3

/-- What a life-cycle change wipes of the MRAM (R41): the customer area always; head calibration, the patch store and
the private keys besides on entry to END. -/
def lcWipe (target : Nat) (s : State) : State :=
  let s := { s with
    par := { cur := s.par.cur, stored := [] }
    gl := { s.gl with lossRec := none, wipeDue := false }
    ev := { s.ev with recent := [] }
    logs := { s.logs with cal := [] } }
  if target = 4 then
    let s := { s with
      se := { s.se with active := [], pend := [], idKey := false, xport := false, wiped := true, calWrites := s.se.calWrites + 1 }
      rch := { s.rch with head := [] }
      logs := { s.logs with held := false, store := [] } }
    forEach (List.range 8) (fun m s => setHead m { headOf s m with stored := 0 } s) s
  else s

end Sys2Proof.Machine
end

