-- ==== Sys2Proof/Machine/Keys.lean ====
section
/-!
DEFINITION. Key slots and key-encryption keys (R94, R159 to R165), the key commands, and the DRBG (R171).
-/

namespace Sys2Proof.Machine

/-- An in-flight command of a given opcode that has not begun its work. -/
def readyCmd (op : Nat) (r : CmdRef) (s : State) : Option InFlight :=
  match findCmd s r with
  | none => none
  | some c => if eOpcode c.entry = op ∧ c.stage = .ready then some c else none

/-- The data pointer of a command names `n` bytes; none where it is malformed (R61). -/
def dataIs (c : InFlight) (segs : List SgSeg) (n : Nat) : Option (List (DWord × Nat)) :=
  match dataPieces c.entry segs with
  | none => none
  | some p => if piecesLen p = n then some p else none

/-! ### Slots -/

/-- The device slot of a function's local slot (R55). -/
def deviceSlot (s : State) (f : Fn) (k : Nat) : Nat := (allotOf s f).keyBase + k

/-- The device slots of a function. -/
def slotsOf (s : State) (f : Fn) : List Nat := List.range' (allotOf s f).keyBase (allotOf s f).keyCount

/-- A slot is erased (R161, R164). -/
def slotErase (k : Nat) (s : State) : State :=
  setKeySlot k { st := .erased, gen := (keySlot s k).gen + 1, key := [] } s

/-- A slot is loaded (R160, R161). -/
def slotLoad (k : Nat) (key : List Byte) (s : State) : State :=
  setKeySlot k { st := .loaded, gen := (keySlot s k).gen + 1, key := key } s

/-- A slot whose owner changes becomes never loaded (R161). -/
def slotForget (k : Nat) (s : State) : State := setKeySlot k { keySlot s k with st := .never, key := [] } s

/-- KEK of a function, empty when it holds none. -/
def kekOf (s : State) (f : Fn) : List Byte := tabGet [] s.cy.keks f.toNat

/-- Set the KEK of a function. -/
def setKek (f : Fn) (k : List Byte) (s : State) : State :=
  { s with cy := { s.cy with keks := tabSet [] s.cy.keks f.toNat k } }

/-- Captured copies of device slot `k` (R162). -/
def copiesOf (s : State) (k : Nat) : Nat := (s.cy.busy.filter fun p => p.2.slot == k).length

/-- Status of a record that needs a slot in this state (R161): none when it is loaded. -/
def slotStatus (v : KeySlot) : Option Nat :=
  match v.st with
  | .never => some 0x0403
  | .loaded => none
  | .erased => some 0x0402

/-- A record at a pair or waiting for one ends with a status: the APPEND ends with it (R108), a READ or VERIFY stops at
the record (R165, R173, R421). -/
def recordStops (w : CipherRec) (status : Nat) (s : State) : State :=
  if w.sealing then failCmd w.ref status s
  else match findCmd s w.ref with
    | none => s
    | some c => setCmd { c with stop := some status, busy := false } s

/-- The pairs purge every record that holds a captured copy of one of the slots (R165). -/
def purgeSlots (ks : List Nat) (s : State) : State :=
  let hit := s.cy.busy.filter fun p => ks.contains p.2.slot
  let s := { s with cy := { s.cy with busy := s.cy.busy.filter fun p => !ks.contains p.2.slot } }
  forEach hit (fun p s => recordStops p.2 0x0402 s) s

/-! ### DRBG -/

/-- An entropy health test fails (R171): HEALTH_FAIL, its event and fast source 8. -/
def healthFail (s : State) : State :=
  if s.cy.health then s
  else senseFast 8 (event 0 0 0x14 [0, BitVec.ofNat 64 (2 ^ 14)] { s with cy := { s.cy with health := true } })

/-! ### Meanings -/

/-- KEY_LOAD with TYPE 0: the block goes to the RSA engine, which decides the command (R159, R388). -/
def execKeyLoadKek (t : Time) (ref : CmdRef) (segs : List SgSeg) (blob : List Byte) (s : State) :
    Host.Outcome State Fault Refusal :=
  let s := advance t s
  match readyCmd 0x18 ref s with
  | none => .next s
  | some c =>
    if (eOpt c.entry).testBit 0 then .next s
    else match dataIs c segs 384 with
      | none => .next (failCmd ref 0x0002 s)
      | some _ => .next (rsaSubmit (.kek ref blob) (setCmd { c with stage := .running } s))

/-- KEY_LOAD with TYPE 1 (R160). -/
def execKeyLoadRecordKey (t : Time) (ref : CmdRef) (segs : List SgSeg) (blob : List Byte) (s : State) :
    Host.Outcome State Fault Refusal :=
  let s := advance t s
  match readyCmd 0x18 ref s with
  | none => .next s
  | some c =>
    if !(eOpt c.entry).testBit 0 then .next s
    else match dataIs c segs 40 with
      | none => .next (failCmd ref 0x0002 s)
      | some _ =>
        if (kekOf s ref.fn).isEmpty then .next (failCmd ref 0x0403 s)
        else match keyUnwrap (kekOf s ref.fn) blob with
          | none => .next (failCmd ref 0x0401 s)
          | some key => .next (complete ref 0 0 0 false (slotLoad (deviceSlot s ref.fn (eField c.entry 24 2)) key s))

/-- The device slots that a KEY_ERASE names. -/
def eraseRange (s : State) (c : InFlight) : List Nat :=
  List.range' (deviceSlot s c.ref.fn (eField c.entry 24 2)) (eField c.entry 26 2)

/-- KEY_ERASE without IMMEDIATE: the slots are erased, and records started before finish (R164). -/
def execKeyErase (t : Time) (ref : CmdRef) (s : State) : Host.Outcome State Fault Refusal :=
  let s := advance t s
  match readyCmd 0x19 ref s with
  | none => .next s
  | some c =>
    if eOpt c.entry % 4 ≠ 0 then .next s
    else .next (complete ref 0 0 0 false (forEach (eraseRange s c) slotErase s))

/-- KEY_ERASE with IMMEDIATE: records that hold a copy end with KEY_GONE first, and then the command completes (R165). -/
def execKeyEraseImmediate (t : Time) (ref : CmdRef) (s : State) : Host.Outcome State Fault Refusal :=
  let s := advance t s
  match readyCmd 0x19 ref s with
  | none => .next s
  | some c =>
    if eOpt c.entry % 4 ≠ 1 then .next s
    else
      let ks := eraseRange s c
      .next (complete ref 0 0 0 false (purgeSlots ks (forEach ks slotErase s)))

/-- KEY_ERASE with the KEK bit: SLOT, COUNT and IMMEDIATE play no part (R94, R165). -/
def execKeyEraseKek (t : Time) (ref : CmdRef) (s : State) : Host.Outcome State Fault Refusal :=
  let s := advance t s
  match readyCmd 0x19 ref s with
  | none => .next s
  | some c => if (eOpt c.entry).testBit 1 then .next (complete ref 0 0 0 false (setKek ref.fn [] s)) else .next s

/-- A reseed falls due or is retried (R171). -/
def execDrbgReseed (t : Time) (entropyOk : Bool) (s : State) : Host.Outcome State Fault Refusal :=
  let s := advance t s
  if !fetching s then .next s
  else if entropyOk then
    .next (senseFast 8 { s with cy := { s.cy with seeded := true, health := false, reseeds := s.cy.reseeds + 1 } })
  else
    let s := healthFail s
    .next { s with cy := { s.cy with seeded := false } }

/-- A health test of the entropy source fails: the DRBG serves until its next reseed (R171). -/
def execEntropyHealthFail (t : Time) (s : State) : Host.Outcome State Fault Refusal :=
  let s := advance t s
  .next (if fetching s then healthFail s else s)

end Sys2Proof.Machine
end

