-- ==== Sys2Proof/Machine/Checks.lean ====
section
/-!
DEFINITION. The checks of a fetched command in the order of R83, the commands that wait behind a PARTITION or a long or
sanitising ERASE (R93, R424), and what every end of a command may let go on.
-/

namespace Sys2Proof.Machine

/-- Commands that name a partition in byte 4 (R84). -/
def namesPart (op : Nat) : Bool := [0x01, 0x02, 0x03, 0x05, 0x06, 0x08, 0x23].contains op

/-- Tape commands that are refused in HOLD whatever the buffer holds (R25). -/
def refusedInHold (op : Nat) : Bool := [0x03, 0x05, 0x08, 0x20, 0x21, 0x22, 0x23, 0x24, 0x25].contains op

/-- Step 1 of R83: opcode and queue type. -/
def opcodeCheck (q : Nat) (e : BitVec 512) : Option Nat :=
  match opRow (eOpcode e) with
  | none => some 0x0001
  | some row => if row.admin == (q == 0) then none else some 0x0001

/-- Step 2 of R83: tag uniqueness, reserved fields, field values and the data pointer. -/
def fieldCheck (s : State) (r : CmdRef) (e : BitVec 512) : Option Nat :=
  match opRow (eOpcode e) with
  | none => some 0x0001
  | some row =>
    let dup := s.hq.inflight.any fun c => c.ref == r
    if !dup && reservedZero e && fieldsOk s r.fn e && pointerOk e (needsData e row) then none else some 0x0002

/-- Step 3 of R83: PF commands, partitions a function may use (R84), and parameters and logs out of a VF's reach (R95,
R97). -/
def accessCheck (s : State) (f : Fn) (e : BitVec 512) : Option Nat :=
  let op := eOpcode e
  let pf := match opRow op with | none => false | some row => row.pfOnly
  let denied := (pf && f != 0) || (namesPart op && !(param s 9 f.toNat).testBit (ePart e))
    || (op == 0x16 && f != 0 && (paramDevice (eField e 24 2) || (eOpt e).testBit 0))
    || (op == 0x17 && f != 0 && decide (2 < eField e 24 1))
  if denied then some 0x0404 else none

/-- Some accepted write data is off tape. -/
def dataOffTape (s : State) : Bool := offTape s s.vol.accepted

/-- Step 4 of R83: life cycle (R39) and mode (R25, R26). -/
def modeCheck (s : State) (e : BitVec 512) : Option Nat :=
  let op := eOpcode e
  let hold := decide (s.gl.cur = .hold)
  let mask := eField e 24 4 % 128
  let refused := (lcEnd s && op != 0x17) || (hold && refusedInHold op) || (hold && op == 4 && dataOffTape s)
    || (op == 0x24 && !s.gl.cart && mask != 0 && mask &&& 0x44 == 0)
  if refused then some 0x0007 else none

/-- Step 5 of R83: a loaded volume, no UNLOAD fetched before an APPEND or mark (R85, R86), and the named partition. -/
def volumeCheck (s : State) (e : BitVec 512) : Option Nat :=
  let op := eOpcode e
  if (namesPart op || op == 0x22) && !s.vol.loaded then some 0x0105
  else if (op == 0x01 || op == 0x05) && s.vol.unloadAt.isSome then some 0x0105
  else if namesPart op && decide (partCount s ≤ ePart e) then some 0x0209
  else none

/-- Step 6 of R83: head calibration (R48, R324). -/
def calCheck (s : State) (e : BitVec 512) : Option Nat :=
  if [0x01, 0x05, 0x22, 0x23].contains (eOpcode e) && calReq s then some 0x0206 else none

/-- Step 7 of R83: the key slot of an encrypting APPEND. -/
def keyCheck (s : State) (f : Fn) (e : BitVec 512) : Option Nat :=
  if eOpcode e = 1 ∧ (eOpt e).testBit 1 then slotStatus (keySlot s (deviceSlot s f (eKey e))) else none

/-! ### Commands behind a PARTITION or a long or sanitising ERASE (R93, R424) -/

/-- The command is a PARTITION or a long or sanitising ERASE. -/
def isTableEnd (c : InFlight) : Bool :=
  eOpcode c.entry == 0x22 || (eOpcode c.entry == 0x23 && eOpt c.entry % 4 != 0)

/-- One of these is in flight and was fetched before place `order`. -/
def tableEndBefore (s : State) (order : Nat) : Bool := s.hq.inflight.any fun c => isTableEnd c && decide (c.order < order)

/-- Some PARTITION or long or sanitising ERASE is in flight: no acceptance point is reached (R93 item 1). -/
def acceptanceHeld (s : State) : Bool :=
  s.hq.inflight.any fun c => isTableEnd c || (eOpcode c.entry == 0x21 && decide (c.stage = .running))

/-- A command that names partitions, and so waits behind a PARTITION (R93 item 3). -/
def waitsForTable (op : Nat) : Bool := namesPart op || op == 0x07

/-- Where a command stands after its checks: tape commands wait for the tape (R114). -/
def firstStage (op : Nat) : Stage :=
  if [0x08, 0x20, 0x21, 0x22, 0x23, 0x24, 0x25].contains op then .queued else .ready

/-- Held commands run once what held them has completed, with the check of step 5 (R83, R93). -/
def releaseHeld (s : State) : State :=
  forEach (atStage s .held) (fun c s =>
    if tableEndBefore s c.order then s
    else match volumeCheck s c.entry with
      | some st => failCmd c.ref st s
      | none => setCmd { c with stage := firstStage (eOpcode c.entry) } s) s

/-! ### Pools with no active unit (R149, R174) -/

/-- Some of `n` units from roster index `base` on is active. -/
def anyActive (s : State) (base n : Nat) : Bool :=
  (List.range' base n).any fun i => decide ((crewOf s i).st = .active)

/-- The POOL_EMPTY events of the two pools (R360): once when work waits and no unit is active, once when units are
active again. -/
def poolPass (s : State) : State :=
  let work := !s.eng.waiting.isEmpty
  let on := anyActive s 1152 32
  let s :=
    if work && !on && !s.eng.idleSaid then event 0 0 0x12 [0] { s with eng := { s.eng with idleSaid := true } }
    else if on && s.eng.idleSaid then event 0 0 0x12 [2] { s with eng := { s.eng with idleSaid := false } }
    else s
  let work := !s.cy.waiting.isEmpty
  let on := anyActive s 1184 4
  if work && !on && !s.cy.idleSaid then event 0 0 0x12 [1] { s with cy := { s.cy with idleSaid := true } }
  else if on && s.cy.idleSaid then event 0 0 0x12 [3] { s with cy := { s.cy with idleSaid := false } }
  else s

/-- What a change of the commands or of the crew may let go on: held commands, FLUSHes whose data is settled, and the
reports of pools. -/
def tidy (s : State) : State := poolPass (flushPass (releaseHeld s))

end Sys2Proof.Machine
end

