-- ==== Sys2Proof/Machine/Spills.lean ====
section
/-!
DEFINITION. Spill queues (R351 to R358): flushes, the consumer, start and stop, and the rows of their registers.
-/

namespace Sys2Proof.Machine

/-! ### The consumer -/

/-- Items up to and with the last FLUSH_MARK. -/
def throughMark (l : List Item) : List Item := (l.reverse.dropWhile fun i => decide (i.kind ≠ .mark)).reverse

/-- The oldest complete item has waited IDLE µs (R354). -/
def idleDue (s : State) (v : Spill) : Bool :=
  match v.queue with
  | [] => false
  | i :: _ => decide (i.at_.toNat + usTicks v.idleNow ≤ s.tb.toNat)

/-- The consumer works on queue `q`: full batches, the SHORT batch of a pushing flush, and a SHORT batch when IDLE has
run out, which leaves items that completed at the expiry or later to the next batch (R353, R354, R357). -/
def pump (q : Nat) : Nat → State → State
  | 0, s => s
  | n + 1, s =>
    let v := spillOf s q
    let (a, b) := takeBatch batchWords v.queue
    if !canBatch v || a.isEmpty then s
    else if !b.isEmpty then pump q n (writeBatch q false a b s)
    else if v.pushing then
      let m := throughMark a
      let s := setSpill q { v with pushing := false } s
      if m.isEmpty then s else pump q n (writeBatch q true m (v.queue.drop m.length) s)
    else if idleDue s v then
      let exp := (a.headD (gapItem 0 0)).at_.toNat + usTicks v.idleNow
      let l := a.takeWhile fun i => decide (i.at_.toNat < exp)
      if l.isEmpty then pump q n (writeBatch q true (a.take 1) (a.drop 1) s)
      else pump q n (writeBatch q true l (v.queue.drop l.length) s)
    else s


/-- The consumer runs on. -/
def pumpAll (q : Nat) (s : State) : State := pump q ((spillOf s q).queue.length + 1) s

/-! ### Flush (R356, R357) -/

/-- The pending flush of queue `q` takes effect; discarded event items leave log 0x01 (R361). -/
def flushRun (q : Nat) (s : State) : State :=
  let v := spillOf s q
  match v.flush with
  | none => s
  | some (n, push) =>
    let gone := if push then [] else (v.queue.take n).map fun i => i.words
    let s := setSpill q { flushEffect s.tb v with pushing := v.pushing || push } s
    let s := if q < 64 then
        { s with ev := { s.ev with recent := tabSet [] s.ev.recent q ((tabGet [] s.ev.recent q).filter fun w => !gone.contains w) } }
      else s
    pumpAll q s

/-- The producer is between items. -/
def betweenItems (v : Spill) : Bool := v.part.isNone

/-- A flush is requested: it takes effect at the next item boundary, at once between items. A request while one waits
changes nothing. -/
def flushRequest (q : Nat) (push : Bool) (s : State) : State :=
  let v := spillOf s q
  if v.flush.isSome then s
  else
    let s := setSpill q { v with flush := some (v.queue.length, push) } s
    if betweenItems v then flushRun q s else s

/-! ### Start, stop, reset (R358) -/

/-- A start: HEAD, TAIL and the batch sequence 0, PHASE 1, HALTED clear. -/
def spillBegin (v : Spill) : Spill := { v with head := 0, tail := 0, seq := 0, phase := true, halted := false }

/-- A start or stop under way runs to its end: both take no time of their own here, because batches are written whole.
DESIGN CHOICE (log entry 4). -/
def spillSettle (v : Spill) : Spill :=
  match v.unit.st with
  | .starting => spillBegin { v with unit := unitDone v.unit }
  | .stopping =>
    let w := { v with unit := unitDone v.unit }
    match w.unit.st with
    | .starting => spillBegin { w with unit := unitDone w.unit }
    | _ => w
  | _ => v

/-- _CTL.EN takes 1. -/
def spillEnable (q : Nat) (s : State) : State :=
  let v := spillOf s q
  pumpAll q (setSpill q (spillSettle { v with unit := unitEnable v.unit }) s)

/-- _CTL.EN takes 0. -/
def spillDisable (q : Nat) (s : State) : State :=
  let v := spillOf s q
  setSpill q (spillSettle { v with unit := unitDisable v.unit }) s

/-- IDLE takes a value other than 0, from the next batch (R362): at once when no item waits. -/
def idleWrite (n : Nat) (v : Spill) : Spill :=
  if n = 0 then v else { v with idle := n, idleNow := if v.queue.isEmpty then n else v.idleNow }

/-- _HEAD is written (R353): a head that would release batches not written is ignored. -/
def headWrite (q n : Nat) (s : State) : State :=
  let v := spillOf s q
  let ring := v.size + 1
  if ring ≤ n ∨ unreleased v < (n + ring - v.head) % ring then s
  else pumpAll q (setSpill q { v with head := n } s)

/-- Log queue `f` at an FLR (R124, R358, R362): registers at reset, items discarded, the FLR summary first. -/
def logReset (f : Fn) (ended voided : Nat) (s : State) : State :=
  let s := setSpill f.toNat spillDefault s
  let s := { s with ev := { s.ev with recent := tabSet [] s.ev.recent f.toNat [] } }
  event f f 2 [BitVec.ofNat 64 (ended % 2 ^ 32 + (voided % 2 ^ 32) * 2 ^ 32)] s

/-! ### Offering an item in parts (R351, R355, R356) -/

/-- The last word of an item in progress lands: a waiting flush takes effect where the item began, and the item is then
accepted or dropped. -/
def itemEnd (q : Nat) (words : List DWord) (s : State) : State :=
  let s := flushRun q (setSpill q { spillOf s q with part := none } s)
  if words.isEmpty ∨ 16 < words.length then s else pumpAll q (offerItem q words s)

/-! ### Meanings -/

/-- A producer offers an item whole, its first words, or its last words (R355). -/
def execItemOffer (t : Time) (q : Nat) (part : ItemPart) (words : List DWord) (s : State) :
    Host.Outcome State Fault Refusal :=
  let s := advance t s
  let v := spillOf s q
  match part, v.part with
  | .whole, none => .next (itemEnd q words s)
  | .begin_, none => .next (if words.isEmpty then s else setSpill q { v with part := some words } s)
  | .rest, some l => .next (itemEnd q (l ++ words) s)
  | _, _ => .next s

/-- The oldest complete item has waited IDLE µs: a SHORT batch is closed and written (R354). -/
def execBatchIdleTimeout (t : Time) (q : Nat) (s : State) : Host.Outcome State Fault Refusal :=
  .next (pumpAll q (advance t s))

/-- _HEAD is written (R353). -/
def execSpillHeadWrite (t : Time) (q : Nat) (value : Word) (s : State) : Host.Outcome State Fault Refusal :=
  let s := advance t s
  .next (if regsLive s then headWrite q (bits value 0 16) s else s)

/-- 1 is written to _CTL.FLUSH (R356). -/
def execSpillFlush (t : Time) (q : Nat) (s : State) : Host.Outcome State Fault Refusal :=
  let s := advance t s
  .next (if regsLive s then flushRequest q false s else s)

/-- The item boundary of a flush that waits (R356). -/
def execSpillFlushEffect (t : Time) (q : Nat) (s : State) : Host.Outcome State Fault Refusal :=
  let s := advance t s
  .next (if betweenItems (spillOf s q) then flushRun q s else s)

/-- 1 is written to _CTL.EN (R358, R49). -/
def execSpillStart (t : Time) (q : Nat) (s : State) : Host.Outcome State Fault Refusal :=
  let s := advance t s
  .next (if regsLive s then spillEnable q s else s)

/-- 0 is written to _CTL.EN (R358, R49). -/
def execSpillStop (t : Time) (q : Nat) (s : State) : Host.Outcome State Fault Refusal :=
  let s := advance t s
  .next (if regsLive s then spillDisable q s else s)

/-- The consumer halts on its own state or a bad completion to its batch writes (R375): items stay and accumulate. -/
def execSpillConsumerHalt (t : Time) (q : Nat) (s : State) : Host.Outcome State Fault Refusal :=
  let s := advance t s
  let v := spillOf s q
  match v.unit.st with
  | .running => .next (setSpill q { v with halted := true } s)
  | _ => .next s

end Sys2Proof.Machine
end

