-- ==== Sys2Proof/Machine/Queues.lean ====
section
/-!
DEFINITION. Functions and their queues: doorbells (R67, R68), the allotment window (R55, R56), start and stop of a
function (R71), the queue admin commands (R72, R123), function level reset (R124), ABORT (R104, R119 to R122), DMA
channel halts (R374) and VF Enable.
-/

namespace Sys2Proof.Machine

/-! ### Doorbells -/

/-- A doorbell write is ignored and counted (R68). -/
def doorbellError (f : Fn) (q : Nat) (s : State) : State :=
  let h := hqFn s f
  setHqFn f { h with dbErrs := satInc h.dbErrs, dbErrId := BitVec.ofNat 16 q } s

/-- Queues of a function are reachable through its BAR2. -/
def bellLive (s : State) (f : Fn) : Bool := fetching s && (f == 0 || s.hq.vfEnable)

/-- An SQ tail doorbell (R67 to R69). -/
def execSqTailDoorbell (t : Time) (f : Fn) (q : Nat) (width : Nat) (value : DWord) (s : State) :
    Host.Outcome State Fault Refusal :=
  let s := advance t s
  let v := bits value 0 32
  let x := sqOf s f q
  if !bellLive s f || (width != 4 && width != 8) then .next s
  else if x.unit.st = .running ∧ v < x.depth then
    .next (setSq f q { x with tail := v, bell := BitVec.ofNat 32 v } s)
  else .next (doorbellError f q s)

/-- A CQ head doorbell (R67, R68, R70): it releases committed entries only. -/
def execCqHeadDoorbell (t : Time) (f : Fn) (q : Nat) (width : Nat) (value : DWord) (s : State) :
    Host.Outcome State Fault Refusal :=
  let s := advance t s
  let v := bits value 0 32
  let x := cqOf s f q
  if !bellLive s f || (width != 4 && width != 8) then .next s
  else if x.unit.st = .running ∧ v < x.depth ∧ (v + x.depth - x.head) % x.depth ≤ (x.tail + x.depth - x.head) % x.depth then
    .next (setCq f q { x with head := v, bell := BitVec.ofNat 32 v } s)
  else .next (doorbellError f q s)

/-! ### Allotment (R55, R56) -/

/-- An allotment entry with one word written. -/
def allotWord (a : Allot) (word : BitVec 2) (value : Word) : Allot :=
  match word.toNat with
  | 0 => { a with qcount := bits value 0 14 }
  | 1 => { a with keyBase := bits value 0 10, keyCount := bits value 16 11 }
  | 2 => { a with vectors := bits value 0 12, inflRes := bits value 16 14 }
  | _ => { a with weight := bits value 0 4 }

/-- Two key-slot ranges overlap. -/
def keysOverlap (a b : Allot) : Bool :=
  decide (0 < a.keyCount) && decide (0 < b.keyCount) && decide (a.keyBase < b.keyBase + b.keyCount)
    && decide (b.keyBase < a.keyBase + a.keyCount)

/-- Slots of the first entry that the second does not hold. -/
def keysLeave (a b : Allot) : List Nat :=
  (List.range' a.keyBase a.keyCount).filter fun k => !(decide (b.keyBase ≤ k) && decide (k < b.keyBase + b.keyCount))

/-- The first constraint of R56 that a new entry `n` for function `g` breaks; 0 for none. -/
def allotBroken (s : State) (g : Fn) (n : Allot) : Nat :=
  let others := allFns.filter fun f => f != g
  let sum (p : Allot → Nat) : Nat := (others.map fun f => p (allotOf s f)).sum + p n
  let old := allotOf s g
  let queue (k : Nat) : Bool := k / 8192 == 0 && decide (n.qcount ≤ k % 8192)
  if 8192 < sum (fun a => a.qcount) then 1
  else if (decide (0 < n.keyCount) && decide (1024 < n.keyBase + n.keyCount)) || others.any (fun f => keysOverlap n (allotOf s f)) then 2
  else if 8192 < sum (fun a => a.inflRes) then 3
  else if g ≠ 0 ∧ s.hq.vfEnable then 4
  else if g = 0 ∧ (s.hq.sqs.any (fun p => queue p.1) || s.hq.cqs.any fun p => queue p.1) then 5
  else if (keysLeave old n).any (fun k => decide ((keySlot s k).st = .loaded)) then 6
  else if (if g = 0 then 8192 else 512) < n.qcount ∨ (if g = 0 then n.vectors ≠ 2048 else 128 < n.vectors) ∨ 8192 < n.inflRes then 7
  else 0

/-- A write to an allotment entry takes effect whole or is refused whole (R56); slots that change owner become never
loaded (R161). -/
def allotWrite (g : Fn) (word : BitVec 2) (value : Word) (s : State) : State :=
  let old := allotOf s g
  let n := allotWord old word value
  let k := allotBroken s g n
  if k ≠ 0 then
    { s with hq := { s.hq with allotErr := 0x80000000#32 ||| BitVec.ofNat 32 (g.toNat + k * 2 ^ 8) } }
  else
    let s := { s with hq := { s.hq with allot := tabSet (allotDefault g.toNat) s.hq.allot g.toNat n } }
    forEach (keysLeave old n ++ keysLeave n old) slotForget s

/-- A write of one word of HQ_ALLOT over BAR0. -/
def execHqAllotWrite (t : Time) (g : Fn) (word : BitVec 2) (value : Word) (s : State) : Host.Outcome State Fault Refusal :=
  let s := advance t s
  .next (if regsLive s then allotWrite g word value s else s)

/-! ### Ending queues -/

/-- ABORTs that wait for an entry of an SQ that stops or halts complete with ABORT_NOT_FOUND (R120, R123). -/
def abortsUnhook (f : Fn) (q : Nat) (s : State) : State :=
  let l := (atStage s .abortWait).filter fun a => a.ref.fn == f && eField a.entry 24 2 == q
  forEach l (fun a s => complete a.ref 0x0101 0 0 false s) s

/-- Commands in flight from SQ `q` of function `f`, in fetch order. -/
def sqCommands (s : State) (f : Fn) (q : Nat) : List InFlight :=
  sortBy (fun a b => decide (a.order < b.order)) (s.hq.inflight.filter fun c => c.ref.fn == f && c.ref.sq == q)

/-- An I/O SQ is deleted: its commands end with ABORTED_QUEUE_DELETED, and it is gone (R123). -/
def sqDelete (f : Fn) (q : Nat) (s : State) : State :=
  let s := setSq f q { sqOf s f q with unit := { st := .stopping, latch := none } } s
  let s := abortsUnhook f q s
  let s := forEach (sqCommands s f q) (fun c s => failCmd c.ref 0x0004 s) s
  setSq f q sqNone s

/-- A CQ is deleted (R72). -/
def cqDelete (f : Fn) (q : Nat) (s : State) : State := unbindCq f q (setCq f q cqNone s)

/-- Local identifiers of a function's SQs that exist. -/
def sqIds (s : State) (f : Fn) : List Nat :=
  (s.hq.sqs.filter fun p => p.1 / 8192 == f.toNat && decide (p.2.unit.st ≠ .stopped)).map fun p => p.1 % 8192

/-- Local identifiers of a function's CQs that exist. -/
def cqIds (s : State) (f : Fn) : List Nat :=
  (s.hq.cqs.filter fun p => p.1 / 8192 == f.toNat && decide (p.2.unit.st ≠ .stopped)).map fun p => p.1 % 8192

/-- A command is past its point of no return (R119): its execution has begun, or it is an ABORT or a HOLD_ENTER. -/
def pastPonr (c : InFlight) : Bool :=
  decide (c.stage = .running) || decide (c.stage = .paused) || eOpcode c.entry == 0x26 || eOpcode c.entry == 0x14

/-! ### Start and stop of a function (R71) -/

/-- HQ_CTL.EN takes 1. -/
def fnEnable (f : Fn) (s : State) : State :=
  let h := hqFn s f
  match h.unit.st with
  | .stopped => fnStart f s
  | .running => s
  | _ => setHqFn f { h with en := true, unit := unitEnable h.unit } s

/-- HQ_CTL.EN takes 0: every I/O queue is deleted, then the admin queue's commands end, those past their point of no
return apart, and the admin queue goes when the last has completed. -/
def fnDisable (f : Fn) (s : State) : State :=
  let h := hqFn s f
  let s := setHqFn f { h with en := false, unit := unitDisable h.unit } s
  match h.unit.st with
  | .running =>
    let s := forEach ((sqIds s f).filter fun q => q != 0) (sqDelete f) s
    let s := forEach ((cqIds s f).filter fun q => q != 0) (cqDelete f) s
    let s := setSq f 0 { sqOf s f 0 with unit := { st := .stopping, latch := none } } s
    let s := abortsUnhook f 0 s
    let s := forEach ((sqCommands s f 0).filter fun c => !pastPonr c) (fun c s => failCmd c.ref 0x0004 s) s
    tidy (fnSettle f s)
  | _ => s

/-- 1 is written to HQ_CTL.EN (R71, R49). -/
def execHqEnable (t : Time) (f : Fn) (s : State) : Host.Outcome State Fault Refusal :=
  let s := advance t s
  .next (if fnLive s f then fnEnable f s else s)

/-- 0 is written to HQ_CTL.EN (R71, R49). -/
def execHqDisable (t : Time) (f : Fn) (s : State) : Host.Outcome State Fault Refusal :=
  let s := advance t s
  .next (if fnLive s f then fnDisable f s else s)

/-! ### Queue admin commands (R72, R123) -/

/-- Ring base, depth and length of a CREATE command keep R57 and R72; `size` is the entry size. -/
def ringOk (c : InFlight) (size : Nat) : Bool :=
  let depth := eField c.entry 26 2 + 1
  !eDlist c.entry && (eAddr c.entry).toNat % 4096 == 0 && decide (2 ≤ depth) && eLen c.entry == depth * size

/-- CREATE_CQ (R72, R343). -/
def execCreateCq (t : Time) (ref : CmdRef) (s : State) : Host.Outcome State Fault Refusal :=
  let s := advance t s
  match readyCmd 0x10 ref s with
  | none => .next s
  | some c =>
    let f := ref.fn
    let q := eField c.entry 24 2
    let v := eField c.entry 28 2 % 2048
    let old := (cqOf s f q).unit.st
    if q = 0 ∨ (allotOf s f).qcount ≤ q ∨ old = .running ∨ (allotOf s f).vectors ≤ v ∨ !bindFits s f v ∨ !ringOk c 32 then
      .next (failCmd ref 0x0002 s)
    else if old ≠ .stopped then .next (failCmd ref 0x0008 s)
    else
      let s := setCq f q (cqNew (eAddr c.entry) (eField c.entry 26 2 + 1)) s
      .next (complete ref 0 0 0 false (bindCq f q v ((eField c.entry 30 1).testBit 0) s))

/-- DELETE_CQ (R72). -/
def execDeleteCq (t : Time) (ref : CmdRef) (s : State) : Host.Outcome State Fault Refusal :=
  let s := advance t s
  match readyCmd 0x11 ref s with
  | none => .next s
  | some c =>
    let f := ref.fn
    let q := eField c.entry 24 2
    let st := (cqOf s f q).unit.st
    if q = 0 ∨ st = .stopped then .next (failCmd ref 0x0002 s)
    else if st ≠ .running then .next (failCmd ref 0x0008 s)
    else if (sqIds s f).any fun k => (sqOf s f k).cqid == q then .next (failCmd ref 0x0103 s)
    else .next (complete ref 0 0 0 false (cqDelete f q s))

/-- CREATE_SQ (R58, R72). -/
def execCreateSq (t : Time) (ref : CmdRef) (s : State) : Host.Outcome State Fault Refusal :=
  let s := advance t s
  match readyCmd 0x12 ref s with
  | none => .next s
  | some c =>
    let f := ref.fn
    let q := eField c.entry 24 2
    let cq := eField c.entry 28 2
    let old := (sqOf s f q).unit.st
    if q = 0 ∨ (allotOf s f).qcount ≤ q ∨ old = .running ∨ (cqOf s f cq).unit.st ≠ .running ∨ !ringOk c 64 then
      .next (failCmd ref 0x0002 s)
    else if old ≠ .stopped then .next (failCmd ref 0x0008 s)
    else
      let x := sqNew (eAddr c.entry) (eField c.entry 26 2 + 1) cq (eField c.entry 30 1 % 16 + 1)
      .next (complete ref 0 0 0 false (setSq f q x s))

/-- DELETE_SQ (R123): RESULT0 holds the head at which fetching stopped. -/
def execDeleteSq (t : Time) (ref : CmdRef) (s : State) : Host.Outcome State Fault Refusal :=
  let s := advance t s
  match readyCmd 0x13 ref s with
  | none => .next s
  | some c =>
    let f := ref.fn
    let q := eField c.entry 24 2
    let x := sqOf s f q
    if q = 0 ∨ x.unit.st = .stopped then .next (failCmd ref 0x0002 s)
    else if x.unit.st ≠ .running then .next (failCmd ref 0x0008 s)
    else .next (tidy (complete ref 0 x.head 0 false (sqDelete f q (setCmd { c with stage := .running } s))))

/-! ### Function level reset (R124) -/

/-- A command past its point of no return at an FLR runs to its end with no completion: it is known from then on by an
SQ number that no queue and no other command has. -/
def orphanRef (c : InFlight) (s : State) : CmdRef :=
  { c.ref with sq := (s.hq.inflight.map fun d => d.ref.sq).foldl max 8191 + 1 }

/-- Everything that names a command names it anew. -/
def renameCmd (old new : CmdRef) (s : State) : State :=
  let r (x : CmdRef) : CmdRef := if x = old then new else x
  let job (j : RsaJob) : RsaJob :=
    match j with
    | .kek x b => .kek (r x) b
    | .bundle x b => .bundle (r x) b
    | .auth x g b => .auth (x.map r) g b
    | .unlock b => .unlock b
    | .spdm c => .spdm c
  { s with
    hq := { s.hq with
      inflight := s.hq.inflight.map fun c => { c with ref := r c.ref }
      flushes := s.hq.flushes.map fun w => { w with ref := r w.ref }
      act := s.hq.act.map fun a => { a with ref := r a.ref } }
    se := { s.se with rsa := s.se.rsa.map job, rsaWait := s.se.rsaWait.map job }
    tt := { s.tt with stop := s.tt.stop.map r } }

/-- The FLR of one function. -/
def flrOne (f : Fn) (s : State) : State :=
  let all := sortBy (fun a b => decide (a.order < b.order)) (s.hq.inflight.filter fun c => c.ref.fn == f && decide (c.ref.sq < 8192))
  let keep := all.filter fun c => pastPonr c && eOpcode c.entry != 0x14
  let ends := all.filter fun c => !(pastPonr c && eOpcode c.entry != 0x14)
  let voided := ((ends.filter fun c => eOpcode c.entry == 1 && decide (c.stage = .accepted)).map fun c => c.count).sum
  let s := forEach ends (fun c s => retire c 0x0005 s) s
  let s := forEach keep (fun c s => renameCmd c.ref (orphanRef c s) s) s
  let s := { s with hq := { s.hq with
    sqs := s.hq.sqs.filter fun p => p.1 / 8192 != f.toNat
    cqs := s.hq.cqs.filter fun p => p.1 / 8192 != f.toNat } }
  let s := setHqFn f hqFnDefault s
  let s := forEach (slotsOf s f) slotErase (setKek f [] s)
  let s := icReset f s
  let s := { s with ic := { s.ic with
    msix := s.ic.msix.filter fun p => p.1 / 8192 != f.toNat
    fmask := tabSet false s.ic.fmask f.toNat false
    pba := s.ic.pba.filter fun p => p.1 / 2048 != f.toNat } }
  let s := { s with mi := { s.mi with ffault := s.mi.ffault &&& ~~~(BitVec.ofNat 64 (2 ^ f.toNat)) } }
  logReset f ends.length voided s

/-- FLR of a function; that of the PF clears VF Enable and resets every VF with it (R124), and returns the DOE connection
to its initial state (R386). -/
def execFlr (t : Time) (f : Fn) (s : State) : Host.Outcome State Fault Refusal :=
  let s := advance t s
  if !bellLive s f then .next s
  else if f = 0 then
    let fns := if s.hq.vfEnable then allFns else [0]
    let s := forEach fns flrOne s
    .next (tidy { s with
      hq := { s.hq with vfEnable := false }
      se := { s.se with doe := spdmInitial, doeResp := none } })
  else .next (tidy (flrOne f s))

/-- VF Enable is written (R56): the VFs that it disables are reset, as R124 says of an FLR of the PF. -/
def execVfEnableWrite (t : Time) (on : Bool) (s : State) : Host.Outcome State Fault Refusal :=
  let s := advance t s
  if s.pins.perstN = false ∨ on = s.hq.vfEnable then .next s
  else
    let s := if !on && fetching s then forEach (allFns.filter fun f => f != 0) flrOne s else s
    .next (tidy { s with hq := { s.hq with vfEnable := on } })

/-! ### ABORT (R104, R119 to R122) -/

/-- Output bytes of a READ that ends early are undefined (R119). -/
def undefineOutput (c : InFlight) (s : State) : State :=
  if eOpcode c.entry = 2 then
    match dataPieces c.entry c.segs with
    | none => s
    | some p =>
      let s := undefineArea c.ref.fn p 0 (piecesLen p) s
      let l := eField c.entry 40 8
      if l = 0 then s else emit (.undefinedArea c.ref.fn (BitVec.ofNat 64 l) (4 * eCount c.entry)) s
  else s

/-- ABORT: `ahead` are the tags of the target SQ's submitted entries not yet fetched, from its head. A fetched target
before its point of no return ends with ABORTED first; past it the ABORT waits; a submitted target ends at its fetch.
-/
def execAbort (t : Time) (ref : CmdRef) (ahead : List (BitVec 16)) (s : State) : Host.Outcome State Fault Refusal :=
  let s := advance t s
  match readyCmd 0x14 ref s with
  | none => .next s
  | some c =>
    let q := eField c.entry 24 2
    let tag := BitVec.ofNat 16 (eField c.entry 26 2)
    match s.hq.inflight.find? fun d => d.ref.fn == ref.fn && d.ref.sq == q && decide (q < 8192) && d.ref.tag == tag && d.ref != ref with
    | some d =>
      if pastPonr d then .next (setCmd { c with stage := .abortOwn } s)
      else .next (tidy (complete ref 0 0 0 false (failCmd d.ref 0x0003 (undefineOutput d s))))
    | none =>
      let x := sqOf s ref.fn q
      let n := if x.depth = 0 then 0 else (x.tail + x.depth - x.head) % x.depth
      match (ahead.take n).findIdx? fun g => g == tag with
      | some k =>
        if x.unit.st = .running ∧ !x.halted then
          .next (setCmd { c with stage := .abortWait, first := (x.head + k) % x.depth } s)
        else .next (complete ref 0x0101 0 0 false s)
      | none => .next (complete ref 0x0101 0 0 false s)

/-! ### DMA channel halts (R374, R73) -/

/-- The command still has data to move between host and device. -/
def dataLeft (c : InFlight) : Bool :=
  match eOpcode c.entry with
  | 0x01 => decide (c.stage = .ready) || decide (c.stage = .waiting) || decide (c.stage = .held)
  | 0x02 => true
  | 0x06 | 0x07 | 0x17 | 0x18 | 0x29 => decide (c.stage = .ready) || decide (c.stage = .held)
  | 0x22 => decide (c.stage = .queued) || decide (c.stage = .chosen)
  | 0x24 => (decide (c.stage = .queued) || decide (c.stage = .chosen)) && eField c.entry 30 2 != 0
  | 0x28 => decide (c.stage = .ready) && eField c.entry 8 12 != 0
  | _ => false

/-- The channel of an SQ halts: SQ_HALTED, and its commands with data to move end with DMA_HALTED. -/
def channelHalt (f : Fn) (q : Nat) (s : State) : State :=
  let x := sqOf s f q
  match x.unit.st with
  | .stopped => s
  | _ =>
    let s := abortsUnhook f q (setSq f q { x with halted := true } s)
    tidy (forEach ((sqCommands s f q).filter dataLeft) (fun c s => failCmd c.ref 0x0302 (undefineOutput c s)) s)

/-- The channel halts on its own state or a bad completion from the host. -/
def execDmaChannelHalt (t : Time) (f : Fn) (q : Nat) (s : State) : Host.Outcome State Fault Refusal :=
  .next (channelHalt f q (advance t s))

/-- A completion from the host does not arrive in time. -/
def execCompletionTimeout (t : Time) (f : Fn) (q : Nat) (s : State) : Host.Outcome State Fault Refusal :=
  .next (channelHalt f q (advance t s))

/-- A tape command reaches 30 s in flight. Age is read from TB and the command's fetch instant when the tape is free
(R114), so that the passage of time is the whole effect. -/
def execCommandAged (t : Time) (_ref : CmdRef) (s : State) : Host.Outcome State Fault Refusal := .next (advance t s)

end Sys2Proof.Machine
end

