-- ==== Sys2Proof/Machine/Fetch.lean ====
section
/-!
DEFINITION. COMMAND_FETCH: which submission queue is served next (R66, R74, R75), the ORDERED rule (R112), the checks
(R83), and where a fetched command first stands.
-/

namespace Sys2Proof.Machine

/-! ### Which SQ may be fetched from -/

/-- Commands of a function in flight (R74). -/
def inflightOf (s : State) (f : Fn) : Nat := (s.hq.inflight.filter fun c => c.ref.fn == f).length

/-- Reserved slots not yet used, over all functions (R74). -/
def heldSlots (s : State) : Nat := (allFns.map fun f => (allotOf s f).inflRes - inflightOf s f).sum

/-- The device-wide limit admits a fetch from `f` (R74), and no function fault stops it (R371). -/
def mayFetch (s : State) (f : Fn) : Bool :=
  !s.mi.ffault.getLsbD f.toNat
    && (decide (inflightOf s f < (allotOf s f).inflRes) || decide (s.hq.inflight.length + heldSlots s < 8192))

/-- Entries of a CQ that are neither committed and unreleased nor reserved by commands in flight (R66). -/
def cqRoom (s : State) (f : Fn) (q : Nat) : Bool :=
  let c := cqOf s f q
  let used := if c.depth = 0 then 0 else (c.tail + c.depth - c.head) % c.depth
  let reserved := (s.hq.inflight.filter fun d => d.ref.fn == f && decide (d.ref.sq < 8192) && (sqOf s f d.ref.sq).cqid == q).length
  decide (reserved + used + 1 < c.depth)

/-- An SQ has an entry and may be fetched from. -/
def sqReady (s : State) (f : Fn) (q : Nat) : Bool :=
  let x := sqOf s f q
  decide (x.unit.st = .running) && !x.halted && x.head != x.tail && cqRoom s f x.cqid

/-- The first number of a rising list at or above `n`, else the first of the list. -/
def cycleFrom (n : Nat) (l : List Nat) : Option Nat :=
  match l.find? fun k => decide (n ≤ k) with
  | some k => some k
  | none => l.head?

/-- The SQ to fetch from next, with the turn it leaves (R75): admin SQs round robin across functions first; then I/O
SQs, a function's turn of up to WEIGHT entries and within it an SQ's turn of up to its weight, at most 8 in a turn. -/
def pickSq (s : State) : Option (Fn × Nat × Turn) :=
  let n := s.hq.turn
  let ready (f : Fn) : List Nat := if mayFetch s f then sortBy (fun a b => decide (a < b)) ((sqIds s f).filter (sqReady s f)) else []
  let admins := (allFns.filter fun f => (ready f).contains 0).map fun f => f.toNat
  match cycleFrom n.adminNext admins with
  | some f => some (BitVec.ofNat 6 f, 0, { n with adminNext := (f + 1) % 64 })
  | none =>
    let ios := (allFns.filter fun f => (ready f).any fun q => q != 0).map fun f => f.toNat
    let stay := decide (0 < n.fnLeft) && ios.contains n.fn
    match (if stay then some n.fn else cycleFrom (n.fn + 1) ios) with
    | none => none
    | some f =>
      let fn : Fn := BitVec.ofNat 6 f
      let left := if stay then n.fnLeft else min 8 ((allotOf s fn).weight + 1)
      let qs := (ready fn).filter fun q => q != 0
      let cur := tabGet 0 n.sqNext f
      let keep := stay && decide (0 < n.sqLeft) && qs.contains cur
      match (if keep then some cur else cycleFrom (cur + 1) qs) with
      | none => none
      | some q =>
        let sqLeft := if keep then n.sqLeft else min 8 (sqOf s fn q).weight
        some (fn, q, { n with fn := f, fnLeft := left - 1, sqNext := tabSet 0 n.sqNext f q, sqLeft := sqLeft - 1 })

/-- Fetching stops device-wide: a firmware activation has been fetched (R126), or a warm reset waits for nothing but its
completions (R38). -/
def fetchStopped (s : State) : Bool :=
  s.hq.act.isSome || (s.gl.resetWait.isSome && !s.gl.moving) || s.hq.inflight.any fun c => eOpcode c.entry == 0x2A && decide (c.stage = .ready)

/-- A command has reached its ordering point (R111). -/
def orderingPoint (c : InFlight) : Bool :=
  eOpcode c.entry == 4 || (eOpcode c.entry == 1 && decide (c.stage = .accepted))

/-- An ORDERED entry waits: an earlier command of its SQ has not reached its ordering point (R112). -/
def orderedWaits (s : State) (r : CmdRef) (e : BitVec 512) : Bool :=
  eOrdered e && s.hq.inflight.any fun c => c.ref.fn == r.fn && c.ref.sq == r.sq && !orderingPoint c

/-! ### What a fetch does -/

/-- The checks of R83 in order; a command behind a PARTITION makes step 5 when it runs. -/
def fetchChecks (s : State) (r : CmdRef) (e : BitVec 512) (held : Bool) : Option Nat :=
  match opcodeCheck r.sq e with
  | some k => some k
  | none => match fieldCheck s r e with
    | some k => some k
    | none => match accessCheck s r.fn e with
      | some k => some k
      | none => match modeCheck s e with
        | some k => some k
        | none => match (if held then none else volumeCheck s e) with
          | some k => some k
          | none => match calCheck s e with
            | some k => some k
            | none => keyCheck s r.fn e

/-- What the fetch of a command fixes beside its place in the fetch order: the flush point of a FLUSH (R115), of a
PARTITION and of a long or sanitising ERASE (R93, R424), and the UNLOAD that later APPENDs meet (R85). -/
def fetchEffect (c : InFlight) (s : State) : State :=
  if eOpcode c.entry = 4 then beginFlush c.ref s
  else if isTableEnd c then noteFlush c.ref s
  else if eOpcode c.entry = 0x21 then { s with vol := { s.vol with unloadAt := some c.order } }
  else s

/-- An entry of SQ `q` is fetched: the entry that an ABORT waits for ends unchecked (R120); one that fails a check
completes with that status and has no effect; the others join the commands in flight. -/
def fetchEntry (f : Fn) (q : Nat) (e : BitVec 512) (s : State) : State :=
  let r : CmdRef := { fn := f, sq := q, tag := eTag e }
  let x := sqOf s f q
  let slot := x.head
  let s := setSq f q { x with head := (x.head + 1) % x.depth } s
  let s := { s with hq := { s.hq with fetched := s.hq.fetched + 1 } }
  let held := waitsForTable (eOpcode e) && tableEndBefore s s.hq.fetched
  let c : InFlight :=
    { ref := r, slot := slot, entry := e, order := s.hq.fetched, tb := s.tb
      stage := if held then .held else firstStage (eOpcode e), first := eBlock e, count := 0, bytes := 0, recs := []
      segs := [], body := none, busy := false, stop := none, mark := s.tb }
  let hooks := s.hq.inflight.filter fun a => decide (a.stage = .abortWait) && a.ref.fn == f && eField a.entry 24 2 == q
    && a.first == slot
  if !hooks.isEmpty then
    forEach hooks (fun a s => complete a.ref 0 0 0 false s) (postEntry c 0x0003 (failR0 c) (failR1 c) false s)
  else match fetchChecks s r e held with
    | some st => postEntry c st (failR0 c) (failR1 c) false s
    | none => fetchEffect c { s with hq := { s.hq with inflight := s.hq.inflight ++ [c] } }

/-- The device fetches one entry: `entry` is what stands in host memory at the head of the SQ that is served next. An
ORDERED entry that waits pauses its SQ, and the turn passes on. -/
def execCommandFetch (t : Time) (entry : BitVec 512) (s : State) : Host.Outcome State Fault Refusal :=
  let s := advance t s
  if !fetching s || fetchStopped s then .next s
  else match pickSq s with
    | none => .next s
    | some (f, q, turn) =>
      let r : CmdRef := { fn := f, sq := q, tag := eTag entry }
      if orderedWaits s r entry then .next { s with hq := { s.hq with turn := { turn with sqLeft := 0 } } }
      else .next (fetchEntry f q entry { s with hq := { s.hq with turn := turn } })

end Sys2Proof.Machine
end

