-- ==== Sys2Proof/Machine/Format.lean ====
section
/-!
DEFINITION. The byte structures of the Skoan-1 format: record headers (R133), checks on the way back (R151), payload
directory and record index (R192, R193), C2 geometry of a data set (R190, R191), span parity payloads (R196, R209),
housekeeping payloads (R200), path positions (R176 to R180).
-/

namespace Sys2Proof.Machine

/-! ### Record elements (R132, R133, R151) -/

/-- The 32 B record header (R133). -/
def recordHeader (compressed encrypted : Bool) (part block len bodyLen session : Nat) : List Byte :=
  [1#8, BitVec.ofNat 8 (b2n compressed + 2 * b2n encrypted), BitVec.ofNat 8 part, 0#8] ++ natLe 4 (runCount len)
    ++ natLe 8 block ++ natLe 4 len ++ natLe 4 bodyLen ++ natLe 4 session ++ natLe 4 0

/-- COMPRESSED of a record header. -/
def hdrCompressed (h : List Byte) : Bool := (h.getD 1 0).getLsbD 0

/-- ENCRYPTED of a record header. -/
def hdrEncrypted (h : List Byte) : Bool := (h.getD 1 0).getLsbD 1

/-- RECORD_LEN of a record header. -/
def hdrLen (h : List Byte) : Nat := fieldLe h 16 4

/-- BODY_LEN of a record header. -/
def hdrBody (h : List Byte) : Nat := fieldLe h 20 4

/-- SESSION of a record header. -/
def hdrSession (h : List Byte) : Nat := fieldLe h 24 4

/-- Length of the element that a record header opens (R132). -/
def hdrElement (h : List Byte) : Nat := 32 + hdrBody h + 16 * b2n (hdrEncrypted h)

/-- A record header has VERSION 1, reserved fields 0, a length in range and the RUN_COUNT of that length (R133, R151
item 1). -/
def headerOk (h : List Byte) : Bool :=
  h.length == 32 && h.getD 0 0 == 1 && bits (h.getD 1 0) 2 6 == 0 && bits (h.getD 2 0) 6 2 == 0 && h.getD 3 0 == 0
    && decide (1 ≤ hdrLen h) && decide (hdrLen h ≤ 268435456) && fieldLe h 4 4 == runCount (hdrLen h)
    && fieldLe h 28 4 == 0

/-- The runs of a plaintext body as they stand, cut by their own lengths, each as long as R134 makes it (R135, R151
items 1 and 2): none on a format error of a run header. -/
def cutRuns : Nat → Nat → List Byte → Option (List (List Byte))
  | 0, _, l => if l = [] then some [] else none
  | n + 1, len, l =>
    let k := 16 + fieldLe l 4 4 % 2 ^ 21
    if l.length < k ∨ l.length < 16 then none
    else (cutRuns n (len - 1048576) (l.drop k)).map (l.take k :: ·)

/-- IN_LEN that run `k` of a record of `len` bytes must have (R134). -/
def runWant (len k : Nat) : Nat := min 1048576 (len - 1048576 * k)

/-- A run frame says that its body is raw (R135). -/
def frameRaw (fr : List Byte) : Bool := (fieldLe fr 0 4).testBit 21

/-- The bytes of run `k` of a record of `len` bytes from its frame, or none on a format error (R151). -/
def framePlain (compressed : Bool) (len k : Nat) (fr : List Byte) : Option (List Byte) :=
  match runPlain compressed (runWant len k) fr with
  | none => none
  | some (out, rest) => if rest = [] then some out else none

/-! ### Payload of a data set (R192, R193) -/

/-- Bytes of a payload. -/
def payloadBytes : Nat := 7340032

/-- Bytes that stream area and record index share (R194). -/
def payloadCap : Nat := payloadBytes - 64

/-- One entry of the record index (R193). -/
structure IndexEntry where
  block  : Nat
  offset : Nat
  type   : Nat
  lost   : Bool
  value  : Nat
deriving DecidableEq, Repr

/-- An index entry as 16 bytes. -/
def entry16 (e : IndexEntry) : List Byte :=
  natLe 8 e.block ++ natLe 4 e.offset ++ [BitVec.ofNat 8 e.type, BitVec.ofNat 8 (b2n e.lost)] ++ natLe 2 e.value

/-- The index entry at byte 0 of a string. -/
def entryOf (l : List Byte) : IndexEntry :=
  { block := fieldLe l 0 8, offset := fieldLe l 8 4, type := fieldLe l 12 1, lost := (l.getD 13 0).getLsbD 0,
    value := fieldLe l 14 2 }

/-- The entries of an index string. -/
def entriesOf : Nat → List Byte → List IndexEntry
  | 0, _ => []
  | n + 1, l => entryOf l :: entriesOf n (l.drop 16)

/-- The fields of a directory (R192). -/
structure Directory where
  kind    : Nat
  part    : Nat
  spanP   : Nat
  close   : Nat
  dsn     : Nat
  spanAt  : Nat
  session : Nat
  stream  : Nat
  cont    : Nat
  entries : Nat
  first   : Nat
  next    : Nat
deriving DecidableEq, Repr

/-- The 64 B directory over an index string (R192). -/
def directoryBytes (d : Directory) (index : List Byte) : List Byte :=
  let b := natLe 4 0x314E4B53 ++ [BitVec.ofNat 8 d.kind, BitVec.ofNat 8 d.part, BitVec.ofNat 8 d.spanP, BitVec.ofNat 8 d.close]
    ++ natLe 4 d.dsn ++ natLe 4 d.spanAt ++ natLe 4 d.session ++ natLe 4 d.stream ++ natLe 4 d.cont ++ natLe 4 d.entries
    ++ natLe 8 d.first ++ natLe 8 d.next ++ natLe 4 (crc32c index).toNat ++ natLe 8 0
  b ++ natLe 4 (crc32c b).toNat

/-- The fields of a directory string. -/
def directoryOf (b : List Byte) : Directory :=
  { kind := fieldLe b 4 1, part := fieldLe b 5 1 % 64, spanP := fieldLe b 6 1, close := fieldLe b 7 1, dsn := fieldLe b 8 4,
    spanAt := fieldLe b 12 4, session := fieldLe b 16 4, stream := fieldLe b 20 4, cont := fieldLe b 24 4,
    entries := fieldLe b 28 4, first := fieldLe b 32 8, next := fieldLe b 40 8 }

/-- A directory string is one: FORMAT_ID and DIR_CRC (R192). -/
def directoryOk (b : List Byte) : Bool :=
  b.length == 64 && fieldLe b 0 4 == 0x314E4B53 && fieldLe b 60 4 == (crc32c (b.take 60)).toNat

/-- A payload from its directory fields, its stream bytes and its index entries in ascending block order (R192). -/
def payloadOf (d : Directory) (stream : List Byte) (entries : List IndexEntry) : List Byte :=
  let index := (sortBy (fun (a b : IndexEntry) => decide (a.block < b.block)) entries).flatMap entry16
  let d := { d with stream := stream.length, entries := entries.length }
  let front := directoryBytes d index ++ stream
  front ++ List.replicate (payloadBytes - front.length - index.length) 0 ++ index

/-! ### C2 groups of a data set (R190, R191) -/

/-- Group and member of the codeword with index CW (R190). -/
def groupMember (cw : Nat) : Nat × Nat :=
  let r := cw / 992
  let t := cw % 992
  ((t + 5 * r) % 32, 31 * r + t / 32)

/-- Codeword index of member `m` of group `g` (R190). -/
def memberCw (g m : Nat) : Nat :=
  let r := m / 31
  992 * r + (32 * (m % 31) + (g + 8 * 32 - 5 * r) % 32)

/-- Information block of data member `m` of group `g`: data codeword 32·m + g of the payload (R191). -/
def dataBlock (payload : List Byte) (g m : Nat) : List Byte := slice payload (1024 * (32 * m + g)) 1024

/-- The 24 parity bytes of group `g` at byte `j` (R207). -/
def groupParity (payload : List Byte) (g j : Nat) : List Byte :=
  c2Parity ((List.range 224).map fun m => payload.getD (1024 * (32 * m + g) + j) 0)

/-- Information block of the codeword with index CW of a data set with this payload (R190, R191, R207). -/
def infoBlock (payload : List Byte) (cw : Nat) : List Byte :=
  let (g, m) := groupMember cw
  if m < 224 then dataBlock payload g m
  else (List.range 1024).map fun j => (groupParity payload g j).getD (m - 224) 0

/-! ### Span parity (R196, R209) -/

/-- Payload of parity data set `i` of a span with these data payloads (R209). -/
def parityPayload (p i : Nat) (span : List (List Byte)) : List Byte :=
  (List.range payloadBytes).map fun b =>
    (c3Parity p ((List.range 32).map fun k => (span.getD k []).getD b 0)).getD i 0

/-! ### Path positions (R176 to R180) -/

/-- Nominal data-set length in units of 10 nm (R177). -/
def slotLen : Nat := 315136

/-- Length of a row, in units of 10 nm (R182). -/
def rowLen : Nat := 38592

/-- Length of a separator, in units of 10 nm (R189). -/
def sepLen : Nat := 6400

/-- Path slots of a wrap (R177). -/
def wrapSlots : Nat := 374441

/-- Path length of a wrap, in units of 10 nm. -/
def wrapLen : Nat := wrapSlots * slotLen

/-- Path slots of the volume (R177). -/
def volumeSlots : Nat := 24 * wrapSlots

/-- LPOS in µm of a path position (R177). -/
def pathLpos (x : Nat) : Nat :=
  let o := x % wrapLen / 100
  if x / wrapLen % 2 = 0 then 10000000 + o else 1190000000 - o

/-- Path position of an LPOS on a wrap. -/
def lposPath (wrap lpos : Nat) : Nat :=
  wrap * wrapLen + (if wrap % 2 = 0 then (lpos - 10000000) * 100 else (1190000000 - lpos) * 100)

/-- End of the wrap segment at path position `x`: the nearer of wrap end and partition end (R180). -/
def segmentEnd (v : Part) (x : Nat) : Nat := min ((x / wrapLen + 1) * wrapLen) (v.end_ * slotLen)

/-- Path position at which a data set may begin at or after `x`, if there is one (R180). -/
def beginAt (v : Part) : Nat → Nat → Option Nat
  | 0, _ => none
  | n + 1, x =>
    if v.end_ * slotLen ≤ x then none
    else if x + 2 * slotLen ≤ segmentEnd v x then some x
    else beginAt v n ((x / wrapLen + 1) * wrapLen)

/-- The number F of data sets that can still begin at nominal length from path position `x` on (R180, R201). -/
def roomFrom (v : Part) : Nat → Nat → Nat
  | 0, _ => 0
  | n + 1, x =>
    if v.end_ * slotLen ≤ x then 0
    else
      let here := (segmentEnd v x - x) / slotLen
      (here - 1) + roomFrom v n ((x / wrapLen + 1) * wrapLen)

/-- N_data of R201 for a partition with span parity `p`. -/
def dataRoom (v : Part) (p : Nat) : Nat :=
  let f := roomFrom v 25 v.at_
  (f - 1 - ceilDiv f 128 - p) * 32 / (32 + p)

/-! ### Housekeeping (R200) -/

/-- Partition table entry (R200). -/
def partEntry (v : Part) : List Byte :=
  natLe 4 v.start ++ natLe 4 v.end_ ++ natLe 4 v.eodPsa ++ natLe 4 v.eodDsn ++ natLe 8 v.next ++ natLe 4 v.base ++ natLe 4 0

/-- The medium delta as 4 MiB (R200, R229). -/
def deltaBytes (d : List (Nat × Byte)) : List Byte :=
  let at_ := fun k => tabGet 0 d k
  (List.range 4194304).map at_

/-- Payload of housekeeping generation `gen` (R200): a partition table of `count` entries. -/
def housekeeping (gen : Nat) (serial : DWord) (hwm count : Nat) (parts : List (Nat × Part)) (delta : List (Nat × Byte)) :
    List Byte :=
  let table := (List.range 64).flatMap fun p => if p < count then partEntry (tabGet partNone parts p) else List.replicate 32 0
  let d : Directory :=
    { kind := 2, part := 0, spanP := 0, close := 0, dsn := gen, spanAt := 0, session := 0, stream := 0, cont := 0,
      entries := 0, first := 0, next := 0 }
  let front := directoryBytes d [] ++ natLe 8 serial.toNat ++ natLe 4 hwm ++ [BitVec.ofNat 8 count] ++ List.replicate 51 0 ++ table
  padTo payloadBytes (padTo 0x100000 front ++ deltaBytes delta)

/-- A partition as a housekeeping payload records it, with nothing known of its stream. -/
def partOfTable (payload : List Byte) (p : Nat) : Part :=
  let b := slice payload (128 + 32 * p) 32
  { partNone with
    start := fieldLe b 0 4, end_ := fieldLe b 4 4, eodPsa := fieldLe b 8 4, eodDsn := fieldLe b 12 4
    next := fieldLe b 16 8, base := fieldLe b 24 4 }

/-- Generation `a` is newer than `b` modulo 2^24 (R200). -/
def genNewer (a b : Nat) : Bool := let d := (a + 2 ^ 24 - b % 2 ^ 24) % 2 ^ 24; d != 0 && decide (d < 2 ^ 23)

/-- The newest of some generations. -/
def newestGen : List (Nat × Nat × List Byte) → Option (Nat × Nat × List Byte)
  | [] => none
  | g :: r =>
    match newestGen r with
    | none => some g
    | some h => if genNewer h.1 g.1 then some h else some g

end Sys2Proof.Machine
end

