-- ==== Sys2Proof/Machine/Pack.lean ====
section
/-!
DEFINITION. Packing of a partition's stream into data sets (R192 to R197): the packing loop of R194, the data sets it
closes, the parity and end-of-data sets that follow, capacity (R201) and backlog (R259).
-/

namespace Sys2Proof.Machine

/-! ### The packing loop (R194) -/

/-- The packing of one data set under way: bytes of the stream area and index entries in use, stream pieces and entries
newest first, elements taken newest first, elements left, and the CLOSE code once the data set closes. -/
structure Packing where
  used   : Nat
  ent    : Nat
  stream : List (List Byte)
  index  : List IndexEntry
  taken  : List Element
  rest   : List Element
  code   : Option Nat
deriving DecidableEq, Repr

/-- The highest CLOSE code of some close points (R192). -/
def topCode (l : List ClosePoint) : Option Nat :=
  match l with
  | [] => none
  | c :: r => some (r.foldl (fun m x => max m x.code) c.code)

/-- The close points that lie before the next element, every one when none is left (R14). -/
def closesAt (closes : List ClosePoint) (rest : List Element) : List ClosePoint :=
  match rest with
  | [] => closes
  | e :: _ => closes.filter fun c => decide (c.seq ≤ e.seq)

/-- The bytes of an element that a data set takes; capacity accounting needs none (R201). -/
def takeBytes (all : Bool) (e : Element) (n : Nat) : List Byte := if all then [] else slice e.bytes e.packed n

/-- The element with its entry placed and `n` more of its bytes packed. -/
def packedBy (e : Element) (n : Nat) : Element := { e with placed := true, packed := e.packed + n }

/-- The packing loop over the elements left, in block order. With `all`, elements that are not finished count by their
size (R201); otherwise packing stops at the first of them (R110). `run` is the length of the voided run that the newest
entry holds. -/
def packLoop (all : Bool) (closes : List ClosePoint) : Nat → Packing → List Element → Packing
  | _, p, [] =>
    match (if p.taken.isEmpty then none else topCode closes) with
    | none => p
    | some c => { p with code := some c }
  | run, p, e :: r =>
    let here := if p.taken.isEmpty then none else topCode (closesAt closes (e :: r))
    let full : Packing := { p with rest := e :: r, code := some 0 }
    let room := payloadCap - 16 * (p.ent + 1)
    match here with
    | some c => { p with rest := e :: r, code := some c }
    | none =>
      if !all && !e.done then { p with rest := e :: r }
      else match e.kind with
        | .void =>
          if 0 < run && run < 65535 then
            let index := match p.index with | [] => [] | x :: xs => { x with value := x.value + 1 } :: xs
            packLoop all closes (run + 1) { p with index := index, taken := packedBy e 0 :: p.taken } r
          else if payloadCap < p.used + 16 * (p.ent + 1) then full
          else
            packLoop all closes 1
              { p with ent := p.ent + 1, index := { block := e.block, offset := 0, type := 2, lost := false, value := 1 } :: p.index,
                       taken := packedBy e 0 :: p.taken } r
        | .mark v =>
          if payloadCap < p.used + 16 * (p.ent + 1) then full
          else
            let x : IndexEntry := { block := e.block, offset := 64 + p.used, type := 1, lost := false, value := v.toNat }
            { p with ent := p.ent + 1, index := x :: p.index, taken := packedBy e 0 :: p.taken, rest := r,
                     code := some (max 2 ((topCode (closesAt closes r)).getD 2)) }
        | .record =>
          if e.placed then
            let n := min (e.size - e.packed) (payloadCap - 16 * p.ent - p.used)
            let q := { p with used := p.used + n, stream := takeBytes all e n :: p.stream, taken := packedBy e n :: p.taken }
            if n < e.size - e.packed then { q with rest := packedBy e n :: r, code := some 0 }
            else packLoop all closes 0 q r
          else if payloadCap < p.used + 16 * (p.ent + 1) + 1 then full
          else
            let n := min e.size (room - p.used)
            let x : IndexEntry := { block := e.block, offset := 64 + p.used, type := 0, lost := e.lost, value := 0 }
            let q := { p with used := p.used + n, ent := p.ent + 1, stream := takeBytes all e n :: p.stream,
                              index := x :: p.index, taken := packedBy e n :: p.taken }
            if n < e.size then { q with rest := packedBy e n :: r, code := some 0 } else packLoop all closes 0 q r

/-- At most 4,096 carried TYPE 2 entries go into one data set (R195). -/
def carriedNow (v : Part) : List (Nat × Nat) := v.carried.take 4096

/-- A carried lost range as an index entry (R195). -/
def carriedEntry (c : Nat × Nat) : IndexEntry := { block := c.1, offset := 0, type := 2, lost := false, value := c.2 }

/-- An empty packing that the carried entries have taken their room of. -/
def packStart (carried : List (Nat × Nat)) : Packing :=
  { used := 0, ent := carried.length, stream := [], index := (carried.map carriedEntry).reverse, taken := [], rest := [],
    code := none }

/-- The packing of the next data set of a partition. -/
def packNext (all : Bool) (v : Part) : Packing := packLoop all v.closes 0 (packStart (carriedNow v)) (unpacked v)

/-! ### Data sets (R192, R196, R197) -/

/-- The blocks that a packing took, in order. -/
def ownedOf (taken : List Element) : List Owned :=
  taken.map fun e => { block := e.block, fn := e.fn, seq := e.seq, void := decide (e.kind = .void) }

/-- The packing position: the lowest block of the partition that no data set has placed (R192). -/
def packPos (v : Part) (l : List Element) : Nat :=
  match l.find? fun e => !e.placed with
  | some e => e.block
  | none => v.next

/-- The session whose records come next in the stream: that of the next session end, and otherwise the open one. -/
def packSession (v : Part) : Nat :=
  match v.closes.find? fun c => c.code == 3 with
  | some c => c.session
  | none => v.session.getD 0

/-- The data data set that a closed packing makes, with close code `code` (R192). -/
def dataSetOf (p : Nat) (v : Part) (spanAt spanP code : Nat) (k : Packing) : DataSet :=
  let before := unpacked v
  let taken := k.taken.reverse
  let cont := match before with | e :: _ => if e.placed then (taken.headD e).packed - e.packed else 0 | [] => 0
  let first :=
    match (taken.zip before).find? fun (a, b) => decide (b.packed < a.packed) with
    | some (a, _) => a.block
    | none => packPos v before
  let next := packPos v k.rest
  let d : Directory :=
    { kind := 0, part := p, spanP := spanP, close := code, dsn := v.dsn, spanAt := spanAt, session := packSession v, stream := 0,
      cont := cont, entries := 0, first := first, next := next }
  { part := p, dsn := v.dsn, kind := 0, session := packSession v, first := first, next := next, contLen := cont, close := code,
    spanP := spanP, spanAt := spanAt, payload := payloadOf d k.stream.reverse.flatten k.index.reverse, owned := ownedOf taken,
    carried := carriedNow v }

/-- A data set with no blocks of its own: span parity or end of data. -/
def bareSet (p dsn kind session spanP spanAt next : Nat) (payload : List Byte) (carried : List (Nat × Nat)) : DataSet :=
  { part := p, dsn := dsn, kind := kind, session := session, first := next, next := next, contLen := 0, close := 3, spanP := spanP,
    spanAt := spanAt, payload := payload, owned := [], carried := carried }

/-- The span of a partition closes: its parity data sets, and the partition after it (R196). -/
def closeSpan (p session : Nat) (v : Part) : List DataSet × Part :=
  if v.span.isEmpty then ([], v)
  else
    let sets := (List.range v.spanP).map fun i =>
      bareSet p (v.dsn + i) 1 session v.spanP v.spanAt v.next (parityPayload v.spanP i v.span) []
    (sets, { v with span := [], dsn := v.dsn + v.spanP })

/-- The end-of-data set of a partition, with the next DSN, which the next data set takes again (R197). `p0` is the
SPAN_PARITY in force. -/
def eodSet (p session p0 : Nat) (v : Part) : DataSet × Part :=
  let some_ := v.placed.any (fun d => d.kind == 0) || v.dsn != 0
  let spanP := if some_ then v.spanP else p0
  let spanAt := if some_ then v.spanAt else v.dsn
  let c := carriedNow v
  let d : Directory :=
    { kind := 3, part := p, spanP := spanP, close := 3, dsn := v.dsn, spanAt := spanAt, session := session, stream := 0, cont := 0,
      entries := 0, first := v.next, next := v.next }
  (bareSet p v.dsn 3 session spanP spanAt v.next (payloadOf d [] (c.map carriedEntry)) c, { v with carried := v.carried.drop 4096 })

/-- What the end of a write session still writes: span parity and the end-of-data set (R197). -/
def finishSession (p session p0 : Nat) (v : Part) : List DataSet × Part :=
  let (par, v) := closeSpan p session v
  let (eod, v) := eodSet p session p0 v
  (par ++ [eod], v)

/-- The data sets that the partition's stream makes next, and the partition after them: a data data set that closes, with
the parity sets of a span that ends and the end of data of a session that ends; nothing while the packing loop can
neither fill the data set nor reach a close point (R194, R196, R197, R265). -/
def nextSets (p p0 : Nat) (v : Part) : List DataSet × Part :=
  let early := closesAt v.closes (unpacked v)
  match (if early.isEmpty then none else early.find? fun c => c.code == 3) with
  | some c => finishSession p c.session p0 { v with closes := v.closes.filter fun x => !early.contains x }
  | none =>
    let v := { v with closes := v.closes.filter fun x => !early.contains x }
    let k := packNext false v
    match k.code with
    | none => ([], v)
    | some code =>
      let spanAt := if v.span.isEmpty then v.dsn else v.spanAt
      let spanP := if v.span.isEmpty then p0 else v.spanP
      let d := dataSetOf p v spanAt spanP code k
      let gone := closesAt v.closes k.rest
      let upd := k.taken
      let v := { v with
        elems := v.elems.map fun e => (upd.find? fun x => x.block == e.block).getD e
        closes := v.closes.filter fun x => !gone.contains x
        carried := v.carried.drop 4096, dsn := v.dsn + 1, spanAt := spanAt, spanP := spanP
        span := v.span ++ [d.payload] }
      if code = 3 then
        let (more, v) := finishSession p d.session p0 v
        (d :: more, v)
      else if v.span.length = 32 then
        let (par, v) := closeSpan p d.session v
        (d :: par, v)
      else ([d], v)

/-! ### Capacity (R201) and backlog (R259) -/

/-- Data data sets that the packing loop needs for the elements of a partition not packed yet, all of them (R201). -/
def setsFor : Nat → Part → Nat
  | 0, _ => 0
  | n + 1, v =>
    let early := closesAt v.closes (unpacked v)
    let v := { v with closes := v.closes.filter fun x => !early.contains x }
    if (unpacked v).isEmpty then 0
    else
      let k := packNext true v
      1 + setsFor n { v with
        elems := k.rest, carried := v.carried.drop 4096, closes := v.closes.filter fun x => !(closesAt v.closes k.rest).contains x }

/-- Data data sets that accepted data not yet on tape needs in partition `p` as `v` describes it: those assembled and not
written, and those still to be packed (R201). -/
def setsNeeded (s : State) (p : Nat) (v : Part) : Nat :=
  let bytes := ((unpacked v).map fun e => e.size + 16).sum
  setsFor (bytes / (payloadCap / 2) + (unpacked v).length + 1) v
    + (s.wr.images.filter fun d => d.part == p && d.kind == 0).length
    + (s.wr.again.filter fun d => d.2.part == p && d.2.kind == 0).length

/-- SPAN_PARITY in force (R95, R196). -/
def spanParity (s : State) : Nat := param s 7 0

/-- The span parity that capacity accounting counts with (R201). -/
def parityOf (s : State) (v : Part) : Nat := if v.span.isEmpty then spanParity s else v.spanP

/-- The data sets that the partition can still take beyond what it needs (R201). -/
def remainOf (s : State) (p : Nat) (v : Part) : Nat := dataRoom v (parityOf s v) - setsNeeded s p v

/-- The partition's data as `v` describes it fits (R85, R201). -/
def fits (s : State) (p : Nat) (v : Part) : Bool := decide (setsNeeded s p v ≤ dataRoom v (parityOf s v))

/-- The packable elements not yet in a data set: those below the lowest one whose APPEND has not completed (R110). -/
def packable (v : Part) : List Element := (unpacked v).takeWhile fun e => e.done

/-- U of R259: packable stream bytes not yet assembled. -/
def packableBytes (v : Part) : Nat := ((packable v).map fun e => e.size - e.packed).sum

/-- A close point lies among the packable bytes (R259). -/
def closePending (v : Part) : Bool :=
  match packable v with
  | [] => false
  | e :: r => v.closes.any (fun c => decide (e.seq < c.seq) && (unpacked v).all fun x => x.done || decide (c.seq ≤ x.seq))
      || (e :: r).any fun x => match x.kind with | .mark _ => true | _ => false

/-- The backlog B (R259). -/
def backlog (v : Part) : Nat := packableBytes v / payloadBytes + b2n (closePending v)

/-- A session end is due with nothing left to pack before it (R197). -/
def finishDue (v : Part) : Bool := (closesAt v.closes (unpacked v)).any fun c => c.code == 3

/-- A partition at place `p` of the volume needs tape (R23): a close point is pending, its backlog has reached RESUME,
or it has data sets to write again. -/
def needsTape (s : State) (p : Nat) (v : Part) : Bool :=
  closePending v || finishDue v || decide (bits s.sm.resume 0 12 ≤ backlog v) || (s.wr.again.any fun d => d.2.part == p)

end Sys2Proof.Machine
end

