-- ==== Sys2Proof/Machine/Stream.lean ====
section
/-!
DEFINITION. The record stream at the host's side: APPEND (R85, R106 to R109, R256), acceptance (R107), write sessions
opening (R157), WRITE_MARK (R86), FLUSH (R87, R115, R130), READ_POSITION (R422).
-/

namespace Sys2Proof.Machine

/-! ### Data of an APPEND -/

/-- `l` cut into pieces of the given lengths. -/
def cutBy : List Nat → List Byte → List (List Byte)
  | [], _ => []
  | n :: r, l => l.take n :: cutBy r (l.drop n)

/-- Record lengths of an APPEND: the list read at RLIST_ADDR, or the whole buffer for one record (R84, R85). -/
def recordLens (c : InFlight) (rlist : List Nat) (total : Nat) : List Nat :=
  if eField c.entry 24 4 = 1 then [total] else rlist

/-- Record lengths obey R85. -/
def lensOk (c : InFlight) (lens : List Nat) (total : Nat) : Bool :=
  lens.length == eField c.entry 24 4 && lens.all (fun n => decide (1 ≤ n) && decide (n ≤ 268435456)) && lens.sum == total
    && decide (total ≤ 1073741824)

/-- Staging that an APPEND reserves (R256). -/
def reservation (lens : List Nat) : Nat :=
  ceilDiv (lens.sum + 48 * lens.length + 16 * (lens.map runCount).sum) pageBytes * pageBytes

/-- APPEND takes its data (R85, R106, R256, R258): malformed pointers and lengths end it, and otherwise it waits for
staging space. -/
def execAppend (t : Time) (ref : CmdRef) (rlist : List Nat) (segs : List SgSeg) (data : List Byte) (s : State) :
    Host.Outcome State Fault Refusal :=
  let s := advance t s
  match readyCmd 0x01 ref s with
  | none => .next s
  | some c =>
    match dataPieces c.entry segs with
    | none => .next (failCmd ref 0x0002 s)
    | some p =>
      let total := piecesLen p
      let lens := recordLens c rlist total
      if !lensOk c lens total then .next (failCmd ref 0x0002 s)
      else
        let recs := cutBy lens (padTo total data)
        .next (grantPass (setCmd { c with stage := .waiting, bytes := reservation lens, recs := recs, segs := segs } s))

/-- A staging grant (R258). -/
def execStagingGrant (t : Time) (s : State) : Host.Outcome State Fault Refusal :=
  let s := advance t s
  .next (grantPass s)

/-! ### Acceptance (R106, R107, R157) -/

/-- The frames of a command's records that are done, those of record `n` in run order. -/
def framesOf (s : State) (r : CmdRef) (n : Nat) : List (List Byte) :=
  (sortBy (fun (a b : CmdRef × Nat × Nat × List Byte) => decide (a.2.2.1 < b.2.2.1))
    (s.eng.frames.filter fun x => x.1 == r && x.2.1 == n)).map fun x => x.2.2.2

/-- Every run of the command is compressed or raw (R106). -/
def framesDone (s : State) (c : InFlight) : Bool :=
  (s.eng.frames.filter fun x => x.1 == c.ref).length == (c.recs.map fun r => runCount r.length).sum

/-- What stops a record or mark from entering partition `p` now: no volume, no partition, calibration, or no session
value (R85, R93, R26, R157). -/
def streamCheck (s : State) (p : Nat) : Option Nat :=
  if !s.vol.loaded then some 0x0105
  else if partCount s ≤ p then some 0x0209
  else if (partOf s p).session.isNone && calReq s then some 0x0206
  else if (partOf s p).session.isNone && decide (0xFFFFFFFF ≤ s.vol.nextSess) then some 0x0207
  else none

/-- The partition's session opens if none is open (R157); a volume without a table records partition 0 from then on
(R179). -/
def openSession (p : Nat) (s : State) : State :=
  let v := partOf s p
  match v.session with
  | some _ => s
  | none =>
    let s := setPart p { v with session := some s.vol.nextSess } s
    { s with vol := { s.vol with nextSess := s.vol.nextSess + 1, count := max 1 s.vol.count } }

/-- New elements join the stream of partition `p`. -/
def addElems (p : Nat) (es : List Element) (s : State) : State :=
  let v := partOf s p
  setPart p { v with elems := v.elems ++ es, next := v.next + es.length } s

/-- The elements of an APPEND with first block `b`, in the session `n`: header and body, and the tag's room when it is
encrypted (R132). `off` is the offset in its staging pages. -/
def elementsOf (p session seq : Nat) (enc comp : Bool) (f : Fn) (pages : List Nat) : Nat → Nat → List (Nat × List Byte) → List Element
  | _, _, [] => []
  | b, off, (len, body) :: r =>
    let h := recordHeader comp enc p b len body.length session
    let size := 32 + body.length + 16 * b2n enc
    { block := b, fn := f, seq := seq, kind := .record, done := !enc, lost := false, placed := false, packed := 0,
      bytes := h ++ body, pages := pages, off := off, size := size } :: elementsOf p session seq enc comp f pages (b + 1) (off + size) r

/-- The acceptance of an APPEND (R106, R108, R132, R256): blocks and headers are assigned, what the reservation holds
beyond the elements is released, and encrypted records go to the cipher pairs; without encryption the command
completes. -/
def acceptAppend (c : InFlight) (s : State) : State :=
  let p := ePart c.entry
  let enc := (eOpt c.entry).testBit 1
  let s := openSession p s
  let v := partOf s p
  let pages := ((s.sm.grants.find? fun g => g.ref == c.ref).map fun g => g.pages).getD []
  let bodies := (c.recs.zipIdx.map fun (r, n) => (r.length, (framesOf s c.ref n).flatten))
  let es := elementsOf p (v.session.getD 0) s.vol.accepted enc ((eOpt c.entry).testBit 0) c.ref.fn pages v.next 0 bodies
  let total := (es.map fun e => e.size).sum
  let s := addElems p es s
  let s := { s with
    vol := { s.vol with accepted := s.vol.accepted + 1 }
    eng := { s.eng with frames := s.eng.frames.filter fun x => x.1 != c.ref }
    sm := { s.sm with grants := s.sm.grants.map fun g =>
      if g.ref = c.ref then { g with accepted := true, bytes := total, recs := es.map fun e => (p, e.block, e.size) } else g } }
  let s := setCmd { c with stage := .accepted, first := v.next, count := es.length, bytes := total, recs := [] } s
  if enc then
    let slot := deviceSlot s c.ref.fn (eKey c.entry)
    let recs := es.map fun e =>
      ({ ref := c.ref, part := p, block := e.block, sealing := true, header := e.bytes.take 32, body := e.bytes.drop 32, tag := [],
         slot := slot, key := [], epoch := 0, first := none } : CipherRec)
    grantPass { s with cy := { s.cy with waiting := s.cy.waiting ++ recs } }
  else complete c.ref 0 v.next total false (grantPass s)

/-- An accepted APPEND would fit (R85, R201). -/
def appendFits (c : InFlight) (s : State) : Bool :=
  let p := ePart c.entry
  let enc := (eOpt c.entry).testBit 1
  let v := partOf s p
  let bodies := (c.recs.zipIdx.map fun (r, n) => (r.length, (framesOf s c.ref n).flatten))
  let es := elementsOf p 0 s.vol.accepted enc false c.ref.fn [] v.next 0 bodies
  decide (v.next + es.length ≤ 2 ^ 58) && fits s p { v with elems := v.elems ++ es, next := v.next + es.length }

/-- The earliest-fetched APPEND that is ready reaches its acceptance point, unless a PARTITION or ERASE holds it (R93,
R106, R107). -/
def execAcceptancePoint (t : Time) (s : State) : Host.Outcome State Fault Refusal :=
  let s := advance t s
  if !fetching s || acceptanceHeld s then .next s
  else match (atStage s .staged).find? (framesDone s) with
    | none => .next s
    | some c =>
      match streamCheck s (ePart c.entry) with
      | some st => .next (tidy (failCmd c.ref st s))
      | none =>
        if appendFits c s then .next (tidy (acceptAppend c s)) else .next (tidy (failCmd c.ref 0x0207 s))

/-- The stream element of a mark at the partition's next block (R86). -/
def markElement (f : Fn) (value : BitVec 16) (seq : Nat) (v : Part) : Element :=
  { block := v.next, fn := f, seq := seq, kind := .mark value, done := true, lost := false, placed := false, packed := 0,
    bytes := [], pages := [], off := 0, size := 0 }

/-- WRITE_MARK (R86, R106): accepted and completed at once, with its block in RESULT0; it waits where acceptance is
held. -/
def execWriteMark (t : Time) (ref : CmdRef) (s : State) : Host.Outcome State Fault Refusal :=
  let s := advance t s
  match readyCmd 0x05 ref s with
  | none => .next s
  | some c =>
    if acceptanceHeld s then .next s
    else
      let p := ePart c.entry
      let v := partOf s p
      let e := markElement ref.fn (BitVec.ofNat 16 (eField c.entry 24 2)) s.vol.accepted v
      match streamCheck s p with
      | some st => .next (tidy (failCmd ref st s))
      | none =>
        if 2 ^ 58 ≤ v.next ∨ !fits s p { v with elems := v.elems ++ [e], next := v.next + 1 } then .next (tidy (failCmd ref 0x0207 s))
        else
          let s := addElems p [e] (openSession p s)
          let s := { s with vol := { s.vol with accepted := s.vol.accepted + 1 } }
          .next (tidy (complete ref 0 v.next 0 false s))

/-! ### FLUSH (R87, R115) -/

/-- FLUSH completes once every covered block is written and verified, or voided, lost or given up (R115, R130). -/
def execFlush (t : Time) (ref : CmdRef) (s : State) : Host.Outcome State Fault Refusal :=
  let s := advance t s
  match readyCmd 0x04 ref s with
  | none => .next s
  | some _ =>
    match s.hq.flushes.find? fun w => w.ref == ref with
    | none => .next s
    | some w => if offTape s w.point then .next s else .next (tidy (completeFlush ref 0 0 s))

/-! ### READ_POSITION (R422) -/

/-- The lowest block of a partition whose data set is not settled: every block below it is on tape and verified. -/
def flushedBlock (v : Part) : Nat :=
  match v.elems with
  | [] => v.next
  | e :: _ => e.block

/-- Path position of the head. -/
def headPath (s : State) : Nat := lposPath s.sv.wrap (lposNow s)

/-- The head lies in the range of partition `v`. -/
def headIn (s : State) (v : Part) : Bool :=
  s.gl.cart && decide (v.start * slotLen ≤ headPath s) && decide (headPath s < v.end_ * slotLen)

/-- The data set of partition `v` under the head: the last one that begins at or before it (R192). -/
def setUnder (s : State) (v : Part) : Option Placed :=
  if v.at_ ≤ headPath s then none
  else (v.placed.filter fun d => d.kind == 0 && decide (d.at_ ≤ headPath s)).foldl
    (fun best d => match best with | none => some d | some b => if b.at_ ≤ d.at_ then some d else some b) none

/-- HEAD_BLOCK and DSET (R422). -/
def headBlock (s : State) (v : Part) : Nat × Nat :=
  if !headIn s v then (ones64, 0)
  else match setUnder s v with
    | some d => (d.first, d.dsn)
    | none => if v.placed.isEmpty then (0, 0) else ((v.placed.foldl (fun m d => max m d.next) 0), v.eodDsn)

/-- The 64 B position structure (R422). -/
def positionBytes (s : State) (p : Nat) : List Byte :=
  let v := partOf s p
  let (hb, ds) := headBlock s v
  let rem := remainOf s p v
  natLe 8 v.next ++ natLe 8 (flushedBlock v) ++ natLe 8 hb ++ natLe 4 ds ++ [BitVec.ofNat 8 s.sv.wrap]
    ++ [BitVec.ofNat 8 (b2n (headIn s v) + 2 * b2n v.session.isSome + 4 * b2n (rem == 0))] ++ natLe 2 0
    ++ natLe 4 (lposNow s) ++ natLe 4 rem ++ natLe 8 s.tb.toNat ++ natLe 16 0

/-- READ_POSITION (R422). -/
def execReadPosition (t : Time) (ref : CmdRef) (segs : List SgSeg) (s : State) : Host.Outcome State Fault Refusal :=
  let s := advance t s
  match readyCmd 0x06 ref s with
  | none => .next s
  | some c =>
    match dataPieces c.entry segs with
    | none => .next (failCmd ref 0x0002 s)
    | some p =>
      if piecesLen p < 64 then .next (failCmd ref 0x0002 s)
      else
        let v := partOf s (ePart c.entry)
        .next (complete ref 0 v.next 0 false (writeArea ref.fn p 0 (positionBytes s (ePart c.entry)) s))

end Sys2Proof.Machine
end

