-- ==== Sys2Proof/Machine/Engines.lean ====
section
/-!
DEFINITION. The compression engines (R147 to R152) and the cipher pairs (R162, R170 to R174).
-/

namespace Sys2Proof.Machine

/-! ### Engines -/

/-- Roster index of compression engine `e`. -/
def engineUnit (e : Nat) : Nat := 1152 + e

/-- Compression engines that are active. -/
def activeEngines (s : State) : List Nat := (List.range 32).filter fun e => decide ((crewOf s (engineUnit e)).st = .active)

/-- Engine `e` may take run `r`: a run whose attempt failed goes to another engine while one is active (R148, R152). -/
def engineMay (s : State) (e : Nat) (r : Run) : Bool :=
  !r.tried.contains e || (activeEngines s).all fun x => r.tried.contains x

/-- One run waits ahead of another: fetch order of the commands, then record, then run (R147). -/
def runBefore (a b : Run) : Bool :=
  decide (a.order < b.order) || (a.order == b.order && (decide (a.recNo < b.recNo) || (a.recNo == b.recNo && decide (a.run < b.run))))

/-- The run that engine `e` takes next: one of each kind in turn when both wait (R147). -/
def pickRun (s : State) (e : Nat) : Option Run :=
  let all := sortBy runBefore (s.eng.waiting.filter (engineMay s e))
  let a := all.find? fun r => r.decomp == s.eng.nextKind
  match a with
  | some r => some r
  | none => all.head?

/-- A free active engine takes the next waiting run (R147). -/
def execRunDispatch (t : Time) (engine : BitVec 5) (s : State) : Host.Outcome State Fault Refusal :=
  let s := advance t s
  let e := engine.toNat
  if !fetching s || !(activeEngines s).contains e || s.eng.busy.any (fun b => b.1 == e) then .next s
  else match pickRun s e with
    | none => .next s
    | some r =>
      .next { s with eng := { s.eng with
        waiting := s.eng.waiting.erase r
        busy := (e, { r with epoch := (crewOf s (engineUnit e)).epoch }) :: s.eng.busy
        nextKind := !r.decomp } }

/-- A run waits again (R148, R152). -/
def runAgain (r : Run) (s : State) : State := { s with eng := { s.eng with waiting := s.eng.waiting ++ [r] } }

/-- Output of a run joins its record's. -/
def runFrameDone (r : Run) (out : List Byte) (s : State) : State :=
  { s with eng := { s.eng with frames := s.eng.frames ++ [(r.ref, r.recNo, r.run, out)] } }

/-- The second attempt of a run passed on engine `e`: the first engine is benched with CAUSE 3 when it was another one
(R148, R152). -/
def benchFirst (r : Run) (e : Nat) (s : State) : State :=
  match r.tried.getLast? with
  | some x => if x = e then s else setUnitState (engineUnit x) .benched 3 s
  | none => s

/-- Both attempts of a compression run failed (R148): the APPEND ends, and an event records the run. -/
def runFailed (r : Run) (s : State) : State :=
  let s := event 0 0 0x13 [BitVec.ofNat 64 (r.ref.sq + r.ref.tag.toNat * 2 ^ 16 + r.ref.fn.toNat * 2 ^ 32),
    BitVec.ofNat 64 (r.recNo + r.run * 2 ^ 12)] s
  failCmd r.ref 0x0301 s

/-- A decompression run failed twice (R152): its command stops at the record. -/
def recordBad (r : Run) (s : State) : State :=
  match findCmd s r.ref with
  | none => s
  | some c => setCmd { c with stop := some (if r.tape then 0x0204 else 0x0301) } s

/-- The plaintext of a decompression run: its frame under the header kept with the command (R151). -/
def runOut (s : State) (r : Run) : Option (List Byte) :=
  match findCmd s r.ref with
  | none => none
  | some c =>
    match c.recs with
    | h :: _ => framePlain (hdrCompressed h) (hdrLen h) r.run r.input
    | [] => none

/-- An engine ends a run; `agrees` says whether its own comparison or check found the engine right (R147 to R152). -/
def execRunComplete (t : Time) (engine : BitVec 5) (agrees : Bool) (s : State) : Host.Outcome State Fault Refusal :=
  let s := advance t s
  let e := engine.toNat
  match s.eng.busy.find? fun b => b.1 == e with
  | none => .next s
  | some (_, r) =>
    let s := { s with eng := { s.eng with busy := s.eng.busy.filter fun b => b.1 != e } }
    if !itemAccepted s (engineUnit e) r.epoch then
      let s := countStale (engineUnit e) s
      .next (tidy (if r.live then runAgain r s else s))
    else if !r.live then .next s
    else
      let out := if r.decomp then runOut s r else some (runFrame true r.input)
      match (if agrees then out else none) with
      | some b => .next (tidy (runFrameDone r b (benchFirst r e s)))
      | none =>
        if r.tried.isEmpty then .next (tidy (runAgain { r with tried := [e] } s))
        else .next (tidy (if r.decomp then recordBad r s else runFailed r s))

/-! ### Cipher pairs -/

/-- Roster index of cipher pair `p`. -/
def pairUnit (p : Nat) : Nat := 1184 + p

/-- Cipher pairs that are active. -/
def activePairs (s : State) : List Nat := (List.range 4).filter fun p => decide ((crewOf s (pairUnit p)).st = .active)

/-- Pair `p` may take record `w`: a retry goes to another pair while one is active (R173). -/
def pairMay (s : State) (p : Nat) (w : CipherRec) : Bool :=
  match w.first with
  | none => true
  | some x => x != p || (activePairs s).all fun y => y == x

/-- The record that pair `p` takes next: acceptance order for sealing and read order for opening, the two kinds in turn
when both wait (R174). -/
def pickRecord (s : State) (p : Nat) : Option CipherRec :=
  let all := s.cy.waiting.filter (pairMay s p)
  match all.find? fun w => w.sealing != s.cy.nextOpen with
  | some w => some w
  | none => all.head?

/-- Counts in CY_FAULTS of a function: comparisons that mismatched and records ended with CIPHER_FAULT. -/
def countFault (f : Fn) (mismatch ended : Nat) (s : State) : State :=
  let w := tabGet 0 s.cy.faults f.toNat
  let w := putBits w 0 16 (min 65535 (bits w 0 16 + mismatch))
  let w := putBits w 16 16 (min 65535 (bits w 16 16 + ended))
  { s with cy := { s.cy with faults := tabSet 0 s.cy.faults f.toNat w } }

/-- A record starts at a pair (R162, R171): it ends where the DRBG is unseeded or the slot holds no key, and otherwise
captures the slot's key. -/
def execCipherRecordStart (t : Time) (pair : BitVec 2) (s : State) : Host.Outcome State Fault Refusal :=
  let s := advance t s
  let p := pair.toNat
  if !fetching s || !(activePairs s).contains p || s.cy.busy.any (fun b => b.1 == p) then .next s
  else match pickRecord s p with
    | none => .next s
    | some w =>
      let s := { s with cy := { s.cy with waiting := s.cy.waiting.erase w, nextOpen := w.sealing } }
      if !s.cy.seeded then .next (tidy (recordStops w 0x0303 (countFault w.ref.fn 0 1 s)))
      else match slotStatus (keySlot s w.slot) with
        | some st => .next (tidy (recordStops w st s))
        | none =>
          let w := { w with key := (keySlot s w.slot).key, epoch := (crewOf s (pairUnit p)).epoch }
          .next { s with cy := { s.cy with busy := (p, w) :: s.cy.busy } }

/-- A record is started again with a fresh capture, ahead of its like (R173). -/
def recordAgain (w : CipherRec) (s : State) : State :=
  { s with cy := { s.cy with waiting := { w with key := [] } :: s.cy.waiting } }

/-- Both attempts of a record mismatched (R173): a fast cipher-fault event, and the record ends with CIPHER_FAULT. -/
def recordFault (w : CipherRec) (s : State) : State :=
  let s := event 0 0 0x14 [BitVec.ofNat 64 w.block, BitVec.ofNat 64 (w.ref.fn.toNat + w.part * 2 ^ 8)] s
  recordStops w 0x0303 (countFault w.ref.fn 0 1 (pulseFast 7 s))

/-- Every record of the command has been sealed. -/
def sealedAll (s : State) (r : CmdRef) : Bool :=
  !(s.cy.waiting.any fun w => w.ref == r) && !(s.cy.busy.any fun b => b.2.ref == r)

/-- The elements of an APPEND are finished: packing may pass them (R110). -/
def elemsDone (p first count : Nat) (s : State) : State :=
  let v := partOf s p
  setPart p { v with elems := v.elems.map fun e =>
    if first ≤ e.block ∧ e.block < first + count then { e with done := true } else e } s

/-- A sealed record takes its place in the stream; with the last one its APPEND completes (R85, R132). -/
def recordSealed (w : CipherRec) (s : State) : State :=
  let (ct, tag) := gcmSeal w.key (recordIv (hdrSession w.header) w.part w.block) w.header w.body
  let v := partOf s w.part
  let s := setPart w.part { v with elems := v.elems.map fun e =>
    if e.block = w.block ∧ e.kind = .record then { e with bytes := w.header ++ ct ++ tag } else e } s
  match findCmd s w.ref with
  | none => s
  | some c =>
    if sealedAll s w.ref then complete w.ref 0 c.first c.bytes false (elemsDone w.part c.first c.count s) else s

/-- An opened record goes on to its checks, or its tag fails (R166, R167, R169). -/
def recordOpened (w : CipherRec) (s : State) : State :=
  let (pt, ok) := gcmOpen w.key (recordIv (hdrSession w.header) w.part w.block) w.header w.body w.tag
  match findCmd s w.ref with
  | none => s
  | some c => setCmd (if ok then { c with body := some pt, busy := false } else { c with stop := some 0x0401, busy := false }) s

/-- A pair ends a record; `agrees` says whether its two pipelines gave the same output (R172, R173). -/
def execCipherRecordEnd (t : Time) (pair : BitVec 2) (agrees : Bool) (s : State) : Host.Outcome State Fault Refusal :=
  let s := advance t s
  let p := pair.toNat
  match s.cy.busy.find? fun b => b.1 == p with
  | none => .next s
  | some (_, w) =>
    let s := { s with cy := { s.cy with busy := s.cy.busy.filter fun b => b.1 != p } }
    if !itemAccepted s (pairUnit p) w.epoch then .next (tidy (recordAgain w (countStale (pairUnit p) s)))
    else if !agrees then
      let s := countFault w.ref.fn 1 0 s
      if w.first.isNone then .next (tidy (recordAgain { w with first := some p } s)) else .next (tidy (recordFault w s))
    else
      let s := match w.first with
        | some x => if x = p then s else setUnitState (pairUnit x) .benched 4 s
        | none => s
      .next (tidy (if w.sealing then recordSealed w s else recordOpened w s))

end Sys2Proof.Machine
end

