-- ==== Sys2Proof/Machine/Frame.lean ====
section
/-!
DEFINITION. The frame (R182 to R189) and the C1 code (R202 to R204): header fields, scrambler, 32/33 code, encoder, and
the layered min-sum decoder.
-/

namespace Sys2Proof.Machine

/-! ### Header (R182 to R184) -/

/-- The sync mark, first bit first (R182). -/
def syncMark : List Bool := natBits 48 0x2C6F3A81D4B7

/-- Fields of a frame header (R183). -/
structure Header where
  kind    : Nat
  part    : Nat
  dsn     : Nat
  attempt : Nat
  cw      : Nat
  row     : Nat
  lag     : Nat
  elem    : Nat
  dir     : Nat
deriving DecidableEq, Repr

/-- CW of a filler frame (R183). -/
def fillerCw : Nat := 8191

/-- The 64 information bits of a header (R183). -/
def headerInfo (h : Header) : BitVec 64 :=
  BitVec.ofNat 64 (h.dir + h.elem * 2 + h.lag * 2 ^ 8 + h.row * 2 ^ 11 + h.cw * 2 ^ 17 + h.attempt * 2 ^ 30 + h.dsn * 2 ^ 32
    + h.part * 2 ^ 56 + h.kind * 2 ^ 62)

/-- The fields that 64 information bits hold. -/
def headerFields (v : BitVec 64) : Header :=
  { kind := bits v 62 2, part := bits v 56 6, dsn := bits v 32 24, attempt := bits v 30 2, cw := bits v 17 13, row := bits v 11 6
    lag := bits v 8 3, elem := bits v 1 7, dir := bits v 0 1 }

/-- The tests of R184 on a decoded header; every KIND is defined. -/
def headerCounts (h : Header) (wrap : Nat) : Bool :=
  (decide (h.cw < 7936) || h.cw == fillerCw) && (decide (8 ≤ h.row) || h.lag == 0) && h.dir == wrap % 2

/-! ### C1 encoder (R202, R203, R185) -/

/-- Circulant shift of information column block `j` in block row `i` (R202). -/
def infoShift (i j : Nat) : Nat :=
  match i with
  | 0 => (2 * j + 1) % 256
  | 1 => ((2 * j + 1) * 11 + 17) % 256
  | 2 => ((2 * j + 1) * 45 + 38) % 256
  | _ => ((2 * j + 1) * 79 + 91) % 256

/-- Circulant shift of column block `j` in block row `i`; none for an all-zero block (R202). -/
def c1Shift (i j : Nat) : Option Nat :=
  if j < 32 then some (infoShift i j)
  else match i, j with
    | 0, 32 => some 1 | 2, 32 => some 0 | 3, 32 => some 1
    | 0, 33 => some 0 | 1, 33 => some 0
    | 1, 34 => some 0 | 2, 34 => some 0
    | 2, 35 => some 0 | 3, 35 => some 0
    | _, _ => none

/-- rot(x, s) of R203: bit r is bit (r + s) mod 256 of `x`. -/
def rot256 (x : BitVec 256) (s : Nat) : BitVec 256 := x.rotateRight s

/-- 256 bits, bit 0 first, as a vector. -/
def vec256 (l : List Bool) : BitVec 256 := BitVec.ofNat 256 (bitsNat l.reverse)

/-- The bits of a vector, bit 0 first. -/
def bits256 (v : BitVec 256) : List Bool := (List.range 256).map v.getLsbD

/-- The parity bits p0 to p3 of 8,192 information bits (R203). -/
def c1Parity (info : List Bool) : List Bool :=
  let u := (List.range 32).map fun j => vec256 (slice info (256 * j) 256)
  let lam (i : Nat) : BitVec 256 := (u.zipIdx.foldl (fun a x => a ^^^ rot256 x.1 (infoShift i x.2)) 0)
  let l0 := lam 0
  let l1 := lam 1
  let l3 := lam 3
  let p0 := l0 ^^^ l1 ^^^ lam 2 ^^^ l3
  let p1 := l0 ^^^ rot256 p0 1
  let p2 := l1 ^^^ p1
  let p3 := l3 ^^^ rot256 p0 1
  bits256 p0 ++ bits256 p1 ++ bits256 p2 ++ bits256 p3

/-- The C1 codeword of an information block of 1,024 bytes (R185, R203). -/
def c1Encode (block : List Byte) : List Bool := let info := bitsMsb block; info ++ c1Parity info

/-! ### Scrambler and 32/33 code (R186, R187) -/

/-- Output bits of the scrambler from a state (R186). -/
def scramble : Nat → BitVec 23 → List Bool
  | 0, _ => []
  | n + 1, s =>
    let fb := s.getLsbD 22 != s.getLsbD 17
    fb :: scramble n ((s <<< 1) ||| (if fb then 1#23 else 0#23))

/-- The 9,216 scrambler bits of a frame (R186). -/
def scrambler (cw dsn : Nat) : List Bool := scramble 9216 (BitVec.ofNat 23 (2 ^ 22 + cw % 2 ^ 13 * 2 ^ 9 + dsn % 2 ^ 9))

/-- XOR of two bit strings. -/
def xorBits (a b : List Bool) : List Bool := List.zipWith (fun x y => x != y) a b

/-- The longest run of 0 bits in a word (R187). -/
def longestZeros (l : List Bool) : Nat :=
  (l.foldl (fun (acc : Nat × Nat) b => if b then (acc.1, 0) else (max acc.1 (acc.2 + 1), acc.2 + 1)) (0, 0)).1

/-- 0xAAAA_AAAA from bit 31 down (R187). -/
def mask33 : List Bool := (List.range 32).map fun i => i % 2 == 0

/-- The 33 channel bits of a word of 32 bits (R187). -/
def code33 (w : List Bool) : List Bool := if longestZeros w ≤ 16 then true :: w else false :: xorBits w mask33

/-- A bit string word by word through the 32/33 code. -/
def code33All : Nat → List Bool → List Bool
  | 0, _ => []
  | n + 1, l => code33 (l.take 32) ++ code33All n (l.drop 32)

/-- The word that 33 channel bits hold (R187). -/
def decode33 (w : List Bool) : List Bool := match w with | f :: r => if f then r else xorBits r mask33 | [] => []

/-- The 9,648 channel bits of a frame (R182 to R187). -/
def frameBits (h : Header) (c1 : List Bool) : List Bool :=
  syncMark ++ natBits 96 (headerEncode (headerInfo h)).toNat ++ code33All 288 (xorBits c1 (scrambler h.cw h.dsn))

/-! ### C1 decoder (R204) -/

/-- State of a min-sum decode: running totals q by codeword bit, and messages r by 36·check + column block. -/
structure MinSum where
  q : Array Int
  r : Array Int
deriving DecidableEq, Repr

/-- Edges of check 256·i + r in ascending codeword-bit order: codeword bit and place of its message (R202, R204). -/
def c1Edges (i r : Nat) : List (Nat × Nat) :=
  (List.range 36).filterMap fun j => (c1Shift i j).map fun h => (256 * j + (r + h) % 256, 36 * (256 * i + r) + j)

/-- One check of R204. -/
def minSumCheck (alpha : Nat) (st : MinSum) (i r : Nat) : MinSum :=
  let es : List (Nat × Nat × Int) := (c1Edges i r).map fun (v, k) => (v, k, satN 10 (st.q.getD v 0 - st.r.getD k 0))
  let neg := es.foldl (fun b e => b != decide (e.2.2 < 0)) false
  let (m1, m2, e1) := es.foldl (fun (acc : Nat × Nat × Nat) (e : Nat × Nat × Int) =>
    let a := e.2.2.natAbs
    if a < acc.1 then (a, acc.1, e.2.1) else if a < acc.2.1 then (acc.1, a, acc.2.2) else acc) (1023, 1023, 9216 * 4)
  es.foldl (fun (st : MinSum) (e : Nat × Nat × Int) =>
    let m := if e.2.1 = e1 then m2 else m1
    let n : Int := min 127 (m * alpha / 16 : Nat)
    let n := if neg != decide (e.2.2 < 0) then -n else n
    { q := st.q.setIfInBounds e.1 (satN 10 (e.2.2 + n)), r := st.r.setIfInBounds e.2.1 n }) st

/-- One iteration: the four layers in order. -/
def minSumIter (alpha : Nat) (st : MinSum) : MinSum :=
  (List.range 1024).foldl (fun st c => minSumCheck alpha st (c / 256) (c % 256)) st

/-- Checks that the hard decisions leave unsatisfied (R204, R242). -/
def unsatisfied (q : Array Int) : Nat :=
  ((List.range 1024).filter fun c =>
    (c1Edges (c / 256) (c % 256)).foldl (fun b e => b != decide (q.getD e.1 0 < 0)) false).length

/-- No message yet. -/
def messages0 : Array Int := Array.replicate 36864 0

/-- Entry to an LDPC pass: q is the a-priori LLR plus the messages kept from earlier passes (R204). -/
def minSumEnter (llr : List Int) (r : Array Int) : MinSum :=
  let q0 : Array Int := llr.toArray
  let q := (List.range 1024).foldl (fun (q : Array Int) c =>
    (c1Edges (c / 256) (c % 256)).foldl (fun q e => q.setIfInBounds e.1 (q.getD e.1 0 + r.getD e.2 0)) q) q0
  { q := q.map (satN 10), r := r }

/-- Up to `n` iterations, ending at convergence: whether it converged, and the state. `stop2` ends the run unconverged
when more than that many checks are unsatisfied after the second iteration (R242). -/
def minSumRun (alpha : Nat) (stop2 : Option Nat) : Nat → Nat → MinSum → Bool × Bool × MinSum
  | 0, _, st => (false, false, st)
  | n + 1, k, st =>
    let st := minSumIter alpha st
    let u := unsatisfied st.q
    if u = 0 then (true, false, st)
    else match stop2 with
      | some lim => if k = 1 ∧ lim < u then (false, true, st) else minSumRun alpha stop2 n (k + 1) st
      | none => minSumRun alpha stop2 n (k + 1) st

/-- The information block that hard decisions spell (R185, R204). -/
def hardBlock (q : Array Int) : List Byte :=
  (List.range 1024).map fun b => BitVec.ofNat 8 (bitsNat ((List.range 8).map fun i => decide (q.getD (8 * b + i) 0 < 0)))

end Sys2Proof.Machine
end

