-- ==== Sys2Proof/Machine/Detect.lean ====
section
/-!
DEFINITION. The front end of one element channel, sample by sample: gain, offset and asymmetry (R235), equaliser and its
adaptation (R236), tentative detector (R237), timing recovery (R238), sync search (R240), trial order (R242); and the
detector of a decode engine with its soft exchange (R245 to R247).
-/

namespace Sys2Proof.Machine

/-! ### Samples (R235, R236, R238) -/

/-- h of one input sample under a zone entry (R235). -/
def gainStage (entry : List Byte) (x : Int) : Int :=
  let u := satN 10 (8 * x - (entry.getD 2 0).toInt)
  let g := satN 12 (rne (u * (fieldLe entry 0 2 : Int)) 12)
  satN 12 (g - rne ((entry.getD 3 0).toInt * g * g) 20)

/-- y from the accumulators and h, newest first (R236). -/
def equalise (acc hs : List Int) : Int := satN 12 (rne ((List.zipWith (fun a h => asr a 8 * h) acc hs).sum) 12)

/-- Accumulators at the presets of a target set (R236). -/
def presets (target : List Byte) : List Int := (List.range 16).map fun i => (target.getD (16 + i) 0).toInt * 2 ^ 14

/-- The taps of a target set. -/
def tapsOf (target : List Byte) : List Int := (List.range 5).map fun i => (target.getD i 0).toInt

/-- lag[μ][j] (R238): 2^14 times the cubic Lagrange weight of point j − 1 at μ/32, to the nearest integer. -/
def lagrange (m : Int) (j : Nat) : Int :=
  match j with
  | 0 => rneDiv (-(m * (m - 32) * (m - 64))) 12
  | 1 => rneDiv ((m + 32) * (m - 32) * (m - 64)) 4
  | 2 => rneDiv (-((m + 32) * m * (m - 64))) 4
  | _ => rneDiv ((m + 32) * m * (m - 32)) 12

/-- z at sample position `n` + μ/32 from the y samples, newest first, `count` taken (R238). -/
def interpolate (ys : List Int) (count n : Nat) (m : Int) : Int :=
  satN 12 (rne (((List.range 4).map fun j => lagrange m j * ys.getD (count - n - j) 0).sum) 14)

/-- Ideal sample of the newest five magnetisation bits, newest first (R245). -/
def idealOf (taps : List Int) (m : List Bool) : Int :=
  4 * (List.zipWith (fun t (b : Bool) => if b then t else -t) taps m).sum

/-- The magnetisation bits of a detector state, m_{k−1} in bit 0. -/
def stateMags (st : Nat) : List Bool := (List.range 4).map st.testBit

/-- Ideal sample of the step from a state on magnetisation `m`. -/
def idealStep (taps : List Int) (st : Nat) (m : Bool) : Int := idealOf taps (m :: stateMags st)

/-- The state after magnetisation `m`. -/
def nextState (st : Nat) (m : Bool) : Nat := (2 * st + b2n m) % 16

/-- The two states before state `st`. -/
def priorStates (st : Nat) : List Nat := [st / 2, st / 2 + 8]

/-- The tentative detector before its first instant. -/
def tentNew : Tentative := { metric := List.replicate 16 0, path := List.replicate 16 [] }

/-- Traceback depth of the tentative detector (R237). -/
def traceback : Nat := 24

/-- One step of the tentative detector with the decision it frees, once its traceback is full (R237). -/
def tentStep (taps : List Int) (z : Int) (v : Tentative) : Tentative × Option Bool :=
  let cost (st : Nat) (m : Bool) : Int := let e := z - idealStep taps st m; v.metric.getD st 0 + e * e
  let best : List (Int × List Bool) := (List.range 16).map fun st =>
    let m := st.testBit 0
    let a := cost (st / 2) m
    let b := cost (st / 2 + 8) m
    if a ≤ b then (a, m :: (v.path.getD (st / 2) []).take traceback) else (b, m :: (v.path.getD (st / 2 + 8) []).take traceback)
  let low := best.foldl (fun (a : Int) x => min a x.1) ((best.headD (0, [])).1)
  let top := (best.find? fun x => x.1 == low).map fun x => x.2
  ({ metric := best.map fun x => x.1 - low, path := best.map fun x => x.2 }, (top.getD [])[traceback]?)

/-! ### One front end -/

/-- What a front end works with: the registers as they stand, and the zone under the head with its entry and target
set. -/
structure FrontEnv where
  ctl    : Word
  sync   : Word
  timing : Word
  zone   : Nat
  entry  : List Byte
  target : List Byte
deriving DecidableEq, Repr

/-- Sums over no sample. -/
def noSums : RefSums := { frames := 0, n := 0, sumH := 0, sumAbs := 0, posN := 0, posSum := 0, negN := 0, negSum := 0 }

/-- A front end that starts with sample index `n`. -/
def frontNew (env : FrontEnv) (n : Nat) : FrontEnd :=
  { ctl := env.ctl, sync := env.sync, timing := env.timing, zone := env.zone, entry := env.entry, target := env.target
    acc := presets env.target, hs := [], ys := [], n := n, phi := (n + 1) * 2 ^ 24, step := 18454938, tent := tentNew
    insts := [], mags := [], idx := 0, last := none, pred := 0, row := 0, stage := 0, mark := none, adapt := false
    acqTo := 0, run := 0, los := false, track := none, sums := noSums }

/-- Instants whose magnetisation is decided. -/
def decided (f : FrontEnd) : Nat := f.idx - traceback

/-- Half-width W of the search window (R240). -/
def syncWin (f : FrontEnd) : Nat := bits f.ctl 24 6

/-- Decided channel bits from index `q` on. -/
def channelBits (f : FrontEnd) (q n : Nat) : List Bool :=
  let m := (slice f.mags (decided f - (q + n)) (n + 1)).reverse
  List.zipWith (fun a b => a != b) m (m.drop 1)

/-- Samples z of the instants from index `q` on. -/
def instantZ (f : FrontEnd) (q n : Nat) : List Int := ((slice f.insts (f.idx - (q + n)) n).map fun x => x.1).reverse

/-- Mismatches against the sync mark at index `q` (R240). -/
def markCount (f : FrontEnd) (q : Nat) : Nat := ((List.zipWith (fun a b => a != b) (channelBits f q 48) syncMark).filter id).length

/-- SYNC_MAXERR. -/
def syncMaxErr (f : FrontEnd) : Nat := bits f.ctl 16 3

/-- The header of a frame that begins at index `q`, where it passes R184. -/
def headerAt (f : FrontEnd) (wrap q : Nat) : Option (BitVec 64) :=
  match headerDecode (BitVec.ofNat 96 (bitsNat (channelBits f (q + 48) 96))) with
  | none => none
  | some (v, _) => if headerCounts (headerFields v) wrap then some v else none

/-- Timing and adaptation at the instant that has just been decided (R236, R238): `k` instants ago. -/
def follow (f : FrontEnd) : FrontEnd :=
  let taps := tapsOf f.target
  let z (i : Nat) : Int × Nat := f.insts.getD (traceback + i) (0, 0)
  let (zk, nk) := z 0
  let yk := idealOf taps (f.mags.take 5)
  let yk1 := idealOf taps ((f.mags.drop 1).take 5)
  let acq := decide (f.idx < f.acqTo)
  let kp := if acq then bits f.timing 0 5 else bits f.timing 16 5
  let ki := if acq then bits f.timing 8 5 else bits f.timing 24 5
  let t : Int := if f.mags.length < 2 then 0 else asr (zk * yk1 - (z 1).1 * yk) 8
  let step := f.step - asr t ki
  let e := zk - yk
  let mu := bits f.ctl 8 4
  let acc := if f.ctl.getLsbD 0 && f.adapt && !f.los then
    f.acc.zipIdx.map fun (a, i) => satN 24 (a - asr (e * f.hs.getD (f.n - 1 - nk + i) 0) mu) else f.acc
  { f with step := step, phi := ((f.phi : Int) + step - asr t kp).toNat, acc := acc }

/-- A search window opens (R240): the frame takes the registers, its zone entry and its target set (R231, R254). A target
set other than the frame's before sets the equaliser to its presets (R236). -/
def openFrame (env : FrontEnv) (f : FrontEnd) : FrontEnd :=
  { f with
    stage := 1, ctl := env.ctl, sync := env.sync, timing := env.timing, zone := env.zone, entry := env.entry, target := env.target
    acc := if (f.entry.getD 4 0).toNat % 16 = (env.entry.getD 4 0).toNat % 16 then f.acc else presets env.target }

/-- The window of a frame is closed and its mark searched for (R240): adaptation goes on over a frame that is not
coasted. -/
def closeWindow (f : FrontEnd) : FrontEnd :=
  let w := syncWin f
  let mark := (List.range' (f.pred - w) (2 * w)).find? fun q => decide (markCount f q ≤ syncMaxErr f)
  { f with stage := 2, mark := mark, adapt := mark.isSome }

/-- A front end with no frame behind it, or out of sync, decodes a header wherever its decisions offer one (R253). -/
def seekHeader (wrap : Nat) (f : FrontEnd) : Option (Nat × BitVec 64) :=
  if decided f < 145 then none
  else
    let q := decided f - 144
    if markCount f q ≤ syncMaxErr f then (headerAt f wrap q).map fun v => (q, v) else none

/-- What follows one decided instant: windows, and the search of a front end that has no frame to predict from, which
takes the frame it finds. The Bool says that a header decoded. -/
def frontPass (env : FrontEnv) (wrap : Nat) (free : Bool) (f : FrontEnd) : FrontEnd × Bool :=
  let seeks := (f.last.isNone && f.stage == 0) || f.los
  let hit := if seeks then seekHeader wrap f else none
  match hit with
  | some (q, v) =>
    if f.los && !free then (f, true)
    else if f.stage = 0 then ({ openFrame env f with stage := 2, pred := q, mark := some q, row := (headerFields v).row, adapt := true }, true)
    else (f, true)
  | none =>
    if f.stage = 0 ∧ f.last.isSome ∧ f.pred ≤ f.idx + bits env.ctl 24 6 then (openFrame env f, false)
    else if f.stage = 1 ∧ f.pred + syncWin f + 48 ≤ decided f then (closeWindow f, false)
    else (f, false)

/-- One bit instant (R238) with what it decides. -/
def frontInstant (env : FrontEnv) (wrap : Nat) (free : Bool) (f : FrontEnd) : FrontEnd × Bool :=
  let k := f.phi / 2 ^ 24
  let z := interpolate f.ys f.n k (f.phi / 2 ^ 19 % 32)
  let (tent, d) := tentStep (tapsOf f.target) z f.tent
  let f := { f with tent := tent, insts := (z, k) :: f.insts, idx := f.idx + 1 }
  match d with
  | none => ({ f with phi := ((f.phi : Int) + f.step).toNat }, false)
  | some m => frontPass env wrap free (follow { f with mags := m :: f.mags })

/-- The instants whose samples are there. -/
def frontInstants (env : FrontEnv) (wrap : Nat) (free : Bool) : Nat → FrontEnd → FrontEnd × Bool
  | 0, f => (f, false)
  | k + 1, f =>
    if f.phi / 2 ^ 24 + 3 ≤ f.n then
      let (f, a) := frontInstant env wrap free f
      let (f, b) := frontInstants env wrap free k f
      (f, a || b)
    else (f, false)

/-- h enters the sums of the frame under way (R233). -/
def addSum (h : Int) (v : RefSums) : RefSums :=
  let up := decide (256 < h)
  let down := decide (h < -256)
  { v with n := v.n + 1, sumH := v.sumH + h, sumAbs := v.sumAbs + h.natAbs
           posN := v.posN + b2n up, posSum := if up then v.posSum + h else v.posSum
           negN := v.negN + b2n down, negSum := if down then v.negSum - h else v.negSum }

/-- One sample enters the front end. `wrap` is the wrap whose direction headers carry; `free` says that frames are found
by search alone (R244). The Bool says that a header decoded. -/
def frontSample (env : FrontEnv) (wrap : Nat) (free : Bool) (x : Int) (f : FrontEnd) : FrontEnd × Bool :=
  let h := gainStage f.entry x
  let hs := (h :: f.hs).take 96
  let within := f.stage != 0 && decide (f.pred ≤ f.idx) && decide (f.idx < f.pred + 9648)
  frontInstants env wrap free 2
    { f with hs := hs, ys := (equalise f.acc hs :: f.ys).take 16, n := f.n + 1, sums := if within then addSum h f.sums else f.sums }

/-- Samples in their order. -/
def frontSamples (env : FrontEnv) (wrap : Nat) (free : Bool) (xs : List Int) (f : FrontEnd) : FrontEnd × Bool :=
  xs.foldl (fun (a : FrontEnd × Bool) x => let (f, b) := frontSample env wrap free x a.1; (f, a.2 || b)) (f, false)

/-! ### Frames (R239, R241, R242) -/

/-- A channel's vote at the end of a frame that began at `p`: at least 24 of the 32 groups of four bits behind it are
1000 (R239). -/
def separatorVote (f : FrontEnd) (p : Nat) : Bool :=
  let b := channelBits f (p + 9648) 128
  decide (24 ≤ ((List.range 32).filter fun i => slice b (4 * i) 4 == [true, false, false, false]).length)

/-- ALT_MAX (R242). -/
def altMax (f : FrontEnd) : Nat := bits f.sync 16 2

/-- The alignments of a frame in the order of R242: the found mark, or the prediction, and the alternatives. -/
def trialOrder (f : FrontEnd) : List Nat :=
  let first := f.mark.getD f.pred
  let dist (q : Nat) : Nat := max q f.pred - min q f.pred
  let near := ((List.range' (f.pred - 6) 13).filter fun q => q != first && q != f.pred).map fun q => (markCount f q, dist q, q)
  let before (a b : Nat × Nat × Nat) : Bool :=
    decide (a.1 < b.1) || (a.1 == b.1 && (decide (a.2.1 < b.2.1) || (a.2.1 == b.2.1 && decide (b.2.2 < a.2.2))))
  let alts := (if first = f.pred then [] else [f.pred]) ++ (sortBy before near).map fun x => x.2.2
  first :: alts.take (altMax f)

/-- The tests of R241 on a header of channel `e` in row `row`: `track` is what earlier nominal rows of the block carried,
`tuple` the block tuple (KIND, PARTITION, DSN). -/
def headerExpected (e row : Nat) (track : Option Nat) (tuple : Nat × Nat × Nat) (h : Header) : Bool :=
  h.elem == e % 128 && h.row == row && h.kind == tuple.1 && h.part == tuple.2.1
    && (if row < 8 then
          h.dsn == tuple.2.2 && h.cw / 992 == row && h.cw % 992 / 124 == e / 128
            && (match track with | none => true | some t => h.cw % 992 == t)
        else if h.cw = fillerCw then h.dsn == tuple.2.2
        else decide (h.cw < 7936) && h.dsn + h.lag == tuple.2.2)

/-- The magnetisations at the last header bit of a frame at `q` and before it, newest first: the tentative detector's at
the last header bit, and the header's channel bits back from there (R245). -/
def startMags (f : FrontEnd) (q : Nat) (v : BitVec 64) : List Bool :=
  let m := (f.mags[decided f - (q + 144)]?).getD false
  let b := (natBits 96 (headerEncode v).toNat).reverse
  let m1 := m != b.getD 0 false
  let m2 := m1 != b.getD 1 false
  [m, m1, m2, m2 != b.getD 2 false]

/-- One alignment with its header as an engine takes it. -/
def trialOf (f : FrontEnd) (q : Nat) (v : BitVec 64) (alt : Bool) : FrameTrial :=
  { at_ := q, header := v, alt := alt, start := startMags f q v, soft := instantZ f (q + 144) 9504 }

/-- The alignments of a frame whose header passes R184, in order. -/
def trialsOf (f : FrontEnd) (wrap : Nat) (only : Bool) : List FrameTrial :=
  let all := if only then (trialOrder f).take 1 else trialOrder f
  all.zipIdx.filterMap fun (q, i) => (headerAt f wrap q).map fun v => trialOf f q v (i != 0)

/-- The next frame begins at index `q` in row `row` (R239); what lies before the frame boundary `edge` is dropped. -/
def frontNext (f : FrontEnd) (q row edge : Nat) : FrontEnd :=
  let keep := f.idx + 96 - edge
  { f with pred := q, row := row, stage := 0, mark := none, insts := f.insts.take keep, mags := f.mags.take keep, sums := noSums }

/-! ### The detector of a decode engine (R245) -/

/-- Cost no path has. -/
def noPath : Int := 2 ^ 40

/-- Branch metric of the step from a state on channel bit `b` (R245); the halves truncate. -/
def branchCost (scale : Nat) (taps : List Int) (st : Nat) (b : Bool) (z la : Int) : Int :=
  let e := z - idealStep taps st (st.testBit 0 != b)
  rne ((scale : Int) * e * e) 12 - Int.tdiv (if b then -la else la) 2

/-- The least of some costs. -/
def leastOf (l : List Int) : Int := l.foldl min noPath

/-- Forward costs after one bit. -/
def forwardStep (scale : Nat) (taps : List Int) (a : List Int) (z la : Int) : List Int :=
  (List.range 16).map fun st => leastOf ((priorStates st).map fun p =>
    a.getD p noPath + branchCost scale taps p (st.testBit 0 != p.testBit 0) z la)

/-- Backward costs before one bit. -/
def backwardStep (scale : Nat) (taps : List Int) (z la : Int) (b : List Int) : List Int :=
  (List.range 16).map fun st => leastOf ([false, true].map fun x =>
    branchCost scale taps st x z la + b.getD (nextState st (st.testBit 0 != x)) noPath)

/-- APP LLR of one bit: positive when it favours 0. -/
def appLlr (scale : Nat) (taps : List Int) (a b : List Int) (z la : Int) : Int :=
  let best (x : Bool) : Int := leastOf ((List.range 16).map fun st =>
    a.getD st noPath + branchCost scale taps st x z la + b.getD (nextState st (st.testBit 0 != x)) noPath)
  satN 8 (best true - best false)

/-- One detector pass over a payload (R245): the extrinsic value of each bit. -/
def detectPass (scale : Nat) (taps : List Int) (start : List Bool) (z la : List Int) : List Int :=
  let s0 := b2n (start.getD 0 false) + 2 * b2n (start.getD 1 false) + 4 * b2n (start.getD 2 false) + 8 * b2n (start.getD 3 false)
  let io := List.zip z la
  let a0 : List Int := (List.range 16).map fun st => if st = s0 then 0 else noPath
  let fwd : List (List Int) := (io.foldl (fun (acc : List (List Int)) x => forwardStep scale taps (acc.headD a0) x.1 x.2 :: acc) [a0])
  let back : List (List Int) := io.foldr (fun x (acc : List (List Int)) =>
    backwardStep scale taps x.1 x.2 (acc.headD (List.replicate 16 0)) :: acc) [List.replicate 16 0]
  let ab := List.zip fwd.reverse (back.drop 1)
  List.zipWith (fun (x : Int × Int) (y : List Int × List Int) => satN 8 (appLlr scale taps y.1 y.2 x.1 x.2 - x.2)) io ab

/-! ### The soft exchange (R246) and the decode (R247) -/

/-- boxplus of R246. -/
def boxplus (a b : Int) : Int :=
  let m : Int := min a.natAbs b.natAbs
  if decide (a < 0) != decide (b < 0) then -m else m

/-- Extrinsic values of the payload as a-priori LLRs of the codeword, from the scrambler bits `fb` (R246). -/
def toLdpc (le : List Int) (fb : List Bool) : List Int :=
  let ea := le.toArray
  let fa := fb.toArray
  (List.range 9216).map fun n =>
    let lf := ea.getD (33 * (n / 32)) 0
    let lw := ea.getD (33 * (n / 32) + 1 + n % 32) 0
    let lc := if n % 2 = 0 then boxplus lw (-lf) else lw
    satN 8 (if fa.getD n false then -lc else lc)

/-- What an LDPC pass gives back to the detector (R246). -/
def fromLdpc (q : Array Int) (l le : List Int) (fb : List Bool) : List Int :=
  let la := l.toArray
  let ea := le.toArray
  let fa := fb.toArray
  (List.range 9504).map fun k =>
    if k % 33 = 0 then 0
    else
      let i := k % 33 - 1
      let n := 32 * (k / 33) + i
      let x := satN 8 (q.getD n 0 - la.getD n 0)
      let xc := if fa.getD n false then -x else x
      satN 8 (if i % 2 = 0 then boxplus xc (-(ea.getD (33 * (k / 33)) 0)) else xc)

/-- What an alignment comes to. -/
inductive TrialEnd
  | rejected
  | failed
  | converged (block : List Byte)
deriving DecidableEq, Repr

/-- The global iterations of an alignment (R247); `synd` is the limit of R242, which the first one applies. -/
def globalRuns (job : FrameJob) (t : FrameTrial) (fb : List Bool) : Nat → Option Nat → List Int → Array Int → TrialEnd
  | 0, _, _, _ => .failed
  | n + 1, synd, la, r =>
    let le := detectPass (job.entry.getD 5 0).toNat job.taps t.start t.soft la
    let l := toLdpc le fb
    match minSumRun (bits job.ecc 0 4) synd 8 0 (minSumEnter l r) with
    | (true, _, st) => .converged (hardBlock st.q)
    | (false, true, _) => .rejected
    | (false, false, st) => globalRuns job t fb n none (fromLdpc st.q l le fb) st.r

/-- The decode of one alignment. -/
def decodeTrial (job : FrameJob) (t : FrameTrial) : TrialEnd :=
  let h := headerFields t.header
  globalRuns job t (scrambler h.cw h.dsn) (if job.cut then 1 else 3) (some job.synd) (List.replicate 9504 0) messages0

/-- The first alignment that is not rejected wins (R242). -/
def decodeJob (job : FrameJob) : List FrameTrial → Option (FrameTrial × Option (List Byte))
  | [] => none
  | t :: r =>
    match decodeTrial job t with
    | .rejected => decodeJob job r
    | .failed => some (t, none)
    | .converged b => some (t, some b)

end Sys2Proof.Machine
end

