-- ==== Sys2Proof/Machine/Head.lean ====
section
/-!
DEFINITION. Head modules and Shroud lanes: head records (R320), training (R321, R322), head serial changes (R47, R48),
lane benching (R324), channel dies that are gated and woken (R24, R49), zone tables (R228 to R231), element channel
statistics (R221, R223).
-/

namespace Sys2Proof.Machine

/-! ### Element channels -/

/-- Verify statistics of a channel at reset. -/
def elemStatZero : ElemStat := { fails := 0, run := 0, window := [], degraded := false }

/-- Statistics of element channel `e`. -/
def elemOf (s : State) (e : Nat) : ElemStat := tabGet elemStatZero s.wr.elems e

/-- Set the statistics of element channel `e`. -/
def setElem (e : Nat) (v : ElemStat) (s : State) : State :=
  { s with wr := { s.wr with elems := tabSet elemStatZero s.wr.elems e v } }

/-- A channel starts its benching statistics anew (R225). -/
def elemFresh (e : Nat) (s : State) : State := setElem e { elemOf s e with run := 0, window := [] } s

/-- The element channels of module `m`. -/
def moduleElems (m : Nat) : List Nat := List.range' (128 * m) 128

/-- All units of module `m`: channels, lanes, servo readers (R47). -/
def moduleUnits (m : Nat) : List Nat :=
  moduleElems m ++ [1188 + 2 * m, 1189 + 2 * m, 1204 + 2 * m, 1205 + 2 * m]

/-! ### Zone tables (R228 to R231) -/

/-- Byte `k` of a zone entry that CALIBRATE ZONE has not measured (R232). -/
def zoneDefaultByte (k : Nat) : Byte := match k with | 1 => 0x10 | 5 => 64 | _ => 0

/-- Byte `k` of the head table. -/
def headByte (s : State) (k : Nat) : Byte := tabGet (zoneDefaultByte (k % 16)) s.rch.head k

/-- Head entry of channel `e` in zone `z`, 0 to 383 (R228). -/
def headEntry (s : State) (e z : Nat) : List Byte := (List.range 16).map fun i => headByte s (16 * (384 * e + z) + i)

/-- Medium delta entry of lane `e` in zone `z` (R229). -/
def deltaEntry (s : State) (e z : Nat) : List Byte :=
  (List.range 8).map fun i => tabGet 0 s.vol.delta (64 + 8 * (384 * e + z) + i)

/-- Effective entry of channel `e` in zone `z` (R230). -/
def effectiveEntry (s : State) (e z : Nat) : List Byte :=
  let h := headEntry s e z
  let d := deltaEntry s e z
  let b (l : List Byte) (i : Nat) : Byte := l.getD i 0
  if (b d 5).getLsbD 0 then
    let gain := clampInt 0 65535 ((fieldLe h 0 2 : Int) + (BitVec.ofNat 16 (fieldLe d 0 2)).toInt)
    let off := satN 8 ((b h 2).toInt + (b d 2).toInt)
    let asym := satN 8 ((b h 3).toInt + (b d 3).toInt)
    let tgt := if (b d 4).getLsbD 7 then BitVec.ofNat 8 ((b d 4).toNat % 16) else b h 4
    natLe 2 gain.toNat ++ [BitVec.ofInt 8 off, BitVec.ofInt 8 asym, tgt] ++ h.drop 5
  else h

/-- Working entry of channel `e` in zone `z`, 0 to 15, of the present wrap (R231). -/
def workingEntry (s : State) (e z : Nat) : List Byte :=
  match s.rch.working.find? fun p => p.1 == 16 * e + z with
  | some p => p.2
  | none => effectiveEntry s e (16 * s.sv.wrap + z)

/-- A working entry takes a value of its own. -/
def setWorking (e z : Nat) (v : List Byte) (s : State) : State :=
  { s with rch := { s.rch with working := (16 * e + z, v) :: s.rch.working.filter fun p => p.1 != 16 * e + z } }

/-- The working copies are loaded again from head table and delta (R231). -/
def reloadZones (s : State) : State := { s with rch := { s.rch with working := [], sums := [] } }

/-- A head entry is stored; the working copy keeps what it was loaded with (R231). -/
def setHeadEntry (e z : Nat) (v : List Byte) (s : State) : State :=
  let s := if z / 16 = s.sv.wrap then setWorking e (z % 16) (workingEntry s e (z % 16)) s else s
  (List.range 16).foldl (fun s i => { s with rch := { s.rch with
    head := tabSet (zoneDefaultByte i) s.rch.head (16 * (384 * e + z) + i) (v.getD i 0) } }) s

/-- Every head entry of module `m` takes the default values (R48, R232). -/
def zonesDefault (m : Nat) (s : State) : State :=
  { s with rch := { s.rch with head := s.rch.head.filter fun p => p.1 / (16 * 384 * 128) != m } }

/-! ### Head records (R320, R321) -/

/-- SERIAL of a head record. -/
def recordSerial (r : List Byte) : DWord := BitVec.ofNat 64 (fieldLe r 0 8)

/-- A record passes its CRC and has a SERIAL other than 0. -/
def recordOk (r : List Byte) : Bool :=
  decide (1044 ≤ r.length) && recordSerial r != 0 && fieldLe r 1040 4 == (crc32c (r.take 1040)).toNat

/-- The record of a module from the lanes that train: byte-identical on both, and valid. -/
def recordOf (recs : List (List Byte)) : Option (List Byte) :=
  match recs with
  | [] => none
  | r :: more => if recordOk r && more.all fun x => x == r then some (r.take 1044) else none

/-- LAT_OFF of a record: the wrap 0 target of the module (R279, R320). -/
def recordLatOff (r : List Byte) : Word := BitVec.ofNat 32 (fieldLe r 12 4)

/-- HEAD_MODULE event: module, then no answer, serial changed, lane benched (R360). -/
def headEvent (m bits_ : Nat) (s : State) : State := event 0 0 0x16 [BitVec.ofNat 64 (m + bits_)] s

/-- A servo reader reloads its loop and timing state (R47). -/
def readerReload (n : Nat) (s : State) : State := setServoRd n { servoRdDefault with miss := (servoRd s n).miss } s

/-- The serial of module `m` differs from the one that MRAM holds (R321, R47, R48): new serial and record stored, the
module's units through new epochs with their state reloaded, CAL_REQ, default zones, channels no longer degraded
(R223). -/
def serialChanged (m : Nat) (r : List Byte) (s : State) : State :=
  let s := setHead m { headOf s m with changed := true, stored := recordSerial r } s
  let s := { s with crew := { s.crew with changed := s.crew.changed ||| BitVec.ofNat 8 (2 ^ m) } }
  let s := zonesDefault m s
  let s := forEach (moduleElems m) (fun e s => setElem e { elemOf s e with run := 0, window := [], degraded := false } s) s
  let s := bumpEpochs (moduleUnits m) s
  let s := readerReload (2 * m) (readerReload (2 * m + 1) s)
  headEvent m 16 s

/-- The head record of module `m` as training found it (R321): a record that is not valid means no answer, and the
lanes are benched with CAUSE 5 (R324) while the module's channels and readers stay out of service, sleeping (R35). -/
def headFound (m : Nat) (rec_ : Option (List Byte)) (s : State) : State :=
  match rec_ with
  | none =>
    let fresh := !(headOf s m).noAnswer
    let s := setHead m { headOf s m with valid := false, noAnswer := true } s
    let lanes := [2 * m, 2 * m + 1].filter fun l => decide ((crewOf s (1188 + l)).st ≠ .benched)
    let s := setUnitsState (lanes.map fun l => 1188 + l) .benched 5 s
    let s := forEach lanes (fun l s => setLane l { laneOf s l with st := .down, phase := 0 } s) s
    let s := setUnitsState ((moduleElems m ++ [1204 + 2 * m, 1205 + 2 * m]).filter fun i =>
      decide ((crewOf s i).st = .active) || decide ((crewOf s i).st = .spare)) .sleeping 0 s
    if fresh then headEvent m (8 + (if lanes.isEmpty then 0 else 32)) s else s
  | some r =>
    let s := setHead m { headOf s m with valid := true, noAnswer := false, serial := recordSerial r, record := r } s
    if recordSerial r ≠ (headOf s m).stored then serialChanged m r s else s

/-! ### Lanes (R322 to R324) -/

/-- A lane begins to train (R322). -/
def laneTrain (l : Nat) (s : State) : State := setLane l { laneOf s l with st := .training, phase := 1 } s

/-- A lane comes UP (R322, R323): a new session, the lane active with a new epoch, its channels and reader with new
epochs; sleeping ones of a running die wake; its front ends start anew. -/
def laneUp (l : Nat) (s : State) : State :=
  let s := setLane l { laneOf s l with st := .up, phase := 4 } s
  let s := { s with rch := { s.rch with fronts := s.rch.fronts.filter fun x => x.1 / 64 != l } }
  let rest := (unitsOfLane l).filter fun i => i != 1188 + l && decide ((crewOf s i).st ≠ .benched)
  let wakes := rest.filter fun i => decide ((crewOf s i).st = .sleeping) && decide ((dieOf s (l / 4)).st = .running)
  unitsChange ((1188 + l, .active) :: wakes.map fun i => (i, (crewOf s i).slept)) 0
    (rest.filter fun i => !wakes.contains i) s

/-- A lane is benched with CAUSE 5 and not trained again (R324). -/
def laneBench (l : Nat) (s : State) : State :=
  let s := setLane l { laneOf s l with st := .down, phase := 0 } s
  headEvent (l / 2) 32 (setUnitState (1188 + l) .benched 5 s)

/-! ### Channel dies (R24, R49) -/

/-- The roster units of channel die `d`. -/
def dieUnits (d : Nat) : List Nat :=
  List.range' (256 * d) 256 ++ List.range' (1024 + 32 * d) 32 ++ List.range' (1188 + 4 * d) 4
    ++ List.range' (1204 + 4 * d) 4 ++ [1220 + d]

/-- The lanes of die `d` that are not benched. -/
def dieLanes (s : State) (d : Nat) : List Nat :=
  (List.range' (4 * d) 4).filter fun l => decide ((crewOf s (1188 + l)).st ≠ .benched)

/-- A die that is asked for starts, or latches the wake; a start trains its lanes (R49, R50). -/
def dieWake (d : Nat) (s : State) : State :=
  let u := dieOf s d
  let s := setDie d (unitEnable u) s
  match u.st with
  | .stopped => forEach (dieLanes s d) laneTrain s
  | _ => s

/-- Every channel die is RUNNING. -/
def diesRun (s : State) : Bool := (List.range 4).all fun d => decide ((dieOf s d).st = .running)

/-- A tape command needs the channel dies (R50): those that do not run are woken. -/
def wakeDies (s : State) : State := forEach (List.range 4) dieWake s

/-- Units of a gated die sleep (R24); its lanes are down and its readers idle. -/
def dieSleep (d : Nat) (s : State) : State :=
  let s := forEach (dieLanes s d) (fun l s => setLane l { laneOf s l with st := .down, phase := 0 } s) s
  let s := forEach (List.range' (4 * d) 4) readerReload s
  setUnitsState ((dieUnits d).filter fun i => decide ((crewOf s i).st = .active) || decide ((crewOf s i).st = .spare))
    .sleeping 0 s

/-- Sleeping units of a woken die return to what they were, with new epochs (R24, R47). A lane returns when it is UP. -/
def dieAwake (d : Nat) (s : State) : State :=
  let out (i : Nat) : Bool := decide (1188 ≤ i) && decide (i < 1204) && decide ((laneOf s (i - 1188)).st ≠ .up)
  let away (i : Nat) : Bool := (match laneOfUnit i with | none => false | some l => (headOf s (l / 2)).noAnswer)
  let wakes := (dieUnits d).filter fun i => decide ((crewOf s i).st = .sleeping) && !out i && !away i
  unitsChange (wakes.map fun i => (i, (crewOf s i).slept)) 0 [] s

end Sys2Proof.Machine
end

