-- ==== Sys2Proof/Machine/Modes.lean ====
section
/-!
DEFINITION. Resets, start-up and the pins that drive them (R19 to R42, R402 to R418), and the gating of channel dies
(R24, R49): the meanings of the first rows of the table.
-/

namespace Sys2Proof.Machine

/-! ### Device reset (R36, R37, R400) -/

/-- What every device reset leaves of the memories: MRAM units and the repair area (R34, R377). -/
def memReset (m : Mem) : Mem :=
  let mram (k : Nat) : Bool := decide (2 * 2 ^ 40 ≤ k)
  { Mem.reset with
    units := m.units.filter fun p => mram p.1
    injected := m.injected.filter mram
    remapped := m.remapped }

/-- The security block after a device reset: keys usable again unless END wiped them (R382), the patch store and the
fuses kept (R381). -/
def secReset (c : Sec) : Sec :=
  { Sec.reset with
    idKey := !c.wiped, xport := !c.wiped, chain := true, rollback := c.rollback, active := c.active, pend := c.pend
    calWrites := c.calWrites, wiped := c.wiped }

/-- The state in RESET after a cold reset (R36, R400): MRAM and fused contents, TB, pins and the cartridge are kept. -/
def coldState (s : State) : State :=
  { State.reset with
    tb := s.tb
    gl := { Global.reset with
      cart := s.gl.cart, moving := s.gl.moving, lcMram := s.gl.lcMram, lossCount := s.gl.lossCount, lossRec := s.gl.lossRec
      wipeDue := s.gl.wipeDue, locked := s.gl.locked }
    pins := { s.pins with outputs := false }
    crew := { State.reset.crew with stored := s.crew.stored, changed := s.crew.changed }
    par := { cur := [], stored := s.par.stored }
    wr := { Writer.reset with
      map := s.wr.map
      elems := (s.wr.elems.filter fun p => p.2.degraded).map fun p => (p.1, { elemStatZero with degraded := true }) }
    rch := { ReadCh.reset with head := s.rch.head }
    lk := { Shroud.reset with heads := s.lk.heads.map fun p => (p.1, { headDefault p.1 with stored := p.2.stored }) }
    mi := memReset s.mi
    se := secReset s.se
    logs := s.logs
    out := s.out
    fresh := s.fresh
    pending := s.pending }

/-- The state in RESET after a warm reset (R37): besides what a cold reset keeps, SR-IOV and MSI-X, the Trim engine, the
servo block, the Sheet Port, and the cause of the reset. -/
def warmState (cause : BitVec 3) (s : State) : State :=
  let c := coldState s
  { c with
    gl := { c.gl with resetCause := cause, liveSheet := s.gl.liveSheet, resetWait := s.gl.resetWait, lcPending := s.gl.lcPending }
    pins := s.pins
    hq := { c.hq with vfEnable := s.hq.vfEnable }
    sv := s.sv, ce := s.ce, sp := s.sp
    ic := { c.ic with msix := s.ic.msix, fmask := s.ic.fmask, pba := s.ic.pba } }

/-- Outputs stop and the device enters RESET as at a fall of PERST_N (R411, R413, R415, R417). A power loss during a
life-cycle change leaves the old state or the new one (R42). -/
def enterReset (s : State) : State :=
  match s.gl.lcPending with
  | none => coldState s
  | some tgt =>
    let (n, s) := openNat s
    if n % 2 = 0 then coldState s
    else coldState { s with gl := { s.gl with lcMram := tgt, wipeDue := true } }

/-! ### FILL (R33 to R35) -/

/-- PHASE 1: life-cycle state, roster and parameters are loaded from MRAM; a wipe that a power loss cut short is
finished (R42). -/
def fillBoot (s : State) : State :=
  let s := if s.gl.wipeDue then lcWipe s.gl.lcMram.toNat s else s
  let vals := s.par.stored.filterMap fun (k, v) => v.map fun x => (k, x)
  { s with
    gl := { s.gl with lc := s.gl.lcMram }
    crew := { s.crew with roster := s.crew.stored }
    par := { s.par with cur := vals.foldl (fun t (k, x) => tabSet (paramDefault (k / 64) (k % 64)) t k x) [] } }

/-- Registers that bring-up loads from MRAM head calibration and the head records (R279, R400). -/
def fillLoads (s : State) : State :=
  let s := loadLoops s
  let s := forEach (List.range 8) (fun m s =>
    if (headOf s m).valid then
      { s with sv := { s.sv with y0 := tabSet 0xFFEE0800#32 s.sv.y0 m (recordLatOff (headOf s m).record) } }
    else s) s
  let s := forEach (List.range 9) (fun b s =>
    match s.logs.store.find? fun p => p.1 == 0x20040 + 4 * b with
    | none => s
    | some p => { s with sv := { s.sv with azk := tabSet 0x0127F505#32 s.sv.azk b p.2 } }) s
  let s := match s.logs.store.find? fun p => p.1 == 0x20090 with
    | none => s
    | some p => { s with sv := { s.sv with reelK := p.2 } }
  let cal := s.logs.store.filter fun p => decide (0x28400 ≤ p.1) && decide (p.1 < 0x28700)
  let s := { s with sp := { s.sp with cal := cal.foldl (fun t (o, w) =>
    let i := (o - 0x28400) / 4
    tabSet (if i % 2 = 0 then 0 else 0x40000000#32) t i w) s.sp.cal } }
  if s.logs.held then
    { s with sp := { s.sp with nom := (List.range 60).foldl (fun t w => tabSet coefZero t w (calCoef s (0x28800 + 8 * w))) s.sp.nom } }
  else s

/-- PHASE 3: lanes trained and head records read, fresh epochs for the units that answer, Sheet Port links, entropy
(R33, R171, R321). -/
def fillLinks (warm : Bool) (env : BringUp) (s : State) : State :=
  let lanes := (List.range 16).filter fun l => decide ((crewOf s (1188 + l)).st ≠ .benched)
  let s := forEach lanes (fun l s => sessionAdvance l (laneTrain l s)) s
  let s := forEach (List.range 4) (fun d s => setDie d { st := .running, latch := none } s) s
  let s := forEach (env.heads.zipIdx) (fun (r, m) s =>
    let recs := (if lanes.contains (2 * m) then [r.1] else []) ++ (if lanes.contains (2 * m + 1) then [r.2] else [])
    if recs.isEmpty then s
    else
      let s := headFound m (recordOf recs) s
      if (headOf s m).valid then
        forEach (lanes.filter fun l => l / 2 == m) (fun l s => setLane l { laneOf s l with st := .up, phase := 4 } s) s
      else s) s
  let s := bumpEpochs ((List.range rosterSize).filter fun i => match laneOfUnit i with
    | none => true
    | some l => (headOf s (l / 2)).valid) s
  let s := { s with cy := { s.cy with seeded := env.entropyOk, health := !env.entropyOk } }
  let s := freshNonce s
  if warm then s
  else
    let s := fillLoads s
    let s := { s with sp := { s.sp with sync := env.sheetSync } }
    { s with gl := { s.gl with liveSheet := (List.range 24).any fun n => linkEnabled s n && !linkInSync s n } }

/-- FILL from PHASE 0 to IDLE: an entry to HOLD follows when a HOLD cause was latched or holds (R22). A life-cycle
change ends here. -/
def fillRun (warm : Bool) (env : BringUp) (s : State) : State :=
  let s := setMode .fill s
  let s := fillLinks warm env (patchCheck (fillBoot s))
  let s := { s with gl := { s.gl with phase := 4, resetWait := none, lcPending := none, wipeDue := false },
                    pins := { s.pins with outputs := true } }
  let s := setMode .idle s
  let latched := s.gl.latched ||| (liveBits s).setWidth 7
  let s := { s with gl := { s.gl with latched := latched } }
  senseFastAll (if latched = 0 then s else enterHold s)

/-! ### Meanings: reset, clock and supply -/

/-- PERST_N falls (R415, R36): a cold reset; nothing outstanding is completed. -/
def execPerstNFall (t : Time) (s : State) : Host.Outcome State Fault Refusal :=
  let s := advance t s
  if !s.pins.perstN then .next s
  else
    let s := enterReset s
    .next { s with
      pins := { s.pins with perstN := false, supply := false }
      gl := { s.gl with locked := false } }

/-- Every die is below a temperature in units of 1/16 °C. -/
def allBelow (temps : List (BitVec 16)) (v : Int) : Bool := temps.all fun x => decide (x.toInt < v)

/-- Some die is at or above a temperature in units of 1/16 °C. -/
def anyAtLeast (temps : List (BitVec 16)) (v : Int) : Bool := temps.any fun x => decide (v ≤ x.toInt)

/-- PERST_N rises (R33 step 1, R409, R417): the straps are sampled; a die at or above 110 °C keeps the device in
RESET with FAULT_N low. -/
def execPerstNRise (t : Time) (addrSel : BitVec 2) (temps : List (BitVec 16)) (s : State) :
    Host.Outcome State Fault Refusal :=
  let s := advance t s
  if s.pins.perstN then .next s
  else .next { s with pins := { s.pins with
    perstN := true, addrSel := addrSel, pllLost := false, temps := temps, hot := s.pins.hot && !allBelow temps 1760
    thermal := !allBelow temps 1760 } }

/-- The root PLL locks after PERST_N rose (R17, R33): TB restarts at 0 and FILL runs; `t` is the TB at which FILL ends.
-/
def execRootPllLock (t : Time) (env : BringUp) (s : State) : Host.Outcome State Fault Refusal :=
  if !s.pins.perstN || s.gl.locked || s.pins.pllLost || s.pins.supply || s.pins.thermal || decide (s.gl.cur ≠ .reset) then .next s
  else .next (fillRun false env { s with tb := t, gl := { s.gl with locked := true } })

/-- The root PLL loses lock after locking (R411): outputs stop, TB stops, RESET until PERST_N is cycled. -/
def execRefClkLoss (t : Time) (s : State) : Host.Outcome State Fault Refusal :=
  let s := advance t s
  if !s.gl.locked then .next s
  else
    let s := enterReset s
    .next { s with pins := { s.pins with pllLost := true }, gl := { s.gl with locked := false } }

/-- A rail falls below its lower tolerance (R413): as at a fall of PERST_N, with FAULT_N low. -/
def execSupplyMonitorTrip (t : Time) (s : State) : Host.Outcome State Fault Refusal :=
  let s := advance t s
  if !s.pins.perstN || s.pins.supply then .next s
  else
    let s := enterReset s
    .next { s with pins := { s.pins with supply := true }, gl := { s.gl with locked := false } }

/-- The 1 ms temperature update (R402, R417): FAULT_N from 115 °C until every die is below 110 °C; at 125 °C outputs
stop and the device enters RESET. -/
def execTempUpdate (t : Time) (temps : List (BitVec 16)) (s : State) : Host.Outcome State Fault Refusal :=
  let s := advance t s
  let hot := anyAtLeast temps 1840 || (s.pins.hot && !allBelow temps 1760)
  let s := { s with pins := { s.pins with temps := temps, hot := hot } }
  if anyAtLeast temps 2000 && s.pins.perstN && !s.pins.thermal then
    let s := enterReset s
    .next { s with pins := { s.pins with thermal := true } }
  else .next s

/-! ### Stop pins (R32, R336, R423) -/

/-- STOP_ARM with a DATA value goes out on every enabled link (R331). -/
def stopArm (data : Nat) (s : State) : State :=
  forEach ((List.range 24).filter (linkEnabled s)) (fun n s => emit (.packet n 4 (BitVec.ofNat 32 (2 + data * 256))) s) s

/-- The 64 B power-loss record (R423). -/
def lossBytes (r : LossRecord) : List Byte :=
  natLe 8 r.tbWarn.toNat ++ natLe 8 r.tbStored.toNat ++ natLe 4 r.lpos.toNat ++ [r.wrap, r.mode, r.flags, 0] ++ r.roster
    ++ natLe 4 r.count.toNat ++ List.replicate 4 0

/-- The power-loss record is stored in MRAM (R32, R423), `mode` and `open_` as they stood when PWR_WARN_N fell. -/
def storeLoss (mode : Nat) (open_ : Bool) (s : State) : State :=
  let n := s.gl.lossCount + 1
  let thr := s.gl.cart
  let r : LossRecord :=
    { tbWarn := s.tb, tbStored := s.tb, lpos := if thr then BitVec.ofNat 32 (lposNow s) else 0
      wrap := if thr then BitVec.ofNat 8 s.sv.wrap else 0xFF
      mode := BitVec.ofNat 8 mode
      flags := BitVec.ofNat 8 (b2n thr + 2 * b2n open_ + 4 * b2n s.gl.moving)
      roster := sha256 (rosterBytes s), count := n }
  { s with gl := { s.gl with lossCount := n, lossRec := some r } }

/-- A write session is open. -/
def anySession (s : State) : Bool := s.vol.parts.any fun p => p.2.session.isSome

/-- The filtered PWR_WARN_N falls (R32, R336): a HOLD cause, then roster and record in MRAM, then the stop words. In
RESET the pin is latched as R22 states, and nothing is stored or sent. -/
def execPwrWarnNFall (t : Time) (s : State) : Host.Outcome State Fault Refusal :=
  let s := advance t s
  if !s.pins.pwrWarnN then .next s
  else
    let mode := modeCode s.gl.cur
    let open_ := anySession s
    let s := { s with pins := { s.pins with pwrWarnN := false } }
    let s := senseFast 2 (holdCause 2 s)
    if s.gl.cur = .reset then .next s else .next (stopArm 1 (storeLoss mode open_ s))

/-- The filtered PWR_WARN_N returns high (R336): LIVE_PWRWARN falls; the actions of R32 stand. -/
def execPwrWarnNRise (t : Time) (s : State) : Host.Outcome State Fault Refusal :=
  let s := advance t s
  .next (senseFast 2 { s with pins := { s.pins with pwrWarnN := true } })

/-- The filtered HOLD_IN_N falls (R336): a HOLD cause. -/
def execHoldInNFall (t : Time) (s : State) : Host.Outcome State Fault Refusal :=
  let s := advance t s
  if !s.pins.holdInN then .next s
  else .next (senseFast 1 (holdCause 1 { s with pins := { s.pins with holdInN := false } }))

/-- The filtered HOLD_IN_N returns high (R336): LIVE_HOLDIN falls. -/
def execHoldInNRise (t : Time) (s : State) : Host.Outcome State Fault Refusal :=
  let s := advance t s
  .next (senseFast 1 { s with pins := { s.pins with holdInN := true } })

/-! ### Warm reset (R36 to R38, R403) -/

/-- A warm reset is requested (R37, R42, R403): one more while one waits has no effect, one made during a life-cycle
change waits for it; with the tape moving the device enters HOLD first. -/
def requestReset (cause : BitVec 3) (s : State) : State :=
  match s.gl.resetWait with
  | some w =>
    if s.gl.lcPending.isSome && w.again.isNone then { s with gl := { s.gl with resetWait := some { w with again := some cause } } }
    else s
  | none =>
    let s := { s with gl := { s.gl with resetWait := some { cause := cause, again := none }, resetCause := cause } }
    if s.gl.moving then senseFastAll (holdCause 6 s) else s

/-- BAR0 and the task registers respond: PHASE 1 of FILL has ended (R33, R398). -/
def barResponds (s : State) : Bool := decide (s.gl.cur ≠ .reset) && decide (s.gl.cur ≠ .fill)

/-- A write to GL_RESET stores CAUSE, 5 to 7 apart, and then acts on KEY (R402, R403). -/
def resetWrite (value : Word) (s : State) : State :=
  if !barResponds s || (s.gl.resetWait.isSome && s.gl.lcPending.isNone) then s
  else
    let s := if bits value 8 3 < 5 && s.gl.resetWait.isNone then
        { s with gl := { s.gl with resetCause := BitVec.ofNat 3 (bits value 8 3) } } else s
    if bits value 0 8 = 0x5A then requestReset 1 s else s

/-- A write to GL_RESET over BAR0. -/
def execWarmResetRequest (t : Time) (value : Word) (s : State) : Host.Outcome State Fault Refusal :=
  .next (resetWrite value (advance t s))

/-- ABORTED_RESET is posted for every outstanding command, in fetch order (R38); an ABORT that waits for its target ends
the same way, ahead of what R120 would give it. DEDUCED (log entry 12). -/
def abortAll (s : State) : State :=
  let s := { s with hq := { s.hq with
    inflight := s.hq.inflight.map fun c => if c.stage = .abortOwn then { c with stage := .abortWait } else c } }
  forEach (sortBy (fun a b => decide (a.order < b.order)) s.hq.inflight) (fun c s => failCmd c.ref 0x0006 s) s

/-- The warm reset runs (R36 to R38): ABORTED_RESET for every outstanding command, then the wipe through FILL; a
life-cycle change wipes its MRAM areas and takes effect (R41), an accepted JTAG unlock opens the port (R395), and a
request that waited follows (R42). -/
def execWarmResetStart (t : Time) (env : BringUp) (s : State) : Host.Outcome State Fault Refusal :=
  let s := advance t s
  match s.gl.resetWait with
  | none => .next s
  | some w =>
    if s.gl.moving then .next s
    else
      let s := setMode .reset (abortAll s)
      let s := warmState w.cause s
      let s := match s.gl.lcPending with
        | none => s
        | some tgt => lcWipe tgt.toNat { s with gl := { s.gl with lcMram := tgt } }
      let s := fillRun true env s
      let s := if w.cause = 4 then { s with se := { s.se with jtagOpen := true } } else s
      match w.again with
      | none => .next s
      | some c => .next (requestReset c s)

/-! ### Channel dies (R24, R49) -/

/-- The gate delay runs out in IDLE: the channel dies shut down (R24). -/
def execGateDelayExpiry (t : Time) (s : State) : Host.Outcome State Fault Refusal :=
  let s := advance t s
  if s.gl.cur = .idle ∧ s.crew.gateAt.isSome then
    let s := { s with crew := { s.crew with gateAt := none } }
    .next (forEach (List.range 4) (fun d s => setDie d (unitDisable (dieOf s d)) s) s)
  else .next s

/-- The shut-down of a die ends: its units sleep, and a latched wake starts (R24, R49). -/
def execDieShutdownDone (t : Time) (die : BitVec 2) (s : State) : Host.Outcome State Fault Refusal :=
  let s := advance t s
  let d := die.toNat
  match (dieOf s d).st with
  | .stopping =>
    let s := dieSleep d s
    let s := setDie d (unitDone (dieOf s d)) s
    match (dieOf s d).st with
    | .starting => .next (forEach (dieLanes s d) laneTrain s)
    | _ => .next s
  | _ => .next s

/-- The wake of a die ends: its units take new epochs and return to what they were; a latched shut-down begins (R24,
R47, R49). -/
def execDieWakeDone (t : Time) (die : BitVec 2) (s : State) : Host.Outcome State Fault Refusal :=
  let s := advance t s
  let d := die.toNat
  match (dieOf s d).st with
  | .starting => .next (reloadZones (dieAwake d (setDie d (unitDone (dieOf s d)) s)))
  | _ => .next s

end Sys2Proof.Machine
end

