-- ==== Sys2Proof/Machine/Reading.lean ====
section
/-!
DEFINITION. READ and VERIFY (R88, R89, R118, R151, R166 to R169, R421), ORDER_QUERY (R91), and how the tape queue looks
at positions (R114).
-/

namespace Sys2Proof.Machine

/-! ### Where a block is -/

/-- What stands for a block of a partition. -/
inductive BlockAt
  | unassigned
  | lost
  | pending
  | mark (value : Nat)
  | record (bytes : List Byte)
  | bad (format : Bool)
  | tape (dsn : Nat)
  | blank
deriving DecidableEq, Repr

/-- A block lies in one of some lost ranges. -/
def inRanges (l : List (Nat × Nat)) (b : Nat) : Bool := l.any fun r => decide (r.1 ≤ b) && decide (b < r.1 + r.2)

/-- The data set on tape in which block `b` begins (R192, R193). -/
def startSet (v : Part) (b : Nat) : Option Placed :=
  v.placed.find? fun d => d.kind == 0 && decide (d.first ≤ b) && decide (b < d.next) && !(d.first == b && d.contLen != 0)

/-- The data data set that follows data set `n` in the partition. -/
def nextData (v : Part) (n : Nat) : Option Placed :=
  (v.placed.filter fun d => d.kind == 0 && decide (n < d.dsn)).foldl
    (fun best d => match best with | none => some d | some b => if d.dsn < b.dsn then some d else some b) none

/-- Data set `n` of partition `p` in the read cache. -/
def cachedSet (s : State) (p n : Nat) : Option Cached := s.rdr.cache.find? fun c => c.part == p && c.dsn == n

/-- Bytes that are all known. -/
def allKnown : List (Option Byte) → Option (List Byte)
  | [] => some []
  | none :: _ => none
  | some b :: r => (allKnown r).map (b :: ·)

/-- `n` stream bytes from offset `o` of the payload of data set `d`, going on into the data sets that continue the
element; on the right the data set that is not in the cache, if one is missing. -/
def streamFrom (s : State) (p : Nat) (v : Part) : Nat → Nat → Nat → Nat → List (Option Byte) × Option Nat
  | 0, _, _, _ => ([none], none)
  | fuel + 1, d, o, n =>
    match cachedSet s p d with
    | none => ([], some d)
    | some c =>
      match allKnown (c.payload.take 64) with
      | none => ([none], none)
      | some dir =>
        let have_ := slice c.payload o (min n (64 + (directoryOf dir).stream - o))
        if have_.length = n then (have_, none)
        else match nextData v d with
          | none => (have_ ++ [none], none)
          | some e =>
            let (more, missing) := streamFrom s p v fuel e.dsn 64 (n - have_.length)
            (have_ ++ more, missing)

/-- The element of a record that begins at offset `o` of data set `d`. -/
def elementAt (s : State) (p : Nat) (v : Part) (d o : Nat) : BlockAt :=
  match streamFrom s p v 64 d o 32 with
  | (_, some m) => .tape m
  | (l, none) =>
    match allKnown l with
    | none => .bad false
    | some h =>
      if !headerOk h then .bad true
      else match streamFrom s p v 64 d o (hdrElement h) with
        | (_, some m) => .tape m
        | (l, none) => (match allKnown l with | none => .bad false | some bytes => .record bytes)

/-- What the record index of data set `d`, in the cache, says of block `b` (R193). -/
def indexAt (s : State) (p : Nat) (v : Part) (d : Nat) (c : Cached) (b : Nat) : BlockAt :=
  match allKnown (c.payload.take 64) with
  | none => .bad false
  | some dir =>
    let n := (directoryOf dir).entries
    let index := c.payload.drop (payloadBytes - 16 * n)
    let at_ (k : Nat) : Option IndexEntry := (allKnown (slice index (16 * k) 16)).map entryOf
    match (List.range n).findSome? fun k => match at_ k with | some e => if e.block = b ∧ e.type < 2 then some e else none | none => none with
    | none => .bad false
    | some e =>
      if e.lost then .lost
      else if e.type = 1 then .mark e.value
      else elementAt s p v d e.offset

/-- Where block `b` of partition `p` is (R88, R118). -/
def blockAt (s : State) (p b : Nat) : BlockAt :=
  let v := partOf s p
  if v.next ≤ b then .unassigned
  else if inRanges v.gone b || inRanges v.carried b then .lost
  else match v.elems.find? fun e => e.block == b with
    | some e =>
      (match e.kind with
       | .void => .lost
       | .mark x => .mark x.toNat
       | .record => if e.lost then .lost else if e.done then .record e.bytes else .pending)
    | none =>
      match startSet v b with
      | none => .blank
      | some d =>
        match cachedSet s p d.dsn with
        | none => .tape d.dsn
        | some c => indexAt s p v d.dsn c b

/-! ### READ and VERIFY -/

/-- The command is a VERIFY. -/
def isVerify (c : InFlight) : Bool := eOpcode c.entry == 3

/-- VERIFY to the end of data (R89). -/
def toEod (c : InFlight) : Bool := isVerify c && (eOpt c.entry).testBit 0

/-- Every block asked for has been passed. -/
def readDone (c : InFlight) : Bool := !toEod c && decide (eCount c.entry ≤ c.first - eBlock c.entry)

/-- The output area of a READ. -/
def outPieces (c : InFlight) : List (DWord × Nat) := (dataPieces c.entry c.segs).getD []

/-- One entry of the length list is written (R88): none without a list. -/
def lengthEntry (c : InFlight) (n : Nat) (s : State) : State :=
  let a := eField c.entry 40 8
  if isVerify c || a == 0 then s
  else emit (.hostWrite c.ref.fn (BitVec.ofNat 64 (a + 4 * (c.first - eBlock c.entry))) (natLe 4 n)) s

/-- READ or VERIFY completes (R88, R89); `mark` is MARK_VALUE. -/
def readEnds (c : InFlight) (status mark : Nat) (s : State) : State :=
  if isVerify c then complete c.ref status c.first (c.count % 2 ^ 32) false s
  else complete c.ref status c.bytes (c.count % 65536 + mark * 65536) false s

/-- The record under way cannot be delivered (R88, R166 to R168, R421): an encrypted record leaves a length entry of 0,
and zeros where it was released as it streamed; the bytes of any other failing record are undefined (R152). -/
def readStops (c : InFlight) (status : Nat) (s : State) : State :=
  let h := c.recs.headD []
  let area := outPieces c
  let s :=
    if isVerify c then s
    else if hdrEncrypted h then
      let s := lengthEntry c 0 s
      if 16777216 < hdrLen h then writeArea c.ref.fn area c.bytes (List.replicate (hdrLen h) 0) s else s
    else undefineArea c.ref.fn area c.bytes (hdrLen h) s
  readEnds c status 0 s

/-- The data set in which a delivered block begins has been used (R257, R267). -/
def cacheUse (p b : Nat) (s : State) : State :=
  match startSet (partOf s p) b with
  | none => s
  | some d => { s with rdr := { s.rdr with cache := s.rdr.cache.map fun x =>
      if x.part = p ∧ x.dsn = d.dsn then { x with used := s.tb.toNat, given := true } else x } }

/-- The record under way is whole (R88): its bytes and length go to the host, unless the command is a VERIFY. -/
def readDelivers (c : InFlight) (plain : List Byte) (s : State) : State :=
  let s := if isVerify c then s else lengthEntry c plain.length (writeArea c.ref.fn (outPieces c) c.bytes plain s)
  let h := c.recs.headD []
  let s := { s with
    eng := { s.eng with frames := s.eng.frames.filter fun x => x.1 != c.ref }
    sm := { s.sm with consumed := (s.tb.toNat, hdrElement h) :: s.sm.consumed.filter fun x => decide (s.tb.toNat < x.1 + 1600000000) } }
  setCmd { c with first := c.first + 1, count := c.count + 1, bytes := c.bytes + plain.length, body := none, recs := [] }
    (cacheUse (ePart c.entry) c.first s)

/-- A record's body cut into its runs `fs`: raw runs as they stand and decompressed runs as the engines left them give its
plain bytes; runs that no engine has decompressed yet wait for one (R88, R147). -/
def readRuns (c : InFlight) (fs : List (List Byte)) (s : State) : Bool × State :=
  let h := c.recs.headD []
  let tape := decide (c.stage = .chosen)
  let bad := if tape then 0x0204 else 0x0301
  let all := fs.zipIdx
  let plains := all.map fun (fr, k) =>
    if frameRaw fr then framePlain (hdrCompressed h) (hdrLen h) k fr
    else (s.eng.frames.find? fun x => x.1 == c.ref && x.2.1 == c.count && x.2.2.1 == k).map fun x => x.2.2.2
  if all.any (fun (fr, k) => frameRaw fr && (framePlain (hdrCompressed h) (hdrLen h) k fr).isNone) then (false, readStops c bad s)
  else if plains.all Option.isSome then (true, readDelivers c (plains.flatMap fun x => x.getD []) s)
  else if s.eng.waiting.any (fun r => r.ref == c.ref) || s.eng.busy.any (fun b => b.2.ref == c.ref && b.2.live) then (false, s)
  else
    let runs := (all.filter fun (fr, _) => !frameRaw fr).map fun (fr, k) =>
      ({ ref := c.ref, order := c.order, recNo := c.count, run := k, decomp := true, input := fr, tape := tape, epoch := 0,
         tried := [], live := true } : Run)
    (false, { s with eng := { s.eng with waiting := s.eng.waiting ++ runs } })

/-- The runs of the body in the clear: raw runs are checked on the delivery path, the others on engines (R147, R151,
R152). The Bool says whether the command can go on at once. -/
def readBody (c : InFlight) (body : List Byte) (s : State) : Bool × State :=
  let h := c.recs.headD []
  let runs := cutRuns (runCount (hdrLen h)) (hdrLen h) body
  if runs.isSome then readRuns c (runs.getD []) s
  else (false, readStops c (if decide (c.stage = .chosen) then 0x0204 else 0x0301) s)

/-- A record's element has been found: does it fit, must it be opened, or is its body in the clear (R88, R89, R162,
R169). -/
def readRecord (c : InFlight) (bytes : List Byte) (s : State) : Bool × State :=
  let h := bytes.take 32
  let len := hdrLen h
  let noKey := eKey c.entry == 65535
  let c := { c with recs := [h] }
  if !headerOk h then (false, readStops c (if c.stage = .chosen then 0x0204 else 0x0301) s)
  else if isVerify c && noKey then
    (true, setCmd { c with first := c.first + 1, count := c.count + 1, recs := [] } s)
  else if !isVerify c && decide (piecesLen (outPieces c) < c.bytes + len) then
    (false, readEnds c 0x0104 0 (lengthEntry c len s))
  else if hdrEncrypted h then
    if noKey then (false, readStops c 0x0401 s)
    else
      let n := hdrBody h
      let w : CipherRec :=
        { ref := c.ref, part := ePart c.entry, block := c.first, sealing := false, header := h, body := slice bytes 32 n,
          tag := bytes.drop (32 + n), slot := deviceSlot s c.ref.fn (eKey c.entry), key := [], epoch := 0, first := none }
      (false, setCmd { c with busy := true } { s with cy := { s.cy with waiting := s.cy.waiting ++ [w] } })
  else (true, setCmd { c with body := some (bytes.drop 32) } s)

/-- A READ or VERIFY needs tape for its next block: HOLD refuses it (R25), and otherwise it joins the tape queue. -/
def readNeedsTape (c : InFlight) (s : State) : State :=
  if s.gl.cur = .hold then readEnds c 0x0007 0 s
  else if c.stage = .chosen ∨ c.stage = .queued then s
  else setCmd { c with stage := .queued, mark := s.tb } s

/-- One step of a READ or VERIFY; the Bool says whether it can go on at once. -/
def readOnce (c : InFlight) (s : State) : Bool × State :=
  match c.stop with
  | some st => (false, readStops c st s)
  | none =>
    if c.busy then (false, s)
    else match c.body with
      | some body => readBody c body s
      | none =>
        if readDone c then (false, readEnds c 0 0 s)
        else match blockAt s (ePart c.entry) c.first with
          | .unassigned => (false, readEnds c (if toEod c then 0 else 0x0202) 0 s)
          | .lost => (false, readEnds c 0x0203 0 s)
          | .pending => (false, s)
          | .mark v =>
            if isVerify c then (true, setCmd { c with first := c.first + 1 } s)
            else (false, readEnds c 0x0208 v (lengthEntry c 0 s))
          | .record bytes => readRecord c bytes s
          | .bad format => (false, readEnds c (if format && decide (c.stage ≠ .chosen) then 0x0301 else 0x0204) 0 s)
          | .tape _ => (false, readNeedsTape c s)
          | .blank => (false, readEnds c 0x0201 0 s)

/-- A READ or VERIFY goes on as far as it can. -/
def readRun (r : CmdRef) : Nat → State → State
  | 0, s => s
  | n + 1, s =>
    match findCmd s r with
    | none => s
    | some c =>
      let (more, s) := readOnce c s
      if more then readRun r n s else s

/-- A READ or VERIFY of an opcode that is fetched and may go on. -/
def readCmd (op : Nat) (r : CmdRef) (s : State) : Option InFlight :=
  match findCmd s r with
  | none => none
  | some c =>
    if eOpcode c.entry = op ∧ (c.stage = .ready ∨ c.stage = .queued ∨ c.stage = .chosen) then some c else none

/-- Steps that one invocation of a READ or VERIFY can take at most. -/
def readFuel (s : State) (c : InFlight) : Nat := 2 * min (eCount c.entry) ((partOf s (ePart c.entry)).next - c.first) + 4

/-- The mode once no tape command is left and no write data needs the tape (R21). -/
def tapeRest (s : State) : State :=
  let busy := s.hq.inflight.any fun c => decide (c.stage = .chosen) || decide (c.stage = .queued) || isLongErase c
    || (decide (c.stage = .running) && [0x08, 0x20, 0x21, 0x22, 0x23, 0x24, 0x25].contains (eOpcode c.entry))
  let work := s.wr.part.isSome || s.vol.parts.any fun x => needsTape s x.1 x.2
  let telltale := decide (s.tt.unit.st ≠ .stopped)
  if busy || work || (telltale && decide (s.gl.cur = .service)) then s
  else if [Mode.thread, .calibrate, .locate, .write, .read, .verify, .erase, .service].contains s.gl.cur then setMode .idle s
  else s

/-- B_r of R267: decoded data sets in the read cache that no READ has had a record of. -/
def readBacklog (s : State) : Nat := (s.rdr.cache.filter fun c => c.kind == 0 && !c.given).length

/-- The tape that READs stopped starts again below half of RD_AHEAD (R267). -/
def readAheadGo (s : State) : State :=
  if s.sm.readStop && decide (2 * readBacklog s < bits s.sm.resume 16 12) then { s with sm := { s.sm with readStop := false } } else s

/-- READ (R88). -/
def execRead (t : Time) (ref : CmdRef) (segs : List SgSeg) (s : State) : Host.Outcome State Fault Refusal :=
  let s := advance t s
  match readCmd 0x02 ref s with
  | none => .next s
  | some c =>
    let c := if c.segs.isEmpty then { c with segs := segs } else c
    match dataPieces c.entry c.segs with
    | none => .next (failCmd ref 0x0002 s)
    | some _ => .next (readAheadGo (tapeRest (tidy (readRun ref (readFuel s c) (setCmd c s)))))

/-- VERIFY (R89). -/
def execVerify (t : Time) (ref : CmdRef) (s : State) : Host.Outcome State Fault Refusal :=
  let s := advance t s
  match readCmd 0x03 ref s with
  | none => .next s
  | some c => .next (readAheadGo (tapeRest (tidy (readRun ref (2 * ((partOf s (ePart c.entry)).next - c.first) + 4) s))))

/-! ### Tape-path order (R91, R114) -/

/-- Place in tape-path order of a position, seen from the head: positions ahead of the head first, in path order, and
then those behind it. DEDUCED (log entry 36). -/
def pathKey (s : State) (x : Nat) : Nat :=
  let h := headPath s
  if h ≤ x then x - h else 24 * wrapLen + x

/-- Path position of a block that is known: on tape, and in no buffer (R91). -/
def blockPath (s : State) (f : Fn) (p b : Nat) : Option Nat :=
  let v := partOf s p
  if !(param s 9 f.toNat).testBit p || decide (partCount s ≤ p) || !s.vol.loaded then none
  else if decide (v.next ≤ b) || v.elems.any (fun e => e.block == b) then none
  else (startSet v b).map fun d => d.at_

/-- ORDER_QUERY (R91): indices of the list in the order of reading, those with no known position last, in input order. -/
def execOrderQuery (t : Time) (ref : CmdRef) (segs : List SgSeg) (list : List (Byte × BitVec 56 × DWord)) (s : State) :
    Host.Outcome State Fault Refusal :=
  let s := advance t s
  match readyCmd 0x07 ref s with
  | none => .next s
  | some c =>
    match dataIs c segs (16 * eField c.entry 24 2) with
    | none => .next (failCmd ref 0x0002 s)
    | some _ =>
      let all := list.zipIdx.map fun (x, i) => (i, x.2.2.toNat, blockPath s ref.fn (x.1.toNat % 64) x.2.2.toNat)
      let known := all.filterMap fun (i, b, q) => q.map fun y => (pathKey s y, b, i)
      let known := sortBy (fun (a b : Nat × Nat × Nat) => decide (a.1 < b.1) || (a.1 == b.1 && decide (a.2.1 < b.2.1))) known
      let order := known.map (fun x => x.2.2) ++ (all.filter fun x => x.2.2.isNone).map fun x => x.1
      let s := emit (.hostWrite ref.fn (BitVec.ofNat 64 (eField c.entry 32 8)) (order.flatMap (natLe 2))) s
      .next (tidy (complete ref 0 known.length 0 false s))

end Sys2Proof.Machine
end

