-- ==== Sys2Proof/Machine/Pace.lean ====
section
/-!
DEFINITION. Buffer and speed matching (R259 to R268): demand, reef point and trim, underrun and resume, reading ahead.
-/

namespace Sys2Proof.Machine

/-! ### Speed -/

/-- Rewrite rows and rows of the last 256 blocks written; 1 in 100 before any block (R260). -/
def rewriteShare (s : State) : Nat × Nat :=
  if s.wr.rows256.isEmpty then (1, 100) else ((s.wr.rows256.map fun x => x.1).sum, (s.wr.rows256.map fun x => x.2).sum)

/-- Reef point `k` carries the demand `d`, in units of 2^-20 B/s, of a partition with span parity `p`: 1.02·C·v_k ≥ D
(R260, R261), both sides multiplied out. -/
def reefCarries (s : State) (d p k : Nat) : Bool :=
  let (rw, all) := rewriteShare s
  decide (d * 100 * 315136 * (32 + p) * all * 100 ≤ 102 * 7340032 * 10 ^ 8 * 32 * (all - rw) * (160 + 32 * k) * 2 ^ 20)

/-- REEF_MAX (R95). -/
def reefMax (s : State) : Nat := param s 10 0

/-- k₀ of R261: the smallest reef point up to REEF_MAX that carries the demand, and REEF_MAX when none does. -/
def reefFor (s : State) (d p : Nat) : Nat :=
  ((List.range (reefMax s + 1)).find? (reefCarries s d p)).getD (reefMax s)

/-- Demand D of a partition, in units of 2^-20 B/s (R260). -/
def demandOf (s : State) (p : Nat) : Nat := tabGet 0 s.sm.demand p

/-- The rate at which the host has been consuming over the last second, in units of 2^-20 B/s (R267). -/
def consumption (s : State) : Nat :=
  ((s.sm.consumed.filter fun x => decide (s.tb.toNat < x.1 + 1600000000)).map fun x => x.2).sum * 2 ^ 20

/-- Backlog for full trim (FM_SM_CTL.BAND). -/
def smBand (s : State) : Int := bits s.sm.ctl 16 8

/-- Backlog at zero trim (FM_SM_CTL.TARGET). -/
def smTarget (s : State) : Int := bits s.sm.ctl 0 12

/-- Trim in ppm for a backlog (R262). -/
def trimFor (s : State) (b : Int) : Int := clampInt (-20000) 20000 (20000 * (b - smTarget s) / smBand s)

/-- Speed set-point in units of 10^-8 m/s: v_k·(1 + trim·10^-6) (R262). -/
def speedSet (s : State) : Nat := ((160 + 32 * (s.sm.reef : Int)) * (1000000 + s.sm.trim)).toNat

/-- A reef step begins (R263): its ramp runs, and FM_SM_COUNT.STEPS counts it. -/
def reefStep (k : Nat) (s : State) : State :=
  { s with sm := { s.sm with
    reef := k, ramp := true, count := putBits s.sm.count 16 16 (min 65535 (bits s.sm.count 16 16 + 1)) } }

/-- Trim and reef step at the dispatch point of a block's row 0 (R262, R263); `up` and `down` are the thresholds' sides. -/
def paceWrite (b : Int) (s : State) : State :=
  let s := { s with sm := { s.sm with trim := trimFor s b, readSide := false } }
  if s.sm.ramp then s
  else if reefMax s < s.sm.reef then reefStep (s.sm.reef - 1) s
  else if smTarget s + 2 * smBand s ≤ b ∧ s.sm.reef < reefMax s then reefStep (s.sm.reef + 1) s
  else if b ≤ smTarget s - 2 * smBand s ∧ 0 < s.sm.reef then reefStep (s.sm.reef - 1) s
  else s

/-- Trim and reef step while a path of reads streams, at each data set that enters the read cache (R267). -/
def paceRead (s : State) : State :=
  let b : Int := readBacklog s
  let s := { s with sm := { s.sm with trim := -(trimFor s b), readSide := true } }
  if s.sm.ramp then s
  else if reefMax s < s.sm.reef then reefStep (s.sm.reef - 1) s
  else if b ≤ smTarget s - 2 * smBand s ∧ s.sm.reef < reefMax s then reefStep (s.sm.reef + 1) s
  else if smTarget s + 2 * smBand s ≤ b ∧ 0 < s.sm.reef then reefStep (s.sm.reef - 1) s
  else s

/-- Reading begins on a path (R267): its starting reef point. -/
def readBegins (s : State) : State :=
  { s with sm := { s.sm with reef := reefFor s (consumption s) (spanParity s), readSide := true, readStop := false } }

/-! ### Underrun (R265) -/

/-- An underrun: the burst has ended, the resume reef point is fixed by the demand of this instant, and a backhitch
begins (R265). -/
def underrun (p : Nat) (s : State) : State :=
  let k := reefFor s (demandOf s p) (parityOf s (partOf s p))
  { s with sm := { s.sm with
    hitch := .stopping, laneStop := false, resumeK := k, count := putBits s.sm.count 0 16 (min 65535 (bits s.sm.count 0 16 + 1)) } }

/-- Every lane is up. -/
def lanesUp (s : State) : Bool := (List.range 16).all fun l => decide ((laneOf s l).st = .up)

/-- The partition being written can resume (R266): no lane is down, and, after an underrun, the backlog or a close point
asks for it; after the loss of a lane nothing more is waited for (R325). -/
def mayResume (s : State) (p : Nat) : Bool :=
  let v := partOf s p
  lanesUp s && (s.sm.laneStop || decide (bits s.sm.resume 0 12 ≤ backlog v) || closePending v || finishDue v || !s.wr.again.isEmpty || !s.wr.images.isEmpty)

/-! ### Meanings -/

/-- The waiting tape begins its forward leg (R265, R266). -/
def execTapeResume (t : Time) (s : State) : Host.Outcome State Fault Refusal :=
  let s := advance t s
  match s.sm.hitch, s.wr.part with
  | .waiting, some p =>
    if mayResume s p then .next { s with sm := { s.sm with hitch := .none, laneStop := false, reef := s.sm.resumeK } } else .next s
  | _, _ => .next s

/-- The read backlog reaches RD_AHEAD: the tape stops and backs up to the first data set not yet read (R267). -/
def execReadAheadStop (t : Time) (s : State) : Host.Outcome State Fault Refusal :=
  let s := advance t s
  if (s.gl.cur = .read ∨ s.gl.cur = .verify) ∧ bits s.sm.resume 16 12 ≤ readBacklog s then
    .next { s with sm := { s.sm with readStop := true } }
  else .next s

/-- The 1 ms update of the demand of every partition: D + (r − D)/1000 (R260). -/
def execDemandUpdate (t : Time) (s : State) : Host.Outcome State Fault Refusal :=
  let s := advance t s
  if !fetching s || !s.vol.loaded then .next s
  else .next (forEach s.vol.parts (fun x s =>
    let u : Int := packableBytes x.2
    let r : Int := max 0 (u - tabGet 0 s.sm.inMs x.1)
    let d : Int := demandOf s x.1
    let d' := d + (r * 1000 * 2 ^ 20 - d) / 1000
    { s with sm := { s.sm with demand := tabSet 0 s.sm.demand x.1 d'.toNat, inMs := tabSet 0 s.sm.inMs x.1 u } }) s)

/-- A reef ramp ends (R263): the next dispatch point may step again. -/
def execReefRampDone (t : Time) (s : State) : Host.Outcome State Fault Refusal :=
  let s := advance t s
  .next { s with sm := { s.sm with ramp := false } }

end Sys2Proof.Machine
end

