-- ==== Sys2Proof/Machine/Recover.lean ====
section
/-!
DEFINITION. Recovery of a data set that is read (R208 to R211): C2 over the codewords of its passes, re-reads, C3 over its
span, and the read cache.
-/

namespace Sys2Proof.Machine

/-! ### C2 (R208) -/

/-- One group of a data set after C2: its 224 data members byte by byte, none where unknown, whether anything was erased or
corrected, and the codewords that failed. -/
structure GroupEnd where
  data   : List (List (Option Byte))
  worked : Bool
  failed : Nat
deriving DecidableEq, Repr

/-- Turns rows into columns: `n` columns of a list of rows. -/
def columns {α : Type} : Nat → List (List α) → List (List α)
  | 0, _ => []
  | n + 1, rows => rows.filterMap List.head? :: columns n (rows.map List.tail)

/-- C2 over one group (R208): the members that have a codeword, and the limit on errors. -/
def groupDecode (emax : Nat) (members : List (Option (List Byte))) : GroupEnd :=
  let erased := (members.zipIdx.filter fun x => x.1.isNone).map fun x => x.2
  let words := columns 1024 (members.map fun m => m.getD (List.replicate 1024 0))
  let ends : List (List (Option Byte) × Bool × Bool) := words.map fun w =>
    match (if 24 < erased.length then none else c2Decode emax w erased) with
    | some (v, e) => (v.map some, decide (e ≠ 0), false)
    | none => (w.zipIdx.map fun x => if erased.contains x.2 then none else some x.1, false, true)
  { data := columns 224 (ends.map fun x => x.1)
    worked := !erased.isEmpty || ends.any fun x => x.2.1
    failed := (ends.filter fun x => x.2.2).length }

/-- The codeword with index `cw` among those gathered. -/
def gathered (g : Gather) (cw : Nat) : Option (List Byte) := (g.cws.find? fun x => x.1 == cw).map fun x => x.2

/-- The groups of a gathered data set. -/
def setGroups (emax : Nat) (g : Gather) : List GroupEnd :=
  (List.range 32).map fun k => groupDecode emax ((List.range 248).map fun m => gathered g (memberCw k m))

/-- The payload that 32 groups spell: data codeword 32·m + g (R191). -/
def payloadFrom (gs : List GroupEnd) : List (Option Byte) := (columns 224 (gs.map fun g => g.data)).flatten.flatten

/-- FM_C2_STAT takes the result of a data set (R208, R225). -/
def countC2 (gs : List GroupEnd) (s : State) : State :=
  let w := s.fm.c2Stat
  let w := putBits w 0 16 (min 65535 (bits w 0 16 + (gs.filter fun g => g.worked).length))
  let w := putBits w 16 16 (min 65535 (bits w 16 16 + (gs.map fun g => g.failed).sum))
  { s with fm := { s.fm with c2Stat := w } }

/-! ### What is known -/

/-- The directory of a payload, where it is known and is one. -/
def knownDirectory (payload : List (Option Byte)) : Option Directory :=
  match allKnown (payload.take 64) with
  | none => none
  | some b => if directoryOk b then some (directoryOf b) else none

/-- Every byte is known. -/
def noneUnknown (l : List (Option Byte)) : Bool := l.all Option.isSome

/-- Every byte is known that the directory, the stream area and the record index of a data set use; all of them for a
parity data set. -/
def payloadWhole (kind : Nat) (payload : List (Option Byte)) : Bool :=
  if kind = 1 then noneUnknown payload
  else match knownDirectory payload with
    | none => false
    | some d => noneUnknown (payload.take (64 + d.stream)) && noneUnknown (payload.drop (payloadBytes - 16 * d.entries))

/-! ### The span (R196, R209, R210) -/

/-- A span: its first DSN, its count of data data sets, its P. -/
structure SpanAt where
  first : Nat
  count : Nat
  p     : Nat
deriving DecidableEq, Repr

/-- DSN of parity data set 0 of the span that begins at `first`, where the partition holds it. -/
def parityZero (v : Part) (first : Nat) : Option Nat :=
  ((v.placed.filter fun d => d.kind == 1 && decide (first ≤ d.dsn)).map fun d => d.dsn).foldl
    (fun (a : Option Nat) n => match a with | none => some n | some m => some (min m n)) none

/-- The closed span with P > 0 that holds data set `d`, as the directory of `d` itself or of a data set in the cache says
(R196). -/
def spanOf (s : State) (part d : Nat) (own : Option Directory) : Option SpanAt :=
  let near := (s.rdr.cache.filter fun c => c.part == part && c.kind != 1).filterMap fun c => knownDirectory c.payload
  (own.toList ++ near).findSome? fun dir =>
    match parityZero (partOf s part) dir.spanAt with
    | none => none
    | some q => if dir.spanP ≠ 0 ∧ dir.spanAt ≤ d ∧ d < q + dir.spanP then some { first := dir.spanAt, count := q - dir.spanAt, p := dir.spanP } else none

/-- The DSNs of a span, data first (R209). -/
def spanDsns (sp : SpanAt) : List Nat := List.range' sp.first (sp.count + sp.p)

/-- The first data set of a span that is on tape, not in the cache, and not `d` itself. -/
def spanMissing (s : State) (part d : Nat) (sp : SpanAt) : Option Placed :=
  let blank := s.rdr.blankAt
  (spanDsns sp).findSome? fun n =>
    if n = d ∨ (cachedSet s part n).isSome then none
    else (partOf s part).placed.find? fun x => x.dsn == n && (match blank with | none => true | some b => decide (x.at_ < b))

/-- Symbol by symbol, the payloads of a span: zeros beyond its count, unknown where a data set was not found (R209,
R210). -/
def spanSymbols (s : State) (part d : Nat) (own : List (Option Byte)) (sp : SpanAt) : List (List (Option Byte)) :=
  (List.range (32 + sp.p)).map fun k =>
    if sp.count ≤ k ∧ k < 32 then List.replicate payloadBytes (some 0)
    else
      let n := if k < 32 then sp.first + k else sp.first + sp.count + (k - 32)
      if n = d then own else match cachedSet s part n with
        | some c => c.payload
        | none => List.replicate payloadBytes none

/-- One payload byte of symbol `k` by C3 (R210). -/
def c3Byte (p k : Nat) (symbols : List (Option Byte)) : Option Byte :=
  match (symbols[k]?).getD none with
  | some b => some b
  | none =>
    let unknown := (symbols.zipIdx.filter fun x => x.1.isNone).map fun x => x.2
    if p < unknown.length then none
    else match c3Decode p (symbols.map fun x => x.getD 0) unknown with
      | none => none
      | some w => w[k]?

/-- The payload of data set `d` after C3 (R210). -/
def c3Restore (s : State) (part d : Nat) (own : List (Option Byte)) (sp : SpanAt) : List (Option Byte) :=
  let k := if d < sp.first + sp.count then d - sp.first else 32 + (d - (sp.first + sp.count))
  (columns payloadBytes (spanSymbols s part d own sp)).map (c3Byte sp.p k)

/-! ### Recovery (R211) -/

/-- The data set that some READ or VERIFY waits for. -/
def wantedSet (s : State) (part d : Nat) : Bool :=
  s.hq.inflight.any fun c => decide (c.stage = .chosen) && [0x02, 0x03].contains (eOpcode c.entry) && ePart c.entry == part
    && decide (blockAt s part c.first = .tape d)

/-- A gather leaves the list. -/
def dropGather (part d : Nat) (s : State) : State :=
  { s with rdr := { s.rdr with gathers := s.rdr.gathers.filter fun g => !(g.part == part && g.dsn == d) } }

/-- A gather takes a new form. -/
def setGather (g : Gather) (s : State) : State :=
  { s with rdr := { s.rdr with gathers := s.rdr.gathers.map fun x => if x.part = g.part ∧ x.dsn = g.dsn then g else x } }

/-- The gather of a data set. -/
def gatherOf (s : State) (part d : Nat) : Option Gather := s.rdr.gathers.find? fun g => g.part == part && g.dsn == d

/-- A data set enters the read cache (R210, R257), and the read side paces itself (R267). -/
def enterCache (part d kind : Nat) (payload : List (Option Byte)) (s : State) : State :=
  let c : Cached := { part := part, dsn := d, kind := kind, payload := payload, used := s.tb.toNat, given := false }
  let s := dropGather part d s
  let s := { s with rdr := { s.rdr with cache := (s.rdr.cache.filter fun x => !(x.part == part && x.dsn == d)) ++ [c] } }
  paceRead (trimCache s.rdr.cache.length s)

/-- FM_C3_STAT (R225): a data set restored in part, and one left with unknown bytes. -/
def countC3 (restored left : Bool) (s : State) : State :=
  let w := s.fm.c3Stat
  let w := if restored then putBits w 0 16 (min 65535 (bits w 0 16 + 1)) else w
  let w := if left then putBits w 16 16 (min 65535 (bits w 16 16 + 1)) else w
  { s with fm := { s.fm with c3Stat := w } }

/-- A pass over data set `d` has ended, or all its codewords are there (R211): C2, then up to two re-reads where a command
needs it, then its span, then what is known goes to the cache. -/
def finishPass (part d : Nat) (s : State) : State :=
  match gatherOf s part d with
  | none => s
  | some g =>
    let gs := setGroups (bits s.fm.ecc 8 4) g
    let payload := payloadFrom gs
    let s := if g.span then s else countC2 gs s
    if payloadWhole g.kind payload || !wantedSet s part d then
      enterCache part d g.kind payload (countC3 false (!payloadWhole g.kind payload) s)
    else if g.reread < 2 && !g.span then setGather { g with reread := g.reread + 1, seen := false } s
    else match spanOf s part d (knownDirectory payload) with
      | none => enterCache part d g.kind payload (countC3 false true s)
      | some sp =>
        match spanMissing s part d sp with
        | some _ => setGather { g with span := true, seen := false } s
        | none =>
          let restored := c3Restore s part d payload sp
          enterCache part d g.kind restored (countC3 (restored != payload) (!payloadWhole g.kind restored) s)

/-- Data sets whose span is being read go on when another data set has entered the cache. -/
def spansGoOn (s : State) : State :=
  forEach (s.rdr.gathers.filter fun g => g.span) (fun g s => finishPass g.part g.dsn s) s

/-- A pass over one data set ends. -/
def passEnds (part d : Nat) (s : State) : State := spansGoOn (finishPass part d s)

/-- A block of data set `dsn` begins under the head (R241): the passes over data sets that can have no frame and no
repeat any more end (R188, R218), and a data set that is not in the cache is gathered. -/
def blockSeen (kind part dsn : Nat) (s : State) : State :=
  let past := s.rdr.gathers.filter fun g => g.part == part && g.seen && (kind == 3 || decide (g.dsn + 13 ≤ dsn))
  let s := forEach past (fun g s => passEnds g.part g.dsn s) s
  if 2 ≤ kind ∨ (cachedSet s part dsn).isSome then s
  else match gatherOf s part dsn with
    | some g => setGather { g with seen := true } s
    | none =>
      let g : Gather := { part := part, dsn := dsn, kind := kind, cws := [], reread := 0, seen := true, span := false }
      { s with rdr := { s.rdr with gathers := s.rdr.gathers ++ [g] } }

/-- A codeword of a data set is already known, or its data set is in the cache (R249). -/
def haveCodeword (s : State) (part dsn cw : Nat) : Bool :=
  (cachedSet s part dsn).isSome || (match gatherOf s part dsn with | none => false | some g => g.cws.any fun x => x.1 == cw)

/-- A copy of a codeword has converged (R211): with the last codeword of a data set its passes end. -/
def takeCodeword (part dsn cw : Nat) (block : List Byte) (s : State) : State :=
  match gatherOf s part dsn with
  | none => s
  | some g =>
    if g.cws.any fun x => x.1 == cw then s
    else
      let s := setGather { g with cws := (cw, block) :: g.cws } s
      if g.cws.length + 1 = 7936 then passEnds part dsn s else s

/-- The path position at which a data set on tape is read: its own, or that of the next member of its span (R211). -/
def setPosition (s : State) (part d : Nat) : Option Nat :=
  let at_ := ((partOf s part).placed.find? fun x => x.dsn == d).map fun x => x.at_
  match gatherOf s part d with
  | none => at_
  | some g =>
    if !g.span then at_
    else match spanOf s part d (knownDirectory (payloadFrom (setGroups (bits s.fm.ecc 8 4) g))) with
      | none => at_
      | some sp => match spanMissing s part d sp with | some x => some x.at_ | none => at_

end Sys2Proof.Machine
end

