-- ==== Sys2Proof/Machine/Sheet.lean ====
section
/-!
DEFINITION. The Sheet Port (R326 to R337): packets in both directions, link sync, measurement words, general inputs, and
the counts, angles and rates of the reel encoders with the test of R20.
-/

namespace Sys2Proof.Machine

/-! ### Measurement words (R327, R330) -/

/-- CRC byte of a packet (R327). -/
def packetCrc (code : Nat) (data : Word) : Byte := crc8 (BitVec.ofNat 8 code :: natLe 4 data.toNat)

/-- OFFSET and GAIN of measurement word `w`. -/
def calOf (s : State) (w : Nat) : Int × Nat :=
  (i32 (tabGet 0 s.sp.cal (2 * w)), (tabGet 0x40000000#32 s.sp.cal (2 * w + 1)).toNat)

/-- term of R293. -/
def term (c : Coef) (d : Int) : Int := rne (i32 c.value * d) c.shift

/-- A raw measurement corrected, with whether a value saturated on the way (R330). -/
def measured (s : State) (w : Nat) (raw : Word) : Int × Bool :=
  let (off, gain) := calOf s w
  let a := rne ((i32 raw - off) * gain) 30
  let g := satN 32 a
  let b := term (tabGet coefZero s.sp.nom w) g
  let m := satN 32 b
  (m, a != g || b != m)

/-- Count in SP_ERR: packets discarded, link losses. -/
def sheetError (o n : Nat) (s : State) : State :=
  let v := bits s.sp.err o n
  { s with sp := { s.sp with err := putBits s.sp.err o n (min (2 ^ n - 1) (v + 1)) } }

/-- A packet arrives intact or not on a link that is in sync (R327, R330): a measurement word, or a control packet for the
PF's event log; the three codes that no start symbol has are no packets. -/
def execSheetPacketReceive (t : Time) (link : BitVec 5) (code : BitVec 3) (data : BitVec 32) (crc : Byte) (intact : Bool)
    (s : State) : Host.Outcome State Fault Refusal :=
  let s := advance t s
  let n := link.toNat
  let k := code.toNat
  if 24 ≤ n ∨ 4 < k ∨ linkInSync s n = false then .next s
  else if !intact || packetCrc k data != crc then .next (sheetError 0 16 s)
  else if k = 4 then
    .next (event 0 0 0x18 [BitVec.ofNat 64 (n + bits data 0 8 * 2 ^ 8 + bits data 8 24 * 2 ^ 24)] s)
  else
    let w := 4 * n + k
    let (m, sat) := measured s w data
    .next { s with sp := { s.sp with
      meas := tabSet 0 s.sp.meas w m
      err := if sat then s.sp.err ||| 0x80000000#32 else s.sp.err } }

/-- A command word is set and its packet goes out (R329). -/
def sendWord (w : Nat) (x : Word) (s : State) : State :=
  emit (.packet (w / 4) (w % 4) x) { s with sp := { s.sp with cmd := tabSet 0 s.sp.cmd w x } }

/-- The refresh of a stroke: each command word of each enabled link once (R329). -/
def execSheetRefresh (t : Time) (s : State) : Host.Outcome State Fault Refusal :=
  let s := advance t s
  if !s.gl.locked then .next s
  else
    let words := ((List.range 24).filter (linkEnabled s)).flatMap fun n => (List.range 4).map fun i => 4 * n + i
    .next (forEach words (fun w s => emit (.packet (w / 4) (w % 4) (tabGet 0 s.sp.cmd w)) s) s)

/-! ### Links (R326, R333) -/

/-- Every enabled link is in sync. -/
def linksUp (s : State) : Bool := (List.range 24).all fun n => !linkEnabled s n || linkInSync s n

/-- What a change of enables or syncs means: from the instant at which every enabled link is in sync the 1 ms of R333
runs. -/
def linksNote (s : State) : State :=
  { s with sp := { s.sp with allUp := if linksUp s then (match s.sp.allUp with | some a => some a | none => some s.tb) else none } }

/-- An enabled link is down: LIVE_SHEET and a HOLD cause (R333, R28). -/
def sheetDown (s : State) : State :=
  senseFast 3 (holdCause 3 (linksNote { s with gl := { s.gl with liveSheet := true } }))

/-- The receiver of a link comes into sync (R326). -/
def execSheetLinkSync (t : Time) (link : BitVec 5) (s : State) : Host.Outcome State Fault Refusal :=
  let s := advance t s
  if 24 ≤ link.toNat ∨ s.gl.locked = false then .next s
  else .next (linksNote { s with sp := { s.sp with sync := s.sp.sync ||| BitVec.ofNat 24 (2 ^ link.toNat) } })

/-- The receiver of a link loses sync; an enabled link counts its loss and is a HOLD cause (R326, R333). -/
def execSheetLinkLoss (t : Time) (link : BitVec 5) (s : State) : Host.Outcome State Fault Refusal :=
  let s := advance t s
  let n := link.toNat
  if 24 ≤ n ∨ linkInSync s n = false then .next s
  else
    let s := { s with sp := { s.sp with sync := s.sp.sync &&& ~~~(BitVec.ofNat 24 (2 ^ n)) } }
    if linkEnabled s n then .next (sheetDown (sheetError 16 8 s)) else .next s

/-- Every enabled link has been in sync for 1 ms: LIVE_SHEET returns to 0 (R333). -/
def execSheetLinkStable (t : Time) (s : State) : Host.Outcome State Fault Refusal :=
  let s := advance t s
  match s.sp.allUp with
  | none => .next s
  | some a =>
    if linksUp s && decide (a.toNat + 1600000 ≤ s.tb.toNat) then
      .next (senseFast 3 { s with gl := { s.gl with liveSheet := false } })
    else .next s

/-! ### General inputs (R335) -/

/-- A pin's accepted level changes; its interrupt source senses the edge. -/
def execGpiEdge (t : Time) (pin : BitVec 5) (level : Bool) (s : State) : Host.Outcome State Fault Refusal :=
  let s := advance t s
  if !s.gl.locked then .next s
  else
    let p := pin.toNat
    .next (senseSrc 0 (8704 + p) { s with sp := { s.sp with gpi := putBits s.sp.gpi p 1 (b2n level) } })

/-! ### Encoders (R334) -/

/-- An encoder after a cold reset. -/
def encDefault : Enc := { cpr := 0x00010000#32, a := false, b := false, count := 0, idx := false, edges := [], base := 0 }

/-- Encoder `x`. -/
def encOf (s : State) (x : Nat) : Enc := tabGet encDefault s.sp.encs x

/-- Set encoder `x`. -/
def setEnc (x : Nat) (v : Enc) (s : State) : State := { s with sp := { s.sp with encs := tabSet encDefault s.sp.encs x v } }

/-- Two levels of A and B as a place in the quadrature cycle of a forward turn: A rises, B rises, A falls, B falls. -/
def quadPlace (a b : Bool) : Nat := if a then (if b then 2 else 1) else (if b then 3 else 0)

/-- What an accepted edge adds to the count. -/
def quadStep (inv : Bool) (v : Enc) (a b : Bool) : Int :=
  let fwd := (quadPlace a b + 4 - quadPlace v.a v.b) % 4 = 1
  if (decide fwd == Config.encLeadsUp) != inv then 1 else -1

/-- The count as the uint32 of SP_ENCx_CNT. -/
def wrapCount (n : Int) : Int := n % (2 ^ 32 : Int)

/-- The difference of two counts as an int32. -/
def countDiff (a b : Int) : Int := (BitVec.ofInt 32 (a - b)).toInt

/-- Angle: floor((count mod CPR)·2^32 / CPR). -/
def encAngle (v : Enc) : Nat := (v.count.toNat % v.cpr.toNat) * 2 ^ 32 / v.cpr.toNat

/-- SP_ENC_CTL.WIN in ticks. -/
def encWin (s : State) : Nat := usTicks (bits s.sp.encCtl 0 16)

/-- 10 ms in ticks. -/
def restTicks : Nat := 16000000

/-- Rate in units of 2^-16 revolution/s, rounded toward minus infinity: 0 with no edge for 10 ms, and a free value where
no edge is old enough to measure from. -/
def encRate (s : State) (v : Enc) : Int :=
  match v.edges with
  | [] => 0
  | (ta, na) :: r =>
    if ta.toNat + restTicks ≤ s.tb.toNat then 0
    else match r.find? fun e => decide (e.1.toNat + encWin s ≤ ta.toNat) with
      | some (tb, nb) =>
        if ta.toNat = tb.toNat then 0
        else 65536 * 1600000000 * countDiff na nb / (v.cpr.toNat * (ta.toNat - tb.toNat) : Int)
      | none => Config.freeInt ta.toNat

/-- Tape speed from the encoder of reel 0 and its radius, in 2^-24 m/s: 2π·rate·radius, with 2π in units of 2^-32. -/
def encSpeed (s : State) : Int := encRate s (encOf s 0) * s.sv.rad0.toNat * 26986075409 / (2 ^ 48 : Int)

/-- An encoder's count has kept within 1 count over the last 10 ms (R20). -/
def encRests (s : State) (v : Enc) : Bool :=
  let recent := v.edges.takeWhile fun e => decide (s.tb.toNat < e.1.toNat + restTicks)
  let before := match v.edges.drop recent.length with | e :: _ => e.2 | [] => v.base
  match recent with
  | [] => true
  | (_, n) :: _ =>
    let ds := (before :: recent.map Prod.snd).map fun k => countDiff k n
    decide (ds.foldl max 0 - ds.foldl min 0 ≤ 1)

/-- The test of R20: each encoder has changed by at most 1 count over 10 ms. -/
def tapeRests (s : State) : Bool := encRests s (encOf s 0) && encRests s (encOf s 1)

/-- An accepted change of A and B (R334): both at once leave the count and are counted as an error. Edges are kept as far
back as the longest window looks. -/
def encMove (x : Nat) (a b : Bool) (s : State) : State :=
  let v := encOf s x
  if v.a = a ∧ v.b = b then s
  else if v.a ≠ a ∧ v.b ≠ b then
    let s := setEnc x { v with a := a, b := b } s
    { s with sp := { s.sp with encErr := putBits s.sp.encErr 16 16 (min 65535 (bits s.sp.encErr 16 16 + 1)) } }
  else
    let n := wrapCount (v.count + quadStep (s.sp.encCtl.getLsbD (16 + x)) v a b)
    let near := v.edges.takeWhile fun e => decide (s.tb.toNat < e.1.toNat + usTicks 65535)
    let base := match v.edges.drop (near.length + 1) with | e :: _ => e.2 | [] => v.base
    setEnc x { v with a := a, b := b, count := n, edges := (s.tb, n) :: near ++ (v.edges.drop near.length).take 1, base := base } s

/-- The nearest multiple of CPR; a count midway between two goes to either. -/
def nearestTurn (s : State) (v : Enc) : Int × State :=
  let c := v.cpr.toNat
  let n := v.count.toNat
  let lo := n / c * c
  if 2 * (n - lo) < c then (lo, s)
  else if c < 2 * (n - lo) then (wrapCount (lo + c), s)
  else
    let (k, s) := openNat s
    (if k % 2 = 0 then (lo : Int) else wrapCount (lo + c), s)

/-- The index pulse of an encoder: the first one sets the count to 0, a later one sets a count that is not a multiple of
CPR to the nearest multiple (R334). The kept edges move with the count. -/
def encTurn (x : Nat) (s : State) : State :=
  let v := encOf s x
  let shift (n : Int) (v : Enc) : Enc :=
    { v with count := n, edges := v.edges.map fun e => (e.1, wrapCount (e.2 + n - v.count))
             base := wrapCount (v.base + n - v.count) }
  if !v.idx then setEnc x { shift 0 v with idx := true } s
  else if v.count.toNat % v.cpr.toNat = 0 then s
  else
    let (n, s) := nearestTurn s v
    let s := setEnc x (shift n v) s
    { s with sp := { s.sp with encErr := putBits s.sp.encErr 0 16 (min 65535 (bits s.sp.encErr 0 16 + 1)) } }

/-- Radii from K and the ratio of the reel rates (R286): rad_0 = √(K / (1 + ρ²)) and rad_1 = ρ·rad_0, in 2^-24 m. -/
def radiiUpdate (s : State) : State :=
  let w0 := (encRate s (encOf s 0)).natAbs
  let w1 := (encRate s (encOf s 1)).natAbs
  if s.sv.reelK = 0 ∨ w0 = 0 ∨ w1 = 0 then s
  else
    let r0 := Nat.sqrt (s.sv.reelK.toNat * 65536 * w1 * w1 / (w0 * w0 + w1 * w1))
    { s with sv := { s.sv with rad0 := BitVec.ofNat 32 r0, rad1 := BitVec.ofNat 32 (r0 * w0 / w1) } }

/-- The index pulse of an encoder (R334), with the radii of R286. -/
def execEncoderIndex (t : Time) (enc : BitVec 1) (s : State) : Host.Outcome State Fault Refusal :=
  let s := advance t s
  .next (if fetching s then radiiUpdate (encTurn enc.toNat s) else s)

end Sys2Proof.Machine
end

