-- ==== Sys2Proof/Machine/Servo.lean ====
section
/-!
DEFINITION. Servo processors and combiner (chapter 12): stripe detection (R272), burst windows (R273), lateral samples
(R274), position words (R270, R271), module samples (R277), reader states (R283), servo loss (R284, R285), write gate
(R282). Times are in subsamples, a quarter of a TB tick.
-/

namespace Sys2Proof.Machine

/-! ### Speeds and distances -/

/-- 0.4 m/s in 2^-24 m/s, rounded up (R283). -/
def servoMin : Nat := 6710887

/-- Subsamples in which the tape travels `nm` at speed `v`. -/
def travelSubs (nm v : Nat) : Nat := nm * 2 ^ 24 * 32 / (5 * v)

/-- The reader's current speed: its own, and the encoders' before it has one. -/
def readerSpeed (s : State) (r : ServoRd) : Nat := if r.vel = 0 then (encSpeed s).natAbs else r.vel.natAbs

/-- Servo band of reader `n`. -/
def bandOf (n : Nat) : Nat := n / 2 + n % 2

/-- SV_AZK of band `b` (R275). -/
def azkOf (s : State) (b : Nat) : Word := tabGet 0x0127F505#32 s.sv.azk b

/-- The mode runs the servo processors: a cartridge is threaded, or threading (R24). -/
def servoRuns (s : State) : Bool := fetching s && (s.gl.cart || decide (s.gl.cur = .thread))

/-- The mode runs the lateral loops (R24, R284). -/
def lateralMode (s : State) : Bool :=
  [Mode.calibrate, .locate, .write, .read, .verify, .erase, .service, .hold].contains s.gl.cur

/-! ### Lateral position (R274) -/

/-- Seed of the reciprocal (R274), in Q0.32. DEDUCED: 2^39 stands where the rule's code has 2^38, because the same rule says
that x is 1/dn in Q0.32 and that r is 0.5 at the centreline, which 2^38 misses by far (log entry 46). Unsafe. -/
def seedOf (i : Nat) : Nat := min (2 ^ 32 - 1) (2 ^ 39 / (128 + 2 * i + 1))

/-- One Newton step toward 1/dn. -/
def newton (dn x : Nat) : Nat := min (2 ^ 32 - 1) (x * (2 ^ 33 - dn * x / 2 ^ 31) / 2 ^ 32)

/-- r = tab/d as Q0.32. -/
def ratio32 (tab d : Nat) : Nat :=
  let e := Nat.log2 d
  let dn := d * 2 ^ 32 / 2 ^ (e + 1)
  let x := newton dn (newton dn (seedOf (dn / 2 ^ 25 % 64)))
  tab * x / 2 ^ e

/-- Lateral position from the sum of intervals, the divisor and the band's scale. -/
def lateral (tab d : Nat) (k : Word) : Int :=
  satN 32 (asr ((k.toNat : Int) * (2 ^ 32 - 2 * (ratio32 tab d : Int))) 32)

/-- The magnitude of a time difference. -/
def tdiff (a b : Nat) : Nat := max a b - min a b

/-- Sum of the intervals of same-index stripes. -/
def intervals (a b : List Nat) : Nat := (List.zipWith tdiff a b).sum

/-- Sample AB from bursts A, B and C. -/
def sampleAB (a b c : List Nat) (k : Word) : Int :=
  let tac := tdiff (c.getD 0 0) (a.getD 0 0) + tdiff (c.getD 2 0) (a.getD 2 0)
  lateral (intervals a b) (3 * tac) k

/-- Sample CD from bursts C and D and the next frame's A. -/
def sampleCD (c d a : List Nat) (k : Word) : Int :=
  let tac := tdiff (a.getD 0 0) (c.getD 0 0) + tdiff (a.getD 2 0) (c.getD 2 0)
  lateral (intervals c d) (3 * tac / 2) k

/-! ### Stripe detection (R272) -/

/-- The zero crossing in samples, oldest first, of which the first stands at time `at_`: the first fall through zero,
interpolated and truncated to a subsample. -/
def fallAt : Nat → List Int → Option Nat
  | at_, a :: b :: r =>
    if 0 < a ∧ b ≤ 0 then some (at_ + (64 * a / (a - b)).toNat) else fallAt (at_ + 64) (b :: r)
  | _, _ => none

/-- A sample enters the stripe detector: the sample before it is a peak when it stands out of both its neighbours. `lim` is
1.2 µm of tape in subsamples. The running mean is taken over the positive peaks of stripes that were detected. -/
def detect (lim : Nat) (r : ServoRd) (x : Int) (at_ : Nat) : ServoRd × Option Nat :=
  let w := (x :: r.wave).take 512
  let r := { r with wave := w, waveAt := at_ }
  match w with
  | c :: b :: a :: _ =>
    if 0 < b ∧ a < b ∧ c ≤ b then
      (if r.peaks.sum ≤ 2 * b.toNat * r.peaks.length then { r with armed := some (at_ - 64) } else r, none)
    else if b < 0 ∧ b < a ∧ b ≤ c then
      match r.armed with
      | none => (r, none)
      | some p =>
        let k := (at_ - p) / 64
        let span := ((w.take (k + 1)).drop 1).reverse
        let r := { r with armed := none }
        if at_ - 64 ≤ p + lim then ({ r with peaks := ((span.headD 0).toNat :: r.peaks).take 64 }, fallAt p span) else (r, none)
    else (r, none)
  | _ => (r, none)

/-! ### Position words (R270, R271) -/

/-- The shift sum of a frame: over A1, A3, B1 and B3 twice the stripe's time less those of its neighbours. -/
def shiftSum (a b : List Nat) : Int :=
  let f (l : List Nat) (i : Nat) : Int := 2 * (l.getD i 0 : Int) - l.getD (i - 1) 0 - l.getD (i + 1) 0
  f a 1 + f a 3 + f b 1 + f b 3

/-- What a frame carries: a bit, or none for a sync frame; the mean of the four terms against 0.25 µm. -/
def frameShift (vel : Int) (a b : List Nat) : Option Bool :=
  let x := vel * shiftSum a b
  let k : Int := 12800 * 2 ^ 24
  if k ≤ x then some true else if x < -k then some false else none

/-- The 39 bits of a word, frame 1 first, when the last 40 frames are a sync frame and 39 bit frames. -/
def wordBits (rev : Bool) (w : List (Option Bool)) : Option (List Bool) :=
  let l := if rev then w else w.reverse
  match l with
  | none :: r => if r.length = 39 ∧ r.all (fun b => b.isSome) then some (r.map fun b => b.getD false) else none
  | _ => none

/-- Count in SV_WORD_ERR. -/
def wordError (o : Nat) (s : State) : State :=
  { s with sv := { s.sv with wordErr := putBits s.sv.wordErr o 16 (min 65535 (bits s.sv.wordErr o 16 + 1)) } }

/-- A reader takes a complete word (R271); the word's own frame is the one just passed. -/
def takeWord (n : Nat) (l : List Bool) (s : State) : State :=
  let r := servoRd s n
  let v := bitsNat l
  if (crc8Bits (l.take 31)).toNat ≠ v % 256 then wordError 0 s
  else if v / 2 ^ 11 % 16 ≠ bandOf n then s
  else
    let here := 3840 * (v / 2 ^ 15) + (if r.dir then 0 else 96 * 39) + 12
    if !r.known then setServoRd n { r with known := true, lpos := here, agree := none } s
    else
      let d : Int := (here : Int) - r.lpos
      if d = 0 then setServoRd n { r with agree := none } s
      else if r.agree = some d then wordError 16 (setServoRd n { r with lpos := here, agree := none } s)
      else setServoRd n { r with agree := some d } s

/-! ### States (R283) -/

/-- A reader leaves for IDLE: its position stays where it was last, and is not known any more. -/
def readerIdle (r : ServoRd) (now : Nat) : ServoRd :=
  let x : Int := r.lpos + r.vel * (4 * (now : Int) - r.tm) * 5 / (32000 * 2 ^ 24)
  { servoRdDefault with seq := r.seq, y := r.y, ts := r.ts, miss := r.miss, lostN := r.lostN
                        lpos := x.toNat, tm := 4 * now }

/-- A reader begins to search. -/
def readerSearch (s : State) (r : ServoRd) : ServoRd :=
  { r with st := .acquire, dir := decide (s.sv.wrap % 2 = 1), run := 0, cross := [], bursts := [], word := [], ival := 0
           prevTm := none, waveAt := 0, wave := [], armed := none, preds := [], giveAB := none, giveCD := none }

/-- A servo-loss condition holds now (R284). Modules count as without servo once they have lost it; while they first acquire
it, the acquisition limit alone applies. -/
def lossHolds (s : State) (c : ServoLoss) : Bool :=
  let past (k : Nat) (n : Nat) : Bool :=
    match (servoMod s k).lostAt with | none => false | some a => decide (a.toNat + n ≤ s.tb.toNat)
  match s.sv.speedAt with
  | none => false
  | some v =>
    lateralMode s && match c with
    | .lostHold m => past m.toNat (bits s.sv.loss 0 8 * usTicks 10)
    | .modHold => decide (bits s.sv.loss 8 4 ≤ ((List.range 8).filter fun k => (servoMod s k).lostAt.isSome).length)
    | .acqHold m => !hasServo s m.toNat && (servoMod s m.toNat).lostAt.isNone
        && decide (v.toNat + bits s.sv.loss 16 8 * usTicks 1000 ≤ s.tb.toNat)
    | .offTrack m => decide (3 ≤ (servoMod s m.toNat).off)

/-- Conditions that no longer hold leave; LIVE_SERVO follows (R284). -/
def badPass (s : State) : State :=
  senseFast 4 { s with sv := { s.sv with bad := s.sv.bad.filter (lossHolds s) } }

/-- Module `k` may have gained or lost servo: its time without servo, and its write gate (R282, R284). -/
def servoPass (k : Nat) (s : State) : State :=
  let m := servoMod s k
  if hasServo s k then badPass (if m.lostAt.isSome then setServoMod k { m with lostAt := none } s else s)
  else badPass (closeGate k s)

/-- A reader enters LOST (R283, R285): the loss counts toward benching while the other reader of its module tracks. -/
def readerLost (n : Nat) (s : State) : State :=
  let r := servoRd s n
  let k := n / 2
  let had := hasServo s k
  let other := readerTracks s (if n % 2 = 0 then n + 1 else n - 1)
  let s := setServoRd n { readerSearch s r with st := .lost, word := [], lostN := if other then r.lostN + 1 else r.lostN } s
  let s := if had && !hasServo s k then setServoMod k { servoMod s k with lostAt := some s.tb, valid := false } s else s
  let lim := bits s.sv.loss 12 4
  let s := if other && lim ≠ 0 && decide (lim ≤ (servoRd s n).lostN) then setUnitState (1204 + n) .benched 6 s else s
  servoPass k s

/-- SV_CTL.WIN_MARGIN in subsamples at the reader's speed (R273). -/
def winMargin (s : State) (r : ServoRd) : Nat := travelSubs (125 * bits r.ctl 0 8) (readerSpeed s r)

/-- The window of burst `b`: the same burst of the previous frame, a frame interval on. SV_CTL is taken anew at each frame
and the band's scale at each window (R288). -/
def setWindow (s : State) (n b : Nat) (r : ServoRd) : ServoRd :=
  let r := { r with nextB := b, kb := azkOf s (bandOf n), ctl := if b = (if r.dir then 3 else 0) then s.sv.ctl else r.ctl }
  match r.preds.find? fun p => p.1 == b with
  | none => r
  | some (_, f, l) => { r with winFrom := f + r.ival - winMargin s r, winTo := l + r.ival + winMargin s r }

/-- The burst after burst `b` in time. -/
def burstAfter (rev : Bool) (b : Nat) : Nat := if rev then (b + 3) % 4 else (b + 1) % 4

/-- First and last of a list of times. -/
def endsOf (l : List Nat) : Nat × Nat := (l.foldl min (l.headD 0), l.foldl max 0)

/-- A reader that has seen enough valid samples enters TRACK, once all four bursts and a frame interval are there to
predict from (R273, R283). -/
def enterTrack (n : Nat) (s : State) : State :=
  let r := servoRd s n
  let four := r.bursts.take 4
  if r.run < bits s.sv.ctl 16 4 ∨ r.ival = 0 ∨ four.length < 4 ∨ !(four.all fun b => b.2.1.isSome) then s
  else
    let r := { r with st := .track, run := 0, ctl := s.sv.ctl, cross := [], giveAB := none, giveCD := none
                      preds := four.map fun b => (b.1, endsOf (b.2.1.getD [])) }
    let s := setServoRd n (setWindow s n (burstAfter r.dir (four.headD (0, none, 0)).1) r) s
    servoPass (n / 2) (setServoMod (n / 2) { servoMod s (n / 2) with lostAt := none } s)

/-- A reader gives a sample or misses it (R273, R276, R283). -/
def giveSample (n : Nat) (ab : Bool) (y : Option Int) (s : State) : State :=
  let r := servoRd s n
  match r.st with
  | .track =>
    let r := if ab then { r with giveAB := some y } else { r with giveCD := some y }
    match y with
    | some v => setServoRd n { r with y := v, seq := r.seq + 1, ts := BitVec.ofNat 64 (r.winTo / 4), run := 0 } s
    | none =>
      let s := setServoRd n { r with miss := satInc r.miss, run := r.run + 1 } s
      if bits r.ctl 8 4 ≤ r.run + 1 then readerLost n s else s
  | .idle => s
  | _ => setServoRd n { r with run := if y.isSome then r.run + 1 else 0 } s

/-! ### Head samples (R276, R278) -/

/-- The readers in TRACK. -/
def tracking (s : State) : List Nat := (List.range 16).filter (readerTracks s)

/-- Mean of some integers, rounded toward minus infinity. -/
def meanOf (l : List Int) : Int := if l.isEmpty then 0 else l.sum / (l.length : Int)

/-- Skew from the outermost two readers in TRACK on different bands (R278): speed × (t_m at b2 − t_m at b1) over the distance
of the bands, in revolutions of 2^-32; 2π is taken in units of 2^-32. Times of different frames measure nothing. -/
def skewOf (s : State) : Option Int :=
  let l := tracking s
  match l.head?, l.getLast? with
  | some a, some b =>
    let (ra, rb) := (servoRd s a, servoRd s b)
    let db := bandOf b - bandOf a
    let dt : Int := (rb.tm : Int) - ra.tm
    if db = 0 ∨ ra.ival ≤ 2 * dt.natAbs then none
    else some (s.sv.speed * dt * 5 * 2 ^ 40 / (32000 * 1434 * (db : Int) * 26986075409))
  | _, _ => none

/-- 6.4 m/s in 2^-24 m/s (R280). -/
def coarseLimit : Nat := 107374182

/-- CTL.FREEZE of slots 0 to 7. -/
def freezeFine (b : Bool) (s : State) : State :=
  forEach (List.range 8) (fun i s =>
    let v := slotOf s i
    setSlot i { v with regs := { v.regs with ctl := putBits v.regs.ctl 1 1 (b2n b) } } s) s

/-- In a LOCATE above 6.4 m/s the fine loops freeze and the coarse loop moves to slot 24, whose words MRAM head calibration
holds; at or below that speed it moves back (R280, R305). -/
def coarsePass (s : State) : State :=
  let fast := decide (s.gl.cur = .locate) && decide (coarseLimit < s.sv.speed.natAbs)
  if fast = s.sv.fast then s
  else
    let s := freezeFine fast { s with
      sv := { s.sv with fast := fast }
      ce := { s.ce with swap := some (8, 24, false), swapReg := 0x00001808#32 } }
    if !fast then s
    else
      let o := slotOffset 24
      let r := { (slotOf s 8).regs with src0 := calRead s (o + 0x10), src1 := calRead s (o + 0x14), out := 0 }
      setSlot 24 (slotStart { slotOf s 24 with regs := { r with ctl := r.ctl &&& 0xFFFFFFFE#32 } }) s

/-- The head's samples after a frame of a reader: tape speed and skew. -/
def headSamples (s : State) : State :=
  let l := tracking s
  let s := if l.isEmpty then s else { s with sv := { s.sv with speed := meanOf (l.map fun n => (servoRd s n).vel) } }
  coarsePass (match skewOf s with
  | none => s
  | some k => { s with sv := { s.sv with skew := k } })

/-! ### Frames -/

/-- A frame's A and B are both in (R270, R271, R276): its time, speed, count and shift. A frame without both goes by the
count alone and breaks the word. -/
def frameDone (n : Nat) (a b : Option (List Nat)) (s : State) : State :=
  let r := servoRd s n
  let step (x : Nat) : Nat := if r.dir then x - 96 else x + 96
  match a, b with
  | some a, some b =>
    let tm := (a.getD 0 0 + b.getD 0 0) / 2
    let d : Nat := match r.prevTm with | some x => tm - x | none => 0
    let v : Int := 614400 * 2 ^ 24 / (d : Int)
    let r := { r with tm := tm, prevTm := some tm, lpos := if r.known then step r.lpos else r.lpos
                      ival := if d = 0 then r.ival else d
                      vel := if d = 0 then r.vel else (if r.dir then -v else v : Int) }
    let word := if r.vel == (0 : Int) then [] else (frameShift r.vel a b :: r.word).take 40
    let s := setServoRd n { r with word := word } s
    headSamples (match wordBits r.dir word with | none => s | some l => takeWord n l s)
  | _, _ => setServoRd n { r with tm := r.tm + r.ival, prevTm := none, lpos := if r.known then step r.lpos else r.lpos, word := [] } s

/-- A sample of kind AB or CD ends with the newest three bursts, given when all three are valid (R274). -/
def sampleDone (n : Nat) (s : State) : State :=
  match (servoRd s n).bursts with
  | (i, x, _) :: (j, y, _) :: (l, z, kb) :: _ =>
    let three (f : List Nat → List Nat → List Nat → Int) : Option Int :=
      match x, y, z with | some x, some y, some z => some (f x y z) | _, _, _ => none
    if i = 2 ∧ j = 1 ∧ l = 0 then giveSample n true (three fun c b a => sampleAB a b c kb) s
    else if i = 0 ∧ j = 1 ∧ l = 2 then giveSample n true (three fun a b c => sampleAB a b c kb) s
    else if i = 0 ∧ j = 3 ∧ l = 2 then giveSample n false (three fun a d c => sampleCD c d a kb) s
    else if i = 2 ∧ j = 3 ∧ l = 0 then giveSample n false (three fun c d a => sampleCD c d a kb) s
    else s
  | _ => s

/-- A burst of reader `n` is in, its stripes by index, or found invalid. -/
def burstDone (n k : Nat) (res : Option (List Nat)) (s : State) : State :=
  let r := servoRd s n
  let l := ((k, res, r.kb) :: r.bursts).take 6
  let s := setServoRd n { r with bursts := l } s
  let s := match l with
    | (1, b, _) :: (0, a, _) :: _ => if r.dir then s else frameDone n a b s
    | (0, a, _) :: (1, b, _) :: _ => if r.dir then frameDone n a b s else s
    | _ => s
  sampleDone n s

/-- A group of crossings that a wide gap ends, while the reader searches: 15 of bursts A, B and C together or 3 of burst
D. Any other number breaks the pattern. -/
def groupDone (n : Nat) (s : State) : State :=
  let r := servoRd s n
  let l := r.cross
  let s := setServoRd n { r with cross := [], kb := azkOf s (bandOf n) } s
  let s :=
    if l.length = 15 then
      if r.dir then
        burstDone n 0 (some (l.drop 9).reverse) (burstDone n 1 (some (slice l 3 6).reverse) (burstDone n 2 (some (l.take 3).reverse) s))
      else burstDone n 2 (some (l.drop 12)) (burstDone n 1 (some (slice l 6 6)) (burstDone n 0 (some (l.take 6)) s))
    else if l.length = 3 then burstDone n 3 (some (if r.dir then l.reverse else l)) s
    else setServoRd n { servoRd s n with bursts := [], run := 0, word := [], prevTm := none } s
  enterTrack n s

/-- A crossing of reader `n`: kept for its window in TRACK, grouped with its neighbours in a search. -/
def crossingAt (n c : Nat) (s : State) : State :=
  let r := servoRd s n
  match r.st with
  | .idle => s
  | .track => setServoRd n { r with cross := r.cross ++ [c] } s
  | _ =>
    match r.cross.getLast? with
    | none => setServoRd n { r with cross := [c] } s
    | some l =>
      if c ≤ l + travelSubs 10000 (readerSpeed s r) then setServoRd n { r with cross := (r.cross ++ [c]).take 17 } s
      else
        let s := groupDone n s
        setServoRd n { servoRd s n with cross := [c] } s

/-! ### Speed and the readers (R283) -/

/-- The encoders' speed crosses 0.4 m/s, or the mode stops or starts the servo processors: the readers leave for IDLE or
begin to acquire. -/
def servoSpeed (s : State) : State :=
  if servoRuns s && decide (servoMin ≤ (encSpeed s).natAbs) then
    if s.sv.speedAt.isSome then s
    else
      let s := { s with sv := { s.sv with speedAt := some s.tb } }
      forEach (List.range 16) (fun n s => setServoRd n (readerSearch s (servoRd s n)) s) s
  else if s.sv.speedAt.isNone then s
  else
    let s := forEach (List.range 16) (fun n s => setServoRd n (readerIdle (servoRd s n) s.tb.toNat) s) s
    let s := forEach (List.range 8) (fun k s => closeGate k (setServoMod k { servoMod s k with lostAt := none, off := 0, valid := false } s)) s
    badPass { s with sv := { s.sv with speedAt := none } }

/-! ### Cells (R44, R313, R319) -/

/-- More stale items of a roster class (R44). -/
def countStaleN (i k : Nat) (s : State) : State :=
  let c := rosterClass i
  { s with crew := { s.crew with stale := tabSet 0 s.crew.stale c (satAdd (tabGet 0 s.crew.stale c) k) } }

/-- A codeword or cell of lane `l` is discarded (R313, R319). -/
def laneStale (l : Nat) (s : State) : State := setLane l { laneOf s l with stale := satInc (laneOf s l).stale } s

/-- TYPE of a cell. -/
def cellType (c : BitVec 512) : Nat := bits c 508 4

/-- Header field of a cell. -/
def cellField (c : BitVec 512) (o n : Nat) : Nat := bits c (480 + o) n

/-- Sample `k` of `w` bits of a cell's payload. -/
def cellSample (c : BitVec 512) (w k : Nat) : Int := (BitVec.ofNat w (bits c (480 - w * (k + 1)) w)).toInt

/-- A cell that a lane receives is not for the row that received it: reserved types and types of the other direction count
(R313). -/
def strayCell (l : Nat) (c : BitVec 512) (s : State) : State := if 4 ≤ cellType c then laneStale l s else s

/-- The epoch tag of an upstream item of unit `i` (R319): that of the cell's session, one of the last 8. -/
def tagOf (s : State) (l : Nat) (session : BitVec 12) (i : Nat) : Option (BitVec 16) :=
  match (laneOf s l).hist.find? fun h => h.1 == session with
  | none => none
  | some h => (h.2.find? fun x => x.1 == i).map fun x => x.2

/-- A lane delivers cells. -/
def laneDelivers (s : State) (l : Nat) : Bool := decide ((laneOf s l).st = .up)

/-- One servo sample of reader `n` with its index (R272, R314). The first sample after training or a search stands at the
cell's arrival. -/
def servoSample (n idx : Nat) (first : Nat) (x : Int) (s : State) : State :=
  let r := servoRd s n
  let delta := (idx + 2 ^ 22 - r.sidx) % 2 ^ 22
  let at_ := if r.waveAt = 0 then first else r.waveAt + 64 * delta
  let r := if r.waveAt ≠ 0 ∧ delta ≠ 1 then { r with wave := [], armed := none } else r
  let v := readerSpeed s r
  let (r, c) := detect (if v = 0 then 2 ^ 40 else travelSubs 1200 v) { r with sidx := idx } x at_
  let s := setServoRd n r s
  match c with
  | none => s
  | some c => crossingAt n c s

/-- An upstream servo cell (R314): 8 samples of the lane's reader. -/
def execServoSampleCell (t : Time) (lane : BitVec 4) (session : BitVec 12) (cell : BitVec 512) (s : State) :
    Host.Outcome State Fault Refusal :=
  let s := advance t s
  let n := lane.toNat
  if !laneDelivers s n then .next s
  else match tagOf s n session (1204 + n) with
    | none => .next (laneStale n s)
    | some e =>
      if cellType cell ≠ 2 then .next (strayCell n cell s)
      else if !itemAccepted s (1204 + n) e then .next (countStaleN (1204 + n) 8 s)
      else
        let s := servoSpeed s
        match (servoRd s n).st with
        | .idle => .next s
        | _ =>
          let now := 4 * s.tb.toNat
          .next (forEach (List.range 8) (fun k s =>
            servoSample n ((cellField cell 0 22 + k) % 2 ^ 22) (now - 64 * (7 - k)) (cellSample cell 8 k) s) s)

/-- A burst window closes (R273): the burst is valid with exactly 6, 6, 3 or 3 crossings in it. -/
def execBurstWindowClose (t : Time) (reader : BitVec 4) (s : State) : Host.Outcome State Fault Refusal :=
  let s := servoSpeed (advance t s)
  let n := reader.toNat
  let r := servoRd s n
  if r.st ≠ .track ∨ 4 * s.tb.toNat < r.winTo then .next s
  else
    let b := r.nextB
    let l := r.cross.filter fun c => decide (r.winFrom ≤ c) && decide (c < r.winTo)
    let ok := decide (l.length = if b < 2 then 6 else 3)
    let pred := match r.preds.find? fun p => p.1 == b with | some p => p.2 | none => (0, 0)
    let here := if ok then endsOf l else (pred.1 + r.ival, pred.2 + r.ival)
    let r := { r with cross := r.cross.filter fun c => decide (r.winTo ≤ c)
                      preds := (b, here) :: r.preds.filter fun p => p.1 != b }
    let s := burstDone n b (if ok then some (if r.dir then l.reverse else l) else none) (setServoRd n r s)
    let r := servoRd s n
    .next (if r.st = .track then setServoRd n (setWindow s n (burstAfter r.dir b) r) s else s)

/-! ### The combiner (R277, R282) -/

/-- Ramp output of slot `i` (R297): its set-point in LSB. -/
def rampOut (s : State) (i : Nat) : Int := satN 32 (rne (slotOf s i).vals.rampSp 16)

/-- The fine set-point T_k of module `k`: the ramp output of the slot that CE_FINESP names. -/
def fineTarget (s : State) (k : Nat) : Int :=
  rampOut s (bits (if k < 4 then s.ce.finesp0 else s.ce.finesp1) (8 * (k % 4)) 6)

/-- The conditions of R282 for module `k` on its last sample. -/
def gateHolds (s : State) (k : Nat) : Bool :=
  let m := servoMod s k
  hasServo s k && decide (m.err.natAbs < bits m.wi 0 16) && decide (m.m.natAbs < 256 * bits m.limit 16 16)

/-- m̄ (R276): the mean of the mismatches measured within the last 2 frames. -/
def meanMismatch (s : State) (ival : Nat) : State :=
  let l := (List.range 8).filterMap fun k => match (servoMod s k).mAt with
    | none => none
    | some a => if 4 * s.tb.toNat ≤ 4 * a.toNat + 2 * ival then some (servoMod s k).m else none
  if l.isEmpty then s else { s with sv := { s.sv with mbar := meanOf l } }

/-- The combiner takes a module's sample once each of its readers in TRACK has given that sample or missed it (R277). -/
def moduleSample (k : Nat) (ab : Bool) (s : State) : State :=
  let (lo, up) := (2 * k, 2 * k + 1)
  let give (n : Nat) : Option (Option Int) := if ab then (servoRd s n).giveAB else (servoRd s n).giveCD
  let on := [lo, up].filter (readerTracks s)
  if on.isEmpty || on.any (fun n => (give n).isNone) then s
  else
    let val (n : Nat) : Option Int := if readerTracks s n then (give n).getD none else none
    let stamp := (on.map fun n => (servoRd s n).ts.toNat).foldl max 0
    let ival := (on.map fun n => (servoRd s n).ival).foldl max 0
    let rev := (servoRd s (on.headD lo)).dir
    let s := forEach [lo, up] (fun n s =>
      let r := servoRd s n
      setServoRd n (if ab then { r with giveAB := none } else { r with giveCD := none }) s) s
    let m := servoMod s k
    let m := if ab != rev then { m with limit := s.sv.limit, wi := s.sv.wi } else m
    let m' : Option ServoMod := match val lo, val up with
      | some l, some u =>
        let d := satN 32 (u - l)
        some { m with y := asr (l + u) 1, m := d, held := d, single := false, mAt := some s.tb }
      | some l, none => some { m with y := satN 32 (l + asr m.held 1), single := true }
      | none, some u => some { m with y := satN 32 (u - asr m.held 1), single := true }
      | none, none => none
    match m' with
    | none => setServoMod k { m with valid := false } s
    | some m =>
      let e := satN 32 (fineTarget s k - m.y)
      let m := { m with err := e, seq := m.seq + 1, ts := BitVec.ofNat 64 stamp, valid := true
                        off := if 256 * bits m.limit 0 16 ≤ e.natAbs then m.off + 1 else 0 }
      let s := meanMismatch (setServoMod k m s) ival
      if gateHolds s k then badPass (setServoMod k { m with good := (e.natAbs :: m.good).take 4 } s)
      else badPass (closeGate k (setServoMod k { m with good := [] } s))

/-- A module sample (R277). -/
def execModuleSample (t : Time) (m : BitVec 3) (kind : SampleKind) (s : State) : Host.Outcome State Fault Refusal :=
  let s := advance t s
  .next (moduleSample m.toNat (decide (kind = .ab)) s)

/-- The write gate reopens at the first bit of a frame, `bit` its write bit index (R282, R318). -/
def execWriteGateOpen (t : Time) (m : BitVec 3) (bit : BitVec 20) (s : State) : Host.Outcome State Fault Refusal :=
  let s := advance t s
  let k := m.toNat
  let v := servoMod s k
  let ok := !v.gate && decide (s.gl.cur ≠ .hold) && gateHolds s k && decide (v.good.length = 4)
    && v.good.all (fun e => decide (2 * e < bits v.wi 0 16)) && v.closing != some s.tb
  if !ok then .next s
  else
    let s := setServoMod k { v with gate := true } s
    let s := { s with wr := { s.wr with copies := s.wr.copies.map fun c =>
      if c.elem / 128 = k ∧ s.tb.toNat ≤ c.first.toNat then { c with gated := false } else c } }
    let cell := controlCell 2 0 (BitVec.ofNat 480 (bit.toNat * 2 ^ 460))
    .next (emit (.cell (2 * k + 1) cell) (emit (.cell (2 * k) cell) s))

/-- A servo-loss condition reaches its limit (R284): a HOLD cause. -/
def execServoLossLimit (t : Time) (cond : ServoLoss) (s : State) : Host.Outcome State Fault Refusal :=
  let s := servoSpeed (advance t s)
  if lossHolds s cond && !s.sv.bad.contains cond then
    .next (senseFast 4 (holdCause 4 { s with sv := { s.sv with bad := cond :: s.sv.bad } }))
  else .next s

/-- An accepted change of an encoder's lines (R334), with the tests of R20 and R283. -/
def execEncoderEdge (t : Time) (enc : BitVec 1) (a : Bool) (b : Bool) (s : State) : Host.Outcome State Fault Refusal :=
  let s := advance t s
  if !fetching s then .next s
  else
    let s := encMove enc.toNat a b s
    let s := if tapeRests s then s else senseFast 4 { s with gl := { s.gl with moving := true } }
    .next (servoSpeed s)

end Sys2Proof.Machine
end

