-- ==== Sys2Proof/Machine/Tape.lean ====
section
/-!
DEFINITION. The tape as a resource: the tape queue (R114), locating (R90, R427), write sessions that take the tape (R22,
R23, R157), the read-wait limit (R22, R23), wrap changes (R231, R279), and the tape at rest (R20).
-/

namespace Sys2Proof.Machine

/-! ### Targets -/

/-- The head is at path position `x`: less than one nominal data-set length ahead of it lies `x`. DESIGN CHOICE (log entry 37). -/
def headAt (s : State) (x : Nat) : Bool := decide (headPath s ≤ x) && decide (x < headPath s + slotLen)

/-- Path position of the data set a READ or VERIFY needs next, or of its partition's start when that is not known. -/
def readTarget (s : State) (c : InFlight) : Nat :=
  let p := ePart c.entry
  let v := partOf s p
  match blockAt s p c.first with
  | .tape n => (setPosition s p n).getD (v.start * slotLen)
  | _ => v.start * slotLen

/-- Path position that a LOCATE asks for (R90), and the block at the head there: the data set that holds the block, the
end of data on tape where the block is only in the buffer or beyond the end, or the partition's beginning. -/
def locateTarget (s : State) (c : InFlight) : Nat × Nat :=
  let p := ePart c.entry
  let v := partOf s p
  let eod : Nat × Nat := (v.at_, (v.placed.filter fun d => d.kind == 0).foldl (fun m d => max m d.next) 0)
  match eOpt c.entry % 4 with
  | 1 => eod
  | 2 => (v.start * slotLen, ((v.placed.filter fun d => d.kind == 0).foldl (fun m d => min m d.first) eod.2))
  | _ => (match startSet v (eBlock c.entry) with | some d => (d.at_, d.first) | none => eod)

/-- LOCATE asks for a block at or beyond the partition's next block (R90). -/
def locatePast (s : State) (c : InFlight) : Bool :=
  eOpt c.entry % 4 == 0 && decide ((partOf s (ePart c.entry)).next ≤ eBlock c.entry)

/-- Place of a reorderable command in tape-path order. -/
def cmdKey (s : State) (c : InFlight) : Nat :=
  pathKey s (if eOpcode c.entry = 8 then (locateTarget s c).1 else readTarget s c)

/-! ### The tape queue (R114) -/

/-- READ, VERIFY and LOCATE can be reordered; every other tape command is a barrier. -/
def reorderable (c : InFlight) : Bool := [0x02, 0x03, 0x08].contains (eOpcode c.entry)

/-- Tape commands that are queued, chosen or running. -/
def tapeCommands (s : State) : List InFlight :=
  s.hq.inflight.filter fun c => decide (c.stage = .queued) || decide (c.stage = .chosen) || decide (c.stage = .paused)
    || (decide (c.stage = .running) && [0x08, 0x20, 0x21, 0x22, 0x23, 0x24, 0x25].contains (eOpcode c.entry))

/-- A queued command may be chosen as far as barriers go. -/
def barrierAllows (s : State) (c : InFlight) : Bool :=
  (tapeCommands s).all fun d => decide (c.order ≤ d.order) || (reorderable c && reorderable d)

/-- 30 s in TB ticks (R114). -/
def agedTicks : Nat := 48000000000

/-- The queued command chosen next: aged ones in fetch order first, and otherwise the first in tape-path order. -/
def pickTape (s : State) : Option InFlight :=
  let can := (atStage s .queued).filter (barrierAllows s)
  match can.find? fun c => decide (c.tb.toNat + agedTicks ≤ s.tb.toNat) with
  | some c => some c
  | none => (sortBy (fun a b => decide (cmdKey s a < cmdKey s b)) can).head?

/-- Some tape command has been chosen and not completed. -/
def tapeTaken (s : State) : Bool :=
  s.hq.inflight.any fun c => decide (c.stage = .chosen) || decide (c.stage = .paused)
    || (decide (c.stage = .running) && [0x08, 0x20, 0x21, 0x22, 0x23, 0x24, 0x25].contains (eOpcode c.entry))

/-- Some partition's data needs the tape (R23). -/
def writeDue (s : State) : Bool := s.vol.parts.any (fun x => needsTape s x.1 x.2) || !s.wr.images.isEmpty

/-- The mode in which a chosen command works (R21). -/
def workMode (c : InFlight) : Mode :=
  match eOpcode c.entry with
  | 0x02 => .read
  | 0x03 => .verify
  | 0x20 | 0x21 => .thread
  | 0x22 => .write
  | 0x23 => .erase
  | 0x24 => .calibrate
  | 0x25 => .service
  | _ => .locate

/-- A chosen command has no position to seek, or the head is there. -/
def atWork (s : State) (c : InFlight) : Bool :=
  match eOpcode c.entry with
  | 0x02 | 0x03 => headAt s (readTarget s c)
  | 0x08 => false
  | 0x22 => headAt s 0
  | 0x23 => if eOpt c.entry % 4 = 0 then headAt s ((partOf s (ePart c.entry)).start * slotLen) else headAt s 0
  | _ => true

/-- Path position that a chosen command seeks. -/
def workTarget (s : State) (c : InFlight) : Nat :=
  match eOpcode c.entry with
  | 0x02 | 0x03 => readTarget s c
  | 0x08 => (locateTarget s c).1
  | 0x23 => if eOpt c.entry % 4 = 0 then (partOf s (ePart c.entry)).start * slotLen else 0
  | _ => 0

/-- The search for headers along a path begins where the head is (R253). -/
def pathBegins (s : State) : State := { s with rdr := { s.rdr with lastHdr := headPath s, blankAt := none } }

/-- A chosen command goes to work: its own mode where the head is at its start position, LOCATE otherwise; a LOCATE
itself starts with its own row. A read path begins at its starting reef point. -/
def goToWork (c : InFlight) (s : State) : State :=
  let s := pathBegins s
  if eOpcode c.entry = 8 then s
  else if atWork s c then
    let s := setMode (workMode c) s
    if workMode c = .read ∨ workMode c = .verify then readBegins s else s
  else setMode .locate { s with rdr := { s.rdr with locate := some (workTarget s c, c.order) } }

/-- The write session under way is told to end: its data closes, and its burst ends (R14, R220). -/
def stopWriting (s : State) : State :=
  let s := endSessions s
  { s with wr := { s.wr with ending := s.wr.part.isSome } }

/-- SERVICE lasts until TELLTALE_STOP (R99): only SERVICE commands are chosen meanwhile. -/
def serviceLasts (s : State) : Bool := decide (s.gl.cur = .service) && decide (s.tt.unit.st ≠ .stopped)

/-- The tape is free and Coxswain chooses the next queued command (R114). A READ or VERIFY waits while a write session
is open or data needs the tape (R22, R23); any other command ends an open session that holds the tape (R14). A command
that needs the channel dies waits until all of them run (R50), and a start of motion until the tape is at rest (R20). -/
def execTapeCommandChoose (t : Time) (s : State) : Host.Outcome State Fault Refusal :=
  let s := advance t s
  if !fetching s || decide (s.gl.cur = .hold) || tapeTaken s || (decide (s.gl.cur = .idle) && s.gl.moving) then .next s
  else match pickTape s with
    | none => .next (tapeRest s)
    | some c =>
      let read := [0x02, 0x03].contains (eOpcode c.entry)
      if serviceLasts s && eOpcode c.entry != 0x25 then .next s
      else if s.wr.part.isSome then .next (if read then s else stopWriting s)
      else if read && (anySession s || writeDue s) then .next s
      else if !read && !isTableEnd c && writeDue s then .next s
      else if !diesRun s && eOpcode c.entry != 0x25 then .next (wakeDies s)
      else .next (goToWork c (setCmd { c with stage := .chosen, mark := s.tb } s))

/-! ### LOCATE (R90) -/

/-- A LOCATE ends at its target: END_OF_DATA for a block not assigned, and the block at the head in RESULT0. -/
def locateEnds (c : InFlight) (s : State) : State :=
  tapeRest (tidy (complete c.ref (if locatePast s c then 0x0202 else 0) (locateTarget s c).2 0 false s))

/-- A LOCATE away from a partition's append point ends its session (R14). -/
def locateLeaves (x : Nat) (s : State) : State :=
  forEach s.vol.parts (fun y s => if y.2.session.isSome ∧ y.2.at_ ≠ x then endSession y.1 s else s) s

/-- A chosen LOCATE moves the head (R90): it ends at once where the head is at its target. -/
def execLocate (t : Time) (ref : CmdRef) (s : State) : Host.Outcome State Fault Refusal :=
  let s := advance t s
  match findCmd s ref with
  | none => .next s
  | some c =>
    if eOpcode c.entry ≠ 0x08 ∨ c.stage ≠ .chosen ∨ s.rdr.locate.isSome then .next s
    else
      let x := (locateTarget s c).1
      let s := locateLeaves x s
      if headAt s x then .next (locateEnds c s)
      else .next (setMode .locate { s with rdr := { s.rdr with locate := some (x, c.order) } })

/-- The move under way reaches its target, and the mode moves on (R21, R90). -/
def execLocateTargetReached (t : Time) (s : State) : Host.Outcome State Fault Refusal :=
  let s := advance t s
  match s.rdr.locate with
  | none => .next s
  | some (_, o) =>
    if s.gl.cur ≠ .locate then .next { s with rdr := { s.rdr with locate := none } }
    else
      let s := pathBegins { s with rdr := { s.rdr with locate := none } }
      if o = 0 then .next (if s.wr.part.isSome then setMode .write s else tapeRest s)
      else match s.hq.inflight.find? fun c => c.order == o && (decide (c.stage = .chosen) || decide (c.stage = .running)) with
        | none => .next (tapeRest s)
        | some c =>
          if eOpcode c.entry = 8 then .next (locateEnds c s)
          else
            let s := setMode (workMode c) s
            .next (if workMode c = .read ∨ workMode c = .verify then readBegins s else s)

/-! ### Write sessions (R22, R23, R157) -/

/-- Data sets of a session that no housekeeping write covers are not written (R157 item 4): the records still to be
packed, up to the session's end, are lost as in a whole-set write failure. -/
def failStream (p : Nat) (s : State) : State :=
  let v := partOf s p
  let stop := ((v.closes.find? fun c => c.code == 3).map fun c => c.seq).getD s.vol.accepted
  let out := (unpacked v).filter fun e => decide (e.seq < stop)
  let recs := out.filter fun e => decide (e.kind ≠ .void)
  let ranges := lostRanges p (recs.map fun e => { block := e.block, fn := e.fn, seq := e.seq, void := false })
  let s := setPart p { v with
    elems := v.elems.filter fun e => !out.contains e
    closes := v.closes.filter fun c => decide (stop < c.seq)
    carried := v.carried ++ ranges.map fun l => (l.first, l.count) } s
  let s := forEach ranges (fun l s => addLosses 2 (((recs.find? fun e => e.block == l.first).map fun e => e.seq).getD 0) [l] s) s
  tidy (forEach out (fun e s => releaseRecord p e.block s) s)

/-- Housekeeping takes a new generation and goes to tape, at PSA 0 where two nominal lengths of the reserve do not lie
ahead (R200). -/
def writeHousekeeping (s : State) : State :=
  let g := (s.vol.gen + 1) % 2 ^ 24
  let x := if s.vol.hkPsa + 2 ≤ 1024 then s.vol.hkPsa else 0
  let s := { s with vol := { s.vol with gen := g, hkPsa := x + 1 } }
  emit (.housekeeping g x (housekeeping g s.vol.serial s.vol.hwm s.vol.count s.vol.parts s.vol.delta)) s

/-- SESSION_HWM covers session `n` (R157): a rewrite of housekeeping raises it where it does not; false where that
fails. -/
def coverSession (n : Nat) (hk : HkWrite) (s : State) : Bool × State :=
  if n ≤ s.vol.hwm then (true, s)
  else if !hk.ok then (false, s)
  else (true, writeHousekeeping { s with vol := { s.vol with hwm := min (n + 1023) 0xFFFFFFFE } })

/-- The partition whose data takes the tape next: the one whose data sets are assembled already, and otherwise the
lowest-numbered one that needs tape. -/
def writeNext (s : State) : Option Nat :=
  match s.wr.images with
  | d :: _ => some d.part
  | [] => (s.vol.parts.find? fun x => needsTape s x.1 x.2).map fun x => x.1

/-- The tape is free for write data: a command that waits for its own flush leaves it free. -/
def freeToWrite (s : State) : Bool :=
  s.hq.inflight.all fun c => !((decide (c.stage = .chosen) && !(eOpcode c.entry == 0x23 && c.count != 0)) || decide (c.stage = .paused)
    || (decide (c.stage = .running) && [0x08, 0x20, 0x22, 0x24, 0x25].contains (eOpcode c.entry))
    || (decide (c.stage = .running) && eOpcode c.entry == 0x23 && eOpt c.entry % 4 != 0))

/-- Accepted write data that needs tape takes it (R23): SESSION_HWM first (R157), then a burst at k₀ (R261), in WRITE
where the append point is under the head and through LOCATE otherwise. -/
def execWriteSessionStart (t : Time) (hk : HkWrite) (s : State) : Host.Outcome State Fault Refusal :=
  let s := advance t s
  if !fetching s || decide (s.gl.cur = .hold) || s.wr.part.isSome || !freeToWrite s || calReq s
    || (decide (s.gl.cur = .idle) && s.gl.moving) || serviceLasts s then .next s
  else match writeNext s with
    | none => .next s
    | some p =>
      if !diesRun s then .next (wakeDies s)
      else
        let v := partOf s p
        let (ok, s) := coverSession (if s.wr.images.isEmpty then packSession v else 0) hk s
        if !ok then .next (failStream p s)
        else
          let s := { s with
            wr := { s.wr with part := some p, block := none, ending := v.session.isNone, ord := 0 }
            sm := { s.sm with reef := reefFor s (demandOf s p) (parityOf s v), trim := 0, readSide := false, hitch := .none } }
          if headAt s v.at_ then .next (setMode .write s)
          else .next (setMode .locate { s with rdr := { s.rdr with locate := some (v.at_, 0) } })

/-- READ_WAIT in TB ticks (R22, R95). -/
def readWaitTicks (s : State) : Nat := param s 1 0 * 1600000

/-- A READ or VERIFY has waited for the tape longer than the read-wait limit (R22). -/
def readOverdue (s : State) : Bool :=
  (atStage s .queued).any fun c => [0x02, 0x03].contains (eOpcode c.entry) && decide (c.mark.toNat + readWaitTicks s ≤ s.tb.toNat)

/-- The read-wait limit expires: Coxswain ends the read path at which write data waits, its commands going back to the
queue (R23), or the write sessions for which reads wait (R22). -/
def execReadWaitExpiry (t : Time) (s : State) : Host.Outcome State Fault Refusal :=
  let s := advance t s
  if (s.gl.cur = .read ∨ s.gl.cur = .verify) ∧ writeDue s then
    .next { s with hq := { s.hq with inflight := s.hq.inflight.map fun c =>
      if c.stage = .chosen ∧ [0x02, 0x03].contains (eOpcode c.entry) then { c with stage := .queued, mark := s.tb } else c } }
  else if readOverdue s && anySession s then .next (stopWriting s)
  else .next s

/-! ### Wraps and rest -/

/-- The fine lateral set-points of wrap `w`: SV_Y0_k + 102,400·w (R279). -/
def fineTargets (w : Nat) (s : State) : State :=
  forEach (List.range 8) (fun k s =>
    let v := slotOf s k
    if v.regs == slotRegsDefault then s
    else
      let y := i32 (tabGet 0xFFEE0800#32 s.sv.y0 k) + 102400 * w
      setSlot k { v with regs := { v.regs with ramp := { v.regs.ramp with tgt := w32 y } } } s) s

/-- A wrap change (R231, R236, R238, R279): the zone tables of the wrap are loaded, the front ends start anew, the fine
set-points move, and what is counted per wrap starts again (R283, R323). Every re-admission of R46 takes effect at the end
of its CALIBRATE run, so none waits for this boundary. -/
def execWrapChange (t : Time) (wrap : Nat) (s : State) : Host.Outcome State Fault Refusal :=
  let s := advance t s
  if 24 ≤ wrap ∨ !s.gl.cart then .next s
  else
    let s := { s with sv := { s.sv with wrap := wrap } }
    let s := forEach (List.range 16) (fun l s =>
      setServoRd l { servoRd s l with lostN := 0 } (setLane l { laneOf s l with losses := 0 } s)) s
    let s := { s with rch := { s.rch with fronts := [], votes := [], tuple := [], tupleIn := [], held := [] } }
    .next (fineTargets wrap (reloadZones s))

/-- The tape is at rest, as both encoders show it (R20): MOVING clears, LIVE_SERVO with it, and a backhitch waits ahead of
its splice (R265). -/
def execTapeAtRest (t : Time) (s : State) : Host.Outcome State Fault Refusal :=
  let s := advance t s
  if !tapeRests s then .next s
  else
    let s := { s with
      gl := { s.gl with moving := false }
      sm := { s.sm with hitch := if s.sm.hitch = .stopping then .waiting else s.sm.hitch } }
    .next (senseFast 4 (servoSpeed s))

end Sys2Proof.Machine
end

