-- ==== Sys2Proof/Machine/Writer.lean ====
section
/-!
DEFINITION. Writing (chapters 8, 9 and 11): track map and spares (R183, R221 to R223), rows and separators (R188, R189,
R215, R216), wrap and partition ends (R180), whole-set attempts (R217 to R219), read-while-write verify (R212 to R214) and
the end of a burst (R220, R265, R325).
-/

namespace Sys2Proof.Machine

/-! ### Lanes, tracks and spares (R183, R221 to R223, R325) -/

/-- The Shroud lane of element channel `e` (R310). -/
def elemLane (e : Nat) : Nat := 2 * (e / 128) + e % 128 / 64

/-- The lane of element channel `e` is not up: the channel counts as benched and not replaced (R325). -/
def laneDown (s : State) (e : Nat) : Bool := decide ((laneOf s (elemLane e)).st ≠ .up)

/-- Element channel of logical track `t` on a freshly calibrated head (R183). -/
def freshElem (t : Nat) : Nat := 128 * (t / 124) + t % 124

/-- Element channel that writes logical track `t` (R183, R222). -/
def trackElem (s : State) (t : Nat) : Nat := tabGet (freshElem t) s.wr.map t

/-- The logical tracks of module `m`. -/
def moduleTracks (m : Nat) : List Nat := List.range' (124 * m) 124

/-- The logical track that element channel `e` carries, if any. -/
def elemTrack (s : State) (e : Nat) : Option Nat := (moduleTracks (e / 128)).find? fun t => trackElem s t == e

/-- Element channel `e` is benched. -/
def elemBenched (s : State) (e : Nat) : Bool := decide ((crewOf s e).st = .benched)

/-- The spare channels of module `m`, lowest first. -/
def moduleSpares (s : State) (m : Nat) : List Nat := (moduleElems m).filter fun e => decide ((crewOf s e).st = .spare)

/-- Tracks of module `m` whose benched channel is not replaced yet. -/
def tracksWaiting (s : State) (m : Nat) : List Nat := (moduleTracks m).filter fun t => elemBenched s (trackElem s t)

/-- Module `m` has a spare left for one more benched channel. -/
def spareLeft (s : State) (m : Nat) : Bool := decide ((tracksWaiting s m).length < (moduleSpares s m).length)

/-- Frames of element channel `e` whose results are awaited fail: their verify data is discarded (R44, R222). -/
def doomCopies (e : Nat) (s : State) : State :=
  { s with wr := { s.wr with copies := s.wr.copies.map fun c => if c.elem = e then { c with doomed := true } else c } }

/-- Element channel `e` is benched (R45, R222). -/
def benchElem (e cause : Nat) (s : State) : State := doomCopies e (setUnitState e .benched cause s)

/-- A channel that meets R221 is benched with CAUSE 1, or becomes degraded where its module has no spare left (R223). -/
def benchOrDegrade (e : Nat) (s : State) : State :=
  if (crewOf s e).st ≠ .active ∨ (elemOf s e).degraded then s
  else if spareLeft s (e / 128) then benchElem e 1 s
  else event 0 0 0x11 [BitVec.ofNat 64 e] (setElem e { elemOf s e with degraded := true } s)

/-- The track map latches (R222): the track of every benched channel goes to the lowest spare of its module, which
becomes active. -/
def latchMap (s : State) : State :=
  forEach ((List.range 8).flatMap (tracksWaiting s)) (fun t s =>
    match (moduleSpares s (t / 124)).head? with
    | none => s
    | some e =>
      elemFresh e (setUnitState e .active 0 { s with wr := { s.wr with map := tabSet (freshElem t) s.wr.map t e } })) s

/-- Rewrites avoid track `t`: its channel is benched and not replaced, degraded, or on a lane that is down (R216, R325). -/
def trackAvoided (s : State) (t : Nat) : Bool :=
  let e := trackElem s t
  decide ((crewOf s e).st ≠ .active) || (elemOf s e).degraded || laneDown s e

/-! ### Rows (R188, R214, R215, R317) -/

/-- The thresholds a block takes (R225). -/
def limitsNow (s : State) : Limits :=
  { weakLlr := bits s.fm.vfy 0 9, weakMax := bits s.fm.vfy 16 14, failRun := bits s.fm.bench 0 8, failWin := bits s.fm.bench 16 9 }

/-- TB ticks that a row takes at the speed set-point (R214, R264). -/
def rowTicks (s : State) : Nat := rowLen * 1600000000 / speedSet s

/-- Verify window D in TB ticks (R214). -/
def verifyWindow (s : State) : Nat := ceilDiv (4 * slotLen * 1600000000) (speedSet s)

/-- One frame of a row: the track, the data set and the codeword, or a filler. -/
structure RowFrame where
  track : Nat
  set   : DataSet
  attempt : Nat
  cw    : Nat
deriving DecidableEq, Repr

/-- Header and channel bits of a frame in row `row` of block `b` (R183, R188). -/
def rowFrameBits (b : Block) (row : Nat) (f : RowFrame) : Nat × List Bool :=
  let e := b.map.getD f.track 0
  let filler := f.cw == fillerCw
  let h : Header :=
    { kind := f.set.kind, part := f.set.part, dsn := f.set.dsn, attempt := f.attempt, cw := f.cw, row := row
      lag := if filler then 0 else b.set.dsn - f.set.dsn, elem := e % 128, dir := b.at_ / wrapLen % 2 }
  (e, frameBits h (c1Encode (if filler then List.replicate 1024 0 else infoBlock f.set.payload f.cw)))

/-- The copy of a frame whose verify result is awaited. A codeword of a data set that is to be written again is not
wanted. -/
def rowCopy (s : State) (b : Block) (row id : Nat) (f : RowFrame) : Copy :=
  let e := b.map.getD f.track 0
  let first := s.tb + 16000
  let live := s.wr.sets.any fun r => r.set.dsn == f.set.dsn && !r.failed
  let active := decide ((crewOf s e).st = .active)
  let down := laneDown s e
  { id := id, dsn := f.set.dsn, cw := if live then f.cw else fillerCw, block := b.set.dsn, row := row, track := f.track, elem := e
    first := first, window := verifyWindow s, limits := b.limits, counts := active && !down, doomed := !active || down
    lane := down, last := first + BitVec.ofNat 64 (rowTicks s), gated := !(servoMod s (e / 128)).gate }

/-- Row `row` of block `b` goes out with the given frames, and the block counts it. -/
def sendRow (b : Block) (fs : List RowFrame) (s : State) : State :=
  let row := b.rows
  let copies := fs.zipIdx.map fun x => rowCopy s b row (s.wr.nextCopy + x.2) x.1
  let s := emit (.row b.set.part b.set.dsn row (fs.map (rowFrameBits b row))) s
  { s with wr := { s.wr with
    copies := s.wr.copies ++ copies, nextCopy := s.wr.nextCopy + fs.length, block := some { b with rows := row + 1, sep := false } } }

/-- A nominal row (R188). -/
def nominalRow (b : Block) (s : State) : State :=
  sendRow b ((List.range 992).map fun t => { track := t, set := b.set, attempt := b.attempt, cw := 992 * b.rows + t }) s

/-- The unsettled data set of a rewrite. -/
def runOf (s : State) (dsn : Nat) : Option SetRun := s.wr.sets.find? fun r => r.set.dsn == dsn && !r.failed

/-- A queued codeword may go into a row of block `b` that is dispatched now (R215, R217). -/
def eligible (s : State) (b : Block) (q : Rewrite) : Bool :=
  decide (q.tb.toNat < s.tb.toNat) && (match runOf s q.dsn with
    | none => false
    | some r => decide (r.set.dsn ≤ b.set.dsn) && decide (b.set.dsn ≤ r.set.dsn + 7))

/-- Queued codewords in order on logical tracks in ascending order (R216): a track that rewrites avoid takes none, and a
codeword goes to the track whose copy of it failed only where no other track is free. -/
def placeRewrites : List Rewrite → List Nat → List (Nat × Rewrite)
  | [], _ => []
  | q :: rest, free =>
    match (free.find? fun t => t != q.track), free with
    | some t, _ => (t, q) :: placeRewrites rest (free.filter fun x => x != t)
    | none, t :: _ => (t, q) :: placeRewrites rest (free.filter fun x => x != t)
    | none, [] => []

/-- A rewrite row (R216): the placed codewords leave the queue and count as rewrites of their data sets, the other
positions hold fillers. -/
def rewriteRow (b : Block) (s : State) : State :=
  let free := (List.range 992).filter fun t => !trackAvoided s t
  let put := placeRewrites (s.wr.queue.filter (eligible s b)) free
  let taken := put.map fun x => x.2
  let frame (t : Nat) : RowFrame :=
    match put.find? fun x => x.1 == t with
    | some (_, q) =>
      (match runOf s q.dsn with
       | some r => { track := t, set := r.set, attempt := r.attempt, cw := q.cw }
       | none => { track := t, set := b.set, attempt := b.attempt, cw := fillerCw })
    | none => { track := t, set := b.set, attempt := b.attempt, cw := fillerCw }
  let s := sendRow b ((List.range 992).map frame) s
  { s with
    wr := { s.wr with
      queue := s.wr.queue.filter fun q => !taken.contains q
      sets := s.wr.sets.map fun r => { r with rewrites := r.rewrites + (taken.filter fun q => q.dsn == r.set.dsn).length } }
    fm := { s.fm with rewrites := satAdd s.fm.rewrites taken.length } }

/-! ### Settled and failed data sets (R127, R195, R217 to R219, R256) -/

/-- Consecutive block numbers as ranges. -/
def blockRanges : List Nat → List (Nat × Nat)
  | [] => []
  | b :: r =>
    match blockRanges r with
    | (f, n) :: rest => if f = b + 1 then (b, n + 1) :: rest else (b, 1) :: (f, n) :: rest
    | [] => [(b, 1)]

/-- Elements of partition `p` that lie whole in settled or failed data sets leave the buffer (R256). -/
def dropElements (p : Nat) (s : State) : State :=
  let held := ((s.wr.sets.filter fun r => !r.failed && decide (r.passed.length < 7936)).map fun r => r.set) ++ s.wr.images
    ++ s.wr.again.map fun x => x.2
  let kept (e : Element) : Bool := !wholly e || held.any fun d => d.part == p && d.owned.any fun o => o.block == e.block
  let v := partOf s p
  let out := v.elems.filter fun e => !kept e
  forEach out (fun e s => releaseRecord p e.block s) (setPart p { v with elems := v.elems.filter kept } s)

/-- A data set is settled: every codeword has a passing copy, and the partition holds it on tape. -/
def setSettles (r : SetRun) (s : State) : State :=
  let p := r.set.part
  let v := partOf s p
  let d : Placed :=
    { dsn := r.set.dsn, at_ := r.at_, kind := r.set.kind, session := r.set.session, first := r.set.first, next := r.set.next
      contLen := r.set.contLen }
  let void := blockRanges ((r.set.owned.filter fun o => o.void).map fun o => o.block)
  let v := { v with
    placed := sortBy (fun a b => decide (a.dsn < b.dsn)) (d :: v.placed.filter fun x => x.dsn != d.dsn)
    gone := v.gone ++ r.set.carried ++ void
    eodPsa := if d.kind = 3 then d.at_ / slotLen else v.eodPsa
    eodDsn := if d.kind = 3 then d.dsn else v.eodDsn }
  dropElements p (setPart p v s)

/-- A data set fails for good (R219, R180): its records are lost, its TYPE 2 entries go to the next data set (R195). -/
def setFails (d : DataSet) (s : State) : State :=
  let p := d.part
  let out := d.owned.filter fun o => !o.void
  let ranges := lostRanges p out
  let v := partOf s p
  let v := { v with
    elems := v.elems.map fun e => if out.any (fun o => o.block == e.block) then { e with lost := true } else e
    carried := v.carried ++ d.carried ++ ranges.map fun l => (l.first, l.count) }
  let s := setPart p v { s with
    wr := { s.wr with
      sets := s.wr.sets.map fun r => if r.set.dsn = d.dsn then { r with failed := true } else r
      queue := s.wr.queue.filter fun q => q.dsn != d.dsn
      copies := s.wr.copies.map fun c => if c.dsn = d.dsn then { c with cw := fillerCw } else c }
    fm := { s.fm with wset := putBits s.fm.wset 16 16 (min 65535 (bits s.fm.wset 16 16 + 1)) } }
  let s := forEach ranges (fun l s =>
    addLosses 2 (((out.find? fun o => o.block == l.first).map fun o => o.seq).getD 0) [l] s) s
  tidy (dropElements p s)

/-- Data sets `d` and those after it are to be written again (R218, R180): `next` gives the ATTEMPT of each. -/
def goBack (d : Nat) (next : SetRun → Nat) (s : State) : State :=
  let back := sortBy (fun a b => decide (a.set.dsn < b.set.dsn)) (s.wr.sets.filter fun r => decide (d ≤ r.set.dsn) && !r.failed)
  { s with wr := { s.wr with
    again := (back.map fun r => (next r, r.set)) ++ s.wr.again
    sets := s.wr.sets.filter fun r => decide (r.set.dsn < d) || r.failed
    queue := s.wr.queue.filter fun q => decide (q.dsn < d)
    copies := s.wr.copies.map fun c => if d ≤ c.dsn then { c with cw := fillerCw } else c } }

/-- The attempt of a data set failed only through frames written while a lane was not active (R325): its queued
codewords all come from such frames. -/
def laneOnly (s : State) (dsn : Nat) : Bool :=
  let q := s.wr.queue.filter fun q => q.dsn == dsn
  !q.isEmpty && q.all fun q => q.lane

/-- Attempts of some data sets fail together (R217 to R219, R325): attempt 2 is the end of its data set, and the others
go back from the lowest on. -/
def attemptsFail (dsns : List Nat) (s : State) : State :=
  let runs := s.wr.sets.filter fun r => dsns.contains r.set.dsn && !r.failed
  let counted := runs.filter fun r => !laneOnly s r.set.dsn
  let s := { s with fm := { s.fm with wset := putBits s.fm.wset 0 16 (min 65535 (bits s.fm.wset 0 16 + counted.length)) } }
  let ends := counted.filter fun r => decide (2 ≤ r.attempt)
  let backs := runs.filter fun r => !(ends.any fun e => e.set.dsn == r.set.dsn)
  let s := forEach ends (fun r s => setFails r.set s) s
  match (sortBy (fun a b => decide (a < b)) (backs.map fun r => r.set.dsn)).head? with
  | none => s
  | some d =>
    goBack d (fun r => if counted.any (fun c => c.set.dsn == r.set.dsn) then r.attempt + 1 else r.attempt) s

/-- Data sets of which a queued codeword can no longer be placed: block d + 7 has closed (R217). -/
def unplaceable (s : State) (b : Block) : List Nat :=
  ((s.wr.queue.filter fun q => decide (q.dsn + 7 < b.set.dsn) || (b.sep && decide (q.dsn + 7 ≤ b.set.dsn))).map fun q => q.dsn).eraseDups

/-- Data sets of which a further rewrite in this row would be the 249th of the attempt (R217). -/
def overRewritten (s : State) (b : Block) : List Nat :=
  let q := s.wr.queue.filter (eligible s b)
  ((s.wr.sets.filter fun r => !r.failed && decide (248 < r.rewrites + (q.filter fun x => x.dsn == r.set.dsn).length)
    && q.any fun x => x.dsn == r.set.dsn).map fun r => r.set.dsn)

/-! ### Blocks and bursts (R180, R189, R216, R220, R265) -/

/-- Some codeword of the burst is neither resolved nor of a failed data set (R220). -/
def unresolved (s : State) : Bool := s.wr.sets.any fun r => !r.failed && decide (r.passed.length < 7936)

/-- The data set that the burst of partition `p` writes next, with its ATTEMPT, and the state without it: one to be
written again, one assembled behind the last, or one that the packing loop closes now (R194, R218, R265). -/
def takeNext (p : Nat) (s : State) : Option (DataSet × Nat × State) :=
  match s.wr.again.find? fun x => x.2.part == p with
  | some (a, d) => some (d, a, { s with wr := { s.wr with again := s.wr.again.filter fun x => x.2 != d } })
  | none =>
    match s.wr.images with
    | d :: rest => if d.part = p then some (d, 0, { s with wr := { s.wr with images := rest } }) else none
    | [] =>
      match nextSets p (spanParity s) (partOf s p) with
      | ([], _) => none
      | (d :: more, v) =>
        let used : Int := (packableBytes (partOf s p) : Int) - packableBytes v
        some (d, 0, { setPart p v s with
          wr := { s.wr with images := more }
          sm := { s.sm with inMs := tabSet 0 s.sm.inMs p (tabGet 0 s.sm.inMs p - used) } })

/-- The block written last was an end of data: the burst ends with it, unless data sets are to be written again (R197). -/
def afterEod (s : State) (p : Nat) : Bool :=
  (match s.wr.block with | some b => b.set.kind == 3 | none => false) && !(s.wr.again.any fun x => x.2.part == p)

/-- Another block follows in this burst: every lane is up, and there is a data set to write. -/
def goesOn (s : State) (p : Nat) : Bool := lanesUp s && !afterEod s p && (takeNext p s).isSome

/-- The burst ends (R220). It ends the write of the partition where its session has ended and all is written, and
otherwise the tape backhitches: an underrun (R265), or a lane that is lost (R325). -/
def burstEnds (p : Nat) (s : State) : State :=
  let v := partOf s p
  let done := afterEod s p || (v.session.isNone && (takeNext p s).isNone)
  let at_ := match s.wr.block with | none => v.at_ | some b => if b.set.kind = 3 then b.at_ else s.wr.pos
  let s := setPart p { v with at_ := at_ } { s with wr := { s.wr with block := none, sets := [], queue := [], ord := 0 } }
  let s :=
    if done then { s with wr := { s.wr with part := none, ending := false } }
    else if (takeNext p s).isSome then { s with sm := { s.sm with hitch := .stopping, laneStop := true, resumeK := s.sm.reef } }
    else underrun p s
  let s := tidy s
  if done then tapeRest s else s

/-- The block's separator follows (R216): the block closes, and the burst with it where nothing follows and all is
resolved. -/
def separatorRow (p : Nat) (b : Block) (s : State) : State :=
  let s := emit (.separator p b.set.dsn) s
  let s := { s with wr := { s.wr with
    block := some { b with sep := true }, pos := b.at_ + b.rows * rowLen + sepLen
    rows256 := ((b.rows - 8, b.rows) :: s.wr.rows256).take 256 } }
  if goesOn s p || unresolved s then s else burstEnds p s

/-- A further rewrite row with the separator behind it stays before the wrap end and the partition end (R180). -/
def rowFits (s : State) (b : Block) : Bool :=
  decide (b.at_ + (b.rows + 1) * rowLen + sepLen ≤ segmentEnd (partOf s b.set.part) b.at_)

/-- A partition block can begin after path position `x`. -/
def roomAfter (s : State) (p x : Nat) : Bool := (beginAt (partOf s p) 25 x).isSome

/-- The block cannot take the rewrite row it needs (R180): its own data set is written again on the next wrap where one
of its codewords waits for a rewrite; at the partition end it fails, with every data set whose codewords wait. -/
def blockCut (p : Nat) (b : Block) (s : State) : State :=
  let x := b.at_ + b.rows * rowLen + sepLen
  let own := s.wr.queue.any fun q => q.dsn == b.set.dsn
  let s :=
    if roomAfter s p x then (if own then goBack b.set.dsn (fun r => r.attempt) s else s)
    else
      let out := s.wr.sets.filter fun r => !r.failed && s.wr.queue.any fun q => q.dsn == r.set.dsn
      forEach out (fun r s => setFails r.set s) s
  separatorRow p b s

/-- Where the burst's last block reaches 56 rewrite rows or the wrap end with codewords unresolved (R220, R180). -/
def lastBlockFull (p : Nat) (b : Block) (s : State) : State :=
  if 64 ≤ b.rows then
    let out := (s.wr.sets.filter fun r => !r.failed && decide (r.passed.length < 7936)).map fun r => r.set.dsn
    separatorRow p b (attemptsFail out s)
  else blockCut p b s

/-- The dispatch point of the row after the last one of a block (R216, R220). -/
def afterRows (p : Nat) (b : Block) (s : State) : State :=
  let s := attemptsFail (overRewritten s b) s
  let more := s.wr.queue.any (eligible s b)
  let waits := !goesOn s p && unresolved s
  if more || waits then
    if decide (b.rows < 64) && rowFits s b then rewriteRow b s
    else if waits then lastBlockFull p b s
    else if b.rows < 64 then blockCut p b s
    else separatorRow p b s
  else separatorRow p b s

/-- The block of data set `d` begins at distance `x`, the write before it having ended at `pos`: the backlog is told to the
ramp, a separator and, at the first distance of a wrap, the lead-in are laid, and row 0 follows (R189, R222, R265). -/
def beginSet (p : Nat) (d : DataSet) (a x pos : Nat) (b : Int) (s : State) : State :=
  let v := partOf s p
  let s := paceWrite b s
  let begins := s.wr.block.isNone || x != pos
  let lead := begins && (x % wrapLen == 0 || x == v.start * slotLen)
  let s := if begins then emit (.separator p d.dsn) s else s
  let at_ := if lead then x + sepLen else x
  let blk : Block :=
    { ord := s.wr.ord, set := d, attempt := a, rows := 0, sep := false, map := (List.range 992).map (trackElem s)
      limits := limitsNow s, at_ := at_ }
  let run : SetRun := { set := d, attempt := a, at_ := at_, rewrites := 0, passed := [], failed := false }
  nominalRow blk { s with wr := { s.wr with
    ord := s.wr.ord + 1, sets := (s.wr.sets.filter fun r => r.set.dsn != d.dsn) ++ [run] } }

/-- A data set takes its block at the distance found for it, or fails where none is left (R180). -/
def placeSet (p : Nat) (d : DataSet) (a : Nat) (at_ : Option Nat) (pos : Nat) (b : Int) (s : State) : State :=
  match at_ with
  | none => setFails d s
  | some x => beginSet p d a x pos b (latchMap s)

/-- The next data set, taken off the sets to write, takes its block (R180). -/
def rowTaken (p : Nat) (next : Option (DataSet × Nat × State)) (s : State) : State :=
  let v := partOf s p
  match next with
  | none => s
  | some (d, a, s1) =>
    let pos := if s.wr.block.isNone then v.at_ else s.wr.pos
    placeSet p d a (beginAt v 25 pos) pos (backlog v) s1

/-- The dispatch point of a block's row 0 (R189, R222, R262, R263, R265): the next data set takes its block, after a
separator of its own where the burst begins or a wrap does; a data set that finds no room fails (R180). -/
def rowZero (p : Nat) (s : State) : State :=
  if !goesOn s p then
    if unresolved s then
      match s.wr.block with
      | some b =>
        if decide (b.rows < 64) && rowFits s b then rewriteRow b s
        else if s.wr.copies.all (fun c => c.cw == fillerCw) then
          goBack (((s.wr.queue.map fun q => q.dsn).foldl min b.set.dsn)) (fun r => r.attempt) s
        else s
      | none => s
    else if s.wr.block.isSome || !(takeNext p s).isSome then burstEnds p s
    else s
  else rowTaken p (takeNext p s) s

/-- A row's dispatch point (R215, R216). -/
def execRowDispatch (t : Time) (s : State) : Host.Outcome State Fault Refusal :=
  let s := advance t s
  match s.wr.part with
  | none => .next s
  | some p =>
    if s.gl.cur ≠ .write ∨ s.sm.hitch ≠ .none then .next s
    else match s.wr.block with
      | none => .next (rowZero p s)
      | some b =>
        if b.rows < 8 then .next (nominalRow b s)
        else
          let s := attemptsFail (unplaceable s b) s
          .next (if b.sep then rowZero p s else afterRows p b s)

/-! ### Verify (R212 to R214, R221) -/

/-- What a frame's verify observed passes (R212, R213). -/
def obsPasses (c : Copy) (o : VerifyObs) : Bool :=
  o.syncFound && o.hdrDecoded && decide (o.hdrFixed ≤ 2) && o.hdrEqual && o.converged && o.bitsEqual && decide (o.weak ≤ c.limits.weakMax)

/-- The frame's result enters the benching statistics of its channel (R221, R225). -/
def elemResult (c : Copy) (failed : Bool) (s : State) : State :=
  let v := elemOf s c.elem
  if c.counts && !c.gated then
    let w := (failed :: v.window).take 256
    let v := { v with window := w, run := if failed then v.run + 1 else 0 }
    let s := setElem c.elem v s
    let hits := (w.filter id).length
    if failed && ((c.limits.failRun != 0 && decide (c.limits.failRun ≤ v.run)) || (c.limits.failWin != 0 && decide (c.limits.failWin ≤ hits))) then
      benchOrDegrade c.elem s
    else s
  else s

/-- Copy `c` is awaited no more. -/
def dropCopy (c : Copy) (s : State) : State := { s with wr := { s.wr with copies := s.wr.copies.filter fun x => x.id != c.id } }

/-- The rewrite queue in its order (R215). -/
def rewriteBefore (a b : Rewrite) : Bool :=
  decide (a.tb.toNat < b.tb.toNat) || (a.tb == b.tb && (decide (a.dsn < b.dsn) || (a.dsn == b.dsn && decide (a.cw < b.cw))))

/-- A frame failed verify, or its deadline passed (`late`) (R212, R214, R215, R217). -/
def verifyFails (c : Copy) (late : Bool) (s : State) : State :=
  let s := dropCopy c s
  let s := { s with fm := if late then { s.fm with vfyLate := satInc s.fm.vfyLate } else { s.fm with vfyFail := satInc s.fm.vfyFail } }
  let s := setElem c.elem { elemOf s c.elem with fails := satInc (elemOf s c.elem).fails } s
  let s := if late then s else elemResult c true s
  match (if c.cw = fillerCw then none else runOf s c.dsn) with
  | none => s
  | some r =>
    if r.passed.contains c.cw then s
    else
      let q : Rewrite := { tb := s.tb, dsn := c.dsn, cw := c.cw, track := c.track, lane := c.lane }
      let s := { s with wr := { s.wr with queue := insertBy rewriteBefore q s.wr.queue } }
      if c.block = c.dsn + 7 then attemptsFail [c.dsn] s else s

/-- A frame passed verify: its codeword is resolved, and the data set is settled with its last codeword (R216). -/
def verifyPasses (c : Copy) (s : State) : State :=
  let s := elemResult c false (dropCopy c s)
  match (if c.cw = fillerCw then none else runOf s c.dsn) with
  | none => s
  | some r =>
    if r.passed.contains c.cw then s
    else
      let r := { r with passed := c.cw :: r.passed }
      let s := { s with wr := { s.wr with sets := s.wr.sets.map fun x => if x.set.dsn = c.dsn then r else x } }
      if r.passed.length = 7936 then setSettles r s else s

/-- A frame's result (R212): one outside its window is a deadline fault (R214). -/
def execVerifyResult (t : Time) (copy : Nat) (obs : VerifyObs) (s : State) : Host.Outcome State Fault Refusal :=
  let s := advance t s
  match s.wr.copies.find? fun c => c.id == copy with
  | none => .next s
  | some c =>
    if s.tb.toNat < c.first.toNat ∨ c.first.toNat + c.window ≤ s.tb.toNat then .next (verifyFails c true s)
    else if obsPasses c obs && !c.doomed && !c.gated then .next (verifyPasses c s)
    else .next (verifyFails c false s)

/-- The end of a frame's verify window with no result (R214). -/
def execVerifyDeadline (t : Time) (copy : Nat) (s : State) : Host.Outcome State Fault Refusal :=
  let s := advance t s
  match s.wr.copies.find? fun c => c.id == copy with
  | none => .next s
  | some c => if c.first.toNat + c.window ≤ s.tb.toNat then .next (verifyFails c true s) else .next s

end Sys2Proof.Machine
end

