-- ==== Sys2Proof/Machine/Front.lean ====
section
/-!
DEFINITION. The read channel of the machine: sample cells (R226, R314), frames and votes (R239 to R244), the decode queues
and engines (R247 to R252), refinement (R233), and blank tape (R253).
-/

namespace Sys2Proof.Machine

/-! ### Front ends -/

/-- The front end of channel `e`, once it runs. -/
def frontOf (s : State) (e : Nat) : Option FrontEnd := (s.rch.fronts.find? fun x => x.1 == e).map fun x => x.2

/-- The front end of channel `e` stops. -/
def dropFront (e : Nat) (s : State) : State := { s with rch := { s.rch with fronts := s.rch.fronts.filter fun x => x.1 != e } }

/-- The front end of channel `e` takes a new form. -/
def setFront (e : Nat) (f : FrontEnd) (s : State) : State :=
  { s with rch := { s.rch with fronts := insertBy (fun (a b : Nat × FrontEnd) => decide (a.1 < b.1)) (e, f) (s.rch.fronts.filter fun x => x.1 != e) } }

/-- The mode runs the front ends (R226). -/
def frontRuns (s : State) : Bool :=
  [Mode.read, .verify, .write, .locate, .calibrate, .erase].contains s.gl.cur
    || (decide (s.gl.cur = .thread) && !(tracking s).isEmpty)

/-- Frames are found by their marks alone, as the written sequence gives no index here (R244). -/
def freeFrames (s : State) : Bool := decide (s.gl.cur = .write)

/-- Frames go no further than their headers (R226). -/
def headersOnly (s : State) : Bool := decide (s.gl.cur = .locate) || decide (s.gl.cur = .erase)

/-- Zone 0 to 15 of an LPOS (R227). -/
def zoneAt (lpos : Nat) : Nat := min 15 ((lpos - 10000000) / 73750000)

/-- Byte `k` of the target sets at reset (R245). -/
def targetDefault (k : Nat) : Byte := match k % 32 with | 0 => 8 | 1 => 16 | 2 => 8 | 16 => 64 | _ => 0

/-- Target set `n`. -/
def targetSet (s : State) (n : Nat) : List Byte := (List.range 32).map fun i => tabGet (targetDefault i) s.rch.targets (32 * n + i)

/-- What the front end of channel `e` works with now (R231, R254). -/
def frontEnv (s : State) (e : Nat) : FrontEnv :=
  let z := zoneAt (lposNow s)
  let entry := workingEntry s e z
  { ctl := s.rch.ctl, sync := s.rch.sync, timing := s.rch.timing, zone := z, entry := entry
    target := targetSet s ((entry.getD 4 0).toNat % 16) }

/-- A header has decoded `back` channel bits ago (R253). -/
def headerSeen (back : Nat) (s : State) : State :=
  { s with rdr := { s.rdr with lastHdr := max s.rdr.lastHdr (headPath s - 4 * back), blankAt := none } }

/-- A channel delivers: it is active and its lane is up. -/
def channelLive (s : State) (e : Nat) : Bool := decide ((crewOf s e).st = .active) && !laneDown s e

/-! ### Decode queues (R249 to R251) -/

/-- Frames of die `d` that wait or are under decode. -/
def dieQueue (s : State) (d : Nat) : List FrameJob := ((s.rch.queues.find? fun x => x.1 == d).map fun x => x.2).getD []

/-- Row-0 frames that die `d` holds. -/
def dieHeld (s : State) (d : Nat) : List FrameJob := ((s.rch.held.find? fun x => x.1 == d).map fun x => x.2).getD []

/-- Queue of die `d` set. -/
def setQueue (d : Nat) (q : List FrameJob) (s : State) : State :=
  { s with rch := { s.rch with queues := (s.rch.queues.filter fun x => x.1 != d) ++ [(d, q)] } }

/-- Roster index of decode engine `k` (32·die + engine). -/
def decodeUnit (k : Nat) : Nat := 1024 + k

/-- The decodes under way on die `d`. -/
def dieDecodes (s : State) (d : Nat) : List (Nat × FrameJob) :=
  s.rch.engines.filter fun x => x.1 / 32 == d && (crewOf s (decodeUnit x.1)).epoch == x.2.epoch

/-- OCC of die `d` (R250). -/
def occupancy (s : State) (d : Nat) : Nat := (dieQueue s d).length + (dieHeld s d).length + (dieDecodes s d).length

/-- PEAK follows OCC. -/
def notePeak (d : Nat) (s : State) : State :=
  { s with rch := { s.rch with peak := tabSet 0 s.rch.peak d (max (tabGet 0 s.rch.peak d) (occupancy s d)) } }

/-- Add to a 16-bit field of a counter register, saturating. -/
def bump16 (w : Word) (o : Nat) : Word := putBits w o 16 (min 65535 (bits w o 16 + 1))

/-- A frame reaches a die whose buffer is full (R251). -/
def frameDrop (job : FrameJob) (s : State) : State :=
  let s := { s with rch := { s.rch with los := bump16 s.rch.los 16 } }
  match job.verify.bind fun i => s.wr.copies.find? fun c => c.id == i with
  | none => s
  | some c => verifyFails { c with counts := false } false s

/-- Oldest frame first, ties to the lower roster index (R249). -/
def jobBefore (a b : FrameJob) : Bool := decide (a.tb.toNat < b.tb.toNat) || (a.tb == b.tb && decide (a.channel < b.channel))

/-- A frame joins the queue of its die, or is dropped. -/
def enqueue (job : FrameJob) (s : State) : State :=
  let d := job.channel / 256
  if 512 ≤ occupancy s d then frameDrop job s
  else notePeak d (setQueue d (insertBy jobBefore job (dieQueue s d)) s)

/-! ### The flywheel (R243) -/

/-- A frame of channel `e` joins its run of coasted and lost frames; the third one loses sync (R243). -/
def joinRun (e : Nat) (s : State) : State :=
  match frontOf s e with
  | none => s
  | some f =>
    if f.run + 1 < 3 then setFront e { f with run := f.run + 1 } s
    else setFront e { f with run := 0, los := true } { s with rch := { s.rch with los := bump16 s.rch.los 0 } }

/-- An alignment of a frame of channel `e` wins (R242, R243): a found mark ends the run. -/
def frameWins (e : Nat) (found alt : Bool) (s : State) : State :=
  let s := if alt then { s with rch := { s.rch with alt := bump16 s.rch.alt 0 } } else s
  match frontOf s e with
  | none => s
  | some f => if found then setFront e { f with run := 0 } s else s

/-- Every alignment of a frame of channel `e` is rejected (R242). -/
def frameLost (e : Nat) (found : Bool) (s : State) : State :=
  let s := { s with rch := { s.rch with alt := bump16 s.rch.alt 16 } }
  if found then joinRun e s else s

/-- A frame goes on with the alignments whose headers pass (R242, R249). -/
def frameTry (job : FrameJob) (s : State) : State :=
  match job.trials with
  | [] => frameLost job.channel job.found s
  | t :: _ =>
    let h := headerFields t.header
    let s := match frontOf s job.channel with
      | none => s
      | some f => if h.row < 8 ∧ f.track.isNone then setFront job.channel { f with track := some (h.cw % 992) } s else s
    if headersOnly s || h.cw == fillerCw || (decide (s.gl.cur = .read) || decide (s.gl.cur = .verify)) && haveCodeword s h.part h.dsn h.cw
    then frameWins job.channel job.found t.alt s
    else enqueue job s

/-! ### Block tuples (R241) -/

/-- What the channels of die `d` have reported of row 0. -/
def rowZeroOf (s : State) (d : Nat) : List RowZero := ((s.rch.tupleIn.find? fun x => x.1 == d).map fun x => x.2).getD []

/-- The block tuple of die `d`, once it is fixed. -/
def tupleOf (s : State) (d : Nat) : Option (Nat × Nat × Nat) := (s.rch.tuple.find? fun x => x.1 == d).map fun x => x.2

/-- The tuple most often reported, at least 16 times, ties to the lowest DSN (R241). -/
def tupleVote (l : List RowZero) : Option (Nat × Nat × Nat) :=
  let all := l.filterMap fun x => x.tuple
  let count (x : Nat × Nat × Nat) : Nat := (all.filter fun y => y == x).length
  let best := all.foldl (fun (a : Option (Nat × Nat × Nat)) x => match a with
    | none => some x
    | some b => if count b < count x ∨ (count b = count x ∧ x.2.2 < b.2.2) then some x else a) none
  match best with
  | none => none
  | some b => if 16 ≤ count b then some b else none

/-- The tests of R241 over the alignments of a frame. -/
def expectedTrials (s : State) (job : FrameJob) (row : Nat) (tuple : Option (Nat × Nat × Nat)) : List FrameTrial :=
  let track := (frontOf s job.channel).bind fun f => f.track
  match tuple with
  | none => []
  | some x => job.trials.filter fun t => headerExpected job.channel row track x (headerFields t.header)

/-- The tuple of die `d` is fixed, and its row-0 frames go on (R241). -/
def fixTuple (d : Nat) (s : State) : State :=
  let t := tupleVote (rowZeroOf s d)
  let held := dieHeld s d
  let s := { s with rch := { s.rch with
    tuple := s.rch.tuple.filter (fun x => x.1 != d) ++ t.toList.map fun x => (d, x)
    tupleIn := s.rch.tupleIn.filter fun x => x.1 != d
    held := s.rch.held.filter fun x => x.1 != d } }
  let s := match t with
    | some (k, p, n) => if s.gl.cur = .read ∨ s.gl.cur = .verify then blockSeen k p n s else s
    | none => s
  forEach held (fun job s => frameTry { job with trials := expectedTrials s job 0 t } s) s

/-- Channels of die `d` whose row 0 counts: they deliver and follow frames. -/
def dieFollows (s : State) (d : Nat) : List Nat :=
  (s.rch.fronts.filter fun x => x.1 / 256 == d && channelLive s x.1 && (x.2.last.isSome || x.2.stage != 0)).map fun x => x.1

/-- Channel `e` reports row 0 (R241), with a frame to hold where it has one. -/
def reportRowZero (e : Nat) (tuple : Option (Nat × Nat × Nat)) (job : Option FrameJob) (s : State) : State :=
  let d := e / 256
  let s := if (rowZeroOf s d).any fun x => x.channel == e then fixTuple d s else s
  let s := if (rowZeroOf s d).isEmpty then { s with rch := { s.rch with tuple := s.rch.tuple.filter fun x => x.1 != d } } else s
  let l := rowZeroOf s d ++ [{ channel := e, tuple := tuple }]
  let s := { s with rch := { s.rch with
    tupleIn := s.rch.tupleIn.filter (fun x => x.1 != d) ++ [(d, l)]
    held := s.rch.held.filter (fun x => x.1 != d) ++ [(d, dieHeld s d ++ job.toList)] } }
  let s := notePeak d s
  if (dieFollows s d).all fun c => l.any fun x => x.channel == c then fixTuple d s else s

/-! ### Votes (R239) -/

/-- The votes of module `m`. -/
def votesOf (s : State) (m : Nat) : List Vote := ((s.rch.votes.find? fun x => x.1 == m).map fun x => x.2).getD []

/-- Channels of module `m` that vote: they deliver and follow frames. -/
def moduleFollows (s : State) (m : Nat) : List Nat :=
  (s.rch.fronts.filter fun x => x.1 / 128 == m && channelLive s x.1 && (x.2.last.isSome || x.2.stage != 0)).map fun x => x.1

/-- The value that occurs most often, ties to the lowest. -/
def mostOften (l : List Nat) : Option Nat :=
  let count (x : Nat) : Nat := (l.filter fun y => y == x).length
  l.foldl (fun (a : Option Nat) x => match a with
    | none => some x
    | some b => if count b < count x ∨ (count b = count x ∧ x < b) then some x else a) none

/-- A channel goes on from a frame that began at `p` (R238, R239, R243). -/
def goOn (sep : Bool) (p row : Nat) (f : FrontEnd) : FrontEnd :=
  let f := { f with last := some p, los := f.los && !sep, acqTo := if sep then p + 10848 else f.acqTo
                    adapt := f.adapt && !sep, track := if sep then none else f.track }
  frontNext f (if sep then p + 11248 else p + 9648) (if sep then 0 else row) (p + 9648)

/-- Module `m` decides its vote once every channel that votes has voted (R239); a channel with no frame behind it takes
p from the majority. -/
def votePass (m : Nat) (s : State) : State :=
  let votes := votesOf s m
  if votes.isEmpty || !((moduleFollows s m).all fun e => votes.any fun v => v.channel == e) then s
  else
    let sep := decide (votes.length ≤ 2 * (votes.filter fun v => v.sep).length)
    let followers := votes.filterMap fun v => (frontOf s v.channel).map fun f => (v, f)
    let back := mostOften (followers.map fun x => x.2.idx - x.1.at_)
    let row := ((followers.head?).map fun x => x.2.row + 1).getD 0
    let s := forEach followers (fun x s => setFront x.1.channel (goOn sep x.1.at_ (x.2.row + 1) x.2) s) s
    let idle := (s.rch.fronts.filter fun x => x.1 / 128 == m && x.2.last.isNone && x.2.stage == 0 && channelLive s x.1)
    let s := forEach idle (fun x s => match back with
      | none => s
      | some b => if b ≤ x.2.idx then setFront x.1 (goOn sep (x.2.idx - b) row x.2) s else s) s
    { s with rch := { s.rch with votes := s.rch.votes.filter fun x => x.1 != m } }

/-- Channel `e` votes. -/
def castVote (v : Vote) (s : State) : State :=
  let m := v.channel / 128
  votePass m { s with rch := { s.rch with votes := s.rch.votes.filter (fun x => x.1 != m) ++ [(m, votesOf s m ++ [v])] } }

/-! ### The end of a frame -/

/-- The frame of a front end as an engine would take it. -/
def jobOf (s : State) (e : Nat) (f : FrontEnd) (trials : List FrameTrial) (verify : Option Nat) : FrameJob :=
  { channel := e, tb := s.tb, verify := verify, zone := f.zone, entry := f.entry, taps := tapsOf f.target, trials := trials
    found := f.mark.isSome, sums := f.sums, epoch := 0, ecc := 0, synd := bits f.sync 0 10, cut := false }

/-- The oldest copy that channel `e` wrote and that no frame verifies yet. -/
def copyFor (s : State) (e : Nat) : Option Nat :=
  let taken := (s.rch.queues.flatMap fun x => x.2.filterMap fun j => j.verify) ++ s.rch.engines.filterMap fun x => x.2.verify
  (s.wr.copies.find? fun c => c.elem == e && !taken.contains c.id).map fun c => c.id

/-- A frame of the written sequence has passed the trailing read element (R212, R244). -/
def verifyFrame (e : Nat) (f : FrontEnd) (s : State) : State :=
  let trials := trialsOf f s.sv.wrap true
  let s := setFront e { frontNext f 0 0 (f.pred + 9648) with last := none } s
  match copyFor s e with
  | none => s
  | some c => if trials.isEmpty then s else enqueue (jobOf s e f trials (some c)) s

/-- A frame of channel `e` has passed, and the 128 bits behind it (R239 to R243). -/
def frameEnds (e : Nat) (f : FrontEnd) (s : State) : State :=
  let trials := if f.los then [] else trialsOf f s.sv.wrap false
  let s := match trials with | [] => s | t :: _ => headerSeen (decided f - t.at_) s
  let own (t : FrameTrial) : Nat × Nat × Nat := let h := headerFields t.header; (h.kind, h.part, h.dsn)
  let tuple := if f.row = 0 then none else tupleOf s (e / 256)
  let job := jobOf s e f trials none
  let fits := if f.row = 0 then trials.filter fun t => headerExpected e 0 none (own t) (headerFields t.header)
    else expectedTrials s job f.row tuple
  let p := match fits with | t :: _ => t.at_ | [] => f.pred
  let f := { f with stage := 3, last := some p, track := if f.row = 0 then none else f.track }
  let s := setFront e f s
  let coasted := f.mark.isNone && !f.los
  let s := if coasted then joinRun e { s with rch := { s.rch with coast := satInc s.rch.coast } } else s
  let s :=
    if f.row = 0 then reportRowZero e (trials.head?.map own) (if f.los then none else some { job with trials := fits }) s
    else if f.los then s
    else frameTry { job with trials := fits } s
  castVote { channel := e, at_ := p, sep := separatorVote f p } s

/-- A front end whose frame is over says so. -/
def frontChecks (e : Nat) (s : State) : State :=
  match frontOf s e with
  | none => s
  | some f =>
    if f.stage ≠ 2 then s
    else if freeFrames s then (if f.pred + 9648 ≤ decided f then verifyFrame e f s else s)
    else if f.pred + syncWin f + 9648 + 128 ≤ decided f then frameEnds e f s
    else s

/-! ### Refinement (R233) -/

/-- Sums of two sets of samples. -/
def joinSums (a b : RefSums) : RefSums :=
  { frames := a.frames + b.frames, n := a.n + b.n, sumH := a.sumH + b.sumH, sumAbs := a.sumAbs + b.sumAbs
    posN := a.posN + b.posN, posSum := a.posSum + b.posSum, negN := a.negN + b.negN, negSum := a.negSum + b.negSum }

/-- The nearest integer to a quotient, ties to even; a quotient by zero has no stated value and is free. -/
def rneQuot (a b : Int) (s : State) : Int × State :=
  if b = 0 then (Config.freeInt s.fresh, { s with fresh := s.fresh + 1 })
  else if b < 0 then (rneDiv (-a) (-b), s) else (rneDiv a b, s)

/-- The refined entry of the sums of a channel and zone (R233), from exact means; a side with no sample has mean 0. -/
def refined (v : RefSums) (entry : List Byte) (s : State) : List Byte × State :=
  let sh := bits s.rch.ref 8 4
  let gain : Int := fieldLe entry 0 2
  let n : Int := v.n
  let pn : Int := max 1 v.posN
  let nn : Int := max 1 v.negN
  let (g, s) := rneQuot (gain * (512 * n - v.sumAbs)) v.sumAbs s
  let (o, s) := rneQuot (v.sumH * 4096) (n * gain) s
  let pk := Int.tdiv (v.posSum * nn + v.negSum * pn) (2 * pn * nn)
  let (a, s) := rneQuot (-(v.posSum * nn - v.negSum * pn) * 524288) (pk * pk * pn * nn) s
  let clamp (k x : Int) : Int := clampInt (-k) k (asr x sh)
  let gain' := clampInt 0 65535 (gain + clamp 64 g)
  (natLe 2 gain'.toNat ++ [BitVec.ofInt 8 (satN 8 ((entry.getD 2 0).toInt + clamp 4 o)),
    BitVec.ofInt 8 (satN 8 ((entry.getD 3 0).toInt + clamp 4 a))] ++ entry.drop 4, s)

/-- Some frame of channel `e` and zone `z` is not decoded yet, or is under the head. -/
def zoneOpen (s : State) (e z : Nat) : Bool :=
  let mine (j : FrameJob) : Bool := j.channel == e && j.zone == z && j.verify.isNone
  (match frontOf s e with | none => false | some f => f.zone == z)
    || s.rch.held.any (fun x => x.2.any mine) || s.rch.queues.any (fun x => x.2.any mine) || s.rch.engines.any fun x => mine x.2

/-- Zones of channel `e` whose last frame has finished decoding are refined (R233). -/
def refinePass (e : Nat) (s : State) : State :=
  forEach (s.rch.sums.filter fun x => x.1 / 16 == e && !zoneOpen s e (x.1 % 16)) (fun x s =>
    let s := { s with rch := { s.rch with sums := s.rch.sums.filter fun y => y.1 != x.1 } }
    if x.2.frames < 16 * bits s.rch.ref 0 8 then s
    else
      let (v, s) := refined x.2 (workingEntry s e (x.1 % 16)) s
      let key := 384 * e + 16 * s.sv.wrap + x.1 % 16
      setWorking e (x.1 % 16) v { s with rch := { s.rch with kept := (s.rch.kept.filter fun y => y.1 != key) ++ [(key, v)] } }) s

/-- A converged frame enters the sums of its channel and zone (R233). -/
def sumFrame (job : FrameJob) (s : State) : State :=
  if !s.rch.ctl.getLsbD 1 then s
  else
    let k := 16 * job.channel + job.zone
    let old := ((s.rch.sums.find? fun x => x.1 == k).map fun x => x.2).getD noSums
    { s with rch := { s.rch with sums := (s.rch.sums.filter fun x => x.1 != k) ++ [(k, joinSums old { job.sums with frames := 1 })] } }

/-! ### Meanings -/

/-- The samples of a cell enter the front end of channel `e` (R235 to R240); samples that are missing between two cells
count as zero. -/
def frontCell (e idx : Nat) (xs : List Int) (s : State) : State :=
  let env := frontEnv s e
  let f := match frontOf s e with | some f => f | none => frontNew env idx
  let gap := (idx + 2 ^ 22 - f.n % 2 ^ 22) % 2 ^ 22
  let r := frontSamples env s.sv.wrap (freeFrames s) (List.replicate gap 0 ++ xs) f
  let s := setFront e r.1 s
  let s := if r.2 then headerSeen 144 s else s
  refinePass e (votePass (e / 128) (frontChecks e s))

/-- An upstream read-sample cell (R314): 80 samples of one channel of the lane. Those of spare and benched channels are
discarded (R310). -/
def execReadSampleCell (t : Time) (lane : BitVec 4) (session : BitVec 12) (cell : BitVec 512) (s : State) :
    Host.Outcome State Fault Refusal :=
  let s := advance t s
  let l := lane.toNat
  let e := 64 * l + cellField cell 22 6
  if !laneDelivers s l then .next s
  else match tagOf s l session e with
    | none => .next (laneStale l s)
    | some tag =>
      if cellType cell ≠ 1 then .next (strayCell l cell s)
      else if !itemAccepted s e tag || decide ((crewOf s e).st ≠ .active) then .next (dropFront e (countStaleN e 80 s))
      else if !frontRuns s then .next (dropFront e s)
      else .next (frontCell e (cellField cell 0 22) ((List.range 80).map (cellSample cell 6)) s)

/-- Budgets of die `d` are cut at or above HIGH, until OCC falls below LOW (R250). -/
def cutPass (d : Nat) (s : State) : State :=
  let o := occupancy s d
  let mask : BitVec 4 := BitVec.ofNat 4 (2 ^ d)
  if bits s.rch.queueR 0 10 ≤ o then { s with rch := { s.rch with cutting := s.rch.cutting ||| mask } }
  else if o < bits s.rch.queueR 16 10 then { s with rch := { s.rch with cutting := s.rch.cutting &&& ~~~mask } }
  else s

/-- A free engine takes the oldest frame of its die (R249, R250). -/
def execFrameDecodeStart (t : Time) (die : BitVec 2) (engine : BitVec 5) (s : State) : Host.Outcome State Fault Refusal :=
  let s := advance t s
  let d := die.toNat
  let k := 32 * d + engine.toNat
  let c := crewOf s (decodeUnit k)
  match dieQueue s d with
  | [] => .next s
  | job :: rest =>
    if c.st ≠ .active ∨ (s.rch.engines.any fun x => x.1 == k) then .next s
    else
      let s := cutPass d s
      let cut := s.rch.cutting.getLsbD d && job.verify.isNone
      let job := { job with epoch := c.epoch, ecc := s.fm.ecc, cut := cut }
      let s := if cut then { s with rch := { s.rch with cut := satInc s.rch.cut } } else s
      .next (setQueue d rest { s with rch := { s.rch with engines := s.rch.engines ++ [(k, job)] } })

/-- The flywheel takes the winning alignment of the newest frame in place of the one it went on with (R243). -/
def correctIndex (job : FrameJob) (won : Nat) (s : State) : State :=
  match frontOf s job.channel, job.trials.head? with
  | some f, some t =>
    if t.at_ = won ∨ f.last ≠ some t.at_ then s
    else setFront job.channel { f with last := some won, pred := if f.stage = 0 then f.pred + won - t.at_ else f.pred } s
  | _, _ => s

/-- What a decode of a frame that is read comes to (R211, R242, R243, R247). -/
def decodeEnds (job : FrameJob) (s : State) : State :=
  match decodeJob job job.trials with
  | none => frameLost job.channel job.found s
  | some (t, block) =>
    let s := frameWins job.channel job.found t.alt (correctIndex job t.at_ s)
    match block with
    | none => s
    | some b =>
      let s := sumFrame job s
      let h := headerFields t.header
      if s.gl.cur = .read ∨ s.gl.cur = .verify then takeCodeword h.part h.dsn h.cw b s else s

/-- A decode ends (R247). An engine that was benched meanwhile is not heard: its frame went back to the queue (R44,
R252). A frame that verifies writing is judged by its own result. -/
def execFrameDecodeDone (t : Time) (die : BitVec 2) (engine : BitVec 5) (s : State) : Host.Outcome State Fault Refusal :=
  let s := advance t s
  let k := 32 * die.toNat + engine.toNat
  match s.rch.engines.find? fun x => x.1 == k with
  | none => .next s
  | some (_, job) =>
    let s := { s with rch := { s.rch with engines := s.rch.engines.filter fun x => x.1 != k } }
    if !itemAccepted s (decodeUnit k) job.epoch then .next (countStale (decodeUnit k) s)
    else if job.verify.isSome then .next s
    else .next (refinePass job.channel (decodeEnds job s))

/-- The frame that an engine decodes goes back to the head of its die's queue (R252); the engine's output will be
stale. -/
def frameBack (k : Nat) (s : State) : State :=
  match s.rch.engines.find? fun x => x.1 == k with
  | none => s
  | some (_, job) => setQueue (k / 32) (job :: dieQueue s (k / 32)) s

/-- READs and VERIFYs whose next data set lies at or beyond blank tape end with BLANK (R88, R198). -/
def blankReads (x : Nat) (s : State) : State :=
  forEach (atStage s .chosen) (fun c s =>
    if !([0x02, 0x03].contains (eOpcode c.entry)) then s
    else match blockAt s (ePart c.entry) c.first with
      | .tape n =>
        (match setPosition s (ePart c.entry) n with
         | some y => if x ≤ y then tidy (readEnds c 0x0201 0 s) else s
         | none => tidy (readEnds c 0x0201 0 s))
      | _ => s) s

/-- No header has decoded over two nominal data-set lengths (R253): the tape is blank from there. -/
def execBlankDetect (t : Time) (s : State) : Host.Outcome State Fault Refusal :=
  let s := advance t s
  let x := s.rdr.lastHdr
  if !frontRuns s || decide (s.gl.cur = .write) || decide (s.gl.cur = .calibrate) || s.rdr.blankAt == some x
    || decide (headPath s < x + 2 * slotLen) then .next s
  else
    let s := { s with rdr := { s.rdr with blankAt := some x } }
    let s := forEach (s.rdr.gathers.filter fun g => g.seen) (fun g s => passEnds g.part g.dsn s) s
    .next (tapeRest (blankReads x (spansGoOn s)))

end Sys2Proof.Machine
end

