-- ==== Sys2Proof/Machine/Params.lean ====
section
/-!
DEFINITION. Parameters (R95, R96), the logs that GET_LOG and LOG_READ return (R97, R361, R379, R391, R423), and their
commands.
-/

namespace Sys2Proof.Machine

/-! ### Parameters -/

/-- MRAM holds a stored value of a parameter (R95). -/
def paramStored (s : State) (id target : Nat) : Bool := (tabGet none s.par.stored (paramKey id target)).isSome

/-- A parameter takes a value; PERSIST stores it in MRAM besides (R95). Profile values reach the reel slots while their
ramps are at rest (R298). -/
def paramPut (id target v : Nat) (persist : Bool) (s : State) : State :=
  let s := setParamCur id target v s
  let s := if persist then { s with par := { s.par with stored := tabSet none s.par.stored (paramKey id target) (some v) } } else s
  if 3 ≤ id ∧ id ≤ 6 then profileWords s else s

/-- GET_PARAM (R95). -/
def execGetParam (t : Time) (ref : CmdRef) (s : State) : Host.Outcome State Fault Refusal :=
  let s := advance t s
  match readyCmd 0x15 ref s with
  | none => .next s
  | some c =>
    let id := eField c.entry 24 2
    let g := paramTarget ref.fn id (eField c.entry 26 1 % 64)
    .next (complete ref 0 (param s id g) (b2n (paramStored s id g)) false s)

/-- SET_PARAM (R95); in SECURE a value that lowers SPAN_PARITY is refused (R96). -/
def execSetParam (t : Time) (ref : CmdRef) (s : State) : Host.Outcome State Fault Refusal :=
  let s := advance t s
  match readyCmd 0x16 ref s with
  | none => .next s
  | some c =>
    let id := eField c.entry 24 2
    let g := paramTarget ref.fn id (eField c.entry 26 1 % 64)
    let v := eField c.entry 32 8
    if s.gl.lc = 2 ∧ id = 7 ∧ v < param s 7 0 then .next (failCmd ref 0x0401 s)
    else .next (complete ref 0 0 0 false (paramPut id g v ((eOpt c.entry).testBit 0) s))

/-! ### Logs -/

/-- The newest items that fit into `room` bytes with a frame word each; the list runs from the newest (R361). -/
def snapshot : Nat → List (List DWord) → List (List DWord)
  | _, [] => []
  | room, w :: r =>
    let n := 8 * (w.length + 1)
    if n ≤ room then w :: snapshot (room - n) r else []

/-- Log 0x01 of a function (R361). -/
def eventLog (s : State) (f : Fn) : List Byte :=
  ((snapshot 4096 (tabGet [] s.ev.recent f.toNat).reverse).reverse).flatMap fun w =>
    dwordBytes (BitVec.ofNat 64 w.length :: w)

/-- Log 0x02 of a function: its lost ranges not yet cleared (R97, R129). -/
def lostLog (s : State) (f : Fn) : List Byte :=
  (s.hq.lost.filter fun l => l.fn == f).flatMap fun l =>
    natLe 1 l.part ++ [0, 0, 0] ++ natLe 4 l.count ++ natLe 8 l.first

/-- The 16 entries of the address log, oldest first; entries never written read as zeros behind the others (R379). -/
def memLog (s : State) : List Byte :=
  padTo 256 (s.mi.log.flatMap fun e => dwordBytes [e.1, e.2])

/-- Log 0x04: the counters, without clearing them, and the address log (R379). -/
def memoryLog (s : State) : List Byte :=
  let three (t : List (Nat × Word)) : List Byte := (List.range 3).flatMap fun c => natLe 4 (tabGet 0 t c).toNat
  three s.mi.corr ++ three s.mi.unc ++ three s.mi.poison ++ natLe 4 s.mi.wbdrop.toNat ++ List.replicate 20 0 ++ memLog s

/-- Measurement 2: the hash of the active bundle, zeros when the code is not patched (R387). -/
def patchHash (s : State) : List Byte := if s.gl.patched then sha256 s.se.active else List.replicate 32 0

/-- Log 0x06 (R391). -/
def patchLog (s : State) : List Byte :=
  let ver (b : List Byte) : List Byte := if b.isEmpty then natLe 8 0 else natLe 4 (bundleVersion b) ++ natLe 4 (bundleSvn b)
  let slots := b2n (bundleValid s s.se.active) + 2 * b2n (bundleValid s s.se.pend) + 4 * b2n s.gl.patched
  padTo 128 (natLe 1 s.se.rollback ++ natLe 1 slots ++ [0, 0] ++ ver s.se.active ++ patchHash s ++ ver s.se.pend
    ++ sha256 s.se.pend ++ natLe 1 s.se.cause ++ List.replicate 7 0 ++ natLe 8 s.se.causeTb.toNat)

/-- A log by its identifier, as function `f` sees it (R97). The manual gives log 0x07 its length alone; the bytes of each
procedure are free values, and zeros before the first CALIBRATE. -/
def logBytes (s : State) (f : Fn) (id : Nat) : List Byte :=
  match id with
  | 1 => eventLog s f
  | 2 => lostLog s f
  | 3 => rosterBytes s
  | 4 => memoryLog s
  | 5 => (match s.gl.lossRec with | some r => lossBytes r | none => List.replicate 64 0)
  | 6 => patchLog s
  | _ => padTo 224 s.logs.cal

/-- GET_LOG (R97): total length in RESULT0, bytes written in RESULT1. -/
def execGetLog (t : Time) (ref : CmdRef) (segs : List SgSeg) (s : State) : Host.Outcome State Fault Refusal :=
  let s := advance t s
  match readyCmd 0x17 ref s with
  | none => .next s
  | some c =>
    match dataPieces c.entry segs with
    | none => .next (failCmd ref 0x0002 s)
    | some p =>
      let all := logBytes s ref.fn (eField c.entry 24 1)
      let out := slice all (4096 * eField c.entry 28 4) (piecesLen p)
      .next (complete ref 0 all.length out.length false (writeArea ref.fn p 0 out s))

end Sys2Proof.Machine
end

