-- ==== Sys2Proof/Machine/Life.lean ====
section
/-!
DEFINITION. Life-cycle changes (R39 to R42, R101), the JTAG unlock (R395), PATCH_DOWNLOAD (R102, R390), the fetch of
FW_ACTIVATE (R103, R126, R391) and the end of an operation of the RSA engine (R388).
-/

namespace Sys2Proof.Machine

/-- TB ticks of 10 s. -/
def tenSeconds : Nat := usTicks 10000000

/-- Exactly `n` bytes read from host memory: what the host supplied, zeros where it supplied less. -/
def hostBytes (n : Nat) (l : List Byte) : List Byte := (padTo n l).take n

/-! ### Life-cycle changes -/

/-- A life-cycle change is accepted: IDLE with the tape at rest, and neither a change nor a device reset in progress
(R42). -/
def lcReady (s : State) : Bool :=
  decide (s.gl.cur = .idle) && !s.gl.moving && s.gl.resetWait.isNone && s.gl.lcPending.isNone

/-- The request repeats the armed one within [arming, arming + 10 s) (R101). -/
def lcConfirms (s : State) (target : BitVec 3) (auth : List Byte) : Bool :=
  match s.gl.armed with
  | none => false
  | some a => a.target == target && a.auth == auth && decide (s.tb.toNat < a.at_.toNat + tenSeconds)

/-- How a request ends or goes on (R40, R101): 0 performed, 1 armed, 2 its authorisation is checked, 3 not allowed, 4
refused for the mode (R25). -/
def lcVerdict (target : BitVec 3) (auth : List Byte) (s : State) : Nat :=
  if !lcReady s then 4
  else
    let kind := lcAuth s.gl.lc.toNat target.toNat
    if kind = 0 then (if s.gl.lc = 0 && !s.se.chain then 3 else 0)
    else if kind = 1 then (if lcConfirms s target auth then 0 else 1)
    else if kind = 2 then (if auth.isEmpty then 3 else 2)
    else 3

/-- What a request leaves of the armed change: nothing, unless it is refused for the mode or arms its own (R101). -/
def lcArm (target : BitVec 3) (auth : List Byte) (s : State) : State :=
  let v := lcVerdict target auth s
  if v = 4 then s
  else { s with gl := { s.gl with armed := if v = 1 then some { target := target, auth := auth, at_ := s.tb } else none } }

/-- A life-cycle change is under way: the warm reset that performs it is requested (R41, R101). -/
def lcPerform (target : BitVec 3) (s : State) : State :=
  let s := requestReset 3 s
  { s with gl := { s.gl with lcPending := some target, armed := none } }

/-- The admin LC_CHANGE. -/
def execLcChange (t : Time) (ref : CmdRef) (segs : List SgSeg) (auth : List Byte) (s : State) :
    Host.Outcome State Fault Refusal :=
  let s := advance t s
  match readyCmd 0x28 ref s with
  | none => .next s
  | some c =>
    match (if eField c.entry 8 12 = 0 then some [] else dataPieces c.entry segs) with
    | none => .next (failCmd ref 0x0002 s)
    | some p =>
      let a := hostBytes (piecesLen p) auth
      let target := BitVec.ofNat 3 (eField c.entry 24 1 % 8)
      let v := lcVerdict target a s
      let s := lcArm target a s
      if v = 0 then .next (lcPerform target (complete ref 0 0 0 false s))
      else if v = 1 then .next (complete ref 0 0 1 false s)
      else if v = 2 then .next (rsaSubmit (.auth (some ref) target a) (setCmd { c with stage := .running } s))
      else .next (failCmd ref (if v = 4 then 0x0007 else 0x0401) s)

/-- The arming window ends (R101). -/
def execLcArmExpiry (t : Time) (s : State) : Host.Outcome State Fault Refusal :=
  let s := advance t s
  match s.gl.armed with
  | none => .next s
  | some a =>
    if a.at_.toNat + tenSeconds ≤ s.tb.toNat then .next { s with gl := { s.gl with armed := none } } else .next s

/-- A JTAG UNLOCK in Update-DR: outside RETURN it leaves the port locked; in RETURN its authorisation goes to the RSA
engine (R388, R395). -/
def execUnlock (t : Time) (auth : List Byte) (s : State) : Host.Outcome State Fault Refusal :=
  let s := advance t s
  if s.gl.lc ≠ 3 ∨ !barResponds s then .next s else .next (rsaSubmit (.unlock (hostBytes 848 auth)) s)

/-! ### Firmware patches -/

/-- PATCH_DOWNLOAD takes a piece (R102); with LAST the bundle goes to the RSA engine to be checked. -/
def execPatchDownload (t : Time) (ref : CmdRef) (segs : List SgSeg) (data : List Byte) (s : State) :
    Host.Outcome State Fault Refusal :=
  let s := advance t s
  match readyCmd 0x29 ref s with
  | none => .next s
  | some c =>
    let first := (eOpt c.entry).testBit 0
    let last := (eOpt c.entry).testBit 1
    let offset := eField c.entry 24 4
    match dataPieces c.entry segs, (if first then some [] else s.se.partial_) with
    | some p, some got =>
      let n := piecesLen p
      if 262144 < n ∨ offset ≠ got.length ∨ (n % 4096 ≠ 0 ∧ !last) ∨ 1048576 < offset + n then .next (failCmd ref 0x0002 s)
      else
        let all := got ++ hostBytes n data
        if last then
          .next (rsaSubmit (.bundle ref all)
            (setCmd { c with stage := .running } { s with se := { s.se with partial_ := none } }))
        else .next (complete ref 0 0 0 false { s with se := { s.se with partial_ := some all } })
    | _, _ => .next (failCmd ref 0x0002 s)

/-- PENDING may be activated: valid, and of a VERSION greater than that of the active code (R103, R391). -/
def activatable (s : State) : Bool :=
  !s.se.pend.isEmpty && bundleValid s s.se.pend && decide (s.se.runVer < bundleVersion s.se.pend)

/-- FW_ACTIVATE (R126 step 1): without a bundle to activate it ends with NO_PATCH; otherwise the barrier stands. -/
def execFwActivate (t : Time) (ref : CmdRef) (s : State) : Host.Outcome State Fault Refusal :=
  let s := advance t s
  match readyCmd 0x2A ref s with
  | none => .next s
  | some c =>
    if !activatable s then .next (tidy (failCmd ref 0x0107 s))
    else
      let a : Activation := { ref := ref, since := c.tb, swapAt := none }
      let s := setCmd { c with stage := .running } s
      .next { s with hq := { s.hq with act := some a } }

/-! ### The end of an RSA operation (R388) -/

/-- KEY_LOAD TYPE 0 (R159, R382): the KEK replaces the function's, unless the key is unusable or the block does not
decrypt to 32 bytes. A function reset meanwhile erases its KEK after the command has ended (R124). -/
def kekDone (ref : CmdRef) (blob : List Byte) (s : State) : State :=
  let label : List Byte := [0x4B#8, 0x45#8, 0x4B#8, BitVec.ofNat 8 ref.fn.toNat]
  match (if s.se.xport then oaepDecrypt Config.transportModulus Config.transportExponent label (hostBytes 384 blob) else none) with
  | none => failCmd ref 0x0401 s
  | some key =>
    if key.length ≠ 32 then failCmd ref 0x0401 s
    else complete ref 0 0 0 false (if ref.sq < 8192 then setKek ref.fn key s else s)

/-- The check of a bundle that LAST completed (R390, R391). -/
def bundleDone (ref : CmdRef) (b : List Byte) (s : State) : State :=
  let cause := bundleCause s.se.rollback b
  if cause = 0 then complete ref 0 0 0 false { s with se := { s.se with pend := b } }
  else failCmd ref 0x0401 (bundleReject cause s)

/-- TK_RESULT and the end of BUSY (R78). -/
def taskEnds (status len : Nat) (s : State) : State :=
  { s with task := { s.task with result := BitVec.ofNat 32 (status + len * 65536), busy := false } }

/-- The requester of a life-cycle change, an admin command or the task registers, learns its end. -/
def lcAnswer (ref : Option CmdRef) (status : Nat) (s : State) : State :=
  match ref with
  | some r => if status = 0 then complete r 0 0 0 false s else failCmd r status s
  | none => taskEnds status 0 s

/-- The check of a life-cycle authorisation (R393): the nonce is refreshed whatever it says. What R42 asks holds again
when the change begins. -/
def authDone (ref : Option CmdRef) (target : BitVec 3) (a : List Byte) (s : State) : State :=
  let ok := authPasses s 1 target.toNat a
  let s := freshNonce s
  if !ok then lcAnswer ref 0x0401 (authReject s)
  else if !lcReady s then lcAnswer ref 0x0007 s
  else lcPerform target (lcAnswer ref 0 s)

/-- The check of a JTAG unlock (R393, R395): an accepted one performs a warm reset first. -/
def unlockDone (a : List Byte) (s : State) : State :=
  let ok := authPasses s 2 0 a && s.gl.lc == 3
  let s := freshNonce s
  if ok then requestReset 4 s else authReject s

/-- SPDM connection by its transport (R384). -/
def spdmOf (s : State) (c : SpdmConn) : Spdm := match c with | .doe => s.se.doe | .task => s.se.task

/-- Set an SPDM connection. -/
def setSpdm (c : SpdmConn) (v : Spdm) (s : State) : State :=
  match c with
  | .doe => { s with se := { s.se with doe := v } }
  | .task => { s with se := { s.se with task := v } }

/-- Bytes written to the first registers of TK_DATA. -/
def taskOutput (bytes : List Byte) (s : State) : State :=
  { s with task := { s.task with data := (bytes.take 4096).zipIdx.foldl (fun d (b, i) => tabSet 0 d i b) s.task.data } }

/-- A response of the SPDM responder leaves on its transport (R80, R384): it stands in the DOE mailbox, or in TK_DATA
with its length in TK_RESULT. -/
def spdmSend (c : SpdmConn) (resp : List Byte) (s : State) : State :=
  let s := emit (.spdm c resp) s
  match c with
  | .doe => { s with se := { s.se with doeResp := some resp } }
  | .task => if s.task.busy then taskEnds 0 resp.length (taskOutput resp s) else s

/-- An SPDM signature is computed (R383): the response goes out with it. A connection that has begun anew waits for none.
-/
def spdmSigned (c : SpdmConn) (s : State) : State :=
  let v := spdmOf s c
  match v.wait with
  | none => s
  | some (resp, msg) =>
    let sig := pkcs1Sign Config.identityModulus Config.identityExponent msg
    spdmSend c (resp ++ sig) (setSpdm c { v with wait := none } s)

/-- The operation that runs ends. -/
def rsaEnds (j : RsaJob) (s : State) : State :=
  match j with
  | .kek ref blob => kekDone ref blob s
  | .bundle ref b => bundleDone ref b s
  | .auth ref target a => authDone ref target a s
  | .unlock a => unlockDone a s
  | .spdm c => spdmSigned c s

/-- The RSA engine finishes its operation and takes the next one (R388). -/
def execRsaOperationDone (t : Time) (s : State) : Host.Outcome State Fault Refusal :=
  let s := advance t s
  match s.se.rsa with
  | none => .next s
  | some j =>
    let s := rsaEnds j { s with se := { s.se with rsa := none } }
    .next (tidy (rsaNext s))

end Sys2Proof.Machine
end

