-- ==== Sys2Proof/Machine/Shroud.lean ====
section
/-!
DEFINITION. Shroud lanes outside bring-up: loss (R323 to R325), the end of training (R321, R322), status cells (R320).
-/

namespace Sys2Proof.Machine

/-- RETRY: losses within one wrap that a lane may have and still be trained again (R324). -/
def laneRetry (s : State) : Nat := bits s.lk.ctl 0 4

/-- Copies on the element channels of a lost lane fail verify and do not count toward benching (R325); those not wholly
written yet count as written without the lane. -/
def laneDooms (l : Nat) (s : State) : State :=
  { s with wr := { s.wr with copies := s.wr.copies.map fun c =>
    if c.elem / 64 = l then { c with doomed := true, counts := false, lane := c.lane || decide (s.tb.toNat ≤ c.last.toNat) } else c } }

/-- A lane is lost (R323): its entry sleeps, its session advances, and it trains again, or it is benched (R324). -/
def execLaneLoss (t : Time) (lane : BitVec 4) (s : State) : Host.Outcome State Fault Refusal :=
  let s := advance t s
  let l := lane.toNat
  let v := laneOf s l
  if v.st ≠ .up then .next s
  else
    let s := setLane l { v with st := .lost, losses := v.losses + 1 } s
    let s := laneDooms l s
    if laneRetry s < v.losses + 1 then .next (laneBench l s)
    else .next (laneTrain l (setUnitState (1188 + l) .sleeping 0 s))

/-- The head record that the lanes of module `m` carried (R321): from both, or from lane `l` alone when the other is
benched. -/
def trainedRecord (s : State) (l : Nat) (lower upper : List Byte) : Option (List Byte) :=
  let other := if l % 2 = 0 then l + 1 else l - 1
  let own := if l % 2 = 0 then lower else upper
  if (crewOf s (1188 + other)).st = .benched then recordOf [own] else recordOf [lower, upper]

/-- The servo reader of a lane starts its samples anew. -/
def readerFresh (l : Nat) (s : State) : State :=
  setServoRd l { servoRd s l with waveAt := 0, wave := [], armed := none } s

/-- Training of a lane ends (R321, R322): a failed lane is benched (R324), a module whose record is not valid does not
answer, and otherwise the lane comes UP. -/
def execLaneTrainingDone (t : Time) (lane : BitVec 4) (ok : Bool) (lower upper : List Byte) (s : State) :
    Host.Outcome State Fault Refusal :=
  let s := advance t s
  let l := lane.toNat
  if (laneOf s l).st ≠ .training then .next s
  else if !ok then .next (laneBench l s)
  else
    let r := trainedRecord s l lower upper
    let s := headFound (l / 2) r s
    .next (if r.isNone then s else readerFresh l (laneUp l s))

/-- An upstream head status cell (R313, R320): 60 bytes of the record in rotation. -/
def execHeadStatusCell (t : Time) (lane : BitVec 4) (session : BitVec 12) (cell : BitVec 512) (s : State) :
    Host.Outcome State Fault Refusal :=
  let s := advance t s
  let l := lane.toNat
  if !laneDelivers s l then .next s
  else match tagOf s l session (1188 + l) with
    | none => .next (laneStale l s)
    | some e =>
      if cellType cell ≠ 3 then .next (strayCell l cell s)
      else if !itemAccepted s (1188 + l) e then .next (countStale (1188 + l) s)
      else
        let o := 60 * cellField cell 16 12
        .next (forEach (List.range 60) (fun i s =>
          if 2048 ≤ o + i then s
          else { s with lk := { s.lk with status := tabSet 0 s.lk.status (2048 * l + o + i) (BitVec.ofNat 8 (bits cell (472 - 8 * i) 8)) } }) s)

end Sys2Proof.Machine
end

