-- ==== Sys2Proof/Machine/Trim.lean ====
section
/-!
DEFINITION. The Trim engine (chapter 13): source words (R297), one computation (R293 to R299), set-point ramps (R298),
the stroke schedule (R289 to R291, R300 to R303, R305), the Telltale's signals and captures (R306 to R308), and the slot
registers (R299, R300, R304).
-/

namespace Sys2Proof.Machine

/-! ### Arithmetic (R293, R296, R297) -/

/-- int32 saturation of a sum, with a note when it bites (R294). -/
def sat32f (v : Int) : Int × Bool := let w := satN 32 v; (w, w != v)

/-- Increment of the integrator, in units of 2^-16 LSB (R296). -/
def iterm (c : Coef) (d : Int) : Int :=
  let p := i32 c.value * d
  if 16 ≤ c.shift then rne p (c.shift - 16) else p * 2 ^ (16 - c.shift)

/-- One biquad section (R297): its output, its history after it, and whether it saturated. A disabled section passes its
input and its history advances as an identity would. -/
def section1 (r : SectRegs) (h : SectHist) (x : Int) : Int × SectHist × Bool :=
  if r.en then
    let (y, f) := sat32f (term r.b0 x + term r.b1 h.x1 + term r.b2 h.x2 - term r.a1 h.y1 - term r.a2 h.y2)
    (y, { x2 := h.x1, x1 := x, y2 := h.y1, y1 := y }, f)
  else (x, { x2 := h.x1, x1 := x, y2 := h.y1, y1 := x }, false)

/-- A chain of sections in order. -/
def sectionChain : List (SectRegs × SectHist) → Int → Int × List SectHist × Bool
  | [], x => (x, [], false)
  | (r, h) :: rest, x =>
    let (y, h', f) := section1 r h x
    let (z, hs, g) := sectionChain rest y
    (z, h' :: hs, f || g)

/-- Sign of an integer. -/
def sgn (v : Int) : Int := if 0 < v then 1 else if v < 0 then -1 else 0

/-- Distance in which a ramp at rate `r` can come to rest with jerk `j`, toward zero (R298). -/
def brake (r j : Int) : Int :=
  let m : Int := r.natAbs
  if m ≤ j then 0 else (r * (m - j)).tdiv (2 * j)

/-- One step of a ramp toward TGT: the set-point and the rate after it (R298). -/
def rampStep (tgt : Int) (slew jerk : Nat) (sp r : Int) : Int × Int :=
  let sl : Int := slew * 256
  let j : Int := if jerk = 0 then sl else jerk
  let d : Int := tgt * 65536 - sp
  if sl = 0 ∨ ((d.natAbs : Int) ≤ j ∧ (r.natAbs : Int) ≤ j) then (tgt * 65536, 0)
  else
    let a : Int := if 0 < d then 1 else -1
    let fits (c : Int) : Bool := decide (a * brake c j ≤ a * (d - c))
    let gain := clampInt (-sl) sl (r + a * j)
    let keep := clampInt (-sl) sl r
    let rn : Int :=
      if sl < (r.natAbs : Int) then r - sgn r * j
      else if fits gain then gain
      else if fits keep then keep
      else clampInt (-sl) sl (r - a * j)
    (sp + rn, rn)

/-! ### Sources (R297) -/

/-- CLASS of a source field. -/
def srcClass (w : Nat) : Nat := w / 2 ^ 8 % 128

/-- INDEX of a source field. -/
def srcIndex (w : Nat) : Nat := w % 256

/-- The four source fields of a slot: M, F, S1 and S2. -/
def slotSources (r : SlotRegs) : List Nat := [bits r.src0 0 16, bits r.src0 16 16, bits r.src1 0 16, bits r.src1 16 16]

/-- Greatest index of a source class; none above class 13. -/
def srcMax (cls : Nat) : Option Nat :=
  match cls with
  | 0 => some 0 | 1 | 2 => some 15 | 3 | 4 | 5 | 10 => some 7 | 6 | 8 => some 3 | 7 => some 95 | 9 | 11 => some 63
  | 12 => some 31 | 13 => some 15
  | _ => none

/-- A source field names a source. -/
def srcFieldOk (w : Nat) : Bool := match srcMax (srcClass w) with | none => false | some n => decide (srcIndex w ≤ n)

/-- The last sample of reader `n` is valid (R276, R283). -/
def readerValid (s : State) (n : Nat) : Bool := readerTracks s n && (servoRd s n).run == 0

/-- A mismatch was measured within the last 2 frames (R276). -/
def mbarValid (s : State) : Bool :=
  let ival := ((tracking s).map fun n => (servoRd s n).ival).foldl max 0
  (List.range 8).any fun k => match (servoMod s k).mAt with
    | none => false
    | some a => decide (4 * s.tb.toNat ≤ 4 * a.toNat + 2 * ival)

/-- A source is valid (R297). -/
def srcValid (s : State) (w : Nat) : Bool :=
  let i := srcIndex w
  match srcClass w with
  | 1 | 2 => readerValid s i
  | 3 | 4 => (servoMod s i).valid && hasServo s i
  | 5 => hasServo s i
  | 6 => if i = 0 then mbarValid s else if i = 1 then (skewOf s).isSome else if i = 2 then !(tracking s).isEmpty else true
  | 7 => linkInSync s (i / 4)
  | 9 | 11 => slotRunning (slotOf s i)
  | _ => true

/-- Value of a source before NEG; a source that is not valid gives its last valid value. -/
def srcPlain (s : State) (w : Nat) : Int :=
  let i := srcIndex w
  match srcClass w with
  | 1 => (servoRd s i).y
  | 2 => (servoRd s i).vel
  | 3 => (servoMod s i).y
  | 4 => (servoMod s i).err
  | 5 => (servoMod s i).held
  | 6 =>
    if i = 0 then s.sv.mbar else if i = 1 then s.sv.skew else if i = 2 then s.sv.speed
    else if (tracking s).isEmpty then satN 32 (encSpeed s) else s.sv.speed
  | 7 => tabGet 0 s.sp.meas i
  | 8 => if i < 2 then i32 (BitVec.ofNat 32 (encAngle (encOf s i))) else encRate s (encOf s (i - 2))
  | 9 => (slotOf s i).vals.y
  | 10 => rne (((List.range 8).map fun k => (slotOf s (8 * i + k)).vals.y).sum) 3
  | 11 => if slotRunning (slotOf s i) then rampOut s i else (slotOf s i).vals.spOut
  | 12 => if s.sp.gpi.getLsbD i then 1 else 0
  | 13 => i32 (tabGet 0 s.ce.consts i)
  | _ => 0

/-- src() of R296. -/
def srcValue (s : State) (w : Nat) : Int := if w.testBit 15 then satN 32 (-(srcPlain s w)) else srcPlain s w

/-- Bin of the learning table at this instant; none when the index source is unknown (R299). -/
def rcBin (s : State) (r : SlotRegs) : Option Nat :=
  if !r.rcCtl.getLsbD 0 then none
  else match bits r.rcCtl 2 2 with
    | 2 =>
      if (List.range 16).any fun n => (servoRd s n).known then
        some ((lposNow s % bits r.rcLen 0 24) * 1024 / bits r.rcLen 0 24)
      else none
    | x => if (encOf s x).idx then some (encAngle (encOf s x) / 2 ^ 22) else none

/-! ### Telltale signals (R306) -/

/-- Sine of k/1024 of a turn for k from 0 to 256, times 2^64: the Taylor series in units of 2^-64. -/
def sineSeries (k : Nat) : Int :=
  let x : Int := 57952155664616982739 * k / 512
  let x2 : Int := x * x / 2 ^ 64
  ((List.range 12).foldl (fun (acc : Int × Int) n =>
    (acc.1 + acc.2, -(acc.2 * x2 / 2 ^ 64) / ((2 * n + 2) * (2 * n + 3) : Nat))) (0, x)).1

/-- S[k] = round(2^30·sin(2πk/1,024)) (R306). -/
def sineEntry (k : Nat) : Int :=
  let q (k : Nat) : Int := (sineSeries k + 2 ^ 33) / 2 ^ 34
  let k := k % 1024
  if k ≤ 256 then q k else if k ≤ 512 then q (512 - k) else if k ≤ 768 then -(q (k - 512)) else -(q (1024 - k))

/-- Generator registers at their Reset column. -/
def genDefault : Gen :=
  { ctl := 0, amp := 0, freq := 0, freqEnd := 0, sweep := 0, seed := 1, holdN := 1, phase := 0, freqNow := 0, lfsr := 1,
    held := 0, done := false }

/-- Generator `g`. -/
def genOf (s : State) (g : Nat) : Gen := tabGet genDefault s.tt.gens g

/-- Set generator `g`. -/
def setGen (g : Nat) (v : Gen) (s : State) : State := { s with tt := { s.tt with gens := tabSet genDefault s.tt.gens g v } }

/-- A swept sine has reached its end. -/
def genEnded (v : Gen) : Bool := bits v.ctl 0 2 == 1 && decide (v.freqEnd.toNat ≤ v.freqNow.toNat)

/-- Value of a generator (R306). -/
def genValue (v : Gen) : Int :=
  let sine : Int :=
    let i := bits v.phase 22 10
    let f : Int := bits v.phase 0 22
    rne (i32 v.amp * (sineEntry i + rne ((sineEntry (i + 1) - sineEntry i) * f) 22)) 30
  match bits v.ctl 0 2 with
  | 0 => sine
  | 1 => if genEnded v then 0 else sine
  | 2 => if v.lfsr.getLsbD 0 then i32 v.amp else satN 32 (-(i32 v.amp))
  | _ => i32 v.amp

/-- One step of the LFSR of x^31 + x^28 + 1, bit 0 the oldest. -/
def lfsrStep (l : BitVec 31) : BitVec 31 := (l >>> 1) ||| (if l.getLsbD 0 != l.getLsbD 28 then 0x40000000#31 else 0#31)

/-- A generator after one value. -/
def genNext (v : Gen) : Gen :=
  match bits v.ctl 0 2 with
  | 0 => { v with phase := v.phase + v.freqNow }
  | 1 =>
    if genEnded v then { v with done := true }
    else
      let f := BitVec.ofNat 32 (min (2 ^ 32 - 1) (v.freqNow.toNat + v.sweep.toNat))
      let w := { v with phase := v.phase + v.freqNow, freqNow := f }
      { w with done := genEnded w }
  | 2 =>
    if bits v.holdN 0 16 ≤ v.held + 1 then { v with held := 0, lfsr := lfsrStep v.lfsr } else { v with held := v.held + 1 }
  | _ => v

/-- The enabled generators of slot `i`. -/
def gensOf (s : State) (i : Nat) : List Nat :=
  (List.range 4).filter fun g => (genOf s g).ctl.getLsbD 2 && bits (genOf s g).ctl 8 6 == i

/-- The Telltale injects. -/
def ttInjects (s : State) : Bool := decide (s.tt.unit.st = .running)

/-- inj() of slot `i` at point `pt` (R306): the values of its generators, added with sat32. -/
def injection (s : State) (i pt : Nat) : Int :=
  if ttInjects s then
    ((gensOf s i).filter fun g => bits (genOf s g).ctl 16 2 == pt).foldl (fun a g => satN 32 (a + genValue (genOf s g))) 0
  else 0

/-! ### One computation (R291, R296) -/

/-- What a computation leaves: the slot's values, the words of the capture points, SAT and the clamps. -/
structure Computed where
  vals  : SlotVals
  sp    : Int
  x     : Int
  e     : Int
  v     : Int
  u     : Int
  integ : Int
  rc    : Int
  sat   : Bool
  clampOut : Bool
  clampInt : Bool
deriving DecidableEq, Repr

/-- rc_out() (R299). -/
def rcOut (l : Latched) : Int :=
  match l.bin with
  | none => 0
  | some i => tabGet 0 l.vals.table ((i + bits l.regs.rcCtl 16 10) % 1024)

/-- rc_learn(e) (R299): the new entry of the bin, and whether it saturated; none when nothing is learnt. -/
def rcLearn (l : Latched) (e : Int) : Option (Nat × Int × Bool) :=
  match l.bin with
  | none => none
  | some i =>
    if l.regs.rcCtl.getLsbD 1 then none
    else
      let tab (k : Nat) : Int := tabGet 0 l.vals.table (k % 1024)
      let q := rne (bits l.regs.rcQ 0 16 * tab i + bits l.regs.rcQ 16 16 * (tab (i + 1023) + tab (i + 1))) 15
      let (v, f) := sat32f (q + term l.regs.gains.kl e)
      some (i, v, f)

/-- A computation on what it latched (R296). `first` marks the first one after a start (R300). -/
def compute (first : Bool) (l : Latched) : Computed :=
  let r := l.regs
  let rampSp := if first && r.ctl.getLsbD 4 then l.m * 65536 else l.vals.rampSp
  let (sp, f1) := sat32f (rne rampSp 16 + l.s1 + l.s2 + l.injSp)
  let (x, f2) := sat32f (sp - l.m + l.injErr)
  let chain := r.sects.zip l.vals.hist
  let split := bits r.ctl 24 4
  let (e, h1, f3) := sectionChain (chain.take split) x
  let ePrev := if first then e else l.vals.ePrev
  let rc := rcOut l
  let (v0, f4) := sat32f (term r.gains.kp e + rne l.vals.integ 16 + term r.gains.kd (e - ePrev) + rc + term r.gains.kff l.f + l.injOut)
  let (v, h2, f5) := sectionChain (chain.drop split) v0
  let u := clampInt (i32 r.omin) (i32 r.omax) v
  let lo := i32 r.imin * 65536
  let hi := i32 r.imax * 65536
  let raw := l.vals.integ + iterm r.gains.ki e + iterm r.gains.kaw (u - v)
  let integ := clampInt lo hi (satN 48 raw)
  let learn := rcLearn l e
  let f6 := match learn with | some (_, _, f) => f | none => false
  let table := match learn with | some (i, w, _) => tabSet 0 l.vals.table i w | none => l.vals.table
  let slew := if l.hold then r.ramp.hslew else r.ramp.slew
  let jerk := if l.hold then r.ramp.hjerk else r.ramp.jerk
  let (sp', rate) := rampStep (i32 r.ramp.tgt) slew.toNat jerk.toNat rampSp l.vals.rate
  { vals := { l.vals with hist := h1 ++ h2, integ := integ, ePrev := e, rampSp := sp', rate := rate, y := u, table := table
                          spOut := satN 32 (rne sp' 16) }
    sp := sp, x := x, e := e, v := v, u := u, integ := rne l.vals.integ 16, rc := rc
    sat := f1 || f2 || f3 || f4 || f5 || f6 || satN 48 raw != raw
    clampOut := u != v, clampInt := integ == lo || integ == hi }

/-- What slot `i` latches at its start (R291). -/
def slotLatch (s : State) (i : Nat) : Latched :=
  let v := slotOf s i
  let r := v.regs
  let src := slotSources r
  { regs := r, vals := v.vals, m := srcValue s (src.getD 0 0), f := srcValue s (src.getD 1 0), s1 := srcValue s (src.getD 2 0)
    s2 := srcValue s (src.getD 3 0), injSp := injection s i 0, injErr := injection s i 1, injOut := injection s i 2
    bin := rcBin s r, hold := s.ce.holdOn && bits r.ctl 28 2 == 1, quiet := !ttInjects s }

/-! ### Captures and the Telltale's end (R307, R308, R357) -/

/-- The word of a capture point (R307). -/
def capPoint (l : Latched) (c : Computed) (code : Nat) : Int :=
  match code with
  | 0 => c.sp | 1 => l.m | 2 => c.x | 3 => c.e | 4 => c.v | 5 => c.u | 6 => c.integ | 7 => c.rc
  | 8 => satN 32 (l.injSp + l.injErr + l.injOut)
  | 9 => l.f
  | _ => 0

/-- The capture item of slot `i` for a due boundary, when its capture is enabled (R307). -/
def capture (i : Nat) (tb : Time) (cnt flags : Nat) (s : State) : State :=
  let c := tabGet 0 s.tt.caps i
  let v := slotOf s i
  if c.getLsbD 12 && decide (s.tt.unit.st ≠ .stopped) then
    offerItem (64 + bits c 8 4)
      [tb, BitVec.ofNat 64 ((w32 v.vals.capA).toNat + (w32 v.vals.capB).toNat * 2 ^ 32),
       BitVec.ofNat 64 (i + flags * 2 ^ 8 + cnt % 2 ^ 32 * 2 ^ 32)] s
  else s

/-- The Telltale is STOPPED once no injected slot owes a boundary (R308): the capture streams are flushed, and the
command that stopped it completes. -/
def telltaleSettle (s : State) : State :=
  if s.tt.unit.st = .stopping ∧ s.tt.left = [] then
    let streams := ((s.tt.caps.filter fun p => p.2.getLsbD 12).map fun p => 64 + bits p.2 8 4).eraseDups
    let s := { s with tt := { s.tt with unit := unitDone s.tt.unit } }
    let s := forEach streams (fun q s => flushRequest q true s) s
    match s.tt.stop with
    | none => s
    | some r => tapeRest (tidy (complete r 0 0 0 false { s with tt := { s.tt with stop := none } }))
  else s

/-- Slot `i` has had a due boundary without injection. -/
def telltalePast (i : Nat) (s : State) : State :=
  telltaleSettle { s with tt := { s.tt with left := s.tt.left.filter fun k => k != i } }

/-! ### The schedule (R289 to R291, R300 to R305) -/

/-- Slots that waited for slot `i`, which has completed or overrun, join the ready list (R290). -/
def releaseWaiting (i : Nat) (s : State) : State :=
  let w := s.ce.waiting.map fun p => (p.1, p.2.filter fun k => k != i)
  { s with ce := { s.ce with
    waiting := w.filter fun p => !p.2.isEmpty
    ready := sortBy (fun a b => decide (a < b)) (s.ce.ready ++ (w.filter fun p => p.2.isEmpty).map fun p => p.1) } }

/-- Slot `i` has a computation that is not completed: ready, waiting or running. -/
def slotOpen (s : State) (i : Nat) : Bool :=
  s.ce.ready.contains i || s.ce.waiting.any (fun p => p.1 == i) || (slotOf s i).run.isSome

/-- Slot `i` overruns (R302). -/
def slotOverrun (i : Nat) (s : State) : State :=
  let v := slotOf s i
  let s := setSlot i { v with run := none, overrun := true, ovr := satInc v.ovr, ovrRun := min 255 (v.ovrRun + 1) } s
  let s := { s with ce := { s.ce with
    ready := s.ce.ready.filter fun k => k != i
    waiting := s.ce.waiting.filter fun p => p.1 != i
    ovrAny := s.ce.ovrAny ||| BitVec.ofNat 64 (2 ^ i) } }
  let s := senseFast 5 (releaseWaiting i (capture i v.dueTb v.dueCnt 2 s))
  if slotCrit v ∧ v.ovrRun + 1 = 3 then holdCause 0 s else s

/-- Slot `i` stops at its due boundary (R300): it sends its SAFE word, and a start that was latched follows (R49). -/
def slotHalt (i : Nat) (s : State) : State :=
  let v := slotOf s i
  let w := { v with unit := unitDone v.unit, ovrRun := 0 }
  let s := setSlot i (match w.unit.st with | .starting => slotArm w | _ => w) s
  let s := if v.regs.out.getLsbD 7 ∧ bits v.regs.out 0 7 < 96 then sendWord (bits v.regs.out 0 7) v.regs.safe s else s
  telltalePast i (senseFast 5 s)

/-- Slot `i` skips its computation at this boundary (R301, R280, R281): FREEZE, HOLD_INVALID with M not valid or, for a
mismatch, only held, or HOLD with HOLD_ACT 2. -/
def slotSkips (s : State) (i : Nat) : Bool :=
  let r := (slotOf s i).regs
  let m := bits r.src0 0 16
  r.ctl.getLsbD 1
    || (r.ctl.getLsbD 3 && (!srcValid s m || (srcClass m == 5 && (servoMod s (srcIndex m)).single)))
    || (s.ce.holdOn && bits r.ctl 28 2 == 2)

/-- A skipped computation: no state changes, and an overrun run ends (R301). -/
def slotSkip (i : Nat) (s : State) : State :=
  let v := slotOf s i
  let s := setSlot i { v with frozen := true, ovrRun := 0, dueTb := s.tb, dueCnt := s.ce.cnt.toNat } s
  let s := senseFast 5 (capture i s.tb s.ce.cnt.toNat 4 s)
  if s.tt.unit.st = .stopping then telltalePast i s else s

/-- A slot that runs or is on its way in or out is due at count `n` (R289). -/
def slotDue (n : Nat) (v : Slot) : Bool :=
  let d := bits v.regs.ctl 8 8 + 1
  decide (v.unit.st ≠ .stopped) && n % d == bits v.regs.ctl 16 8 % d

/-- The lower-numbered slots of `due` that slot `i` reads by output, set-point or group mean (R290). -/
def slotDeps (s : State) (due : List Nat) (i : Nat) : List Nat :=
  due.filter fun k => decide (k < i) && (slotSources (slotOf s i).regs).any fun w =>
    ((srcClass w == 9 || srcClass w == 11) && srcIndex w == k) || (srcClass w == 10 && srcIndex w == k / 8)

/-- A source field with slots `a` and `b` exchanged (R305). -/
def swapField (a b w : Nat) : Nat :=
  if srcClass w = 9 ∨ srcClass w = 11 then
    if srcIndex w = a then w - a + b else if srcIndex w = b then w - b + a else w
  else w

/-- A source word with slots `a` and `b` exchanged. -/
def swapWord (a b : Nat) (w : Word) : Word :=
  BitVec.ofNat 32 (swapField a b (bits w 0 16) + swapField a b (bits w 16 16) * 2 ^ 16)

/-- A CE_FINESP word with slots `a` and `b` exchanged. -/
def swapFine (a b : Nat) (w : Word) : Word :=
  (List.range 4).foldl (fun w k =>
    let x := bits w (8 * k) 6
    putBits w (8 * k) 6 (if x = a then b else if x = b then a else x)) w

/-- The armed exchange takes place (R305). -/
def swapSlots (s : State) : State :=
  match s.ce.swap with
  | none => s
  | some (a, b, copy) =>
    let (va, vb) := (slotOf s a, slotOf s b)
    let take (v w : Slot) : Slot :=
      let c := putBits (putBits v.regs.ctl 2 1 (bits w.regs.ctl 2 1)) 28 2 (bits w.regs.ctl 28 2)
      { v with regs := { v.regs with out := w.regs.out, ctl := c } }
    let s := setSlot b (take vb va) (setSlot a (take va vb) s)
    let s := { s with ce := { s.ce with
      swap := none, finesp0 := swapFine a b s.ce.finesp0, finesp1 := swapFine a b s.ce.finesp1
      slots := s.ce.slots.map fun p => (p.1, { p.2 with regs := { p.2.regs with
        src0 := swapWord a b p.2.regs.src0, src1 := swapWord a b p.2.regs.src1 } }) } }
    let s := if copy then
        let v := slotOf s b
        setSlot b { v with vals := { v.vals with rampSp := va.vals.rampSp, rate := va.vals.rate, integ := va.vals.integ } } s
      else s
    senseFast 6 (senseFast 5 s)

/-- HOLD and the end of HOLD reach the slots (R303): TGT is 0 on slots with HOLD_ACT 1. -/
def holdSlots (s : State) : State :=
  let on := decide (s.gl.cur = .hold)
  let s := { s with ce := { s.ce with holdOn := on } }
  if on then
    forEach (s.ce.slots.map Prod.fst) (fun i s =>
      let v := slotOf s i
      if bits v.regs.ctl 28 2 = 1 then setSlot i { v with regs := { v.regs with ramp := { v.regs.ramp with tgt := 0 } } } s
      else s) s
  else s

/-- A RATE cell to every lane that is up, in a stroke in which the speed set-point changed (R316). -/
def rateCells (s : State) : State :=
  let on := [Mode.locate, .write, .read, .verify, .erase].contains s.gl.cur
  if on && speedSet s != s.sm.rateSent then
    let (x, s) := openNat { s with sm := { s.sm with rateSent := speedSet s } }
    let f := 4 * speedSet s
    forEach ((List.range 16).filter fun l => decide ((laneOf s l).st = .up))
      (fun l s => emit (.cell l (controlCell 3 (x % 2 ^ 20) (BitVec.ofNat 480 (f * 2 ^ 448)))) s) s
  else s

/-- The slots due at a boundary are overrun, stopped, skipped or put on the ready list (R289, R290, R300 to R302). -/
def dueSlots (s : State) : State :=
  let n := s.ce.cnt.toNat
  let due := (s.ce.slots.filter fun p => slotDue n p.2).map Prod.fst
  let s := forEach due (fun i s => if slotOpen s i then slotOverrun i s else s) s
  let stops := due.filter fun i => decide ((slotOf s i).unit.st = .stopping)
  let rest := due.filter fun i => decide ((slotOf s i).unit.st ≠ .stopping)
  let skips := rest.filter (slotSkips s)
  let go := rest.filter fun i => !slotSkips s i
  let s := forEach stops slotHalt s
  let s := forEach skips slotSkip s
  let s := forEach go (fun i s => let v := slotOf s i
    setSlot i { v with frozen := false, dueTb := s.tb, dueCnt := n } s) s
  let deps := go.map fun i => (i, slotDeps s go i)
  { s with ce := { s.ce with
    due := go
    waiting := s.ce.waiting ++ deps.filter fun p => !p.2.isEmpty
    ready := sortBy (fun a b => decide (a < b)) (s.ce.ready ++ (deps.filter fun p => p.2.isEmpty).map Prod.fst) } }

/-- A stroke boundary (R289): the count, an armed exchange, HOLD, RATE cells, and the slots due. -/
def execStrokeBoundary (t : Time) (s : State) : Host.Outcome State Fault Refusal :=
  let s := advance t s
  if !s.gl.locked then .next s
  else
    let s := { s with ce := { s.ce with cnt := s.ce.cnt + 1, tb := s.tb } }
    .next (dueSlots (rateCells (holdSlots (swapSlots s))))

/-- A lane starts the lowest-numbered ready slot, which latches its inputs and registers (R290, R291). -/
def execSlotStart (t : Time) (s : State) : Host.Outcome State Fault Refusal :=
  let s := advance t s
  match s.ce.ready with
  | [] => .next s
  | i :: rest =>
    .next (setSlot i { slotOf s i with run := some (slotLatch s i) } { s with ce := { s.ce with ready := rest } })

/-- A slot's computation completes (R290, R291, R296): its word goes out, its values change, slots that waited for it
become ready, and the Telltale takes its item and its generators' next values. -/
def slotFinish (i : Nat) (l : Latched) (s : State) : State :=
  let v := slotOf s i
  let c := compute v.fresh l
  let cap := tabGet 0 s.tt.caps i
  let table := match rcLearn l c.e with | some (k, w, _) => tabSet 0 v.vals.table k w | none => v.vals.table
  let vals := { c.vals with table := table, rcAddr := v.vals.rcAddr
                            capA := capPoint l c (bits cap 0 4), capB := capPoint l c (bits cap 4 4) }
  let unit := match v.unit.st with | .starting => unitDone v.unit | _ => v.unit
  let s := setSlot i { v with vals := vals, unit := unit, fresh := false, ovrRun := 0, seq := v.seq + 1, sat := v.sat || c.sat
                              clampOut := c.clampOut, clampInt := c.clampInt, run := none } s
  let s := { s with ce := { s.ce with
    lane := BitVec.ofNat 16 (max s.ce.lane.toNat (min 65535 ((s.tb - v.dueTb).toNat / 2)))
    satAny := if c.sat then s.ce.satAny ||| BitVec.ofNat 64 (2 ^ i) else s.ce.satAny } }
  let s := if l.regs.out.getLsbD 7 ∧ bits l.regs.out 0 7 < 96 then sendWord (bits l.regs.out 0 7) (w32 c.u) s else s
  let s := senseFast 6 (senseFast 5 (releaseWaiting i (capture i v.dueTb v.dueCnt (b2n c.sat) s)))
  let s := if l.quiet then s else forEach (gensOf s i) (fun g s => setGen g (genNext (genOf s g)) s) s
  let s := if i = 12 ∨ i = 13 then profileWords s else s
  if l.quiet then telltalePast i s else s

/-- The completion of a slot's computation. -/
def execSlotComplete (t : Time) (slot : BitVec 6) (s : State) : Host.Outcome State Fault Refusal :=
  let s := advance t s
  match (slotOf s slot.toNat).run with
  | none => .next s
  | some l => .next (slotFinish slot.toNat l s)

/-! ### Slot registers (R297 to R300, R303, R304) -/

/-- Host writes reach slot `i`, from a warm reset request on as well (R398): slots 0 to 23 in SERVICE only (R300). -/
def slotWritable (s : State) (i : Nat) : Bool := fetching s && (decide (24 ≤ i) || decide (s.gl.cur = .service))

/-- The mode lets the host enable a slot (R300). -/
def slotsMayStart (s : State) : Bool := decide (s.gl.cur = .calibrate) || decide (s.gl.cur = .service)

/-- A write of CE_LOOPs_CTL (R300, R405): one with EN 1 is ignored whole outside CALIBRATE and SERVICE; SPLIT above 8 and
HOLD_ACT 3 leave their fields unchanged. -/
def slotCtlWrite (i : Nat) (w : Word) (s : State) : State :=
  if !slotWritable s i || (w.getLsbD 0 && !slotsMayStart s) then s
  else
    let v := slotOf s i
    let old := v.regs.ctl
    let split := if bits w 24 4 ≤ 8 then bits w 24 4 else bits old 24 4
    let act := if bits w 28 2 = 3 then bits old 28 2 else bits w 28 2
    let c := putBits (putBits (w &&& 0x3FFFFF1E#32) 24 4 split) 28 2 act ||| (old &&& 1#32)
    let v := { v with regs := { v.regs with ctl := c } }
    let v := if w.getLsbD 0 then slotStart v else slotStop v
    senseFast 6 (senseFast 5 (setSlot i v s))

/-- A write of 1 to CE_LOOPs_CTL.EN (R300). -/
def execLoopStart (t : Time) (slot : BitVec 6) (value : Word) (s : State) : Host.Outcome State Fault Refusal :=
  let s := advance t s
  .next (slotCtlWrite slot.toNat (value ||| 1#32) s)

/-- A write of 0 to CE_LOOPs_CTL.EN (R300). -/
def execLoopStop (t : Time) (slot : BitVec 6) (value : Word) (s : State) : Host.Outcome State Fault Refusal :=
  let s := advance t s
  .next (slotCtlWrite slot.toNat (value &&& 0xFFFFFFFE#32) s)

/-- A write of CE_SWAP (R305): with GO it arms an exchange, and it replaces one that was armed. -/
def ceSwap (w : Word) (s : State) : State :=
  { s with ce := { s.ce with
    swapReg := w &&& 0x00013F3F#32
    swap := if w.getLsbD 31 then some (bits w 0 6, bits w 8 6, w.getLsbD 16) else none } }

/-- A write of CE_SWAP over BAR0. -/
def execCeSwapWrite (t : Time) (value : Word) (s : State) : Host.Outcome State Fault Refusal :=
  let s := advance t s
  .next (if fetching s then ceSwap value s else s)

/-- CE_LOOPs_RC_DATA (R299): the entry at RC_ADDR, read or written; RC_ADDR advances. -/
def rcData (i : Nat) (write : Option Word) (s : State) : Word × State :=
  let v := slotOf s i
  let a := v.vals.rcAddr
  let next (v : Slot) : Slot := { v with vals := { v.vals with rcAddr := (a + 1) % 1024 } }
  match write with
  | none => (w32 (tabGet 0 v.vals.table a), setSlot i (next v) s)
  | some w =>
    if slotWritable s i then (0, setSlot i (next { v with vals := { v.vals with table := tabSet 0 v.vals.table a (i32 w) } }) s)
    else (0, s)

/-- An access to RC_DATA over BAR0; a read answers with the entry. -/
def execRcDataAccess (t : Time) (slot : BitVec 6) (write : Option Word) (s : State) : Host.Outcome State Fault Refusal :=
  let s := advance t s
  let o := 0x18098 + 1024 * (slot.toNat % 32)
  match write with
  | none =>
    if regsLive s then
      let (w, s) := rcData slot.toNat none s
      .next (emit (.readValue 0 o (w.setWidth 64)) s)
    else .next (if fetching s then emit (.readValue 0 o 0) s else s)
  | some w => .next (rcData slot.toNat (some w) s).2

/-- The coefficient pair at place `k` of the gains: KP, KI, KD, KAW, KFF, KL. -/
def gainAt (g : Gains) (k : Nat) : Coef :=
  match k with | 0 => g.kp | 1 => g.ki | 2 => g.kd | 3 => g.kaw | 4 => g.kff | _ => g.kl

/-- Gains with the pair at place `k` replaced. -/
def setGain (g : Gains) (k : Nat) (c : Coef) : Gains :=
  match k with
  | 0 => { g with kp := c } | 1 => { g with ki := c } | 2 => { g with kd := c } | 3 => { g with kaw := c }
  | 4 => { g with kff := c } | _ => { g with kl := c }

/-- The coefficient pair at place `k` of a section: B0, B1, B2, A1, A2. -/
def sectAt (g : SectRegs) (k : Nat) : Coef :=
  match k with | 0 => g.b0 | 1 => g.b1 | 2 => g.b2 | 3 => g.a1 | _ => g.a2

/-- A section with the pair at place `k` replaced. -/
def setSect (g : SectRegs) (k : Nat) (c : Coef) : SectRegs :=
  match k with
  | 0 => { g with b0 := c } | 1 => { g with b1 := c } | 2 => { g with b2 := c } | 3 => { g with a1 := c }
  | _ => { g with a2 := c }

/-- One half of a coefficient pair: VALUE at +0, SHIFT at +4. -/
def coefHalf (c : Coef) (high : Bool) : Word := if high then BitVec.ofNat 32 c.shift else c.value

/-- A coefficient pair with one half written. -/
def setCoefHalf (c : Coef) (high : Bool) (w : Word) : Coef := if high then { c with shift := bits w 0 5 } else { c with value := w }

/-- integ as a sign-extended 64-bit pair. -/
def integWord (v : Slot) : DWord := BitVec.ofInt 64 v.vals.integ

/-- A 32-bit read of a slot window register without side effect; RC_DATA, FLAGS and OVR are read by their own rows. -/
def slotRegRead (s : State) (i o : Nat) : Word :=
  let v := slotOf s i
  let r := v.regs
  if 0x50 ≤ o ∧ o < 0x80 then coefHalf (gainAt r.gains ((o - 0x50) / 8)) (o % 8 == 4)
  else if 0x100 ≤ o ∧ o < 0x300 then
    let n := (o - 0x100) / 64
    let k := o % 64
    let g := r.sects.getD n sectRegsZero
    let h := v.vals.hist.getD n sectHistZero
    if k < 0x28 then coefHalf (sectAt g (k / 8)) (k % 8 == 4)
    else match k with
      | 0x28 => BitVec.ofNat 32 (b2n g.en)
      | 0x30 => w32 h.x1 | 0x34 => w32 h.x2 | 0x38 => w32 h.y1 | 0x3C => w32 h.y2
      | _ => 0
  else match o with
    | 0x00 => r.ctl
    | 0x04 => BitVec.ofNat 32 (unitCode v.unit + b2n v.frozen * 4 + b2n v.clampOut * 8 + b2n v.clampInt * 16
        + b2n (v.vals.rampSp != i32 r.ramp.tgt * 65536 || v.vals.rate != 0) * 32 + v.ovrRun * 2 ^ 8 + v.seq.toNat * 2 ^ 16)
    | 0x10 => r.src0 | 0x14 => r.src1 | 0x18 => r.out | 0x1C => r.safe | 0x20 => r.omin | 0x24 => r.omax
    | 0x28 => r.imin | 0x2C => r.imax | 0x30 => r.ramp.tgt | 0x34 => r.ramp.slew | 0x38 => r.ramp.jerk
    | 0x3C => r.ramp.hslew | 0x40 => r.ramp.hjerk
    | 0x44 => w32 (rne v.vals.rampSp 16)
    | 0x48 => w32 (satN 32 (asr v.vals.rate 8))
    | 0x4C => w32 v.vals.y
    | 0x80 => (integWord v).setWidth 32
    | 0x84 => (integWord v >>> 32).setWidth 32
    | 0x88 => r.rcCtl | 0x8C => r.rcLen | 0x90 => r.rcQ
    | 0x94 => BitVec.ofNat 32 v.vals.rcAddr
    | _ => 0

/-- A word of a slot's gains or sections is written. -/
def slotCoefWrite (i o : Nat) (w : Word) (s : State) : State :=
  let v := slotOf s i
  let r := v.regs
  let regs (r : SlotRegs) : State := setSlot i { v with regs := r } s
  if 0x50 ≤ o ∧ o < 0x80 then
    let k := (o - 0x50) / 8
    regs { r with gains := setGain r.gains k (setCoefHalf (gainAt r.gains k) (o % 8 == 4) w) }
  else if 0x100 ≤ o ∧ o < 0x300 then
    let n := (o - 0x100) / 64
    let k := o % 64
    let g := r.sects.getD n sectRegsZero
    if k < 0x28 then regs { r with sects := r.sects.set n (setSect g (k / 8) (setCoefHalf (sectAt g (k / 8)) (k % 8 == 4) w)) }
    else if k = 0x28 then regs { r with sects := r.sects.set n { g with en := w.getLsbD 0 } }
    else s
  else s

/-- A 32-bit write of a slot window register (R304), CTL and RC_DATA apart. -/
def slotRegWrite (i o : Nat) (w : Word) (s : State) : State :=
  if !slotWritable s i then s
  else
    let v := slotOf s i
    let r := v.regs
    let regs (r : SlotRegs) : State := setSlot i { v with regs := r } s
    let ramp (x : RampRegs) : State := regs { r with ramp := x }
    if (0x50 ≤ o ∧ o < 0x80) ∨ (0x100 ≤ o ∧ o < 0x300) then slotCoefWrite i o w s
    else match o with
      | 0x10 => if srcFieldOk (bits w 0 16) && srcFieldOk (bits w 16 16) then regs { r with src0 := w } else s
      | 0x14 => if srcFieldOk (bits w 0 16) && srcFieldOk (bits w 16 16) then regs { r with src1 := w } else s
      | 0x18 => regs { r with out := w &&& 0xFF#32 }
      | 0x1C => regs { r with safe := w }
      | 0x20 => regs { r with omin := w } | 0x24 => regs { r with omax := w }
      | 0x28 => regs { r with imin := w } | 0x2C => regs { r with imax := w }
      | 0x30 => if s.ce.holdOn && bits r.ctl 28 2 == 1 then s else ramp { r.ramp with tgt := w }
      | 0x34 => ramp { r.ramp with slew := w } | 0x38 => ramp { r.ramp with jerk := w }
      | 0x3C => ramp { r.ramp with hslew := w } | 0x40 => ramp { r.ramp with hjerk := w }
      | 0x80 | 0x84 =>
        if r.ctl.getLsbD 1 || decide (v.unit.st = .stopped) then
          let x := integWord v
          let x := if o = 0x80 then putBits x 0 32 w.toNat else putBits x 32 32 w.toNat
          setSlot i { v with vals := { v.vals with integ := (BitVec.ofNat 48 x.toNat).toInt } } s
        else s
      | 0x88 =>
        let src := if bits w 2 2 = 3 then bits r.rcCtl 2 2 else bits w 2 2
        regs { r with rcCtl := putBits (w &&& 0x03FF0003#32) 2 2 src }
      | 0x8C => if 1024 ≤ bits w 0 24 then regs { r with rcLen := w &&& 0xFFFFFF#32 } else s
      | 0x90 => if bits w 0 16 + 2 * bits w 16 16 ≤ 32768 then regs { r with rcQ := w } else s
      | 0x94 => setSlot i { v with vals := { v.vals with rcAddr := bits w 0 10 } } s
      | _ => s

/-! ### SERVICE TELLTALE_START and TELLTALE_STOP (R99, R308) -/

/-- A chosen SERVICE command of operation `op`. -/
def serviceCmd (op : Nat) (r : CmdRef) (s : State) : Option InFlight :=
  match findCmd s r with
  | none => none
  | some c =>
    if eOpcode c.entry = 0x25 ∧ eOpt c.entry = op ∧ c.stage = .chosen ∧ s.gl.cur = .service then some c else none

/-- A SERVICE command completes, and SERVICE ends with it unless the Telltale still runs (R21, R99). -/
def serviceEnds (r : CmdRef) (status r0 : Nat) (s : State) : State := tapeRest (tidy (complete r status r0 0 false s))

/-- SERVICE TELLTALE_START (R99, R308): the generators start from their registers. -/
def execTelltaleStart (t : Time) (ref : CmdRef) (s : State) : Host.Outcome State Fault Refusal :=
  let s := advance t s
  match serviceCmd 1 ref s with
  | none => .next s
  | some _ =>
    if s.gl.lc = 2 ∧ s.gl.moving then .next (serviceEnds ref 0x0401 0 s)
    else if s.tt.unit.st = .stopping ∨ s.tt.unit.st = .starting then .next (serviceEnds ref 0x0008 0 s)
    else if s.tt.unit.st = .running then .next (serviceEnds ref 0 0 s)
    else
      let s := forEach (List.range 4) (fun g s =>
        let v := genOf s g
        setGen g { v with phase := 0, freqNow := v.freq, lfsr := BitVec.ofNat 31 v.seed.toNat, held := 0, done := false } s) s
      .next (serviceEnds ref 0 0 { s with tt := { s.tt with unit := unitDone (unitEnable s.tt.unit), left := [] } })

/-- SERVICE TELLTALE_STOP (R99, R308): injection ends, and the command completes once the shut-down has. -/
def execTelltaleStop (t : Time) (ref : CmdRef) (s : State) : Host.Outcome State Fault Refusal :=
  let s := advance t s
  match serviceCmd 2 ref s with
  | none => .next s
  | some c =>
    if s.tt.unit.st = .stopped then .next (serviceEnds ref 0 0 s)
    else if s.tt.unit.st ≠ .running then .next (serviceEnds ref 0x0008 0 s)
    else
      let left := (List.range 64).filter fun i => decide ((slotOf s i).unit.st ≠ .stopped) && !(gensOf s i).isEmpty
      let s := setCmd { c with stage := .running } s
      .next (telltaleSettle { s with tt := { s.tt with unit := unitDisable s.tt.unit, left := left, stop := some ref } })

end Sys2Proof.Machine
end

