-- ==== Sys2Proof/Machine/Service.lean ====
section
/-!
DEFINITION. CALIBRATE (R26, R46, R48, R98, R232, R286, R309), SERVICE BENCH and SELF_TEST (R45, R50, R99), HOLD_ENTER and
HOLD_RELEASE (R31, R100).
-/

namespace Sys2Proof.Machine

/-! ### Benching by the host (R45) -/

/-- A channel die is being gated or woken (R50). -/
def dieBusy (s : State) (i : Nat) : Bool :=
  decide (1220 ≤ i) && (decide ((dieOf s (i - 1220)).st = .starting) || decide ((dieOf s (i - 1220)).st = .stopping))

/-- A servo reader is benched: what it tracked is lost, and its module may lose servo (R45, R283). -/
def benchReader (n cause : Nat) (s : State) : State :=
  let k := n / 2
  let had := hasServo s k
  let s := setUnitState (1204 + n) .benched cause (setServoRd n { readerSearch s (servoRd s n) with st := .lost } s)
  let s := if had && !hasServo s k then setServoMod k { servoMod s k with lostAt := some s.tb, valid := false } s else s
  servoPass k s

/-- A unit is benched (R45): a decode engine's frame goes back to its queue (R252), a lane goes down. -/
def benchUnit (i cause : Nat) (s : State) : State :=
  if i < 1024 then dropFront i (benchElem i cause s)
  else if i < 1152 then frameBack (i - 1024) (setUnitState i .benched cause s)
  else if 1188 ≤ i ∧ i < 1204 then
    let l := i - 1188
    let s := laneDooms l (setLane l { laneOf s l with st := .down, phase := 0 } s)
    headEvent (l / 2) 32 (setUnitState i .benched cause s)
  else if 1204 ≤ i ∧ i < 1220 then benchReader (i - 1204) cause s
  else setUnitState i .benched cause s

/-- SERVICE BENCH (R45, R50, R99). -/
def execBench (t : Time) (ref : CmdRef) (s : State) : Host.Outcome State Fault Refusal :=
  let s := advance t s
  match serviceCmd 3 ref s with
  | none => .next s
  | some c =>
    let i := eField c.entry 24 2
    if dieBusy s i then .next (serviceEnds ref 0x0008 0 s)
    else if i < 1024 ∧ !spareLeft s (i / 128) then .next (serviceEnds ref 0x0002 0 s)
    else if (crewOf s i).st = .benched then .next (serviceEnds ref 0 0 s)
    else .next (serviceEnds ref 0 0 (benchUnit i 7 s))

/-- SERVICE SELF_TEST (R50, R99): `code` is the unit's fault code, 0 for a pass. -/
def execSelfTest (t : Time) (ref : CmdRef) (code : DWord) (s : State) : Host.Outcome State Fault Refusal :=
  let s := advance t s
  match serviceCmd 4 ref s with
  | none => .next s
  | some c =>
    let i := eField c.entry 24 2
    let st := (crewOf s i).st
    if dieBusy s i then .next (serviceEnds ref 0x0008 0 s)
    else if st ≠ .benched ∧ st ≠ .spare then .next (serviceEnds ref 0x0002 0 s)
    else .next (serviceEnds ref 0 code.toNat s)

/-! ### CALIBRATE (R98) -/

/-- PROC of a CALIBRATE. -/
def calMask (c : InFlight) : Nat := eField c.entry 24 4 % 128

/-- A listed index may be re-admitted: a benched unit, or a degraded element channel. -/
def readmittable (s : State) (i : Nat) : Bool :=
  decide (i < rosterSize) && (decide ((crewOf s i).st = .benched) || (decide (i < 1024) && (elemOf s i).degraded))

/-- The list of a CALIBRATE is one that it may run. -/
def listOk (s : State) (units : List Nat) : Bool := units.all (readmittable s) && decide units.Nodup

/-- The modules that ZONE selects (R98). -/
def zoneModules (c : InFlight) : List Nat := (List.range 8).filter fun m => (eField c.entry 28 1).testBit m

/-- ZONE (R48, R232): measured entries are stored; a module with all 384 zones measured is calibrated. -/
def calZone (c : InFlight) (out : CalOutcome) (s : State) : State :=
  let mods := zoneModules c
  let mine := out.entries.filter fun x => mods.contains (x.1 / (384 * 128)) && decide (x.2.length = 16)
  let s := forEach mine (fun x s => setHeadEntry (x.1 / 384) (x.1 % 384) (x.2.set 15 (x.2.getD 15 0 ||| 1)) s) s
  forEach (mods.filter fun m => out.zoned.getLsbD m) (fun m s =>
    setHead m { headOf s m with changed := false }
      { s with crew := { s.crew with changed := s.crew.changed &&& ~~~(BitVec.ofNat 8 (2 ^ m)) } }) s

/-- A procedure stores coefficient words of loop slots, and Coxswain rescales the loops with them (R286, R309). -/
def calLoops (slots : Nat → Bool) (out : CalOutcome) (s : State) : State :=
  forEach (out.loops.filter fun x => slots x.1) (fun x s =>
    if x.1 < 25 ∧ x.2.1 % 4 = 0 ∧ ((0x50 ≤ x.2.1 ∧ x.2.1 < 0x80) ∨ (0x100 ≤ x.2.1 ∧ x.2.1 < 0x300)) then
      slotCoefWrite x.1 x.2.1 x.2.2 (calWrite (slotOffset x.1 + x.2.1) x.2.2 s)
    else s) s

/-- SHEET_ADC: offset and gain of measurement words (R309). -/
def calAdc (out : CalOutcome) (s : State) : State :=
  forEach (out.adc.filter fun x => decide (x.1 < 96)) (fun x s =>
    let s := calWrite (0x28404 + 8 * x.1) x.2.2 (calWrite (0x28400 + 8 * x.1) x.2.1 s)
    { s with sp := { s.sp with cal := tabSet 0x40000000#32 (tabSet 0 s.sp.cal (2 * x.1) x.2.1) (2 * x.1 + 1) x.2.2 } }) s

/-- A procedure of the mask runs: it needs no tape, or a cartridge is threaded (R26). -/
def calRuns (c : InFlight) (s : State) (k : Nat) : Bool := (calMask c).testBit k && (s.gl.cart || k == 2 || k == 6)

/-- The procedures but READMIT, in ascending order; one that fails stores nothing (R309). -/
def calProcs (c : InFlight) (out : CalOutcome) (s : State) : State :=
  let go (k : Nat) (op : State → State) (s : State) : State := if calRuns c s k && out.passed.getLsbD k then op s else s
  let s := if calRuns c s 0 then calZone c out s else s
  let s := go 1 (calLoops (fun i => decide (i < 16)) out) s
  let s := go 2 (calAdc out) s
  let s := go 3 (fun s => { s with sv := { s.sv with
    azk := ((out.azk.take 9).zipIdx).foldl (fun t x => tabSet 0x0127F505#32 t x.2 x.1) s.sv.azk } }) s
  let s := go 4 (fun s => { s with sv := { s.sv with reelK := out.reelK, rad0 := out.radii.1, rad1 := out.radii.2 } }) s
  go 5 (calLoops (fun _ => true) out) s

/-- A listed unit passes its self-test: for a lane, a training that brings a valid head record (R321, R324). -/
def unitPasses (out : CalOutcome) (s : State) (i : Nat) : Bool :=
  !out.failed.contains i
    && (if 1188 ≤ i ∧ i < 1204 then
          match out.records.find? fun x => x.1 == i - 1188 with
          | none => false
          | some x => (trainedRecord s (i - 1188) x.2.1 x.2.2).isSome
        else true)

/-- An element channel is re-admitted (R46, R225): degraded it stays active, not yet replaced it returns to its track, and
otherwise it becomes a spare. -/
def readmitElem (e : Nat) (s : State) : State :=
  let s := dropFront e s
  if (crewOf s e).st ≠ .benched then bumpEpochs [e] (setElem e { elemOf s e with run := 0, window := [], degraded := false } s)
  else
    let s := setElem e { elemOf s e with degraded := false } s
    match elemTrack s e with
    | some _ => elemFresh e (setUnitState e .active 0 s)
    | none => setUnitState e .spare 0 s

/-- A unit that passed is re-admitted at the end of the run (R46). -/
def readmit (out : CalOutcome) (i : Nat) (s : State) : State :=
  if i < 1024 then readmitElem i s
  else if 1188 ≤ i ∧ i < 1204 then
    let l := i - 1188
    match out.records.find? fun x => x.1 == l with
    | none => s
    | some x => readerFresh l (laneUp l (headFound (l / 2) (trainedRecord s l x.2.1 x.2.2) (laneTrain l s)))
  else if 1204 ≤ i ∧ i < 1220 then setUnitState i .active 0 (readerReload (i - 1204) s)
  else setUnitState i .active 0 s

/-- The 224 bytes of log 0x07 after a run: the manual gives its length alone (R97). -/
def calLog (s : State) : State :=
  { s with logs := { s.logs with cal := (List.range 224).map fun i => Config.freeByte (s.fresh + i) }, fresh := s.fresh + 224 }

/-- The procedures that passed, READMIT among them when every listed unit was re-admitted. -/
def calPassed (c : InFlight) (s : State) (out : CalOutcome) (failed : Nat) : Nat :=
  ((List.range 7).filter fun k =>
    calRuns c s k && (match k with
      | 0 => (zoneModules c).all fun m => out.zoned.getLsbD m
      | 6 => failed == 0
      | _ => out.passed.getLsbD k)).foldl (fun a k => a + 2 ^ k) 0

/-- The run of a CALIBRATE whose list is in order. -/
def calRun (c : InFlight) (units : List Nat) (out : CalOutcome) (s : State) : State :=
  let s0 := s
  let s := calProcs c out s
  let good := if calRuns c s 6 then units.filter (unitPasses out s) else []
  let bad := if calRuns c s 6 then units.length - good.length else 0
  let s := forEach good (readmit out) s
  let passed := calPassed c s0 out bad
  let s := calLog { s with se := { s.se with calWrites := s.se.calWrites + 1 } }
  let status := if passed = calMask c then 0 else 0x0108
  tapeRest (tidy (complete c.ref status passed (good.length + bad * 65536) false (poolPass s)))

/-- CALIBRATE (R26, R98). -/
def execCalibrate (t : Time) (ref : CmdRef) (segs : List SgSeg) (units : List (BitVec 16)) (out : CalOutcome) (s : State) :
    Host.Outcome State Fault Refusal :=
  let s := advance t s
  match findCmd s ref with
  | none => .next s
  | some c =>
    if eOpcode c.entry ≠ 0x24 ∨ c.stage ≠ .chosen ∨ s.gl.cur ≠ .calibrate then .next s
    else
      let n := eField c.entry 30 2
      let list := (units.take n).map fun u => u.toNat
      if n ≠ 0 ∧ (dataIs c segs (2 * n)).isNone ∨ list.length < n ∨ !listOk s list then
        .next (tapeRest (tidy (failCmd ref 0x0002 s)))
      else if !s.gl.cart ∧ calMask c ≠ 0 ∧ calMask c &&& 0x44 = 0 then .next (tapeRest (tidy (failCmd ref 0x0007 s)))
      else .next (calRun c list out s)

/-! ### HOLD (R31, R100) -/

/-- HOLD_ENTER (R28, R100): RESULT0 is the TB of entry. -/
def execHoldEnter (t : Time) (ref : CmdRef) (s : State) : Host.Outcome State Fault Refusal :=
  let s := advance t s
  match readyCmd 0x26 ref s with
  | none => .next s
  | some _ =>
    let s := senseFastAll (holdCause 6 s)
    .next (tidy (complete ref 0 s.gl.modeTs.toNat 0 false s))

/-- HOLD can be released (R31): in HOLD, the tape at rest, no LIVE bit. -/
def holdReleasable (s : State) : Bool := decide (s.gl.cur = .hold) && !s.gl.moving && liveBits s == 0

/-- A long or sanitising ERASE that HOLD paused goes on: it locates back to where it stopped (R92). -/
def eraseResumes (s : State) : State :=
  match s.hq.inflight.find? fun c => decide (c.stage = .paused) with
  | none => s
  | some c => setMode .locate { setCmd { c with stage := .running } s with rdr := { s.rdr with locate := some (headPath s, c.order) } }

/-- HOLD ends (R31): LATCHED bits clear, IDLE, the power stages' own stops disarmed (R331). -/
def holdEnds (s : State) : State :=
  senseFastAll (eraseResumes (stopArm 0 (setMode .idle { s with gl := { s.gl with latched := 0 } })))

/-- HOLD_RELEASE (R31). -/
def execHoldRelease (t : Time) (ref : CmdRef) (s : State) : Host.Outcome State Fault Refusal :=
  let s := advance t s
  match readyCmd 0x27 ref s with
  | none => .next s
  | some _ =>
    if holdReleasable s then .next (tidy (complete ref 0 0 0 false (holdEnds s)))
    else .next (tidy (complete ref 0x0007 0 0 false s))

end Sys2Proof.Machine
end

