-- ==== Sys2Proof/Machine/Spdm.lean ====
section
/-!
DEFINITION. The SPDM 1.2 responder (R384 to R387), the same for both connections, and the DOE mailbox of the PF. The
manual leaves message formats, transcripts and the signed prefix to SPDM 1.2. PRESUMED: they are those of DMTF DSP0274 (log entry 60).
-/

namespace Sys2Proof.Machine

/-! ### Messages -/

/-- Request code of a message, its second byte. -/
def spdmCode (m : List Byte) : Nat := fieldLe m 1 1

/-- The requests that the responder supports (R385). -/
def spdmListed (code : Nat) : Bool := [0x84, 0xE1, 0xE3, 0x81, 0x82, 0x83, 0xE0].contains code

/-- Header of a 1.2 message. -/
def spdmHead (code p1 p2 : Nat) : List Byte := [0x12#8, BitVec.ofNat 8 code, BitVec.ofNat 8 p1, BitVec.ofNat 8 p2]

/-- An ERROR response with its code and data. -/
def spdmError (code data : Nat) : List Byte := spdmHead 0x7F code data

/-- "dmtf-spdm-v1.2.*" -/
def spdmVersionText : List Byte :=
  [0x64#8, 0x6D#8, 0x74#8, 0x66#8, 0x2D#8, 0x73#8, 0x70#8, 0x64#8, 0x6D#8, 0x2D#8, 0x76#8, 0x31#8, 0x2E#8,
   0x32#8, 0x2E#8, 0x2A#8]

/-- "responder-challenge_auth signing" -/
def spdmChallengeText : List Byte :=
  [0x72#8, 0x65#8, 0x73#8, 0x70#8, 0x6F#8, 0x6E#8, 0x64#8, 0x65#8, 0x72#8, 0x2D#8, 0x63#8, 0x68#8, 0x61#8,
   0x6C#8, 0x6C#8, 0x65#8, 0x6E#8, 0x67#8, 0x65#8, 0x5F#8, 0x61#8, 0x75#8, 0x74#8, 0x68#8, 0x20#8, 0x73#8,
   0x69#8, 0x67#8, 0x6E#8, 0x69#8, 0x6E#8, 0x67#8]

/-- "responder-measurements signing" -/
def spdmMeasureText : List Byte :=
  [0x72#8, 0x65#8, 0x73#8, 0x70#8, 0x6F#8, 0x6E#8, 0x64#8, 0x65#8, 0x72#8, 0x2D#8, 0x6D#8, 0x65#8, 0x61#8,
   0x73#8, 0x75#8, 0x72#8, 0x65#8, 0x6D#8, 0x65#8, 0x6E#8, 0x74#8, 0x73#8, 0x20#8, 0x73#8, 0x69#8, 0x67#8,
   0x6E#8, 0x69#8, 0x6E#8, 0x67#8]

/-- What a responder signs: the 100 B prefix of a context, then the hash of the transcript. -/
def spdmToSign (context transcript : List Byte) : List Byte :=
  (List.replicate 4 spdmVersionText).flatten ++ List.replicate (36 - context.length) 0 ++ context ++ sha256 transcript

/-- The certificate chain of slot 0 with its length and root hash (R383, R385). -/
def spdmChain : List Byte :=
  natLe 2 (36 + Config.certChain.length) ++ [0#8, 0#8] ++ sha256 Config.rootCert ++ Config.certChain

/-! ### Measurements (R387) -/

/-- A DMTF measurement block. -/
def measureBlock (index type : Nat) (value : List Byte) : List Byte :=
  natLe 1 index ++ [1#8] ++ natLe 2 (3 + value.length) ++ natLe 1 type ++ natLe 2 value.length ++ value

/-- Measurement 4: life cycle, JTAG_OPEN and rollback counter. -/
def lifeMeasure (s : State) : List Byte :=
  natLe 4 (s.gl.lc.toNat + 8 * b2n s.se.jtagOpen + 256 * s.se.rollback)

/-- The block of measurement `i`. -/
def measurement (s : State) (i : Nat) : List Byte :=
  match i with
  | 1 => measureBlock 1 0x00 Config.romDigest
  | 2 => measureBlock 2 0x01 (patchHash s)
  | 3 => measureBlock 3 0x03 (Config.headCalDigest s.se.calWrites)
  | 4 => measureBlock 4 0x82 (lifeMeasure s)
  | 5 => measureBlock 5 0x02 (sha256 (rosterBytes s))
  | 6 => measureBlock 6 0x83 Config.transportCert
  | 7 => measureBlock 7 0x83 s.se.nonce
  | _ => []

/-- Blocks of some measurements, one after another. -/
def measurements (s : State) (l : List Nat) : List Byte := l.flatMap (measurement s)

/-- Every measurement. -/
def allMeasures : List Nat := [1, 2, 3, 4, 5, 6, 7]

/-- Summary hash of CHALLENGE by its type (R385): none, indices 1 and 2, or all. -/
def summaryHash (s : State) (type : Nat) : List Byte :=
  if type = 0 then [] else sha256 (measurements s (if type = 1 then [1, 2] else allMeasures))

/-! ### Answers -/

/-- An ERROR goes out and the connection stays as it is. -/
def spdmFail (c : SpdmConn) (code data : Nat) (s : State) : State := spdmSend c (spdmError code data) s

/-- A response without a signature goes out with the connection's new state, unless the requester cannot take it in one
piece (no chunking, R385): ERROR ResponseTooLarge. -/
def spdmReply (c : SpdmConn) (v : Spdm) (resp : List Byte) (s : State) : State :=
  if min 4096 v.limit < resp.length then spdmSend c (spdmError 0x0D 0 ++ natLe 4 resp.length) s
  else spdmSend c resp (setSpdm c v s)

/-- A response that needs a signature waits for the RSA engine (R388). -/
def spdmSign (c : SpdmConn) (v : Spdm) (resp toSign : List Byte) (s : State) : State :=
  if min 4096 v.limit < resp.length + 384 then spdmSend c (spdmError 0x0D 0 ++ natLe 4 (resp.length + 384)) s
  else rsaSubmit (.spdm c) (setSpdm c { v with wait := some (resp, toSign) } s)

/-- GET_VERSION: version 1.2 alone; whatever was negotiated is forgotten. -/
def spdmVersion (c : SpdmConn) (m : List Byte) (s : State) : State :=
  if m.length < 4 then spdmFail c 0x01 0 s
  else if m.headD 0 ≠ 0x10 then spdmFail c 0x41 0 s
  else
    let resp : List Byte := [0x10#8, 0x04#8, 0#8, 0#8, 0#8, 1#8, 0x00#8, 0x12#8]
    spdmReply c { spdmInitial with st := 1, vca := m ++ resp } resp s

/-- GET_CAPABILITIES: CERT_CAP, CHAL_CAP, MEAS_CAP 2, MEAS_FRESH_CAP, and 4,096 B for both sizes (R385). -/
def spdmCapabilities (c : SpdmConn) (m : List Byte) (s : State) : State :=
  let v := spdmOf s c
  if v.st ≠ 1 then spdmFail c 0x04 0 s
  else if m.length < 20 ∨ fieldLe m 12 4 < 42 ∨ fieldLe m 16 4 < fieldLe m 12 4 then spdmFail c 0x01 0 s
  else
    let resp := spdmHead 0x61 0 0 ++ [0#8, Config.spdmCtExponent, 0#8, 0#8] ++ natLe 4 0x36 ++ natLe 4 4096 ++ natLe 4 4096
    spdmReply c { v with st := 2, vca := v.vca ++ m.take 20 ++ resp, limit := fieldLe m 12 4 } resp s

/-- NEGOTIATE_ALGORITHMS: TPM_ALG_RSASSA_3072, TPM_ALG_SHA_256 and DMTF measurements (R385); a requester that offers no
common signature or hash is answered with InvalidRequest. -/
def spdmAlgorithms (c : SpdmConn) (m : List Byte) (s : State) : State :=
  let v := spdmOf s c
  if v.st ≠ 2 then spdmFail c 0x04 0 s
  else if m.length < 32 ∨ fieldLe m 4 2 ≠ m.length ∨ !(fieldLe m 8 4).testBit 2 ∨ !(fieldLe m 12 4).testBit 0 then
    spdmFail c 0x01 0 s
  else
    let dmtf := fieldLe m 6 1 % 2
    let resp := spdmHead 0x63 0 0 ++ natLe 2 36 ++ natLe 1 dmtf ++ [0#8] ++ natLe 4 (2 * dmtf) ++ natLe 4 4 ++ natLe 4 1
      ++ List.replicate 16 0
    spdmReply c { v with st := 3, vca := v.vca ++ m ++ resp } resp s

/-- GET_DIGESTS: the digest of slot 0. -/
def spdmDigests (c : SpdmConn) (m : List Byte) (s : State) : State :=
  let v := spdmOf s c
  if v.st ≠ 3 then spdmFail c 0x04 0 s
  else if m.length < 4 then spdmFail c 0x01 0 s
  else if !s.se.chain then spdmFail c 0x05 0 s
  else
    let resp := spdmHead 0x01 0 1 ++ sha256 spdmChain
    spdmReply c { v with msgB := v.msgB ++ m.take 4 ++ resp, msgL := [] } resp s

/-- GET_CERTIFICATE: a portion of the chain of slot 0. -/
def spdmCertificate (c : SpdmConn) (m : List Byte) (s : State) : State :=
  let v := spdmOf s c
  let o := fieldLe m 4 2
  if v.st ≠ 3 then spdmFail c 0x04 0 s
  else if m.length < 8 ∨ fieldLe m 2 1 ≠ 0 ∨ spdmChain.length ≤ o ∨ fieldLe m 6 2 = 0 then spdmFail c 0x01 0 s
  else if !s.se.chain then spdmFail c 0x05 0 s
  else
    let n := min (min (fieldLe m 6 2) (spdmChain.length - o)) (min 4096 v.limit - 8)
    let resp := spdmHead 0x02 0 0 ++ natLe 2 n ++ natLe 2 (spdmChain.length - o - n) ++ slice spdmChain o n
    spdmReply c { v with msgB := v.msgB ++ m.take 8 ++ resp, msgL := [] } resp s

/-- CHALLENGE: CHALLENGE_AUTH with a fresh nonce and the summary hash, signed (R382, R385, R386). -/
def spdmChallenge (c : SpdmConn) (m : List Byte) (s : State) : State :=
  let v := spdmOf s c
  let type := fieldLe m 3 1
  if v.st ≠ 3 then spdmFail c 0x04 0 s
  else if m.length < 36 ∨ fieldLe m 2 1 ≠ 0 ∨ !([0, 1, 255].contains type) then spdmFail c 0x01 0 s
  else if !s.se.idKey then spdmFail c 0x05 0 s
  else if !s.cy.seeded then spdmFail c 0x03 0 s
  else
    let (nonce, s) := drbgBytes 32 s
    let resp := spdmHead 0x03 0 1 ++ sha256 spdmChain ++ nonce ++ summaryHash s type ++ [0#8, 0#8]
    let msg := spdmToSign spdmChallengeText (v.vca ++ v.msgB ++ m.take 36 ++ resp)
    spdmSign c { v with msgB := [], msgL := [] } resp msg s

/-- The nonce of a MEASUREMENTS response: from the DRBG when it is signed (R386); otherwise the manual states no value. -/
def measureNonce (signed : Bool) (s : State) : List Byte × State :=
  if signed then drbgBytes 32 s
  else ((List.range 32).map fun i => Config.freeByte (s.fresh + i), { s with fresh := s.fresh + 32 })

/-- GET_MEASUREMENTS: the number of measurements, one of them, or all from one instant; signed when asked (R382, R386,
R387). -/
def spdmMeasurements (c : SpdmConn) (m : List Byte) (s : State) : State :=
  let v := spdmOf s c
  let signed := (fieldLe m 2 1).testBit 0
  let op := fieldLe m 3 1
  let len := if signed then 37 else 4
  if v.st ≠ 3 then spdmFail c 0x04 0 s
  else if m.length < len ∨ (7 < op ∧ op ≠ 255) ∨ (signed ∧ fieldLe m 36 1 % 16 ≠ 0) then spdmFail c 0x01 0 s
  else if signed && !s.se.idKey then spdmFail c 0x05 0 s
  else if signed && !s.cy.seeded then spdmFail c 0x03 0 s
  else
    let which := if op = 0 then [] else if op = 255 then allMeasures else [op]
    let body := measurements s which
    let (nonce, s) := measureNonce signed s
    let resp := spdmHead 0x60 (if op = 0 then 7 else 0) 0 ++ natLe 1 which.length ++ natLe 3 body.length ++ body ++ nonce
      ++ [0#8, 0#8]
    let l := v.msgL ++ m.take len ++ resp
    if signed then
      spdmSign c { v with msgB := [], msgL := [] } resp (spdmToSign spdmMeasureText (v.vca ++ l)) s
    else spdmReply c { v with msgB := [], msgL := l } resp s

/-- The answer to a request by its code (R385): one that is not listed, and a message of another version, are errors. -/
def spdmAnswer (c : SpdmConn) (m : List Byte) (s : State) : State :=
  let code := spdmCode m
  if m.length < 2 ∨ 4096 < m.length then spdmFail c 0x01 0 s
  else if !spdmListed code then spdmFail c 0x07 code s
  else if code = 0x84 then spdmVersion c m s
  else if m.headD 0 ≠ 0x12 then spdmFail c 0x41 0 s
  else if code = 0xE1 then spdmCapabilities c m s
  else if code = 0xE3 then spdmAlgorithms c m s
  else if code = 0x81 then spdmDigests c m s
  else if code = 0x82 then spdmCertificate c m s
  else if code = 0x83 then spdmChallenge c m s
  else spdmMeasurements c m s

/-- A request of a row reaches the responder: the device is up, no signature of the connection is awaited, and the
message is of the row's code or of none that is listed. -/
def spdmRow (code : Nat) (c : SpdmConn) (m : List Byte) (s : State) : State :=
  if fetching s && (spdmOf s c).wait.isNone && !(c == .task && s.task.busy) && (spdmCode m == code || !spdmListed (spdmCode m))
  then spdmAnswer c m s else s

/-! ### Meanings -/

/-- The SPDM request GET_VERSION. -/
def execGetVersion (t : Time) (conn : SpdmConn) (msg : List Byte) (s : State) : Host.Outcome State Fault Refusal :=
  .next (spdmRow 0x84 conn msg (advance t s))

/-- The SPDM request GET_CAPABILITIES. -/
def execGetCapabilities (t : Time) (conn : SpdmConn) (msg : List Byte) (s : State) : Host.Outcome State Fault Refusal :=
  .next (spdmRow 0xE1 conn msg (advance t s))

/-- The SPDM request NEGOTIATE_ALGORITHMS. -/
def execNegotiateAlgorithms (t : Time) (conn : SpdmConn) (msg : List Byte) (s : State) :
    Host.Outcome State Fault Refusal :=
  .next (spdmRow 0xE3 conn msg (advance t s))

/-- The SPDM request GET_DIGESTS. -/
def execGetDigests (t : Time) (conn : SpdmConn) (msg : List Byte) (s : State) : Host.Outcome State Fault Refusal :=
  .next (spdmRow 0x81 conn msg (advance t s))

/-- The SPDM request GET_CERTIFICATE. -/
def execGetCertificate (t : Time) (conn : SpdmConn) (msg : List Byte) (s : State) : Host.Outcome State Fault Refusal :=
  .next (spdmRow 0x82 conn msg (advance t s))

/-- The SPDM request CHALLENGE. -/
def execChallenge (t : Time) (conn : SpdmConn) (msg : List Byte) (s : State) : Host.Outcome State Fault Refusal :=
  .next (spdmRow 0x83 conn msg (advance t s))

/-- The SPDM request GET_MEASUREMENTS. -/
def execGetMeasurements (t : Time) (conn : SpdmConn) (msg : List Byte) (s : State) : Host.Outcome State Fault Refusal :=
  .next (spdmRow 0xE0 conn msg (advance t s))

/-- A DOE Discovery object (R384): DOE Discovery at index 0, CMA/SPDM at index 1, nothing above. -/
def execDoeDiscovery (t : Time) (index : Byte) (s : State) : Host.Outcome State Fault Refusal :=
  let s := advance t s
  if !fetching s then .next s
  else
    let word := match index.toNat with | 0 => 0x01000001 | 1 => 0x00010001 | _ => 0x0000FFFF
    .next { s with se := { s.se with doeResp := some (natLe 4 word) } }

/-- A DOE Abort returns the DOE connection to its initial state (R386); the mailbox is empty. -/
def execDoeAbort (t : Time) (s : State) : Host.Outcome State Fault Refusal :=
  let s := advance t s
  if !fetching s then .next s else .next { s with se := { s.se with doe := spdmInitial, doeResp := none } }

/-- The host reads the response out of the mailbox (R339). -/
def execDoeResponseRead (t : Time) (s : State) : Host.Outcome State Fault Refusal :=
  let s := advance t s
  match s.se.doeResp with
  | none => .next s
  | some b => .next (emit (.doe b) { s with se := { s.se with doeResp := none } })

end Sys2Proof.Machine
end

