-- ==== Sys2Proof/Machine/TaskRegs.lean ====
section
/-!
DEFINITION. The task registers (R78 to R80), the board bus that reaches them (R81, R419), and the end of a firmware
activation (R126, R391), behind which task commands wait.
-/

namespace Sys2Proof.Machine

/-- Code of an issuer in TK_STATUS.SOURCE. -/
def sourceCode (src : BusSource) : BitVec 2 := match src with | .pcie => 0 | .i3c => 1 | .smbus => 2

/-- The task registers respond to an issuer: BAR0 as R398 states, the board bus once PHASE 1 has ended (R33, R80). -/
def taskLive (src : BusSource) (s : State) : Bool := match src with | .pcie => regsLive s | _ => fetching s

/-- TK_ARG`n`. -/
def taskArg (s : State) (n : Nat) : Word := tabGet 0 s.task.args n

/-- TK_ARG`n` takes a value. -/
def setTaskArg (n : Nat) (v : Word) (s : State) : State :=
  { s with task := { s.task with args := tabSet 0 s.task.args n v } }

/-- The first `n` bytes of TK_DATA. -/
def taskBytes (s : State) (n : Nat) : List Byte := (List.range n).map fun i => tabGet 0 s.task.data i

/-! ### The commands of R80, once they run -/

/-- HEALTH. The count of board-bus writes with a bad PEC stands behind the listed outputs, in TK_ARG11: R81 puts it into
the health output without naming the register. DESIGN CHOICE (log entry 44). -/
def taskHealth (s : State) : State :=
  let out := [modeWord s, holdWord s] ++ s.pins.temps.map (fun x => x.signExtend 32)
    ++ [BitVec.ofNat 32 (b2n (holdReleasable s)), s.task.pecErrs]
  taskEnds 0 0 (forEach (out.zipIdx) (fun (v, n) s => setTaskArg n v s) s)

/-- LOG_READ, of the PF's logs. -/
def taskLogRead (s : State) : State :=
  let id := (taskArg s 0).toNat
  if id < 1 ∨ 7 < id then taskEnds 0x0002 0 s
  else
    let out := slice (logBytes s 0 id) (4096 * (taskArg s 1).toNat) 4096
    taskEnds 0 out.length (taskOutput out s)

/-- LC_CHANGE (R101): the same decision as for the admin command. -/
def taskLc (s : State) : State :=
  let n := (taskArg s 1).toNat
  if 4096 < n then taskEnds 0x0002 0 s
  else
    let a := taskBytes s n
    let target := (taskArg s 0).setWidth 3
    let v := lcVerdict target a s
    let s := lcArm target a s
    if v = 0 then lcPerform target (taskEnds 0 0 s)
    else if v = 1 then taskEnds 0 0 s
    else if v = 2 then rsaSubmit (.auth none target a) s
    else taskEnds (if v = 4 then 0x0007 else 0x0401) 0 s

/-- ATTEST (R384): an SPDM request on the task connection. -/
def taskAttest (s : State) : State :=
  let n := (taskArg s 0).toNat
  if 4096 < n then taskEnds 0x0002 0 s else spdmAnswer .task (taskBytes s n) s

/-- QUEUE_SETUP (R71): refused while the PF is not STOPPED, and where EN is refused. -/
def taskQueues (s : State) : State :=
  let h := hqFn s 0
  let pair (n : Nat) : DWord := BitVec.ofNat 64 ((taskArg s n).toNat + (taskArg s (n + 1)).toNat * 2 ^ 32)
  match h.unit.st with
  | .stopped =>
    let s := setHqFn 0 { h with
      asqBase := pair 0, acqBase := pair 2
      aqSize := taskArg s 4 &&& 0x0FFF0FFF#32
      aqVec := taskArg s 5 &&& 0x000107FF#32 } s
    let s := fnStart 0 s
    if (hqFn s 0).err then taskEnds 0x0002 0 s else taskEnds 0 0 s
  | _ => taskEnds 0x0002 0 s

/-- EMERGENCY_HOLD: HOLD with LATCHED_REQ, and EHOLD (R79). -/
def takeHold (s : State) : State :=
  let s := { s with task := { s.task with ehold := true } }
  senseFastAll (holdCause 6 s)

/-- WARM_RESET: the result is posted first. -/
def taskReset (s : State) : State :=
  if bits (taskArg s 0) 0 8 = 0x5A then requestReset 2 (taskEnds 0 0 s) else taskEnds 0x0002 0 s

/-- An accepted command that no rule forbids. -/
def taskRun (op : Nat) (s : State) : State :=
  match op with
  | 1 => taskHealth s
  | 2 => taskLogRead s
  | 3 => taskLc s
  | 4 => taskAttest s
  | 5 => taskQueues s
  | 6 => taskEnds 0 0 (takeHold s)
  | 7 => taskReset s
  | _ => taskEnds 0x0001 0 s

/-- Status with which the life cycle forbids a command, 0 where it does not (R39, R80). -/
def taskForbidden (op : Nat) (board : Bool) (s : State) : Nat :=
  if op = 0 ∨ 7 < op then 0
  else if lcEnd s ∧ 2 < op ∧ op ≠ 4 then 0x0007
  else if s.gl.lc = 2 ∧ board ∧ !([1, 2, 4, 6].contains op) then 0x0401
  else 0

/-- An accepted command runs, or waits behind BUSY for a firmware activation (R126). -/
def taskGo (op : Nat) (s : State) : State :=
  let no := taskForbidden op (s.task.source != 0) s
  if no ≠ 0 then taskEnds no 0 s
  else if s.hq.act.isSome && op != 6 then { s with task := { s.task with held := true } }
  else taskRun op s

/-- A TK_CMD write (R78, R79). -/
def taskCommand (op : Nat) (src : BusSource) (s : State) : State :=
  if !taskLive src s then s
  else if s.task.busy then
    if op = 6 ∧ !lcEnd s then takeHold s else { s with task := { s.task with overrun := true } }
  else
    taskGo op { s with task := { s.task with
      cmd := BitVec.ofNat 8 op, busy := true, source := sourceCode src, seq := s.task.seq + 1 } }

/-- A write of one TK register, by its offset in the block (R78, R79). -/
def taskWrite (src : BusSource) (o : Nat) (v : Word) (s : State) : State :=
  if !taskLive src s then s
  else if o = 0 then taskCommand (bits v 0 8) src s
  else if (0x10 ≤ o ∧ o < 0x50) ∨ (0x1000 ≤ o ∧ o < 0x2000) then
    if s.task.busy then { s with task := { s.task with overrun := true } }
    else if o < 0x50 then setTaskArg ((o - 0x10) / 4) v s
    else
      let i := (o - 0x1000) / 4 * 4
      { s with task := { s.task with data :=
        (natLe 4 v.toNat).zipIdx.foldl (fun d (b, k) => tabSet 0 d (i + k) b) s.task.data } }
  else s

/-- TK_STATUS. -/
def taskStatus (s : State) : Word :=
  BitVec.ofNat 32 (b2n s.task.busy + 2 * b2n s.task.overrun + 4 * s.task.source.toNat + 16 * b2n s.task.ehold
    + 256 * s.task.seq.toNat)

/-! ### Meanings: task commands -/

/-- A TK_CMD write of HEALTH. -/
def execHealth (t : Time) (src : BusSource) (s : State) : Host.Outcome State Fault Refusal :=
  .next (taskCommand 1 src (advance t s))

/-- A TK_CMD write of LOG_READ. -/
def execLogRead (t : Time) (src : BusSource) (s : State) : Host.Outcome State Fault Refusal :=
  .next (taskCommand 2 src (advance t s))

/-- A TK_CMD write of LC_CHANGE. -/
def execTaskLcChange (t : Time) (src : BusSource) (s : State) : Host.Outcome State Fault Refusal :=
  .next (taskCommand 3 src (advance t s))

/-- A TK_CMD write of ATTEST. -/
def execAttest (t : Time) (src : BusSource) (s : State) : Host.Outcome State Fault Refusal :=
  .next (taskCommand 4 src (advance t s))

/-- A TK_CMD write of QUEUE_SETUP. -/
def execQueueSetup (t : Time) (src : BusSource) (s : State) : Host.Outcome State Fault Refusal :=
  .next (taskCommand 5 src (advance t s))

/-- A TK_CMD write of EMERGENCY_HOLD. -/
def execEmergencyHold (t : Time) (src : BusSource) (s : State) : Host.Outcome State Fault Refusal :=
  .next (taskCommand 6 src (advance t s))

/-- A TK_CMD write of WARM_RESET. -/
def execWarmReset (t : Time) (src : BusSource) (s : State) : Host.Outcome State Fault Refusal :=
  .next (taskCommand 7 src (advance t s))

/-- A write of a TK register while BUSY is 1 (R79). -/
def execTaskWriteWhileBusy (t : Time) (src : BusSource) (offset : Nat) (value : Word) (s : State) :
    Host.Outcome State Fault Refusal :=
  let s := advance t s
  .next (if s.task.busy then taskWrite src offset value s else s)

/-! ### The board bus (R81, R419) -/

/-- The address that the device answers to. -/
def boardAddress (s : State) : BitVec 7 := s.task.dynAddr.getD (0x5C#7 + s.pins.addrSel.setWidth 7)

/-- The PEC of an SMBus write: CRC-8 over its address byte and its bytes, as SMBus 3.1 defines it. -/
def boardPec (address : BitVec 7) (bytes : List Byte) : Byte := crc8 (BitVec.ofNat 8 (2 * address.toNat) :: bytes)

/-- The registers that a write names, from its offset on. -/
def boardRegs : Nat → Nat → List Byte → List (Nat × Word)
  | 0, _, _ => []
  | n + 1, o, l => if l.length < 4 then [] else (o, BitVec.ofNat 32 (fieldLe l 0 4)) :: boardRegs n (o + 4) (l.drop 4)

/-- The bytes of a write whose PEC is settled: offset and data; an offset not aligned or outside the block is ignored. -/
def boardTake (src : BusSource) (bytes : List Byte) (s : State) : State :=
  let o := fieldLe bytes 0 2
  if o % 4 ≠ 0 ∨ 0x2000 ≤ o then s
  else forEach (boardRegs bytes.length o (bytes.drop 2)) (fun (o, v) s => taskWrite src o v s) s

/-- A write transaction on the board bus. The first transaction after a reset settles the mode. -/
def execBoardBusWrite (t : Time) (src : BusSource) (address : BitVec 7) (bytes : List Byte) (s : State) :
    Host.Outcome State Fault Refusal :=
  let s := advance t s
  if !fetching s ∨ src = .pcie ∨ address ≠ boardAddress s then .next s
  else
    let sm := src == .smbus
    if s.task.smbus = some (!sm) then .next s
    else
      let s := { s with task := { s.task with smbus := some sm } }
      if !sm then .next (boardTake src bytes s)
      else
        let body := bytes.dropLast
        if bytes.length < 3 ∨ bytes.getLast? ≠ some (boardPec address body) then
          .next { s with task := { s.task with pecErrs := satInc s.task.pecErrs } }
        else .next (boardTake src body s)

/-- SCL stays low for more than 25 ms: the transaction under way is discarded, and nothing of it has acted (R419). -/
def execSmbusTimeout (t : Time) (s : State) : Host.Outcome State Fault Refusal := .next (advance t s)

/-- SETDASA or ENTDAA replaces the static address (R81), in I3C mode. -/
def execSetdasaOrEntdaa (t : Time) (address : BitVec 7) (s : State) : Host.Outcome State Fault Refusal :=
  let s := advance t s
  if !fetching s ∨ s.task.smbus = some true then .next s
  else .next { s with task := { s.task with smbus := some false, dynAddr := some address } }

/-! ### The end of a firmware activation (R126) -/

/-- A task command that waited behind BUSY runs. -/
def taskResume (s : State) : State :=
  if s.task.held then taskRun s.task.cmd.toNat { s with task := { s.task with held := false } } else s

/-- Step 3 of R126 is reached: every command fetched earlier has completed, and the device is in IDLE or HOLD with the
tape at rest, within 10 s. -/
def swapReady (s : State) (a : Activation) : Bool :=
  (s.hq.inflight.all fun c => c.ref == a.ref) && !s.gl.moving && s.gl.resetWait.isNone
    && (decide (s.gl.cur = .idle) || decide (s.gl.cur = .hold)) && decide (s.tb.toNat < a.since.toNat + tenSeconds)

/-- The swap of R126 and R391: PENDING becomes ACTIVE and the code in patch RAM, the fuses are burnt, PENDING is emptied,
and FW_ACTIVATE completes with the version. -/
def execFwActivateSwap (t : Time) (s : State) : Host.Outcome State Fault Refusal :=
  let s := advance t s
  match s.hq.act with
  | none => .next s
  | some a =>
    if !swapReady s a then .next s
    else
      let b := s.se.pend
      let s := bundleRun b { s with se := { s.se with active := b, pend := [] }, hq := { s.hq with act := none } }
      .next (taskResume (tidy (complete a.ref 0 0 (bundleVersion b) false s)))

/-- Step 3 has not been reached 10 s after step 1 (R126): MODE_REFUSED, nothing changes, fetching resumes. -/
def execFwActivateTimeout (t : Time) (s : State) : Host.Outcome State Fault Refusal :=
  let s := advance t s
  match s.hq.act with
  | none => .next s
  | some a =>
    if a.since.toNat + tenSeconds ≤ s.tb.toNat then
      .next (taskResume (tidy (failCmd a.ref 0x0007 { s with hq := { s.hq with act := none } })))
    else .next s

end Sys2Proof.Machine
end

