-- ==== Sys2Proof/Machine/Memory.lean ====
section
/-!
DEFINITION. Memory integrity (R363 to R380): reads and writes of protected units, the scrubber with what each owner
requires of a bad unit, remapping, error injection, and the trap of an instruction fetch (R373).
-/

namespace Sys2Proof.Machine

/-! ### Protected units (R363 to R365) -/

/-- Place of a unit in the table of units. -/
def memKey (c a : Nat) : Nat := c * 2 ^ 40 + a

/-- The unit that holds an address: 32 B in classes 0 and 2, a word of a macro in class 1. -/
def unitBase (c a : Nat) : Nat := if c = 1 then a else a / 32 * 32

/-- The stored bits of a unit. -/
def unitBits (s : State) (c a : Nat) : BitVec 288 := tabGet 0 s.mi.units (memKey c a)

/-- Codeword bytes of a unit: mask bit i is bit i of the 36 bytes (R378). -/
def codeBytes (w : BitVec 288) : List Byte := natLe 36 w.toNat

/-- A unit from its codeword bytes. -/
def ofCode (l : List Byte) : BitVec 288 := BitVec.ofNat 288 (leNat l)

/-- The eight 13-bit groups of a class 1 word (R378). -/
def wordGroups (w : BitVec 288) : List Nat := (List.range 8).map fun b => bits w (13 * b) 13

/-- A class 1 word from its groups. -/
def ofGroups (l : List Nat) : BitVec 288 := BitVec.ofNat 288 ((l.zipIdx.map fun (g, b) => g * 2 ^ (13 * b)).sum)

/-- The bits that a whole-unit write of data stores. -/
def encodeUnit (c : Nat) (data : BitVec 256) : BitVec 288 :=
  if c = 1 then ofGroups ((natLe 8 (data.toNat % 2 ^ 64)).map hamStore) else ofCode (unitWord (natLe 32 data.toNat))

/-- A class 1 word read (R364): the worst of its bytes decides; the detail of a corrected bit is 8·byte + bit (R379). -/
def readWord (w : BitVec 288) : ReadResult × BitVec 288 :=
  let rs := (wordGroups w).map hamRead
  if rs.any fun r => r.1 == .poisoned then (.poisoned, w)
  else if rs.any fun r => r.1 == .uncorrectable then (.uncorrectable, w)
  else
    let fixed := ofGroups (rs.map fun r => r.2)
    match rs.zipIdx.find? fun r => r.1.1 != .clean with
    | none => (.clean, w)
    | some ((.corrected p, _), b) => (.corrected (if p < 8 then 8 * b + p else 255), fixed)
    | some _ => (.clean, w)

/-- A unit read: the decision, and the unit after correction. -/
def readUnit (c : Nat) (w : BitVec 288) : ReadResult × BitVec 288 :=
  if c = 1 then readWord w
  else
    let r := unitRead (codeBytes w)
    (r.1, ofCode r.2)

/-- A unit poisoned, its data bits left as they are (R365). -/
def poisonUnit (c : Nat) (w : BitVec 288) : BitVec 288 :=
  if c = 1 then ofGroups ((wordGroups w).map hamPoison) else ofCode (unitPoison (codeBytes w))

/-! ### Writes and injection (R378) -/

/-- An injector at its Reset column. -/
def injectZero : Inject := { mask := 0, addr := 0, addrHi := 0, armed := false }

/-- Injector of class `c`. -/
def injectOf (s : State) (c : Nat) : Inject := tabGet injectZero s.mi.inj c

/-- Set the injector of class `c`. -/
def setInject (c : Nat) (v : Inject) (s : State) : State :=
  { s with mi := { s.mi with inj := tabSet injectZero s.mi.inj c v } }

/-- The injector of class `c` is armed for the unit. -/
def injects (s : State) (c a : Nat) : Bool :=
  let v := injectOf s c
  v.armed && unitBase c v.addr.toNat == a

/-- The bits of a unit, without a write. -/
def setUnitBits (c a : Nat) (w : BitVec 288) (s : State) : State :=
  { s with mi := { s.mi with units := tabSet 0 s.mi.units (memKey c a) w } }

/-- Bits of a unit that a mask covers: 104 in class 1. -/
def unitMask (c : Nat) (m : BitVec 288) : BitVec 288 := if c = 1 then m &&& BitVec.ofNat 288 (2 ^ 104 - 1) else m

/-- A write of any agent lands in a unit: an injector armed for it XORs its mask in and disarms (R378). A unit that is
not left poisoned has no owner handled any more (R365, R370). -/
def storeUnit (c a : Nat) (w : BitVec 288) (s : State) : State :=
  let hit := injects s c a
  let w := if hit then w ^^^ unitMask c (injectOf s c).mask else w
  let s := if hit then setInject c { injectOf s c with mask := 0, armed := false } s else s
  let k := memKey c a
  let s := setUnitBits c a w s
  { s with mi := { s.mi with
    injected := if hit then k :: s.mi.injected.filter (· != k) else s.mi.injected.filter (· != k)
    handled := if (readUnit c w).1 = .poisoned then s.mi.handled else s.mi.handled.filter (· != k) } }

/-- Bytes of a memory class that has a flat address space: 48 GiB of buffer, 64 MiB of MRAM. -/
def classBytes (c : Nat) : Nat := if c = 0 then 48 * 2 ^ 30 else 64 * 2 ^ 20

/-- An address that its class has. -/
def unitExists (c a : Nat) : Bool := decide (c < 3) && (c == 1 || decide (a < classBytes c))

/-! ### Counters and the address log (R379, R380) -/

/-- The address log takes an entry. -/
def logEntry (e : DWord × DWord) (s : State) : State :=
  { s with mi := { s.mi with log := ((s.mi.log ++ [e]).reverse.take 16).reverse, logN := s.mi.logN + 1 } }

/-- The entry of a finding (R379). -/
def findingOf (s : State) (c kind owner flags detail a : Nat) : DWord × DWord :=
  let inj := if s.mi.injected.contains (memKey c a) then 64 else 0
  (s.tb, BitVec.ofNat 64 (a % 2 ^ 40 + (c + 4 * kind) * 2 ^ 40 + (owner + flags + inj) * 2 ^ 48 + detail * 2 ^ 56))

/-- A counter of class `c` advances. -/
def countMem (t : List (Nat × Word)) (c : Nat) : List (Nat × Word) := tabSet 0 t c (satInc (tabGet 0 t c))

/-! ### Owners (R370) -/

/-- First byte of the shared region (R255). The regions lie in the order in which the manual lists them. DEDUCED (log entry 50). -/
def sharedBase : Nat := 2 ^ 31

/-- The staging grant whose page holds an address of the buffer. -/
def grantAt (s : State) (c a : Nat) : Option Grant :=
  if c = 0 ∧ sharedBase ≤ a then s.sm.grants.find? fun g => g.pages.contains ((a - sharedBase) / pageBytes) else none

/-- OWNER code of a use. -/
def useOwner (u : UnitUse) : Nat :=
  match u with
  | .free => 0
  | .cache _ _ => 1
  | .working _ => 4
  | .table _ _ => 5
  | .image => 6
  | .accumulator => 7
  | .recovery => 8
  | .bundle => 9
  | .items _ _ => 10
  | .calibration => 11
  | .keySlot _ => 12
  | .kek _ => 12
  | .rosterUnit _ => 13
  | .instruction => 14
  | .headEntry _ _ => 15
  | .identityKey => 15
  | .transportKey => 15
  | .mram => 15

/-- OWNER of a unit: staging is told apart by the commit of its APPEND's completion (R372). -/
def ownerOf (s : State) (c a : Nat) (u : UnitUse) : Nat :=
  if c = 2 then 15
  else match grantAt s c a with
    | some g => if (findCmd s g.ref).isSome then 3 else 2
    | none => useOwner u

/-- Some byte of an element lies in the 32 B at an address of the shared region. -/
def elementHit (a : Nat) (e : Element) : Bool :=
  let p := (a - sharedBase) / pageBytes
  let o := (a - sharedBase) % pageBytes
  match e.pages.findIdx? (· == p) with
  | none => false
  | some j =>
    let lo := j * pageBytes + o
    decide (lo < e.off + e.size) && decide (e.off < lo + 32)

/-- Records of completed APPENDs with a byte in a bad unit are lost, but for those whose data sets are all assembled
(R370 owner 2, R127 to R130, R195). -/
def loseStaged (a : Nat) (s : State) : State :=
  forEach s.vol.parts (fun (p, v) s =>
    let hit := v.elems.filter fun e => decide (e.kind = .record) && !e.lost && !wholly e && elementHit a e
    let owned := hit.map fun e => ({ block := e.block, fn := e.fn, seq := e.seq, void := false } : Owned)
    let isHit := fun (e : Element) => hit.any fun h => h.block == e.block
    let v := { v with
      elems := v.elems.map fun e => if isHit e then { e with lost := true, bytes := List.replicate e.bytes.length 0 } else e }
    if hit.isEmpty then s else addLosses 1 0 (lostRanges p owned) (setPart p v s)) s

/-- A function fault (R371): a table that belongs to no single function faults the PF. -/
def functionFault (f : Fn) (ref : Option CmdRef) (s : State) : State :=
  let s := { s with mi := { s.mi with ffault := s.mi.ffault ||| BitVec.ofNat 64 (2 ^ f.toNat) } }
  match ref with
  | none => s
  | some r => failCmd r 0x0302 s

/-- The items of a spill queue with a word in the unit are dropped (R355, R370). -/
def dropItems (q : Nat) (idx : List Nat) (s : State) : State :=
  let v := spillOf s q
  let keep := (v.queue.zipIdx.filter fun x => !idx.contains x.2).map fun x => x.1
  let gone := v.queue.length - keep.length
  setSpill q ((List.range gone).foldl (fun v _ => dropItem s.tb v) { v with queue := keep }) s

/-- The item that a roster unit works on is discarded and tried again as after a failure of the unit (R370 owner 13); a
unit whose word could not be remapped is benched with CAUSE 2. -/
def unitHurt (i : Nat) (remapped : Bool) (s : State) : State :=
  let s :=
    if 1024 ≤ i ∧ i < 1152 then
      let s := frameBack (i - 1024) s
      { s with rch := { s.rch with engines := s.rch.engines.filter fun x => x.1 != i - 1024 } }
    else if 1152 ≤ i ∧ i < 1184 then
      match s.eng.busy.find? fun b => b.1 == i - 1152 with
      | none => s
      | some (_, r) =>
        let s := { s with eng := { s.eng with busy := s.eng.busy.filter fun b => b.1 != i - 1152 } }
        if r.live then runAgain r s else s
    else if 1184 ≤ i ∧ i < 1188 then
      match s.cy.busy.find? fun b => b.1 == i - 1184 with
      | none => s
      | some (_, w) => recordAgain w { s with cy := { s.cy with busy := s.cy.busy.filter fun b => b.1 != i - 1184 } }
    else s
  if remapped || decide (rosterSize ≤ i) || decide ((crewOf s i).st = .benched) then s else benchUnit i 2 s

/-- The function whose log takes the MEMORY item: the owner of a function fault, otherwise the PF. -/
def memoryLogOf (owner : Nat) (u : UnitUse) : Fn :=
  match owner, u with
  | 5, .table (some f) _ => f
  | _, _ => 0

/-- The action that the owner of a bad unit requires (R370, R382). -/
def ownerAction (c a owner : Nat) (u : UnitUse) (remapped : Bool) (s : State) : State :=
  match owner with
  | 0 => storeUnit c a 0 s
  | 2 => loseStaged a s
  | 3 => (match grantAt s c a with | none => s | some g => failCmd g.ref 0x0301 s)
  | _ =>
    match u with
    | .cache p d => { s with rdr := { s.rdr with cache := s.rdr.cache.filter fun x => !(x.part == p && x.dsn == d) } }
    | .working r => failCmd r 0x0301 s
    | .table f r => functionFault (f.getD 0) r s
    | .bundle => { s with se := { s.se with partial_ := none } }
    | .items q idx => dropItems q idx s
    | .keySlot k => slotErase k s
    | .kek f => setKek f [] s
    | .rosterUnit i => unitHurt i remapped s
    | .headEntry e z => setHeadEntry e z ((List.range 16).map zoneDefaultByte) s
    | .identityKey => { s with se := { s.se with idKey := false } }
    | .transportKey => { s with se := { s.se with xport := false } }
    | _ => s

/-- The owner of a bad unit is handled, once until a write replaces the unit, and its log takes a MEMORY item (R360,
R370). -/
def handleOwner (c a owner : Nat) (u : UnitUse) (remapped : Bool) (e : DWord × DWord) (s : State) : State :=
  let k := memKey c a
  if s.mi.handled.contains k then s
  else
    let f := memoryLogOf owner u
    let s := event f f 0x20 [e.1, e.2] { s with mi := { s.mi with handled := k :: s.mi.handled } }
    ownerAction c a owner u remapped s

/-! ### Remapping (R376) -/

/-- Spares of one pseudo-channel or macro. -/
def spareCount (c : Nat) : Nat := if c = 0 then 8 else 4

/-- The pseudo-channel or macro of a unit. -/
def bankOf (c a : Nat) (bank : BitVec 6) : Nat := if c = 0 then bank.toNat else a / 2 ^ 20

/-- The line or word that is remapped as a whole. -/
def lineOf (c a : Nat) : Nat := if c = 0 then a / 64 * 64 else a

/-- Spares in use of a bank. -/
def sparesUsed (s : State) (c bank : Nat) : Nat :=
  (s.mi.remapped.filter fun x => x.1 / 2 ^ 40 == c && x.2 == bank).length

/-- The line or word is copied into a spare, its corrected data or its poison with it, and the mapping switches; without
a spare it stays in use, and the first refusal is logged. -/
def remap (c a owner flags : Nat) (bank : BitVec 6) (s : State) : State :=
  let b := bankOf c a bank
  let line := lineOf c a
  if sparesUsed s c b < spareCount c then
    let s := logEntry (findingOf s c 4 owner flags 255 a) s
    let units := if c = 0 then [line, line + 32] else [line]
    let s := forEach units (fun u s => storeUnit c u (readUnit c (unitBits s c u)).2 s) s
    { s with mi := { s.mi with
      remapped := s.mi.remapped ++ [(memKey c line, b)]
      seen := s.mi.seen.filter fun x => !(units.map (memKey c)).contains x.1 } }
  else if s.mi.fullSaid.contains (memKey c b) then s
  else logEntry (findingOf s c 5 owner flags 255 a) { s with mi := { s.mi with fullSaid := memKey c b :: s.mi.fullSaid } }

/-- AUTO_REMAP acts on a class. -/
def remaps (s : State) (c : Nat) : Bool := decide (c < 2) && s.mi.ctl.getLsbD 0

/-! ### The scrubber (R366, R369) -/

/-- A corrected unit: counted, logged, written back unless the write-back is dropped, and remapped when an earlier pass
corrected it at the same position (R366, R369, R376). -/
def scrubCorrected (c a detail : Nat) (fixed : BitVec 288) (obs : ScrubObs) (s : State) : State :=
  let owner := ownerOf s c a obs.use
  let s := logEntry (findingOf s c 0 owner 16 detail a) { s with mi := { s.mi with corr := countMem s.mi.corr c } }
  let s :=
    if c = 0 ∧ obs.wbFull then
      logEntry (findingOf s c 3 owner 16 255 a) { s with mi := { s.mi with wbdrop := satInc s.mi.wbdrop } }
    else storeUnit c a fixed s
  let again := tabGet 0 s.mi.seen (memKey c a) == detail + 1
  let s := { s with mi := { s.mi with seen := tabSet 0 s.mi.seen (memKey c a) (detail + 1) } }
  if again && remaps s c then remap c a owner 16 obs.bank s else s

/-- An uncorrectable unit: counted; a write that came between prevails, and otherwise the unit is poisoned and its owner
handled (R369, R370). -/
def scrubUncorrectable (c a : Nat) (w : BitVec 288) (obs : ScrubObs) (s : State) : State :=
  let owner := ownerOf s c a obs.use
  let s := { s with mi := { s.mi with unc := countMem s.mi.unc c } }
  match obs.newer with
  | some d =>
    let s := logEntry (findingOf s c 1 owner 48 255 a) s
    let s := storeUnit c a (encodeUnit c d) s
    if remaps s c then remap c a owner 16 obs.bank s else s
  | none =>
    let e := findingOf s c 1 owner 16 255 a
    let s := storeUnit c a (poisonUnit c w) (logEntry e s)
    let n := s.mi.remapped.length
    let s := if remaps s c then remap c a owner 16 obs.bank s else s
    handleOwner c a owner obs.use (decide (n < s.mi.remapped.length)) e s

/-- A poisoned unit: counted in MI_POISONc alone (R365). -/
def scrubPoisoned (c a : Nat) (obs : ScrubObs) (s : State) : State :=
  let owner := ownerOf s c a obs.use
  let e := findingOf s c 2 owner 16 255 a
  let s := logEntry e { s with mi := { s.mi with poison := countMem s.mi.poison c } }
  handleOwner c a owner obs.use true e s

/-- Passes of all three classes that are finished. -/
def passesDone (m : Mem) : Nat := min (tabGet 0 m.passed 0) (min (tabGet 0 m.passed 1) (tabGet 0 m.passed 2))

/-- The scrubber moves on in a class; the end of the last class's pass ends the pass (R369, R339). -/
def scrubMoves (c a : Nat) (next : Option Nat) (s : State) : State :=
  let place : Option Nat :=
    if c = 1 then (match next with | none => none | some n => if a < n ∧ n < 2 ^ 40 then some n else none)
    else if a + 32 < classBytes c then some (a + 32) else none
  match place with
  | some n => { s with mi := { s.mi with pos := tabSet 0 s.mi.pos c n } }
  | none =>
    let before := passesDone s.mi
    let s := { s with mi := { s.mi with
      pos := tabSet 0 s.mi.pos c 0, passed := tabSet 0 s.mi.passed c (tabGet 0 s.mi.passed c + 1) } }
    if before < passesDone s.mi then pulseInternal 213 { s with mi := { s.mi with passes := s.mi.passes + 1 } } else s

/-- The scrubber reads the next unit of a class. -/
def execScrubRead (t : Time) (cls : BitVec 2) (obs : ScrubObs) (s : State) : Host.Outcome State Fault Refusal :=
  let s := advance t s
  let c := cls.toNat
  if 3 ≤ c ∨ !fetching s ∨ !s.mi.ctl.getLsbD 1 then .next s
  else
    let a := tabGet 0 s.mi.pos c
    let w := unitBits s c a ^^^ unitMask c obs.upset
    let s := setUnitBits c a w s
    let s := match readUnit c w with
      | (.clean, _) => s
      | (.corrected d, fixed) => scrubCorrected c a d fixed obs s
      | (.poisoned, _) => scrubPoisoned c a obs s
      | (.uncorrectable, _) => scrubUncorrectable c a w obs s
    .next (tidy (scrubMoves c a obs.next s))

/-! ### Injection (R378) -/

/-- One half of MI_FLIPADDR is written, which arms the injector (R378). -/
def flipAddr (c : Nat) (high : Bool) (value : Nat) (s : State) : State :=
  let v := injectOf s c
  let old := v.addr.toNat + v.addrHi.toNat * 2 ^ 40
  let new := if high then old % 2 ^ 32 + value * 2 ^ 32 else old / 2 ^ 32 * 2 ^ 32 + value
  setInject c { v with addr := BitVec.ofNat 40 new, addrHi := BitVec.ofNat 24 (new / 2 ^ 40), armed := true } s

/-- A write to MI_FLIPADDRc arms the injector with the address. -/
def execMiFlipaddrWrite (t : Time) (cls : BitVec 2) (high : Bool) (width : Nat) (value : DWord) (s : State) :
    Host.Outcome State Fault Refusal :=
  let s := advance t s
  let c := cls.toNat
  if 3 ≤ c ∨ !regsLive s ∨ (width ≠ 4 ∧ (width ≠ 8 ∨ high)) then .next s
  else if width = 8 then .next (flipAddr c true (value.toNat / 2 ^ 32) (flipAddr c false (value.toNat % 2 ^ 32) s))
  else .next (flipAddr c high (value.toNat % 2 ^ 32) s)

/-- A whole-unit write of an agent: an injector armed for the unit acts on it. -/
def execInjectedWrite (t : Time) (cls : BitVec 2) (addr : BitVec 40) (data : BitVec 256) (s : State) :
    Host.Outcome State Fault Refusal :=
  let s := advance t s
  let c := cls.toNat
  let a := unitBase c addr.toNat
  if !fetching s ∨ !unitExists c a then .next s else .next (storeUnit c a (encodeUnit c data) s)

/-! ### Instruction fetch (R373) -/

/-- The trap ends in HOLD: a fetch from ROM, a refetch that fails, an active copy that fails its hash, or the second
uncorrectable fetch from one address in this boot. -/
def fetchHolds (s : State) (f : FetchFault) : Bool :=
  f.fromRom || !f.refetchOk || (s.gl.patched && f.hash != sha256 s.se.active) || s.mi.traps.contains f.addr

/-- A finding in the patch RAM, class 1 with OWNER 14: counted, logged and reported. ROM is in no class. -/
def fetchFinding (f : FetchFault) (s : State) : State :=
  if f.fromRom then s
  else
    let e := findingOf s 1 (if f.poisoned then 2 else 1) 14 0 255 f.addr
    let s := logEntry e { s with mi := { s.mi with
      unc := if f.poisoned then s.mi.unc else countMem s.mi.unc 1
      poison := if f.poisoned then countMem s.mi.poison 1 else s.mi.poison } }
    event 0 0 0x20 [e.1, e.2] s

/-- An uncorrectable or poisoned instruction fetch traps: the patch region is rewritten from an active copy that matches
its measurement, or the device enters HOLD with LATCHED_FETCH and fast source 9. -/
def execInstructionFetchTrap (t : Time) (fault : FetchFault) (s : State) : Host.Outcome State Fault Refusal :=
  let s := advance t s
  if !fetching s then .next s
  else
    let s := fetchFinding fault s
    let bad := fetchHolds s fault
    let s := if s.gl.patched && fault.hash == sha256 s.se.active then
        { s with se := { s.se with patchRam := slice s.se.active 512 (bundleLen s.se.active) } } else s
    let s := { s with mi := { s.mi with traps := fault.addr :: s.mi.traps.filter (· != fault.addr) } }
    if !bad then .next s
    else .next (senseFastAll (holdCause 5 { s with gl := { s.gl with liveFetch := true } }))

end Sys2Proof.Machine
end

