-- ==== Sys2Proof/WellFormed.lean ====
section
/-!
DEFINITION. Which commands can occur: the ranges of numbers that the manual's tables give their operands. A command
outside them has no counterpart at the device; `exec` gives it the meaning of an access that nothing answers.
-/

namespace Sys2Proof

/-- A queue name lies in the identifiers of its function: 0 to 8,191 on the PF, 0 to 511 on a VF (R55). -/
def queueOk (f : Fn) (q : Nat) : Bool := if f = 0 then decide (q < 8192) else decide (q < 512)

/-- A command reference names a possible submission queue, or, from 8,192 on, a command that an FLR has cut off from
its queue and that runs to its end with no completion (R124). -/
def refOk (r : CmdRef) : Bool := queueOk r.fn r.sq || decide (8192 ≤ r.sq)

/-- A bus write is 1, 2, 4 or 8 bytes wide (R67, R396). -/
def widthOk (w : Nat) : Bool := w == 1 || w == 2 || w == 4 || w == 8

/-- A register access that BAR0 takes: 4 or 8 bytes, aligned (R396), inside the window: 1 MiB for the PF, 64 KiB for a
VF. -/
def accessOk (f : Fn) (offset width : Nat) : Bool :=
  (width == 4 || width == 8) && offset % width == 0 && decide (offset + width ≤ if f = 0 then 1048576 else 65536)

/-- A register access inside the window that BAR0 rejects (R396). -/
def accessBad (f : Fn) (offset width : Nat) : Bool :=
  decide (offset < if f = 0 then 1048576 else 65536) && !((width == 4 || width == 8) && offset % width == 0)

/-- A spill queue number (R351). -/
def spillOk (q : Nat) : Bool := decide (q < 80)

/-- A normal source number of a function (R338), or a fast one (R340). -/
def sourceOk (f : Fn) (fast : Bool) (src : Nat) : Bool :=
  if fast then f == 0 && decide (src < 32)
  else if f = 0 then decide (src < 8736) else decide (src < 513)

/-- A vector number of a function (R55). -/
def vectorOk (f : Fn) (v : Nat) : Bool := if f = 0 then decide (v < 2048) else decide (v < 128)

/-- Eight junction temperatures (R402). -/
def tempsOk (l : List (BitVec 16)) : Bool := l.length == 8

/-- Link bring-up names the eight head modules (R33). -/
def bringUpOk (b : BringUp) : Bool := b.heads.length == 8

/-- Loads of 4-byte elements of a scatter-list segment: at most 4,096 (R60). -/
def segsOk (l : List SgSeg) : Bool := l.all fun s => decide (s.elems.length ≤ 4096)

/-- The operands of a command lie in the ranges the manual gives them. -/
def WellFormed (i : Instr) : Bool :=
  match i with
  | .perstNRise _ _ temps => tempsOk temps
  | .tempUpdate _ temps => tempsOk temps
  | .rootPllLock _ env => bringUpOk env
  | .warmResetStart _ env => bringUpOk env
  | .commandAged _ ref => refOk ref
  | .wrapChange _ w => decide (w < 24)
  | .sqTailDoorbell _ f q w _ => queueOk f q && widthOk w
  | .cqHeadDoorbell _ f q w _ => queueOk f q && widthOk w
  | .append _ ref _ segs _ => refOk ref && segsOk segs
  | .read _ ref segs => refOk ref && segsOk segs
  | .verify _ ref => refOk ref
  | .flush _ ref => refOk ref
  | .writeMark _ ref => refOk ref
  | .readPosition _ ref segs => refOk ref && segsOk segs
  | .orderQuery _ ref segs list => refOk ref && segsOk segs && decide (list.length ≤ 8192)
  | .locate _ ref => refOk ref
  | .createCq _ ref => refOk ref
  | .deleteCq _ ref => refOk ref
  | .createSq _ ref => refOk ref
  | .deleteSq _ ref => refOk ref
  | .abort _ ref ahead => refOk ref && decide (ahead.length ≤ 65535)
  | .getParam _ ref => refOk ref
  | .setParam _ ref => refOk ref
  | .getLog _ ref segs => refOk ref && segsOk segs
  | .keyLoadKek _ ref segs blob => refOk ref && segsOk segs && blob.length == 384
  | .keyLoadRecordKey _ ref segs blob => refOk ref && segsOk segs && blob.length == 40
  | .keyErase _ ref => refOk ref
  | .keyEraseImmediate _ ref => refOk ref
  | .keyEraseKek _ ref => refOk ref
  | .load _ ref _ => refOk ref
  | .unload _ ref _ _ => refOk ref
  | .partition _ ref segs sizes _ => refOk ref && segsOk segs && decide (sizes.length ≤ 64)
  | .eraseTruncate _ ref => refOk ref
  | .eraseLong _ ref _ => refOk ref
  | .eraseSanitise _ ref _ _ => refOk ref
  | .calibrate _ ref segs units _ => refOk ref && segsOk segs && decide (units.length ≤ 1224)
  | .telltaleStart _ ref => refOk ref
  | .telltaleStop _ ref => refOk ref
  | .bench _ ref => refOk ref
  | .selfTest _ ref _ => refOk ref
  | .holdEnter _ ref => refOk ref
  | .holdRelease _ ref => refOk ref
  | .lcChange _ ref segs auth => refOk ref && segsOk segs && decide (auth.length ≤ 1048576)
  | .patchDownload _ ref segs data => refOk ref && segsOk segs && decide (data.length ≤ 262144)
  | .fwActivate _ ref => refOk ref
  | .taskWriteWhileBusy _ _ o _ => o % 4 == 0 && decide (o < 8192)
  | .sourceLineChange _ f fast src => sourceOk f fast src
  | .holdoffExpiry _ f fast v => if fast then f == 0 else vectorOk f v
  | .msixUnmask _ f v => (match v with | none => true | some n => vectorOk f n)
  | .icActiveRead _ f fast w => if fast then w == 0 else if f = 0 then decide (w < 280) else decide (w < 17)
  | .icPendWrite _ f fast w _ => if fast then w == 0 else if f = 0 then decide (w < 280) else decide (w < 17)
  | .itemOffer _ q _ words => spillOk q && decide (words.length ≤ 16)
  | .batchIdleTimeout _ q => spillOk q
  | .spillHeadWrite _ q _ => spillOk q
  | .spillFlush _ q => spillOk q
  | .spillFlushEffect _ q => spillOk q
  | .spillStart _ q => spillOk q
  | .spillStop _ q => spillOk q
  | .spillConsumerHalt _ q => spillOk q
  | .laneTrainingDone _ _ _ lo up => lo.length == up.length
  | .frameDecodeDone _ _ _ => true
  | .dmaChannelHalt _ f q => queueOk f q
  | .completionTimeout _ f q => queueOk f q
  | .miFlipaddrWrite _ c _ w _ => decide (c.toNat < 3) && (w == 4 || w == 8)
  | .injectedWrite _ c _ _ => decide (c.toNat < 3)
  | .scrubRead _ c _ => decide (c.toNat < 3)
  | .bar0AccessReject _ f _ o w => accessBad f o w
  | .rocRead _ f o w => accessOk f o w
  | .lowHalfRead _ f o => accessOk f o 4
  | .registerWrite _ f bar o w _ => bar == 4#3 || accessOk f o w
  | .burstWindowClose _ _ => true
  | .sheetPacketReceive _ link code _ _ _ => decide (link.toNat < 24) && decide (code.toNat < 5)
  | .sheetLinkSync _ link => decide (link.toNat < 24)
  | .sheetLinkLoss _ link => decide (link.toNat < 24)
  | .perstNFall _ | .refClkLoss _ | .supplyMonitorTrip _ | .pwrWarnNFall _ | .holdInNFall _ | .tapeAtRest _
  | .warmResetRequest _ _ | .flr _ _ | .gateDelayExpiry _ | .dieShutdownDone _ _ | .dieWakeDone _ _
  | .readWaitExpiry _ | .writeSessionStart _ _ | .tapeCommandChoose _ | .locateTargetReached _ | .commandFetch _ _
  | .hqEnable _ _ | .hqDisable _ _ | .hqAllotWrite _ _ _ _ | .stagingGrant _ | .acceptancePoint _ | .lcArmExpiry _
  | .fwActivateSwap _ | .fwActivateTimeout _ | .health _ _ | .logRead _ _ | .taskLcChange _ _ | .attest _ _
  | .queueSetup _ _ | .emergencyHold _ _ | .warmReset _ _ | .boardBusWrite _ _ _ _ | .smbusTimeout _
  | .getVersion _ _ _ | .getCapabilities _ _ _ | .negotiateAlgorithms _ _ _ | .getDigests _ _ _
  | .getCertificate _ _ _ | .challenge _ _ _ | .getMeasurements _ _ _ | .doeDiscovery _ _ | .doeAbort _
  | .unlock _ _ | .interruptDelivery _ | .fastDelivery _ | .icEoi _ _ _ | .icFEoi _ _ | .icSrcCfgWrite _ _ _
  | .strokeBoundary _ | .slotStart _ | .slotComplete _ _ | .loopStart _ _ _ | .loopStop _ _ _ | .ceSwapWrite _ _
  | .rcDataAccess _ _ _ | .readSampleCell _ _ _ _ | .servoSampleCell _ _ _ _ | .headStatusCell _ _ _ _
  | .laneLoss _ _ | .moduleSample _ _ _ | .writeGateOpen _ _ _ | .servoLossLimit _ _ | .sheetLinkStable _
  | .sheetRefresh _ | .encoderEdge _ _ _ _ | .encoderIndex _ _ | .gpiEdge _ _ _ | .rowDispatch _ | .tapeResume _
  | .readAheadStop _ | .demandUpdate _ | .reefRampDone _ | .verifyResult _ _ _ | .verifyDeadline _ _
  | .frameDecodeStart _ _ _ | .blankDetect _ | .runDispatch _ _ | .runComplete _ _ _ | .cipherRecordStart _ _
  | .cipherRecordEnd _ _ _ | .drbgReseed _ _ | .entropyHealthFail _ | .instructionFetchTrap _ _ | .holdInNRise _
  | .pwrWarnNRise _ | .rsaOperationDone _ | .doeResponseRead _ | .vfEnableWrite _ _ | .setdasaOrEntdaa _ _ => true

end Sys2Proof
end

