-- ==== Sys2Proof/Machine/Registers.lean ====
section
/-!
DEFINITION. BAR0 and the MSI-X table of BAR4 (chapter 18): which register each offset of the PF map (R401) and of a VF
window (R404) names, what a read answers and clears (R5), the halves of 64-bit pairs (R8), what a write changes under
the conditions of R405, rejected accesses (R396), and the time from a warm reset request on (R398).
-/

namespace Sys2Proof.Machine

/-! ### Reads, block by block: the value, and the state after it -/

/-- One half of a 64-bit value. -/
def halfOf (v : DWord) (high : Bool) : Word := if high then (v >>> 32).setWidth 32 else v.setWidth 32

/-- A 64-bit value with one half replaced. -/
def setHalf (v : DWord) (high : Bool) (w : Word) : DWord := putBits v (if high then 32 else 0) 32 w.toNat

/-- The offset names the high half of a pair. -/
def highHalf (o : Nat) : Bool := o % 8 == 4

/-- GL block (R402). -/
def glRead (s : State) (o : Nat) : Word × State :=
  if o = 0x48 then (s.gl.accErr, { s with gl := { s.gl with accErr := 0 } })
  else if 0x50 ≤ o ∧ o < 0x70 then ((s.pins.temps.getD ((o - 0x50) / 4) 0).signExtend 32, s)
  else if 0x80 ≤ o ∧ o < 0x9C then
    let c := (o - 0x80) / 4
    (tabGet 0 s.crew.stale c, { s with crew := { s.crew with stale := tabSet 0 s.crew.stale c 0 } })
  else
    (match o with
      | 0x00 => 0x00021024#32
      | 0x04 => 0x00010000#32
      | 0x08 => 0x0400403F#32
      | 0x10 => modeWord s
      | 0x18 | 0x1C => halfOf s.gl.modeTs (highHalf o)
      | 0x20 => holdWord s
      | 0x28 => resetWord s
      | 0x30 => lcWord s
      | 0x38 | 0x3C => halfOf s.tb (highHalf o)
      | 0x40 => clkWord s
      | 0xA0 => rosterSum s
      | _ => 0, s)

/-- IC_SRC_STS of source `n`. -/
def srcStsWord (s : State) (f : Fn) (n : Nat) : Word :=
  let v := srcOf s f n
  if srcExists s f n then
    BitVec.ofNat 32 (b2n (pendingNow s f n) + 2 * b2n v.insvc + 4 * b2n (srcLine s f n) + 8 * b2n v.looked + 16 * v.count)
  else 0

/-- IC_VEC_STS of vector `v`. -/
def vecStsWord (s : State) (f : Fn) (v : Nat) : Word :=
  let l := groupSources s f v
  BitVec.ofNat 32 (b2n (!l.isEmpty) + 2 * b2n (l.any fun n => (srcOf s f n).insvc) + 4 * b2n (holding s f v)
    + l.length * 2 ^ 16)

/-- IC normal bank of function `f`, by the offset in the bank. -/
def icRead (f : Fn) (s : State) (o : Nat) : Word × State :=
  let c := icFn s f
  let v := srcOf s f c.sel
  let w (base : Nat) : Nat := (o - base) / 4
  if 0x100 ≤ o ∧ w 0x100 < icWords f then (pendWord s f (w 0x100), s)
  else if 0x600 ≤ o ∧ w 0x600 < icWords f then (maskWord s f (w 0x600), s)
  else if 0xB00 ≤ o ∧ w 0xB00 < icWords f then (activeWord s f (w 0xB00), lookWord f (w 0xB00) s)
  else if o = 0x18 then (v.vanished.setWidth 32, if srcExists s f c.sel then setSrc f c.sel { v with vanished := 0 } s else s)
  else
    (match o with
      | 0x00 => BitVec.ofNat 32 (b2n c.en)
      | 0x04 => BitVec.ofNat 32 (groupsOf s f + b2n c.nogrp * 2 ^ 16)
      | 0x08 => BitVec.ofNat 32 c.sel
      | 0x0C => BitVec.ofNat 32 (v.sense + v.vector * 2 ^ 8)
      | 0x10 => srcStsWord s f c.sel
      | 0x14 => v.edges
      | 0x20 => BitVec.ofNat 32 c.vsel
      | 0x24 => BitVec.ofNat 32 (tabGet 0 s.ic.holdoff (vecKey f c.vsel))
      | 0x28 => vecStsWord s f c.vsel
      | _ => 0, s)

/-- IC_F_SENSE register `j`: sources 8j to 8j + 7, 4 bits each. -/
def fastSenseWord (s : State) (j : Nat) : Word :=
  BitVec.ofNat 32 ((List.range 8).map fun i => (fastOf s (8 * j + i)).sense * 2 ^ (4 * i)).sum

/-- IC fast bank, by the offset in its page. -/
def fastRead (s : State) (o : Nat) : Word × State :=
  if 0x20 ≤ o ∧ o < 0x30 then (fastSenseWord s ((o - 0x20) / 4), s)
  else if 0x40 ≤ o ∧ o < 0xC0 then ((fastOf s ((o - 0x40) / 4)).edges, s)
  else if 0xC0 ≤ o ∧ o < 0x140 then
    let n := (o - 0xC0) / 4
    ((fastOf s n).vanished.setWidth 32, setFast n { fastOf s n with vanished := 0 } s)
  else match o with
    | 0x00 => (BitVec.ofNat 32 (b2n s.ic.fastEn + 2 * b2n s.ic.alertEn), s)
    | 0x04 => (fastPendWord s, s)
    | 0x08 => (wordOf fun n => (fastOf s n).masked, s)
    | 0x0C => (fastActiveWord s, lookFast s)
    | 0x14 => (BitVec.ofNat 32 s.ic.fHoldoff, s)
    | 0x18 => (wordOf (fastLine s), s)
    | _ => (0, s)

/-- HQ set-up registers of function `f` (R71), by the offset in the block. -/
def hqRead (f : Fn) (s : State) (o : Nat) : Word × State :=
  let h := hqFn s f
  if o = 0x40 then
    (BitVec.ofNat 32 (h.dbErrs.toNat + h.dbErrId.toNat * 2 ^ 16), setHqFn f { h with dbErrs := 0, dbErrId := 0 } s)
  else
    (match o with
      | 0x00 => 0x2000FFFF#32
      | 0x08 => BitVec.ofNat 32 (b2n h.en)
      | 0x0C => BitVec.ofNat 32 (unitCode h.unit + 4 * b2n h.err)
      | 0x10 => h.aqSize
      | 0x18 | 0x1C => halfOf h.asqBase (highHalf o)
      | 0x20 | 0x24 => halfOf h.acqBase (highHalf o)
      | 0x28 => h.aqVec
      | 0x30 => BitVec.ofNat 32 (s.hq.inflight.filter fun c => c.ref.fn == f && decide (c.ref.sq < 8192)).length
      | 0x44 => if f = 0 then s.hq.allotErr else 0
      | _ => 0, s)

/-- Word `k` of an allotment entry (R55). -/
def allotRead (a : Allot) (k : Nat) : Word :=
  BitVec.ofNat 32 (match k with
    | 0 => a.qcount
    | 1 => a.keyBase + a.keyCount * 2 ^ 16
    | 2 => a.vectors + a.inflRes * 2 ^ 16
    | _ => a.weight)

/-- HQ_QSTATE word of queue `q`. -/
def qstateWord (s : State) (f : Fn) (q : Nat) : Word :=
  let x := sqOf s f q
  BitVec.ofNat 32 (unitCode x.unit + 4 * b2n x.halted + 16 * unitCode (cqOf s f q).unit + x.head * 2 ^ 16)

/-- 4 KiB pieces of the middle in use (R351). Words pass on as soon as there is room ahead of them, so that the middle
holds what the 32 words of the head do not; rounded up. DEDUCED (log entry 48). -/
def middleUsed (v : Spill) : Nat := ceilDiv (8 * min 2097152 (spillUsed v - 32)) 4096

/-- Spill-queue register set of queue `q`. -/
def spillRead (q : Nat) (s : State) (o : Nat) : Word × State :=
  let v := spillOf s q
  match o with
  | 0x00 =>
    let en := match v.unit.st with | .running | .starting => true | _ => false
    let fl := match v.flush with | some (_, push) => !push | none => false
    (BitVec.ofNat 32 (b2n en + 2 * b2n fl + v.idle * 2 ^ 16), s)
  | 0x04 =>
    (BitVec.ofNat 32 (unitCode v.unit + 4 * b2n v.halted + 8 * b2n (ringFull v) + 16 * b2n v.gapHeld.isSome
      + middleUsed v * 2 ^ 16), s)
  | 0x08 | 0x0C => (halfOf v.base (highHalf o), s)
  | 0x10 => (BitVec.ofNat 32 v.size, s)
  | 0x14 => (BitVec.ofNat 32 v.head, s)
  | 0x18 => (BitVec.ofNat 32 (v.tail + v.seq.toNat * 2 ^ 16), s)
  | 0x1C => (v.drop, setSpill q { v with drop := 0 } s)
  | 0x20 => (v.flushed, setSpill q { v with flushed := 0 } s)
  | 0x24 => (v.items, setSpill q { v with items := 0 } s)
  | _ => (0, s)

/-- The entry that MI_LOG shows at index `n` of the ring (R379). -/
def memLogEntry (s : State) (n : Nat) : DWord × DWord :=
  let len := s.mi.log.length
  match (List.range' (s.mi.logN - len) len).findIdx? fun k => k % 16 == n with
  | some i => s.mi.log.getD i (0, 0)
  | none => (0, 0)

/-- Progress of the scrub of class 0 in its pass, in units of 2^-16: the three classes are paced alike (R369). DEDUCED (log entry 48). -/
def scrubProgress (s : State) : Nat := min 65535 (tabGet 0 s.mi.pos 0 * 65536 / classBytes 0)

/-- Class 1 macros with no spare left (R376). -/
def macrosFull (s : State) : Nat :=
  ((s.mi.remapped.filter fun x => x.1 / 2 ^ 40 == 1).map fun x => x.2).eraseDups.countP
    fun b => decide (spareCount 1 ≤ sparesUsed s 1 b)

/-- MI block (R378 to R380), by the offset in the block. -/
def miRead (s : State) (o : Nat) : Word × State :=
  let c := o % 16 / 4
  if 0x10 ≤ o ∧ o < 0x1C then (tabGet 0 s.mi.corr c, { s with mi := { s.mi with corr := tabSet 0 s.mi.corr c 0 } })
  else if 0x20 ≤ o ∧ o < 0x2C then (tabGet 0 s.mi.unc c, { s with mi := { s.mi with unc := tabSet 0 s.mi.unc c 0 } })
  else if 0x30 ≤ o ∧ o < 0x3C then
    (tabGet 0 s.mi.poison c, { s with mi := { s.mi with poison := tabSet 0 s.mi.poison c 0 } })
  else if o = 0x40 then (s.mi.wbdrop, { s with mi := { s.mi with wbdrop := 0 } })
  else if 0x50 ≤ o ∧ o < 0x5C then (tabGet threshDefault s.mi.thresh ((o - 0x50) / 4), s)
  else if 0x100 ≤ o ∧ o < 0x200 then
    let e := memLogEntry s ((o - 0x100) / 16)
    (halfOf (if o % 16 < 8 then e.1 else e.2) (highHalf o), s)
  else if 0x200 ≤ o ∧ o < 0x2C0 then
    let v := injectOf s ((o - 0x200) / 64)
    let r := o % 64
    (if r < 0x24 then BitVec.ofNat 32 (bits v.mask (8 * r) 32)
      else if r = 0x28 ∨ r = 0x2C then
        halfOf (BitVec.ofNat 64 (v.addr.toNat + v.addrHi.toNat * 2 ^ 40)) (highHalf r)
      else if r = 0x30 then BitVec.ofNat 32 (b2n v.armed) else 0, s)
  else
    (match o with
      | 0x00 => s.mi.ctl
      | 0x04 => BitVec.ofNat 32 (scrubProgress s + s.mi.passes.toNat * 2 ^ 16)
      | 0x60 => BitVec.ofNat 32 ((s.mi.remapped.filter fun x => x.1 / 2 ^ 40 == 0).length + macrosFull s * 2 ^ 16)
      | 0x68 | 0x6C => halfOf s.mi.ffault (highHalf o)
      | 0x70 => BitVec.ofNat 32 (s.mi.logN % 16 + (s.mi.logN % 65536) * 2 ^ 16)
      | _ => 0, s)

/-- Slots that are RUNNING, as a 64-bit map (CE_RUN). -/
def runMap (s : State) : DWord :=
  BitVec.ofNat 64 ((s.ce.slots.filter fun p => slotRunning p.2).map fun p => 2 ^ p.1).sum

/-- CE globals, by the offset in the block. Each half of CE_OVR_ANY and CE_SAT_ANY clears when it is read. -/
def ceRead (s : State) (o : Nat) : Word × State :=
  if 0x80 ≤ o ∧ o < 0xC0 then (tabGet 0 s.ce.consts ((o - 0x80) / 4), s)
  else match o with
    | 0x00 => (s.ce.stroke, s)
    | 0x08 | 0x0C => (halfOf s.ce.cnt (highHalf o), s)
    | 0x10 | 0x14 => (halfOf s.ce.tb (highHalf o), s)
    | 0x18 => (BitVec.ofNat 32 (b2n s.ce.page), s)
    | 0x1C => (s.ce.swapReg ||| BitVec.ofNat 32 (b2n s.ce.swap.isSome * (2 ^ 30 + 2 ^ 31)), s)
    | 0x20 => (s.ce.finesp0, s)
    | 0x24 => (s.ce.finesp1, s)
    | 0x28 => (s.ce.lane.setWidth 32, { s with ce := { s.ce with lane := 0 } })
    | 0x30 | 0x34 => (halfOf (runMap s) (highHalf o), s)
    | 0x38 | 0x3C =>
      (halfOf s.ce.ovrAny (highHalf o), { s with ce := { s.ce with ovrAny := setHalf s.ce.ovrAny (highHalf o) 0 } })
    | 0x40 | 0x44 =>
      (halfOf s.ce.satAny (highHalf o), { s with ce := { s.ce with satAny := setHalf s.ce.satAny (highHalf o) 0 } })
    | _ => (0, s)

/-- The slot and the offset in its window that an offset of the aperture names (CE_PAGE). -/
def slotAt (s : State) (o : Nat) : Nat × Nat := (32 * b2n s.ce.page + o / 1024, o % 1024)

/-- A slot window register. A read of FLAGS ends its level on the interrupt lines (R302, R339, R340). -/
def apertureRead (s : State) (o : Nat) : Word × State :=
  let (i, r) := slotAt s o
  let v := slotOf s i
  match r with
  | 0x08 =>
    (BitVec.ofNat 32 (b2n v.sat + 2 * b2n v.overrun), senseFast 6 (setSlot i { v with sat := false, overrun := false } s))
  | 0x0C => (v.ovr, setSlot i { v with ovr := 0 } s)
  | 0x98 => rcData i none s
  | _ => (slotRegRead s i r, s)

/-- STATE of a reader: a benched one reads LOST (R283). -/
def rdCode (s : State) (n : Nat) : Nat :=
  if (crewOf s (1204 + n)).st = .benched then 3
  else match (servoRd s n).st with | .idle => 0 | .acquire => 1 | .track => 2 | .lost => 3

/-- SV_STS. -/
def servoSts (s : State) : Word :=
  BitVec.ofNat 32 (((List.range 16).map fun n => b2n (readerTracks s n) * 2 ^ n).sum
    + ((List.range 8).map fun k => b2n (hasServo s k) * 2 ^ (16 + k) + b2n (servoMod s k).gate * 2 ^ (24 + k)).sum)

/-- A register of the window of reader `n`. -/
def readerRead (s : State) (n r : Nat) : Word × State :=
  let v := servoRd s n
  if r = 0x18 then (v.miss, setServoRd n { v with miss := 0 } s)
  else
    (match r with
      | 0x00 => w32 v.y
      | 0x04 => BitVec.ofNat 32 v.lpos
      | 0x08 => w32 v.vel
      | 0x0C => BitVec.ofNat 32 (rdCode s n + 4 * b2n v.known + 8 * b2n v.dir + v.seq.toNat * 2 ^ 16)
      | 0x10 | 0x14 => halfOf v.ts (highHalf r)
      | _ => 0, s)

/-- A register of the window of module `k`. -/
def modRead (s : State) (k r : Nat) : Word :=
  let v := servoMod s k
  match r with
  | 0 => w32 v.y
  | 4 => w32 v.err
  | 8 => w32 v.held
  | 12 => BitVec.ofNat 32 (b2n (hasServo s k) + 2 * b2n v.single + 4 * b2n v.gate
      + 8 * b2n (decide (256 * bits s.sv.limit 16 16 ≤ v.m.natAbs)) + v.seq.toNat * 2 ^ 16)
  | _ => 0

/-- SV block, by the offset in the block. -/
def svRead (s : State) (o : Nat) : Word × State :=
  if 0x20 ≤ o ∧ o < 0x40 then (tabGet 0xFFEE0800#32 s.sv.y0 ((o - 0x20) / 4), s)
  else if 0x40 ≤ o ∧ o < 0x64 then (azkOf s ((o - 0x40) / 4), s)
  else if 0x100 ≤ o ∧ o < 0x300 then readerRead s ((o - 0x100) / 32) (o % 32)
  else if 0x300 ≤ o ∧ o < 0x380 then (modRead s ((o - 0x300) / 16) (o % 16), s)
  else match o with
    | 0x00 => (s.sv.ctl, s)
    | 0x04 => (s.sv.loss, s)
    | 0x08 => (s.sv.limit, s)
    | 0x0C => (s.sv.wi, s)
    | 0x10 => (servoSts s, s)
    | 0x18 => (s.sv.wiCount, { s with sv := { s.sv with wiCount := 0 } })
    | 0x1C => (s.sv.wordErr, { s with sv := { s.sv with wordErr := 0 } })
    | 0x90 => (s.sv.reelK, s)
    | 0x94 => (s.sv.rad0, s)
    | 0x98 => (s.sv.rad1, s)
    | 0x380 => (w32 s.sv.skew, s)
    | 0x384 => (w32 s.sv.mbar, s)
    | _ => (0, s)

/-- LSTATE of a lane (R322). -/
def laneCode (v : Lane) : Nat := match v.st with | .down => 0 | .training => 1 | .up => 2 | .lost => 3

/-- A register of the window of lane `l`. -/
def laneRead (s : State) (l r : Nat) : Word × State :=
  let v := laneOf s l
  match r with
  | 0 => (BitVec.ofNat 32 (laneCode v + v.phase.toNat * 16 + v.session.toNat * 2 ^ 8 + min 255 v.losses * 2 ^ 24), s)
  | 4 => (v.corr, setLane l { v with corr := 0 } s)
  | 8 => (v.unc, setLane l { v with unc := 0 } s)
  | 12 => (v.stale, setLane l { v with stale := 0 } s)
  | _ => (0, s)

/-- LK block and LK_HREC, by the offset from the start of the block. -/
def lkRead (s : State) (o : Nat) : Word × State :=
  if 0x100 ≤ o ∧ o < 0x200 then laneRead s ((o - 0x100) / 16) (o % 16)
  else if 0x200 ≤ o ∧ o < 0x280 then
    let h := headOf s ((o - 0x200) / 16)
    (match o % 16 with
      | 0 | 4 => halfOf h.serial (highHalf o)
      | 8 => BitVec.ofNat 32 (b2n h.valid + 2 * b2n h.changed + 4 * b2n h.noAnswer)
      | _ => 0, s)
  else if 0x1000 ≤ o ∧ o < 0x1800 then
    (BitVec.ofNat 32 (fieldLe ((headOf s s.lk.hrecSel).record.take 1044) (o - 0x1000) 4), s)
  else
    (match o with
      | 0x00 => s.lk.ctl
      | 0x04 => BitVec.ofNat 32 (((List.range 16).map fun l => b2n (decide ((laneOf s l).st = .up)) * 2 ^ l).sum
          + ((List.range 8).map fun m => b2n (headOf s m).valid * 2 ^ (16 + m)).sum)
      | 0x08 => BitVec.ofNat 32 s.lk.hrecSel
      | _ => 0, s)

/-- SP block, by the offset in the block. -/
def spRead (s : State) (o : Nat) : Word × State :=
  if 0x100 ≤ o ∧ o < 0x280 then (w32 (tabGet 0 s.sp.meas ((o - 0x100) / 4)), s)
  else if 0x400 ≤ o ∧ o < 0x700 then
    let k := (o - 0x400) / 4
    (tabGet (if k % 2 = 0 then 0 else 0x40000000#32) s.sp.cal k, s)
  else if 0x800 ≤ o ∧ o < 0xB00 then (coefHalf (tabGet coefZero s.sp.nom ((o - 0x800) / 8)) (highHalf o), s)
  else if 0x10 ≤ o ∧ o < 0x20 then (tabGet 0 s.sp.deb ((o - 0x10) / 4), s)
  else match o with
    | 0x00 => (s.sp.ctl, s)
    | 0x04 => (BitVec.ofNat 32 (s.sp.sync.toNat + b2n s.pins.holdInN * 2 ^ 24 + b2n s.pins.pwrWarnN * 2 ^ 25), s)
    | 0x08 => (s.sp.err, { s with sp := { s.sp with err := 0 } })
    | 0x0C => (s.sp.gpi, s)
    | 0x20 => ((encOf s 0).cpr, s)
    | 0x24 => ((encOf s 1).cpr, s)
    | 0x28 => (s.sp.encCtl, s)
    | 0x30 => (w32 (encOf s 0).count, s)
    | 0x34 => (w32 (encOf s 1).count, s)
    | 0x38 => (BitVec.ofNat 32 (b2n (encOf s 0).idx + 2 * b2n (encOf s 1).idx), s)
    | 0x3C => (s.sp.encErr, { s with sp := { s.sp with encErr := 0 } })
    | _ => (0, s)

/-- TT block (R306 to R308), by the offset in the block. -/
def ttRead (s : State) (o : Nat) : Word :=
  if 0x100 ≤ o ∧ o < 0x180 then
    let g := genOf s ((o - 0x100) / 32)
    match o % 32 with
    | 0x00 => g.ctl | 0x04 => g.amp | 0x08 => g.freq | 0x0C => g.freqEnd | 0x10 => g.sweep | 0x14 => g.seed | 0x18 => g.holdN
    | _ => 0
  else if 0x400 ≤ o ∧ o < 0x500 then tabGet 0 s.tt.caps ((o - 0x400) / 4)
  else if o = 0 then
    BitVec.ofNat 32 (unitCode s.tt.unit + ((List.range 4).map fun g => b2n (genOf s g).done * 2 ^ (4 + g)).sum)
  else 0

/-- Code of a key slot's state (R161). -/
def keyCode (v : KeySlot) : Nat := match v.st with | .never => 0 | .loaded => 1 | .erased => 2

/-- CY_SLOT word of device slot `k`, with its owner in the PF window. -/
def keyWord (s : State) (f : Fn) (k : Nat) : Word :=
  let v := keySlot s k
  let owner := allFns.find? fun g => (slotsOf s g).contains k
  BitVec.ofNat 32 (keyCode v + 4 * b2n (decide (0 < copiesOf s k)) + v.gen.toNat * 2 ^ 16
    + (if f = 0 then (match owner with | some g => g.toNat * 2 ^ 8 + 2 ^ 14 | none => 0) else 0))

/-- CY block of function `f`, by the offset in the block. -/
def cyRead (f : Fn) (s : State) (o : Nat) : Word × State :=
  if 0x1000 ≤ o ∧ o < 0x2000 then
    let k := (o - 0x1000) / 4
    (if f = 0 then keyWord s f k
      else if k < (allotOf s f).keyCount then keyWord s f ((allotOf s f).keyBase + k) else 0, s)
  else match o with
    | 0x0 => (BitVec.ofNat 32 (b2n (!(kekOf s f).isEmpty)), s)
    | 0x4 => (BitVec.ofNat 32 ((slotsOf s f).map (copiesOf s)).sum, s)
    | 0x8 => (tabGet 0 s.cy.faults f.toNat, { s with cy := { s.cy with faults := tabSet 0 s.cy.faults f.toNat 0 } })
    | 0xC =>
      (if f = 0 then BitVec.ofNat 32 (b2n s.cy.seeded + 2 * b2n s.cy.health + s.cy.reseeds.toNat * 2 ^ 16) else 0, s)
    | _ => (0, s)

/-- FM_ELEM word of channel `e`. -/
def elemWord (s : State) (e : Nat) : Word :=
  let v := elemOf s e
  BitVec.ofNat 32 (v.fails.toNat + (v.window.countP id) * 2 ^ 16 + b2n v.degraded * 2 ^ 25)

/-- FM_SM_LEVEL: B of the partition being written or B_r, and the staging in use. -/
def levelWord (s : State) : Word :=
  let b := if s.sm.readSide then readBacklog s else match s.wr.part with | some p => backlog (partOf s p) | none => 0
  BitVec.ofNat 32 (min 65535 b + ceilDiv (stagingUsed s) (64 * mib) * 2 ^ 16)

/-- FM_SM_STAT. -/
def speedSts (s : State) : Word :=
  BitVec.ofNat 32 (s.sm.reef + 16 * b2n s.sm.ramp + 32 * b2n (decide (s.sm.hitch = .waiting)) + 64 * b2n s.sm.readSide
    + (BitVec.ofInt 16 s.sm.trim).toNat * 2 ^ 16)

/-- The channel, the zone entry and its byte that an offset of FM_ZT_WIN names, `n` bytes an entry. -/
def zoneAtWin (s : State) (o n : Nat) : Nat × Nat × Nat :=
  (32 * bits s.rch.ztSel 0 5 + o / (16 * n), o / n % 16, o % n)

/-- The bytes of FM_ZT_WIN from an offset on, in the table that FM_ZT_SEL names. -/
def zoneWinRead (s : State) (o : Nat) : Word :=
  let wrap := bits s.rch.ztSel 5 5
  match bits s.rch.ztSel 10 2 with
  | 0 =>
    let (e, z, b) := zoneAtWin s o 16
    BitVec.ofNat 32 (fieldLe (headEntry s e (16 * wrap + z)) b 4)
  | 1 =>
    let (e, z, b) := zoneAtWin s o 8
    if o < 4096 then BitVec.ofNat 32 (fieldLe (deltaEntry s e (16 * wrap + z)) b 4) else 0
  | 2 =>
    let (e, z, b) := zoneAtWin s o 16
    let l := if wrap = s.sv.wrap then workingEntry s e z else effectiveEntry s e (16 * wrap + z)
    BitVec.ofNat 32 (fieldLe l b 4)
  | _ => 0

/-- FM block (R225, R254, R268), by the offset in the block. -/
def fmRead (s : State) (o : Nat) : Word × State :=
  if o < 0x100 then (BitVec.ofNat 32 (tabGet 0 s.sm.quota (o / 4)), s)
  else if 0x230 ≤ o ∧ o < 0x240 then
    let d := (o - 0x230) / 4
    (BitVec.ofNat 32 (occupancy s d + tabGet 0 s.rch.peak d * 2 ^ 16),
      { s with rch := { s.rch with peak := tabSet 0 s.rch.peak d 0 } })
  else if 0x400 ≤ o ∧ o < 0x600 then (BitVec.ofNat 32 (fieldLe (targetSet s ((o - 0x400) / 32)) (o % 32) 4), s)
  else if 0x1000 ≤ o ∧ o < 0x2000 then (elemWord s ((o - 0x1000) / 4), s)
  else if 0x2000 ≤ o ∧ o < 0x4000 then (zoneWinRead s (o - 0x2000), s)
  else
    let fm (v : FmRegs) : State := { s with fm := v }
    let rch (v : ReadCh) : State := { s with rch := v }
    match o with
    | 0x100 => (s.fm.ecc, s)
    | 0x104 => (s.fm.vfy, s)
    | 0x108 => (s.fm.bench, s)
    | 0x110 => (s.fm.vfyFail, fm { s.fm with vfyFail := 0 })
    | 0x114 => (s.fm.vfyLate, fm { s.fm with vfyLate := 0 })
    | 0x118 => (s.fm.rewrites, fm { s.fm with rewrites := 0 })
    | 0x11C => (s.fm.wset, fm { s.fm with wset := 0 })
    | 0x120 => (s.fm.c2Stat, fm { s.fm with c2Stat := 0 })
    | 0x124 => (s.fm.c3Stat, fm { s.fm with c3Stat := 0 })
    | 0x200 => (s.rch.ctl, s)
    | 0x204 => (s.rch.sync, s)
    | 0x208 => (s.rch.timing, s)
    | 0x20C => (s.rch.ref, s)
    | 0x210 => (s.rch.queueR, s)
    | 0x220 => (s.rch.coast, rch { s.rch with coast := 0 })
    | 0x224 => (s.rch.alt, rch { s.rch with alt := 0 })
    | 0x228 => (s.rch.los, rch { s.rch with los := 0 })
    | 0x22C => (s.rch.cut, rch { s.rch with cut := 0 })
    | 0x240 => (s.rch.ztSel, s)
    | 0x300 => (s.sm.ctl, s)
    | 0x304 => (s.sm.resume, s)
    | 0x308 => (s.sm.buf, s)
    | 0x310 => (speedSts s, s)
    | 0x314 => (levelWord s, s)
    | 0x318 => (s.sm.count, { s with sm := { s.sm with count := 0 } })
    | _ => (0, s)

/-- TK block (R78), by the offset in the block. -/
def tkRead (s : State) (o : Nat) : Word × State :=
  if 0x10 ≤ o ∧ o < 0x50 then (taskArg s ((o - 0x10) / 4), s)
  else if 0x1000 ≤ o then (BitVec.ofNat 32 (leNat ((List.range 4).map fun k => tabGet 0 s.task.data (o - 0x1000 + k))), s)
  else match o with
    | 0x0 => (s.task.cmd.setWidth 32, s)
    | 0x4 => (taskStatus s, { s with task := { s.task with overrun := false, ehold := false } })
    | 0x8 => (s.task.result, s)
    | _ => (0, s)

/-- VERSION of a bundle, 0 when the area is empty. -/
def versionWord (b : List Byte) : Word := if b.isEmpty then 0 else BitVec.ofNat 32 (bundleVersion b)

/-- SE block (R396 of chapter 17), by the offset in the block. -/
def seRead (s : State) (o : Nat) : Word × State :=
  if 0x20 ≤ o ∧ o < 0x40 then (BitVec.ofNat 32 (fieldLe s.se.nonce (o - 0x20) 4), s)
  else if 0x40 ≤ o ∧ o < 0x60 then (BitVec.ofNat 32 (fieldLe deviceId (o - 0x40) 4), s)
  else match o with
    | 0x00 =>
      (BitVec.ofNat 32 (b2n s.se.idKey + 2 * b2n s.se.xport + 4 * b2n s.se.chain + 8 * b2n s.se.jtagOpen
        + 16 * b2n s.se.rsa.isSome + s.se.rollback * 2 ^ 8 + b2n (!s.se.active.isEmpty) * 2 ^ 16
        + b2n (!s.se.pend.isEmpty) * 2 ^ 17), s)
    | 0x04 => (s.se.authFail, { s with se := { s.se with authFail := 0 } })
    | 0x08 => (versionWord s.se.active, s)
    | 0x0C => (versionWord s.se.pend, s)
    | 0x10 | 0x14 => (halfOf Config.deviceSerial (highHalf o), s)
    | 0x60 => (BitVec.ofNat 32 (s.se.doe.st + s.se.task.st * 16), s)
    | _ => (0, s)

/-! ### The maps (R401, R404) -/

/-- A 32-bit read of the PF's BAR0. -/
def pfRead (s : State) (o : Nat) : Word × State :=
  let within (a n : Nat) : Bool := decide (a ≤ o) && decide (o < a + n)
  if within 0 0x100 then glRead s o
  else if within 0x1000 0x1000 then icRead 0 s (o - 0x1000)
  else if within 0x2000 0x1320 then (crewWord (crewOf s ((o - 0x2000) / 4)), s)
  else if within 0x4000 0x48 then hqRead 0 s (o - 0x4000)
  else if within 0x5000 0x400 then
    (allotRead (allotOf s (BitVec.ofNat 6 ((o - 0x5000) / 16))) (o / 4 % 4), s)
  else if within 0x6000 0x6000 then (qstateWord s 0 ((o - 0x6000) / 4), s)
  else if within 0xC000 0x1000 then spillRead ((o - 0xC000) / 64) s (o % 64)
  else if within 0xD000 0x2000 then (qstateWord s 0 (6144 + (o - 0xD000) / 4), s)
  else if within 0xF000 0x1000 then fastRead s (o - 0xF000)
  else if within 0x10000 0x2C0 then miRead s (o - 0x10000)
  else if within 0x14000 0xC0 then ceRead s (o - 0x14000)
  else if within 0x18000 0x8000 then apertureRead s (o - 0x18000)
  else if within 0x20000 0x388 then svRead s (o - 0x20000)
  else if within 0x24000 0x280 || within 0x25000 0x800 then lkRead s (o - 0x24000)
  else if within 0x28000 0xB00 then spRead s (o - 0x28000)
  else if within 0x2C000 0x500 then (ttRead s (o - 0x2C000), s)
  else if within 0x2C800 0x400 then spillRead (64 + (o - 0x2C800) / 64) s (o % 64)
  else if within 0x30000 0x2000 then cyRead 0 s (o - 0x30000)
  else if within 0x34000 0x4000 then fmRead s (o - 0x34000)
  else if within 0x38000 0x2000 then tkRead s (o - 0x38000)
  else if within 0x3C000 0x64 then seRead s (o - 0x3C000)
  else (0, s)

/-- A 32-bit read of a VF's window. -/
def vfRead (f : Fn) (s : State) (o : Nat) : Word × State :=
  let within (a n : Nat) : Bool := decide (a ≤ o) && decide (o < a + n)
  if within 0x1000 0x1000 then icRead f s (o - 0x1000)
  else if within 0x4000 0x48 then hqRead f s (o - 0x4000)
  else if within 0x6000 0x800 then (qstateWord s f ((o - 0x6000) / 4), s)
  else if within 0x8000 0x2000 then cyRead f s (o - 0x8000)
  else if within 0xC000 0x40 then spillRead f.toNat s (o - 0xC000)
  else (0, s)

/-- A 32-bit read of a register of function `f`, without the latch of R8. -/
def regRead (f : Fn) (s : State) (o : Nat) : Word × State := if f = 0 then pfRead s o else vfRead f s o

/-- The offsets of the PF's map that hold the low half of a 64-bit pair and are not cleared by reads (R8). -/
def pfPair (o : Nat) : Bool :=
  [0x18, 0x38, 0x4018, 0x4020, 0x10068, 0x14008, 0x14010, 0x14030, 0x3C010].contains o
    || (decide (0xC000 ≤ o) && decide (o < 0xD000) && o % 64 == 8)
    || (decide (0x2C800 ≤ o) && decide (o < 0x2CC00) && o % 64 == 8)
    || (decide (0x10100 ≤ o) && decide (o < 0x10200) && o % 8 == 0)
    || (decide (0x10200 ≤ o) && decide (o < 0x102C0) && o % 64 == 0x28)
    || (decide (0x18000 ≤ o) && decide (o < 0x20000) && o % 1024 == 0x80)
    || (decide (0x20100 ≤ o) && decide (o < 0x20300) && o % 32 == 0x10)
    || (decide (0x24200 ≤ o) && decide (o < 0x24280) && o % 16 == 0)

/-- Low halves of pairs of function `f`. -/
def pairLow (f : Fn) (o : Nat) : Bool := if f = 0 then pfPair o else [0x4018, 0x4020, 0xC008].contains o

/-- Place of a latched high half. -/
def latchKey (f : Fn) (o : Nat) : Nat := f.toNat * 2 ^ 20 + o

/-- A latched high half is set or dropped. -/
def setLatch (f : Fn) (o : Nat) (v : Option Word) (s : State) : State :=
  { s with latch := tabSet none s.latch (latchKey f o) v }

/-- A 32-bit read (R8): the low half of a pair latches the high half, and the next read of the high half answers with
the latched value. -/
def readWord32 (f : Fn) (s : State) (o : Nat) : Word × State :=
  if pairLow f o then
    let (v, s) := regRead f s o
    (v, setLatch f (o + 4) (some (regRead f s (o + 4)).1) s)
  else match tabGet none s.latch (latchKey f o) with
    | some v => (v, setLatch f o none s)
    | none => regRead f s o

/-- The offsets that read their live values from a warm reset request to the end of PHASE 1 (R398). -/
def liveInReset (f : Fn) (o : Nat) : Bool :=
  f == 0 && [0x10, 0x18, 0x1C, 0x20, 0x28, 0x38, 0x3C, 0x40].contains o

/-- A 4-byte or 8-byte read over BAR0 (R396, R398). -/
def barRead (f : Fn) (o width : Nat) (s : State) : DWord × State :=
  let one (s : State) (o : Nat) (r : State → Nat → Word × State) : Word × State :=
    if regsLive s || liveInReset f o then r s o else (0, s)
  if width = 4 then
    let (v, s) := one s o (readWord32 f)
    (v.setWidth 64, s)
  else
    let (lo, s) := one s o (regRead f)
    let (hi, s) := one s (o + 4) (regRead f)
    (BitVec.ofNat 64 (lo.toNat + hi.toNat * 2 ^ 32), s)

/-! ### Writes, block by block -/

/-- A field of a register takes the written value where the value is allowed. -/
def takeField (old w : Word) (o n : Nat) (ok : Nat → Bool) : Word :=
  if ok (bits w o n) then putBits old o n (bits w o n) else old

/-- IC normal bank of function `f`. -/
def icWrite (f : Fn) (o : Nat) (v : Word) (s : State) : State :=
  let c := icFn s f
  let w (base : Nat) : Nat := (o - base) / 4
  if 0x100 ≤ o ∧ w 0x100 < icWords f then pendWordWrite f (w 0x100) v s
  else if 0x600 ≤ o ∧ w 0x600 < icWords f then maskWordWrite f (w 0x600) v s
  else match o with
    | 0x00 => setIcFn f { c with en := v.getLsbD 0 } s
    | 0x08 => setIcFn f { c with sel := bits v 0 14 } s
    | 0x0C => srcCfgWrite f v s
    | 0x20 => setIcFn f { c with vsel := bits v 0 11 } s
    | 0x24 => { s with ic := { s.ic with holdoff := tabSet 0 s.ic.holdoff (vecKey f c.vsel) (bits v 0 16) } }
    | 0x30 => eoiGroup f (bits v 0 11) s
    | _ => s

/-- IC fast bank. -/
def fastWrite (o : Nat) (v : Word) (s : State) : State :=
  let each (op : Nat → Src → Src) : State := forEach (List.range 32) (fun n s => setFast n (op n (fastOf s n)) s) s
  if 0x20 ≤ o ∧ o < 0x30 then
    let j := (o - 0x20) / 4
    forEach (List.range 8) (fun i s => setFast (8 * j + i) (senseWrite (bits v (4 * i) 3) (fastOf s (8 * j + i))) s) s
  else match o with
    | 0x00 => { s with ic := { s.ic with fastEn := v.getLsbD 0, alertEn := v.getLsbD 1 } }
    | 0x04 => each fun n x => pendWrite (v.getLsbD n) x
    | 0x08 => each fun n x => { x with masked := v.getLsbD n }
    | 0x10 => if v.getLsbD 0 then eoiFast s else s
    | 0x14 => { s with ic := { s.ic with fHoldoff := bits v 0 16 } }
    | _ => s

/-- HQ set-up registers of function `f` (R71). -/
def hqWrite (f : Fn) (o : Nat) (v : Word) (s : State) : State :=
  let h := hqFn s f
  let free := decide (h.unit.st = .stopped)
  let put (x : HqFn) : State := if free then setHqFn f x s else s
  match o with
  | 0x08 => if v.getLsbD 0 then fnEnable f s else fnDisable f s
  | 0x10 => put { h with aqSize := v &&& 0x0FFF0FFF#32 }
  | 0x18 | 0x1C => put { h with asqBase := setHalf h.asqBase (highHalf o) v }
  | 0x20 | 0x24 => put { h with acqBase := setHalf h.acqBase (highHalf o) v }
  | 0x28 => put { h with aqVec := v &&& 0x000107FF#32 }
  | _ => s

/-- Spill-queue register set of queue `q` (R353, R356, R358, R362). -/
def spillWrite (q o : Nat) (v : Word) (s : State) : State :=
  let x := spillOf s q
  let free := decide (x.unit.st = .stopped)
  match o with
  | 0x00 =>
    let s := setSpill q (idleWrite (bits v 16 16) x) s
    let s := if v.getLsbD 0 then spillEnable q s else spillDisable q s
    if v.getLsbD 1 then flushRequest q false s else s
  | 0x08 | 0x0C => if free then setSpill q { x with base := setHalf x.base (highHalf o) v } s else s
  | 0x10 => if free && bits v 0 16 != 0 then setSpill q { x with size := bits v 0 16 } s else s
  | 0x14 => headWrite q (bits v 0 16) s
  | _ => s

/-- MI block (R369, R378, R380). -/
def miWrite (o : Nat) (v : Word) (s : State) : State :=
  if o = 0 then { s with mi := { s.mi with ctl := v &&& 3#32 } }
  else if 0x50 ≤ o ∧ o < 0x5C then
    { s with mi := { s.mi with thresh := tabSet threshDefault s.mi.thresh ((o - 0x50) / 4) v } }
  else if 0x200 ≤ o ∧ o < 0x2C0 then
    let c := (o - 0x200) / 64
    let r := o % 64
    let x := injectOf s c
    if r < 0x24 then setInject c { x with mask := putBits x.mask (8 * r) 32 v.toNat } s
    else if r = 0x28 ∨ r = 0x2C then flipAddr c (highHalf r) v.toNat s
    else s
  else s

/-- CE globals. -/
def ceWrite (o : Nat) (v : Word) (s : State) : State :=
  let ce (x : Trim) : State := { s with ce := x }
  if 0x80 ≤ o ∧ o < 0xC0 then ce { s.ce with consts := tabSet 0 s.ce.consts ((o - 0x80) / 4) v }
  else match o with
    | 0x00 => ce { s.ce with stroke := v &&& 0xFFFF#32 }
    | 0x18 => ce { s.ce with page := v.getLsbD 0 }
    | 0x1C => ceSwap v s
    | 0x20 => ce { s.ce with finesp0 := v &&& 0x3F3F3F3F#32 }
    | 0x24 => ce { s.ce with finesp1 := v &&& 0x3F3F3F3F#32 }
    | _ => s

/-- A slot window register. -/
def apertureWrite (o : Nat) (v : Word) (s : State) : State :=
  let (i, r) := slotAt s o
  match r with
  | 0x00 => slotCtlWrite i v s
  | 0x98 => (rcData i (some v) s).2
  | _ => slotRegWrite i r v s

/-- The scale of a band serves windows that open after the write (R288): a reader of the band whose next window is not
open yet takes it. -/
def azkTaken (b : Nat) (s : State) : State :=
  forEach ((List.range 16).filter fun n => bandOf n == b && decide (4 * s.tb.toNat < (servoRd s n).winFrom))
    (fun n s => setServoRd n { servoRd s n with kb := azkOf s b } s) s

/-- SV block (R288): scales and targets in SERVICE only, and the fields that refuse a value keep theirs. -/
def svWrite (o : Nat) (v : Word) (s : State) : State :=
  let sv (x : Servo) : State := { s with sv := x }
  let serv := decide (s.gl.cur = .service)
  let nz (n : Nat) : Bool := n != 0
  if 0x20 ≤ o ∧ o < 0x40 then
    if serv then sv { s.sv with y0 := tabSet 0xFFEE0800#32 s.sv.y0 ((o - 0x20) / 4) v } else s
  else if 0x40 ≤ o ∧ o < 0x64 then
    let b := (o - 0x40) / 4
    if serv then azkTaken b (sv { s.sv with azk := tabSet 0x0127F505#32 s.sv.azk b v }) else s
  else match o with
    | 0x00 =>
      let c := takeField (takeField s.sv.ctl v 0 8 nz) v 8 4 nz
      sv { s.sv with ctl := takeField c v 16 4 nz }
    | 0x04 =>
      let c := takeField (takeField s.sv.loss v 0 8 nz) v 8 4 fun n => decide (1 ≤ n) && decide (n ≤ 8)
      sv { s.sv with loss := takeField (takeField c v 12 4 fun _ => true) v 16 8 nz }
    | 0x08 =>
      let c := takeField s.sv.limit v 0 16 fun n => decide (400 ≤ n) && decide (n ≤ 9600)
      sv { s.sv with limit := takeField c v 16 16 nz }
    | 0x0C => sv { s.sv with wi := takeField s.sv.wi v 0 16 nz }
    | 0x90 => if serv then sv { s.sv with reelK := v } else s
    | _ => s

/-- LK block (R323, R324). -/
def lkWrite (o : Nat) (v : Word) (s : State) : State :=
  match o with
  | 0x00 =>
    let c := takeField (takeField s.lk.ctl v 0 4 fun _ => true) v 8 4 fun n => n != 0
    { s with lk := { s.lk with ctl := c } }
  | 0x08 => { s with lk := { s.lk with hrecSel := bits v 0 3 } }
  | _ => s

/-- SP_CTL takes a value (R333): a link that is enabled while it is down is a HOLD cause. -/
def sheetCtl (v : Word) (s : State) : State :=
  let c := v &&& 0xFFFFFF#32
  let down := (List.range 24).any fun n => c.getLsbD n && !linkEnabled s n && !linkInSync s n
  let s := { s with sp := { s.sp with ctl := c } }
  if down then sheetDown s else linksNote s

/-- SP block (R334, R335, R337): SP_CTL, SP_CAL and SP_NOM in SERVICE only. -/
def spWrite (o : Nat) (v : Word) (s : State) : State :=
  let sp (x : Sheet) : State := { s with sp := x }
  let serv := decide (s.gl.cur = .service)
  if 0x400 ≤ o ∧ o < 0x700 then
    let k := (o - 0x400) / 4
    if serv then sp { s.sp with cal := tabSet (if k % 2 = 0 then 0 else 0x40000000#32) s.sp.cal k v } else s
  else if 0x800 ≤ o ∧ o < 0xB00 then
    let k := (o - 0x800) / 8
    let c := tabGet coefZero s.sp.nom k
    if serv then sp { s.sp with nom := tabSet coefZero s.sp.nom k (setCoefHalf c (highHalf o) v) } else s
  else if 0x10 ≤ o ∧ o < 0x20 then sp { s.sp with deb := tabSet 0 s.sp.deb ((o - 0x10) / 4) v }
  else match o with
    | 0x00 => if serv then sheetCtl v s else s
    | 0x20 | 0x24 =>
      let x := (o - 0x20) / 4
      if v = 0 then s else setEnc x { encOf s x with cpr := v } s
    | 0x28 =>
      let c := takeField s.sp.encCtl v 0 16 fun n => n != 0
      sp { s.sp with encCtl := takeField c v 16 2 fun _ => true }
    | _ => s

/-- TT block (R308): while the Telltale is STOPPED only. -/
def ttWrite (o : Nat) (v : Word) (s : State) : State :=
  if s.tt.unit.st ≠ .stopped then s
  else if 0x100 ≤ o ∧ o < 0x180 then
    let k := (o - 0x100) / 32
    let g := genOf s k
    match o % 32 with
    | 0x00 =>
      let c := takeField (v &&& 0x3F07#32) v 16 2 fun _ => true
      setGen k { g with ctl := if bits v 16 2 = 3 then putBits c 16 2 (bits g.ctl 16 2) else c } s
    | 0x04 => setGen k { g with amp := v } s
    | 0x08 => setGen k { g with freq := v } s
    | 0x0C => setGen k { g with freqEnd := v } s
    | 0x10 => setGen k { g with sweep := v } s
    | 0x14 => setGen k { g with seed := v &&& 0x7FFFFFFF#32 } s
    | 0x18 => if bits v 0 16 = 0 then s else setGen k { g with holdN := v &&& 0xFFFF#32 } s
    | _ => s
  else if 0x400 ≤ o ∧ o < 0x500 then
    { s with tt := { s.tt with caps := tabSet 0 s.tt.caps ((o - 0x400) / 4) (v &&& 0x1FFF#32) } }
  else s

/-- Bits of byte `i` of a head entry that the table defines; the others are reserved (R228). -/
def zoneByteMask (i : Nat) : Nat := if i = 4 then 15 else if i < 8 then 255 else if i = 15 then 1 else 0

/-- The head table through FM_ZT_WIN: in SERVICE with TABLE 0 only. -/
def zoneWinWrite (o : Nat) (v : Word) (s : State) : State :=
  if s.gl.cur ≠ .service ∨ bits s.rch.ztSel 10 2 ≠ 0 then s
  else
    let (e, z, b) := zoneAtWin s o 16
    let z := 16 * bits s.rch.ztSel 5 5 + z
    let entry := (natLe 4 v.toNat).zipIdx.foldl
      (fun l (x, k) => l.set (b + k) (BitVec.ofNat 8 (x.toNat &&& zoneByteMask (b + k)))) (headEntry s e z)
    setHeadEntry e z entry s

/-- A word of a target set (R245): bytes 5 to 15 are reserved. -/
def targetWrite (o : Nat) (v : Word) (s : State) : State :=
  (natLe 4 v.toNat).zipIdx.foldl (fun s (x, k) =>
    let i := (o + k) % 32
    if 5 ≤ i ∧ i < 16 then s
    else { s with rch := { s.rch with targets := tabSet (targetDefault i) s.rch.targets (o + k) x } }) s

/-- FM block (R225, R254, R268). -/
def fmWrite (o : Nat) (v : Word) (s : State) : State :=
  let fm (x : FmRegs) : State := { s with fm := x }
  let rch (x : ReadCh) : State := { s with rch := x }
  let sm (x : Speed) : State := { s with sm := x }
  let any (_ : Nat) : Bool := true
  if o < 0x100 then grantPass (sm { s.sm with quota := tabSet 0 s.sm.quota (o / 4) (bits v 0 10) })
  else if 0x400 ≤ o ∧ o < 0x600 then targetWrite (o - 0x400) v s
  else if 0x2000 ≤ o ∧ o < 0x4000 then zoneWinWrite (o - 0x2000) v s
  else match o with
    | 0x100 =>
      let c := takeField s.fm.ecc v 0 4 fun n => decide (4 ≤ n)
      fm { s.fm with ecc := takeField c v 8 4 fun n => decide (n ≤ 12) }
    | 0x104 =>
      let c := takeField s.fm.vfy v 0 9 any
      fm { s.fm with vfy := takeField c v 16 14 fun n => decide (n ≤ 9216) }
    | 0x108 =>
      let c := takeField s.fm.bench v 0 8 any
      fm { s.fm with bench := takeField c v 16 9 fun n => decide (n ≤ 256) }
    | 0x200 =>
      let c := takeField (takeField s.rch.ctl v 0 2 any) v 8 4 fun n => decide (6 ≤ n)
      let c := takeField c v 16 3 fun n => decide (n ≤ 4)
      rch { s.rch with ctl := takeField c v 24 6 fun n => decide (8 ≤ n) && decide (n ≤ 48) }
    | 0x204 => rch { s.rch with sync := v &&& 0x000303FF#32 }
    | 0x208 => rch { s.rch with timing := v &&& 0x1F1F1F1F#32 }
    | 0x20C => rch { s.rch with ref := v &&& 0x00000FFF#32 }
    | 0x210 =>
      if bits v 16 10 ≤ bits v 0 10 ∧ bits v 0 10 ≤ 512 then rch { s.rch with queueR := v &&& 0x03FF03FF#32 } else s
    | 0x240 =>
      let c := takeField (takeField s.rch.ztSel v 0 5 any) v 5 5 fun n => decide (n < 24)
      rch { s.rch with ztSel := takeField c v 10 2 any }
    | 0x300 =>
      let c := takeField s.sm.ctl v 0 12 any
      sm { s.sm with ctl := takeField c v 16 8 fun n => n != 0 }
    | 0x304 => sm { s.sm with resume := v &&& 0x0FFF0FFF#32 }
    | 0x308 => grantPass (sm { s.sm with buf := takeField s.sm.buf v 0 10 fun n => decide (n ≤ 704) })
    | _ => s

/-! ### The maps for writes (R401, R404) -/

/-- A 32-bit write of the PF's BAR0 while its registers are live. -/
def pfWrite (o : Nat) (v : Word) (s : State) : State :=
  let within (a n : Nat) : Bool := decide (a ≤ o) && decide (o < a + n)
  if within 0x1000 0x1000 then icWrite 0 (o - 0x1000) v s
  else if within 0x4000 0x48 then hqWrite 0 (o - 0x4000) v s
  else if within 0x5000 0x400 then allotWrite (BitVec.ofNat 6 ((o - 0x5000) / 16)) (BitVec.ofNat 2 (o / 4)) v s
  else if within 0xC000 0x1000 then spillWrite ((o - 0xC000) / 64) (o % 64) v s
  else if within 0xF000 0x1000 then fastWrite (o - 0xF000) v s
  else if within 0x10000 0x2C0 then miWrite (o - 0x10000) v s
  else if within 0x14000 0xC0 then ceWrite (o - 0x14000) v s
  else if within 0x18000 0x8000 then apertureWrite (o - 0x18000) v s
  else if within 0x20000 0x388 then svWrite (o - 0x20000) v s
  else if within 0x24000 0x280 then lkWrite (o - 0x24000) v s
  else if within 0x28000 0xB00 then spWrite (o - 0x28000) v s
  else if within 0x2C000 0x500 then ttWrite (o - 0x2C000) v s
  else if within 0x2C800 0x400 then spillWrite (64 + (o - 0x2C800) / 64) (o % 64) v s
  else if within 0x34000 0x4000 then fmWrite (o - 0x34000) v s
  else if within 0x38000 0x2000 then taskWrite .pcie (o - 0x38000) v s
  else s

/-- A 32-bit write of a VF's window. -/
def vfWrite (f : Fn) (o : Nat) (v : Word) (s : State) : State :=
  let within (a n : Nat) : Bool := decide (a ≤ o) && decide (o < a + n)
  if within 0x1000 0x1000 then icWrite f (o - 0x1000) v s
  else if within 0x4000 0x48 then hqWrite f (o - 0x4000) v s
  else if within 0xC000 0x40 then spillWrite f.toNat (o - 0xC000) v s
  else s

/-- Offsets of the CE, SV and SP blocks, which take writes from a warm reset request on as well (R398). -/
def keptBlock (f : Fn) (o : Nat) : Bool :=
  f == 0 && ((decide (0x14000 ≤ o) && decide (o < 0x140C0)) || (decide (0x18000 ≤ o) && decide (o < 0x20388))
    || (decide (0x28000 ≤ o) && decide (o < 0x28B00)))

/-- A 32-bit write over BAR0 (R397, R398, R405). GL_RESET has its own rule for writes that come too early (R403). -/
def regWrite (f : Fn) (o : Nat) (v : Word) (s : State) : State :=
  if f = 0 ∧ o = 0x28 then resetWrite v s
  else if regsLive s || (fetching s && keptBlock f o) then (if f = 0 then pfWrite o v s else vfWrite f o v s) else s

/-- A word of the MSI-X table takes a value; a clear mask bit lets a held message go. Of the vector control word the mask
bit is kept, as PCIe defines. PRESUMED (log entry 16). -/
def msixWrite (f : Fn) (o : Nat) (v : Word) (s : State) : State :=
  let n := if f = 0 then 2048 else 128
  let vec := o / 16
  let w := o / 4 % 4
  if vec < n then messageHeld f vec (setMsixWord f vec w (if w = 3 then v &&& 1#32 else v) s) else s

/-- A function exists: the PF, and the VFs while VF Enable is 1 (R56). -/
def fnPresent (s : State) (f : Fn) : Bool := f == 0 || s.hq.vfEnable

/-! ### Meanings -/

/-- An access of another width or alignment (R396): a write has no effect, a read returns 0, and each is counted with
its offset. From a warm reset request on GL_ACC_ERR reads 0 and is about to be reset. -/
def execBar0AccessReject (t : Time) (f : Fn) (isWrite : Bool) (offset width : Nat) (s : State) :
    Host.Outcome State Fault Refusal :=
  let s := advance t s
  if !fetching s || !fnPresent s f || !accessBad f offset width then .next s
  else
    let n := satInc (s.gl.accErr.setWidth 16)
    let s := { s with gl := { s.gl with accErr := BitVec.ofNat 32 (n.toNat + bits (BitVec.ofNat 20 offset) 4 16 * 2 ^ 16) } }
    .next (if isWrite then s else emit (.readValue f offset 0) s)

/-- A read over BAR0 (R5, R396): it answers with the value, and an ROC field it covers is cleared. -/
def execRocRead (t : Time) (f : Fn) (offset width : Nat) (s : State) : Host.Outcome State Fault Refusal :=
  let s := advance t s
  if !fetching s || !fnPresent s f || !accessOk f offset width then .next s
  else
    let (v, s) := barRead f offset width s
    .next (emit (.readValue f offset v) s)

/-- A 32-bit read of the low half of a pair, which latches the high half (R8). -/
def execLowHalfRead (t : Time) (f : Fn) (offset : Nat) (s : State) : Host.Outcome State Fault Refusal :=
  let s := advance t s
  if !fetching s || !fnPresent s f || !accessOk f offset 4 then .next s
  else
    let (v, s) := barRead f offset 4 s
    .next (emit (.readValue f offset v) s)

/-- A write to a register of BAR0, or to the MSI-X table in BAR4 (R396, R405): an 8-byte write acts as two, the lower
offset first. -/
def execRegisterWrite (t : Time) (f : Fn) (bar : BitVec 3) (offset width : Nat) (value : DWord) (s : State) :
    Host.Outcome State Fault Refusal :=
  let s := advance t s
  let put (w : Nat → Word → State → State) : State :=
    let s := w offset (halfOf value false) s
    if width = 8 then w (offset + 4) (halfOf value true) s else s
  if !fetching s || !fnPresent s f then .next s
  else if bar = 0 ∧ accessOk f offset width then .next (put (regWrite f))
  else if bar = 4 ∧ (width = 4 ∨ width = 8) ∧ offset % width = 0 then .next (put (msixWrite f))
  else .next s

end Sys2Proof.Machine
end

