-- ==== Sys2Proof/Machine/Volumes.lean ====
section
/-!
DEFINITION. Volume commands: LOAD (R92, R125, R198), UNLOAD (R92), PARTITION (R93, R178), truncating ERASE (R199), long
and sanitising ERASE (R92, R424).
-/

namespace Sys2Proof.Machine

/-- A command of an opcode that has been chosen from the tape queue. -/
def chosenCmd (op : Nat) (r : CmdRef) (s : State) : Option InFlight :=
  match findCmd s r with
  | none => none
  | some c => if eOpcode c.entry = op ∧ c.stage = .chosen then some c else none

/-! ### LOAD -/

/-- What the walk over the data sets of a partition has found (R198): the data sets in order of DSN, the DSNs of the last
16, the session of the last data data set, lost ranges, the data set at which the data ended at an EOD, the end of the
last block, and the block of a record that the last data set leaves unfinished. -/
structure Walk where
  placed  : List Placed
  dsns    : List Nat
  session : Nat
  gone    : List (Nat × Nat)
  eod     : Option Placed
  after   : Nat
  cut     : Option Nat
deriving DecidableEq, Repr

/-- The TYPE 2 entries of an index as lost ranges. -/
def goneOf (es : List IndexEntry) : List (Nat × Nat) := (es.filter fun e => e.type == 2).map fun e => (e.block, e.value)

/-- The data sets of a partition up to the end of its recorded data (R198). -/
def walkSets (base : Nat) : Walk → List FoundSet → Walk
  | w, [] => w
  | w, f :: r =>
    let k := f.kind.toNat
    let d := directoryOf f.directory
    let seq := match w.dsns with | [] => true | n :: _ => f.dsn == n + 1 || w.dsns.contains f.dsn
    let es := entriesOf d.entries f.index
    let here : Placed :=
      { dsn := f.dsn, at_ := f.at_, kind := k, session := d.session, first := d.first, next := d.next, contLen := d.cont }
    if !seq || (k != 1 && decide (d.session < base)) || (k == 0 && decide (d.session < w.session)) then w
    else if k = 3 then { w with eod := some here, gone := w.gone ++ goneOf es, after := f.at_, cut := none }
    else
      let w := { w with placed := (w.placed.filter fun x => x.dsn != f.dsn) ++ [here], dsns := (f.dsn :: w.dsns).take 16,
                        after := f.at_ + f.len }
      if k = 1 then walkSets base w r
      else
        let last := match (es.filter fun e => e.type == 0).getLast? with | some e => e.block | none => d.first
        walkSets base { w with session := d.session, gone := w.gone ++ goneOf es, cut := if f.cut then some last else none } r

/-- A partition as LOAD finds it (R125, R198). -/
def loadPart (v : Part) (found : List FoundSet) : Part :=
  let w := walkSets v.base { placed := [], dsns := [], session := 0, gone := [], eod := none, after := v.start * slotLen, cut := none } found
  let last := (w.placed.filter fun d => d.kind == 0).getLast?
  let next := match w.eod with | some e => e.next | none => (match last with | some d => d.next | none => 0)
  let next := w.gone.foldl (fun m r => max m (r.1 + r.2)) next
  { v with
    next := next, session := none, gone := w.gone, placed := w.placed
    dsn := (match w.eod with | some e => e.dsn | none => (match w.dsns with | [] => 0 | n :: _ => n + 1))
    at_ := w.after
    eodPsa := (match w.eod with | some e => e.at_ / slotLen | none => v.eodPsa)
    eodDsn := (match w.eod with | some e => e.dsn | none => v.eodDsn)
    carried := (match w.cut with | some b => [(b, 1)] | none => []) }

/-- The one partition of a volume without a table (R179). -/
def partWhole : Part := { partNone with start := 1024, end_ := volumeSlots, at_ := 1024 * slotLen }

/-- The medium delta of a housekeeping payload, all zero when its identifier, version or CRC is wrong (R229); the Bool
says whether it is valid. -/
def deltaOf (payload : List Byte) : Bool × List (Nat × Byte) :=
  let b := slice payload 0x100000 4194304
  let ok := fieldLe b 0 4 == 0x444D4B53 && fieldLe b 4 1 == 1 && fieldLe b 60 4 == (crc32c (b.take 60 ++ slice b 64 3145728)).toNat
  (ok, if ok then (b.zipIdx.filter fun x => x.1 != 0).map fun x => (x.2, x.1) else [])

/-- The volume that a housekeeping generation and the data sets found describe (R157, R179, R198, R200). -/
def loadVolume (gen psa : Nat) (payload : List Byte) (found : List (List FoundSet)) (s : State) : State :=
  let count := fieldLe payload 76 1
  let parts := if count = 0 then [(0, partWhole)] else (List.range (min count 64)).map fun p => (p, partOfTable payload p)
  let parts := parts.map fun (p, v) => (p, loadPart v (found.getD p []))
  let (ok, delta) := deltaOf payload
  let s := if ok then s else event 0 0 0x17 [] s
  { s with vol := { s.vol with
    loaded := true, serial := BitVec.ofNat 64 (fieldLe payload 64 8), hwm := fieldLe payload 72 4, nextSess := fieldLe payload 72 4 + 1
    count := min count 64, gen := gen, hkPsa := psa + 1, delta := delta, parts := parts } }

/-- A blank volume (R157, R179, R229): no housekeeping was ever written, so that the manual states no serial. -/
def loadBlank (s : State) : State :=
  let (n, s) := openNat s
  { s with vol := { s.vol with
    loaded := true, serial := BitVec.ofNat 64 n, hwm := 0, nextSess := 1, count := 0, gen := 0, hkPsa := 0, delta := []
    parts := [(0, partWhole)] } }

/-- The threading profile measures azimuth and reel radii of the cartridge (R286). -/
def threadMeasures (scan : LoadScan) (s : State) : State :=
  { s with sv := { s.sv with
    azk := (scan.azk.take 9).zipIdx.foldl (fun t (w, b) => tabSet 0x0127F505#32 t b w) s.sv.azk
    reelK := scan.reelK, rad0 := scan.radii.1, rad1 := scan.radii.2, wrap := 0 } }

/-- LOAD completes: serial, and the number of partitions (R92). -/
def loadEnds (r : CmdRef) (s : State) : State :=
  tapeRest (tidy (complete r 0 s.vol.serial.toNat s.vol.count false s))

/-- LOAD (R92): threads the cartridge and takes its newest housekeeping generation; a volume already loaded completes at
once. -/
def execLoad (t : Time) (ref : CmdRef) (scan : LoadScan) (s : State) : Host.Outcome State Fault Refusal :=
  let s := advance t s
  match chosenCmd 0x20 ref s with
  | none => .next s
  | some _ =>
    if s.vol.loaded then .next (loadEnds ref s)
    else if !scan.present then .next (tapeRest (tidy (failCmd ref 0x0105 s)))
    else
      let s := threadMeasures scan { s with gl := { s.gl with cart := true }, rch := { s.rch with kept := [] }, sm := { s.sm with demand := [], inMs := [] } }
      match newestGen scan.gens with
      | some (g, psa, payload) => .next (loadEnds ref (reloadZones (loadVolume g psa payload scan.parts s)))
      | none =>
        if scan.blank then .next (loadEnds ref (reloadZones (loadBlank s)))
        else .next (tapeRest (tidy (failCmd ref 0x0204 s)))

/-! ### UNLOAD -/

/-- Medium delta with entry `k` bytes from offset `o` replaced. -/
def deltaPut (o : Nat) (bytes : List Byte) (d : List (Nat × Byte)) : List (Nat × Byte) :=
  (bytes.zipIdx.map fun x => (o + x.2, x.1)).foldl (fun d x => tabSet 0 d x.1 x.2) d

/-- Medium delta with its UPDATES count set, its identifier, version and CRC as they must be (R229). -/
def deltaSealed (updates : Nat) (d : List (Nat × Byte)) : List (Nat × Byte) :=
  let d := deltaPut 0 (natLe 4 0x444D4B53 ++ [1, 0, 0, 0] ++ natLe 8 updates) d
  let at_ := fun k => tabGet 0 d k
  deltaPut 60 (natLe 4 (crc32c ((List.range 60).map at_ ++ (List.range' 64 3145728).map at_)).toNat) d

/-- UPDATES of a medium delta. -/
def deltaUpdates (d : List (Nat × Byte)) : Nat := leNat ((List.range' 8 8).map fun k => tabGet 0 d k)

/-- The new delta entry that a refined entry asks for (R234): none where it is near the stored one. -/
def deltaWanted (s : State) (key : Nat) (v : List Byte) : Option (List Byte) :=
  let h := headEntry s (key / 384) (key % 384)
  let d := deltaEntry s (key / 384) (key % 384)
  let b (l : List Byte) (i : Nat) : Byte := l.getD i 0
  let valid := (b d 5).getLsbD 0
  let old (x : Int) : Int := if valid then x else 0
  let g : Int := (fieldLe v 0 2 : Int) - fieldLe h 0 2
  let o : Int := (b v 2).toInt - (b h 2).toInt
  let a : Int := (b v 3).toInt - (b h 3).toInt
  if 32 < (g - old (BitVec.ofNat 16 (fieldLe d 0 2)).toInt).natAbs ∨ 2 < (o - old (b d 2).toInt).natAbs ∨ 2 < (a - old (b d 3).toInt).natAbs then
    some (natLe 2 (BitVec.ofInt 16 (satN 16 g)).toNat
      ++ [BitVec.ofInt 8 (satN 8 o), BitVec.ofInt 8 (satN 8 a), if valid then b d 4 else 0, 1, 0, 0])
  else none

/-- UNLOAD writes the collected differences as medium delta entries (R234). -/
def deltaCollect (s : State) : State :=
  let new : List (Nat × List Byte) := s.rch.kept.filterMap fun x => (deltaWanted s x.1 x.2).map fun y => (x.1, y)
  let s := { s with rch := { s.rch with kept := [] } }
  if new.isEmpty then s
  else
    let d := new.foldl (fun d x => deltaPut (64 + 8 * x.1) x.2 d) s.vol.delta
    { s with vol := { s.vol with delta := deltaSealed (deltaUpdates d + new.length) d } }

/-- No volume is loaded any more; the place in the acceptance order goes on. -/
def dropVolume (s : State) : State :=
  { s with
    vol := { Volume.reset with accepted := s.vol.accepted, unloadAt := s.vol.unloadAt }
    rdr := Reader.reset
    wr := { s.wr with part := none, block := none, sets := [], again := [], images := [], queue := [], copies := [], ending := false }
    sm := { s.sm with hitch := .none, readStop := false } }

/-- UNLOAD (R92, R14): sessions end and a flush runs; once nothing is off tape, housekeeping is rewritten and the
cartridge goes out. The flush's report completes the command (R130). -/
def execUnload (t : Time) (ref : CmdRef) (present : Bool) (hk : HkWrite) (s : State) : Host.Outcome State Fault Refusal :=
  let s := advance t s
  match findCmd s ref with
  | none => .next s
  | some c =>
    if eOpcode c.entry ≠ 0x21 then .next s
    else if c.stage = .chosen then
      if !present then .next (tapeRest (tidy (failCmd ref 0x0105 s)))
      else if !s.vol.loaded then
        .next (tapeRest (tidy (complete ref 0 0 0 false { s with gl := { s.gl with cart := false } })))
      else
        let s := setCmd { c with stage := .running } s
        .next (beginFlush ref (stopWriting s))
    else if c.stage = .running then
      match s.hq.flushes.find? fun w => w.ref == ref with
      | none => .next s
      | some w =>
        if offTape s w.point || s.wr.part.isSome || writeDue s then .next s
        else
          let s := if hk.ok then writeHousekeeping (deltaCollect s) else s
          let s := dropVolume { s with gl := { s.gl with cart := false } }
          .next (tapeRest (tidy (completeFlush ref 0 0 s)))
    else .next s

/-! ### PARTITION (R93, R178, R200) -/

/-- Sizes in units of 1,024 path slots as ranges from slot 1,024 on; none when they exceed the volume, or a size of 0 is
not the last (R92, R178). -/
def layout : Nat → List Word → Option (List (Nat × Nat))
  | _, [] => some []
  | at_, w :: r =>
    if w.toNat = 0 then (if r.isEmpty && decide (at_ ≤ volumeSlots) then some [(at_, volumeSlots)] else none)
    else
      let e := at_ + 1024 * w.toNat
      if volumeSlots < e then none else (layout e r).map ((at_, e) :: ·)

/-- Every record of the volume is given up (R93, R424): nothing accepted is written or reported, its staging is
released, and an APPEND past its acceptance point still completes by itself. -/
def giveUp (s : State) : State :=
  let s := { s with
    hq := { s.hq with inflight := s.hq.inflight.map fun c => if c.stage = .accepted then { c with count := 0 } else c }
    cy := { s.cy with
      waiting := s.cy.waiting.map fun w => if w.sealing then { w with part := 64 } else w
      busy := s.cy.busy.map fun (p, w) => (p, if w.sealing then { w with part := 64 } else w) }
    wr := { s.wr with part := none, block := none, sets := [], again := [], images := [], queue := [], copies := [], ending := false }
    rdr := { s.rdr with gathers := [], cache := [] }
    sm := { s.sm with grants := s.sm.grants.filter (fun g => !g.accepted), hitch := .none, demand := [], inMs := [] } }
  grantPass s

/-- Readers that were fetched before and must finish first (R93 item 2). -/
def readersBefore (s : State) (order : Nat) : Bool :=
  s.hq.inflight.any fun c => decide (c.order < order) && [0x02, 0x03, 0x06, 0x07, 0x08].contains (eOpcode c.entry)

/-- The new table (R93, R200): each partition empty, its BASE_SESSION the next session value, SESSION_HWM at least one
below. -/
def newTable (ranges : List (Nat × Nat)) (s : State) : State :=
  let n := s.vol.nextSess
  let parts := ranges.zipIdx.map fun ((a, b), p) => (p, { partNone with start := a, end_ := b, base := n, at_ := a * slotLen })
  { s with vol := { s.vol with count := ranges.length, parts := parts, hwm := max s.vol.hwm (n - 1) } }

/-- PARTITION (R93). -/
def execPartition (t : Time) (ref : CmdRef) (segs : List SgSeg) (sizes : List Word) (hk : HkWrite) (s : State) :
    Host.Outcome State Fault Refusal :=
  let s := advance t s
  match chosenCmd 0x22 ref s with
  | none => .next s
  | some c =>
    let ends (s : State) : State := tapeRest (tidy s)
    let ranges := if sizes.length = eField c.entry 24 1 then layout 1024 sizes else none
    match dataIs c segs (4 * eField c.entry 24 1), ranges with
    | some _, some ranges =>
      if !(eOpt c.entry).testBit 0 && s.vol.parts.any (fun x => decide (0 < x.2.next)) then .next (ends (failCmd ref 0x0106 s))
      else if readersBefore s c.order then .next s
      else if !hk.ok then .next (ends (complete ref 0x0205 ones64 0 false s))
      else .next (ends (completeFlush ref 0 0 (writeHousekeeping (newTable ranges (giveUp (endSessions s))))))
    | _, _ => .next (ends (failCmd ref 0x0002 s))

/-! ### Truncating ERASE (R92, R199) -/

/-- The data data set in which a truncation at block `b` falls: the first whose blocks reach beyond it. -/
def truncSet (v : Part) (b : Nat) : Option Placed :=
  (v.placed.filter fun d => d.kind == 0 && decide (b < d.next)).foldl
    (fun best d => match best with | none => some d | some x => if d.dsn < x.dsn then some d else some x) none

/-- A payload in the cache with every byte known. -/
def knownPayload (s : State) (p n : Nat) : Option (List Byte) :=
  match cachedSet s p n with
  | none => none
  | some c => allKnown c.payload

/-- The payload of a data set rewritten so that its packing stops before block `b` (R199 item 2). -/
def truncPayload (b : Nat) (payload : List Byte) : List Byte :=
  let d := directoryOf (payload.take 64)
  let es := entriesOf d.entries (payload.drop (payloadBytes - 16 * d.entries))
  let cut := ((es.filter fun e => e.type == 0 && decide (b ≤ e.block)).map fun e => e.offset).foldl min (64 + d.stream)
  let keep := (es.filter fun e => decide (e.block < b)).map fun e =>
    if e.type = 2 then { e with value := min e.value (b - e.block) } else e
  payloadOf { d with close := 4, next := b } (slice payload 64 (cut - 64)) keep

/-- The data sets that a truncation at block `b` writes and the partition after it (R199): the rewritten data set where
one is cut, the parity of the span that now ends, and the end of data; on the left a data set that must be read first. Where
no data set on tape reaches beyond `b`, since what did was lost, the end of data alone is written. DEDUCED (log entry 40). -/
def truncPlan (s : State) (p b : Nat) : Nat ⊕ (List DataSet × Part) :=
  let v := partOf s p
  let trim (l : List (Nat × Nat)) : List (Nat × Nat) := (l.filter fun r => decide (r.1 < b)).map fun r => (r.1, min r.2 (b - r.1))
  match truncSet v b with
  | none =>
    let last := (v.placed.filter fun x => x.kind == 0).getLast?.map fun x => x.session
    let (more, v2) := finishSession p (last.getD v.base) (spanParity s)
      { v with next := b, session := none, elems := [], closes := [], carried := trim v.carried, gone := trim v.gone }
    .inr (more, { v2 with span := [] })
  | some d =>
    match knownPayload s p d.dsn with
    | none => .inl d.dsn
    | some pay =>
      let dir := directoryOf (pay.take 64)
      let whole := d.first == b && d.contLen == 0 && dir.stream != 0
      let before := (v.placed.filter fun x => x.kind == 0 && decide (dir.spanAt ≤ x.dsn) && decide (x.dsn < d.dsn)).map fun x => x.dsn
      let missing := if dir.spanP = 0 then none else before.find? fun n => (knownPayload s p n).isNone
      match missing with
      | some n => .inl n
      | none =>
        let cut := truncPayload b pay
        let span := (before.map fun n => (knownPayload s p n).getD []) ++ if whole then [] else [cut]
        let v1 : Part := { v with
          next := b, session := none, elems := [], closes := [], carried := trim v.carried, gone := trim v.gone
          placed := v.placed.filter fun x => decide (x.dsn < d.dsn)
          dsn := if whole then d.dsn else d.dsn + 1, at_ := d.at_, spanAt := dir.spanAt, spanP := dir.spanP, span := span }
        let own : DataSet :=
          { part := p, dsn := d.dsn, kind := 0, session := d.session, first := d.first, next := b, contLen := d.contLen, close := 4,
            spanP := dir.spanP, spanAt := dir.spanAt, payload := cut, owned := [], carried := [] }
        let (more, v2) := finishSession p d.session (spanParity s) v1
        .inr ((if whole then [] else [own]) ++ more, { v2 with span := [] })

/-- ERASE with KIND 0 (R92, R199): its partition's session ends and a flush runs; then the end of data is set, what the
truncation writes goes to tape, and the flush's report completes the command. -/
def execEraseTruncate (t : Time) (ref : CmdRef) (s : State) : Host.Outcome State Fault Refusal :=
  let s := advance t s
  match findCmd s ref with
  | none => .next s
  | some c =>
    let p := ePart c.entry
    let b := eBlock c.entry
    let ends (s : State) : State := tapeRest (tidy s)
    if eOpcode c.entry ≠ 0x23 ∨ eOpt c.entry % 4 ≠ 0 then .next s
    else if c.stage = .running then
      if s.wr.part.isSome || !s.wr.images.isEmpty || s.wr.again.any (fun x => x.2.part == p) then .next s
      else .next (ends (completeFlush ref b 0 s))
    else if c.stage ≠ .chosen then .next s
    else if (partOf s p).next < b then .next (ends (failCmd ref 0x0202 s))
    else if c.count = 0 then .next (beginFlush ref (endSession p (setCmd { c with count := 1 } s)))
    else match s.hq.flushes.find? fun w => w.ref == ref with
      | none => .next s
      | some w =>
        if offTape s w.point || s.wr.part.isSome then .next s
        else if (partOf s p).next = b then .next (ends (completeFlush ref b 0 s))
        else match truncPlan s p b with
          | .inl _ => .next (setMode .read s)
          | .inr (sets, v) =>
            let s := setPart p v (setCmd { c with stage := .running } s)
            .next { s with
              wr := { s.wr with images := sets }
              rdr := { s.rdr with cache := s.rdr.cache.filter fun x => !(x.part == p && decide ((sets.headD (bareSet 0 0 0 0 0 0 0 [] [])).dsn ≤ x.dsn)) } }

/-! ### Long and sanitising ERASE (R92, R158, R424) -/

/-- The volume after a long or sanitising ERASE: blank but for housekeeping, which holds the serial, the medium delta with
its UPDATES at 0 (R229) and an empty table; sessions and generations start again at 1. -/
def blankVolume (s : State) : State :=
  let s := giveUp s
  let s := { s with vol := { s.vol with
    hwm := 0, nextSess := 1, count := 0, gen := 0, hkPsa := 0, parts := [(0, partWhole)]
    delta := if s.vol.delta.isEmpty then [] else deltaSealed 0 s.vol.delta } }
  writeHousekeeping s

/-- A long or sanitising ERASE goes on: `finished` once the last pass has ended, `bad` when the readback of a sanitise
found a region not overwritten. -/
def eraseWhole (kind : Nat) (sanitise : Bool) (ref : CmdRef) (finished bad : Bool) (s : State) : State :=
  match findCmd s ref with
  | none => s
  | some c =>
    if eOpcode c.entry ≠ 0x23 ∨ eOpt c.entry % 4 ≠ kind then s
    else
      let s :=
        if c.stage = .chosen && !readersBefore s c.order then
          setMode .erase (emit (.erased sanitise) (giveUp (endSessions (setCmd { c with stage := .running } s))))
        else s
      match findCmd s ref with
      | none => s
      | some c =>
        if c.stage = .running && finished then
          tapeRest (tidy (complete ref (if bad then 0x0205 else 0) 0 0 false (blankVolume s)))
        else s

/-- ERASE with KIND 1. -/
def execEraseLong (t : Time) (ref : CmdRef) (finished : Bool) (s : State) : Host.Outcome State Fault Refusal :=
  let s := advance t s
  .next (eraseWhole 1 false ref finished false s)

/-- ERASE with KIND 2: each pass overwrites with a DRBG pattern, and every wrap is read back (R92). -/
def execEraseSanitise (t : Time) (ref : CmdRef) (finished headersFound : Bool) (s : State) : Host.Outcome State Fault Refusal :=
  let s := advance t s
  .next (eraseWhole 2 true ref finished headersFound s)

end Sys2Proof.Machine
end

