-- ==== Sys2Proof/Machine/Dispatch.lean ====
section
/-!
DEFINITION. The dispatch: one arm for each command of the operation table.
-/

namespace Sys2Proof.Machine

def exec (i : Instr) (s : State) : Host.Outcome State Fault Refusal :=
  match i with
  | .perstNFall t => Sys2Proof.Machine.execPerstNFall t s
  | .perstNRise t addrSel temps => Sys2Proof.Machine.execPerstNRise t addrSel temps s
  | .rootPllLock t env => Sys2Proof.Machine.execRootPllLock t env s
  | .refClkLoss t => Sys2Proof.Machine.execRefClkLoss t s
  | .supplyMonitorTrip t => Sys2Proof.Machine.execSupplyMonitorTrip t s
  | .tempUpdate t temps => Sys2Proof.Machine.execTempUpdate t temps s
  | .pwrWarnNFall t => Sys2Proof.Machine.execPwrWarnNFall t s
  | .holdInNFall t => Sys2Proof.Machine.execHoldInNFall t s
  | .tapeAtRest t => Sys2Proof.Machine.execTapeAtRest t s
  | .warmResetRequest t value => Sys2Proof.Machine.execWarmResetRequest t value s
  | .warmResetStart t env => Sys2Proof.Machine.execWarmResetStart t env s
  | .flr t f => Sys2Proof.Machine.execFlr t f s
  | .gateDelayExpiry t => Sys2Proof.Machine.execGateDelayExpiry t s
  | .dieShutdownDone t die => Sys2Proof.Machine.execDieShutdownDone t die s
  | .dieWakeDone t die => Sys2Proof.Machine.execDieWakeDone t die s
  | .readWaitExpiry t => Sys2Proof.Machine.execReadWaitExpiry t s
  | .writeSessionStart t hk => Sys2Proof.Machine.execWriteSessionStart t hk s
  | .commandAged t ref => Sys2Proof.Machine.execCommandAged t ref s
  | .tapeCommandChoose t => Sys2Proof.Machine.execTapeCommandChoose t s
  | .locateTargetReached t => Sys2Proof.Machine.execLocateTargetReached t s
  | .wrapChange t wrap => Sys2Proof.Machine.execWrapChange t wrap s
  | .sqTailDoorbell t f q width value => Sys2Proof.Machine.execSqTailDoorbell t f q width value s
  | .cqHeadDoorbell t f q width value => Sys2Proof.Machine.execCqHeadDoorbell t f q width value s
  | .commandFetch t entry => Sys2Proof.Machine.execCommandFetch t entry s
  | .hqEnable t f => Sys2Proof.Machine.execHqEnable t f s
  | .hqDisable t f => Sys2Proof.Machine.execHqDisable t f s
  | .hqAllotWrite t g word value => Sys2Proof.Machine.execHqAllotWrite t g word value s
  | .append t ref rlist segs data => Sys2Proof.Machine.execAppend t ref rlist segs data s
  | .stagingGrant t => Sys2Proof.Machine.execStagingGrant t s
  | .acceptancePoint t => Sys2Proof.Machine.execAcceptancePoint t s
  | .read t ref segs => Sys2Proof.Machine.execRead t ref segs s
  | .verify t ref => Sys2Proof.Machine.execVerify t ref s
  | .flush t ref => Sys2Proof.Machine.execFlush t ref s
  | .writeMark t ref => Sys2Proof.Machine.execWriteMark t ref s
  | .readPosition t ref segs => Sys2Proof.Machine.execReadPosition t ref segs s
  | .orderQuery t ref segs list => Sys2Proof.Machine.execOrderQuery t ref segs list s
  | .locate t ref => Sys2Proof.Machine.execLocate t ref s
  | .createCq t ref => Sys2Proof.Machine.execCreateCq t ref s
  | .deleteCq t ref => Sys2Proof.Machine.execDeleteCq t ref s
  | .createSq t ref => Sys2Proof.Machine.execCreateSq t ref s
  | .deleteSq t ref => Sys2Proof.Machine.execDeleteSq t ref s
  | .abort t ref ahead => Sys2Proof.Machine.execAbort t ref ahead s
  | .getParam t ref => Sys2Proof.Machine.execGetParam t ref s
  | .setParam t ref => Sys2Proof.Machine.execSetParam t ref s
  | .getLog t ref segs => Sys2Proof.Machine.execGetLog t ref segs s
  | .keyLoadKek t ref segs blob => Sys2Proof.Machine.execKeyLoadKek t ref segs blob s
  | .keyLoadRecordKey t ref segs blob => Sys2Proof.Machine.execKeyLoadRecordKey t ref segs blob s
  | .keyErase t ref => Sys2Proof.Machine.execKeyErase t ref s
  | .keyEraseImmediate t ref => Sys2Proof.Machine.execKeyEraseImmediate t ref s
  | .keyEraseKek t ref => Sys2Proof.Machine.execKeyEraseKek t ref s
  | .load t ref scan => Sys2Proof.Machine.execLoad t ref scan s
  | .unload t ref present hk => Sys2Proof.Machine.execUnload t ref present hk s
  | .partition t ref segs sizes hk => Sys2Proof.Machine.execPartition t ref segs sizes hk s
  | .eraseTruncate t ref => Sys2Proof.Machine.execEraseTruncate t ref s
  | .eraseLong t ref finished => Sys2Proof.Machine.execEraseLong t ref finished s
  | .eraseSanitise t ref finished headersFound => Sys2Proof.Machine.execEraseSanitise t ref finished headersFound s
  | .calibrate t ref segs units out => Sys2Proof.Machine.execCalibrate t ref segs units out s
  | .telltaleStart t ref => Sys2Proof.Machine.execTelltaleStart t ref s
  | .telltaleStop t ref => Sys2Proof.Machine.execTelltaleStop t ref s
  | .bench t ref => Sys2Proof.Machine.execBench t ref s
  | .selfTest t ref code => Sys2Proof.Machine.execSelfTest t ref code s
  | .holdEnter t ref => Sys2Proof.Machine.execHoldEnter t ref s
  | .holdRelease t ref => Sys2Proof.Machine.execHoldRelease t ref s
  | .lcChange t ref segs auth => Sys2Proof.Machine.execLcChange t ref segs auth s
  | .lcArmExpiry t => Sys2Proof.Machine.execLcArmExpiry t s
  | .patchDownload t ref segs data => Sys2Proof.Machine.execPatchDownload t ref segs data s
  | .fwActivate t ref => Sys2Proof.Machine.execFwActivate t ref s
  | .fwActivateSwap t => Sys2Proof.Machine.execFwActivateSwap t s
  | .fwActivateTimeout t => Sys2Proof.Machine.execFwActivateTimeout t s
  | .health t src => Sys2Proof.Machine.execHealth t src s
  | .logRead t src => Sys2Proof.Machine.execLogRead t src s
  | .taskLcChange t src => Sys2Proof.Machine.execTaskLcChange t src s
  | .attest t src => Sys2Proof.Machine.execAttest t src s
  | .queueSetup t src => Sys2Proof.Machine.execQueueSetup t src s
  | .emergencyHold t src => Sys2Proof.Machine.execEmergencyHold t src s
  | .warmReset t src => Sys2Proof.Machine.execWarmReset t src s
  | .taskWriteWhileBusy t src offset value => Sys2Proof.Machine.execTaskWriteWhileBusy t src offset value s
  | .boardBusWrite t src address bytes => Sys2Proof.Machine.execBoardBusWrite t src address bytes s
  | .smbusTimeout t => Sys2Proof.Machine.execSmbusTimeout t s
  | .getVersion t conn msg => Sys2Proof.Machine.execGetVersion t conn msg s
  | .getCapabilities t conn msg => Sys2Proof.Machine.execGetCapabilities t conn msg s
  | .negotiateAlgorithms t conn msg => Sys2Proof.Machine.execNegotiateAlgorithms t conn msg s
  | .getDigests t conn msg => Sys2Proof.Machine.execGetDigests t conn msg s
  | .getCertificate t conn msg => Sys2Proof.Machine.execGetCertificate t conn msg s
  | .challenge t conn msg => Sys2Proof.Machine.execChallenge t conn msg s
  | .getMeasurements t conn msg => Sys2Proof.Machine.execGetMeasurements t conn msg s
  | .doeDiscovery t index => Sys2Proof.Machine.execDoeDiscovery t index s
  | .doeAbort t => Sys2Proof.Machine.execDoeAbort t s
  | .unlock t auth => Sys2Proof.Machine.execUnlock t auth s
  | .sourceLineChange t f fast src => Sys2Proof.Machine.execSourceLineChange t f fast src s
  | .interruptDelivery t => Sys2Proof.Machine.execInterruptDelivery t s
  | .fastDelivery t => Sys2Proof.Machine.execFastDelivery t s
  | .holdoffExpiry t f fast vec => Sys2Proof.Machine.execHoldoffExpiry t f fast vec s
  | .msixUnmask t f vec => Sys2Proof.Machine.execMsixUnmask t f vec s
  | .icEoi t f value => Sys2Proof.Machine.execIcEoi t f value s
  | .icFEoi t value => Sys2Proof.Machine.execIcFEoi t value s
  | .icActiveRead t f fast word => Sys2Proof.Machine.execIcActiveRead t f fast word s
  | .icPendWrite t f fast word value => Sys2Proof.Machine.execIcPendWrite t f fast word value s
  | .icSrcCfgWrite t f value => Sys2Proof.Machine.execIcSrcCfgWrite t f value s
  | .itemOffer t q part words => Sys2Proof.Machine.execItemOffer t q part words s
  | .batchIdleTimeout t q => Sys2Proof.Machine.execBatchIdleTimeout t q s
  | .spillHeadWrite t q value => Sys2Proof.Machine.execSpillHeadWrite t q value s
  | .spillFlush t q => Sys2Proof.Machine.execSpillFlush t q s
  | .spillFlushEffect t q => Sys2Proof.Machine.execSpillFlushEffect t q s
  | .spillStart t q => Sys2Proof.Machine.execSpillStart t q s
  | .spillStop t q => Sys2Proof.Machine.execSpillStop t q s
  | .strokeBoundary t => Sys2Proof.Machine.execStrokeBoundary t s
  | .slotStart t => Sys2Proof.Machine.execSlotStart t s
  | .slotComplete t slot => Sys2Proof.Machine.execSlotComplete t slot s
  | .loopStart t slot value => Sys2Proof.Machine.execLoopStart t slot value s
  | .loopStop t slot value => Sys2Proof.Machine.execLoopStop t slot value s
  | .ceSwapWrite t value => Sys2Proof.Machine.execCeSwapWrite t value s
  | .rcDataAccess t slot write => Sys2Proof.Machine.execRcDataAccess t slot write s
  | .readSampleCell t lane session cell => Sys2Proof.Machine.execReadSampleCell t lane session cell s
  | .servoSampleCell t lane session cell => Sys2Proof.Machine.execServoSampleCell t lane session cell s
  | .headStatusCell t lane session cell => Sys2Proof.Machine.execHeadStatusCell t lane session cell s
  | .laneLoss t lane => Sys2Proof.Machine.execLaneLoss t lane s
  | .laneTrainingDone t lane ok lower upper => Sys2Proof.Machine.execLaneTrainingDone t lane ok lower upper s
  | .burstWindowClose t reader => Sys2Proof.Machine.execBurstWindowClose t reader s
  | .moduleSample t m kind => Sys2Proof.Machine.execModuleSample t m kind s
  | .writeGateOpen t m bit => Sys2Proof.Machine.execWriteGateOpen t m bit s
  | .servoLossLimit t cond => Sys2Proof.Machine.execServoLossLimit t cond s
  | .sheetPacketReceive t link code data crc intact => Sys2Proof.Machine.execSheetPacketReceive t link code data crc intact s
  | .sheetLinkSync t link => Sys2Proof.Machine.execSheetLinkSync t link s
  | .sheetLinkLoss t link => Sys2Proof.Machine.execSheetLinkLoss t link s
  | .sheetLinkStable t => Sys2Proof.Machine.execSheetLinkStable t s
  | .sheetRefresh t => Sys2Proof.Machine.execSheetRefresh t s
  | .encoderEdge t enc a b => Sys2Proof.Machine.execEncoderEdge t enc a b s
  | .encoderIndex t enc => Sys2Proof.Machine.execEncoderIndex t enc s
  | .gpiEdge t pin level => Sys2Proof.Machine.execGpiEdge t pin level s
  | .rowDispatch t => Sys2Proof.Machine.execRowDispatch t s
  | .tapeResume t => Sys2Proof.Machine.execTapeResume t s
  | .readAheadStop t => Sys2Proof.Machine.execReadAheadStop t s
  | .demandUpdate t => Sys2Proof.Machine.execDemandUpdate t s
  | .reefRampDone t => Sys2Proof.Machine.execReefRampDone t s
  | .verifyResult t copy obs => Sys2Proof.Machine.execVerifyResult t copy obs s
  | .verifyDeadline t copy => Sys2Proof.Machine.execVerifyDeadline t copy s
  | .frameDecodeStart t die engine => Sys2Proof.Machine.execFrameDecodeStart t die engine s
  | .frameDecodeDone t die engine => Sys2Proof.Machine.execFrameDecodeDone t die engine s
  | .blankDetect t => Sys2Proof.Machine.execBlankDetect t s
  | .runDispatch t engine => Sys2Proof.Machine.execRunDispatch t engine s
  | .runComplete t engine agrees => Sys2Proof.Machine.execRunComplete t engine agrees s
  | .cipherRecordStart t pair => Sys2Proof.Machine.execCipherRecordStart t pair s
  | .cipherRecordEnd t pair agrees => Sys2Proof.Machine.execCipherRecordEnd t pair agrees s
  | .drbgReseed t entropyOk => Sys2Proof.Machine.execDrbgReseed t entropyOk s
  | .entropyHealthFail t => Sys2Proof.Machine.execEntropyHealthFail t s
  | .scrubRead t cls obs => Sys2Proof.Machine.execScrubRead t cls obs s
  | .instructionFetchTrap t fault => Sys2Proof.Machine.execInstructionFetchTrap t fault s
  | .dmaChannelHalt t f q => Sys2Proof.Machine.execDmaChannelHalt t f q s
  | .completionTimeout t f q => Sys2Proof.Machine.execCompletionTimeout t f q s
  | .miFlipaddrWrite t cls high width value => Sys2Proof.Machine.execMiFlipaddrWrite t cls high width value s
  | .injectedWrite t cls addr data => Sys2Proof.Machine.execInjectedWrite t cls addr data s
  | .bar0AccessReject t f isWrite offset width => Sys2Proof.Machine.execBar0AccessReject t f isWrite offset width s
  | .rocRead t f offset width => Sys2Proof.Machine.execRocRead t f offset width s
  | .registerWrite t f bar offset width value => Sys2Proof.Machine.execRegisterWrite t f bar offset width value s
  | .holdInNRise t => Sys2Proof.Machine.execHoldInNRise t s
  | .pwrWarnNRise t => Sys2Proof.Machine.execPwrWarnNRise t s
  | .lowHalfRead t f offset => Sys2Proof.Machine.execLowHalfRead t f offset s
  | .spillConsumerHalt t q => Sys2Proof.Machine.execSpillConsumerHalt t q s
  | .rsaOperationDone t => Sys2Proof.Machine.execRsaOperationDone t s
  | .doeResponseRead t => Sys2Proof.Machine.execDoeResponseRead t s
  | .vfEnableWrite t on => Sys2Proof.Machine.execVfEnableWrite t on s
  | .setdasaOrEntdaa t address => Sys2Proof.Machine.execSetdasaOrEntdaa t address s

end Sys2Proof.Machine
end

