-- ==== Sys2Proof/Safety.lean ====
section
/-!
DEFINITION. What claims call a safe step, a well-formed queue, and the frame of a command: the parts of the state, and
what it means that only some of them changed.
-/

namespace Sys2Proof

/-- A step is safe when it answers a next state: no fault and no refusal. -/
def SafeStep (s : Machine.State) : Prop := ∃ t, Machine.step s = .next t

/-- Every command that waits is one that can occur. -/
def QueueOk (s : Machine.State) : Prop := ∀ c ∈ s.pending, WellFormed c = true

namespace Machine

/-- The parts of the state that frames speak of: one for each block of the machine, with the life-cycle state apart from
the rest of GL, the memory units apart from the rest of MI, and the rollback fuses apart from the rest of SE; `refs` is the
commands in flight by reference, of which a frame says that they stay or leave and none comes into flight. -/
inductive Region
  | tb | gl | life | pins | crew | hq | task | par | eng | cy | vol | wr | fm | rch | rdr | sm | sv | ce
  | tt | lk | sp | ic | spill | ev | mi | units | se | fuses | logs | latch | out | fresh | pending | refs
deriving DecidableEq, Repr

/-- One part is the same in two states, `s` before `u`. -/
def Region.same : Region → State → State → Prop
  | .tb, s, u => u.tb = s.tb
  | .gl, s, u => { u.gl with lc := 0, lcMram := 0, lcPending := none } = { s.gl with lc := 0, lcMram := 0, lcPending := none }
  | .life, s, u => (u.gl.lc, u.gl.lcMram, u.gl.lcPending) = (s.gl.lc, s.gl.lcMram, s.gl.lcPending)
  | .pins, s, u => u.pins = s.pins
  | .crew, s, u => u.crew = s.crew
  | .hq, s, u => u.hq = s.hq
  | .task, s, u => u.task = s.task
  | .par, s, u => u.par = s.par
  | .eng, s, u => u.eng = s.eng
  | .cy, s, u => u.cy = s.cy
  | .vol, s, u => u.vol = s.vol
  | .wr, s, u => u.wr = s.wr
  | .fm, s, u => u.fm = s.fm
  | .rch, s, u => u.rch = s.rch
  | .rdr, s, u => u.rdr = s.rdr
  | .sm, s, u => u.sm = s.sm
  | .sv, s, u => u.sv = s.sv
  | .ce, s, u => u.ce = s.ce
  | .tt, s, u => u.tt = s.tt
  | .lk, s, u => u.lk = s.lk
  | .sp, s, u => u.sp = s.sp
  | .ic, s, u => u.ic = s.ic
  | .spill, s, u => u.spill = s.spill
  | .ev, s, u => u.ev = s.ev
  | .mi, s, u => { u.mi with units := [] } = { s.mi with units := [] }
  | .units, s, u => u.mi.units = s.mi.units
  | .se, s, u => { u.se with rollback := 0 } = { s.se with rollback := 0 }
  | .fuses, s, u => u.se.rollback = s.se.rollback
  | .logs, s, u => u.logs = s.logs
  | .latch, s, u => u.latch = s.latch
  | .out, s, u => u.out = s.out
  | .fresh, s, u => u.fresh = s.fresh
  | .pending, s, u => u.pending = s.pending
  | .refs, s, u => (u.hq.inflight.map fun c => c.ref).Sublist (s.hq.inflight.map fun c => c.ref)

/-- Only the parts listed may differ between `s` and `u`, and what has left the device is not taken back. -/
structure Frame (l : List Region) (s u : State) : Prop where
  /-- every part that is not listed is the same -/
  same : ∀ b, b ∉ l → b.same s u
  /-- outputs are only added, newest first -/
  out : s.out <:+ u.out

/-- Whatever next state an outcome holds, only the parts listed may differ from `s`. -/
structure FrameO (l : List Region) (s : State) (o : Host.Outcome State Fault Refusal) : Prop where
  /-- the frame of the next state -/
  frame : ∀ u, o = .next u → Frame l s u

/-- `x` left the device between `s` and `u`. -/
def Sent (s u : State) (x : Out) : Prop := ∃ l, u.out = l ++ s.out ∧ x ∈ l

/-- The command that `ref` names is over in `u`: it is no longer in flight, and a completion entry with its tag, the
status and the two results left the device for a completion queue of its function (R62, R63). -/
structure Ends (s u : State) (ref : CmdRef) (status r0 r1 : Nat) : Prop where
  /-- not in flight any more -/
  gone : findCmd u ref = none
  /-- its completion entry -/
  entry : ∃ cq slot bytes, Sent s u (.completion ref.fn cq slot bytes) ∧ bytes.length = 32
    ∧ fieldLe bytes 16 2 = ref.tag.toNat ∧ fieldLe bytes 20 2 = status ∧ fieldLe bytes 0 8 = r0 ∧ fieldLe bytes 8 4 = r1

/-- A fetched command of a submission queue is ready for its work: opcode `op`, its checks passed (R83). -/
structure Ready (s : State) (op : Nat) (ref : CmdRef) (c : InFlight) : Prop where
  /-- it is the command in flight that `ref` names -/
  found : findCmd s ref = some c
  /-- its work has not begun -/
  stage : c.stage = .ready
  /-- its opcode -/
  op : eOpcode c.entry = op
  /-- it came from a submission queue -/
  queue : ref.sq < 8192

/-- Words of the PF's BAR0 with their Reset column (chapters 2, 9 to 14, 16 and 18). -/
def resetColumn : List (Nat × Word) :=
  [(0x10, 0), (0x20, 0), (0x28, 0), (0x30, 0), (0x34100, 0x0000040C), (0x34104, 0x00600018), (0x34108, 0x00400010),
   (0x34200, 0x10040A03), (0x34204, 0x000300C8), (0x34208, 0x0E070904), (0x20000, 0x00080410), (0x20004, 0x00648364),
   (0x20008, 0x00960640), (0x24000, 0x00000403), (0x28000, 0x00FFFFFF), (0x28020, 0x00010000), (0x28028, 0x000003E8),
   (0x14000, 0x0000031F), (0x10000, 0x00000003), (0x10050, 0x00010400)]

/-- The table of memory units has its canonical form (Sys2Proof/Machine/Bytes.lean): rising keys, no clean zero unit. -/
def MemoryOk (s : State) : Prop := tabWf 0 s.mi.units = true

/-- No two commands in flight have the same function, submission queue and tag (R76). -/
abbrev TagsDistinct (s : State) : Prop := (s.hq.inflight.map fun c => c.ref).Nodup

/-- A cold reset between `s` and `u` (R36, R400, R415): RESET with every output stopped and nothing posted; the queues,
the volume, the engines, the key slots with the key-encryption keys, the patch RAM and every register block at reset; the
buffer and SRAM units gone; MRAM contents, roster, stored parameters, patch store and fuses kept. A life-cycle change that
was under way leaves the old state or the new one (R42). -/
structure ColdReset (s u : State) : Prop where
  /-- the mode -/
  mode : u.gl.cur = .reset ∧ u.gl.prev = .reset ∧ u.gl.phase = 0 ∧ u.gl.latched = 0
  /-- the pins the device drives -/
  outputs : u.pins.outputs = false
  /-- nothing is completed or sent -/
  out : u.out = s.out
  /-- host interface and task registers -/
  host : u.hq = Hq.reset ∧ u.task = Task.reset ∧ u.ic = Ic.reset ∧ u.spill = [] ∧ u.ev.recent = []
  /-- volume, engines, cipher block, read cache and speed matching -/
  data : u.vol = Volume.reset ∧ u.eng = Engines.reset ∧ u.cy = Cipher.reset ∧ u.rdr = Reader.reset ∧ u.sm = Speed.reset
  /-- Trim engine, Telltale, servo, Sheet Port, and the verify registers -/
  motion : u.ce = Trim.reset ∧ u.tt = Telltale.reset ∧ u.sv = Servo.reset ∧ u.sp = Sheet.reset ∧ u.fm = FmRegs.reset
  /-- memory: only MRAM units keep their contents -/
  mem : u.mi.units = s.mi.units.filter fun p => decide (2 * 2 ^ 40 ≤ p.1)
  /-- the patch RAM is wiped; the patch store and the fuses stay -/
  patch : u.se.patchRam = [] ∧ u.se.active = s.se.active ∧ u.se.pend = s.se.pend ∧ u.se.rollback = s.se.rollback
  /-- what the MRAM keeps of the crew, the parameters and the calibration -/
  kept : u.crew.stored = s.crew.stored ∧ u.par.stored = s.par.stored ∧ u.logs = s.logs
  /-- the life-cycle state of the MRAM -/
  life : u.gl.lcMram = s.gl.lcMram ∨ s.gl.lcPending = some u.gl.lcMram

/-- The instant at which a command happens. -/
def instant (c : Instr) : Time :=
  match c with
  | .perstNFall t | .perstNRise t _ _ | .rootPllLock t _ | .refClkLoss t | .supplyMonitorTrip t | .tempUpdate t _ |
  .pwrWarnNFall t | .holdInNFall t | .tapeAtRest t | .warmResetRequest t _ | .warmResetStart t _ | .flr t _ |
  .gateDelayExpiry t | .dieShutdownDone t _ | .dieWakeDone t _ | .readWaitExpiry t | .writeSessionStart t _ |
  .commandAged t _ | .tapeCommandChoose t | .locateTargetReached t | .wrapChange t _ | .sqTailDoorbell t _ _ _ _ |
  .cqHeadDoorbell t _ _ _ _ | .commandFetch t _ | .hqEnable t _ | .hqDisable t _ | .hqAllotWrite t _ _ _ |
  .append t _ _ _ _ | .stagingGrant t | .acceptancePoint t | .read t _ _ | .verify t _ | .flush t _ | .writeMark t _
  | .readPosition t _ _ | .orderQuery t _ _ _ | .locate t _ | .createCq t _ | .deleteCq t _ | .createSq t _ |
  .deleteSq t _ | .abort t _ _ | .getParam t _ | .setParam t _ | .getLog t _ _ | .keyLoadKek t _ _ _ |
  .keyLoadRecordKey t _ _ _ | .keyErase t _ | .keyEraseImmediate t _ | .keyEraseKek t _ | .load t _ _ |
  .unload t _ _ _ | .partition t _ _ _ _ | .eraseTruncate t _ | .eraseLong t _ _ | .eraseSanitise t _ _ _ |
  .calibrate t _ _ _ _ | .telltaleStart t _ | .telltaleStop t _ | .bench t _ | .selfTest t _ _ | .holdEnter t _ |
  .holdRelease t _ | .lcChange t _ _ _ | .lcArmExpiry t | .patchDownload t _ _ _ | .fwActivate t _ |
  .fwActivateSwap t | .fwActivateTimeout t | .health t _ | .logRead t _ | .taskLcChange t _ | .attest t _ |
  .queueSetup t _ | .emergencyHold t _ | .warmReset t _ | .taskWriteWhileBusy t _ _ _ | .boardBusWrite t _ _ _ |
  .smbusTimeout t | .getVersion t _ _ | .getCapabilities t _ _ | .negotiateAlgorithms t _ _ | .getDigests t _ _ |
  .getCertificate t _ _ | .challenge t _ _ | .getMeasurements t _ _ | .doeDiscovery t _ | .doeAbort t | .unlock t _
  | .sourceLineChange t _ _ _ | .interruptDelivery t | .fastDelivery t | .holdoffExpiry t _ _ _ | .msixUnmask t _ _
  | .icEoi t _ _ | .icFEoi t _ | .icActiveRead t _ _ _ | .icPendWrite t _ _ _ _ | .icSrcCfgWrite t _ _ |
  .itemOffer t _ _ _ | .batchIdleTimeout t _ | .spillHeadWrite t _ _ | .spillFlush t _ | .spillFlushEffect t _ |
  .spillStart t _ | .spillStop t _ | .strokeBoundary t | .slotStart t | .slotComplete t _ | .loopStart t _ _ |
  .loopStop t _ _ | .ceSwapWrite t _ | .rcDataAccess t _ _ | .readSampleCell t _ _ _ | .servoSampleCell t _ _ _ |
  .headStatusCell t _ _ _ | .laneLoss t _ | .laneTrainingDone t _ _ _ _ | .burstWindowClose t _ |
  .moduleSample t _ _ | .writeGateOpen t _ _ | .servoLossLimit t _ | .sheetPacketReceive t _ _ _ _ _ |
  .sheetLinkSync t _ | .sheetLinkLoss t _ | .sheetLinkStable t | .sheetRefresh t | .encoderEdge t _ _ _ |
  .encoderIndex t _ | .gpiEdge t _ _ | .rowDispatch t | .tapeResume t | .readAheadStop t | .demandUpdate t |
  .reefRampDone t | .verifyResult t _ _ | .verifyDeadline t _ | .frameDecodeStart t _ _ | .frameDecodeDone t _ _ |
  .blankDetect t | .runDispatch t _ | .runComplete t _ _ | .cipherRecordStart t _ | .cipherRecordEnd t _ _ |
  .drbgReseed t _ | .entropyHealthFail t | .scrubRead t _ _ | .instructionFetchTrap t _ | .dmaChannelHalt t _ _ |
  .completionTimeout t _ _ | .miFlipaddrWrite t _ _ _ _ | .injectedWrite t _ _ _ | .bar0AccessReject t _ _ _ _ |
  .rocRead t _ _ _ | .registerWrite t _ _ _ _ _ | .holdInNRise t | .pwrWarnNRise t | .lowHalfRead t _ _ |
  .spillConsumerHalt t _ | .rsaOperationDone t | .doeResponseRead t | .vfEnableWrite t _ | .setdasaOrEntdaa t _ => t

/-- What each command may change besides TB, which stands at its instant afterwards, and which the lock of the root PLL
sets. A command that can end a command in flight may change what an end lets go on: the queues, engines, cipher pairs,
staging and interrupt sources. -/
def footprint (c : Instr) : List Region :=
  match c with
  | .commandAged _ _ | .smbusTimeout _ =>
    []
  | .perstNRise _ _ _ =>
    [.pins]
  | .gateDelayExpiry _ =>
    [.crew]
  | .sqTailDoorbell _ _ _ _ _ | .cqHeadDoorbell _ _ _ _ _ =>
    [.hq]
  | .lcArmExpiry _ =>
    [.gl]
  | .doeDiscovery _ _ | .doeAbort _ | .unlock _ _ =>
    [.se]
  | .sourceLineChange _ _ _ _ | .holdoffExpiry _ _ _ _ | .icEoi _ _ _ | .icFEoi _ _ | .icPendWrite _ _ _ _ _ |
  .icSrcCfgWrite _ _ _ =>
    [.ic]
  | .spillStop _ _ | .spillConsumerHalt _ _ =>
    [.spill]
  | .slotStart _ | .ceSwapWrite _ _ =>
    [.ce]
  | .sheetLinkSync _ _ =>
    [.sp]
  | .sheetRefresh _ =>
    [.out]
  | .tapeResume _ | .readAheadStop _ | .demandUpdate _ | .reefRampDone _ =>
    [.sm]
  | .frameDecodeStart _ _ _ =>
    [.rch]
  | .runDispatch _ _ =>
    [.eng]
  | .miFlipaddrWrite _ _ _ _ _ =>
    [.mi]
  | .setdasaOrEntdaa _ _ =>
    [.task]
  | .hqEnable _ _ =>
    [.hq, .ic]
  | .hqAllotWrite _ _ _ _ =>
    [.hq, .cy]
  | .interruptDelivery _ | .fastDelivery _ | .msixUnmask _ _ _ | .icActiveRead _ _ _ _ =>
    [.ic, .out]
  | .batchIdleTimeout _ _ | .spillHeadWrite _ _ _ | .spillStart _ _ =>
    [.spill, .out]
  | .loopStart _ _ _ | .loopStop _ _ _ =>
    [.ce, .ic]
  | .rcDataAccess _ _ _ =>
    [.ce, .out]
  | .headStatusCell _ _ _ _ =>
    [.crew, .lk]
  | .sheetLinkStable _ =>
    [.gl, .ic]
  | .gpiEdge _ _ _ =>
    [.sp, .ic]
  | .injectedWrite _ _ _ _ =>
    [.mi, .units]
  | .bar0AccessReject _ _ _ _ _ =>
    [.gl, .out]
  | .holdInNRise _ | .pwrWarnNRise _ =>
    [.pins, .ic]
  | .doeResponseRead _ =>
    [.se, .out]
  | .readWaitExpiry _ =>
    [.hq, .vol, .wr]
  | .itemOffer _ _ _ _ | .spillFlush _ _ | .spillFlushEffect _ _ =>
    [.spill, .ev, .out]
  | .writeGateOpen _ _ _ =>
    [.wr, .sv, .out]
  | .encoderIndex _ _ =>
    [.sv, .sp, .fresh]
  | .wrapChange _ _ =>
    [.rch, .sv, .ce, .lk]
  | .stagingGrant _ =>
    [.hq, .eng, .rdr, .sm]
  | .getVersion _ _ _ | .getCapabilities _ _ _ | .negotiateAlgorithms _ _ _ | .getDigests _ _ _ |
  .getCertificate _ _ _ | .challenge _ _ _ | .getMeasurements _ _ _ =>
    [.task, .se, .out, .fresh]
  | .moduleSample _ _ _ =>
    [.wr, .sv, .ic, .out]
  | .sheetPacketReceive _ _ _ _ _ _ =>
    [.sp, .spill, .ev, .out]
  | .drbgReseed _ _ | .entropyHealthFail _ =>
    [.cy, .ic, .spill, .ev, .out]
  | .tapeAtRest _ =>
    [.gl, .wr, .sm, .sv, .ic, .out]
  | .encoderEdge _ _ _ _ =>
    [.gl, .wr, .sv, .sp, .ic, .out]
  | .frameDecodeDone _ _ _ =>
    [.crew, .fm, .rch, .rdr, .sm, .fresh]
  | .dieShutdownDone _ _ =>
    [.crew, .sv, .lk, .ic, .spill, .ev, .out]
  | .dieWakeDone _ _ =>
    [.crew, .rch, .lk, .ic, .spill, .ev, .out]
  | .laneLoss _ _ =>
    [.crew, .wr, .lk, .ic, .spill, .ev, .out]
  | .append _ _ _ _ _ | .readPosition _ _ _ | .createCq _ _ | .deleteCq _ _ | .createSq _ _ | .getParam _ _ |
  .getLog _ _ _ | .keyLoadRecordKey _ _ _ _ | .keyErase _ _ | .keyEraseImmediate _ _ | .keyEraseKek _ _ =>
    [.hq, .eng, .cy, .vol, .rdr, .sm, .ic, .out]
  | .commandFetch _ _ =>
    [.hq, .eng, .cy, .vol, .rdr, .sm, .ic, .out, .refs]
  | .keyLoadKek _ _ _ _ | .patchDownload _ _ _ _ =>
    [.hq, .eng, .cy, .vol, .rdr, .sm, .ic, .se, .out]
  | .servoSampleCell _ _ _ _ | .burstWindowClose _ _ =>
    [.crew, .wr, .sv, .ce, .lk, .ic, .spill, .ev, .out]
  | .laneTrainingDone _ _ _ _ _ =>
    [.crew, .wr, .rch, .sv, .lk, .ic, .spill, .ev, .out]
  | .tapeCommandChoose _ =>
    [.gl, .crew, .hq, .vol, .wr, .rdr, .sm, .ce, .lk, .ic]
  | .hqDisable _ _ | .acceptancePoint _ | .flush _ _ | .writeMark _ _ | .orderQuery _ _ _ _ | .deleteSq _ _ |
  .abort _ _ _ | .fwActivate _ _ | .cipherRecordStart _ _ | .dmaChannelHalt _ _ _ | .completionTimeout _ _ _ =>
    [.hq, .eng, .cy, .vol, .rdr, .sm, .ic, .spill, .ev, .out]
  | .setParam _ _ =>
    [.hq, .par, .eng, .cy, .vol, .rdr, .sm, .ce, .ic, .out]
  | .runComplete _ _ _ | .cipherRecordEnd _ _ _ =>
    [.crew, .hq, .eng, .cy, .vol, .rdr, .sm, .lk, .ic, .spill, .ev, .out]
  | .locateTargetReached _ | .read _ _ _ | .verify _ _ | .locate _ _ | .selfTest _ _ _ | .holdRelease _ _ =>
    [.gl, .crew, .hq, .eng, .cy, .vol, .rdr, .sm, .ce, .ic, .spill, .ev, .out]
  | .flr _ _ | .vfEnableWrite _ _ =>
    [.hq, .eng, .cy, .vol, .rdr, .sm, .tt, .ic, .spill, .ev, .mi, .se, .out, .refs]
  | .partition _ _ _ _ _ | .eraseTruncate _ _ | .eraseLong _ _ _ | .eraseSanitise _ _ _ _ =>
    [.gl, .crew, .hq, .eng, .cy, .vol, .wr, .rdr, .sm, .ce, .ic, .spill, .ev, .out]
  | .telltaleStart _ _ | .telltaleStop _ _ =>
    [.gl, .crew, .hq, .eng, .cy, .vol, .rdr, .sm, .ce, .tt, .ic, .spill, .ev, .out]
  | .verifyResult _ _ _ | .verifyDeadline _ _ =>
    [.crew, .hq, .eng, .cy, .vol, .wr, .fm, .rdr, .sm, .lk, .ic, .spill, .ev, .out]
  | .blankDetect _ =>
    [.gl, .crew, .hq, .eng, .cy, .vol, .fm, .rdr, .sm, .ce, .ic, .spill, .ev, .out]
  | .warmResetRequest _ _ | .holdEnter _ _ | .servoLossLimit _ _ =>
    [.gl, .crew, .hq, .eng, .cy, .vol, .wr, .rdr, .sm, .sv, .ce, .ic, .spill, .ev, .out]
  | .writeSessionStart _ _ =>
    [.gl, .crew, .hq, .eng, .cy, .vol, .wr, .rdr, .sm, .ce, .lk, .ic, .spill, .ev, .out]
  | .unload _ _ _ _ =>
    [.gl, .crew, .hq, .eng, .cy, .vol, .wr, .rch, .rdr, .sm, .ce, .ic, .spill, .ev, .out]
  | .slotComplete _ _ =>
    [.gl, .crew, .hq, .eng, .cy, .vol, .rdr, .sm, .ce, .tt, .sp, .ic, .spill, .ev, .out]
  | .pwrWarnNFall _ | .holdInNFall _ =>
    [.gl, .pins, .crew, .hq, .eng, .cy, .vol, .wr, .rdr, .sm, .sv, .ce, .ic, .spill, .ev, .out]
  | .load _ _ _ =>
    [.gl, .crew, .hq, .eng, .cy, .vol, .rch, .rdr, .sm, .sv, .ce, .ic, .spill, .ev, .out, .fresh]
  | .readSampleCell _ _ _ _ =>
    [.crew, .hq, .eng, .cy, .vol, .wr, .fm, .rch, .rdr, .sm, .lk, .ic, .spill, .ev, .out, .fresh]
  | .sheetLinkLoss _ _ =>
    [.gl, .crew, .hq, .eng, .cy, .vol, .wr, .rdr, .sm, .sv, .ce, .sp, .ic, .spill, .ev, .out]
  | .rowDispatch _ =>
    [.gl, .crew, .hq, .eng, .cy, .vol, .wr, .fm, .rdr, .sm, .ce, .lk, .ic, .spill, .ev, .out]
  | .bench _ _ =>
    [.gl, .crew, .hq, .eng, .cy, .vol, .wr, .rch, .rdr, .sm, .sv, .ce, .lk, .ic, .spill, .ev, .out]
  | .lcChange _ _ _ _ =>
    [.gl, .life, .crew, .hq, .eng, .cy, .vol, .wr, .rdr, .sm, .sv, .ce, .ic, .spill, .ev, .se, .out]
  | .instructionFetchTrap _ _ =>
    [.gl, .crew, .hq, .eng, .cy, .vol, .wr, .rdr, .sm, .sv, .ce, .ic, .spill, .ev, .mi, .se, .out]
  | .strokeBoundary _ =>
    [.gl, .crew, .hq, .eng, .cy, .vol, .wr, .rdr, .sm, .sv, .ce, .tt, .sp, .ic, .spill, .ev, .out, .fresh]
  | .scrubRead _ _ _ =>
    [.crew, .hq, .eng, .cy, .vol, .wr, .rch, .rdr, .sm, .sv, .lk, .ic, .spill, .ev, .mi, .units, .se, .out]
  | .rocRead _ _ _ _ | .lowHalfRead _ _ _ =>
    [.gl, .crew, .hq, .task, .cy, .fm, .rch, .sm, .sv, .ce, .lk, .sp, .ic, .spill, .mi, .se, .latch, .out]
  | .fwActivateTimeout _ | .health _ _ | .logRead _ _ | .taskLcChange _ _ | .attest _ _ | .queueSetup _ _ |
  .emergencyHold _ _ | .warmReset _ _ | .taskWriteWhileBusy _ _ _ _ | .boardBusWrite _ _ _ _ |
  .rsaOperationDone _ =>
    [.gl, .life, .crew, .hq, .task, .eng, .cy, .vol, .wr, .rdr, .sm, .sv, .ce, .ic, .spill, .ev, .se, .out, .fresh]
  | .fwActivateSwap _ =>
    [.gl, .life, .crew, .hq, .task, .eng, .cy, .vol, .wr, .rdr, .sm, .sv, .ce, .ic, .spill, .ev, .se, .fuses, .out,
     .fresh]
  | .calibrate _ _ _ _ _ =>
    [.gl, .crew, .hq, .eng, .cy, .vol, .wr, .rch, .rdr, .sm, .sv, .ce, .lk, .sp, .ic, .spill, .ev, .se, .logs, .out,
     .fresh]
  | .registerWrite _ _ _ _ _ _ =>
    [.gl, .life, .crew, .hq, .task, .eng, .cy, .vol, .wr, .fm, .rch, .rdr, .sm, .sv, .ce, .tt, .lk, .sp, .ic,
     .spill, .ev, .mi, .se, .out, .fresh]
  | .rootPllLock _ _ =>
    [.tb, .gl, .life, .pins, .crew, .hq, .par, .eng, .cy, .vol, .wr, .rch, .rdr, .sm, .sv, .ce, .lk, .sp, .ic,
     .spill, .ev, .se, .fuses, .logs, .out, .fresh]
  | .perstNFall _ | .refClkLoss _ | .supplyMonitorTrip _ | .tempUpdate _ _ =>
    [.gl, .life, .pins, .crew, .hq, .task, .par, .eng, .cy, .vol, .wr, .fm, .rch, .rdr, .sm, .sv, .ce, .tt, .lk,
     .sp, .ic, .spill, .ev, .mi, .units, .se, .latch, .fresh]
  | .warmResetStart _ _ =>
    [.gl, .life, .pins, .crew, .hq, .task, .par, .eng, .cy, .vol, .wr, .fm, .rch, .rdr, .sm, .sv, .ce, .tt, .lk,
     .sp, .ic, .spill, .ev, .mi, .units, .se, .fuses, .logs, .latch, .out, .fresh]

end Machine

end Sys2Proof
end

