-- ==== Sys2Proof/Certificates/Slice0/Obligations.lean ====
section
/-!
DEFINITION. The statements about the model, in the order of the manual's chapters. A statement that names a set of
parts for a state (`Frame`, Sys2Proof/Safety.lean) says that everything else is unchanged.
-/

open Sys2Proof Sys2Proof.Machine

/-- For every command c, queue rest and state s: the step of s with c in front of rest is exec of c on s with rest as
its queue, and with an empty queue the step answers s itself (the model's choice, log entry 1). -/
def Obligations.StepRunsFront : Prop :=
  (∀ (c : Instr) (rest : List Instr) (s : State),
      step { s with pending := c :: rest } = exec c { s with pending := rest })
    ∧ ∀ s : State, s.pending = [] → step s = .next s

/-- For every command c and every state s, exec of c on s answers a next state: no fault and no refusal, whatever the
operands. The model's own choices that it touches are log entries 1 and 19. -/
def Obligations.EveryCommandRuns : Prop :=
  ∀ (c : Instr) (s : State), ∃ u, exec c s = .next u

/-- In State.reset the mode is RESET, TB is 0, no command waits, is in flight or has been answered, no queue exists,
no key is held, and reads of the PF's BAR0 map answer the Reset column of the manual for the words listed: GL_MODE,
GL_HOLD, GL_RESET, GL_LC, FM_ECC_CTL, FM_VFY_CTL, FM_BENCH_CTL, FM_RC_CTL, FM_RC_SYNC, FM_RC_TIMING, SV_CTL, SV_LOSS,
SV_LIMIT, LK_CTL, SP_CTL, SP_ENC0_CPR, SP_ENC_CTL, CE_STROKE, MI_CTL, MI_THRESH0. MRAM as shipped is log entry 3. -/
def Obligations.ResetState : Prop :=
  State.reset.gl.cur = .reset ∧ State.reset.tb = 0 ∧ State.reset.pending = [] ∧ State.reset.out = []
    ∧ State.reset.hq.inflight = [] ∧ State.reset.hq.sqs = [] ∧ State.reset.hq.cqs = []
    ∧ State.reset.cy.slots = [] ∧ State.reset.cy.keks = []
    ∧ ∀ p ∈ resetColumn, (pfRead State.reset p.1).1 = p.2

/-- In State.reset the table of memory units lists rising keys and no clean zero unit. -/
def Obligations.ResetKeepsCanonicalForm : Prop :=
  MemoryOk State.reset

/-- For every state s whose table of memory units has rising keys and lists no clean zero unit, whatever command is at
the front of the queue: if the step of s answers a next state u, the table of u has the same form. So equal memories
are equal tables, and a write of zeros with valid check bits leaves no entry. -/
def Obligations.StepKeepsCanonicalForm : Prop :=
  ∀ s u : State, MemoryOk s → step s = .next u → MemoryOk u

/-- For every state s and next state u of a step of s, whatever the command (resets, patch checks, activation and END
of the life cycle included): the rollback counter in the fuses is at least what it was. -/
def Obligations.RollbackFusesNeverFall : Prop :=
  ∀ s u : State, step s = .next u → s.se.rollback ≤ u.se.rollback

/-- For every command c and state s: if exec of c on s answers a next state u, then u differs from s, with TB at the
command's instant, only in the parts that footprint names for c (Sys2Proof/Safety.lean); every other part is the same,
memory units and rollback fuses as parts of their own, no command comes into flight unless the footprint names that,
and what has left the device is never taken back. The model's own choices that it touches are log entry 8. -/
def Obligations.CommandFrames : Prop :=
  ∀ (c : Instr) (s u : State), exec c s = .next u → Frame (footprint c) (advance (instant c) s) u

/-- For every command c but ROOT_PLL_LOCK, state s and next state u of exec of c on s: TB of u is at least TB of s;
with the root PLL locked it is the later of TB and the command's instant, and with the PLL not locked it is TB of s.
This covers every reset, mode change and firmware activation. The model's own choices that it touches are log entry 1.
-/
def Obligations.TimeNeverRunsBack : Prop :=
  ∀ (c : Instr) (s u : State), (∀ t env, c ≠ .rootPllLock t env) → exec c s = .next u →
    s.tb.toNat ≤ u.tb.toNat ∧ (s.gl.locked = true → u.tb.toNat = max s.tb.toNat (instant c).toNat)
      ∧ (s.gl.locked = false → u.tb = s.tb)

/-- For every state s whose queue is c followed by rest, and every next state u of a step of s: the queue of u is
rest. No command adds, removes or reorders waiting commands. -/
def Obligations.ExecLeavesTheQueue : Prop :=
  ∀ (c : Instr) (rest : List Instr) (s u : State), s.pending = c :: rest → step s = .next u → u.pending = rest

/-- For every state s in which no two commands in flight share function, submission queue and tag, whatever command is
at the front of the queue: the same holds of the next state of the step of s. A fetched entry whose tag is in flight
on its SQ joins nothing (step 2 of R83), and a command that an FLR leaves running takes an SQ number that no other
command has. -/
def Obligations.TagsStayDistinct : Prop :=
  ∀ s u : State, TagsDistinct s → step s = .next u → TagsDistinct u

/-- For every state and instant: with PERST_N high its fall makes a cold reset and leaves the pin low; with the root
PLL locked, its loss of lock makes a cold reset, with FAULT_N low and ROOT_LOCK 0; with PERST_N high and no trip yet,
a supply monitor trip makes a cold reset with FAULT_N low and ROOT_LOCK 0; and, with PERST_N high, temperatures of
which one is at or above 125 °C make a cold reset with FAULT_N low that lasts until PERST_N is cycled. ColdReset
(Sys2Proof/Safety.lean) says what is reset, what is wiped, what MRAM and fuses keep, and that nothing outstanding is
completed. The old or new life-cycle state after a change under way is the choice R42 leaves open. The model's own
choices that it touches are log entries 6 and 11. -/
def Obligations.ColdResetCommands : Prop :=
  (∀ (t : Time) (s : State), s.pins.perstN = true →
      ∃ u, exec (.perstNFall t) s = .next u ∧ ColdReset s u ∧ u.pins.perstN = false)
    ∧ (∀ (t : Time) (s : State), s.gl.locked = true →
      ∃ u, exec (.refClkLoss t) s = .next u ∧ ColdReset s u ∧ u.gl.locked = false ∧ faultLow u = true)
    ∧ (∀ (t : Time) (s : State), s.pins.perstN = true → s.pins.supply = false →
      ∃ u, exec (.supplyMonitorTrip t) s = .next u ∧ ColdReset s u ∧ u.gl.locked = false ∧ faultLow u = true)
    ∧ ∀ (t : Time) (temps : List (BitVec 16)) (s : State), s.pins.perstN = true → s.pins.thermal = false →
      (∃ x ∈ temps, (2000 : Int) ≤ x.toInt) →
      ∃ u, exec (.tempUpdate t temps) s = .next u ∧ ColdReset s u ∧ u.pins.thermal = true ∧ faultLow u = true

/-- With PERST_N low, its rise samples ADDR_SEL, ends a REF_CLK fault, and keeps the device in its mode with FAULT_N
low exactly where a die is at or above 110 °C or the supply monitor trip stands. A rise of HOLD_IN_N or PWR_WARN_N
sets the filtered level and leaves the mode, GL_HOLD's LATCHED bits and all that R32 did. A temperature update with
every die below 125 °C stores the eight temperatures, drives FAULT_N low from 115 °C on any die, releases it below 110
°C on every die, and between the two leaves it as it was. -/
def Obligations.PinAndTemperatureReports : Prop :=
  (∀ (t : Time) (a : BitVec 2) (temps : List (BitVec 16)) (s : State), s.pins.perstN = false →
      ∃ u, exec (.perstNRise t a temps) s = .next u ∧ u.pins.perstN = true ∧ u.pins.addrSel = a ∧ u.pins.temps = temps
        ∧ u.pins.pllLost = false ∧ (u.pins.thermal = true ↔ ∃ x ∈ temps, (1760 : Int) ≤ x.toInt) ∧ u.gl = s.gl)
    ∧ (∀ (t : Time) (s : State), ∃ u, exec (.holdInNRise t) s = .next u ∧ u.pins.holdInN = true ∧ u.gl = s.gl
        ∧ (liveBits u).getLsbD 1 = false)
    ∧ (∀ (t : Time) (s : State), ∃ u, exec (.pwrWarnNRise t) s = .next u ∧ u.pins.pwrWarnN = true ∧ u.gl = s.gl
        ∧ (liveBits u).getLsbD 2 = false)
    ∧ ∀ (t : Time) (temps : List (BitVec 16)) (s : State), (∀ x ∈ temps, x.toInt < (2000 : Int)) →
      ∃ u, exec (.tempUpdate t temps) s = .next u ∧ u.pins.temps = temps ∧ u.gl = s.gl
        ∧ ((∃ x ∈ temps, (1840 : Int) ≤ x.toInt) → u.pins.hot = true ∧ faultLow u = true)
        ∧ ((∀ x ∈ temps, x.toInt < (1760 : Int)) → u.pins.hot = false)
        ∧ ((∀ x ∈ temps, x.toInt < (1840 : Int)) → (∃ x ∈ temps, (1760 : Int) ≤ x.toInt) → u.pins.hot = s.pins.hot)

/-- With the filtered pin high: a fall of HOLD_IN_N sets LATCHED_HOLDIN and a fall of PWR_WARN_N LATCHED_PWRWARN;
outside RESET, FILL and HOLD the mode becomes HOLD, with PREV the mode left, while in RESET, FILL or HOLD the mode
stays. Outside RESET, PWR_WARN_N also stores a power-loss record in MRAM, with TB of both instants, the mode in which
the pin fell and the count raised by 1, and sends STOP_ARM with its DATA value 1 on every enabled link of the Sheet
Port. That a fall in RESET stores and sends nothing is the model's reading (log entry 10). -/
def Obligations.StopPinsEnterHold : Prop :=
  (∀ (t : Time) (s : State), s.pins.holdInN = true →
      ∃ u, exec (.holdInNFall t) s = .next u ∧ u.pins.holdInN = false ∧ u.gl.latched = s.gl.latched ||| 2
        ∧ (s.gl.cur ≠ .reset ∧ s.gl.cur ≠ .fill ∧ s.gl.cur ≠ .hold → u.gl.cur = .hold ∧ u.gl.prev = s.gl.cur)
        ∧ (s.gl.cur = .reset ∨ s.gl.cur = .fill ∨ s.gl.cur = .hold → u.gl.cur = s.gl.cur ∧ u.gl.prev = s.gl.prev))
    ∧ ∀ (t : Time) (s : State), s.pins.pwrWarnN = true →
      ∃ u, exec (.pwrWarnNFall t) s = .next u ∧ u.pins.pwrWarnN = false ∧ u.gl.latched = s.gl.latched ||| 4
        ∧ (s.gl.cur ≠ .reset ∧ s.gl.cur ≠ .fill ∧ s.gl.cur ≠ .hold → u.gl.cur = .hold ∧ u.gl.prev = s.gl.cur)
        ∧ (s.gl.cur = .reset ∨ s.gl.cur = .fill ∨ s.gl.cur = .hold → u.gl.cur = s.gl.cur ∧ u.gl.prev = s.gl.prev)
        ∧ (s.gl.cur ≠ .reset → u.gl.lossCount = s.gl.lossCount + 1
          ∧ (∃ r, u.gl.lossRec = some r ∧ r.mode.toNat = modeCode s.gl.cur ∧ r.tbWarn = u.tb ∧ r.tbStored = u.tb
            ∧ r.count = u.gl.lossCount ∧ r.roster = sha256 (rosterBytes u))
          ∧ ∀ n, n < 24 → linkEnabled s n = true → Sent s u (.packet n 4 258))

/-- While BAR0 responds (neither RESET nor FILL) and no reset waits, a write to GL_RESET with KEY 0x5A makes a warm
reset wait and leaves CAUSE 1, whatever CAUSE the write carried; with the tape at rest the mode stays, and with the
tape moving, outside HOLD, the device enters HOLD with LATCHED_REQ set. A write with another KEY requests nothing, and
stores its CAUSE when that is below 5. While a reset waits and no life-cycle change is in progress, a write changes
nothing. -/
def Obligations.WarmResetRequests : Prop :=
  (∀ (t : Time) (v : Word) (s : State), s.gl.cur ≠ .reset → s.gl.cur ≠ .fill → s.gl.resetWait = none → bits v 0 8 = 0x5A →
      ∃ u, exec (.warmResetRequest t v) s = .next u ∧ u.gl.resetWait = some { cause := 1, again := none }
        ∧ u.gl.resetCause = 1
        ∧ (s.gl.moving = false → u.gl.cur = s.gl.cur ∧ u.gl.latched = s.gl.latched)
        ∧ (s.gl.moving = true → u.gl.cur = .hold ∧ u.gl.latched = s.gl.latched ||| 64))
    ∧ (∀ (t : Time) (v : Word) (s : State), s.gl.cur ≠ .reset → s.gl.cur ≠ .fill → s.gl.resetWait = none →
      bits v 0 8 ≠ 0x5A →
      ∃ u, exec (.warmResetRequest t v) s = .next u ∧ u.gl.resetWait = none ∧ u.gl.cur = s.gl.cur
        ∧ (bits v 8 3 < 5 → u.gl.resetCause.toNat = bits v 8 3) ∧ (5 ≤ bits v 8 3 → u.gl.resetCause = s.gl.resetCause))
    ∧ ∀ (t : Time) (v : Word) (s : State) (w : ResetWait), s.gl.resetWait = some w → s.gl.lcPending = none →
      exec (.warmResetRequest t v) s = .next (advance t s)

/-- For every state in RESET with PERST_N high, the PLL not locked, and no REF_CLK, supply or thermal fault: the lock
of the root PLL sets TB to the given instant, ROOT_LOCK, and runs FILL: PHASE is 4, the outputs are on, the life-cycle
state is the one of MRAM and no change is pending, no reset waits, CURRENT is IDLE where no LATCHED bit of GL_HOLD is
set at the end of FILL and HOLD otherwise, the two stop pins being latched too where they are low, and where the
device reaches IDLE the DRBG is seeded exactly where the entropy input passes. The model's own choices that it touches
are log entries 3, 13, 18 and 23. -/
def Obligations.StartUp : Prop :=
  ∀ (t : Time) (env : BringUp) (s : State), s.pins.perstN = true → s.gl.locked = false → s.pins.pllLost = false →
    s.pins.supply = false → s.pins.thermal = false → s.gl.cur = .reset →
    ∃ u, exec (.rootPllLock t env) s = .next u ∧ u.tb = t ∧ u.gl.locked = true ∧ u.gl.phase = 4 ∧ u.pins.outputs = true
      ∧ u.gl.lc = u.gl.lcMram ∧ u.gl.lcMram = s.gl.lcMram ∧ u.gl.lcPending = none ∧ u.gl.resetWait = none
      ∧ u.gl.cur = (if u.gl.latched = 0 then .idle else .hold)
      ∧ (∀ b, s.gl.latched.getLsbD b = true → u.gl.latched.getLsbD b = true)
      ∧ (s.pins.holdInN = false → u.gl.latched.getLsbD 1 = true)
      ∧ (s.pins.pwrWarnN = false → u.gl.latched.getLsbD 2 = true)
      ∧ (u.gl.cur = .idle → u.cy.seeded = env.entropyOk)

/-- For every state in which a warm reset waits and the tape is at rest: the reset runs; for every command in flight
of a submission queue a completion entry with its tag and status ABORTED_RESET leaves the device; afterwards no
command is in flight, no queue and no firmware activation exists, no key slot and no key-encryption key holds
anything, PHASE is 4, CUR is IDLE where no LATCHED bit is set and HOLD otherwise, a life-cycle change that was pending
is done, and VF Enable and the Sheet Port's registers and links are kept. The model's own choices that it touches are
log entries 11 and 12. -/
def Obligations.WarmResetRuns : Prop :=
  ∀ (t : Time) (env : BringUp) (s : State) (w : ResetWait), s.gl.resetWait = some w → s.gl.moving = false →
    ∃ u, exec (.warmResetStart t env) s = .next u
      ∧ (∀ c ∈ s.hq.inflight, c.ref.sq < 8192 → ∃ cq slot bytes, Sent s u (.completion c.ref.fn cq slot bytes)
          ∧ fieldLe bytes 16 2 = c.ref.tag.toNat ∧ fieldLe bytes 20 2 = 0x0006)
      ∧ (∀ r, findCmd u r = none) ∧ u.hq.sqs = [] ∧ u.hq.cqs = [] ∧ u.hq.act = none
      ∧ u.cy.slots = [] ∧ u.cy.keks = [] ∧ u.gl.phase = 4
      ∧ u.gl.cur = (if u.gl.latched = 0 then .idle else .hold)
      ∧ u.gl.lcPending = none ∧ (∀ tgt, s.gl.lcPending = some tgt → u.gl.lc = tgt ∧ u.gl.lcMram = tgt)
      ∧ (s.gl.lcPending = none → u.gl.lcMram = s.gl.lcMram)
      ∧ u.hq.vfEnable = s.hq.vfEnable ∧ u.sp = s.sp

/-- With the gate delay running in IDLE, its expiry asks each of the four channel dies to shut down by the rule of R49
and stops the delay. A die in STOPPING whose shut-down ends is STOPPED, or, where a wake is latched, STARTING with its
unbenched lanes in training; in both cases no unit of the die is active or spare. A die in STARTING whose wake ends is
RUNNING, or STOPPING where a shut-down is latched. The other dies keep their state. -/
def Obligations.DieGating : Prop :=
  (∀ (t : Time) (s : State), s.gl.cur = .idle → s.crew.gateAt.isSome = true →
      ∃ u, exec (.gateDelayExpiry t) s = .next u ∧ u.crew.gateAt = none
        ∧ ∀ d, d < 4 → dieOf u d = unitDisable (dieOf s d))
    ∧ (∀ (t : Time) (die : BitVec 2) (s : State), (dieOf s die.toNat).st = .stopping →
      ∃ u, exec (.dieShutdownDone t die) s = .next u ∧ dieOf u die.toNat = unitDone (dieOf s die.toNat)
        ∧ (∀ d, d ≠ die.toNat → dieOf u d = dieOf s d)
        ∧ (∀ i, i ∈ dieUnits die.toNat → (crewOf u i).st ≠ .active ∧ (crewOf u i).st ≠ .spare)
        ∧ ((dieOf s die.toNat).latch = some true →
          ∀ l, l / 4 = die.toNat → (crewOf u (1188 + l)).st ≠ .benched → (laneOf u l).st = .training))
    ∧ ∀ (t : Time) (die : BitVec 2) (s : State), (dieOf s die.toNat).st = .starting →
      ∃ u, exec (.dieWakeDone t die) s = .next u ∧ dieOf u die.toNat = unitDone (dieOf s die.toNat)
        ∧ ∀ d, d ≠ die.toNat → dieOf u d = dieOf s d

/-- While queues of function f are reachable and the write is 4 B or 8 B wide: a tail below the depth of a RUNNING SQ
becomes its tail; a head below the depth of a RUNNING CQ that releases only committed entries becomes its head; every
other queue is unchanged. Any other doorbell value is ignored and counted in HQ_DB_ERR with the local identifier: a
queue that is not RUNNING, a value at or above the depth, a head that would release entries not committed (R68). A
halted SQ still takes its tail (R73). -/
def Obligations.Doorbells : Prop :=
  (∀ (t : Time) (f : Fn) (q width : Nat) (value : DWord) (s : State), bellLive s f = true → width = 4 ∨ width = 8 →
      (sqOf s f q).unit.st = .running → bits value 0 32 < (sqOf s f q).depth →
      ∃ u, exec (.sqTailDoorbell t f q width value) s = .next u
        ∧ sqOf u f q = { sqOf s f q with tail := bits value 0 32, bell := BitVec.ofNat 32 (bits value 0 32) }
        ∧ (∀ g k, ¬(g = f ∧ k = q) → sqOf u g k = sqOf s g k) ∧ u.hq.cqs = s.hq.cqs ∧ u.hq.fns = s.hq.fns)
    ∧ (∀ (t : Time) (f : Fn) (q width : Nat) (value : DWord) (s : State), bellLive s f = true → width = 4 ∨ width = 8 →
      (cqOf s f q).unit.st = .running → bits value 0 32 < (cqOf s f q).depth →
      (bits value 0 32 + (cqOf s f q).depth - (cqOf s f q).head) % (cqOf s f q).depth
        ≤ ((cqOf s f q).tail + (cqOf s f q).depth - (cqOf s f q).head) % (cqOf s f q).depth →
      ∃ u, exec (.cqHeadDoorbell t f q width value) s = .next u
        ∧ cqOf u f q = { cqOf s f q with head := bits value 0 32, bell := BitVec.ofNat 32 (bits value 0 32) }
        ∧ (∀ g k, ¬(g = f ∧ k = q) → cqOf u g k = cqOf s g k) ∧ u.hq.sqs = s.hq.sqs ∧ u.hq.fns = s.hq.fns)
    ∧ (∀ (t : Time) (f : Fn) (q width : Nat) (value : DWord) (s : State), bellLive s f = true → width = 4 ∨ width = 8 →
      (sqOf s f q).unit.st ≠ .running ∨ (sqOf s f q).depth ≤ bits value 0 32 →
      ∃ u, exec (.sqTailDoorbell t f q width value) s = .next u ∧ u.hq.sqs = s.hq.sqs ∧ u.hq.cqs = s.hq.cqs
        ∧ (hqFn u f).dbErrs = satInc (hqFn s f).dbErrs ∧ (hqFn u f).dbErrId = BitVec.ofNat 16 q)
    ∧ ∀ (t : Time) (f : Fn) (q width : Nat) (value : DWord) (s : State), bellLive s f = true → width = 4 ∨ width = 8 →
      (cqOf s f q).unit.st ≠ .running ∨ (cqOf s f q).depth ≤ bits value 0 32
        ∨ ((cqOf s f q).tail + (cqOf s f q).depth - (cqOf s f q).head) % (cqOf s f q).depth
          < (bits value 0 32 + (cqOf s f q).depth - (cqOf s f q).head) % (cqOf s f q).depth →
      ∃ u, exec (.cqHeadDoorbell t f q width value) s = .next u ∧ u.hq.sqs = s.hq.sqs ∧ u.hq.cqs = s.hq.cqs
        ∧ (hqFn u f).dbErrs = satInc (hqFn s f).dbErrs ∧ (hqFn u f).dbErrId = BitVec.ofNat 16 q

/-- With fetching possible, SQ q of function f next in turn (R66, R74, R75), no ABORT waiting for a submitted entry,
and no ORDERED wait (R112): COMMAND_FETCH moves that SQ's head on by one modulo its depth. An entry whose opcode the
SQ does not take ends at once with INVALID_OPCODE (step 1 of R83) and nothing joins the commands in flight. Any other
entry either ends so with a status other than 0 or joins the commands in flight, last in fetch order, with its tag and
bytes. An ORDERED entry that waits is not fetched. A command reaching 30 s in flight changes nothing but the time. The
model's own choices that it touches are log entry 19. -/
def Obligations.CommandFetch : Prop :=
  (∀ (t : Time) (entry : BitVec 512) (s : State) (f : Fn) (q : Nat) (turn : Turn), fetching s = true →
      fetchStopped s = false → pickSq s = some (f, q, turn) → (∀ a ∈ s.hq.inflight, a.stage ≠ .abortWait) → q < 8192 →
      orderedWaits s { fn := f, sq := q, tag := eTag entry } entry = false →
      ∃ u, exec (.commandFetch t entry) s = .next u
        ∧ (sqOf u f q).head = ((sqOf s f q).head + 1) % (sqOf s f q).depth ∧ u.hq.fetched = s.hq.fetched + 1
        ∧ (opcodeCheck q entry = some 1 → u.hq.inflight = s.hq.inflight ∧ ∃ cq slot bytes, Sent s u (.completion f cq slot bytes)
              ∧ fieldLe bytes 16 2 = (eTag entry).toNat ∧ fieldLe bytes 20 2 = 1)
        ∧ ((u.hq.inflight = s.hq.inflight ∧ ∃ cq slot bytes, Sent s u (.completion f cq slot bytes)
              ∧ fieldLe bytes 16 2 = (eTag entry).toNat ∧ fieldLe bytes 20 2 ≠ 0)
          ∨ ∃ c, u.hq.inflight = s.hq.inflight ++ [c] ∧ c.ref = { fn := f, sq := q, tag := eTag entry } ∧ c.entry = entry
              ∧ c.order = s.hq.fetched + 1))
    ∧ (∀ (t : Time) (entry : BitVec 512) (s : State) (f : Fn) (q : Nat) (turn : Turn), fetching s = true →
      fetchStopped s = false → pickSq s = some (f, q, turn) →
      orderedWaits s { fn := f, sq := q, tag := eTag entry } entry = true →
      ∃ u, exec (.commandFetch t entry) s = .next u ∧ u.hq.sqs = s.hq.sqs ∧ u.hq.inflight = s.hq.inflight)
    ∧ ∀ (t : Time) (ref : CmdRef) (s : State), exec (.commandAged t ref) s = .next (advance t s)

/-- While the function's registers respond: writing 1 to EN of a STOPPED function whose register values pass R71 makes
it RUNNING with ERR 0 and a new admin queue with both ends at 0; where they do not pass, EN reads 0, ERR is set and it
stays STOPPED; a RUNNING function is left as it is. Writing 0 to a RUNNING function clears EN and ends every I/O
queue; with no command of it in flight it is STOPPED without an admin queue. A write to HQ_ALLOT that breaks no
constraint of R56 takes effect whole and makes the key slots that change owner never loaded; one that breaks a
constraint only names it in HQ_ALLOT_ERR. That starting takes no time is the model's choice (log entry 4). -/
def Obligations.FunctionStartAndStop : Prop :=
  (∀ (t : Time) (f : Fn) (s : State), fnLive s f = true → (hqFn s f).unit.st = .stopped → aqOk s f = true →
      bindFits s f (bits (hqFn s f).aqVec 0 11) = true →
      ∃ u, exec (.hqEnable t f) s = .next u ∧ (hqFn u f).en = true ∧ (hqFn u f).err = false ∧ (hqFn u f).unit.st = .running
        ∧ sqOf u f 0 = sqNew (hqFn s f).asqBase (bits (hqFn s f).aqSize 0 12 + 1) 0 1
        ∧ cqOf u f 0 = cqNew (hqFn s f).acqBase (bits (hqFn s f).aqSize 16 12 + 1)
        ∧ ∀ g k, ¬(g = f ∧ k = 0) → sqOf u g k = sqOf s g k ∧ cqOf u g k = cqOf s g k)
    ∧ (∀ (t : Time) (f : Fn) (s : State), fnLive s f = true → (hqFn s f).unit.st = .stopped →
      aqOk s f = false ∨ bindFits s f (bits (hqFn s f).aqVec 0 11) = false →
      ∃ u, exec (.hqEnable t f) s = .next u ∧ (hqFn u f).en = false ∧ (hqFn u f).err = true ∧ (hqFn u f).unit.st = .stopped
        ∧ u.hq.sqs = s.hq.sqs ∧ u.hq.cqs = s.hq.cqs)
    ∧ (∀ (t : Time) (f : Fn) (s : State), fnLive s f = true → (hqFn s f).unit.st = .running →
      exec (.hqEnable t f) s = .next (advance t s))
    ∧ (∀ (t : Time) (f : Fn) (s : State), fnLive s f = true → (hqFn s f).unit.st = .running → s.hq.inflight = [] →
      ∃ u, exec (.hqDisable t f) s = .next u ∧ (hqFn u f).en = false ∧ (hqFn u f).unit.st = .stopped
        ∧ ∀ q, q < 8192 → (sqOf u f q).unit.st = .stopped ∧ (cqOf u f q).unit.st = .stopped)
    ∧ (∀ (t : Time) (g : Fn) (word : BitVec 2) (value : Word) (s : State), regsLive s = true →
      allotBroken s g (allotWord (allotOf s g) word value) = 0 →
      ∃ u, exec (.hqAllotWrite t g word value) s = .next u ∧ allotOf u g = allotWord (allotOf s g) word value
        ∧ (∀ f, f ≠ g → allotOf u f = allotOf s f) ∧ u.hq.allotErr = s.hq.allotErr
        ∧ ∀ k, k ∈ keysLeave (allotOf s g) (allotOf u g) ∨ k ∈ keysLeave (allotOf u g) (allotOf s g) → (keySlot u k).st = .never)
    ∧ ∀ (t : Time) (g : Fn) (word : BitVec 2) (value : Word) (s : State), regsLive s = true →
      allotBroken s g (allotWord (allotOf s g) word value) ≠ 0 →
      ∃ u, exec (.hqAllotWrite t g word value) s = .next u ∧ (∀ f, allotOf u f = allotOf s f)
        ∧ u.hq.allotErr = 0x80000000#32 ||| BitVec.ofNat 32 (g.toNat + allotBroken s g (allotWord (allotOf s g) word value) * 2 ^ 8)
        ∧ u.cy = s.cy

/-- For a command that is ready on the admin SQ of a function that is not shutting down: CREATE_CQ with a QID from 1
to below QCOUNT that does not exist, a vector below VECTORS that fits the groups, and a ring that keeps R57 and R72
ends with SUCCESS, and the CQ is RUNNING with its base and depth, both ends at 0; CREATE_SQ likewise, bound to a
RUNNING CQ; DELETE_CQ of a RUNNING CQ to which no SQ is bound ends with SUCCESS and the CQ is gone, and with
QUEUE_IN_USE where one is bound; DELETE_SQ of a RUNNING SQ ends with SUCCESS, RESULT0 the head at which fetching
stopped, and none of its commands is in flight any more. A QID of 0 or one that does not fit ends each with
INVALID_FIELD. The model's own choices that it touches are log entry 4. -/
def Obligations.QueueAdminCommands : Prop :=
  (∀ (t : Time) (ref : CmdRef) (s : State) (c : InFlight), Ready s 0x10 ref c → ref.sq = 0 →
      (hqFn s ref.fn).unit.st ≠ .stopping → eField c.entry 24 2 ≠ 0 → eField c.entry 24 2 < (allotOf s ref.fn).qcount →
      (cqOf s ref.fn (eField c.entry 24 2)).unit.st = .stopped → eField c.entry 28 2 % 2048 < (allotOf s ref.fn).vectors →
      bindFits s ref.fn (eField c.entry 28 2 % 2048) = true → ringOk c 32 = true →
      ∃ u, exec (.createCq t ref) s = .next u ∧ Ends s u ref 0 0 0
        ∧ (cqOf u ref.fn (eField c.entry 24 2)).unit.st = .running ∧ (cqOf u ref.fn (eField c.entry 24 2)).base = eAddr c.entry
        ∧ (cqOf u ref.fn (eField c.entry 24 2)).depth = eField c.entry 26 2 + 1
        ∧ (cqOf u ref.fn (eField c.entry 24 2)).head = 0)
    ∧ (∀ (t : Time) (ref : CmdRef) (s : State) (c : InFlight), Ready s 0x12 ref c → ref.sq = 0 →
      (hqFn s ref.fn).unit.st ≠ .stopping → eField c.entry 24 2 ≠ 0 → eField c.entry 24 2 < (allotOf s ref.fn).qcount →
      (sqOf s ref.fn (eField c.entry 24 2)).unit.st = .stopped → (cqOf s ref.fn (eField c.entry 28 2)).unit.st = .running →
      ringOk c 64 = true →
      ∃ u, exec (.createSq t ref) s = .next u ∧ Ends s u ref 0 0 0
        ∧ sqOf u ref.fn (eField c.entry 24 2)
          = sqNew (eAddr c.entry) (eField c.entry 26 2 + 1) (eField c.entry 28 2) (eField c.entry 30 1 % 16 + 1))
    ∧ (∀ (t : Time) (ref : CmdRef) (s : State) (c : InFlight), Ready s 0x11 ref c → ref.sq = 0 →
      (hqFn s ref.fn).unit.st ≠ .stopping → eField c.entry 24 2 ≠ 0 → (cqOf s ref.fn (eField c.entry 24 2)).unit.st = .running →
      ((∀ k, k ∈ sqIds s ref.fn → (sqOf s ref.fn k).cqid ≠ eField c.entry 24 2) →
        ∃ u, exec (.deleteCq t ref) s = .next u ∧ Ends s u ref 0 0 0
          ∧ (cqOf u ref.fn (eField c.entry 24 2)).unit.st = .stopped)
      ∧ ((∃ k, k ∈ sqIds s ref.fn ∧ (sqOf s ref.fn k).cqid = eField c.entry 24 2) →
        ∃ u, exec (.deleteCq t ref) s = .next u ∧ Ends s u ref 0x0103 0 0
          ∧ (cqOf u ref.fn (eField c.entry 24 2)).unit.st = .running))
    ∧ (∀ (t : Time) (ref : CmdRef) (s : State) (c : InFlight), Ready s 0x13 ref c → ref.sq = 0 →
      (hqFn s ref.fn).unit.st ≠ .stopping → eField c.entry 24 2 ≠ 0 → (sqOf s ref.fn (eField c.entry 24 2)).unit.st = .running →
      (sqOf s ref.fn (eField c.entry 24 2)).head < 65536 →
      ∃ u, exec (.deleteSq t ref) s = .next u ∧ Ends s u ref 0 (sqOf s ref.fn (eField c.entry 24 2)).head 0
        ∧ (sqOf u ref.fn (eField c.entry 24 2)).unit.st = .stopped
        ∧ ∀ r : CmdRef, r.fn = ref.fn → r.sq = eField c.entry 24 2 → findCmd u r = none)
    ∧ ∀ (t : Time) (ref : CmdRef) (s : State) (c : InFlight), eField c.entry 24 2 = 0 →
      (Ready s 0x10 ref c → ∃ u, exec (.createCq t ref) s = .next u ∧ Ends s u ref 2 0 0)
      ∧ (Ready s 0x11 ref c → ∃ u, exec (.deleteCq t ref) s = .next u ∧ Ends s u ref 2 0 0)
      ∧ (Ready s 0x12 ref c → ∃ u, exec (.createSq t ref) s = .next u ∧ Ends s u ref 2 0 0)
      ∧ (Ready s 0x13 ref c → ∃ u, exec (.deleteSq t ref) s = .next u ∧ Ends s u ref 2 0 0)

/-- An FLR of a VF that is reachable: no command of its submission queues is in flight any more, each of its queues is
gone, its HQ registers are at their Reset column, its key-encryption key is gone, its allotment and every other
function's queue registers are kept. An FLR of the PF does the same for the PF, clears VF Enable, returns the DOE
connection to its initial state, and, with VF Enable set before, does the same for every VF. Setting VF Enable sets
it; clearing it, while fetching is possible, resets every VF in the same way and leaves the PF's HQ registers as they
were unless it was shutting down. The model's own choices that it touches are log entries 16 and 17. -/
def Obligations.FunctionReset : Prop :=
  (∀ (t : Time) (f : Fn) (s : State), bellLive s f = true → f ≠ 0 →
      ∃ u, exec (.flr t f) s = .next u ∧ (∀ r : CmdRef, r.fn = f → r.sq < 8192 → findCmd u r = none)
        ∧ (∀ q, q < 8192 → sqOf u f q = sqNone ∧ cqOf u f q = cqNone) ∧ hqFn u f = hqFnDefault ∧ kekOf u f = []
        ∧ (∀ g, allotOf u g = allotOf s g) ∧ u.hq.vfEnable = s.hq.vfEnable
        ∧ ∀ g, g ≠ f → (hqFn s g).unit.st ≠ .stopping → hqFn u g = hqFn s g)
    ∧ (∀ (t : Time) (s : State), fetching s = true →
      ∃ u, exec (.flr t 0) s = .next u ∧ u.hq.vfEnable = false ∧ u.se.doe = spdmInitial ∧ u.se.doeResp = none
        ∧ ∀ f, f = 0 ∨ s.hq.vfEnable = true →
          (∀ r : CmdRef, r.fn = f → r.sq < 8192 → findCmd u r = none)
          ∧ (∀ q, q < 8192 → sqOf u f q = sqNone ∧ cqOf u f q = cqNone) ∧ hqFn u f = hqFnDefault ∧ kekOf u f = [])
    ∧ (∀ (t : Time) (s : State), s.pins.perstN = true → s.hq.vfEnable = false →
      ∃ u, exec (.vfEnableWrite t true) s = .next u ∧ u.hq.vfEnable = true)
    ∧ ∀ (t : Time) (s : State), s.pins.perstN = true → s.hq.vfEnable = true →
      ∃ u, exec (.vfEnableWrite t false) s = .next u ∧ u.hq.vfEnable = false
        ∧ ((hqFn s 0).unit.st ≠ .stopping → hqFn u 0 = hqFn s 0)
        ∧ (fetching s = true → ∀ f, f ≠ 0 →
          (∀ r : CmdRef, r.fn = f → r.sq < 8192 → findCmd u r = none)
          ∧ (∀ q, q < 8192 → sqOf u f q = sqNone ∧ cqOf u f q = cqNone) ∧ hqFn u f = hqFnDefault ∧ kekOf u f = [])

/-- For an ABORT that is ready, of a function that is not shutting down, with the tags in flight distinct
(TagsDistinct, kept by every step): a target of the named SQ with the named tag, in flight and before its point of no
return (R119), ends with ABORTED and the ABORT ends with SUCCESS; a target past that point stays, and the ABORT waits
for its end; with no such target in flight, an entry with the tag that is submitted on a running SQ and not yet
fetched makes the ABORT wait for it; otherwise the ABORT ends with ABORT_NOT_FOUND. RESULT0 and RESULT1 of the target
are those of R109 for an APPEND, R88 for a READ and R89 for a VERIFY. -/
def Obligations.AbortOutcomes : Prop :=
  (∀ (t : Time) (ref : CmdRef) (ahead : List (BitVec 16)) (s : State) (c d : InFlight), Ready s 0x14 ref c →
      (hqFn s ref.fn).unit.st ≠ .stopping → eField c.entry 24 2 < 8192 →
      d.ref = { fn := ref.fn, sq := eField c.entry 24 2, tag := BitVec.ofNat 16 (eField c.entry 26 2) } → d.ref ≠ ref →
      findCmd s d.ref = some d → TagsDistinct s →
      (pastPonr d = false → failR0 d < 2 ^ 64 → failR1 d < 2 ^ 32 →
        ∃ u, exec (.abort t ref ahead) s = .next u ∧ Ends s u d.ref 0x0003 (failR0 d) (failR1 d) ∧ Ends s u ref 0 0 0)
      ∧ (pastPonr d = true →
        ∃ u, exec (.abort t ref ahead) s = .next u ∧ findCmd u d.ref = some d
          ∧ findCmd u ref = some { c with stage := .abortOwn }))
    ∧ ∀ (t : Time) (ref : CmdRef) (ahead : List (BitVec 16)) (s : State) (c : InFlight) (x : Sq), Ready s 0x14 ref c →
      x = sqOf s ref.fn (eField c.entry 24 2) →
      (∀ d ∈ s.hq.inflight, d.ref ≠ ref →
        d.ref ≠ { fn := ref.fn, sq := eField c.entry 24 2, tag := BitVec.ofNat 16 (eField c.entry 26 2) }) →
      (∀ k, x.unit.st = .running → x.halted = false → x.depth ≠ 0 →
        (ahead.take ((x.tail + x.depth - x.head) % x.depth)).findIdx? (· == BitVec.ofNat 16 (eField c.entry 26 2)) = some k →
        ∃ u, exec (.abort t ref ahead) s = .next u
          ∧ findCmd u ref = some { c with stage := .abortWait, first := (x.head + k) % x.depth })
      ∧ (x.unit.st = .stopped ∨ x.halted = true ∨ BitVec.ofNat 16 (eField c.entry 26 2) ∉ ahead →
        ∃ u, exec (.abort t ref ahead) s = .next u ∧ Ends s u ref 0x0101 0 0)

/-- For an SQ that exists, of a function that is not shutting down, DMA_CHANNEL_HALT and COMPLETION_TIMEOUT have the
same effect: the SQ stays with SQ_HALTED set, no command of it that had data left to move is in flight any more, and
where exactly one such command was in flight and no ABORT waits for anything, that command ends with DMA_HALTED. A
halt of an SQ that does not exist changes nothing but the time. The model's own choices that it touches are log entry
58. -/
def Obligations.ChannelHalts : Prop :=
  (∀ (t : Time) (f : Fn) (q : Nat) (s : State), exec (.completionTimeout t f q) s = exec (.dmaChannelHalt t f q) s)
    ∧ (∀ (t : Time) (f : Fn) (q : Nat) (s : State), q < 8192 → (sqOf s f q).unit.st ≠ .stopped →
      (hqFn s f).unit.st ≠ .stopping →
      ∃ u, exec (.dmaChannelHalt t f q) s = .next u ∧ (sqOf u f q).halted = true ∧ (sqOf u f q).tail = (sqOf s f q).tail
        ∧ (∀ c ∈ s.hq.inflight, c.ref.fn = f → c.ref.sq = q → dataLeft c = true → findCmd u c.ref = none)
        ∧ (∀ c, s.hq.inflight = [c] → c.ref.fn = f → c.ref.sq = q → dataLeft c = true → c.stage ≠ .abortWait →
          c.stage ≠ .abortOwn → failR0 c < 2 ^ 64 → failR1 c < 2 ^ 32 → Ends s u c.ref 0x0302 (failR0 c) (failR1 c)))
    ∧ ∀ (t : Time) (f : Fn) (q : Nat) (s : State), (sqOf s f q).unit.st = .stopped →
      exec (.dmaChannelHalt t f q) s = .next (advance t s)

/-- A LOAD that has been chosen from the tape queue, with no volume loaded and a cartridge present, takes the newest
housekeeping generation that decoded: it ends with SUCCESS, RESULT0 the volume's serial and RESULT1 the number of
partitions, and the volume is loaded with that serial, that SESSION_HWM and a next session value above it. A blank
cartridge ends it with SUCCESS and no partitions (its serial is a free value). A volume already loaded is reported at
once. With no cartridge it ends with 0x0105, and with housekeeping written but not readable with 0x0204. The model's
own choices that it touches are log entries 7 and 51. -/
def Obligations.LoadOutcomes : Prop :=
  ∀ (t : Time) (ref : CmdRef) (s : State) (scan : LoadScan) (c : InFlight), chosenCmd 0x20 ref s = some c → ref.sq < 8192 →
    (s.vol.loaded = true → s.vol.count < 2 ^ 32 →
      ∃ u, exec (.load t ref scan) s = .next u ∧ Ends s u ref 0 s.vol.serial.toNat s.vol.count ∧ u.vol.serial = s.vol.serial)
    ∧ (s.vol.loaded = false → scan.present = false →
      ∃ u, exec (.load t ref scan) s = .next u ∧ Ends s u ref 0x0105 0 0 ∧ u.vol.loaded = false)
    ∧ (s.vol.loaded = false → scan.present = true →
      (∀ g psa payload, newestGen scan.gens = some (g, psa, payload) →
        ∃ u, exec (.load t ref scan) s = .next u
          ∧ Ends s u ref 0 (BitVec.ofNat 64 (fieldLe payload 64 8)).toNat (min (fieldLe payload 76 1) 64)
          ∧ u.vol.loaded = true ∧ u.vol.serial = BitVec.ofNat 64 (fieldLe payload 64 8) ∧ u.vol.hwm = fieldLe payload 72 4
          ∧ u.vol.nextSess = fieldLe payload 72 4 + 1 ∧ u.vol.gen = g ∧ u.gl.cart = true ∧ u.sv.reelK = scan.reelK)
      ∧ (newestGen scan.gens = none → scan.blank = true →
        ∃ u serial, exec (.load t ref scan) s = .next u ∧ Ends s u ref 0 serial 0 ∧ u.vol.loaded = true ∧ u.vol.count = 0
          ∧ u.vol.gen = 0 ∧ u.vol.nextSess = 1 ∧ u.gl.cart = true)
      ∧ (newestGen scan.gens = none → scan.blank = false →
        ∃ u, exec (.load t ref scan) s = .next u ∧ Ends s u ref 0x0204 0 0 ∧ u.vol.loaded = false))

/-- UNLOAD, chosen from the tape queue: with no cartridge it ends with 0x0105; with a cartridge but no volume it ends
with SUCCESS and the cartridge is out; with a volume it first runs a flush. Once nothing that its flush covers is off
tape, no write session runs and no data is due, it ends with SUCCESS where no lost range is to be reported, and no
volume is loaded and the cartridge is out. PARTITION, chosen, ends with INVALID_FIELD where its sizes do not fit the
volume, with 0x0106 where a partition holds blocks and FORCE is 0, and with WRITE_FAILED (RESULT0 all ones) and
nothing changed in the table where the housekeeping write fails; otherwise, where no lost range is to be reported, it
ends with SUCCESS, the volume has the new partitions, each empty with the next session value as BASE_SESSION, and a
new housekeeping generation has left the device. The model's own choices that it touches are log entries 38 and 39. -/
def Obligations.UnloadAndPartition : Prop :=
  (∀ (t : Time) (ref : CmdRef) (s : State) (hk : HkWrite) (c : InFlight), chosenCmd 0x21 ref s = some c → ref.sq < 8192 →
      (∃ u, exec (.unload t ref false hk) s = .next u ∧ Ends s u ref 0x0105 0 0 ∧ u.gl.cart = s.gl.cart)
      ∧ (s.vol.loaded = false → ∃ u, exec (.unload t ref true hk) s = .next u ∧ Ends s u ref 0 0 0 ∧ u.gl.cart = false)
      ∧ (s.vol.loaded = true → ∃ u, exec (.unload t ref true hk) s = .next u
        ∧ findCmd u ref = some { c with stage := .running }
        ∧ u.hq.flushes = s.hq.flushes ++ [{ ref := ref, point := s.vol.accepted, losses := [] }]))
    ∧ (∀ (t : Time) (ref : CmdRef) (s : State) (present : Bool) (hk : HkWrite) (c : InFlight) (w : FlushRun), findCmd s ref = some c →
      eOpcode c.entry = 0x21 → c.stage = .running → ref.sq < 8192 →
      (s.hq.flushes.find? fun x => x.ref == ref) = some w → offTape s w.point = false → s.wr.part = none → writeDue s = false →
      w.losses = [] → (∀ l, l ∈ s.hq.lost → l.fn ≠ ref.fn) →
      ∃ u, exec (.unload t ref present hk) s = .next u ∧ Ends s u ref 0 0 0 ∧ u.vol.loaded = false ∧ u.gl.cart = false)
    ∧ ∀ (t : Time) (ref : CmdRef) (s : State) (segs : List SgSeg) (sizes : List Word) (c : InFlight), chosenCmd 0x22 ref s = some c →
      ref.sq < 8192 → ((dataIs c segs (4 * eField c.entry 24 1)).isSome = true ∧ sizes.length = eField c.entry 24 1) →
      (layout 1024 sizes = none →
        ∀ hk, ∃ u, exec (.partition t ref segs sizes hk) s = .next u ∧ Ends s u ref 2 0 0 ∧ u.vol.count = s.vol.count)
      ∧ (∀ ranges, layout 1024 sizes = some ranges →
        ((eOpt c.entry).testBit 0 = false → (∃ x, x ∈ s.vol.parts ∧ 0 < x.2.next) →
          ∀ hk, ∃ u, exec (.partition t ref segs sizes hk) s = .next u ∧ Ends s u ref 0x0106 0 0 ∧ u.vol.count = s.vol.count)
        ∧ ((eOpt c.entry).testBit 0 = true → readersBefore s c.order = false →
          (∃ u, exec (.partition t ref segs sizes ⟨false⟩) s = .next u ∧ Ends s u ref 0x0205 ones64 0 ∧ u.vol.count = s.vol.count
            ∧ u.vol.gen = s.vol.gen)
          ∧ ((∀ w, w ∈ s.hq.flushes → w.ref = ref → w.losses = []) → (∀ l, l ∈ s.hq.lost → l.fn ≠ ref.fn) →
            ∃ u g psa data, exec (.partition t ref segs sizes ⟨true⟩) s = .next u ∧ Ends s u ref 0 0 0 ∧ u.vol.count = ranges.length
              ∧ u.vol.gen = (s.vol.gen + 1) % 2 ^ 24 ∧ Sent s u (.housekeeping g psa data))))

/-- A truncating ERASE: a BLOCK above the partition's next block ends with 0x0202; otherwise the partition's session
ends and a flush runs; when the flush's data is on tape and the data sets needed are known, the partition's next block
is BLOCK and what the truncation writes is laid out; and when that is on tape the command ends with RESULT0 BLOCK,
with SUCCESS where no lost range is to be reported. A long or sanitising ERASE that is chosen, with no earlier reader
in flight, runs in ERASE; once its passes are finished it ends with SUCCESS, or a sanitising one whose readback found
a region not overwritten with WRITE_FAILED, and the volume has no partitions, its generations start again at 1 and its
serial is kept. The model's own choices that it touches are log entries 39 and 40. -/
def Obligations.EraseCommands : Prop :=
  (∀ (t : Time) (ref : CmdRef) (s : State) (c : InFlight), findCmd s ref = some c → eOpcode c.entry = 0x23 → eOpt c.entry % 4 = 0 →
      ref.sq < 8192 →
      (c.stage = .chosen → (partOf s (ePart c.entry)).next < eBlock c.entry →
        ∃ u, exec (.eraseTruncate t ref) s = .next u ∧ Ends s u ref 0x0202 0 0)
      ∧ (c.stage = .chosen → eBlock c.entry ≤ (partOf s (ePart c.entry)).next → c.count = 0 →
        ∃ u, exec (.eraseTruncate t ref) s = .next u ∧ findCmd u ref = some { c with count := 1 }
          ∧ u.hq.flushes = s.hq.flushes ++ [{ ref := ref, point := s.vol.accepted, losses := [] }]
          ∧ (partOf u (ePart c.entry)).session = none)
      ∧ (c.stage = .chosen → eBlock c.entry < (partOf s (ePart c.entry)).next → c.count ≠ 0 →
        ∀ w sets v, (s.hq.flushes.find? fun x => x.ref == ref) = some w → offTape s w.point = false → s.wr.part = none →
        truncPlan s (ePart c.entry) (eBlock c.entry) = .inr (sets, v) →
        ∃ u, exec (.eraseTruncate t ref) s = .next u ∧ findCmd u ref = some { c with stage := .running } ∧ u.wr.images = sets
          ∧ (partOf u (ePart c.entry)).next = eBlock c.entry)
      ∧ (c.stage = .running → s.wr.part = none → s.wr.images = [] → s.wr.again = [] →
        (∀ w, w ∈ s.hq.flushes → w.ref = ref → w.losses = []) → (∀ l, l ∈ s.hq.lost → l.fn ≠ ref.fn) →
        ∃ u, exec (.eraseTruncate t ref) s = .next u ∧ Ends s u ref 0 (eBlock c.entry) 0))
    ∧ ∀ (t : Time) (ref : CmdRef) (s : State) (c : InFlight), findCmd s ref = some c → eOpcode c.entry = 0x23 → ref.sq < 8192 →
      (c.stage = .chosen → readersBefore s c.order = false →
        (eOpt c.entry % 4 = 1 → ∃ u, exec (.eraseLong t ref false) s = .next u ∧ u.gl.cur = .erase ∧ Sent s u (.erased false))
        ∧ (eOpt c.entry % 4 = 2 → ∃ u, exec (.eraseSanitise t ref false false) s = .next u ∧ u.gl.cur = .erase
          ∧ Sent s u (.erased true)))
      ∧ (c.stage = .running →
        (eOpt c.entry % 4 = 1 → ∃ u, exec (.eraseLong t ref true) s = .next u ∧ Ends s u ref 0 0 0 ∧ u.vol.count = 0 ∧ u.vol.gen = 1
          ∧ u.vol.serial = s.vol.serial)
        ∧ (eOpt c.entry % 4 = 2 → ∀ bad, ∃ u, exec (.eraseSanitise t ref true bad) s = .next u
          ∧ Ends s u ref (if bad then 0x0205 else 0) 0 0 ∧ u.vol.count = 0 ∧ u.vol.gen = 1 ∧ u.vol.serial = s.vol.serial))

/-- A ready APPEND whose pointers do not resolve, or whose record lengths break R85, ends with INVALID_FIELD, RESULT0
all ones and RESULT1 0. One whose lengths obey R85, with no other APPEND waiting, takes the staging space it reserves
at once where its function's quota and the free space admit it, and otherwise waits with no staging of its own. Where
one APPEND waits and is admitted, a grant pass gives it its staging. The model's own choices that it touches are log
entry 7. -/
def Obligations.AppendTakesStaging : Prop :=
  (∀ (t : Time) (ref : CmdRef) (rlist : List Nat) (segs : List SgSeg) (data : List Byte) (s : State) (c : InFlight), Ready s 1 ref c →
      (dataPieces c.entry segs = none → ∃ u, exec (.append t ref rlist segs data) s = .next u ∧ Ends s u ref 2 ones64 0)
      ∧ ∀ p, dataPieces c.entry segs = some p →
        let lens := recordLens c rlist (piecesLen p)
        let c' := { c with bytes := reservation lens, recs := cutBy lens (padTo (piecesLen p) data), segs := segs }
        (lensOk c lens (piecesLen p) = false →
          ∃ u, exec (.append t ref rlist segs data) s = .next u ∧ Ends s u ref 2 ones64 0)
        ∧ (lensOk c lens (piecesLen p) = true → TagsDistinct s → (∀ d, d ∈ s.hq.inflight → d.stage ≠ .waiting) →
          (quotaAdmits s ref.fn (reservation lens) = true → stagingUsed s + reservation lens ≤ stagingLimit s →
            ∃ u g, exec (.append t ref rlist segs data) s = .next u ∧ findCmd u ref = some { c' with stage := .staged }
              ∧ u.sm.grants = s.sm.grants ++ [g] ∧ g.ref = ref ∧ g.bytes = reservation lens ∧ g.accepted = false)
          ∧ (quotaAdmits s ref.fn (reservation lens) = false ∨ stagingLimit s < stagingUsed s + reservation lens →
            ∃ u, exec (.append t ref rlist segs data) s = .next u ∧ findCmd u ref = some { c' with stage := .waiting }
              ∧ u.sm.grants = s.sm.grants)))
    ∧ ∀ (t : Time) (s : State) (c : InFlight), atStage s .waiting = [c] → quotaAdmits s c.ref.fn c.bytes = true →
      stagingUsed s + c.bytes ≤ stagingLimit s →
      ∃ u g, exec (.stagingGrant t) s = .next u ∧ findCmd u c.ref = some { c with stage := .staged }
        ∧ u.sm.grants = s.sm.grants ++ [g] ∧ g.ref = c.ref ∧ g.bytes = c.bytes

/-- The acceptance point takes the earliest-fetched APPEND whose frames are done. Where its partition can take it, its
records get the partition's next block numbers in order; without encryption the APPEND completes then with SUCCESS,
RESULT0 its first block and RESULT1 the bytes its records occupy in the stream. Where the partition cannot take it, it
ends with the status that says why, RESULT0 all ones and RESULT1 0. A WRITE_MARK takes one block number in the same
way and completes with it in RESULT0. Each acceptance is one place further in the acceptance order. -/
def Obligations.AcceptanceAndMarks : Prop :=
  (∀ (t : Time) (s : State) (c : InFlight), fetching s = true → acceptanceHeld s = false →
      (atStage s .staged).find? (framesDone s) = some c → findCmd s c.ref = some c → c.ref.sq < 8192 → eOpcode c.entry = 1 →
      (streamCheck s (ePart c.entry) = none → appendFits c s = true →
        ∃ u, exec (.acceptancePoint t) s = .next u
          ∧ (partOf u (ePart c.entry)).next = (partOf s (ePart c.entry)).next + c.recs.length
          ∧ (∀ q, q ≠ ePart c.entry → (partOf u q).next = (partOf s q).next)
          ∧ (partOf u (ePart c.entry)).session = some ((partOf s (ePart c.entry)).session.getD s.vol.nextSess)
          ∧ u.vol.accepted = s.vol.accepted + 1
          ∧ let total := (c.recs.zipIdx.map fun x => 32 + (framesOf s c.ref x.2).flatten.length).sum
            ((eOpt c.entry).testBit 1 = false → total < 2 ^ 32 → Ends s u c.ref 0 (partOf s (ePart c.entry)).next total))
      ∧ (streamCheck s (ePart c.entry) = none → appendFits c s = false →
        ∃ u, exec (.acceptancePoint t) s = .next u ∧ Ends s u c.ref 0x0207 ones64 0)
      ∧ ∀ st, streamCheck s (ePart c.entry) = some st →
        ∃ u, exec (.acceptancePoint t) s = .next u ∧ Ends s u c.ref st ones64 0)
    ∧ ∀ (t : Time) (ref : CmdRef) (s : State) (c : InFlight), Ready s 5 ref c → acceptanceHeld s = false →
      (∀ st, streamCheck s (ePart c.entry) = some st → ∃ u, exec (.writeMark t ref) s = .next u ∧ Ends s u ref st 0 0)
      ∧ (streamCheck s (ePart c.entry) = none →
        let v := partOf s (ePart c.entry)
        let e := markElement ref.fn (BitVec.ofNat 16 (eField c.entry 24 2)) s.vol.accepted v
        (2 ^ 58 ≤ v.next ∨ fits s (ePart c.entry) { v with elems := v.elems ++ [e], next := v.next + 1 } = false →
          ∃ u, exec (.writeMark t ref) s = .next u ∧ Ends s u ref 0x0207 0 0)
        ∧ (v.next < 2 ^ 58 → fits s (ePart c.entry) { v with elems := v.elems ++ [e], next := v.next + 1 } = true →
          ∃ u, exec (.writeMark t ref) s = .next u ∧ Ends s u ref 0 v.next 0 ∧ (partOf u (ePart c.entry)).next = v.next + 1
            ∧ u.vol.accepted = s.vol.accepted + 1))

/-- FLUSH waits while a block its flush covers is off tape; then it ends with SUCCESS where no lost range of its
function is to be reported, and with WRITE_FAILED (0x0205) and the range where one was lost under it. READ_POSITION
writes 64 bytes that begin with the partition's next block and ends with it in RESULT0. ORDER_QUERY writes its indices
to OUT_ADDR, each index of its input list exactly once: first those with a known position, in the order in which the
tape path reaches them from the head, and ends with their number in RESULT0. The model's own choices that it touches
are log entry 36. -/
def Obligations.FlushAndQueries : Prop :=
  (∀ (t : Time) (ref : CmdRef) (s : State) (c : InFlight) (w : FlushRun), Ready s 4 ref c →
      (s.hq.flushes.find? fun x => x.ref == ref) = some w →
      (offTape s w.point = true → ∃ u, exec (.flush t ref) s = .next u ∧ findCmd u ref = some c)
      ∧ (offTape s w.point = false → (∀ l, l ∈ s.hq.lost → l.fn ≠ ref.fn) →
        (w.losses = [] → ∃ u, exec (.flush t ref) s = .next u ∧ Ends s u ref 0 0 0)
        ∧ ∀ l, w.losses = [l] → l.first < 2 ^ 64 → l.part < 64 →
          ∃ u, exec (.flush t ref) s = .next u ∧ Ends s u ref 0x0205 l.first (min l.count (2 ^ 26 - 1) + l.part * 2 ^ 26)))
    ∧ (∀ (t : Time) (ref : CmdRef) (s : State) (segs : List SgSeg) (c : InFlight) (a : DWord) (n : Nat), Ready s 6 ref c →
      dataPieces c.entry segs = some [(a, n)] → (partOf s (ePart c.entry)).next < 2 ^ 64 →
      (64 ≤ n → ∃ u bytes, exec (.readPosition t ref segs) s = .next u ∧ Ends s u ref 0 (partOf s (ePart c.entry)).next 0
        ∧ Sent s u (.hostWrite ref.fn a bytes) ∧ bytes.length = 64 ∧ fieldLe bytes 0 8 = (partOf s (ePart c.entry)).next)
      ∧ (n < 64 → ∃ u, exec (.readPosition t ref segs) s = .next u ∧ Ends s u ref 2 0 0))
    ∧ ∀ (t : Time) (ref : CmdRef) (s : State) (segs : List SgSeg) (list : List (Byte × BitVec 56 × DWord)) (c : InFlight), Ready s 7 ref c →
      (dataIs c segs (16 * eField c.entry 24 2)).isSome = true → list.length = eField c.entry 24 2 →
      let path := fun i => blockPath s ref.fn ((list.getD i (0, 0, 0)).1.toNat % 64) (list.getD i (0, 0, 0)).2.2.toNat
      ∃ (u : State) (order : List Nat), exec (.orderQuery t ref segs list) s = .next u
        ∧ Ends s u ref 0 ((List.range list.length).filter fun i => (path i).isSome).length 0
        ∧ Sent s u (.hostWrite ref.fn (BitVec.ofNat 64 (eField c.entry 32 8)) (order.flatMap (natLe 2)))
        ∧ order.Perm (List.range list.length)
        ∧ (∀ i j, i < j → j < order.length → (path (order.getD j 0)).isSome = true → (path (order.getD i 0)).isSome = true)
        ∧ ∀ i j y z, i < j → j < order.length → path (order.getD i 0) = some y → path (order.getD j 0) = some z →
          pathKey (advance t s) y ≤ pathKey (advance t s) z

/-- A READ of one record that lies in a buffer in the clear, its single run raw and fitting the output area, ends with
SUCCESS, RESULT0 its length and RESULT1 1, and its bytes are written from byte 0 of the area. A READ whose next block
is not assigned, lost, blank or a mark ends with the status of R88, RESULT0 the bytes delivered and RESULT1 the
records delivered, with MARK_VALUE above them at a mark. A VERIFY without a key of one such record ends with SUCCESS,
RESULT0 the block after it and RESULT1 1; to the end of data it ends with SUCCESS at the first block not assigned.
Where the next block must come from tape, the command joins the tape queue. The model's own choices that it touches
are log entry 36. -/
def Obligations.ReadAndVerify : Prop :=
  (∀ (t : Time) (ref : CmdRef) (s : State) (segs : List SgSeg) (c : InFlight), Ready s 2 ref c → c.segs = [] → c.stop = none →
      c.busy = false → c.body = none →
      (∀ a n bytes fr plain, dataPieces c.entry segs = some [(a, n)] → n < 2 ^ 32 → c.first = eBlock c.entry → eCount c.entry = 1 →
        c.bytes = 0 → c.count = 0 → blockAt s (ePart c.entry) c.first = .record bytes → headerOk (bytes.take 32) = true →
        hdrEncrypted (bytes.take 32) = false → hdrLen (bytes.take 32) ≤ n → plain.length = hdrLen (bytes.take 32) →
        cutRuns (runCount plain.length) plain.length (bytes.drop 32) = some [fr] → frameRaw fr = true →
        framePlain (hdrCompressed (bytes.take 32)) plain.length 0 fr = some plain →
        ∃ u, exec (.read t ref segs) s = .next u ∧ Ends s u ref 0 plain.length 1 ∧ Sent s u (.hostWrite ref.fn a plain))
      ∧ (dataPieces c.entry segs = none → c.bytes < 2 ^ 64 → ∃ u, exec (.read t ref segs) s = .next u
        ∧ Ends s u ref 2 c.bytes (c.count % 65536))
      ∧ ((dataPieces c.entry segs).isSome = true → readDone c = false → c.bytes < 2 ^ 64 →
        (blockAt s (ePart c.entry) c.first = .unassigned → ∃ u, exec (.read t ref segs) s = .next u
          ∧ Ends s u ref 0x0202 c.bytes (c.count % 65536))
        ∧ (blockAt s (ePart c.entry) c.first = .lost → ∃ u, exec (.read t ref segs) s = .next u
          ∧ Ends s u ref 0x0203 c.bytes (c.count % 65536))
        ∧ (blockAt s (ePart c.entry) c.first = .blank → ∃ u, exec (.read t ref segs) s = .next u
          ∧ Ends s u ref 0x0201 c.bytes (c.count % 65536))
        ∧ ∀ v, v < 65536 → blockAt s (ePart c.entry) c.first = .mark v → ∃ u, exec (.read t ref segs) s = .next u
          ∧ Ends s u ref 0x0208 c.bytes (c.count % 65536 + v * 65536)))
    ∧ ∀ (t : Time) (ref : CmdRef) (s : State) (c : InFlight), Ready s 3 ref c → c.stop = none → c.busy = false → c.body = none →
      c.first < 2 ^ 58 →
      (∀ bytes, toEod c = false → c.first = eBlock c.entry → eCount c.entry = 1 → c.count = 0 → eKey c.entry = 65535 →
        blockAt s (ePart c.entry) c.first = .record bytes → headerOk (bytes.take 32) = true →
        ∃ u, exec (.verify t ref) s = .next u ∧ Ends s u ref 0 (c.first + 1) 1)
      ∧ (toEod c = true → blockAt s (ePart c.entry) c.first = .unassigned →
        ∃ u, exec (.verify t ref) s = .next u ∧ Ends s u ref 0 c.first (c.count % 2 ^ 32))
      ∧ (readDone c = false → blockAt s (ePart c.entry) c.first = .lost →
        ∃ u, exec (.verify t ref) s = .next u ∧ Ends s u ref 0x0203 c.first (c.count % 2 ^ 32))

/-- While the tape is free and every channel die runs, with no write session open and no data due, the command that
R114 picks is chosen: it goes to its own mode where the head is at its place, and otherwise seeks it in LOCATE (a
LOCATE waits for its own row). A chosen LOCATE ends at once where the head is at its target, with the block there in
RESULT0, END_OF_DATA where the block asked for is not assigned; elsewhere the device enters LOCATE. When the target is
reached, a LOCATE ends in the same way and any other command goes to its mode. The model's own choices that it touches
are log entries 36 and 37. -/
def Obligations.TapeQueue : Prop :=
  (∀ (t : Time) (s : State) (c : InFlight), fetching s = true → s.gl.cur ≠ .hold → tapeTaken s = false →
      (s.gl.cur = .idle → s.gl.moving = false) → pickTape (advance t s) = some c → serviceLasts s = false → s.wr.part = none →
      anySession s = false → writeDue s = false → diesRun s = true →
      ∃ u, exec (.tapeCommandChoose t) s = .next u ∧ findCmd u c.ref = some { c with stage := .chosen, mark := (advance t s).tb }
        ∧ (eOpcode c.entry ≠ 8 → atWork (advance t s) c = true → u.gl.cur = workMode c)
        ∧ (eOpcode c.entry ≠ 8 → atWork (advance t s) c = false →
          u.gl.cur = .locate ∧ u.rdr.locate = some (workTarget (advance t s) c, c.order)))
    ∧ (∀ (t : Time) (ref : CmdRef) (s : State) (c : InFlight), findCmd s ref = some c → eOpcode c.entry = 8 → c.stage = .chosen →
      ref.sq < 8192 → s.rdr.locate = none → (locateTarget s c).2 < 2 ^ 64 →
      (headAt (advance t s) (locateTarget s c).1 = true → ∃ u, exec (.locate t ref) s = .next u
        ∧ Ends s u ref (if locatePast s c then 0x0202 else 0) (locateTarget s c).2 0)
      ∧ (headAt (advance t s) (locateTarget s c).1 = false → ∃ u, exec (.locate t ref) s = .next u ∧ u.gl.cur = .locate
        ∧ u.rdr.locate = some ((locateTarget s c).1, c.order) ∧ findCmd u ref = some c))
    ∧ ∀ (t : Time) (s : State) (x o : Nat) (c : InFlight), s.rdr.locate = some (x, o) → s.gl.cur = .locate → o ≠ 0 →
      (s.hq.inflight.find? fun c => c.order == o && (decide (c.stage = .chosen) || decide (c.stage = .running))) = some c →
      (eOpcode c.entry ≠ 8 → ∃ u, exec (.locateTargetReached t) s = .next u ∧ u.gl.cur = workMode c ∧ u.rdr.locate = none)
      ∧ (eOpcode c.entry = 8 → c.ref.sq < 8192 → (locateTarget s c).2 < 2 ^ 64 → ∃ u, exec (.locateTargetReached t) s = .next u
        ∧ Ends s u c.ref (if locatePast s c then 0x0202 else 0) (locateTarget s c).2 0 ∧ u.rdr.locate = none)

/-- GET_PARAM ends with the parameter's value in RESULT0 and in RESULT1 whether MRAM holds a stored value. SET_PARAM
gives the parameter its new value, and with PERSIST stores it; every other parameter keeps its value. In SECURE one
that lowers SPAN_PARITY ends with AUTH_FAILED and changes no parameter. GET_LOG writes the log from the page asked
for, as far as the area reaches, and ends with the log's length in RESULT0 and the bytes written in RESULT1; a
malformed pointer ends it with INVALID_FIELD. The model's own choices that it touches are log entry 21. -/
def Obligations.ParametersAndLogs : Prop :=
  (∀ (t : Time) (ref : CmdRef) (s : State) (c : InFlight), Ready s 0x15 ref c →
      let id := eField c.entry 24 2
      let g := paramTarget ref.fn id (eField c.entry 26 1 % 64)
      param s id g < 2 ^ 64 →
      ∃ u, exec (.getParam t ref) s = .next u
        ∧ Ends s u ref 0 (param s id g) (if tabGet none s.par.stored (paramKey id g) = none then 0 else 1) ∧ u.par = s.par)
    ∧ (∀ (t : Time) (ref : CmdRef) (s : State) (c : InFlight), Ready s 0x16 ref c →
      let id := eField c.entry 24 2
      let g := paramTarget ref.fn id (eField c.entry 26 1 % 64)
      let v := eField c.entry 32 8
      (s.gl.lc = 2 → id = 7 → v < param s 7 0 →
        ∃ u, exec (.setParam t ref) s = .next u ∧ Ends s u ref 0x0401 0 0 ∧ u.par = s.par)
      ∧ (s.gl.lc ≠ 2 ∨ id ≠ 7 ∨ param s 7 0 ≤ v →
        ∃ u, exec (.setParam t ref) s = .next u ∧ Ends s u ref 0 0 0 ∧ param u id g = v
          ∧ ((eOpt c.entry).testBit 0 = true → tabGet none u.par.stored (paramKey id g) = some v)
          ∧ ((eOpt c.entry).testBit 0 = false → u.par.stored = s.par.stored)
          ∧ ∀ id' g', g' < 64 → (id' ≠ id ∨ g' ≠ g) → param u id' g' = param s id' g'))
    ∧ ∀ (t : Time) (ref : CmdRef) (s : State) (segs : List SgSeg) (c : InFlight), Ready s 0x17 ref c →
      (dataPieces c.entry segs = none → ∃ u, exec (.getLog t ref segs) s = .next u ∧ Ends s u ref 2 0 0)
      ∧ ∀ a n, dataPieces c.entry segs = some [(a, n)] →
        let all := logBytes (advance t s) ref.fn (eField c.entry 24 1)
        let out := slice all (4096 * eField c.entry 28 4) n
        all.length < 2 ^ 32 →
        ∃ u, exec (.getLog t ref segs) s = .next u ∧ Ends s u ref 0 all.length out.length
          ∧ (out ≠ [] → Sent s u (.hostWrite ref.fn a out))

/-- KEY_LOAD with TYPE 1 unwraps its key under the function's KEK into the slot, whose generation advances; without a
KEK it ends with KEY_MISSING and on a failed integrity check with AUTH_FAILED, and no slot changes. With TYPE 0 its
block goes to the RSA engine. KEY_ERASE without IMMEDIATE makes every slot it names erased, without its key and with
the generation advanced, changes no other slot and ends no record. With IMMEDIATE, besides, no cipher pair holds a
record with a captured copy of a slot it names. With the KEK bit it erases the function's KEK and no slot. The model's
own choices that it touches are log entry 7. -/
def Obligations.KeyCommands : Prop :=
  (∀ (t : Time) (ref : CmdRef) (s : State) (segs : List SgSeg) (blob : List Byte) (c : InFlight), Ready s 0x18 ref c →
      ((eOpt c.entry).testBit 0 = true → (dataIs c segs 40).isSome = true →
        (kekOf s ref.fn = [] → ∃ u, exec (.keyLoadRecordKey t ref segs blob) s = .next u ∧ Ends s u ref 0x0403 0 0
          ∧ u.cy.slots = s.cy.slots)
        ∧ (kekOf s ref.fn ≠ [] → keyUnwrap (kekOf s ref.fn) blob = none →
          ∃ u, exec (.keyLoadRecordKey t ref segs blob) s = .next u ∧ Ends s u ref 0x0401 0 0 ∧ u.cy.slots = s.cy.slots)
        ∧ ∀ key, kekOf s ref.fn ≠ [] → keyUnwrap (kekOf s ref.fn) blob = some key →
          let k := deviceSlot s ref.fn (eField c.entry 24 2)
          ∃ u, exec (.keyLoadRecordKey t ref segs blob) s = .next u ∧ Ends s u ref 0 0 0
            ∧ keySlot u k = { st := .loaded, gen := (keySlot s k).gen + 1, key := key }
            ∧ ∀ j, j ≠ k → keySlot u j = keySlot s j)
      ∧ ((eOpt c.entry).testBit 0 = false →
        (dataIs c segs 384 = none → ∃ u, exec (.keyLoadKek t ref segs blob) s = .next u ∧ Ends s u ref 2 0 0)
        ∧ ((dataIs c segs 384).isSome = true → ∃ u, exec (.keyLoadKek t ref segs blob) s = .next u
          ∧ findCmd u ref = some { c with stage := .running }
          ∧ (s.se.rsa = none → s.se.rsaWait = [] → u.se.rsa = some (.kek ref blob))
          ∧ (s.se.rsa ≠ none → u.se.rsa = s.se.rsa ∧ u.se.rsaWait = s.se.rsaWait ++ [.kek ref blob]))))
    ∧ ∀ (t : Time) (ref : CmdRef) (s : State) (c : InFlight), Ready s 0x19 ref c →
      (eOpt c.entry % 4 = 0 → ∃ u, exec (.keyErase t ref) s = .next u ∧ Ends s u ref 0 0 0
        ∧ (∀ k, k ∈ eraseRange s c → keySlot u k = { st := .erased, gen := (keySlot s k).gen + 1, key := [] })
        ∧ (∀ k, k ∉ eraseRange s c → keySlot u k = keySlot s k) ∧ u.cy.keks = s.cy.keks)
      ∧ (eOpt c.entry % 4 = 1 → TagsDistinct s → (∀ p, p ∈ s.cy.busy → p.2.ref ≠ ref) →
        ∃ u, exec (.keyEraseImmediate t ref) s = .next u ∧ Ends s u ref 0 0 0
          ∧ (∀ k, k ∈ eraseRange s c → keySlot u k = { st := .erased, gen := (keySlot s k).gen + 1, key := [] })
          ∧ (∀ k, k ∉ eraseRange s c → keySlot u k = keySlot s k)
          ∧ ∀ p, p ∈ u.cy.busy → p.2.slot ∉ eraseRange s c)
      ∧ ((eOpt c.entry).testBit 1 = true → ∃ u, exec (.keyEraseKek t ref) s = .next u ∧ Ends s u ref 0 0 0
        ∧ kekOf u ref.fn = [] ∧ (∀ f, f ≠ ref.fn → kekOf u f = kekOf s f) ∧ u.cy.slots = s.cy.slots)

/-- Outside RESET and FILL: a reseed whose entropy passes the health tests leaves SEEDED 1 and HEALTH_FAIL 0 and
starts the count anew; one that fails leaves SEEDED 0 and HEALTH_FAIL 1. A health test that fails sets HEALTH_FAIL and
leaves SEEDED, so that the DRBG serves until its next reseed; the CIPHER_FAULT event is raised only when HEALTH_FAIL
was 0. The model's own choices that it touches are log entries 5, 52 and 55. -/
def Obligations.RandomGenerator : Prop :=
  ∀ (t : Time) (s : State), fetching s = true →
    (∃ u, exec (.drbgReseed t true) s = .next u ∧ u.cy.seeded = true ∧ u.cy.health = false ∧ u.cy.reseeds = s.cy.reseeds + 1
      ∧ u.cy.slots = s.cy.slots)
    ∧ (∃ u, exec (.drbgReseed t false) s = .next u ∧ u.cy.seeded = false ∧ u.cy.health = true ∧ u.cy.slots = s.cy.slots)
    ∧ (∃ u, exec (.entropyHealthFail t) s = .next u ∧ u.cy.health = true ∧ u.cy.seeded = s.cy.seeded
      ∧ u.cy.reseeds = s.cy.reseeds)
    ∧ (s.cy.health = true → exec (.entropyHealthFail t) s = .next (advance t s))

/-- A chosen CALIBRATE in CALIBRATE with no unit list ends with the mask of the procedures that passed in RESULT0,
SUCCESS where that is the whole mask asked for and CAL_FAILED (0x0108) otherwise; without a cartridge a mask of tape
procedures alone ends with MODE_REFUSED. READMIT makes a benched engine or pair that passes its self-test active.
SERVICE BENCH makes the indexed engine, decode engine or pair benched. SELF_TEST of a benched or spare unit reports
its fault code, and of any other unit ends with INVALID_FIELD. TELLTALE_START sets the generators to their registers
and the Telltale to RUNNING; in SECURE with the tape moving it ends with AUTH_FAILED. TELLTALE_STOP with no injected
slot running leaves it STOPPED. The model's own choices that it touches are log entries 7 and 21. -/
def Obligations.CalibrateAndService : Prop :=
  (∀ (t : Time) (ref : CmdRef) (s : State) (out : CalOutcome) (c : InFlight), findCmd s ref = some c → ref.sq < 8192 →
      eOpcode c.entry = 0x24 → c.stage = .chosen → s.gl.cur = .calibrate →
      (eField c.entry 30 2 = 0 →
        (s.gl.cart = true ∨ calMask c = 0 ∨ calMask c &&& 0x44 ≠ 0 →
          ∃ u, exec (.calibrate t ref [] [] out) s = .next u
            ∧ Ends s u ref (if calPassed c s out 0 = calMask c then 0 else 0x0108) (calPassed c s out 0) 0
            ∧ u.se.calWrites = s.se.calWrites + 1)
        ∧ (s.gl.cart = false → calMask c ≠ 0 → calMask c &&& 0x44 = 0 →
          ∃ u, exec (.calibrate t ref [] [] out) s = .next u ∧ Ends s u ref 7 0 0 ∧ u.se.calWrites = s.se.calWrites))
      ∧ ∀ (segs : List SgSeg) (x : BitVec 16), eField c.entry 30 2 = 1 → (dataIs c segs 2).isSome = true → calMask c = 64 →
        1152 ≤ x.toNat → x.toNat < 1188 → (crewOf s x.toNat).st = .benched → out.failed = [] →
        ∃ u, exec (.calibrate t ref segs [x] out) s = .next u ∧ Ends s u ref 0 64 1 ∧ (crewOf u x.toNat).st = .active)
    ∧ (∀ (t : Time) (ref : CmdRef) (s : State) (c : InFlight), serviceCmd 3 ref s = some c → ref.sq < 8192 →
      let i := eField c.entry 24 2
      (1024 ≤ i → i < 1188 → ∃ u, exec (.bench t ref) s = .next u ∧ Ends s u ref 0 0 0 ∧ (crewOf u i).st = .benched)
      ∧ (dieBusy s i = true → ∃ u, exec (.bench t ref) s = .next u ∧ Ends s u ref 8 0 0)
      ∧ (i < 1024 → spareLeft s (i / 128) = false → ∃ u, exec (.bench t ref) s = .next u ∧ Ends s u ref 2 0 0))
    ∧ (∀ (t : Time) (ref : CmdRef) (s : State) (code : DWord) (c : InFlight), serviceCmd 4 ref s = some c → ref.sq < 8192 →
      dieBusy s (eField c.entry 24 2) = false →
      ((crewOf s (eField c.entry 24 2)).st = .benched ∨ (crewOf s (eField c.entry 24 2)).st = .spare →
        ∃ u, exec (.selfTest t ref code) s = .next u ∧ Ends s u ref 0 code.toNat 0)
      ∧ ((crewOf s (eField c.entry 24 2)).st ≠ .benched → (crewOf s (eField c.entry 24 2)).st ≠ .spare →
        ∃ u, exec (.selfTest t ref code) s = .next u ∧ Ends s u ref 2 0 0))
    ∧ (∀ (t : Time) (ref : CmdRef) (s : State) (c : InFlight), serviceCmd 1 ref s = some c → ref.sq < 8192 →
      (s.gl.lc = 2 → s.gl.moving = true → ∃ u, exec (.telltaleStart t ref) s = .next u ∧ Ends s u ref 0x0401 0 0 ∧ u.tt = s.tt)
      ∧ (s.gl.lc ≠ 2 ∨ s.gl.moving = false → s.tt.unit.st = .stopped →
        ∃ u, exec (.telltaleStart t ref) s = .next u ∧ Ends s u ref 0 0 0 ∧ u.tt.unit.st = .running ∧ u.gl.cur = .service
          ∧ ∀ g, g < 4 → (genOf u g).phase = 0 ∧ (genOf u g).freqNow = (genOf s g).freq ∧ (genOf u g).held = 0))
    ∧ ∀ (t : Time) (ref : CmdRef) (s : State) (c : InFlight), serviceCmd 2 ref s = some c → ref.sq < 8192 →
      (s.tt.unit.st = .running → (∀ i, i < 64 → (slotOf s i).unit.st = .stopped ∨ gensOf s i = []) →
        ∃ u, exec (.telltaleStop t ref) s = .next u ∧ Ends s u ref 0 0 0 ∧ u.tt.unit.st = .stopped)
      ∧ (s.tt.unit.st = .running → (∃ i, i < 64 ∧ (slotOf s i).unit.st ≠ .stopped ∧ gensOf s i ≠ []) →
        ∃ u, exec (.telltaleStop t ref) s = .next u ∧ findCmd u ref = some { c with stage := .running }
          ∧ u.tt.unit.st = .stopping ∧ u.tt.stop = some ref)

/-- HOLD_ENTER outside RESET, FILL and HOLD puts the device into HOLD with the host cause latched and ends with the TB
of entry in RESULT0; in HOLD it ends with the TB at which HOLD was entered. HOLD_RELEASE in HOLD with the tape at rest
and every LIVE bit 0 ends with SUCCESS, the LATCHED bits are 0 and the device is in IDLE where no ERASE was paused;
otherwise it ends with MODE_REFUSED and the mode and GL_HOLD are as before. The model's own choices that it touches
are log entry 39. -/
def Obligations.HoldByCommand : Prop :=
  (∀ (t : Time) (ref : CmdRef) (s : State) (c : InFlight), Ready s 0x26 ref c → TagsDistinct s →
      (s.gl.cur ≠ .reset → s.gl.cur ≠ .fill → s.gl.cur ≠ .hold →
        ∃ u, exec (.holdEnter t ref) s = .next u ∧ u.gl.cur = .hold ∧ u.gl.latched.getLsbD 6 = true
          ∧ Ends s u ref 0 (advance t s).tb.toNat 0)
      ∧ (s.gl.cur = .hold → ∃ u, exec (.holdEnter t ref) s = .next u ∧ u.gl.cur = .hold ∧ u.gl.latched.getLsbD 6 = true
          ∧ Ends s u ref 0 s.gl.modeTs.toNat 0))
    ∧ ∀ (t : Time) (ref : CmdRef) (s : State) (c : InFlight), Ready s 0x27 ref c →
      (s.gl.cur = .hold → s.gl.moving = false → liveBits s = 0 → (∀ d, d ∈ s.hq.inflight → d.stage ≠ .paused) →
        ∃ u, exec (.holdRelease t ref) s = .next u ∧ Ends s u ref 0 0 0 ∧ u.gl.cur = .idle ∧ u.gl.latched = 0)
      ∧ (s.gl.cur ≠ .hold ∨ s.gl.moving = true ∨ liveBits s ≠ 0 →
        ∃ u, exec (.holdRelease t ref) s = .next u ∧ Ends s u ref 7 0 0 ∧ u.gl = s.gl ∧ u.pins = s.pins)

/-- An LC_CHANGE outside IDLE at rest, or while a change or a device reset is in progress, ends with MODE_REFUSED. A
change that needs no confirmation is performed: the command ends with ARMED 0 and the warm reset of cause 3 is
requested. One that needs a confirming request is armed with RESULT1 1, and performed by an identical request within
10 s. One that needs a signature goes to the RSA engine, and ends with AUTH_FAILED without one; a change that R40 does
not allow ends with AUTH_FAILED. The armed change ends when its 10 s have passed. An UNLOCK outside RETURN leaves
everything as it was, and in RETURN its authorisation goes to the RSA engine. When a KEY_LOAD's operation ends, the
command ends with SUCCESS and the KEK is the function's where the block decrypted to 32 bytes, and with AUTH_FAILED
otherwise; a patch bundle becomes PENDING where its check finds no cause against it. The model's own choices that it
touches are log entry 41. -/
def Obligations.LifeCycleChange : Prop :=
  (∀ (t : Time) (ref : CmdRef) (s : State) (segs : List SgSeg) (auth : List Byte) (c : InFlight) (p : List (DWord × Nat)),
      Ready s 0x28 ref c → (if eField c.entry 8 12 = 0 then some [] else dataPieces c.entry segs) = some p →
      let a := hostBytes (piecesLen p) auth
      let target := BitVec.ofNat 3 (eField c.entry 24 1 % 8)
      let kind := lcAuth s.gl.lc.toNat target.toNat
      (lcReady s = false → ∃ u, exec (.lcChange t ref segs auth) s = .next u ∧ Ends s u ref 7 0 0 ∧ u.gl.armed = s.gl.armed
        ∧ u.gl.lcPending = s.gl.lcPending)
      ∧ (lcReady s = true →
        ((kind = 0 ∧ (s.gl.lc ≠ 0 ∨ s.se.chain = true)) ∨ (kind = 1 ∧ lcConfirms (advance t s) target a = true) →
          ∃ u, exec (.lcChange t ref segs auth) s = .next u ∧ Ends s u ref 0 0 0 ∧ u.gl.lcPending = some target
            ∧ u.gl.resetWait = some { cause := 3, again := none } ∧ u.gl.armed = none ∧ u.gl.lc = s.gl.lc)
        ∧ (kind = 1 → lcConfirms (advance t s) target a = false →
          ∃ u, exec (.lcChange t ref segs auth) s = .next u ∧ Ends s u ref 0 0 1
            ∧ u.gl.armed = some { target := target, auth := a, at_ := (advance t s).tb } ∧ u.gl.lcPending = none)
        ∧ (kind = 2 → a ≠ [] → s.se.rsa = none → s.se.rsaWait = [] →
          ∃ u, exec (.lcChange t ref segs auth) s = .next u ∧ u.se.rsa = some (.auth (some ref) target a)
            ∧ findCmd u ref = some { c with stage := .running } ∧ u.gl.armed = none)
        ∧ ((kind = 2 ∧ a = []) ∨ (3 ≤ kind) ∨ (kind = 0 ∧ s.gl.lc = 0 ∧ s.se.chain = false) →
          ∃ u, exec (.lcChange t ref segs auth) s = .next u ∧ Ends s u ref 0x0401 0 0 ∧ u.gl.armed = none)))
    ∧ (∀ (t : Time) (s : State) (a : Armed), s.gl.armed = some a →
      (a.at_.toNat + tenSeconds ≤ (advance t s).tb.toNat → ∃ u, exec (.lcArmExpiry t) s = .next u ∧ u.gl.armed = none)
      ∧ ((advance t s).tb.toNat < a.at_.toNat + tenSeconds → ∃ u, exec (.lcArmExpiry t) s = .next u ∧ u.gl.armed = some a))
    ∧ (∀ (t : Time) (auth : List Byte) (s : State),
      (s.gl.lc ≠ 3 → exec (.unlock t auth) s = .next (advance t s))
      ∧ (s.gl.lc = 3 → barResponds s = true → s.se.rsa = none → s.se.rsaWait = [] →
        ∃ u, exec (.unlock t auth) s = .next u ∧ u.se.rsa = some (.unlock (hostBytes 848 auth))))
    ∧ ∀ (t : Time) (s : State) (ref : CmdRef) (blob : List Byte) (c : InFlight), findCmd s ref = some c → ref.sq < 8192 →
      s.se.rsaWait = [] →
      (s.se.rsa = some (.kek ref blob) → eOpcode c.entry = 0x18 →
        let label : List Byte := [0x4B#8, 0x45#8, 0x4B#8, BitVec.ofNat 8 ref.fn.toNat]
        let key := if s.se.xport then oaepDecrypt Config.transportModulus Config.transportExponent label (hostBytes 384 blob) else none
        let good := key.any fun k => k.length == 32
        ∃ u, exec (.rsaOperationDone t) s = .next u ∧ u.se.rsa = none ∧ Ends s u ref (if good then 0 else 0x0401) 0 0
          ∧ kekOf u ref.fn = if good then key.getD [] else kekOf s ref.fn)
      ∧ (s.se.rsa = some (.bundle ref blob) → eOpcode c.entry = 0x29 →
        let good := bundleCause s.se.rollback blob == 0
        ∃ u, exec (.rsaOperationDone t) s = .next u ∧ u.se.rsa = none ∧ Ends s u ref (if good then 0 else 0x0401) 0 0
          ∧ u.se.pend = if good then blob else s.se.pend)

/-- PATCH_DOWNLOAD with FIRST and without LAST of a multiple of 4,096 bytes at offset 0 starts the bundle anew; a
piece at another offset ends with INVALID_FIELD. With LAST the bundle goes to the RSA engine. FW_ACTIVATE without a
valid newer PENDING bundle ends with NO_PATCH (0x0107), and otherwise stands as a barrier. When every command fetched
earlier has ended, in IDLE or HOLD at rest and within 10 s, the swap makes PENDING the ACTIVE bundle and the running
code, raises the rollback counter at least to its SVN, empties PENDING and ends FW_ACTIVATE with the version in
RESULT1. After 10 s it ends with MODE_REFUSED and PENDING stays. The model's own choices that it touches are log entry
42. -/
def Obligations.PatchAndActivation : Prop :=
  (∀ (t : Time) (ref : CmdRef) (s : State) (segs : List SgSeg) (data : List Byte) (c : InFlight) (p : List (DWord × Nat)),
      Ready s 0x29 ref c → dataPieces c.entry segs = some p → (eOpt c.entry).testBit 0 = true →
      (eField c.entry 24 4 ≠ 0 → ∃ u, exec (.patchDownload t ref segs data) s = .next u ∧ Ends s u ref 2 0 0
        ∧ u.se.partial_ = s.se.partial_)
      ∧ (eField c.entry 24 4 = 0 → piecesLen p ≤ 262144 →
        ((eOpt c.entry).testBit 1 = false → piecesLen p % 4096 = 0 →
          ∃ u, exec (.patchDownload t ref segs data) s = .next u ∧ Ends s u ref 0 0 0
            ∧ u.se.partial_ = some (hostBytes (piecesLen p) data))
        ∧ ((eOpt c.entry).testBit 1 = true → s.se.rsa = none → s.se.rsaWait = [] →
          ∃ u, exec (.patchDownload t ref segs data) s = .next u ∧ u.se.partial_ = none
            ∧ u.se.rsa = some (.bundle ref (hostBytes (piecesLen p) data)) ∧ findCmd u ref = some { c with stage := .running })))
    ∧ (∀ (t : Time) (ref : CmdRef) (s : State) (c : InFlight), Ready s 0x2A ref c →
      ∃ u, exec (.fwActivate t ref) s = .next u
        ∧ if activatable s then findCmd u ref = some { c with stage := .running }
            ∧ u.hq.act = some { ref := ref, since := c.tb, swapAt := none }
          else Ends s u ref 0x0107 0 0 ∧ u.hq.act = s.hq.act)
    ∧ ∀ (t : Time) (s : State) (a : Activation) (c : InFlight), s.hq.act = some a → findCmd s a.ref = some c → a.ref.sq < 8192 →
      eOpcode c.entry = 0x2A → s.task.held = false →
      (swapReady (advance t s) a = true →
        ∃ u, exec (.fwActivateSwap t) s = .next u ∧ Ends s u a.ref 0 0 (bundleVersion s.se.pend) ∧ u.se.active = s.se.pend
          ∧ u.se.pend = [] ∧ u.gl.patched = true ∧ u.se.runVer = bundleVersion s.se.pend ∧ s.se.rollback ≤ u.se.rollback
          ∧ bundleSvn s.se.pend ≤ u.se.rollback ∧ u.hq.act = none)
      ∧ (swapReady (advance t s) a = false → exec (.fwActivateSwap t) s = .next (advance t s))
      ∧ (a.since.toNat + tenSeconds ≤ (advance t s).tb.toNat →
        ∃ u, exec (.fwActivateTimeout t) s = .next u ∧ Ends s u a.ref 7 0 0 ∧ u.hq.act = none ∧ u.se = s.se)
      ∧ ((advance t s).tb.toNat < a.since.toNat + tenSeconds → exec (.fwActivateTimeout t) s = .next (advance t s))

/-- A TK_CMD write while BUSY is 0, where the registers respond to its issuer, the life cycle forbids nothing (neither
SECURE nor END) and no firmware activation stands: SEQ advances, SOURCE names the issuer, and the command ends with
BUSY 0 and its result: HEALTH with the mode and hold words; LOG_READ with the length of what it put into TK_DATA, or
status 2 for an unknown log; LC_CHANGE refused (7) outside IDLE at rest; ATTEST of a GET_VERSION with the 8 bytes of
its response; QUEUE_SETUP starts the PF's queues where their registers pass R71, and otherwise ends with 2;
EMERGENCY_HOLD in HOLD with EHOLD 1; WARM_RESET with the key 5AH requests a reset of cause 2, and otherwise ends with
2. In END the commands 3, 5, 6 and 7 end with 7 and do nothing. The model's own choices that it touches are log entry
44. -/
def Obligations.TaskCommands : Prop :=
  ∀ (t : Time) (src : BusSource) (s : State), taskLive src s = true → s.task.busy = false →
    (s.gl.lc ≠ 4 → s.gl.lc ≠ 2 → s.hq.act = none →
      let told := fun (u : State) => u.task.busy = false ∧ u.task.seq = s.task.seq + 1 ∧ u.task.source = sourceCode src
      (∃ u, exec (.health t src) s = .next u ∧ told u ∧ u.task.result = 0 ∧ taskArg u 0 = modeWord (advance t s) ∧ taskArg u 1 = holdWord (advance t s))
      ∧ (1 ≤ (taskArg s 0).toNat → (taskArg s 0).toNat ≤ 7 →
        let out := slice (logBytes (advance t s) 0 (taskArg s 0).toNat) (4096 * (taskArg s 1).toNat) 4096
        ∃ u, exec (.logRead t src) s = .next u ∧ told u ∧ u.task.result = BitVec.ofNat 32 (out.length * 65536)
          ∧ taskBytes u out.length = out)
      ∧ ((taskArg s 0).toNat = 0 → ∃ u, exec (.logRead t src) s = .next u ∧ told u ∧ u.task.result = 2)
      ∧ (lcReady s = false → (taskArg s 1).toNat ≤ 4096 → ∃ u, exec (.taskLcChange t src) s = .next u ∧ told u ∧ u.task.result = 7
        ∧ u.gl.lcPending = s.gl.lcPending)
      ∧ (lcReady s = true → lcAuth s.gl.lc.toNat ((taskArg s 0).setWidth 3 : BitVec 3).toNat = 0 → s.gl.lc ≠ 0 →
        (taskArg s 1).toNat ≤ 4096 → ∃ u, exec (.taskLcChange t src) s = .next u ∧ told u ∧ u.task.result = 0
          ∧ u.gl.lcPending = some ((taskArg s 0).setWidth 3))
      ∧ ((taskArg s 0).toNat = 4 → taskBytes s 4 = [0x10#8, 0x84#8, 0#8, 0#8] →
        ∃ u, exec (.attest t src) s = .next u ∧ told u ∧ u.task.result = BitVec.ofNat 32 (8 * 65536) ∧ u.se.task.st = 1
          ∧ taskBytes u 8 = [0x10#8, 0x04#8, 0#8, 0#8, 0#8, 1#8, 0x00#8, 0x12#8] ∧ u.se.doe = s.se.doe)
      ∧ ((hqFn s 0).unit.st = .stopped →
        let pair := fun n => BitVec.ofNat 64 ((taskArg s n).toNat + (taskArg s (n + 1)).toNat * 2 ^ 32)
        let x := setHqFn 0 { hqFn s 0 with asqBase := pair 0, acqBase := pair 2, aqSize := taskArg s 4 &&& 0x0FFF0FFF#32,
                                           aqVec := taskArg s 5 &&& 0x000107FF#32 } s
        let good := aqOk x 0 && bindFits x 0 (bits (hqFn x 0).aqVec 0 11)
        ∃ u, exec (.queueSetup t src) s = .next u ∧ told u ∧ u.task.result = (if good then 0 else 2)
          ∧ (hqFn u 0).unit.st = (if good then .running else .stopped) ∧ (hqFn u 0).asqBase = pair 0)
      ∧ ((hqFn s 0).unit.st = .running → ∃ u, exec (.queueSetup t src) s = .next u ∧ told u ∧ u.task.result = 2
        ∧ hqFn u 0 = hqFn s 0)
      ∧ (s.gl.cur ≠ .reset → s.gl.cur ≠ .fill → ∃ u, exec (.emergencyHold t src) s = .next u ∧ told u ∧ u.task.result = 0
        ∧ u.task.ehold = true ∧ u.gl.cur = .hold ∧ u.gl.latched.getLsbD 6 = true)
      ∧ (bits (taskArg s 0) 0 8 = 0x5A → s.gl.resetWait = none →
        ∃ u, exec (.warmReset t src) s = .next u ∧ told u ∧ u.task.result = 0
          ∧ u.gl.resetWait = some { cause := 2, again := none } ∧ u.gl.resetCause = 2)
      ∧ (bits (taskArg s 0) 0 8 ≠ 0x5A → ∃ u, exec (.warmReset t src) s = .next u ∧ told u ∧ u.task.result = 2
        ∧ u.gl.resetWait = s.gl.resetWait))
    ∧ (s.gl.lc = 4 →
      (∃ u, exec (.taskLcChange t src) s = .next u ∧ u.task.result = 7 ∧ u.gl = s.gl)
      ∧ (∃ u, exec (.queueSetup t src) s = .next u ∧ u.task.result = 7 ∧ u.hq = s.hq)
      ∧ (∃ u, exec (.emergencyHold t src) s = .next u ∧ u.task.result = 7 ∧ u.gl = s.gl)
      ∧ ∃ u, exec (.warmReset t src) s = .next u ∧ u.task.result = 7 ∧ u.gl = s.gl)

/-- While BUSY is 1 and the registers respond: a TK_CMD write other than EMERGENCY_HOLD, and a write to TK_ARG0 to
TK_ARG15 or TK_DATA, is ignored and sets OVERRUN, and the running command, its arguments and its data are unaffected.
A TK_CMD write of EMERGENCY_HOLD, where the life cycle does not forbid it (R39), is acted on at once: it changes
neither BUSY, SEQ nor TK_RESULT, sets EHOLD and not OVERRUN, and the device is in HOLD. While BUSY is 0 it is
accepted: SEQ advances and EHOLD is set. The model's own choices that it touches are log entry 44. -/
def Obligations.TaskRegistersBusy : Prop :=
  ∀ (t : Time) (src : BusSource) (s : State), taskLive src s = true →
    (s.task.busy = true →
      (∀ (o : Nat) (v : Word), (o = 0 ∧ bits v 0 8 ≠ 6) ∨ (0x10 ≤ o ∧ o < 0x50) ∨ (0x1000 ≤ o ∧ o < 0x2000) →
        ∃ u, exec (.taskWriteWhileBusy t src o v) s = .next u ∧ u.task = { s.task with overrun := true } ∧ u.gl = s.gl)
      ∧ (s.gl.lc ≠ 4 → s.gl.cur ≠ .reset → s.gl.cur ≠ .fill →
        ∃ u, exec (.taskWriteWhileBusy t src 0 6) s = .next u ∧ u.task = { s.task with ehold := true } ∧ u.gl.cur = .hold)
      ∧ (s.gl.lc ≠ 4 → s.gl.cur ≠ .reset → s.gl.cur ≠ .fill →
        ∃ u, exec (.emergencyHold t src) s = .next u ∧ u.task = { s.task with ehold := true } ∧ u.gl.cur = .hold))
    ∧ (s.task.busy = false → s.gl.lc ≠ 4 → s.gl.cur ≠ .reset → s.gl.cur ≠ .fill →
      ∃ u, exec (.emergencyHold t src) s = .next u ∧ u.task.seq = s.task.seq + 1 ∧ u.task.ehold = true ∧ u.gl.cur = .hold)

/-- A write transaction to the device's address in the mode of the bus writes the task registers from its offset on;
an SMBus write with a wrong PEC writes nothing and is counted; a bus timeout leaves all state but time; SETDASA or
ENTDAA gives the address. On a connection that awaits no signature: GET_VERSION begins anew and is answered with
version 1.2; GET_CAPABILITIES and NEGOTIATE_ALGORITHMS advance the negotiation; GET_DIGESTS and GET_CERTIFICATE answer
from slot 0; CHALLENGE goes to the RSA engine for its signature; GET_MEASUREMENTS of the count is answered with 7; a
request out of order is answered with ERROR 04H. None of them changes the other connection. DOE Discovery leaves its
answer in the mailbox, a read takes the answer out, and DOE Abort returns the connection to its initial state. The
message formats are those of SPDM 1.2, taken from outside the manual (log entry 60). The model's own choices that it
touches are log entries 43 and 44. -/
def Obligations.BoardBusAndSpdm : Prop :=
  (∀ (t : Time) (address : BitVec 7) (s : State), fetching s = true →
      (∀ (v : Word), address = boardAddress s → s.task.smbus ≠ some true → s.task.busy = false →
        ∃ u, exec (.boardBusWrite t .i3c address (natLe 2 0x10 ++ natLe 4 v.toNat)) s = .next u ∧ taskArg u 0 = v
          ∧ u.task.smbus = some false ∧ u.task.seq = s.task.seq)
      ∧ (∀ (body : List Byte) (pec : Byte), address = boardAddress s → s.task.smbus ≠ some false → 2 ≤ body.length →
        pec ≠ boardPec address body →
        ∃ u, exec (.boardBusWrite t .smbus address (body ++ [pec])) s = .next u
          ∧ u.task = { s.task with smbus := some true, pecErrs := satInc s.task.pecErrs })
      ∧ (∀ (v : Word), address = boardAddress s → s.task.smbus ≠ some false → s.task.busy = false →
        let body := natLe 2 0x10 ++ natLe 4 v.toNat
        ∃ u, exec (.boardBusWrite t .smbus address (body ++ [boardPec address body])) s = .next u ∧ taskArg u 0 = v
          ∧ u.task.smbus = some true ∧ u.task.pecErrs = s.task.pecErrs)
      ∧ exec (.smbusTimeout t) s = .next (advance t s)
      ∧ (s.task.smbus ≠ some true → ∃ u, exec (.setdasaOrEntdaa t address) s = .next u ∧ boardAddress u = address))
    ∧ (∀ (t : Time) (conn : SpdmConn) (m : List Byte) (s : State), fetching s = true → (spdmOf s conn).wait = none →
      (conn = .task → s.task.busy = false) → m.length ≤ 4096 → 42 ≤ (spdmOf s conn).limit →
      let other := if conn = .doe then SpdmConn.task else .doe
      (spdmCode m = 0x84 → m.headD 0 = 0x10 → 4 ≤ m.length → ∃ u, exec (.getVersion t conn m) s = .next u
        ∧ (spdmOf u conn).st = 1 ∧ spdmOf u other = spdmOf s other
        ∧ Sent s u (.spdm conn [0x10#8, 0x04#8, 0#8, 0#8, 0#8, 1#8, 0x00#8, 0x12#8]))
      ∧ (m.headD 0 = 0x12 →
        (spdmCode m = 0xE1 → 20 ≤ m.length → 42 ≤ fieldLe m 12 4 → fieldLe m 12 4 ≤ fieldLe m 16 4 →
          (spdmOf s conn).st = 1 → ∃ u, exec (.getCapabilities t conn m) s = .next u ∧ (spdmOf u conn).st = 2
            ∧ (spdmOf u conn).limit = fieldLe m 12 4 ∧ spdmOf u other = spdmOf s other)
        ∧ (spdmCode m = 0xE1 → (spdmOf s conn).st ≠ 1 → ∃ u, exec (.getCapabilities t conn m) s = .next u
          ∧ Sent s u (.spdm conn (spdmError 4 0)) ∧ spdmOf u conn = spdmOf s conn)
        ∧ (spdmCode m = 0xE3 → 32 ≤ m.length → fieldLe m 4 2 = m.length → (fieldLe m 8 4).testBit 2 = true →
          (fieldLe m 12 4).testBit 0 = true → (spdmOf s conn).st = 2 →
          ∃ u, exec (.negotiateAlgorithms t conn m) s = .next u ∧ (spdmOf u conn).st = 3 ∧ spdmOf u other = spdmOf s other)
        ∧ ((spdmOf s conn).st = 3 →
          (spdmCode m = 0x81 → 4 ≤ m.length → s.se.chain = true → ∃ u, exec (.getDigests t conn m) s = .next u
            ∧ Sent s u (.spdm conn (spdmHead 0x01 0 1 ++ sha256 spdmChain)) ∧ spdmOf u other = spdmOf s other)
          ∧ (spdmCode m = 0x82 → 8 ≤ m.length → fieldLe m 2 1 = 0 → fieldLe m 4 2 = 0 → fieldLe m 6 2 = 4 → s.se.chain = true →
            ∃ u, exec (.getCertificate t conn m) s = .next u
              ∧ Sent s u (.spdm conn (spdmHead 0x02 0 0 ++ natLe 2 4 ++ natLe 2 (spdmChain.length - 0 - 4) ++ slice spdmChain 0 4))
              ∧ spdmOf u other = spdmOf s other)
          ∧ (spdmCode m = 0x83 → 36 ≤ m.length → fieldLe m 2 1 = 0 → fieldLe m 3 1 = 0 → s.se.idKey = true →
            s.cy.seeded = true → 454 ≤ (spdmOf s conn).limit → s.se.rsa = none → s.se.rsaWait = [] →
            ∃ u, exec (.challenge t conn m) s = .next u ∧ u.se.rsa = some (.spdm conn) ∧ (spdmOf u conn).wait.isSome = true
              ∧ spdmOf u other = spdmOf s other)
          ∧ (spdmCode m = 0xE0 → 4 ≤ m.length → fieldLe m 2 1 = 0 → fieldLe m 3 1 = 0 →
            ∃ u rest, exec (.getMeasurements t conn m) s = .next u
              ∧ Sent s u (.spdm conn (spdmHead 0x60 7 0 ++ rest)) ∧ spdmOf u other = spdmOf s other))))
    ∧ ∀ (t : Time) (s : State), fetching s = true →
      (∀ index : Byte, ∃ u, exec (.doeDiscovery t index) s = .next u ∧ u.se.doe = s.se.doe
        ∧ u.se.doeResp = some (natLe 4 (if index = 0 then 0x01000001 else if index = 1 then 0x00010001 else 0x0000FFFF)))
      ∧ (∃ u, exec (.doeAbort t) s = .next u ∧ u.se.doe = spdmInitial ∧ u.se.doeResp = none ∧ u.se.task = s.se.task)
      ∧ ∀ b, s.se.doeResp = some b → ∃ u, exec (.doeResponseRead t) s = .next u ∧ Sent s u (.doe b) ∧ u.se.doeResp = none

/-- A source that senses its line: in modes 2 to 5 each edge that the mode counts adds 1 to the pending count,
saturating at 1 in modes 2 to 4 and at 2 in mode 5, and 1 to EDGE_COUNT whether or not the count was saturated; in
modes 0 and 1 neither changes. An edge source is pending while its count is not 0, and a level source while its line
is at the active level and it is not in service. A write to PEND does nothing to a level source, and sets an edge
source's count to 0 or to at least 1. A change of SENSE sets the count to 0 and leaves a source in service; codes 6
and 7 change nothing. No register write to the controller's banks changes EDGE_COUNT. A pulse in mode 5 counts two.
SENSE resets to 2 for pulse lines and fast sources and to 0 for every other line. -/
def Obligations.SourceSensing : Prop :=
  (∀ (t : Time) (s : State), (∀ (f : Fn) (n : Nat), srcExists s f n = true →
      ∃ u, exec (.sourceLineChange t f false n) s = .next u
        ∧ let v := srcOf s f n; let w := srcOf u f n; let l := srcLine (advance t s) f n
          let counts := v.line ≠ l ∧ ((v.sense = 2 ∧ l = true) ∨ (v.sense = 3 ∧ l = false) ∨ v.sense = 4 ∨ v.sense = 5)
          w.line = l ∧ w.sense = v.sense ∧ w.insvc = v.insvc
          ∧ (counts → w.count = min (if v.sense = 5 then 2 else 1) (v.count + 1) ∧ w.edges = v.edges + 1)
          ∧ (¬counts → w.count = v.count ∧ w.edges = v.edges))
      ∧ (∀ n : Nat, n ≠ 7 → ∃ u, exec (.sourceLineChange t 0 true n) s = .next u
        ∧ let v := fastOf s n; let w := fastOf u n; let l := fastLine (advance t s) n
          let counts := v.line ≠ l ∧ ((v.sense = 2 ∧ l = true) ∨ (v.sense = 3 ∧ l = false) ∨ v.sense = 4 ∨ v.sense = 5)
          w.line = l ∧ w.sense = v.sense ∧ w.insvc = v.insvc
          ∧ (counts → w.count = min (if v.sense = 5 then 2 else 1) (v.count + 1) ∧ w.edges = v.edges + 1)
          ∧ (¬counts → w.count = v.count ∧ w.edges = v.edges))
      ∧ (∀ (f : Fn) (n : Nat), let v := srcOf s f n
        (v.sense = 0 → (pendingNow s f n = true ↔ srcLine s f n = true ∧ v.insvc = false))
        ∧ (v.sense = 1 → (pendingNow s f n = true ↔ srcLine s f n = false ∧ v.insvc = false))
        ∧ (2 ≤ v.sense → (pendingNow s f n = true ↔ v.count ≠ 0)))
      ∧ (∀ (f : Fn) (word : Nat) (value : Word), fnLive s f = true → word < icWords f →
        ∃ u, exec (.icPendWrite t f false word value) s = .next u ∧ ∀ n, let v := srcOf s f n
          srcOf u f n = if n / 32 = word ∧ srcExists s f n = true ∧ 2 ≤ v.sense
            then { v with count := if value.getLsbD (n % 32) then max 1 v.count else 0 } else v)
      ∧ (∀ (value : Word), regsLive s = true → ∃ u, exec (.icPendWrite t 0 true 0 value) s = .next u
        ∧ ∀ n, n < 32 → let v := fastOf s n
          fastOf u n = if 2 ≤ v.sense then { v with count := if value.getLsbD n then max 1 v.count else 0 } else v)
      ∧ ∀ (f : Fn) (value : Word), fnLive s f = true → srcExists s f (icFn s f).sel = true →
        ∃ u, exec (.icSrcCfgWrite t f value) s = .next u
          ∧ let v := srcOf s f (icFn s f).sel; let w := srcOf u f (icFn s f).sel; let c := bits value 0 3
            w.insvc = v.insvc ∧ w.edges = v.edges ∧ (6 ≤ c → w.sense = v.sense ∧ w.count = v.count)
            ∧ (c < 6 → w.sense = c ∧ (c ≠ v.sense → w.count = 0) ∧ (c = v.sense → w.count = v.count)))
    ∧ (∀ (t : Time) (s : State) (f : Fn) (offset width : Nat) (value : DWord), accessOk f offset width = true →
      (0x1000 ≤ offset ∧ offset < 0x2000) ∨ (f = 0 ∧ 0xF000 ≤ offset ∧ offset < 0x10000) →
      ∃ u, exec (.registerWrite t f 0 offset width value) s = .next u
        ∧ (∀ g n, (srcOf u g n).edges = (srcOf s g n).edges) ∧ ∀ n, (fastOf u n).edges = (fastOf s n).edges)
    ∧ (∀ v : Src, v.sense = 5 → v.line = false → (sensePulse v).edges = v.edges + 2 ∧ (v.count = 0 → (sensePulse v).count = 2))
    ∧ (∀ (f : Fn) (n : Nat), n < 8736 →
      (srcOf State.reset f n).sense = if f = 0 ∧ (n = 8272 ∨ n = 8405 ∨ n = 8406) then 2 else 0)
    ∧ ∀ n : Nat, (fastOf State.reset n).sense = 2

/-- The delivery of the next ready group marks each of its pending unmasked sources in service, takes 1 from an edge
source's count, clears LOOKED, leaves every other source of the function, and sends the group's message, or sets its
PBA bit where the vector or its function is masked; with no group ready it changes nothing but time. The fast group is
delivered in the same way on PF vector 0. An EOI ends service for every source of its group; a level source whose line
is inactive and that was not looked at counts in VANISHED. A read of an IC_ACTIVE word answers the word and sets
LOOKED on each level source it returns as 1. A hold-off window that has passed is closed. Unmasking a vector sends the
message its PBA bit holds where the function is not masked, and unmasking a function does so for its vectors. The
model's own choices that it touches are log entries 15 and 16. -/
def Obligations.InterruptDelivery : Prop :=
  (∀ (t : Time) (s : State),
      (nextGroup (advance t s) = none → exec (.interruptDelivery t) s = .next (advance t s))
      ∧ (∀ f v, nextGroup (advance t s) = some (f, v) → (sourcesOf s f).Nodup →
        ∃ u, exec (.interruptDelivery t) s = .next u
          ∧ (∀ n, n ∈ groupPending (advance t s) f v → let a := srcOf s f n
            srcOf u f n = { a with insvc := true, looked := false, count := if a.sense < 2 then a.count else a.count - 1 })
          ∧ (∀ n, n ∉ groupPending (advance t s) f v → srcOf u f n = srcOf s f n)
          ∧ (msixMasked s f v = false → u.out = .msix f v :: s.out)
          ∧ (msixMasked s f v = true → u.out = s.out ∧ tabGet false u.ic.pba (vecKey f v) = true))
      ∧ (fastReady (advance t s) = false → exec (.fastDelivery t) s = .next (advance t s))
      ∧ (fastReady (advance t s) = true → ∃ u, exec (.fastDelivery t) s = .next u
        ∧ (∀ n, n ∈ fastPending (advance t s) → let a := fastOf s n
          fastOf u n = { a with insvc := true, looked := false, count := if a.sense < 2 then a.count else a.count - 1 })
        ∧ (∀ n, n ∉ fastPending (advance t s) → fastOf u n = fastOf s n)
        ∧ (msixMasked s 0 0 = false → u.out = .msix 0 0 :: s.out)
        ∧ (msixMasked s 0 0 = true → u.out = s.out ∧ tabGet false u.ic.pba (vecKey 0 0) = true)))
    ∧ (∀ (t : Time) (f : Fn) (value : Word) (s : State), fnLive s f = true → (sourcesOf s f).Nodup →
      let ended := fun (line : Bool) (a b : Src) => b.insvc = false ∧ b.count = a.count ∧ b.edges = a.edges
        ∧ b.vanished = if a.sense < 2 ∧ lineActive a.sense line = false ∧ a.looked = false then satInc a.vanished else a.vanished
      (∃ u, exec (.icEoi t f value) s = .next u ∧ ∀ n, let a := srcOf s f n
        if n ∈ groupSources s f (bits value 0 11) ∧ a.insvc = true then ended (srcLine (advance t s) f n) a (srcOf u f n)
        else srcOf u f n = a)
      ∧ (f = 0 → value.getLsbD 0 = true → ∃ u, exec (.icFEoi t value) s = .next u ∧ ∀ n, n < 32 → let a := fastOf s n
        if a.insvc = true then ended (fastLine (advance t s) n) a (fastOf u n) else fastOf u n = a))
    ∧ (∀ (t : Time) (f : Fn) (s : State), fnLive s f = true →
      (∀ word, word < icWords f → ∃ u, exec (.icActiveRead t f false word) s = .next u
        ∧ u.out = .readValue f (0x1B00 + 4 * word) ((activeWord (advance t s) f word).setWidth 64) :: s.out
        ∧ ∀ n, n / 32 = word → srcExists s f n = true → (srcOf u f n).looked = ((srcOf s f n).looked
            || ((srcOf s f n).insvc && decide ((srcOf s f n).sense < 2) && lineActive (srcOf s f n).sense (srcLine (advance t s) f n))))
      ∧ (f = 0 → ∃ u, exec (.icActiveRead t f true 0) s = .next u
        ∧ u.out = .readValue 0 0xF00C ((fastActiveWord (advance t s)).setWidth 64) :: s.out
        ∧ ∀ n, n < 32 → (fastOf u n).looked = ((fastOf s n).looked
            || ((fastOf s n).insvc && decide ((fastOf s n).sense < 2) && lineActive (fastOf s n).sense (fastLine (advance t s) n)))))
    ∧ (∀ (t : Time) (f : Fn) (v : Nat) (s : State),
      (holding (advance t s) f v = false → ∃ u, exec (.holdoffExpiry t f false v) s = .next u
        ∧ tabGet 0 u.ic.holdEnd (vecKey f v) = 0 ∧ u.ic.srcs = s.ic.srcs)
      ∧ (holding (advance t s) f v = true → exec (.holdoffExpiry t f false v) s = .next (advance t s))
      ∧ (s.ic.fHoldEnd ≤ (advance t s).tb.toNat → ∃ u, exec (.holdoffExpiry t f true v) s = .next u ∧ u.ic.fHoldEnd = 0))
    ∧ ∀ (t : Time) (f : Fn) (v : Nat) (s : State), v < 2048 →
      (∃ u, exec (.msixUnmask t f (some v)) s = .next u ∧ (msixWord u f v 3).getLsbD 0 = false
        ∧ (tabGet false s.ic.fmask f.toNat = false → tabGet false u.ic.pba (vecKey f v) = false
          ∧ (tabGet false s.ic.pba (vecKey f v) = true → u.out = .msix f v :: s.out))
        ∧ (tabGet false s.ic.fmask f.toNat = true → u.out = s.out ∧ u.ic.pba = s.ic.pba))
      ∧ ∃ u, exec (.msixUnmask t f none) s = .next u ∧ tabGet false u.ic.fmask f.toNat = false
        ∧ (tabGet false s.ic.pba (vecKey f v) = true → (msixWord s f v 3).getLsbD 0 = false →
          Sent s u (.msix f v) ∧ tabGet false u.ic.pba (vecKey f v) = false)
        ∧ ((msixWord s f v 3).getLsbD 0 = true → tabGet false u.ic.pba (vecKey f v) = tabGet false s.ic.pba (vecKey f v))

/-- For a queue whose producer is between items, with no flush and no held GAP waiting and the consumer not running:
an item offered whole is accepted when one word more than it needs is free; otherwise it is dropped and counted, and a
GAP item stands for it, or is held when no word is free. Its first words are kept as the item in progress. A consumer
that runs with ring space writes the one item that has waited IDLE as a SHORT batch at the tail, and the tail, the
sequence and at the wrap PHASE advance. A HEAD that would release batches not written is ignored. FLUSH between items
discards the complete items, counts them and leaves a FLUSH_MARK; inside an item it waits, and takes effect at the
item's end. A start sets HEAD, TAIL and the sequence to 0 and PHASE to 1; a stop leaves the consumer STOPPED; a bus
error halts it. No other queue changes. The model's own choices that it touches are log entries 4 and 20. -/
def Obligations.SpillQueues : Prop :=
  ∀ (t : Time) (q : Nat) (s : State), let v := spillOf s q; let tb := (advance t s).tb
    let alone := fun (u : State) => ∀ k, k ≠ q → spillOf u k = spillOf s k
    (v.part = none → v.flush = none → v.gapHeld = none → v.unit.st ≠ .running →
      (∀ words : List DWord, words ≠ [] → words.length ≤ 16 →
        (spillUsed v + words.length + 1 ≤ spillCapacity → ∃ u, exec (.itemOffer t q .whole words) s = .next u ∧ alone u
          ∧ (spillOf u q).queue = v.queue ++ [{ kind := .data, words := words, at_ := tb }]
          ∧ (spillOf u q).items = satInc v.items ∧ (spillOf u q).drop = v.drop)
        ∧ (spillCapacity < spillUsed v + words.length + 1 → v.gapOpen = false →
          ∃ u, exec (.itemOffer t q .whole words) s = .next u ∧ alone u ∧ (spillOf u q).drop = satInc v.drop
            ∧ (spillOf u q).items = v.items
            ∧ if spillUsed v < spillCapacity then (spillOf u q).queue = v.queue ++ [gapItem 1 tb]
              else (spillOf u q).gapHeld = some (1, tb) ∧ (spillOf u q).queue = v.queue)
        ∧ ∃ u, exec (.itemOffer t q .begin_ words) s = .next u ∧ spillOf u q = { v with part := some words } ∧ alone u)
      ∧ (regsLive s = true → ∃ u, exec (.spillFlush t q) s = .next u ∧ alone u
        ∧ (spillOf u q).queue = [{ kind := .mark, words := [tb, BitVec.ofNat 64 (v.queue.length + 0 * 2 ^ 32)], at_ := tb }]
        ∧ (spillOf u q).flushed = satAdd v.flushed v.queue.length ∧ (spillOf u q).flush = none))
    ∧ (∀ l, v.part = some l → v.flush = none → regsLive s = true →
      ∃ u, exec (.spillFlush t q) s = .next u ∧ spillOf u q = { v with flush := some (v.queue.length, false) } ∧ alone u)
    ∧ (∀ n, v.flush = some (n, false) → v.unit.st ≠ .running →
      (v.part = none → ∃ u, exec (.spillFlushEffect t q) s = .next u ∧ (spillOf u q).flush = none ∧ alone u
        ∧ (spillOf u q).flushed = satAdd v.flushed (min n v.queue.length) ∧ (spillOf u q).gapHeld = none
        ∧ (spillOf u q).queue.length = v.queue.length - min n v.queue.length + 1)
      ∧ (∀ l, v.part = some l → exec (.spillFlushEffect t q) s = .next (advance t s)))
    ∧ (∀ i : Item, canBatch v = true → v.queue = [i] → i.words.length ≤ batchWords → v.pushing = false → v.gapHeld = none →
      idleDue (advance t s) v = true →
      ∃ u, exec (.batchIdleTimeout t q) s = .next u ∧ alone u
        ∧ u.out = .batch q (v.base + BitVec.ofNat 64 (4096 * v.tail)) (batchOf q v true [i]) :: s.out
        ∧ (spillOf u q).queue = [] ∧ (spillOf u q).seq = v.seq + 1
        ∧ (spillOf u q).tail = (if v.tail = v.size then 0 else v.tail + 1)
        ∧ (spillOf u q).phase = if v.tail = v.size then !v.phase else v.phase)
    ∧ (∀ value : Word, regsLive s = true → v.unit.st ≠ .running → let n := bits value 0 16
      (n ≤ v.size → (n + (v.size + 1) - v.head) % (v.size + 1) ≤ unreleased v →
        ∃ u, exec (.spillHeadWrite t q value) s = .next u ∧ spillOf u q = { v with head := n } ∧ alone u)
      ∧ (v.size < n ∨ unreleased v < (n + (v.size + 1) - v.head) % (v.size + 1) →
        exec (.spillHeadWrite t q value) s = .next (advance t s)))
    ∧ (regsLive s = true → v.unit.st = .stopped → v.queue = [] → ∃ u, exec (.spillStart t q) s = .next u ∧ alone u
      ∧ spillOf u q = { v with unit := { st := .running, latch := none }, head := 0, tail := 0, seq := 0, phase := true, halted := false })
    ∧ (regsLive s = true → v.unit.st = .running → ∃ u, exec (.spillStop t q) s = .next u ∧ alone u
      ∧ spillOf u q = { v with unit := unitStopped })
    ∧ (v.unit.st = .running → ∃ u, exec (.spillConsumerHalt t q) s = .next u ∧ spillOf u q = { v with halted := true } ∧ alone u)
    ∧ (v.unit.st ≠ .running → exec (.spillConsumerHalt t q) s = .next (advance t s))

/-- With the PLL locked a boundary adds 1 to CE_STROKE_CNT and marks TB. In HOLD every slot with HOLD_ACT 1 has TGT 0.
An armed exchange, with no computation open, swaps OUT, CRIT and HOLD_ACT of the two slots and is no longer armed.
With no exchange armed, the Telltale not STOPPING, the device not in HOLD and no critical slot open: a slot not due at
the new count is unchanged; a due slot whose last computation is still open overruns, its results discarded and OVR
counted; a due STOPPING slot ends its shut-down and sends SAFE; a due slot that must skip reads FROZEN and nothing
else of it changes but its overrun run and its due boundary; every other due slot is ready or waits. A critical slot
with OVR_RUN 2 that overruns latches CRIT as a HOLD cause. A lane takes the first ready slot, which latches its
registers and sources; nothing else changes. The model's own choices that it touches are log entries 26 and 28. -/
def Obligations.StrokeSchedule : Prop :=
  (∀ (t : Time) (s : State), s.gl.locked = true → let n := (s.ce.cnt + 1).toNat
      ∃ u, exec (.strokeBoundary t) s = .next u ∧ u.ce.cnt = s.ce.cnt + 1 ∧ u.ce.tb = (advance t s).tb
        ∧ (s.gl.cur = .hold → s.ce.swap = none → s.tt.unit.st ≠ .stopping → u.ce.holdOn = true
          ∧ ∀ i, bits (slotOf s i).regs.ctl 28 2 = 1 → (slotOf u i).regs.ramp.tgt = 0)
        ∧ (∀ a b copy, s.ce.swap = some (a, b, copy) → a ≠ b → (∀ k, slotOpen s k = false) → s.tt.unit.st ≠ .stopping → u.ce.swap = none
          ∧ (slotOf u a).regs.out = (slotOf s b).regs.out ∧ (slotOf u b).regs.out = (slotOf s a).regs.out
          ∧ slotCrit (slotOf u a) = slotCrit (slotOf s b) ∧ slotCrit (slotOf u b) = slotCrit (slotOf s a)
          ∧ bits (slotOf u a).regs.ctl 28 2 = bits (slotOf s b).regs.ctl 28 2
          ∧ bits (slotOf u b).regs.ctl 28 2 = bits (slotOf s a).regs.ctl 28 2)
        ∧ (s.ce.swap = none → (s.ce.slots.map Prod.fst).Nodup →
          (∀ i, slotCrit (slotOf s i) = true → slotDue n (slotOf s i) = true → slotOpen s i = true → (slotOf s i).ovrRun = 2 →
            u.gl.latched.getLsbD 0 = true)
          ∧ (s.tt.unit.st ≠ .stopping → s.gl.cur ≠ .hold → (∀ k, slotCrit (slotOf s k) = true → slotOpen s k = false) →
            u.ce.swap = none ∧ u.ce.holdOn = false
            ∧ let r := { advance t s with ce := { s.ce with holdOn := false } }
              ∀ i, let v := slotOf s i; let w := slotOf u i
                (slotDue n v = false → w = v)
                ∧ (slotDue n v = true → slotOpen s i = true → w.run = none ∧ w.overrun = true ∧ w.ovr = satInc v.ovr
                  ∧ u.ce.ovrAny.getLsbD i = decide (i < 64) ∧ (v.unit.st ≠ .stopping → w.vals = v.vals))
                ∧ (slotDue n v = true → slotOpen s i = false → v.unit.st = .stopping → w.unit = unitDone v.unit
                  ∧ (v.regs.out.getLsbD 7 = true → bits v.regs.out 0 7 < 96 →
                    Sent s u (.packet (bits v.regs.out 0 7 / 4) (bits v.regs.out 0 7 % 4) v.regs.safe)))
                ∧ (slotDue n v = true → slotOpen s i = false → v.unit.st ≠ .stopping → slotSkips r i = true →
                  w = { v with frozen := true, ovrRun := 0, dueTb := r.tb, dueCnt := n })
                ∧ (slotDue n v = true → v.unit.st ≠ .stopping → slotSkips r i = false → w.frozen = false ∧ w.dueTb = r.tb
                  ∧ w.dueCnt = n ∧ (i ∈ u.ce.ready ∨ ∃ l, (i, l) ∈ u.ce.waiting)))))
    ∧ (∀ (t : Time) (s : State), s.gl.locked = false → exec (.strokeBoundary t) s = .next s)
    ∧ (∀ (t : Time) (s : State), (s.ce.ready = [] → exec (.slotStart t) s = .next (advance t s))
      ∧ ∀ i rest, s.ce.ready = i :: rest → ∃ u l, exec (.slotStart t) s = .next u ∧ u.ce.ready = rest
        ∧ slotOf u i = { slotOf s i with run := some l } ∧ (∀ k, k ≠ i → slotOf u k = slotOf s k)
        ∧ (u.ce.waiting, u.ce.due, u.ce.cnt, u.ce.swap) = (s.ce.waiting, s.ce.due, s.ce.cnt, s.ce.swap)
        ∧ let r := (slotOf s i).regs; let a := advance t s
          l.regs = r ∧ l.vals = (slotOf s i).vals ∧ l.m = srcValue a (bits r.src0 0 16) ∧ l.f = srcValue a (bits r.src0 16 16)
          ∧ l.s1 = srcValue a (bits r.src1 0 16) ∧ l.s2 = srcValue a (bits r.src1 16 16)
          ∧ (s.tt.unit.st ≠ .running → l.injSp = 0 ∧ l.injErr = 0 ∧ l.injOut = 0))

/-- A completed computation of a slot with no section enabled and no learning table leaves y at OMIN to OMAX of the
saturated sum of the gains' terms, e_prev at the saturated error, integ at its clamped update, with the start's rules
for e_prev and BUMPLESS; it counts SEQ, ends the overrun run, sends y to OUT.DEST where DEST_EN is 1, and leaves every
slot but 12 and 13 alone. The last one a STOPPING Telltale waited for stops it. EN 1 starts a STOPPED slot in
CALIBRATE or SERVICE (0 to 23 in SERVICE only): histories, integ and r cleared, ramp_sp from TGT; in any other mode it
is ignored. EN 0 makes a RUNNING slot STOPPING. CE_SWAP with GO arms an exchange. RC_DATA reads or writes the entry at
RC_ADDR, which advances. The model's own choices that it touches are log entry 26. -/
def Obligations.SlotComputation : Prop :=
  (∀ (t : Time) (slot : BitVec 6) (s : State), let i := slot.toNat; let v := slotOf s i
      (v.run = none → exec (.slotComplete t slot) s = .next (advance t s))
      ∧ (∀ l, v.run = some l → s.tt.unit.st ≠ .stopping → (∀ g ∈ l.regs.sects, g.en = false) → l.bin = none →
        let r := l.regs; let g := r.gains
        let spIn := if v.fresh = true ∧ r.ctl.getLsbD 4 = true then l.m * 65536 else l.vals.rampSp
        let x := satN 32 (satN 32 (rne spIn 16 + l.s1 + l.s2 + l.injSp) - l.m + l.injErr)
        let d := x - (if v.fresh = true then x else l.vals.ePrev)
        let w := satN 32 (term g.kp x + rne l.vals.integ 16 + term g.kd d + term g.kff l.f + l.injOut)
        let y := max (i32 r.omin) (min w (i32 r.omax))
        ∃ u, exec (.slotComplete t slot) s = .next u
          ∧ (slotOf u i).vals.y = y ∧ (slotOf u i).vals.ePrev = x
          ∧ (slotOf u i).vals.integ = max (i32 r.imin * 65536)
            (min (satN 48 (l.vals.integ + iterm g.ki x + iterm g.kaw (y - w))) (i32 r.imax * 65536))
          ∧ (slotOf u i).run = none ∧ (slotOf u i).fresh = false ∧ (slotOf u i).ovrRun = 0 ∧ (slotOf u i).seq = v.seq + 1
          ∧ (slotOf u i).unit = (if v.unit.st = .starting then unitDone v.unit else v.unit)
          ∧ (∀ k, k ≠ i → k ≠ 12 → k ≠ 13 → slotOf u k = slotOf s k)
          ∧ (r.out.getLsbD 7 = true → bits r.out 0 7 < 96 → tabGet 0 u.sp.cmd (bits r.out 0 7) = w32 y
            ∧ Sent s u (.packet (bits r.out 0 7 / 4) (bits r.out 0 7 % 4) (w32 y)))
          ∧ (r.out.getLsbD 7 = false → u.sp = s.sp))
      ∧ (∀ l, v.run = some l → l.quiet = true → s.tt.unit.st = .stopping → s.tt.unit.latch = none →
        (∀ k ∈ s.tt.left, k = i) → ∃ u, exec (.slotComplete t slot) s = .next u ∧ u.tt.unit = unitStopped ∧ u.tt.left = []))
    ∧ (∀ (t : Time) (slot : BitVec 6) (value : Word) (s : State), let i := slot.toNat; let v := slotOf s i
      (s.gl.cur = .service ∨ (s.gl.cur = .calibrate ∧ 24 ≤ i) → bits value 24 4 ≤ 8 → bits value 28 2 ≠ 3 →
        (v.unit.st = .stopped → ∃ u, exec (.loopStart t slot value) s = .next u ∧ (∀ k, k ≠ i → slotOf u k = slotOf s k)
          ∧ let w := slotOf u i
            w.unit = { st := .starting, latch := none } ∧ w.regs = { v.regs with ctl := (value &&& 0x3FFFFF1E#32) ||| 1#32 }
            ∧ w.fresh = true ∧ w.vals = { v.vals with hist := List.replicate 8 sectHistZero, integ := 0, rate := 0
                                                      rampSp := i32 v.regs.ramp.tgt * 65536 })
        ∧ (v.unit.st = .running → ∃ u, exec (.loopStop t slot value) s = .next u ∧ (∀ k, k ≠ i → slotOf u k = slotOf s k)
          ∧ slotOf u i = { v with unit := { st := .stopping, latch := none }
                                  regs := { v.regs with ctl := value &&& 0x3FFFFF1E#32 } }))
      ∧ (s.gl.cur ≠ .service → s.gl.cur ≠ .calibrate → exec (.loopStart t slot value) s = .next (advance t s))
      ∧ (s.gl.cur ≠ .service → i < 24 → exec (.loopStart t slot value) s = .next (advance t s)
        ∧ exec (.loopStop t slot value) s = .next (advance t s)))
    ∧ (∀ (t : Time) (value : Word) (s : State), s.gl.cur ≠ .reset → s.gl.cur ≠ .fill →
      ∃ u, exec (.ceSwapWrite t value) s = .next u ∧ u.ce.slots = s.ce.slots
        ∧ (value.getLsbD 31 = true → u.ce.swap = some (bits value 0 6, bits value 8 6, value.getLsbD 16)))
    ∧ ∀ (t : Time) (slot : BitVec 6) (s : State), let i := slot.toNat; let v := slotOf s i
      let next : Slot := { v with vals := { v.vals with rcAddr := (v.vals.rcAddr + 1) % 1024 } }
      (regsLive s = true → ∃ u, exec (.rcDataAccess t slot none) s = .next u ∧ slotOf u i = next
        ∧ u.out = .readValue 0 (0x18098 + 1024 * (i % 32)) ((w32 (tabGet 0 v.vals.table v.vals.rcAddr)).setWidth 64) :: s.out
        ∧ ∀ k, k ≠ i → slotOf u k = slotOf s k)
      ∧ (∀ value : Word, s.gl.cur = .service ∨ (24 ≤ i ∧ s.gl.cur ≠ .reset ∧ s.gl.cur ≠ .fill) →
        ∃ u, exec (.rcDataAccess t slot (some value)) s = .next u
          ∧ (slotOf u i).vals.rcAddr = (v.vals.rcAddr + 1) % 1024 ∧ tabGet 0 (slotOf u i).vals.table v.vals.rcAddr = i32 value
          ∧ (∀ k, k ≠ v.vals.rcAddr → tabGet 0 (slotOf u i).vals.table k = tabGet 0 v.vals.table k)
          ∧ ∀ k, k ≠ i → slotOf u k = slotOf s k)
      ∧ (∀ value : Word, s.gl.cur ≠ .service → i < 24 → exec (.rcDataAccess t slot (some value)) s = .next (advance t s))

/-- A cell of a lane that is not UP does nothing; one whose session is none of the lane's last 8 counts in STALE and
does nothing else. An accepted status cell writes its 60 bytes of the record. A read-sample cell of an active channel
under its epoch moves the channel's front end on by its 80 samples and any that are missing before them; under another
epoch or for a channel that is not active the 80 items count as stale and the front end stops. A lane lost while UP
counts the loss; up to RETRY losses it trains anew under a sleeping entry and a new session, above that it is benched
with CAUSE 5; copies on its channels are doomed and do not count. Failed training benches it. Training with one valid
record on both lanes of the module brings the lane UP and active, with the record taken and, where the serial differs
from the stored one, CHANGED set; with no valid record the module does not answer. The model's own choices that it
touches are log entries 13 and 33. -/
def Obligations.LanesAndCells : Prop :=
  (∀ (t : Time) (lane : BitVec 4) (session : BitVec 12) (cell : BitVec 512) (s : State), let l := lane.toNat; let v := laneOf s l
      (v.st ≠ .up → exec (.readSampleCell t lane session cell) s = .next (advance t s)
        ∧ exec (.servoSampleCell t lane session cell) s = .next (advance t s)
        ∧ exec (.headStatusCell t lane session cell) s = .next (advance t s))
      ∧ (v.st = .up → (∀ h ∈ v.hist, h.1 ≠ session) →
        let u := setLane l { v with stale := satInc v.stale } (advance t s)
        exec (.readSampleCell t lane session cell) s = .next u ∧ exec (.servoSampleCell t lane session cell) s = .next u
        ∧ exec (.headStatusCell t lane session cell) s = .next u)
      ∧ (v.st = .up → ∀ tag, tagOf s l session (1188 + l) = some tag → cellType cell = 3 → itemAccepted s (1188 + l) tag = true →
        ∃ u, exec (.headStatusCell t lane session cell) s = .next u ∧ u.lk.lanes = s.lk.lanes ∧ u.lk.heads = s.lk.heads
          ∧ ∀ k, tabGet 0 u.lk.status k =
            let o := 60 * cellField cell 16 12
            if 2048 * l + o ≤ k ∧ k < 2048 * l + min 2048 (o + 60)
              then BitVec.ofNat 8 (bits cell (472 - 8 * (k - (2048 * l + o))) 8) else tabGet 0 s.lk.status k)
      ∧ (v.st = .up → let e := 64 * l + cellField cell 22 6; ∀ tag, tagOf s l session e = some tag → cellType cell = 1 →
        (itemAccepted s e tag = true → (crewOf s e).st = .active → frontRuns s = true →
          ∃ u f, exec (.readSampleCell t lane session cell) s = .next u ∧ frontOf u e = some f
            ∧ let n := match frontOf s e with | some g => g.n | none => cellField cell 0 22
              f.n = n + (cellField cell 0 22 + 2 ^ 22 - n % 2 ^ 22) % 2 ^ 22 + 80)
        ∧ (itemAccepted s e tag = false ∨ (crewOf s e).st ≠ .active →
          ∃ u, exec (.readSampleCell t lane session cell) s = .next u ∧ frontOf u e = none
            ∧ tabGet 0 u.crew.stale (rosterClass e) = satAdd (tabGet 0 s.crew.stale (rosterClass e)) 80)))
    ∧ (∀ (t : Time) (lane : BitVec 4) (s : State), let l := lane.toNat; let v := laneOf s l
      (v.st ≠ .up → exec (.laneLoss t lane) s = .next (advance t s))
      ∧ (v.st = .up → ∃ u, exec (.laneLoss t lane) s = .next u ∧ (laneOf u l).losses = v.losses + 1
        ∧ (∀ c ∈ u.wr.copies, c.elem / 64 = l → c.doomed = true ∧ c.counts = false)
        ∧ (v.losses + 1 ≤ bits s.lk.ctl 0 4 → (laneOf u l).st = .training ∧ (laneOf u l).phase = 1
          ∧ (crewOf u (1188 + l)).st = .sleeping
          ∧ ((crewOf s (1188 + l)).st = .active → (laneOf u l).session = v.session + 1 ∧ (crewOf u (1188 + l)).epoch = (crewOf s (1188 + l)).epoch + 1))
        ∧ (bits s.lk.ctl 0 4 < v.losses + 1 → (laneOf u l).st = .down ∧ (crewOf u (1188 + l)).st = .benched
          ∧ ((crewOf s (1188 + l)).st ≠ .benched → (crewOf u (1188 + l)).cause = 5))))
    ∧ ∀ (t : Time) (lane : BitVec 4) (lower upper : List Byte) (s : State), let l := lane.toNat; let v := laneOf s l; let m := l / 2
      (v.st ≠ .training → ∀ ok, exec (.laneTrainingDone t lane ok lower upper) s = .next (advance t s))
      ∧ (v.st = .training → (∃ u, exec (.laneTrainingDone t lane false lower upper) s = .next u ∧ (laneOf u l).st = .down
          ∧ (crewOf u (1188 + l)).st = .benched)
        ∧ (upper = lower → ∃ u, exec (.laneTrainingDone t lane true lower upper) s = .next u
          ∧ if recordOk lower = true then (laneOf u l).st = .up ∧ (laneOf u l).phase = 4 ∧ (crewOf u (1188 + l)).st = .active
              ∧ (headOf u m).valid = true ∧ (headOf u m).serial = recordSerial lower ∧ (headOf u m).record = lower.take 1044
              ∧ (recordSerial lower ≠ (headOf s m).stored → (headOf u m).changed = true ∧ (headOf u m).stored = recordSerial lower)
            else (headOf u m).valid = false ∧ (headOf u m).noAnswer = true ∧ (crewOf u (1188 + l)).st = .benched))

/-- An accepted servo cell moves a searching or tracking reader's sample index on to its last sample. When the window
of burst C closes forward with exactly 3 crossings after valid bursts A and B, the reader gives sample AB; with any
other number it counts a miss, and at MISS_MAX misses it is LOST. The combiner takes a module sample once each
tracking reader of the module has given or missed it: both given, y = (yL + yU)/2 rounded down and m = yU − yL, held;
one given, that y corrected by half the held mismatch, SINGLE; none, not valid. It publishes e = set-point − y. The
write gate opens only with servo, |e| below THRESH, |m| below MISMATCH, four samples below THRESH/2, outside HOLD and
not at a closing's TB. A servo-loss condition of R284 that holds is a HOLD cause; one that does not hold changes
nothing more. The model's own choices that it touches are log entries 24 and 46. -/
def Obligations.ServoSamples : Prop :=
  (∀ (t : Time) (reader : BitVec 4) (session : BitVec 12) (cell : BitVec 512) (s : State), let n := reader.toNat
      let q := servoSpeed (advance t s); let r := servoRd q n
      (∀ tag, (laneOf s n).st = .up → tagOf s n session (1204 + n) = some tag → cellType cell = 2 →
        itemAccepted s (1204 + n) tag = true → r.st ≠ .idle →
        ∃ u, exec (.servoSampleCell t reader session cell) s = .next u ∧ (servoRd u n).sidx = (cellField cell 0 22 + 7) % 2 ^ 22
          ∧ (servoRd u n).wave.head? = some (cellSample cell 8 7))
      ∧ (r.st ≠ .track ∨ 4 * q.tb.toNat < r.winTo → exec (.burstWindowClose t reader) s = .next q)
      ∧ (∀ a b ka kb rest, r.st = .track → r.winTo ≤ 4 * q.tb.toNat → r.dir = false → r.nextB = 2 →
        r.bursts = (1, some b, kb) :: (0, some a, ka) :: rest →
        let c := r.cross.filter fun x => decide (r.winFrom ≤ x) && decide (x < r.winTo)
        ∃ u, exec (.burstWindowClose t reader) s = .next u ∧ let w := servoRd u n
          (c.length = 3 → w.st = .track ∧ w.y = sampleAB a b c ka ∧ w.giveAB = some (some w.y) ∧ w.seq = r.seq + 1 ∧ w.miss = r.miss
            ∧ w.run = 0 ∧ w.nextB = 3 ∧ w.cross = r.cross.filter fun x => decide (r.winTo ≤ x))
          ∧ (c.length ≠ 3 → w.miss = satInc r.miss ∧ w.seq = r.seq ∧ w.y = r.y
            ∧ (bits r.ctl 8 4 ≤ r.run + 1 → w.st = .lost)
            ∧ (r.run + 1 < bits r.ctl 8 4 → w.st = .track ∧ w.run = r.run + 1 ∧ w.giveAB = some none))))
    ∧ (∀ (t : Time) (mod : BitVec 3) (kind : SampleKind) (s : State), let k := mod.toNat; let v := servoMod s k
      let lo := 2 * k; let hi := 2 * k + 1
      let give := fun n => if kind = .ab then (servoRd s n).giveAB else (servoRd s n).giveCD
      let val := fun n => if readerTracks s n = true then (give n).getD none else none
      let sampled := fun (y m h : Int) (one : Bool) => ∃ u, exec (.moduleSample t mod kind) s = .next u
        ∧ (∀ j, j ≠ k → servoMod u j = servoMod s j)
        ∧ let w := servoMod u k
          w.y = y ∧ w.m = m ∧ w.held = h ∧ w.single = one ∧ w.valid = true ∧ w.seq = v.seq + 1
          ∧ w.err = satN 32 (fineTarget s k - y)
      (hasServo s k = true → (∀ n, n = lo ∨ n = hi → readerTracks s n = true → give n ≠ none) →
        (∀ a b, val lo = some a → val hi = some b → sampled ((a + b) / 2) (satN 32 (b - a)) (satN 32 (b - a)) false)
        ∧ (∀ a, val lo = some a → val hi = none → sampled (satN 32 (a + v.held / 2)) v.m v.held true)
        ∧ (∀ b, val lo = none → val hi = some b → sampled (satN 32 (b - v.held / 2)) v.m v.held true)
        ∧ (val lo = none → val hi = none → ∃ u, exec (.moduleSample t mod kind) s = .next u
          ∧ (servoMod u k).valid = false ∧ (servoMod u k).y = v.y ∧ (servoMod u k).seq = v.seq))
      ∧ ((∃ n, (n = lo ∨ n = hi) ∧ readerTracks s n = true ∧ give n = none) →
        exec (.moduleSample t mod kind) s = .next (advance t s)))
    ∧ (∀ (t : Time) (mod : BitVec 3) (bit : BitVec 20) (s : State), let k := mod.toNat; let v := servoMod s k
      let ok := v.gate = false ∧ s.gl.cur ≠ .hold ∧ hasServo s k = true ∧ v.err.natAbs < bits v.wi 0 16
        ∧ v.m.natAbs < 256 * bits v.limit 16 16 ∧ v.good.length = 4 ∧ (∀ e ∈ v.good, 2 * e < bits v.wi 0 16)
        ∧ v.closing ≠ some (advance t s).tb
      (ok → ∃ u, exec (.writeGateOpen t mod bit) s = .next u ∧ servoMod u k = { v with gate := true }
        ∧ (∀ j, j ≠ k → servoMod u j = servoMod s j)
        ∧ let cell := controlCell 2 0 (BitVec.ofNat 480 (bit.toNat * 2 ^ 460))
          u.out = .cell (2 * k + 1) cell :: .cell (2 * k) cell :: s.out)
      ∧ (¬ok → exec (.writeGateOpen t mod bit) s = .next (advance t s)))
    ∧ ∀ (t : Time) (cond : ServoLoss) (s : State), let q := servoSpeed (advance t s)
      let past := fun (o : Option Time) (n : Nat) => ∃ a, o = some a ∧ a.toNat + n ≤ q.tb.toNat
      let holds := lateralMode q = true ∧ ∃ v, q.sv.speedAt = some v ∧ match cond with
        | .lostHold m => past (servoMod q m.toNat).lostAt (bits q.sv.loss 0 8 * 16000)
        | .modHold => bits q.sv.loss 8 4 ≤ ((List.range 8).filter fun k => (servoMod q k).lostAt.isSome).length
        | .acqHold m => hasServo q m.toNat = false ∧ (servoMod q m.toNat).lostAt = none
            ∧ v.toNat + bits q.sv.loss 16 8 * 1600000 ≤ q.tb.toNat
        | .offTrack m => 3 ≤ (servoMod q m.toNat).off
      (holds → cond ∉ q.sv.bad → ∃ u, exec (.servoLossLimit t cond) s = .next u ∧ u.gl.cur = .hold
        ∧ u.gl.latched = q.gl.latched ||| 16#7)
      ∧ (¬holds ∨ cond ∈ q.sv.bad → exec (.servoLossLimit t cond) s = .next q)

/-- An intact packet with a right CRC on a link in sync sets its measurement word to the corrected value, SAT when a
step saturates, or reports a control packet as event 0x18; a damaged packet counts in SP_ERR; on a link out of sync
nothing happens. Loss of an enabled link counts, sets LIVE_SHEET and is a HOLD cause; loss of a disabled link only
shows in sync. LIVE_SHEET clears once every enabled link has been in sync for 1 ms. A refresh sends each of the four
words of each enabled link. An encoder edge on one line counts one up or down modulo 2^32, on both lines an error; the
first index pulse sets the count to 0 and IDX, a later one moves it to the nearest multiple of CPR and counts that.
MOVING becomes 1 at an edge while the test of R20 fails and 0 when the tape is at rest. A GPI edge sets the pin's
accepted level. The model's own choices that it touches are log entry 22. -/
def Obligations.SheetPortLinks : Prop :=
  (∀ (t : Time) (link : BitVec 5) (code : BitVec 3) (data : BitVec 32) (crc : Byte) (intact : Bool) (s : State),
      let n := link.toNat; let k := code.toNat; let w := 4 * n + k
      (linkInSync s n = false → exec (.sheetPacketReceive t link code data crc intact) s = .next (advance t s))
      ∧ (n < 24 → k ≤ 4 → linkInSync s n = true →
        (intact = false ∨ crc ≠ crc8 (BitVec.ofNat 8 k :: natLe 4 data.toNat) →
          ∃ u, exec (.sheetPacketReceive t link code data crc intact) s = .next u ∧ u.sp.meas = s.sp.meas
            ∧ bits u.sp.err 0 16 = min 65535 (bits s.sp.err 0 16 + 1) ∧ bits u.sp.err 16 16 = bits s.sp.err 16 16)
        ∧ (intact = true → crc = crc8 (BitVec.ofNat 8 k :: natLe 4 data.toNat) →
          (k < 4 → let off := i32 (tabGet 0 s.sp.cal (2 * w)); let gain := (tabGet 0x40000000#32 s.sp.cal (2 * w + 1)).toNat
            let a := rne ((i32 data - off) * gain) 30
            let b := term (tabGet coefZero s.sp.nom w) (satN 32 a)
            ∃ u, exec (.sheetPacketReceive t link code data crc intact) s = .next u ∧ tabGet 0 u.sp.meas w = satN 32 b
              ∧ (∀ j, j ≠ w → tabGet 0 u.sp.meas j = tabGet 0 s.sp.meas j)
              ∧ u.sp.err = if satN 32 a = a ∧ satN 32 b = b then s.sp.err else s.sp.err ||| 0x80000000#32)
          ∧ (k = 4 → exec (.sheetPacketReceive t link code data crc intact) s
              = .next (event 0 0 0x18 [BitVec.ofNat 64 (n + bits data 0 8 * 2 ^ 8 + bits data 8 24 * 2 ^ 24)] (advance t s)))))
      ∧ (n < 24 → s.gl.locked = true → ∃ u, exec (.sheetLinkSync t link) s = .next u
        ∧ (∀ j, j < 24 → linkInSync u j = (decide (j = n) || linkInSync s j))
        ∧ u.sp.allUp = if linksUp u = true then some (s.sp.allUp.getD (advance t s).tb) else none)
      ∧ (n < 24 → linkInSync s n = true → ∃ u, exec (.sheetLinkLoss t link) s = .next u
        ∧ (∀ j, j < 24 → linkInSync u j = (!decide (j = n) && linkInSync s j))
        ∧ (linkEnabled s n = false → u.gl = s.gl ∧ u.sp.err = s.sp.err)
        ∧ (linkEnabled s n = true → u.gl.liveSheet = true ∧ u.gl.latched = s.gl.latched ||| 8#7 ∧ u.sp.allUp = none
          ∧ bits u.sp.err 16 8 = min 255 (bits s.sp.err 16 8 + 1)
          ∧ (s.gl.cur ≠ .reset → s.gl.cur ≠ .fill → u.gl.cur = .hold))))
    ∧ (∀ (t : Time) (s : State),
      (∀ a, s.sp.allUp = some a → linksUp s = true → a.toNat + 1600000 ≤ (advance t s).tb.toNat →
        ∃ u, exec (.sheetLinkStable t) s = .next u ∧ u.gl = { s.gl with liveSheet := false } ∧ u.sp = s.sp)
      ∧ (s.sp.allUp = none → exec (.sheetLinkStable t) s = .next (advance t s))
      ∧ (s.gl.locked = true → ∃ u, exec (.sheetRefresh t) s = .next u
        ∧ ∃ l, u.out = l ++ s.out ∧ l.length = 4 * ((List.range 24).filter (linkEnabled s)).length
          ∧ ∀ n i, n < 24 → i < 4 → linkEnabled s n = true → .packet n i (tabGet 0 s.sp.cmd (4 * n + i)) ∈ l)
      ∧ (tapeRests (advance t s) = true → ∃ u, exec (.tapeAtRest t) s = .next u ∧ u.gl.moving = false
        ∧ u.sm.hitch = (if s.sm.hitch = .stopping then .waiting else s.sm.hitch) ∧ u.sp = s.sp)
      ∧ (tapeRests (advance t s) = false → exec (.tapeAtRest t) s = .next (advance t s)))
    ∧ (∀ (t : Time) (enc : BitVec 1) (a b : Bool) (s : State), let x := enc.toNat; let v := encOf s x
      (s.gl.cur ≠ .reset → s.gl.cur ≠ .fill → ∃ u, exec (.encoderEdge t enc a b) s = .next u ∧ let w := encOf u x
        w.a = a ∧ w.b = b ∧ (∀ y, y ≠ x → encOf u y = encOf s y)
        ∧ (tapeRests u = false → u.gl.moving = true) ∧ (tapeRests u = true → u.gl.moving = s.gl.moving)
        ∧ (v.a = a ∧ v.b = b → w = v ∧ u.sp.encErr = s.sp.encErr)
        ∧ (v.a ≠ a ∧ v.b ≠ b → w.count = v.count ∧ bits u.sp.encErr 16 16 = min 65535 (bits s.sp.encErr 16 16 + 1))
        ∧ (v.a = a ∧ v.b ≠ b ∨ v.a ≠ a ∧ v.b = b → u.sp.encErr = s.sp.encErr ∧ w.edges.head? = some ((advance t s).tb, w.count)
          ∧ let forward := (quadPlace a b + 4 - quadPlace v.a v.b) % 4 = 1
            w.count = (v.count + if (decide forward == Config.encLeadsUp) != s.sp.encCtl.getLsbD (16 + x) then 1 else -1) % 2 ^ 32))
      ∧ (s.gl.cur ≠ .reset → s.gl.cur ≠ .fill → ∃ u, exec (.encoderIndex t enc) s = .next u ∧ let w := encOf u x
        w.idx = true ∧ (v.idx = false → w.count = 0 ∧ u.sp.encErr = s.sp.encErr)
        ∧ (v.idx = true → let c := v.cpr.toNat; let r := v.count.toNat % c
          (r = 0 → w = v ∧ u.sp.encErr = s.sp.encErr)
          ∧ (r ≠ 0 → bits u.sp.encErr 0 16 = min 65535 (bits s.sp.encErr 0 16 + 1)
            ∧ (2 * r < c → w.count = (v.count.toNat / c * c : Nat))
            ∧ (c < 2 * r → w.count = ((v.count.toNat / c * c + c) % 2 ^ 32 : Nat)))))
      ∧ (s.gl.cur = .reset → exec (.encoderEdge t enc a b) s = .next (advance t s)
        ∧ exec (.encoderIndex t enc) s = .next (advance t s)))
    ∧ ∀ (t : Time) (pin : BitVec 5) (level : Bool) (s : State), s.gl.locked = true →
      ∃ u, exec (.gpiEdge t pin level) s = .next u
        ∧ ∀ p, p < 32 → u.sp.gpi.getLsbD p = if p = pin.toNat then level else s.sp.gpi.getLsbD p

/-- With no burst under way, data that needs tape and nothing in the way, WRITE_SESSION_START makes its partition the
one written, at the smallest reef point up to REEF_MAX that carries its demand, in WRITE where the head stands at the
partition's next block and in LOCATE toward it otherwise; with a die not running it wakes the dies. At a dispatch
point in WRITE the first 8 rows of a block hold its 992 codewords each, row by row in track order. Behind them a
queued eligible codeword goes out in a rewrite row on a track that rewrites do not avoid, not the track whose copy
failed where another is free, and leaves the queue; with an empty queue and a next set the block's separator follows.
The next set starts with a separator and row 0 of its block. Outside WRITE, in a backhitch or with no partition
nothing is dispatched. The model's own choices that it touches are log entries 8, 29 and 30. -/
def Obligations.WritingRows : Prop :=
  (∀ (t : Time) (s : State),
      (s.wr.part = none ∨ s.gl.cur ≠ .write ∨ s.sm.hitch ≠ .none → exec (.rowDispatch t) s = .next (advance t s))
      ∧ (∀ p, s.wr.part = some p → s.gl.cur = .write → s.sm.hitch = .none →
        (∀ b, s.wr.block = some b → b.rows < 8 → ∃ u, exec (.rowDispatch t) s = .next u
          ∧ u.out = .row b.set.part b.set.dsn b.rows ((List.range 992).map fun k =>
              rowFrameBits b b.rows { track := k, set := b.set, attempt := b.attempt, cw := 992 * b.rows + k }) :: s.out
          ∧ u.wr.block = some { b with rows := b.rows + 1, sep := false } ∧ u.wr.queue = s.wr.queue ∧ u.wr.sets = s.wr.sets
          ∧ u.wr.copies.length = s.wr.copies.length + 992)
        ∧ (∀ b, s.wr.block = some b → 8 ≤ b.rows → b.sep = false → s.wr.queue = [] → goesOn (advance t s) p = true →
          ∃ u, exec (.rowDispatch t) s = .next u ∧ u.out = .separator p b.set.dsn :: s.out ∧ u.wr.block = some { b with sep := true }
            ∧ u.wr.pos = b.at_ + b.rows * rowLen + sepLen ∧ u.wr.copies = s.wr.copies)
        ∧ (∀ b q track, s.wr.block = some b → 8 ≤ b.rows → b.rows < 64 → b.sep = false → s.wr.queue = [q] →
          eligible (advance t s) b q = true → (∀ r ∈ s.wr.sets, r.rewrites < 248) → rowFits s b = true →
          track < 992 → trackAvoided s track = false → ∃ u frames r k, exec (.rowDispatch t) s = .next u
            ∧ u.out = .row b.set.part b.set.dsn b.rows frames :: s.out ∧ frames.length = 992 ∧ runOf s q.dsn = some r
            ∧ rowFrameBits b b.rows { track := k, set := r.set, attempt := r.attempt, cw := q.cw } ∈ frames
            ∧ k < 992 ∧ trackAvoided s k = false ∧ (track ≠ q.track → k ≠ q.track)
            ∧ u.wr.queue = [] ∧ u.wr.block = some { b with rows := b.rows + 1 } ∧ u.fm.rewrites = satAdd s.fm.rewrites 1)
        ∧ (∀ d a s1 x, s.wr.block = none → lanesUp s = true → takeNext p (advance t s) = some (d, a, s1) →
          beginAt (partOf s p) 25 (partOf s p).at_ = some x →
          ∃ u frames b, exec (.rowDispatch t) s = .next u ∧ Sent s u (.separator p d.dsn) ∧ Sent s u (.row d.part d.dsn 0 frames)
            ∧ frames.length = 992 ∧ u.wr.block = some b ∧ b.set = d ∧ b.attempt = a ∧ b.rows = 1 ∧ b.sep = false)))
    ∧ ∀ (t : Time) (hk : HkWrite) (s : State) (p : Nat), let a := advance t s; let v := partOf s p
      s.gl.cur ≠ .reset → s.gl.cur ≠ .fill → s.gl.cur ≠ .hold → (s.gl.cur = .idle → s.gl.moving = false) → s.wr.part = none →
      freeToWrite s = true → calReq s = false → serviceLasts s = false → writeNext a = some p →
      (diesRun s = true → (if s.wr.images.isEmpty then packSession v else 0) ≤ s.vol.hwm →
        ∃ u, exec (.writeSessionStart t hk) s = .next u ∧ u.wr.part = some p ∧ u.wr.block = none ∧ u.wr.ord = 0
          ∧ u.wr.ending = v.session.isNone ∧ u.sm.trim = 0 ∧ u.sm.hitch = .none
          ∧ u.sm.reef ≤ reefMax s ∧ (∀ k, k < u.sm.reef → reefCarries s (demandOf s p) (parityOf s v) k = false)
          ∧ (u.sm.reef < reefMax s → reefCarries s (demandOf s p) (parityOf s v) u.sm.reef = true)
          ∧ (headAt a v.at_ = true → u.gl.cur = .write)
          ∧ (headAt a v.at_ = false → u.gl.cur = .locate ∧ u.rdr.locate = some (v.at_, 0)))
      ∧ (diesRun s = false → exec (.writeSessionStart t hk) s = .next (wakeDies a))

/-- A waiting tape resumes, at the reef point fixed at the underrun, once no lane is down and either a lane stop is
over or the backlog has reached RESUME, a close point is pending or sets wait to be written; it waits otherwise. In
READ or VERIFY the tape stops when the read backlog reaches RD_AHEAD. Each demand update moves D of every partition by
a thousandth of its distance from the bytes of the last millisecond. The end of a reef ramp allows the next step and
changes nothing else. A wrap change sets the wrap, clears the per-wrap loss counts of lanes and readers, drops the
front ends, reloads the zone tables and sets TGT of each fine slot to Y0 + wrap · 102,400. When the read-wait limit
expires in READ or VERIFY with write data due, the reads on their path wait again from that instant; elsewhere, with a
read overdue, every write session ends. The model's own choices that it touches are log entries 37 and 38. -/
def Obligations.TapePacing : Prop :=
  (∀ (t : Time) (s : State), let a := advance t s
      (∀ p, s.sm.hitch = .waiting → s.wr.part = some p → lanesUp s = true →
        (s.sm.laneStop = true ∨ bits s.sm.resume 0 12 ≤ backlog (partOf s p) ∨ closePending (partOf s p) = true
          ∨ finishDue (partOf s p) = true ∨ s.wr.again ≠ [] ∨ s.wr.images ≠ [] →
          exec (.tapeResume t) s = .next { a with sm := { s.sm with hitch := .none, laneStop := false, reef := s.sm.resumeK } })
        ∧ (s.sm.laneStop = false → backlog (partOf s p) < bits s.sm.resume 0 12 → closePending (partOf s p) = false →
          finishDue (partOf s p) = false → s.wr.again = [] → s.wr.images = [] → exec (.tapeResume t) s = .next a))
      ∧ (s.sm.hitch ≠ .waiting ∨ lanesUp s = false → exec (.tapeResume t) s = .next a)
      ∧ (s.gl.cur = .read ∨ s.gl.cur = .verify →
        (bits s.sm.resume 16 12 ≤ readBacklog s → exec (.readAheadStop t) s = .next { a with sm := { s.sm with readStop := true } })
        ∧ (readBacklog s < bits s.sm.resume 16 12 → exec (.readAheadStop t) s = .next a))
      ∧ (s.gl.cur ≠ .read → s.gl.cur ≠ .verify → exec (.readAheadStop t) s = .next a)
      ∧ (s.gl.cur ≠ .reset → s.gl.cur ≠ .fill → s.vol.loaded = true → (s.vol.parts.map Prod.fst).Nodup →
        ∃ u, exec (.demandUpdate t) s = .next u ∧ (∀ p, (∀ x ∈ s.vol.parts, x.1 ≠ p) → demandOf u p = demandOf s p)
          ∧ ∀ x ∈ s.vol.parts, let n : Int := packableBytes x.2; let d : Int := demandOf s x.1
            (demandOf u x.1 : Int) = max 0 (d + (max 0 (n - tabGet 0 s.sm.inMs x.1) * 1000 * 2 ^ 20 - d) / 1000)
            ∧ tabGet 0 u.sm.inMs x.1 = n)
      ∧ exec (.reefRampDone t) s = .next { a with sm := { s.sm with ramp := false } }
      ∧ (∀ wrap, wrap < 24 → s.gl.cart = true → ∃ u, exec (.wrapChange t wrap) s = .next u ∧ u.sv.wrap = wrap
        ∧ (∀ l, l < 16 → (laneOf u l).losses = 0 ∧ (laneOf u l).st = (laneOf s l).st ∧ (servoRd u l).lostN = 0
          ∧ (servoRd u l).st = (servoRd s l).st)
        ∧ u.rch.fronts = [] ∧ u.rch.working = [] ∧ u.rch.sums = []
        ∧ (∀ k, k < 8 → (slotOf s k).regs ≠ slotRegsDefault →
          (slotOf u k).regs.ramp.tgt = w32 (i32 (tabGet 0xFFEE0800#32 s.sv.y0 k) + 102400 * wrap))
        ∧ ∀ k, 8 ≤ k → slotOf u k = slotOf s k)
      ∧ (∀ wrap, 24 ≤ wrap ∨ s.gl.cart = false → exec (.wrapChange t wrap) s = .next a)
      ∧ ((s.gl.cur = .read ∨ s.gl.cur = .verify) → writeDue s = true → ∃ u, exec (.readWaitExpiry t) s = .next u
        ∧ ∀ ref c, findCmd s ref = some c → findCmd u ref =
          some (if c.stage = .chosen ∧ (eOpcode c.entry = 2 ∨ eOpcode c.entry = 3) then { c with stage := .queued, mark := a.tb } else c))
      ∧ (s.gl.cur ≠ .read → s.gl.cur ≠ .verify →
        (readOverdue a = true → anySession s = true → ∃ u, exec (.readWaitExpiry t) s = .next u
          ∧ (∀ x ∈ s.vol.parts, (partOf u x.1).session = none) ∧ u.wr.ending = s.wr.part.isSome ∧ u.hq = s.hq)
        ∧ (readOverdue a = false ∨ anySession s = false → exec (.readWaitExpiry t) s = .next a)))

/-- A result within its window that meets R212 and R213, on a copy neither doomed nor gated, resolves the codeword;
with the 7,936th the data set is settled and joins those its partition holds on tape. A result that does not, or one
of a doomed or gated copy, counts in VFY_FAIL and the channel's FAILS, enters the benching window where the copy
counts, and queues the codeword for a rewrite unless it is resolved already or the block seven on was its last chance.
A result outside its window, and the end of the window with no result, count in VFY_LATE and do the same but for the
benching window. A run of fails that reaches FAIL_RUN benches the channel with CAUSE 1 where its module has a spare
left, and makes it degraded otherwise. In each case the copy is awaited no more. A copy that is not awaited changes
nothing. The model's own choices that it touches are log entry 30. -/
def Obligations.VerifyOutcomes : Prop :=
  ∀ (t : Time) (id : Nat) (s : State), let now := (advance t s).tb.toNat
    ((∀ c ∈ s.wr.copies, c.id ≠ id) → (∀ obs, exec (.verifyResult t id obs) s = .next (advance t s))
      ∧ exec (.verifyDeadline t id) s = .next (advance t s))
    ∧ ∀ c r, (s.wr.copies.find? fun x => x.id == id) = some c → c.cw ≠ fillerCw → runOf s c.dsn = some r → c.cw ∉ r.passed →
      let e := elemOf s c.elem
      let queued := fun (u : State) => ∃ q ∈ u.wr.queue, q.dsn = c.dsn ∧ q.cw = c.cw ∧ q.track = c.track ∧ q.lane = c.lane ∧ q.tb.toNat = now
      let gone := fun (u : State) => ∀ x ∈ u.wr.copies, x.id ≠ id
      let late := fun (u : State) => gone u ∧ u.fm.vfyLate = satInc s.fm.vfyLate ∧ u.fm.vfyFail = s.fm.vfyFail
        ∧ (elemOf u c.elem).fails = satInc e.fails ∧ (elemOf u c.elem).run = e.run ∧ (elemOf u c.elem).window = e.window
        ∧ (c.block ≠ c.dsn + 7 → queued u)
      (c.first.toNat ≤ now → now < c.first.toNat + c.window →
        exec (.verifyDeadline t id) s = .next (advance t s)
        ∧ ∀ obs : VerifyObs,
          let passes := obs.syncFound = true ∧ obs.hdrDecoded = true ∧ obs.hdrFixed ≤ 2 ∧ obs.hdrEqual = true ∧ obs.converged = true
            ∧ obs.bitsEqual = true ∧ obs.weak ≤ c.limits.weakMax
          (passes ∧ c.doomed = false ∧ c.gated = false → ∃ u, exec (.verifyResult t id obs) s = .next u ∧ gone u
            ∧ u.fm.vfyFail = s.fm.vfyFail ∧ u.wr.queue = s.wr.queue
            ∧ (c.counts = true → (elemOf u c.elem).run = 0 ∧ (elemOf u c.elem).window = (false :: e.window).take 256)
            ∧ (r.passed.length + 1 ≠ 7936 → runOf u c.dsn = some { r with passed := c.cw :: r.passed })
            ∧ (r.passed.length + 1 = 7936 → ∃ d ∈ (partOf u r.set.part).placed, d.dsn = r.set.dsn ∧ d.at_ = r.at_ ∧ d.kind = r.set.kind
              ∧ d.session = r.set.session ∧ d.first = r.set.first ∧ d.next = r.set.next))
          ∧ (¬passes ∨ c.doomed = true ∨ c.gated = true → ∃ u, exec (.verifyResult t id obs) s = .next u ∧ gone u
            ∧ u.fm.vfyFail = satInc s.fm.vfyFail ∧ u.fm.vfyLate = s.fm.vfyLate ∧ (elemOf u c.elem).fails = satInc e.fails
            ∧ (c.counts = true → c.gated = false → (elemOf u c.elem).run = e.run + 1 ∧ (elemOf u c.elem).window = (true :: e.window).take 256)
            ∧ (c.block ≠ c.dsn + 7 → queued u)
            ∧ (c.counts = true → c.gated = false → c.limits.failRun ≠ 0 → c.limits.failRun ≤ e.run + 1 → (crewOf s c.elem).st = .active →
              e.degraded = false →
              if spareLeft s (c.elem / 128) then (crewOf u c.elem).st = .benched ∧ (crewOf u c.elem).cause = 1
              else (elemOf u c.elem).degraded = true ∧ crewOf u c.elem = crewOf s c.elem)))
      ∧ (now < c.first.toNat ∨ c.first.toNat + c.window ≤ now → ∀ obs, ∃ u, exec (.verifyResult t id obs) s = .next u ∧ late u)
      ∧ (c.first.toNat + c.window ≤ now → ∃ u, exec (.verifyDeadline t id) s = .next u ∧ late u)

/-- A free active engine of a die takes the first frame of its queue under the engine's epoch; the budget of a frame
that is read is cut from HIGH frames on until fewer than LOW are held, and counted. When a decode ends the engine is
free; under an old epoch the result only counts as stale; a frame that verifies writing is judged elsewhere; a frame
of which no alignment passes counts as lost; one whose alternative wins counts in ALT; in READ or VERIFY a decoded
codeword of a set that is gathered joins it. No header over two nominal data-set lengths makes the tape blank from the
last one on; outside the modes that sense it, or before that, nothing happens. The model's own choices that it touches
are log entries 33 and 35. -/
def Obligations.DecodeEngines : Prop :=
  (∀ (t : Time) (die : BitVec 2) (engine : BitVec 5) (s : State), let d := die.toNat; let k := 32 * d + engine.toNat
      let c := crewOf s (decodeUnit k)
      (dieQueue s d = [] ∨ c.st ≠ .active ∨ (∃ x ∈ s.rch.engines, x.1 = k) →
        exec (.frameDecodeStart t die engine) s = .next (advance t s))
      ∧ (∀ job rest, dieQueue s d = job :: rest → c.st = .active → (∀ x ∈ s.rch.engines, x.1 ≠ k) →
        let o := occupancy s d
        let cutting := if bits s.rch.queueR 0 10 ≤ o then true else if o < bits s.rch.queueR 16 10 then false else s.rch.cutting.getLsbD d
        let cut := cutting && job.verify.isNone
        ∃ u, exec (.frameDecodeStart t die engine) s = .next u ∧ dieQueue u d = rest ∧ u.rch.cutting.getLsbD d = cutting
          ∧ u.rch.engines = s.rch.engines ++ [(k, { job with epoch := c.epoch, ecc := s.fm.ecc, cut := cut })]
          ∧ u.rch.cut = (if cut then satInc s.rch.cut else s.rch.cut)
          ∧ ∀ j, j ≠ d → dieQueue u j = dieQueue s j)
      ∧ ((∀ x ∈ s.rch.engines, x.1 ≠ k) → exec (.frameDecodeDone t die engine) s = .next (advance t s))
      ∧ (∀ job, (s.rch.engines.find? fun x => x.1 == k) = some (k, job) →
        ∃ u, exec (.frameDecodeDone t die engine) s = .next u ∧ u.rch.engines = s.rch.engines.filter (fun x => x.1 != k)
          ∧ (itemAccepted s (decodeUnit k) job.epoch = false → u.rdr = s.rdr ∧ u.rch.fronts = s.rch.fronts
            ∧ tabGet 0 u.crew.stale (rosterClass (decodeUnit k)) = satInc (tabGet 0 s.crew.stale (rosterClass (decodeUnit k))))
          ∧ (itemAccepted s (decodeUnit k) job.epoch = true →
            (job.verify.isSome = true → u.rdr = s.rdr ∧ u.rch.alt = s.rch.alt)
            ∧ (job.verify = none →
              match decodeJob job job.trials with
              | none => bits u.rch.alt 16 16 = min 65535 (bits s.rch.alt 16 16 + 1) ∧ bits u.rch.alt 0 16 = bits s.rch.alt 0 16
                ∧ u.rdr = s.rdr
              | some (w, b) =>
                bits u.rch.alt 0 16 = (if w.alt then min 65535 (bits s.rch.alt 0 16 + 1) else bits s.rch.alt 0 16)
                ∧ (∀ x g, b = some x → s.gl.cur = .read ∨ s.gl.cur = .verify →
                  let h := headerFields w.header
                  gatherOf s h.part h.dsn = some g → g.cws.length + 1 ≠ 7936 → haveCodeword u h.part h.dsn h.cw = true)))))
    ∧ ∀ (t : Time) (s : State), let x := s.rdr.lastHdr
      (frontRuns s = true → s.gl.cur ≠ .write → s.gl.cur ≠ .calibrate → s.rdr.blankAt ≠ some x →
        x + 2 * slotLen ≤ headPath (advance t s) → ∃ u, exec (.blankDetect t) s = .next u ∧ u.rdr.blankAt = some x)
      ∧ (frontRuns s = false ∨ s.gl.cur = .write ∨ s.gl.cur = .calibrate ∨ s.rdr.blankAt = some x ∨ headPath (advance t s) < x + 2 * slotLen →
        exec (.blankDetect t) s = .next (advance t s))

/-- A free active engine takes, of the runs it may take, one of the kind whose turn it is when such a run waits, the
earliest of its kind, under the engine's epoch. Its result under an old epoch counts as stale and a live run waits
again; a run that agrees leaves its frame (for compression the frame of its input), benching with CAUSE 3 an engine
that failed the run first; the first disagreement sends the run back; the second ends an APPEND with 0x0301, and stops
a command that decompresses at the record with 0x0301, or 0x0204 from tape. A free active cipher pair takes a waiting
record with its slot's key captured; unseeded, the record ends with 0x0303, and with no key with 0x0403 or 0x0402. A
sealed record's element holds header, ciphertext and tag; with the last one its APPEND ends with SUCCESS and its first
block. A mismatch is counted and retried once; the second ends with 0x0303 and benches nothing. -/
def Obligations.EnginesAndPairs : Prop :=
  (∀ (t : Time) (engine : BitVec 5) (s : State), let e := engine.toNat; let c := crewOf s (engineUnit e)
      (s.gl.cur = .reset ∨ s.gl.cur = .fill ∨ c.st ≠ .active ∨ (∃ b ∈ s.eng.busy, b.1 = e) → exec (.runDispatch t engine) s = .next (advance t s))
      ∧ (fetching s = true → c.st = .active → (∀ b ∈ s.eng.busy, b.1 ≠ e) → (∃ x ∈ s.eng.waiting, engineMay s e x = true) →
        ∃ u r, exec (.runDispatch t engine) s = .next u ∧ r ∈ s.eng.waiting ∧ engineMay s e r = true
          ∧ (∀ x ∈ s.eng.waiting, engineMay s e x = true →
            (x.decomp = s.eng.nextKind → r.decomp = s.eng.nextKind) ∧ (x.decomp = r.decomp → runBefore x r = false))
          ∧ u.eng.waiting = s.eng.waiting.erase r ∧ u.eng.busy = (e, { r with epoch := c.epoch }) :: s.eng.busy
          ∧ u.eng.nextKind = !r.decomp)
      ∧ (∀ agrees, (∀ b ∈ s.eng.busy, b.1 ≠ e) → exec (.runComplete t engine agrees) s = .next (advance t s))
      ∧ ∀ agrees r d, (s.eng.busy.find? fun b => b.1 == e) = some (e, r) → findCmd s r.ref = some d → TagsDistinct s →
        (eOpcode d.entry = 1 ∨ eOpcode d.entry = 2 ∨ eOpcode d.entry = 3) → d.stage ≠ .held → d.stage ≠ .waiting → d.stage ≠ .abortOwn → r.ref.sq < 8192 →
        ∃ u, exec (.runComplete t engine agrees) s = .next u
          ∧ (itemAccepted s (engineUnit e) r.epoch = false → (r.live = true → r ∈ u.eng.waiting)
            ∧ tabGet 0 u.crew.stale (rosterClass (engineUnit e)) = satInc (tabGet 0 s.crew.stale (rosterClass (engineUnit e))))
          ∧ (itemAccepted s (engineUnit e) r.epoch = true → r.live = true →
            let done := if agrees then (if r.decomp then runOut s r else some (runFrame true r.input)) else none
            (∀ b, done = some b → (r.ref, r.recNo, r.run, b) ∈ u.eng.frames
              ∧ ∀ x, r.tried = [x] → x ≠ e → (crewOf u (engineUnit x)).st = .benched
                ∧ ((crewOf s (engineUnit x)).st ≠ .benched → (crewOf u (engineUnit x)).cause = 3))
            ∧ (done = none → r.tried = [] → { r with tried := [e] } ∈ u.eng.waiting)
            ∧ (done = none → r.tried ≠ [] →
              (r.decomp = true → findCmd u r.ref = some { d with stop := some (if r.tape then 0x0204 else 0x0301) })
              ∧ (r.decomp = false → eOpcode d.entry = 1 → d.stage ≠ .accepted → Ends s u r.ref 0x0301 ones64 0))))
    ∧ ∀ (t : Time) (pair : BitVec 2) (s : State), let p := pair.toNat; let c := crewOf s (pairUnit p)
      (s.gl.cur = .reset ∨ s.gl.cur = .fill ∨ c.st ≠ .active ∨ (∃ b ∈ s.cy.busy, b.1 = p) → exec (.cipherRecordStart t pair) s = .next (advance t s))
      ∧ (∀ w d, fetching s = true → c.st = .active → (∀ b ∈ s.cy.busy, b.1 ≠ p) → pickRecord s p = some w → findCmd s w.ref = some d →
        TagsDistinct s → w.ref.sq < 8192 → d.stage ≠ .held → d.stage ≠ .waiting → d.stage ≠ .abortOwn →
        w ∈ s.cy.waiting ∧ ∃ u, exec (.cipherRecordStart t pair) s = .next u
          ∧ let k := keySlot s w.slot
            (s.cy.seeded = true → k.st = .loaded →
              u.cy.busy = (p, { w with key := k.key, epoch := c.epoch }) :: s.cy.busy ∧ u.cy.waiting = s.cy.waiting.erase w
              ∧ u.cy.nextOpen = w.sealing)
            ∧ (w.sealing = true → eOpcode d.entry = 1 → d.stage = .accepted → d.first < 2 ^ 64 →
              (s.cy.seeded = false → Ends s u w.ref 0x0303 d.first 0)
              ∧ (s.cy.seeded = true → k.st = .never → Ends s u w.ref 0x0403 d.first 0)
              ∧ (s.cy.seeded = true → k.st = .erased → Ends s u w.ref 0x0402 d.first 0))
            ∧ (w.sealing = false → eOpcode d.entry = 2 →
              (s.cy.seeded = false → findCmd u w.ref = some { d with stop := some 0x0303, busy := false })
              ∧ (s.cy.seeded = true → k.st = .never → findCmd u w.ref = some { d with stop := some 0x0403, busy := false })
              ∧ (s.cy.seeded = true → k.st = .erased → findCmd u w.ref = some { d with stop := some 0x0402, busy := false })))
      ∧ (∀ agrees, (∀ b ∈ s.cy.busy, b.1 ≠ p) → exec (.cipherRecordEnd t pair agrees) s = .next (advance t s))
      ∧ ∀ w d, (s.cy.busy.find? fun b => b.1 == p) = some (p, w) → findCmd s w.ref = some d → TagsDistinct s → w.ref.sq < 8192 →
        d.stage ≠ .held → d.stage ≠ .waiting → d.stage ≠ .abortOwn →
        ((w.sealing = true ∧ eOpcode d.entry = 1 ∧ d.stage = .accepted ∧ d.first < 2 ^ 64) ∨ (w.sealing = false ∧ eOpcode d.entry = 2)) →
        let faults := fun (u : State) => tabGet 0 u.cy.faults w.ref.fn.toNat
        (itemAccepted s (pairUnit p) w.epoch = false → ∀ agrees, ∃ u, exec (.cipherRecordEnd t pair agrees) s = .next u
          ∧ { w with key := [] } ∈ u.cy.waiting)
        ∧ (itemAccepted s (pairUnit p) w.epoch = true →
          (∃ u, exec (.cipherRecordEnd t pair false) s = .next u
            ∧ bits (faults u) 0 16 = min 65535 (bits (faults s) 0 16 + 1)
            ∧ (w.first = none → { w with key := [], first := some p } ∈ u.cy.waiting ∧ bits (faults u) 16 16 = bits (faults s) 16 16)
            ∧ (w.first ≠ none → bits (faults u) 16 16 = min 65535 (bits (faults s) 16 16 + 1)
              ∧ (w.sealing = true → Ends s u w.ref 0x0303 d.first 0)
              ∧ (w.sealing = false → findCmd u w.ref = some { d with stop := some 0x0303, busy := false })))
          ∧ ∃ u, exec (.cipherRecordEnd t pair true) s = .next u
            ∧ (∀ x, w.first = some x → x ≠ p → (crewOf u (pairUnit x)).st = .benched)
            ∧ (w.sealing = false →
              let o := gcmOpen w.key (recordIv (hdrSession w.header) w.part w.block) w.header w.body w.tag
              findCmd u w.ref = some (if o.2 then { d with body := some o.1, busy := false }
                else { d with stop := some 0x0401, busy := false }))
            ∧ (w.sealing = true →
              (let o := gcmSeal w.key (recordIv (hdrSession w.header) w.part w.block) w.header w.body
                ∀ x ∈ (partOf u w.part).elems, x.block = w.block → x.kind = .record → x.bytes = w.header ++ o.1 ++ o.2)
              ∧ ((∀ x ∈ s.cy.waiting, x.ref ≠ w.ref) → (∀ x ∈ s.cy.busy, x.1 ≠ p → x.2.ref ≠ w.ref) → d.bytes < 2 ^ 32 →
                Ends s u w.ref 0 d.first d.bytes)))

/-- A whole-unit write stores the encoded data; an injector armed for the unit XORs its mask in, and is then disarmed
with mask 0. A write to MI_FLIPADDR arms the injector with the address, a half at a time or whole. The scrubber reads
the next unit of a class and moves on by 32 bytes, or to the start of the next pass at the class's end: a clean unit
changes nothing; a corrected one counts in MI_CORR, is logged and written back, but counts in WBDROP instead where the
write-back queue of the buffer is full; a poisoned one counts in MI_POISON only; an uncorrectable one counts in MI_UNC
and, in MRAM, is logged and poisoned with its owner handled, or takes the newer write. With the scrubber off nothing
happens. A fetch trap outside ROM counts and records its address; it enters HOLD with LATCHED_FETCH from ROM, on a
failed refetch, on a wrong hash of the active copy or at an address that trapped before, and rewrites the patch RAM
where the hash is right. The model's own choices that it touches are log entry 45. -/
def Obligations.MemoryIntegrity : Prop :=
  (∀ (t : Time) (cls : BitVec 2) (s : State), let c := cls.toNat
      (∀ (addr : BitVec 40) (data : BitVec 256), let a := unitBase c addr.toNat; let v := injectOf s c
        (fetching s = true → unitExists c a = true → ∃ u, exec (.injectedWrite t cls addr data) s = .next u
          ∧ (injects s c a = false → unitBits u c a = encodeUnit c data ∧ u.mi.inj = s.mi.inj)
          ∧ (injects s c a = true → unitBits u c a = encodeUnit c data ^^^ unitMask c v.mask
            ∧ injectOf u c = { v with mask := 0, armed := false })
          ∧ ∀ k, k ≠ memKey c a → tabGet 0 u.mi.units k = tabGet 0 s.mi.units k)
        ∧ (fetching s = false ∨ unitExists c a = false → exec (.injectedWrite t cls addr data) s = .next (advance t s)))
      ∧ (∀ value : DWord, c < 3 → regsLive s = true →
        (∃ u, exec (.miFlipaddrWrite t cls false 8 value) s = .next u ∧ injectOf u c =
          { injectOf s c with addr := BitVec.ofNat 40 value.toNat, addrHi := BitVec.ofNat 24 (value.toNat / 2 ^ 40), armed := true })
        ∧ ∃ u, exec (.miFlipaddrWrite t cls false 4 value) s = .next u ∧ (injectOf u c).armed = true
          ∧ (injectOf u c).mask = (injectOf s c).mask ∧ (injectOf u c).addrHi = (injectOf s c).addrHi
          ∧ (injectOf u c).addr.toNat = (injectOf s c).addr.toNat / 2 ^ 32 * 2 ^ 32 + value.toNat % 2 ^ 32)
      ∧ ∀ obs : ScrubObs, (3 ≤ c ∨ fetching s = false ∨ s.mi.ctl.getLsbD 1 = false → exec (.scrubRead t cls obs) s = .next (advance t s))
        ∧ (c < 3 → fetching s = true → s.mi.ctl.getLsbD 1 = true →
          let a := tabGet 0 s.mi.pos c; let w := unitBits s c a ^^^ unitMask c obs.upset
          ∃ u, exec (.scrubRead t cls obs) s = .next u
            ∧ (c ≠ 1 → a + 32 < classBytes c → tabGet 0 u.mi.pos c = a + 32 ∧ u.mi.passed = s.mi.passed)
            ∧ (c ≠ 1 → classBytes c ≤ a + 32 → tabGet 0 u.mi.pos c = 0 ∧ tabGet 0 u.mi.passed c = tabGet 0 s.mi.passed c + 1)
            ∧ (∀ n, c = 1 → obs.next = some n → a < n → n < 2 ^ 40 → tabGet 0 u.mi.pos c = n)
            ∧ match readUnit c w with
              | (.clean, _) => u.mi.corr = s.mi.corr ∧ u.mi.unc = s.mi.unc ∧ u.mi.poison = s.mi.poison ∧ u.mi.log = s.mi.log
                  ∧ unitBits u c a = w
              | (.corrected d, fixed) => tabGet 0 u.mi.corr c = satInc (tabGet 0 s.mi.corr c) ∧ u.mi.unc = s.mi.unc
                  ∧ u.mi.poison = s.mi.poison
                  ∧ (c = 0 → obs.wbFull = true → u.mi.wbdrop = satInc s.mi.wbdrop)
                  ∧ (c ≠ 0 ∨ obs.wbFull = false → injects s c a = false → tabGet 0 s.mi.seen (memKey c a) ≠ d + 1 ∨ remaps s c = false →
                    unitBits u c a = fixed ∧ u.mi.logN = s.mi.logN + 1)
              | (.poisoned, _) => tabGet 0 u.mi.poison c = satInc (tabGet 0 s.mi.poison c) ∧ u.mi.unc = s.mi.unc ∧ u.mi.corr = s.mi.corr
              | (.uncorrectable, _) => tabGet 0 u.mi.unc c = satInc (tabGet 0 s.mi.unc c) ∧ u.mi.corr = s.mi.corr
                  ∧ u.mi.poison = s.mi.poison
                  ∧ (c = 2 → injects s c a = false → u.mi.logN = s.mi.logN + 1 ∧ match obs.newer with
                    | some d => unitBits u c a = encodeUnit c d
                    | none => unitBits u c a = poisonUnit c w ∧ memKey c a ∈ u.mi.handled)))
    ∧ ∀ (t : Time) (f : FetchFault) (s : State), fetching s = true →
      let right := s.gl.patched = true ∧ f.hash = sha256 s.se.active
      let holds := f.fromRom = true ∨ f.refetchOk = false ∨ (s.gl.patched = true ∧ f.hash ≠ sha256 s.se.active) ∨ f.addr ∈ s.mi.traps
      ∃ u, exec (.instructionFetchTrap t f) s = .next u ∧ f.addr ∈ u.mi.traps
        ∧ (f.fromRom = true → u.mi.unc = s.mi.unc ∧ u.mi.poison = s.mi.poison)
        ∧ (f.fromRom = false → f.poisoned = true → tabGet 0 u.mi.poison 1 = satInc (tabGet 0 s.mi.poison 1) ∧ u.mi.unc = s.mi.unc)
        ∧ (f.fromRom = false → f.poisoned = false → tabGet 0 u.mi.unc 1 = satInc (tabGet 0 s.mi.unc 1) ∧ u.mi.poison = s.mi.poison)
        ∧ (right → u.se = { s.se with patchRam := slice s.se.active 512 (bundleLen s.se.active) }) ∧ (¬right → u.se = s.se)
        ∧ (holds → u.gl.cur = .hold ∧ u.gl.liveFetch = true ∧ u.gl.latched = s.gl.latched ||| 32#7) ∧ (¬holds → u.gl = s.gl)

/-- While a function's BAR0 responds, an access of another width or alignment is counted in GL_ACC_ERR with its
offset, a read of that kind answers 0, and a write of it does nothing else. A read of a ROC counter of the PF answers
its value and leaves it 0. A 32-bit read of the low half of a 64-bit pair keeps the high half of that instant, and the
next read of the high half answers with it. A write of a plain RW register of the list, with BAR0 live, is what the
register reads afterwards, in the bits it has; an 8-byte write writes both words. The Sheet Port's correction and
board-map words, the servo targets and the band scales do not change outside SERVICE. In RESET and FILL no access does
anything. The model's own choices that it touches are log entries 47 and 49. -/
def Obligations.RegisterAccess : Prop :=
  (∀ (t : Time) (f : Fn) (isWrite : Bool) (offset width : Nat) (s : State),
      (fetching s = true → fnPresent s f = true → accessBad f offset width = true →
        ∃ u, exec (.bar0AccessReject t f isWrite offset width) s = .next u
          ∧ u.out = (if isWrite then s.out else .readValue f offset 0 :: s.out)
          ∧ bits u.gl.accErr 0 16 = min 65535 (bits s.gl.accErr 0 16 + 1) ∧ bits u.gl.accErr 16 16 = offset / 16 % 2 ^ 16
          ∧ u = { advance t s with gl := { s.gl with accErr := u.gl.accErr }, out := u.out })
      ∧ (fetching s = false → exec (.bar0AccessReject t f isWrite offset width) s = .next (advance t s)
        ∧ exec (.rocRead t f offset width) s = .next (advance t s) ∧ exec (.lowHalfRead t f offset) s = .next (advance t s)
        ∧ ∀ bar value, exec (.registerWrite t f bar offset width value) s = .next (advance t s)))
    ∧ (∀ (t : Time) (s : State), regsLive s = true →
      (∀ o ∈ [0x48, 0x80, 0x84, 0x88, 0x8C, 0x90, 0x94, 0x98, 0x10010, 0x10014, 0x10018, 0x10020, 0x10024, 0x10028, 0x10030, 0x10034,
          0x10038, 0x10040, 0x14028, 0x20018, 0x2001C, 0x28008, 0x2803C, 0x34110, 0x34114, 0x34118, 0x3411C, 0x34120, 0x34124, 0x34220,
          0x34224, 0x34228, 0x3422C, 0x34318, 0x3C004], tabGet none s.latch o = none →
        ∃ u, exec (.rocRead t 0 o 4) s = .next u ∧ u.out = .readValue 0 o ((pfRead (advance t s) o).1.setWidth 64) :: s.out
          ∧ (pfRead u o).1 = 0)
      ∧ (∀ o, pfPair o = true → let high := (pfRead (advance t s) (o + 4)).1
        ∃ u, exec (.lowHalfRead t 0 o) s = .next u
          ∧ u.out = .readValue 0 o ((pfRead (advance t s) o).1.setWidth 64) :: s.out
          ∧ ∀ (later : Time) (v : State), regsLive v = true → v.latch = u.latch →
            ∃ w, exec (.rocRead later 0 (o + 4) 4) v = .next w ∧ w.out = .readValue 0 (o + 4) (high.setWidth 64) :: v.out)
      ∧ (∀ x ∈ [(0x10000, (3 : Word)), (0x10050, 0xFFFFFFFF), (0x10054, 0xFFFFFFFF), (0x10058, 0xFFFFFFFF), (0x14000, 0xFFFF),
          (0x14018, 1), (0x14020, 0x3F3F3F3F), (0x14024, 0x3F3F3F3F), (0x14080, 0xFFFFFFFF), (0x24008, 7), (0x28010, 0xFFFFFFFF)],
        ∀ value : DWord, ∃ u, exec (.registerWrite t 0 0 x.1 4 value) s = .next u ∧ (pfRead u x.1).1 = value.setWidth 32 &&& x.2)
      ∧ (∀ value : DWord, ∃ u, exec (.registerWrite t 0 0 0x14020 8 value) s = .next u
        ∧ u.ce.finesp0 = value.setWidth 32 &&& 0x3F3F3F3F#32 ∧ u.ce.finesp1 = (value >>> 32).setWidth 32 &&& 0x3F3F3F3F#32)
      ∧ (s.gl.cur ≠ .service → ∀ (o width : Nat) (value : DWord), accessOk 0 o width = true →
        (0x28400 ≤ o ∧ o < 0x28700) ∨ (0x28800 ≤ o ∧ o < 0x28B00) ∨ (0x20020 ≤ o ∧ o < 0x20060) →
        exec (.registerWrite t 0 0 o width value) s = .next (advance t s)))

/-- The codeword in row s on logical track t is member 31·s + ⌊t/32⌋ of group (t + 5·s) mod 32; conversely member m of
group g lies in row ⌊m/31⌋ on track 32·(m mod 31) + ((g − 5·⌊m/31⌋) mod 32), and the two maps undo each other over the
7,936 codewords. Each group takes 31 codewords from each row, its tracks there share one residue modulo 32, the eight
rows use eight different residues, and the 248 members lie on 248 distinct tracks, so that a track lost in all rows
costs a group one member at most; rows 0 to 6 hold only data members and row 7 members 217 to 247. C2 codeword j of a
group takes byte j of the information block of every member, member m as symbol m: 224 data bytes, then the 24 parity
bytes of those. Payload byte b is byte b mod 1,024 of data codeword D = ⌊b/1,024⌋, which is member ⌊D/32⌋ of group D
mod 32, so that consecutive kibibytes go to consecutive groups. A frame of a row is encoded from that information
block. -/
def Obligations.CodewordPlaces : Prop :=
  (∀ row t, row < 8 → t < 992 → groupMember (992 * row + t) = ((t + 5 * row) % 32, 31 * row + t / 32)
      ∧ (groupMember (992 * row + t)).1 < 32 ∧ (groupMember (992 * row + t)).2 < 248
      ∧ memberCw (groupMember (992 * row + t)).1 (groupMember (992 * row + t)).2 = 992 * row + t)
  ∧ (∀ g m, g < 32 → m < 248 → memberCw g m < 7936 ∧ groupMember (memberCw g m) = (g, m) ∧ memberCw g m / 992 = m / 31
      ∧ ((memberCw g m % 992 : Nat) : Int) = 32 * (m % 31 : Nat) + ((g : Int) - 5 * (m / 31 : Nat)) % 32)
  ∧ (∀ g m m', g < 32 → m < 248 → m' < 248 →
      (memberCw g m % 992 = memberCw g m' % 992 → m = m')
      ∧ (memberCw g m / 992 = memberCw g m' / 992 ↔ memberCw g m % 992 % 32 = memberCw g m' % 992 % 32))
  ∧ (∀ g row, g < 32 → row < 8 →
      ((List.range 248).filter fun m => memberCw g m / 992 == row).length = 31)
  ∧ (∀ g m, g < 32 → m < 248 → (memberCw g m / 992 = 7 ↔ 217 ≤ m) ∧ (224 ≤ m → memberCw g m / 992 = 7))
  ∧ (∀ payload : List Byte, payload.length = payloadBytes →
      (∀ b, b < payloadBytes → (infoBlock payload (memberCw (b / 1024 % 32) (b / 1024 / 32))).getD (b % 1024) 0 = payload.getD b 0)
      ∧ (∀ b, b + 1024 < payloadBytes → (b + 1024) / 1024 % 32 = (b / 1024 % 32 + 1) % 32)
      ∧ ∀ g m j, g < 32 → m < 248 → j < 1024 → (infoBlock payload (memberCw g m)).length = 1024
        ∧ let data := (List.range 224).map fun k => (infoBlock payload (memberCw g k)).getD j 0
          (infoBlock payload (memberCw g m)).getD j 0 = (data ++ c2Parity data).getD m 0)
  ∧ ∀ (b : Block) (row : Nat) (f : RowFrame), f.cw ≠ fillerCw → ∃ h : Header, h.cw = f.cw ∧ h.row = row ∧ h.dsn = f.set.dsn
      ∧ (rowFrameBits b row f).2 = frameBits h (c1Encode (infoBlock f.set.payload f.cw))

/-- Zone 16·w + z of wrap w, z from 0 to 15, covers the LPOS range from 10,000,000 + 73,750,000·z µm up to the start
of the next; a lower LPOS belongs to z = 0 and one at or above 1,190,000,000 to z = 15. Along the path of a forward
wrap z rises from 0 to 15 and along a reverse wrap it falls from 15 to 0, with the same index. A channel works with
the working entry of the zone that holds the head's position, and a wrap change makes the working entries of a channel
the effective entries of the zones 16·w + z. -/
def Obligations.ZonesOfAWrap : Prop :=
  (∀ lpos z, z < 16 → 10000000 + 73750000 * z ≤ lpos → lpos < 10000000 + 73750000 * (z + 1) → zoneAt lpos = z)
  ∧ (∀ lpos, lpos < 10000000 → zoneAt lpos = 0)
  ∧ (∀ lpos, 1190000000 ≤ lpos → zoneAt lpos = 15)
  ∧ (∀ x y, x ≤ y → x / wrapLen = y / wrapLen →
      (x / wrapLen % 2 = 0 → zoneAt (pathLpos x) ≤ zoneAt (pathLpos y))
      ∧ (x / wrapLen % 2 = 1 → zoneAt (pathLpos y) ≤ zoneAt (pathLpos x)))
  ∧ (∀ w, (w % 2 = 0 → zoneAt (pathLpos (w * wrapLen)) = 0 ∧ zoneAt (pathLpos (w * wrapLen + (wrapLen - 1))) = 15)
      ∧ (w % 2 = 1 → zoneAt (pathLpos (w * wrapLen)) = 15 ∧ zoneAt (pathLpos (w * wrapLen + (wrapLen - 1))) = 0))
  ∧ (∀ (s : State) e, (frontEnv s e).zone = zoneAt (lposNow s) ∧ (frontEnv s e).entry = workingEntry s e (zoneAt (lposNow s)))
  ∧ ∀ (t : Time) (wrap : Nat) (s : State), wrap < 24 → s.gl.cart = true →
      ∃ u, exec (.wrapChange t wrap) s = .next u ∧ ∀ e z, workingEntry u e z = effectiveEntry s e (16 * wrap + z)
end

