-- ==== Sys2Proof/Laws/Frame.lean ====
section
/-!
SUPPORT. How frames compose: reflexivity, transitivity, branches and loops.
-/

namespace Sys2Proof.Machine

theorem Frame.refl (l : List Region) (s : State) : Frame l s s :=
  ⟨fun b _ => by cases b <;> first | rfl | exact List.Sublist.refl _, List.suffix_refl _⟩

theorem Region.same_trans {b : Region} {s x u : State} (h : b.same s x) (k : b.same x u) : b.same s u := by
  cases b <;> first | exact Eq.trans k h | exact List.Sublist.trans k h

/-- Commands in flight stay, change or leave, but none joins them. -/
theorem refs_id {s u : State} (e : u.hq.inflight = s.hq.inflight) : Region.same .refs s u := by
  have h : (u.hq.inflight.map fun c => c.ref) = s.hq.inflight.map fun c => c.ref := by rw [e]
  show (u.hq.inflight.map fun c => c.ref).Sublist (s.hq.inflight.map fun c => c.ref)
  exact h ▸ List.Sublist.refl _

theorem refs_map {s u : State} (f : InFlight → InFlight) (e : u.hq.inflight = s.hq.inflight.map f)
    (hf : ∀ d, (f d).ref = d.ref) : Region.same .refs s u := by
  have h : (u.hq.inflight.map fun c => c.ref) = s.hq.inflight.map fun c => c.ref := by
    rw [e, List.map_map, show ((fun c : InFlight => c.ref) ∘ f) = fun c => c.ref from funext hf]
  show (u.hq.inflight.map fun c => c.ref).Sublist (s.hq.inflight.map fun c => c.ref)
  exact h ▸ List.Sublist.refl _

theorem refs_filter {s u : State} (f : InFlight → Bool) (e : u.hq.inflight = s.hq.inflight.filter f) :
    Region.same .refs s u := by
  show (u.hq.inflight.map fun c => c.ref).Sublist _
  rw [e]
  exact List.filter_sublist.map _

/-- A command that was not in flight is not in flight after a change within which none joins. -/
theorem findCmd_none {s u : State} (h : Region.same .refs s u) {r : CmdRef} (k : findCmd s r = none) :
    findCmd u r = none := by
  unfold findCmd at k ⊢
  rw [List.find?_eq_none] at k ⊢
  intro c hc
  have hm : c.ref ∈ s.hq.inflight.map fun c => c.ref := h.subset (List.mem_map_of_mem hc)
  obtain ⟨d, hd, e⟩ := List.mem_map.1 hm
  rw [← e]
  exact k d hd

/-- A change within `l₁` after a change within `l`, where `l` holds all of `l₁`. -/
theorem Frame.comp {l₁ l : List Region} {s x u : State} (h : Frame l₁ x u) (h₀ : Frame l s x)
    (hs : l₁.all l.contains = true) : Frame l s u := by
  refine ⟨fun b hb => Region.same_trans (h₀.same b hb) (h.same b fun hm => hb ?_), h₀.out.trans h.out⟩
  have := List.all_eq_true.mp hs b hm
  simpa using this

/-- A change spelled out as a record update, after a change within the same parts. -/
theorem Frame.upd {l : List Region} {s x u : State} (h : Frame l x u) (h₀ : Frame l s x) : Frame l s u := by
  exact ⟨fun b hb => Region.same_trans (h₀.same b hb) (h.same b hb), h₀.out.trans h.out⟩

/-- `Frame` at a state that is spelled out field by field. -/
def FrameMk (l : List Region) (s u : State) : Prop := Frame l s u

/-- Marks a goal whose state is spelled out field by field. -/
theorem Frame.spelled (l : List Region) (s : State) (x1 : _) (x2 : _) (x3 : _) (x4 : _) (x5 : _) (x6 : _) (x7 : _) (x8 : _) (x9 : _) (x10 : _) (x11 : _) (x12 : _) (x13 : _) (x14 : _) (x15 : _) (x16 : _) (x17 : _) (x18 : _) (x19 : _) (x20 : _) (x21 : _) (x22 : _) (x23 : _) (x24 : _) (x25 : _) (x26 : _) (x27 : _) (x28 : _) (x29 : _) (x30 : _) :
    Frame l s (State.mk x1 x2 x3 x4 x5 x6 x7 x8 x9 x10 x11 x12 x13 x14 x15 x16 x17 x18 x19 x20 x21 x22 x23 x24 x25 x26 x27 x28 x29 x30) ↔ FrameMk l s (State.mk x1 x2 x3 x4 x5 x6 x7 x8 x9 x10 x11 x12 x13 x14 x15 x16 x17 x18 x19 x20 x21 x22 x23 x24 x25 x26 x27 x28 x29 x30) := Iff.rfl

theorem FrameMk.upd {l : List Region} {s x u : State} (h : ∀ b, b ∉ l → b.same x u) (ho : x.out <:+ u.out)
    (h₀ : Frame l s x) : FrameMk l s u := by
  exact Frame.upd ⟨h, ho⟩ h₀

theorem Frame.ite {l : List Region} {s a b : State} {c : Prop} [Decidable c] (ha : Frame l s a) (hb : Frame l s b) :
    Frame l s (if c then a else b) := by
  split <;> assumption

theorem Frame.forEach {α : Type} {l : List Region} {s x : State} (xs : List α) (op : α → State → State)
    (h : ∀ a y, Frame l s y → Frame l s (op a y)) (h₀ : Frame l s x) : Frame l s (forEach xs op x) := by
  unfold Machine.forEach
  induction xs generalizing x with
  | nil => exact h₀
  | cons a xs ih => exact ih (h a x h₀)

theorem Frame.foldl {α : Type} {l : List Region} {s x : State} (xs : List α) (op : State → α → State)
    (h : ∀ y a, Frame l s y → Frame l s (op y a)) (h₀ : Frame l s x) : Frame l s (xs.foldl op x) := by
  induction xs generalizing x with
  | nil => exact h₀
  | cons a xs ih => exact ih (h x a h₀)

theorem Frame.foldlSnd {α β : Type} {l : List Region} {s : State} {p : β × State} (xs : List α)
    (op : β × State → α → β × State) (h : ∀ y a, Frame l s y.2 → Frame l s (op y a).2) (h₀ : Frame l s p.2) :
    Frame l s (xs.foldl op p).2 := by
  induction xs generalizing p with
  | nil => exact h₀
  | cons a xs ih => exact ih (h p a h₀)

theorem Frame.iteSnd {α : Type} {l : List Region} {s : State} {a b : α × State} {c : Prop} [Decidable c]
    (ha : Frame l s a.2) (hb : Frame l s b.2) : Frame l s (if c then a else b).2 := by
  split <;> assumption

/-- The state that a pair was taken apart into. -/
theorem Frame.snd {α : Type} {l : List Region} {s x : State} {p : α × State} {a : α} (e : p = (a, x))
    (h : Frame l s p.2) : Frame l s x := by
  rw [e] at h; exact h

/-- An operation that answers a value beside its state, and what follows it. -/
theorem Frame.pair {α : Type} {l₁ l : List Region} {s y : State} {p : α × State} {g : α × State → State}
    (h : Frame l₁ y p.2) (hs : l₁.all l.contains = true) (h₀ : Frame l s y)
    (hg : ∀ a x, Frame l s x → Frame l s (g (a, x))) : Frame l s (g p) := by
  obtain ⟨a, x⟩ := p
  exact hg a x (Frame.comp h h₀ hs)

theorem FrameO.next {l : List Region} {s u : State} (h : Frame l s u) : FrameO l s (.next u) := by
  exact ⟨fun v hv => by cases hv; exact h⟩

theorem FrameO.ite {l : List Region} {s : State} {a b : Host.Outcome State Fault Refusal} {c : Prop} [Decidable c]
    (ha : FrameO l s a) (hb : FrameO l s b) : FrameO l s (if c then a else b) := by
  split <;> assumption

/-! ### Reading a frame -/

theorem not_mem_of_contains {l : List Region} {b : Region} (h : l.contains b = false) : b ∉ l := by
  simpa using h

theorem Frame.tb_eq {l : List Region} {s u : State} (h : Frame l s u) (hl : l.contains .tb = false := by decide) :
    u.tb = s.tb := h.same .tb (not_mem_of_contains hl)

theorem Frame.pins_eq {l : List Region} {s u : State} (h : Frame l s u) (hl : l.contains .pins = false := by decide) :
    u.pins = s.pins := h.same .pins (not_mem_of_contains hl)

theorem Frame.crew_eq {l : List Region} {s u : State} (h : Frame l s u) (hl : l.contains .crew = false := by decide) :
    u.crew = s.crew := h.same .crew (not_mem_of_contains hl)

theorem Frame.hq_eq {l : List Region} {s u : State} (h : Frame l s u) (hl : l.contains .hq = false := by decide) :
    u.hq = s.hq := h.same .hq (not_mem_of_contains hl)

theorem Frame.task_eq {l : List Region} {s u : State} (h : Frame l s u) (hl : l.contains .task = false := by decide) :
    u.task = s.task := h.same .task (not_mem_of_contains hl)

theorem Frame.par_eq {l : List Region} {s u : State} (h : Frame l s u) (hl : l.contains .par = false := by decide) :
    u.par = s.par := h.same .par (not_mem_of_contains hl)

theorem Frame.eng_eq {l : List Region} {s u : State} (h : Frame l s u) (hl : l.contains .eng = false := by decide) :
    u.eng = s.eng := h.same .eng (not_mem_of_contains hl)

theorem Frame.cy_eq {l : List Region} {s u : State} (h : Frame l s u) (hl : l.contains .cy = false := by decide) :
    u.cy = s.cy := h.same .cy (not_mem_of_contains hl)

theorem Frame.vol_eq {l : List Region} {s u : State} (h : Frame l s u) (hl : l.contains .vol = false := by decide) :
    u.vol = s.vol := h.same .vol (not_mem_of_contains hl)

theorem Frame.wr_eq {l : List Region} {s u : State} (h : Frame l s u) (hl : l.contains .wr = false := by decide) :
    u.wr = s.wr := h.same .wr (not_mem_of_contains hl)

theorem Frame.fm_eq {l : List Region} {s u : State} (h : Frame l s u) (hl : l.contains .fm = false := by decide) :
    u.fm = s.fm := h.same .fm (not_mem_of_contains hl)

theorem Frame.rch_eq {l : List Region} {s u : State} (h : Frame l s u) (hl : l.contains .rch = false := by decide) :
    u.rch = s.rch := h.same .rch (not_mem_of_contains hl)

theorem Frame.rdr_eq {l : List Region} {s u : State} (h : Frame l s u) (hl : l.contains .rdr = false := by decide) :
    u.rdr = s.rdr := h.same .rdr (not_mem_of_contains hl)

theorem Frame.sm_eq {l : List Region} {s u : State} (h : Frame l s u) (hl : l.contains .sm = false := by decide) :
    u.sm = s.sm := h.same .sm (not_mem_of_contains hl)

theorem Frame.sv_eq {l : List Region} {s u : State} (h : Frame l s u) (hl : l.contains .sv = false := by decide) :
    u.sv = s.sv := h.same .sv (not_mem_of_contains hl)

theorem Frame.ce_eq {l : List Region} {s u : State} (h : Frame l s u) (hl : l.contains .ce = false := by decide) :
    u.ce = s.ce := h.same .ce (not_mem_of_contains hl)

theorem Frame.tt_eq {l : List Region} {s u : State} (h : Frame l s u) (hl : l.contains .tt = false := by decide) :
    u.tt = s.tt := h.same .tt (not_mem_of_contains hl)

theorem Frame.lk_eq {l : List Region} {s u : State} (h : Frame l s u) (hl : l.contains .lk = false := by decide) :
    u.lk = s.lk := h.same .lk (not_mem_of_contains hl)

theorem Frame.sp_eq {l : List Region} {s u : State} (h : Frame l s u) (hl : l.contains .sp = false := by decide) :
    u.sp = s.sp := h.same .sp (not_mem_of_contains hl)

theorem Frame.ic_eq {l : List Region} {s u : State} (h : Frame l s u) (hl : l.contains .ic = false := by decide) :
    u.ic = s.ic := h.same .ic (not_mem_of_contains hl)

theorem Frame.spill_eq {l : List Region} {s u : State} (h : Frame l s u) (hl : l.contains .spill = false := by decide) :
    u.spill = s.spill := h.same .spill (not_mem_of_contains hl)

theorem Frame.ev_eq {l : List Region} {s u : State} (h : Frame l s u) (hl : l.contains .ev = false := by decide) :
    u.ev = s.ev := h.same .ev (not_mem_of_contains hl)

theorem Frame.logs_eq {l : List Region} {s u : State} (h : Frame l s u) (hl : l.contains .logs = false := by decide) :
    u.logs = s.logs := h.same .logs (not_mem_of_contains hl)

theorem Frame.latch_eq {l : List Region} {s u : State} (h : Frame l s u) (hl : l.contains .latch = false := by decide) :
    u.latch = s.latch := h.same .latch (not_mem_of_contains hl)

theorem Frame.out_eq {l : List Region} {s u : State} (h : Frame l s u) (hl : l.contains .out = false := by decide) :
    u.out = s.out := h.same .out (not_mem_of_contains hl)

theorem Frame.fresh_eq {l : List Region} {s u : State} (h : Frame l s u) (hl : l.contains .fresh = false := by decide) :
    u.fresh = s.fresh := h.same .fresh (not_mem_of_contains hl)

theorem Frame.pending_eq {l : List Region} {s u : State} (h : Frame l s u) (hl : l.contains .pending = false := by decide) :
    u.pending = s.pending := h.same .pending (not_mem_of_contains hl)

theorem Frame.gl_eq {l : List Region} {s u : State} (h : Frame l s u) (hl : l.contains .gl = false := by decide)
    (hf : l.contains .life = false := by decide) : u.gl = s.gl := by
  have a := h.same .gl (not_mem_of_contains hl)
  have b := h.same .life (not_mem_of_contains hf)
  cases e : u.gl
  cases f : s.gl
  simp only [Region.same, e, f, Global.mk.injEq, Prod.mk.injEq] at a b ⊢
  simp [a, b]

theorem Frame.mi_eq {l : List Region} {s u : State} (h : Frame l s u) (hl : l.contains .mi = false := by decide)
    (hf : l.contains .units = false := by decide) : u.mi = s.mi := by
  have a := h.same .mi (not_mem_of_contains hl)
  have b := h.same .units (not_mem_of_contains hf)
  cases e : u.mi
  cases f : s.mi
  simp only [Region.same, e, f, Mem.mk.injEq] at a b ⊢
  simp [a, b]

theorem Frame.se_eq {l : List Region} {s u : State} (h : Frame l s u) (hl : l.contains .se = false := by decide)
    (hf : l.contains .fuses = false := by decide) : u.se = s.se := by
  have a := h.same .se (not_mem_of_contains hl)
  have b := h.same .fuses (not_mem_of_contains hf)
  cases e : u.se
  cases f : s.se
  simp only [Region.same, e, f, Sec.mk.injEq] at a b ⊢
  simp [a, b]

end Sys2Proof.Machine
end

