-- ==== Sys2Proof/Laws/FrameOps.lean ====
section
/-!
SUPPORT. The frames of the operations of Machine/Ops.lean: which parts of the state each may change.
-/

namespace Sys2Proof.Machine

theorem emit_frame (o : Out) (s : State) :
    Frame [.out] s (emit o s) := by
  unfold emit
  repeat' first
    | with_reducible exact Frame.refl _ _
    | (simp only [Frame.spelled]; (with_reducible apply FrameMk.upd); (with_reducible (intro b hb; cases b <;> first | exact absurd (by decide) hb | (dsimp only [Region.same] <;> rfl) | exact refs_id rfl)); (dsimp only; first | with_reducible exact List.suffix_refl _ | with_reducible exact List.suffix_cons _ _))

theorem setCq_frame (f : Sys2Proof.Fn) (q : Nat) (v : Cq) (s : State) :
    Frame [.hq] s (setCq f q v s) := by
  unfold setCq
  repeat' first
    | with_reducible exact Frame.refl _ _
    | (simp only [Frame.spelled]; (with_reducible apply FrameMk.upd); (with_reducible (intro b hb; cases b <;> first | exact absurd (by decide) hb | (dsimp only [Region.same] <;> rfl) | exact refs_id rfl)); (dsimp only; first | with_reducible exact List.suffix_refl _ | with_reducible exact List.suffix_cons _ _))

theorem setCmd_frame (c : InFlight) (s : State) :
    Frame [.hq] s (setCmd c s) := by
  unfold setCmd
  repeat' first
    | with_reducible exact Frame.refl _ _
    | (simp only [Frame.spelled]; (with_reducible apply FrameMk.upd); (with_reducible (intro b hb; cases b <;> first | exact absurd (by decide) hb | (dsimp only [Region.same] <;> rfl) | exact refs_id rfl | exact refs_filter _ rfl | (refine refs_map _ rfl ?_; intro d; split <;> simp_all))); (dsimp only; first | with_reducible exact List.suffix_refl _ | with_reducible exact List.suffix_cons _ _))

theorem setSrc_frame (f : Sys2Proof.Fn) (n : Nat) (v : Src) (s : State) :
    Frame [.ic] s (setSrc f n v s) := by
  unfold setSrc
  repeat' first
    | with_reducible exact Frame.refl _ _
    | (simp only [Frame.spelled]; (with_reducible apply FrameMk.upd); (with_reducible (intro b hb; cases b <;> first | exact absurd (by decide) hb | (dsimp only [Region.same] <;> rfl) | exact refs_id rfl)); (dsimp only; first | with_reducible exact List.suffix_refl _ | with_reducible exact List.suffix_cons _ _))

theorem setSq_frame (f : Sys2Proof.Fn) (q : Nat) (v : Sq) (s : State) :
    Frame [.hq] s (setSq f q v s) := by
  unfold setSq
  repeat' first
    | with_reducible exact Frame.refl _ _
    | (simp only [Frame.spelled]; (with_reducible apply FrameMk.upd); (with_reducible (intro b hb; cases b <;> first | exact absurd (by decide) hb | (dsimp only [Region.same] <;> rfl) | exact refs_id rfl)); (dsimp only; first | with_reducible exact List.suffix_refl _ | with_reducible exact List.suffix_cons _ _))

theorem setHqFn_frame (f : Sys2Proof.Fn) (v : HqFn) (s : State) :
    Frame [.hq] s (setHqFn f v s) := by
  unfold setHqFn
  repeat' first
    | with_reducible exact Frame.refl _ _
    | (simp only [Frame.spelled]; (with_reducible apply FrameMk.upd); (with_reducible (intro b hb; cases b <;> first | exact absurd (by decide) hb | (dsimp only [Region.same] <;> rfl) | exact refs_id rfl)); (dsimp only; first | with_reducible exact List.suffix_refl _ | with_reducible exact List.suffix_cons _ _))

theorem setSpill_frame (q : Nat) (v : Spill) (s : State) :
    Frame [.spill] s (setSpill q v s) := by
  unfold setSpill
  repeat' first
    | with_reducible exact Frame.refl _ _
    | (simp only [Frame.spelled]; (with_reducible apply FrameMk.upd); (with_reducible (intro b hb; cases b <;> first | exact absurd (by decide) hb | (dsimp only [Region.same] <;> rfl) | exact refs_id rfl)); (dsimp only; first | with_reducible exact List.suffix_refl _ | with_reducible exact List.suffix_cons _ _))

theorem writeBatch_frame (q : Nat) (short : Bool) (l : List Item) (rest : List Item) (s : State) :
    Frame [.spill, .out] s (writeBatch q short l rest s) := by
  unfold writeBatch
  repeat' first
    | with_reducible exact Frame.refl _ _
    | with_reducible refine (emit_frame _ _).comp ?_ (by decide)
    | with_reducible refine (setSpill_frame _ _ _).comp ?_ (by decide)

theorem closeFull_frame (q : Nat) (a : Nat) (a3 : State) :
    Frame [.spill, .out] a3 (closeFull q a a3) := by
  fun_induction closeFull q a a3
  all_goals repeat' first
    | with_reducible exact Frame.refl _ _
    | with_reducible refine (writeBatch_frame _ _ _ _ _).comp ?_ (by decide)
    | (extract_lets +onlyGivenNames y; first | (refine have hy : Frame [.spill, .out] a3 y := ?_; ?_; unfold y) | (refine have hy : Frame [.spill, .out] a3 y.2 := ?_; ?_; unfold y) | skip)
    | with_reducible refine Frame.upd (by assumption) ?_

theorem offerItem_frame (q : Nat) (words : List Sys2Proof.DWord) (s : State) :
    Frame [.spill, .out] s (offerItem q words s) := by
  unfold offerItem
  repeat' first
    | with_reducible exact Frame.refl _ _
    | with_reducible refine (closeFull_frame _ _ _).comp ?_ (by decide)
    | with_reducible refine (setSpill_frame _ _ _).comp ?_ (by decide)

theorem eventAt_frame (t : Sys2Proof.Time) (log : Sys2Proof.Fn) (f : Sys2Proof.Fn) (code : Nat) (payload : List Sys2Proof.DWord) (s : State) :
    Frame [.spill, .ev, .out] s (eventAt t log f code payload s) := by
  unfold eventAt
  repeat' first
    | with_reducible exact Frame.refl _ _
    | with_reducible refine (offerItem_frame _ _ _).comp ?_ (by decide)
    | (simp only [Frame.spelled]; (with_reducible apply FrameMk.upd); (with_reducible (intro b hb; cases b <;> first | exact absurd (by decide) hb | (dsimp only [Region.same] <;> rfl) | exact refs_id rfl)); (dsimp only; first | with_reducible exact List.suffix_refl _ | with_reducible exact List.suffix_cons _ _))

theorem event_frame (log : Sys2Proof.Fn) (f : Sys2Proof.Fn) (code : Nat) (payload : List Sys2Proof.DWord) (s : State) :
    Frame [.spill, .ev, .out] s (event log f code payload s) := by
  unfold event
  repeat' first
    | with_reducible exact Frame.refl _ _
    | with_reducible refine (eventAt_frame _ _ _ _ _ _).comp ?_ (by decide)

theorem advance_frame (t : Sys2Proof.Time) (s : State) :
    Frame [.tb] s (advance t s) := by
  unfold advance
  repeat' first
    | with_reducible exact Frame.refl _ _
    | with_reducible refine Frame.ite ?_ ?_
    | (simp only [Frame.spelled]; (with_reducible apply FrameMk.upd); (with_reducible (intro b hb; cases b <;> first | exact absurd (by decide) hb | (dsimp only [Region.same] <;> rfl) | exact refs_id rfl)); (dsimp only; first | with_reducible exact List.suffix_refl _ | with_reducible exact List.suffix_cons _ _))

theorem setFast_frame (n : Nat) (v : Src) (s : State) :
    Frame [.ic] s (setFast n v s) := by
  unfold setFast
  repeat' first
    | with_reducible exact Frame.refl _ _
    | (simp only [Frame.spelled]; (with_reducible apply FrameMk.upd); (with_reducible (intro b hb; cases b <;> first | exact absurd (by decide) hb | (dsimp only [Region.same] <;> rfl) | exact refs_id rfl)); (dsimp only; first | with_reducible exact List.suffix_refl _ | with_reducible exact List.suffix_cons _ _))

theorem pulseInternal_frame (i : Nat) (s : State) :
    Frame [.ic] s (pulseInternal i s) := by
  unfold pulseInternal
  repeat' first
    | with_reducible exact Frame.refl _ _
    | with_reducible refine (setSrc_frame _ _ _ _).comp ?_ (by decide)

theorem setKeySlot_frame (k : Nat) (v : KeySlot) (s : State) :
    Frame [.cy] s (setKeySlot k v s) := by
  unfold setKeySlot
  repeat' first
    | with_reducible exact Frame.refl _ _
    | (simp only [Frame.spelled]; (with_reducible apply FrameMk.upd); (with_reducible (intro b hb; cases b <;> first | exact absurd (by decide) hb | (dsimp only [Region.same] <;> rfl) | exact refs_id rfl)); (dsimp only; first | with_reducible exact List.suffix_refl _ | with_reducible exact List.suffix_cons _ _))

theorem drbgBytes_frame (n : Nat) (s : State) :
    Frame [.fresh] s (drbgBytes n s).2 := by
  unfold drbgBytes
  repeat' first
    | with_reducible exact Frame.refl _ _
    | (simp only [Frame.spelled]; (with_reducible apply FrameMk.upd); (with_reducible (intro b hb; cases b <;> first | exact absurd (by decide) hb | (dsimp only [Region.same] <;> rfl) | exact refs_id rfl)); (dsimp only; first | with_reducible exact List.suffix_refl _ | with_reducible exact List.suffix_cons _ _))

theorem setLane_frame (l : Nat) (v : Lane) (s : State) :
    Frame [.lk] s (setLane l v s) := by
  unfold setLane
  repeat' first
    | with_reducible exact Frame.refl _ _
    | (simp only [Frame.spelled]; (with_reducible apply FrameMk.upd); (with_reducible (intro b hb; cases b <;> first | exact absurd (by decide) hb | (dsimp only [Region.same] <;> rfl) | exact refs_id rfl)); (dsimp only; first | with_reducible exact List.suffix_refl _ | with_reducible exact List.suffix_cons _ _))

theorem setCrew_frame (i : Nat) (v : Crew) (s : State) :
    Frame [.crew] s (setCrew i v s) := by
  unfold setCrew
  repeat' first
    | with_reducible exact Frame.refl _ _
    | (simp only [Frame.spelled]; (with_reducible apply FrameMk.upd); (with_reducible (intro b hb; cases b <;> first | exact absurd (by decide) hb | (dsimp only [Region.same] <;> rfl) | exact refs_id rfl)); (dsimp only; first | with_reducible exact List.suffix_refl _ | with_reducible exact List.suffix_cons _ _))

theorem sessionAdvance_frame (l : Nat) (s : State) :
    Frame [.lk, .out] s (sessionAdvance l s) := by
  unfold sessionAdvance
  repeat' first
    | with_reducible exact Frame.refl _ _
    | with_reducible refine (emit_frame _ _).comp ?_ (by decide)
    | with_reducible refine (setLane_frame _ _ _).comp ?_ (by decide)

theorem bumpEpochs_frame (units : List Nat) (s : State) :
    Frame [.crew, .lk, .out] s (bumpEpochs units s) := by
  unfold bumpEpochs
  repeat' first
    | with_reducible exact Frame.refl _ _
    | with_reducible assumption
    | with_reducible refine (setCrew_frame _ _ _).comp ?_ (by decide)
    | with_reducible refine (sessionAdvance_frame _ _).comp ?_ (by decide)
    | with_reducible refine Frame.forEach _ _ ?_ ?_
    | intro _
    | (simp only [Frame.spelled]; (with_reducible apply FrameMk.upd); (with_reducible (intro b hb; cases b <;> first | exact absurd (by decide) hb | (dsimp only [Region.same] <;> rfl) | exact refs_id rfl)); (dsimp only; first | with_reducible exact List.suffix_refl _ | with_reducible exact List.suffix_cons _ _))

theorem unitsChange_frame (changes : List (Nat × CrewSt)) (cause : Nat) (bump : List Nat) (s : State) :
    Frame [.crew, .lk, .ic, .spill, .ev, .out] s (unitsChange changes cause bump s) := by
  unfold unitsChange
  repeat' first
    | with_reducible exact Frame.refl _ _
    | with_reducible assumption
    | with_reducible refine (setCrew_frame _ _ _).comp ?_ (by decide)
    | with_reducible refine (bumpEpochs_frame _ _).comp ?_ (by decide)
    | with_reducible refine (pulseInternal_frame _ _).comp ?_ (by decide)
    | with_reducible refine (event_frame _ _ _ _ _).comp ?_ (by decide)
    | with_reducible refine Frame.forEach _ _ ?_ ?_
    | intro _
    | (simp only [Frame.spelled]; (with_reducible apply FrameMk.upd); (with_reducible (intro b hb; cases b <;> first | exact absurd (by decide) hb | (dsimp only [Region.same] <;> rfl) | exact refs_id rfl)); (dsimp only; first | with_reducible exact List.suffix_refl _ | with_reducible exact List.suffix_cons _ _))

theorem setUnitsState_frame (units : List Nat) (st : CrewSt) (cause : Nat) (s : State) :
    Frame [.crew, .lk, .ic, .spill, .ev, .out] s (setUnitsState units st cause s) := by
  unfold setUnitsState
  repeat' first
    | with_reducible exact Frame.refl _ _
    | with_reducible refine (unitsChange_frame _ _ _ _).comp ?_ (by decide)

theorem setUnitState_frame (i : Nat) (st : CrewSt) (cause : Nat) (s : State) :
    Frame [.crew, .lk, .ic, .spill, .ev, .out] s (setUnitState i st cause s) := by
  unfold setUnitState
  repeat' first
    | with_reducible exact Frame.refl _ _
    | with_reducible refine (setUnitsState_frame _ _ _ _).comp ?_ (by decide)

theorem countStale_frame (i : Nat) (s : State) :
    Frame [.crew] s (countStale i s) := by
  unfold countStale
  repeat' first
    | with_reducible exact Frame.refl _ _
    | (simp only [Frame.spelled]; (with_reducible apply FrameMk.upd); (with_reducible (intro b hb; cases b <;> first | exact absurd (by decide) hb | (dsimp only [Region.same] <;> rfl) | exact refs_id rfl)); (dsimp only; first | with_reducible exact List.suffix_refl _ | with_reducible exact List.suffix_cons _ _))

theorem openNat_frame (s : State) :
    Frame [.fresh] s (openNat s).2 := by
  unfold openNat
  repeat' first
    | with_reducible exact Frame.refl _ _
    | (simp only [Frame.spelled]; (with_reducible apply FrameMk.upd); (with_reducible (intro b hb; cases b <;> first | exact absurd (by decide) hb | (dsimp only [Region.same] <;> rfl) | exact refs_id rfl)); (dsimp only; first | with_reducible exact List.suffix_refl _ | with_reducible exact List.suffix_cons _ _))

theorem setParamCur_frame (id : Nat) (target : Nat) (v : Nat) (s : State) :
    Frame [.par] s (setParamCur id target v s) := by
  unfold setParamCur
  repeat' first
    | with_reducible exact Frame.refl _ _
    | (simp only [Frame.spelled]; (with_reducible apply FrameMk.upd); (with_reducible (intro b hb; cases b <;> first | exact absurd (by decide) hb | (dsimp only [Region.same] <;> rfl) | exact refs_id rfl)); (dsimp only; first | with_reducible exact List.suffix_refl _ | with_reducible exact List.suffix_cons _ _))

theorem pulseFast_frame (n : Nat) (s : State) :
    Frame [.ic] s (pulseFast n s) := by
  unfold pulseFast
  repeat' first
    | with_reducible exact Frame.refl _ _
    | with_reducible refine (setFast_frame _ _ _).comp ?_ (by decide)

end Sys2Proof.Machine
end

