-- ==== Sys2Proof/Laws/FrameFlags.lean ====
section
/-!
SUPPORT. The frames of the operations of Machine/Flags.lean: which parts of the state each may change.
-/

namespace Sys2Proof.Machine

theorem senseFast_frame (n : Nat) (s : State) :
    Frame [.ic] s (senseFast n s) := by
  unfold senseFast
  repeat' first
    | with_reducible exact Frame.refl _ _
    | with_reducible refine (setFast_frame _ _ _).comp ?_ (by decide)

theorem setSlot_frame (i : Nat) (v : Slot) (s : State) :
    Frame [.ce] s (setSlot i v s) := by
  unfold setSlot
  repeat' first
    | with_reducible exact Frame.refl _ _
    | (simp only [Frame.spelled]; (with_reducible apply FrameMk.upd); (with_reducible (intro b hb; cases b <;> first | exact absurd (by decide) hb | (dsimp only [Region.same] <;> rfl) | exact refs_id rfl)); (dsimp only; first | with_reducible exact List.suffix_refl _ | with_reducible exact List.suffix_cons _ _))

theorem setServoMod_frame (k : Nat) (v : ServoMod) (s : State) :
    Frame [.sv] s (setServoMod k v s) := by
  unfold setServoMod
  repeat' first
    | with_reducible exact Frame.refl _ _
    | (simp only [Frame.spelled]; (with_reducible apply FrameMk.upd); (with_reducible (intro b hb; cases b <;> first | exact absurd (by decide) hb | (dsimp only [Region.same] <;> rfl) | exact refs_id rfl)); (dsimp only; first | with_reducible exact List.suffix_refl _ | with_reducible exact List.suffix_cons _ _))

theorem setServoRd_frame (n : Nat) (v : ServoRd) (s : State) :
    Frame [.sv] s (setServoRd n v s) := by
  unfold setServoRd
  repeat' first
    | with_reducible exact Frame.refl _ _
    | (simp only [Frame.spelled]; (with_reducible apply FrameMk.upd); (with_reducible (intro b hb; cases b <;> first | exact absurd (by decide) hb | (dsimp only [Region.same] <;> rfl) | exact refs_id rfl)); (dsimp only; first | with_reducible exact List.suffix_refl _ | with_reducible exact List.suffix_cons _ _))

theorem setHead_frame (m : Nat) (v : Head) (s : State) :
    Frame [.lk] s (setHead m v s) := by
  unfold setHead
  repeat' first
    | with_reducible exact Frame.refl _ _
    | (simp only [Frame.spelled]; (with_reducible apply FrameMk.upd); (with_reducible (intro b hb; cases b <;> first | exact absurd (by decide) hb | (dsimp only [Region.same] <;> rfl) | exact refs_id rfl)); (dsimp only; first | with_reducible exact List.suffix_refl _ | with_reducible exact List.suffix_cons _ _))

theorem setDie_frame (d : Nat) (v : Unit_) (s : State) :
    Frame [.crew] s (setDie d v s) := by
  unfold setDie
  repeat' first
    | with_reducible exact Frame.refl _ _
    | (simp only [Frame.spelled]; (with_reducible apply FrameMk.upd); (with_reducible (intro b hb; cases b <;> first | exact absurd (by decide) hb | (dsimp only [Region.same] <;> rfl) | exact refs_id rfl)); (dsimp only; first | with_reducible exact List.suffix_refl _ | with_reducible exact List.suffix_cons _ _))

theorem senseSrc_frame (f : Sys2Proof.Fn) (n : Nat) (s : State) :
    Frame [.ic] s (senseSrc f n s) := by
  unfold senseSrc
  repeat' first
    | with_reducible exact Frame.refl _ _
    | with_reducible refine (setSrc_frame _ _ _ _).comp ?_ (by decide)
    | with_reducible refine Frame.ite ?_ ?_

end Sys2Proof.Machine
end

