-- ==== Sys2Proof/Laws/FrameInterrupts.lean ====
section
/-!
SUPPORT. The frames of the operations of Machine/Interrupts.lean: which parts of the state each may change.
-/

namespace Sys2Proof.Machine

theorem unbindCq_frame (f : Sys2Proof.Fn) (q : Nat) (s : State) :
    Frame [.ic] s (unbindCq f q s) := by
  unfold unbindCq
  repeat' first
    | with_reducible exact Frame.refl _ _
    | with_reducible refine (setSrc_frame _ _ _ _).comp ?_ (by decide)

theorem setIcFn_frame (f : Sys2Proof.Fn) (v : IcFn) (s : State) :
    Frame [.ic] s (setIcFn f v s) := by
  unfold setIcFn
  repeat' first
    | with_reducible exact Frame.refl _ _
    | (simp only [Frame.spelled]; (with_reducible apply FrameMk.upd); (with_reducible (intro b hb; cases b <;> first | exact absurd (by decide) hb | (dsimp only [Region.same] <;> rfl) | exact refs_id rfl)); (dsimp only; first | with_reducible exact List.suffix_refl _ | with_reducible exact List.suffix_cons _ _))

theorem bindCq_frame (f : Sys2Proof.Fn) (q : Nat) (v : Nat) (ien : Bool) (s : State) :
    Frame [.ic] s (bindCq f q v ien s) := by
  unfold bindCq
  repeat' first
    | with_reducible exact Frame.refl _ _
    | with_reducible refine (setSrc_frame _ _ _ _).comp ?_ (by decide)

theorem lookWord_frame (f : Sys2Proof.Fn) (w : Nat) (s : State) :
    Frame [.ic] s (lookWord f w s) := by
  unfold lookWord
  repeat' first
    | with_reducible exact Frame.refl _ _
    | with_reducible assumption
    | with_reducible refine (setSrc_frame _ _ _ _).comp ?_ (by decide)
    | with_reducible refine Frame.forEach _ _ ?_ ?_
    | intro _

theorem lookFast_frame (s : State) :
    Frame [.ic] s (lookFast s) := by
  unfold lookFast
  repeat' first
    | with_reducible exact Frame.refl _ _
    | with_reducible assumption
    | with_reducible refine (setFast_frame _ _ _).comp ?_ (by decide)
    | with_reducible refine Frame.forEach _ _ ?_ ?_
    | intro _

theorem messageWrite_frame (f : Sys2Proof.Fn) (v : Nat) (s : State) :
    Frame [.ic, .out] s (messageWrite f v s) := by
  unfold messageWrite
  repeat' first
    | with_reducible exact Frame.refl _ _
    | with_reducible refine (emit_frame _ _).comp ?_ (by decide)
    | with_reducible refine Frame.ite ?_ ?_
    | (simp only [Frame.spelled]; (with_reducible apply FrameMk.upd); (with_reducible (intro b hb; cases b <;> first | exact absurd (by decide) hb | (dsimp only [Region.same] <;> rfl) | exact refs_id rfl)); (dsimp only; first | with_reducible exact List.suffix_refl _ | with_reducible exact List.suffix_cons _ _))

theorem deliverFast_frame (s : State) :
    Frame [.ic, .out] s (deliverFast s) := by
  unfold deliverFast
  repeat' first
    | with_reducible exact Frame.refl _ _
    | with_reducible assumption
    | with_reducible refine (setFast_frame _ _ _).comp ?_ (by decide)
    | with_reducible refine (messageWrite_frame _ _ _).comp ?_ (by decide)
    | with_reducible refine Frame.forEach _ _ ?_ ?_
    | intro _
    | (simp only [Frame.spelled]; (with_reducible apply FrameMk.upd); (with_reducible (intro b hb; cases b <;> first | exact absurd (by decide) hb | (dsimp only [Region.same] <;> rfl) | exact refs_id rfl)); (dsimp only; first | with_reducible exact List.suffix_refl _ | with_reducible exact List.suffix_cons _ _))

theorem deliverGroup_frame (f : Sys2Proof.Fn) (v : Nat) (s : State) :
    Frame [.ic, .out] s (deliverGroup f v s) := by
  unfold deliverGroup
  repeat' first
    | with_reducible exact Frame.refl _ _
    | with_reducible assumption
    | with_reducible refine (setSrc_frame _ _ _ _).comp ?_ (by decide)
    | with_reducible refine (messageWrite_frame _ _ _).comp ?_ (by decide)
    | with_reducible refine Frame.forEach _ _ ?_ ?_
    | intro _
    | (simp only [Frame.spelled]; (with_reducible apply FrameMk.upd); (with_reducible (intro b hb; cases b <;> first | exact absurd (by decide) hb | (dsimp only [Region.same] <;> rfl) | exact refs_id rfl)); (dsimp only; first | with_reducible exact List.suffix_refl _ | with_reducible exact List.suffix_cons _ _))

theorem eoiFast_frame (s : State) :
    Frame [.ic] s (eoiFast s) := by
  unfold eoiFast
  repeat' first
    | with_reducible exact Frame.refl _ _
    | with_reducible assumption
    | with_reducible refine (setFast_frame _ _ _).comp ?_ (by decide)
    | with_reducible refine Frame.forEach _ _ ?_ ?_
    | intro _

theorem eoiGroup_frame (f : Sys2Proof.Fn) (v : Nat) (s : State) :
    Frame [.ic] s (eoiGroup f v s) := by
  unfold eoiGroup
  repeat' first
    | with_reducible exact Frame.refl _ _
    | with_reducible assumption
    | with_reducible refine (setSrc_frame _ _ _ _).comp ?_ (by decide)
    | with_reducible refine Frame.forEach _ _ ?_ ?_
    | intro _

theorem icReset_frame (f : Sys2Proof.Fn) (s : State) :
    Frame [.ic] s (icReset f s) := by
  unfold icReset
  repeat' first
    | with_reducible exact Frame.refl _ _
    | (simp only [Frame.spelled]; (with_reducible apply FrameMk.upd); (with_reducible (intro b hb; cases b <;> first | exact absurd (by decide) hb | (dsimp only [Region.same] <;> rfl) | exact refs_id rfl)); (dsimp only; first | with_reducible exact List.suffix_refl _ | with_reducible exact List.suffix_cons _ _))

theorem pendWordWrite_frame (f : Sys2Proof.Fn) (w : Nat) (value : Sys2Proof.Word) (s : State) :
    Frame [.ic] s (pendWordWrite f w value s) := by
  unfold pendWordWrite
  repeat' first
    | with_reducible exact Frame.refl _ _
    | with_reducible assumption
    | with_reducible refine (setSrc_frame _ _ _ _).comp ?_ (by decide)
    | with_reducible refine Frame.forEach _ _ ?_ ?_
    | intro _

theorem maskWordWrite_frame (f : Sys2Proof.Fn) (w : Nat) (value : Sys2Proof.Word) (s : State) :
    Frame [.ic] s (maskWordWrite f w value s) := by
  unfold maskWordWrite
  repeat' first
    | with_reducible exact Frame.refl _ _
    | with_reducible assumption
    | with_reducible refine (setSrc_frame _ _ _ _).comp ?_ (by decide)
    | with_reducible refine Frame.forEach _ _ ?_ ?_
    | intro _

theorem srcCfgWrite_frame (f : Sys2Proof.Fn) (value : Sys2Proof.Word) (s : State) :
    Frame [.ic] s (srcCfgWrite f value s) := by
  unfold srcCfgWrite
  repeat' first
    | with_reducible exact Frame.refl _ _
    | with_reducible refine (setSrc_frame _ _ _ _).comp ?_ (by decide)
    | with_reducible refine (setIcFn_frame _ _ _).comp ?_ (by decide)
    | with_reducible refine Frame.ite ?_ ?_

theorem messageHeld_frame (f : Sys2Proof.Fn) (v : Nat) (s : State) :
    Frame [.ic, .out] s (messageHeld f v s) := by
  unfold messageHeld
  repeat' first
    | with_reducible exact Frame.refl _ _
    | with_reducible refine (emit_frame _ _).comp ?_ (by decide)
    | with_reducible refine Frame.ite ?_ ?_
    | (simp only [Frame.spelled]; (with_reducible apply FrameMk.upd); (with_reducible (intro b hb; cases b <;> first | exact absurd (by decide) hb | (dsimp only [Region.same] <;> rfl) | exact refs_id rfl)); (dsimp only; first | with_reducible exact List.suffix_refl _ | with_reducible exact List.suffix_cons _ _))

theorem setMsixWord_frame (f : Sys2Proof.Fn) (v : Nat) (w : Nat) (a4 : Sys2Proof.Word) (s : State) :
    Frame [.ic] s (setMsixWord f v w a4 s) := by
  unfold setMsixWord
  repeat' first
    | with_reducible exact Frame.refl _ _
    | (simp only [Frame.spelled]; (with_reducible apply FrameMk.upd); (with_reducible (intro b hb; cases b <;> first | exact absurd (by decide) hb | (dsimp only [Region.same] <;> rfl) | exact refs_id rfl)); (dsimp only; first | with_reducible exact List.suffix_refl _ | with_reducible exact List.suffix_cons _ _))

end Sys2Proof.Machine
end

