-- ==== Sys2Proof/Laws/FrameLoops.lean ====
section
/-!
SUPPORT. The frames of the operations of Machine/Loops.lean: which parts of the state each may change.
-/

namespace Sys2Proof.Machine

theorem modeLoops_frame (m : Mode) (s : State) :
    Frame [.ce] s (modeLoops m s) := by
  unfold modeLoops
  repeat' first
    | with_reducible exact Frame.refl _ _
    | with_reducible assumption
    | with_reducible refine (setSlot_frame _ _ _).comp ?_ (by decide)
    | with_reducible refine Frame.ite ?_ ?_
    | with_reducible refine Frame.foldl _ _ ?_ ?_
    | intro _
    | split

theorem stopCustom_frame (m : Mode) (s : State) :
    Frame [.ce] s (stopCustom m s) := by
  unfold stopCustom
  repeat' first
    | with_reducible exact Frame.refl _ _
    | with_reducible assumption
    | with_reducible refine (setSlot_frame _ _ _).comp ?_ (by decide)
    | with_reducible refine Frame.ite ?_ ?_
    | with_reducible refine Frame.foldl _ _ ?_ ?_
    | intro _

theorem calWrite_frame (off : Nat) (w : Sys2Proof.Word) (s : State) :
    Frame [.logs] s (calWrite off w s) := by
  unfold calWrite
  repeat' first
    | with_reducible exact Frame.refl _ _
    | (simp only [Frame.spelled]; (with_reducible apply FrameMk.upd); (with_reducible (intro b hb; cases b <;> first | exact absurd (by decide) hb | (dsimp only [Region.same] <;> rfl) | exact refs_id rfl)); (dsimp only; first | with_reducible exact List.suffix_refl _ | with_reducible exact List.suffix_cons _ _))

theorem profileWords_frame (s : State) :
    Frame [.ce] s (profileWords s) := by
  unfold profileWords
  repeat' first
    | with_reducible exact Frame.refl _ _
    | with_reducible assumption
    | with_reducible refine (setSlot_frame _ _ _).comp ?_ (by decide)
    | with_reducible refine Frame.ite ?_ ?_
    | with_reducible refine Frame.foldl _ _ ?_ ?_
    | intro _

theorem loadLoops_frame (s : State) :
    Frame [.ce] s (loadLoops s) := by
  unfold loadLoops
  repeat' first
    | with_reducible exact Frame.refl _ _
    | with_reducible assumption
    | with_reducible refine (profileWords_frame _).comp ?_ (by decide)
    | with_reducible refine (setSlot_frame _ _ _).comp ?_ (by decide)
    | with_reducible refine Frame.ite ?_ ?_
    | with_reducible refine Frame.foldl _ _ ?_ ?_
    | intro _

end Sys2Proof.Machine
end

