-- ==== Sys2Proof/Laws/FrameOperands.lean ====
section
/-!
SUPPORT. The frames of the operations of Machine/Operands.lean: which parts of the state each may change.
-/

namespace Sys2Proof.Machine

theorem undefineArea_frame (f : Sys2Proof.Fn) (p : List (Sys2Proof.DWord × Nat)) (o : Nat) (n : Nat) (s : State) :
    Frame [.out] s (undefineArea f p o n s) := by
  unfold undefineArea
  repeat' first
    | with_reducible exact Frame.refl _ _
    | with_reducible assumption
    | with_reducible refine (emit_frame _ _).comp ?_ (by decide)
    | with_reducible refine Frame.forEach _ _ ?_ ?_
    | intro _

theorem writeArea_frame (f : Sys2Proof.Fn) (p : List (Sys2Proof.DWord × Nat)) (o : Nat) (bytes : List Sys2Proof.Byte) (s : State) :
    Frame [.out] s (writeArea f p o bytes s) := by
  unfold writeArea
  repeat' first
    | with_reducible exact Frame.refl _ _
    | with_reducible assumption
    | with_reducible refine (emit_frame _ _).comp ?_ (by decide)
    | with_reducible refine Frame.foldlSnd _ _ ?_ ?_
    | intro _

end Sys2Proof.Machine
end

