-- ==== Sys2Proof/Laws/FrameControl.lean ====
section
/-!
SUPPORT. The frames of the operations of Machine/Control.lean: which parts of the state each may change.
-/

namespace Sys2Proof.Machine

theorem postEntry_frame (c : InFlight) (status : Nat) (r0 : Nat) (r1 : Nat) (more : Bool) (s : State) :
    Frame [.hq, .out] s (postEntry c status r0 r1 more s) := by
  unfold postEntry
  repeat' first
    | with_reducible exact Frame.refl _ _
    | with_reducible refine (emit_frame _ _).comp ?_ (by decide)
    | with_reducible refine (setCq_frame _ _ _ _).comp ?_ (by decide)
    | with_reducible refine Frame.ite ?_ ?_

theorem dropWork_frame (r : CmdRef) (s : State) :
    Frame [.eng, .cy] s (dropWork r s) := by
  unfold dropWork
  repeat' first
    | with_reducible exact Frame.refl _ _
    | (simp only [Frame.spelled]; (with_reducible apply FrameMk.upd); (with_reducible (intro b hb; cases b <;> first | exact absurd (by decide) hb | (dsimp only [Region.same] <;> rfl) | exact refs_id rfl)); (dsimp only; first | with_reducible exact List.suffix_refl _ | with_reducible exact List.suffix_cons _ _))

theorem setPart_frame (p : Nat) (v : Part) (s : State) :
    Frame [.vol] s (setPart p v s) := by
  unfold setPart
  repeat' first
    | with_reducible exact Frame.refl _ _
    | (simp only [Frame.spelled]; (with_reducible apply FrameMk.upd); (with_reducible (intro b hb; cases b <;> first | exact absurd (by decide) hb | (dsimp only [Region.same] <;> rfl) | exact refs_id rfl)); (dsimp only; first | with_reducible exact List.suffix_refl _ | with_reducible exact List.suffix_cons _ _))

theorem voidBlocks_frame (p : Nat) (first : Nat) (count : Nat) (s : State) :
    Frame [.vol] s (voidBlocks p first count s) := by
  unfold voidBlocks
  repeat' first
    | with_reducible exact Frame.refl _ _
    | with_reducible refine (setPart_frame _ _ _).comp ?_ (by decide)

theorem startRuns_frame (c : InFlight) (s : State) :
    Frame [.eng] s (startRuns c s) := by
  unfold startRuns
  repeat' first
    | with_reducible exact Frame.refl _ _
    | with_reducible refine Frame.ite ?_ ?_
    | (simp only [Frame.spelled]; (with_reducible apply FrameMk.upd); (with_reducible (intro b hb; cases b <;> first | exact absurd (by decide) hb | (dsimp only [Region.same] <;> rfl) | exact refs_id rfl)); (dsimp only; first | with_reducible exact List.suffix_refl _ | with_reducible exact List.suffix_cons _ _))

theorem trimCache_frame (a : Nat) (a2 : State) :
    Frame [.rdr] a2 (trimCache a a2) := by
  fun_induction trimCache a a2
  all_goals repeat' first
    | with_reducible exact Frame.refl _ _
    | (simp only [Frame.spelled]; (with_reducible apply FrameMk.upd); (with_reducible (intro b hb; cases b <;> first | exact absurd (by decide) hb | (dsimp only [Region.same] <;> rfl) | exact refs_id rfl)); (dsimp only; first | with_reducible exact List.suffix_refl _ | with_reducible exact List.suffix_cons _ _))
    | (extract_lets +onlyGivenNames y; first | (refine have hy : Frame [.rdr] a2 y := ?_; ?_; unfold y) | (refine have hy : Frame [.rdr] a2 y.2 := ?_; ?_; unfold y) | skip)
    | with_reducible refine Frame.upd (by assumption) ?_

theorem grantTo_frame (c : InFlight) (s : State) :
    Frame [.hq, .eng, .rdr, .sm] s (grantTo c s) := by
  unfold grantTo
  repeat' first
    | with_reducible exact Frame.refl _ _
    | with_reducible refine (setCmd_frame _ _).comp ?_ (by decide)
    | with_reducible refine (startRuns_frame _ _).comp ?_ (by decide)
    | with_reducible refine (trimCache_frame _ _).comp ?_ (by decide)
    | (simp only [Frame.spelled]; (with_reducible apply FrameMk.upd); (with_reducible (intro b hb; cases b <;> first | exact absurd (by decide) hb | (dsimp only [Region.same] <;> rfl) | exact refs_id rfl)); (dsimp only; first | with_reducible exact List.suffix_refl _ | with_reducible exact List.suffix_cons _ _))

theorem grantList_frame (a : List InFlight) (a2 : State) :
    Frame [.hq, .eng, .rdr, .sm] a2 (grantList a a2) := by
  fun_induction grantList a a2
  all_goals repeat' first
    | with_reducible exact Frame.refl _ _
    | with_reducible assumption
    | with_reducible refine (grantTo_frame _ _).comp ?_ (by decide)
    | (extract_lets +onlyGivenNames y; first | (refine have hy : Frame [.hq, .eng, .rdr, .sm] a2 y := ?_; ?_; unfold y) | (refine have hy : Frame [.hq, .eng, .rdr, .sm] a2 y.2 := ?_; ?_; unfold y) | skip)
    | with_reducible refine Frame.upd (by assumption) ?_

theorem grantPass_frame (s : State) :
    Frame [.hq, .eng, .rdr, .sm] s (grantPass s) := by
  unfold grantPass
  repeat' first
    | with_reducible exact Frame.refl _ _
    | with_reducible refine (grantList_frame _ _).comp ?_ (by decide)

theorem releaseStaging_frame (r : CmdRef) (s : State) :
    Frame [.hq, .eng, .rdr, .sm] s (releaseStaging r s) := by
  unfold releaseStaging
  repeat' first
    | with_reducible exact Frame.refl _ _
    | with_reducible refine (grantPass_frame _).comp ?_ (by decide)
    | (simp only [Frame.spelled]; (with_reducible apply FrameMk.upd); (with_reducible (intro b hb; cases b <;> first | exact absurd (by decide) hb | (dsimp only [Region.same] <;> rfl) | exact refs_id rfl)); (dsimp only; first | with_reducible exact List.suffix_refl _ | with_reducible exact List.suffix_cons _ _))

theorem retire_frame (c : InFlight) (status : Nat) (s : State) :
    Frame [.hq, .eng, .cy, .vol, .rdr, .sm] s (retire c status s) := by
  unfold retire
  repeat' first
    | with_reducible exact Frame.refl _ _
    | with_reducible refine (dropWork_frame _ _).comp ?_ (by decide)
    | with_reducible refine (voidBlocks_frame _ _ _ _).comp ?_ (by decide)
    | with_reducible refine (releaseStaging_frame _ _).comp ?_ (by decide)
    | with_reducible refine Frame.ite ?_ ?_
    | (simp only [Frame.spelled]; (with_reducible apply FrameMk.upd); (with_reducible (intro b hb; cases b <;> first | exact absurd (by decide) hb | (dsimp only [Region.same] <;> rfl) | exact refs_id rfl | exact refs_filter _ rfl | (refine refs_map _ rfl ?_; intro d; split <;> simp_all))); (dsimp only; first | with_reducible exact List.suffix_refl _ | with_reducible exact List.suffix_cons _ _))

theorem abortsDone_frame (target : InFlight) (s : State) :
    Frame [.hq, .eng, .cy, .vol, .rdr, .sm, .out] s (abortsDone target s) := by
  unfold abortsDone
  repeat' first
    | with_reducible exact Frame.refl _ _
    | with_reducible assumption
    | with_reducible refine (postEntry_frame _ _ _ _ _ _).comp ?_ (by decide)
    | with_reducible refine (retire_frame _ _ _).comp ?_ (by decide)
    | with_reducible refine Frame.forEach _ _ ?_ ?_
    | intro _

theorem fnStart_frame (f : Sys2Proof.Fn) (s : State) :
    Frame [.hq, .ic] s (fnStart f s) := by
  unfold fnStart
  repeat' first
    | with_reducible exact Frame.refl _ _
    | with_reducible refine (setHqFn_frame _ _ _).comp ?_ (by decide)
    | with_reducible refine (setIcFn_frame _ _ _).comp ?_ (by decide)
    | with_reducible refine (setSq_frame _ _ _ _).comp ?_ (by decide)
    | with_reducible refine (bindCq_frame _ _ _ _ _).comp ?_ (by decide)
    | with_reducible refine (setCq_frame _ _ _ _).comp ?_ (by decide)
    | with_reducible refine Frame.ite ?_ ?_

theorem fnSettle_frame (f : Sys2Proof.Fn) (s : State) :
    Frame [.hq, .ic] s (fnSettle f s) := by
  unfold fnSettle
  repeat' first
    | with_reducible exact Frame.refl _ _
    | with_reducible assumption
    | with_reducible refine (unbindCq_frame _ _ _).comp ?_ (by decide)
    | with_reducible refine (setCq_frame _ _ _ _).comp ?_ (by decide)
    | with_reducible refine (setSq_frame _ _ _ _).comp ?_ (by decide)
    | with_reducible refine (setHqFn_frame _ _ _).comp ?_ (by decide)
    | with_reducible refine (fnStart_frame _ _).comp ?_ (by decide)
    | with_reducible refine Frame.ite ?_ ?_
    | (extract_lets +onlyGivenNames y; first | (refine have hy : Frame [.hq, .ic] s y := ?_; ?_; unfold y) | (refine have hy : Frame [.hq, .ic] s y.2 := ?_; ?_; unfold y) | skip)
    | split

theorem complete_frame (r : CmdRef) (status : Nat) (r0 : Nat) (r1 : Nat) (more : Bool) (s : State) :
    Frame [.hq, .eng, .cy, .vol, .rdr, .sm, .ic, .out] s (complete r status r0 r1 more s) := by
  unfold complete
  repeat' first
    | with_reducible exact Frame.refl _ _
    | with_reducible refine (fnSettle_frame _ _).comp ?_ (by decide)
    | with_reducible refine (abortsDone_frame _ _).comp ?_ (by decide)
    | with_reducible refine (retire_frame _ _ _).comp ?_ (by decide)
    | with_reducible refine (postEntry_frame _ _ _ _ _ _).comp ?_ (by decide)
    | split

theorem lostEvent_frame (cause : Nat) (l : Lost) (s : State) :
    Frame [.spill, .ev, .out] s (lostEvent cause l s) := by
  unfold lostEvent
  repeat' first
    | with_reducible exact Frame.refl _ _
    | with_reducible refine (event_frame _ _ _ _ _).comp ?_ (by decide)

theorem addLosses_frame (cause : Nat) (seq : Nat) (ls : List Lost) (s : State) :
    Frame [.hq, .spill, .ev, .out] s (addLosses cause seq ls s) := by
  unfold addLosses
  repeat' first
    | with_reducible exact Frame.refl _ _
    | with_reducible assumption
    | with_reducible refine (lostEvent_frame _ _ _).comp ?_ (by decide)
    | with_reducible refine Frame.forEach _ _ ?_ ?_
    | with_reducible refine Frame.ite ?_ ?_
    | intro _
    | (simp only [Frame.spelled]; (with_reducible apply FrameMk.upd); (with_reducible (intro b hb; cases b <;> first | exact absurd (by decide) hb | (dsimp only [Region.same] <;> rfl) | exact refs_id rfl)); (dsimp only; first | with_reducible exact List.suffix_refl _ | with_reducible exact List.suffix_cons _ _))
    | (extract_lets +onlyGivenNames y; first | (refine have hy : Frame [.hq, .spill, .ev, .out] s y := ?_; ?_; unfold y) | (refine have hy : Frame [.hq, .spill, .ev, .out] s y.2 := ?_; ?_; unfold y) | skip)
    | split

theorem flushReport_frame (r : CmdRef) (c : InFlight) (r0 : Nat) (r1 : Nat) (all : List (Bool × Lost)) (s : State) :
    Frame [.hq, .eng, .cy, .vol, .rdr, .sm, .ic, .spill, .ev, .out] s (flushReport r c r0 r1 all s) := by
  unfold flushReport
  repeat' first
    | with_reducible exact Frame.refl _ _
    | with_reducible refine (complete_frame _ _ _ _ _ _).comp ?_ (by decide)
    | with_reducible refine (event_frame _ _ _ _ _).comp ?_ (by decide)
    | with_reducible refine Frame.ite ?_ ?_
    | (simp only [Frame.spelled]; (with_reducible apply FrameMk.upd); (with_reducible (intro b hb; cases b <;> first | exact absurd (by decide) hb | (dsimp only [Region.same] <;> rfl) | exact refs_id rfl)); (dsimp only; first | with_reducible exact List.suffix_refl _ | with_reducible exact List.suffix_cons _ _))
    | (extract_lets +onlyGivenNames y; first | (refine have hy : Frame [.hq, .eng, .cy, .vol, .rdr, .sm, .ic, .spill, .ev, .out] s y := ?_; ?_; unfold y) | (refine have hy : Frame [.hq, .eng, .cy, .vol, .rdr, .sm, .ic, .spill, .ev, .out] s y.2 := ?_; ?_; unfold y) | skip)
    | split

theorem completeFlush_frame (r : CmdRef) (r0 : Nat) (r1 : Nat) (s : State) :
    Frame [.hq, .eng, .cy, .vol, .rdr, .sm, .ic, .spill, .ev, .out] s (completeFlush r r0 r1 s) := by
  unfold completeFlush
  repeat' first
    | with_reducible exact Frame.refl _ _
    | with_reducible refine (flushReport_frame _ _ _ _ _ _).comp ?_ (by decide)
    | (extract_lets +onlyGivenNames y; first | (refine have hy : Frame [.hq, .eng, .cy, .vol, .rdr, .sm, .ic, .spill, .ev, .out] s y := ?_; ?_; unfold y) | (refine have hy : Frame [.hq, .eng, .cy, .vol, .rdr, .sm, .ic, .spill, .ev, .out] s y.2 := ?_; ?_; unfold y) | skip)
    | split

theorem flushPass_frame (s : State) :
    Frame [.hq, .eng, .cy, .vol, .rdr, .sm, .ic, .spill, .ev, .out] s (flushPass s) := by
  unfold flushPass
  repeat' first
    | with_reducible exact Frame.refl _ _
    | with_reducible assumption
    | with_reducible refine (completeFlush_frame _ _ _ _).comp ?_ (by decide)
    | with_reducible refine Frame.forEach _ _ ?_ ?_
    | with_reducible refine Frame.ite ?_ ?_
    | intro _
    | (extract_lets +onlyGivenNames y; first | (refine have hy : Frame [.hq, .eng, .cy, .vol, .rdr, .sm, .ic, .spill, .ev, .out] s y := ?_; ?_; unfold y) | (refine have hy : Frame [.hq, .eng, .cy, .vol, .rdr, .sm, .ic, .spill, .ev, .out] s y.2 := ?_; ?_; unfold y) | skip)
    | split

theorem failCmd_frame (r : CmdRef) (status : Nat) (s : State) :
    Frame [.hq, .eng, .cy, .vol, .rdr, .sm, .ic, .out] s (failCmd r status s) := by
  unfold failCmd
  repeat' first
    | with_reducible exact Frame.refl _ _
    | with_reducible refine (complete_frame _ _ _ _ _ _).comp ?_ (by decide)
    | split

theorem releaseRecord_frame (part : Nat) (block : Nat) (s : State) :
    Frame [.hq, .eng, .rdr, .sm] s (releaseRecord part block s) := by
  unfold releaseRecord
  repeat' first
    | with_reducible exact Frame.refl _ _
    | with_reducible refine (grantPass_frame _).comp ?_ (by decide)
    | (simp only [Frame.spelled]; (with_reducible apply FrameMk.upd); (with_reducible (intro b hb; cases b <;> first | exact absurd (by decide) hb | (dsimp only [Region.same] <;> rfl) | exact refs_id rfl)); (dsimp only; first | with_reducible exact List.suffix_refl _ | with_reducible exact List.suffix_cons _ _))

theorem setMode_frame (m : Mode) (s : State) :
    Frame [.gl, .crew, .ce, .ic] s (setMode m s) := by
  unfold setMode
  repeat' first
    | with_reducible exact Frame.refl _ _
    | with_reducible refine (senseFast_frame _ _).comp ?_ (by decide)
    | with_reducible refine (pulseInternal_frame _ _).comp ?_ (by decide)
    | with_reducible refine (modeLoops_frame _ _).comp ?_ (by decide)
    | with_reducible refine (stopCustom_frame _ _).comp ?_ (by decide)
    | with_reducible refine Frame.ite ?_ ?_
    | (simp only [Frame.spelled]; (with_reducible apply FrameMk.upd); (with_reducible (intro b hb; cases b <;> first | exact absurd (by decide) hb | (dsimp only [Region.same] <;> rfl) | exact refs_id rfl)); (dsimp only; first | with_reducible exact List.suffix_refl _ | with_reducible exact List.suffix_cons _ _))

theorem senseFastAll_frame (s : State) :
    Frame [.ic] s (senseFastAll s) := by
  unfold senseFastAll
  repeat' first
    | with_reducible exact Frame.refl _ _
    | with_reducible assumption
    | with_reducible refine (senseFast_frame _ _).comp ?_ (by decide)
    | with_reducible refine Frame.forEach _ _ ?_ ?_
    | with_reducible refine Frame.ite ?_ ?_
    | intro _

theorem endSession_frame (p : Nat) (s : State) :
    Frame [.vol] s (endSession p s) := by
  unfold endSession
  repeat' first
    | with_reducible exact Frame.refl _ _
    | with_reducible refine (setPart_frame _ _ _).comp ?_ (by decide)
    | (extract_lets +onlyGivenNames y; first | (refine have hy : Frame [.vol] s y := ?_; ?_; unfold y) | (refine have hy : Frame [.vol] s y.2 := ?_; ?_; unfold y) | skip)
    | split

theorem endSessions_frame (s : State) :
    Frame [.vol] s (endSessions s) := by
  unfold endSessions
  repeat' first
    | with_reducible exact Frame.refl _ _
    | with_reducible assumption
    | with_reducible refine (endSession_frame _ _).comp ?_ (by decide)
    | with_reducible refine Frame.forEach _ _ ?_ ?_
    | intro _

theorem dropBurst_frame (s : State) :
    Frame [.vol, .wr] s (dropBurst s) := by
  unfold dropBurst
  repeat' first
    | with_reducible exact Frame.refl _ _
    | with_reducible refine (setPart_frame _ _ _).comp ?_ (by decide)
    | (simp only [Frame.spelled]; (with_reducible apply FrameMk.upd); (with_reducible (intro b hb; cases b <;> first | exact absurd (by decide) hb | (dsimp only [Region.same] <;> rfl) | exact refs_id rfl)); (dsimp only; first | with_reducible exact List.suffix_refl _ | with_reducible exact List.suffix_cons _ _))
    | (extract_lets +onlyGivenNames y; first | (refine have hy : Frame [.vol, .wr] s y := ?_; ?_; unfold y) | (refine have hy : Frame [.vol, .wr] s y.2 := ?_; ?_; unfold y) | skip)
    | split

theorem closeGate_frame (k : Nat) (s : State) :
    Frame [.wr, .sv, .out] s (closeGate k s) := by
  unfold closeGate
  repeat' first
    | with_reducible exact Frame.refl _ _
    | with_reducible refine (setServoMod_frame _ _ _).comp ?_ (by decide)
    | with_reducible refine (emit_frame _ _).comp ?_ (by decide)
    | with_reducible refine Frame.ite ?_ ?_
    | (simp only [Frame.spelled]; (with_reducible apply FrameMk.upd); (with_reducible (intro b hb; cases b <;> first | exact absurd (by decide) hb | (dsimp only [Region.same] <;> rfl) | exact refs_id rfl)); (dsimp only; first | with_reducible exact List.suffix_refl _ | with_reducible exact List.suffix_cons _ _))

theorem closeGates_frame (s : State) :
    Frame [.wr, .sv, .out] s (closeGates s) := by
  unfold closeGates
  repeat' first
    | with_reducible exact Frame.refl _ _
    | with_reducible assumption
    | with_reducible refine (closeGate_frame _ _).comp ?_ (by decide)
    | with_reducible refine Frame.forEach _ _ ?_ ?_
    | intro _

theorem holdCommands_frame (s : State) :
    Frame [.hq, .eng, .cy, .vol, .rdr, .sm, .ic, .out] s (holdCommands s) := by
  unfold holdCommands
  repeat' first
    | with_reducible exact Frame.refl _ _
    | with_reducible assumption
    | with_reducible refine (failCmd_frame _ _ _).comp ?_ (by decide)
    | with_reducible refine Frame.forEach _ _ ?_ ?_
    | intro _
    | (simp only [Frame.spelled]; (with_reducible apply FrameMk.upd); (with_reducible (intro b hb; cases b <;> first | exact absurd (by decide) hb | (dsimp only [Region.same] <;> rfl) | exact refs_id rfl | exact refs_filter _ rfl | (refine refs_map _ rfl ?_; intro d; split <;> simp_all))); (dsimp only; first | with_reducible exact List.suffix_refl _ | with_reducible exact List.suffix_cons _ _))

theorem enterHold_frame (s : State) :
    Frame [.gl, .crew, .hq, .eng, .cy, .vol, .wr, .rdr, .sm, .sv, .ce, .ic, .spill, .ev, .out] s (enterHold s) := by
  unfold enterHold
  repeat' first
    | with_reducible exact Frame.refl _ _
    | with_reducible refine (endSessions_frame _).comp ?_ (by decide)
    | with_reducible refine (dropBurst_frame _).comp ?_ (by decide)
    | with_reducible refine (setMode_frame _ _).comp ?_ (by decide)
    | with_reducible refine (event_frame _ _ _ _ _).comp ?_ (by decide)
    | with_reducible refine (closeGates_frame _).comp ?_ (by decide)
    | with_reducible refine (holdCommands_frame _).comp ?_ (by decide)
    | (simp only [Frame.spelled]; (with_reducible apply FrameMk.upd); (with_reducible (intro b hb; cases b <;> first | exact absurd (by decide) hb | (dsimp only [Region.same] <;> rfl) | exact refs_id rfl)); (dsimp only; first | with_reducible exact List.suffix_refl _ | with_reducible exact List.suffix_cons _ _))

theorem holdCause_frame (b : Nat) (s : State) :
    Frame [.gl, .crew, .hq, .eng, .cy, .vol, .wr, .rdr, .sm, .sv, .ce, .ic, .spill, .ev, .out] s (holdCause b s) := by
  unfold holdCause
  repeat' first
    | with_reducible exact Frame.refl _ _
    | with_reducible refine (enterHold_frame _).comp ?_ (by decide)
    | with_reducible refine Frame.ite ?_ ?_
    | (simp only [Frame.spelled]; (with_reducible apply FrameMk.upd); (with_reducible (intro b hb; cases b <;> first | exact absurd (by decide) hb | (dsimp only [Region.same] <;> rfl) | exact refs_id rfl)); (dsimp only; first | with_reducible exact List.suffix_refl _ | with_reducible exact List.suffix_cons _ _))

theorem beginFlush_frame (r : CmdRef) (s : State) :
    Frame [.hq, .vol] s (beginFlush r s) := by
  unfold beginFlush
  repeat' first
    | with_reducible exact Frame.refl _ _
    | (simp only [Frame.spelled]; (with_reducible apply FrameMk.upd); (with_reducible (intro b hb; cases b <;> first | exact absurd (by decide) hb | (dsimp only [Region.same] <;> rfl) | exact refs_id rfl)); (dsimp only; first | with_reducible exact List.suffix_refl _ | with_reducible exact List.suffix_cons _ _))

theorem noteFlush_frame (r : CmdRef) (s : State) :
    Frame [.hq] s (noteFlush r s) := by
  unfold noteFlush
  repeat' first
    | with_reducible exact Frame.refl _ _
    | (simp only [Frame.spelled]; (with_reducible apply FrameMk.upd); (with_reducible (intro b hb; cases b <;> first | exact absurd (by decide) hb | (dsimp only [Region.same] <;> rfl) | exact refs_id rfl)); (dsimp only; first | with_reducible exact List.suffix_refl _ | with_reducible exact List.suffix_cons _ _))

end Sys2Proof.Machine
end

