-- ==== Sys2Proof/Laws/FrameBundle.lean ====
section
/-!
SUPPORT. The frames of the operations of Machine/Bundle.lean: which parts of the state each may change.
-/

namespace Sys2Proof.Machine

theorem freshNonce_frame (s : State) :
    Frame [.se, .fresh] s (freshNonce s) := by
  unfold freshNonce
  repeat' first
    | with_reducible exact Frame.refl _ _
    | with_reducible refine (drbgBytes_frame _ _).comp ?_ (by decide)
    | (simp only [Frame.spelled]; (with_reducible apply FrameMk.upd); (with_reducible (intro b hb; cases b <;> first | exact absurd (by decide) hb | (dsimp only [Region.same] <;> rfl) | exact refs_id rfl)); (dsimp only; first | with_reducible exact List.suffix_refl _ | with_reducible exact List.suffix_cons _ _))

theorem authReject_frame (s : State) :
    Frame [.se] s (authReject s) := by
  unfold authReject
  repeat' first
    | with_reducible exact Frame.refl _ _
    | (simp only [Frame.spelled]; (with_reducible apply FrameMk.upd); (with_reducible (intro b hb; cases b <;> first | exact absurd (by decide) hb | (dsimp only [Region.same] <;> rfl) | exact refs_id rfl)); (dsimp only; first | with_reducible exact List.suffix_refl _ | with_reducible exact List.suffix_cons _ _))

theorem rsaNext_frame (s : State) :
    Frame [.se] s (rsaNext s) := by
  unfold rsaNext
  repeat' first
    | with_reducible exact Frame.refl _ _
    | (simp only [Frame.spelled]; (with_reducible apply FrameMk.upd); (with_reducible (intro b hb; cases b <;> first | exact absurd (by decide) hb | (dsimp only [Region.same] <;> rfl) | exact refs_id rfl)); (dsimp only; first | with_reducible exact List.suffix_refl _ | with_reducible exact List.suffix_cons _ _))
    | (extract_lets +onlyGivenNames y; first | (refine have hy : Frame [.se] s y := ?_; ?_; unfold y) | (refine have hy : Frame [.se] s y.2 := ?_; ?_; unfold y) | skip)
    | split

theorem rsaSubmit_frame (j : RsaJob) (s : State) :
    Frame [.se] s (rsaSubmit j s) := by
  unfold rsaSubmit
  repeat' first
    | with_reducible exact Frame.refl _ _
    | with_reducible refine (rsaNext_frame _).comp ?_ (by decide)
    | (simp only [Frame.spelled]; (with_reducible apply FrameMk.upd); (with_reducible (intro b hb; cases b <;> first | exact absurd (by decide) hb | (dsimp only [Region.same] <;> rfl) | exact refs_id rfl)); (dsimp only; first | with_reducible exact List.suffix_refl _ | with_reducible exact List.suffix_cons _ _))

theorem bundleReject_frame (cause : Nat) (s : State) :
    Frame [.spill, .ev, .se, .out] s (bundleReject cause s) := by
  unfold bundleReject
  repeat' first
    | with_reducible exact Frame.refl _ _
    | with_reducible refine (event_frame _ _ _ _ _).comp ?_ (by decide)
    | (simp only [Frame.spelled]; (with_reducible apply FrameMk.upd); (with_reducible (intro b hb; cases b <;> first | exact absurd (by decide) hb | (dsimp only [Region.same] <;> rfl) | exact refs_id rfl)); (dsimp only; first | with_reducible exact List.suffix_refl _ | with_reducible exact List.suffix_cons _ _))

theorem bundleRun_frame (b : List Sys2Proof.Byte) (s : State) :
    Frame [.gl, .se, .fuses] s (bundleRun b s) := by
  unfold bundleRun
  repeat' first
    | with_reducible exact Frame.refl _ _
    | (simp only [Frame.spelled]; (with_reducible apply FrameMk.upd); (with_reducible (intro b hb; cases b <;> first | exact absurd (by decide) hb | (dsimp only [Region.same] <;> rfl) | exact refs_id rfl)); (dsimp only; first | with_reducible exact List.suffix_refl _ | with_reducible exact List.suffix_cons _ _))

theorem lcWipe_frame (target : Nat) (s : State) :
    Frame [.gl, .par, .rch, .lk, .ev, .se, .logs] s (lcWipe target s) := by
  unfold lcWipe
  repeat' first
    | with_reducible exact Frame.refl _ _
    | with_reducible assumption
    | with_reducible refine (setHead_frame _ _ _).comp ?_ (by decide)
    | with_reducible refine Frame.forEach _ _ ?_ ?_
    | with_reducible refine Frame.ite ?_ ?_
    | intro _
    | (simp only [Frame.spelled]; (with_reducible apply FrameMk.upd); (with_reducible (intro b hb; cases b <;> first | exact absurd (by decide) hb | (dsimp only [Region.same] <;> rfl) | exact refs_id rfl)); (dsimp only; first | with_reducible exact List.suffix_refl _ | with_reducible exact List.suffix_cons _ _))

theorem patchCheck_frame (s : State) :
    Frame [.gl, .spill, .ev, .se, .fuses, .out] s (patchCheck s) := by
  unfold patchCheck
  repeat' first
    | with_reducible exact Frame.refl _ _
    | with_reducible refine (bundleRun_frame _ _).comp ?_ (by decide)
    | with_reducible refine (bundleReject_frame _ _).comp ?_ (by decide)
    | with_reducible refine Frame.ite ?_ ?_

end Sys2Proof.Machine
end

