-- ==== Sys2Proof/Laws/FrameKeys.lean ====
section
/-!
SUPPORT. The frames of the operations of Machine/Keys.lean: which parts of the state each may change.
-/

namespace Sys2Proof.Machine

theorem slotForget_frame (k : Nat) (s : State) :
    Frame [.cy] s (slotForget k s) := by
  unfold slotForget
  repeat' first
    | with_reducible exact Frame.refl _ _
    | with_reducible refine (setKeySlot_frame _ _ _).comp ?_ (by decide)

theorem slotErase_frame (k : Nat) (s : State) :
    Frame [.cy] s (slotErase k s) := by
  unfold slotErase
  repeat' first
    | with_reducible exact Frame.refl _ _
    | with_reducible refine (setKeySlot_frame _ _ _).comp ?_ (by decide)

theorem setKek_frame (f : Sys2Proof.Fn) (k : List Sys2Proof.Byte) (s : State) :
    Frame [.cy] s (setKek f k s) := by
  unfold setKek
  repeat' first
    | with_reducible exact Frame.refl _ _
    | (simp only [Frame.spelled]; (with_reducible apply FrameMk.upd); (with_reducible (intro b hb; cases b <;> first | exact absurd (by decide) hb | (dsimp only [Region.same] <;> rfl) | exact refs_id rfl)); (dsimp only; first | with_reducible exact List.suffix_refl _ | with_reducible exact List.suffix_cons _ _))

theorem healthFail_frame (s : State) :
    Frame [.cy, .ic, .spill, .ev, .out] s (healthFail s) := by
  unfold healthFail
  repeat' first
    | with_reducible exact Frame.refl _ _
    | with_reducible refine (senseFast_frame _ _).comp ?_ (by decide)
    | with_reducible refine (event_frame _ _ _ _ _).comp ?_ (by decide)
    | with_reducible refine Frame.ite ?_ ?_
    | (simp only [Frame.spelled]; (with_reducible apply FrameMk.upd); (with_reducible (intro b hb; cases b <;> first | exact absurd (by decide) hb | (dsimp only [Region.same] <;> rfl) | exact refs_id rfl)); (dsimp only; first | with_reducible exact List.suffix_refl _ | with_reducible exact List.suffix_cons _ _))

theorem recordStops_frame (w : CipherRec) (status : Nat) (s : State) :
    Frame [.hq, .eng, .cy, .vol, .rdr, .sm, .ic, .out] s (recordStops w status s) := by
  unfold recordStops
  repeat' first
    | with_reducible exact Frame.refl _ _
    | with_reducible refine (failCmd_frame _ _ _).comp ?_ (by decide)
    | with_reducible refine (setCmd_frame _ _).comp ?_ (by decide)
    | with_reducible refine Frame.ite ?_ ?_
    | (extract_lets +onlyGivenNames y; first | (refine have hy : Frame [.hq, .eng, .cy, .vol, .rdr, .sm, .ic, .out] s y := ?_; ?_; unfold y) | (refine have hy : Frame [.hq, .eng, .cy, .vol, .rdr, .sm, .ic, .out] s y.2 := ?_; ?_; unfold y) | skip)
    | split

theorem purgeSlots_frame (ks : List Nat) (s : State) :
    Frame [.hq, .eng, .cy, .vol, .rdr, .sm, .ic, .out] s (purgeSlots ks s) := by
  unfold purgeSlots
  repeat' first
    | with_reducible exact Frame.refl _ _
    | with_reducible assumption
    | with_reducible refine (recordStops_frame _ _ _).comp ?_ (by decide)
    | with_reducible refine Frame.forEach _ _ ?_ ?_
    | intro _
    | (simp only [Frame.spelled]; (with_reducible apply FrameMk.upd); (with_reducible (intro b hb; cases b <;> first | exact absurd (by decide) hb | (dsimp only [Region.same] <;> rfl) | exact refs_id rfl)); (dsimp only; first | with_reducible exact List.suffix_refl _ | with_reducible exact List.suffix_cons _ _))

theorem slotLoad_frame (k : Nat) (key : List Sys2Proof.Byte) (s : State) :
    Frame [.cy] s (slotLoad k key s) := by
  unfold slotLoad
  repeat' first
    | with_reducible exact Frame.refl _ _
    | with_reducible refine (setKeySlot_frame _ _ _).comp ?_ (by decide)

end Sys2Proof.Machine
end

