-- ==== Sys2Proof/Laws/FrameChecks.lean ====
section
/-!
SUPPORT. The frames of the operations of Machine/Checks.lean: which parts of the state each may change.
-/

namespace Sys2Proof.Machine

theorem poolPass_frame (s : State) :
    Frame [.eng, .cy, .spill, .ev, .out] s (poolPass s) := by
  unfold poolPass
  repeat' first
    | with_reducible exact Frame.refl _ _
    | with_reducible refine (event_frame _ _ _ _ _).comp ?_ (by decide)
    | with_reducible refine Frame.ite ?_ ?_
    | (simp only [Frame.spelled]; (with_reducible apply FrameMk.upd); (with_reducible (intro b hb; cases b <;> first | exact absurd (by decide) hb | (dsimp only [Region.same] <;> rfl) | exact refs_id rfl)); (dsimp only; first | with_reducible exact List.suffix_refl _ | with_reducible exact List.suffix_cons _ _))

theorem releaseHeld_frame (s : State) :
    Frame [.hq, .eng, .cy, .vol, .rdr, .sm, .ic, .out] s (releaseHeld s) := by
  unfold releaseHeld
  repeat' first
    | with_reducible exact Frame.refl _ _
    | with_reducible assumption
    | with_reducible refine (failCmd_frame _ _ _).comp ?_ (by decide)
    | with_reducible refine (setCmd_frame _ _).comp ?_ (by decide)
    | with_reducible refine Frame.forEach _ _ ?_ ?_
    | with_reducible refine Frame.ite ?_ ?_
    | intro _
    | (extract_lets +onlyGivenNames y; first | (refine have hy : Frame [.hq, .eng, .cy, .vol, .rdr, .sm, .ic, .out] s y := ?_; ?_; unfold y) | (refine have hy : Frame [.hq, .eng, .cy, .vol, .rdr, .sm, .ic, .out] s y.2 := ?_; ?_; unfold y) | skip)
    | split

theorem tidy_frame (s : State) :
    Frame [.hq, .eng, .cy, .vol, .rdr, .sm, .ic, .spill, .ev, .out] s (tidy s) := by
  unfold tidy
  repeat' first
    | with_reducible exact Frame.refl _ _
    | with_reducible refine (poolPass_frame _).comp ?_ (by decide)
    | with_reducible refine (flushPass_frame _).comp ?_ (by decide)
    | with_reducible refine (releaseHeld_frame _).comp ?_ (by decide)

end Sys2Proof.Machine
end

