-- ==== Sys2Proof/Laws/FrameSpills.lean ====
section
/-!
SUPPORT. The frames of the operations of Machine/Spills.lean: which parts of the state each may change.
-/

namespace Sys2Proof.Machine

theorem pump_frame (q : Nat) (a : Nat) (a3 : State) :
    Frame [.spill, .out] a3 (pump q a a3) := by
  fun_induction pump q a a3
  all_goals repeat' first
    | with_reducible exact Frame.refl _ _
    | with_reducible refine (setSpill_frame _ _ _).comp ?_ (by decide)
    | with_reducible refine (writeBatch_frame _ _ _ _ _).comp ?_ (by decide)
    | (extract_lets +onlyGivenNames y; first | (refine have hy : Frame [.spill, .out] a3 y := ?_; ?_; unfold y) | (refine have hy : Frame [.spill, .out] a3 y.2 := ?_; ?_; unfold y) | skip)
    | with_reducible refine Frame.upd (by assumption) ?_

theorem pumpAll_frame (q : Nat) (s : State) :
    Frame [.spill, .out] s (pumpAll q s) := by
  unfold pumpAll
  repeat' first
    | with_reducible exact Frame.refl _ _
    | with_reducible refine (pump_frame _ _ _).comp ?_ (by decide)

theorem flushRun_frame (q : Nat) (s : State) :
    Frame [.spill, .ev, .out] s (flushRun q s) := by
  unfold flushRun
  repeat' first
    | with_reducible exact Frame.refl _ _
    | with_reducible refine (setSpill_frame _ _ _).comp ?_ (by decide)
    | with_reducible refine (pumpAll_frame _ _).comp ?_ (by decide)
    | with_reducible refine Frame.ite ?_ ?_
    | (simp only [Frame.spelled]; (with_reducible apply FrameMk.upd); (with_reducible (intro b hb; cases b <;> first | exact absurd (by decide) hb | (dsimp only [Region.same] <;> rfl) | exact refs_id rfl)); (dsimp only; first | with_reducible exact List.suffix_refl _ | with_reducible exact List.suffix_cons _ _))
    | (extract_lets +onlyGivenNames y; first | (refine have hy : Frame [.spill, .ev, .out] s y := ?_; ?_; unfold y) | (refine have hy : Frame [.spill, .ev, .out] s y.2 := ?_; ?_; unfold y) | skip)
    | split

theorem flushRequest_frame (q : Nat) (push : Bool) (s : State) :
    Frame [.spill, .ev, .out] s (flushRequest q push s) := by
  unfold flushRequest
  repeat' first
    | with_reducible exact Frame.refl _ _
    | with_reducible refine (setSpill_frame _ _ _).comp ?_ (by decide)
    | with_reducible refine (flushRun_frame _ _).comp ?_ (by decide)
    | with_reducible refine Frame.ite ?_ ?_

theorem logReset_frame (f : Sys2Proof.Fn) (ended : Nat) (voided : Nat) (s : State) :
    Frame [.spill, .ev, .out] s (logReset f ended voided s) := by
  unfold logReset
  repeat' first
    | with_reducible exact Frame.refl _ _
    | with_reducible refine (setSpill_frame _ _ _).comp ?_ (by decide)
    | with_reducible refine (event_frame _ _ _ _ _).comp ?_ (by decide)
    | (simp only [Frame.spelled]; (with_reducible apply FrameMk.upd); (with_reducible (intro b hb; cases b <;> first | exact absurd (by decide) hb | (dsimp only [Region.same] <;> rfl) | exact refs_id rfl)); (dsimp only; first | with_reducible exact List.suffix_refl _ | with_reducible exact List.suffix_cons _ _))

theorem headWrite_frame (q : Nat) (n : Nat) (s : State) :
    Frame [.spill, .out] s (headWrite q n s) := by
  unfold headWrite
  repeat' first
    | with_reducible exact Frame.refl _ _
    | with_reducible refine (pumpAll_frame _ _).comp ?_ (by decide)
    | with_reducible refine (setSpill_frame _ _ _).comp ?_ (by decide)
    | with_reducible refine Frame.ite ?_ ?_

theorem itemEnd_frame (q : Nat) (words : List Sys2Proof.DWord) (s : State) :
    Frame [.spill, .ev, .out] s (itemEnd q words s) := by
  unfold itemEnd
  repeat' first
    | with_reducible exact Frame.refl _ _
    | with_reducible refine (flushRun_frame _ _).comp ?_ (by decide)
    | with_reducible refine (setSpill_frame _ _ _).comp ?_ (by decide)
    | with_reducible refine (pumpAll_frame _ _).comp ?_ (by decide)
    | with_reducible refine (offerItem_frame _ _ _).comp ?_ (by decide)
    | with_reducible refine Frame.ite ?_ ?_

theorem spillEnable_frame (q : Nat) (s : State) :
    Frame [.spill, .out] s (spillEnable q s) := by
  unfold spillEnable
  repeat' first
    | with_reducible exact Frame.refl _ _
    | with_reducible refine (pumpAll_frame _ _).comp ?_ (by decide)
    | with_reducible refine (setSpill_frame _ _ _).comp ?_ (by decide)

theorem spillDisable_frame (q : Nat) (s : State) :
    Frame [.spill] s (spillDisable q s) := by
  unfold spillDisable
  repeat' first
    | with_reducible exact Frame.refl _ _
    | with_reducible refine (setSpill_frame _ _ _).comp ?_ (by decide)

end Sys2Proof.Machine
end

