-- ==== Sys2Proof/Laws/FrameQueues.lean ====
section
/-!
SUPPORT. The frames of the operations of Machine/Queues.lean: which parts of the state each may change.
-/

namespace Sys2Proof.Machine

theorem abortsUnhook_frame (f : Sys2Proof.Fn) (q : Nat) (s : State) :
    Frame [.hq, .eng, .cy, .vol, .rdr, .sm, .ic, .out] s (abortsUnhook f q s) := by
  unfold abortsUnhook
  repeat' first
    | with_reducible exact Frame.refl _ _
    | with_reducible assumption
    | with_reducible refine (complete_frame _ _ _ _ _ _).comp ?_ (by decide)
    | with_reducible refine Frame.forEach _ _ ?_ ?_
    | intro _

theorem allotWrite_frame (g : Sys2Proof.Fn) (word : BitVec 2) (value : Sys2Proof.Word) (s : State) :
    Frame [.hq, .cy] s (allotWrite g word value s) := by
  unfold allotWrite
  repeat' first
    | with_reducible exact Frame.refl _ _
    | with_reducible assumption
    | with_reducible refine (slotForget_frame _ _).comp ?_ (by decide)
    | with_reducible refine Frame.forEach _ _ ?_ ?_
    | with_reducible refine Frame.ite ?_ ?_
    | intro _
    | (simp only [Frame.spelled]; (with_reducible apply FrameMk.upd); (with_reducible (intro b hb; cases b <;> first | exact absurd (by decide) hb | (dsimp only [Region.same] <;> rfl) | exact refs_id rfl)); (dsimp only; first | with_reducible exact List.suffix_refl _ | with_reducible exact List.suffix_cons _ _))

theorem undefineOutput_frame (c : InFlight) (s : State) :
    Frame [.out] s (undefineOutput c s) := by
  unfold undefineOutput
  repeat' first
    | with_reducible exact Frame.refl _ _
    | with_reducible refine (undefineArea_frame _ _ _ _ _).comp ?_ (by decide)
    | with_reducible refine (emit_frame _ _).comp ?_ (by decide)
    | with_reducible refine Frame.ite ?_ ?_
    | (extract_lets +onlyGivenNames y; first | (refine have hy : Frame [.out] s y := ?_; ?_; unfold y) | (refine have hy : Frame [.out] s y.2 := ?_; ?_; unfold y) | skip)
    | split

theorem channelHalt_frame (f : Sys2Proof.Fn) (q : Nat) (s : State) :
    Frame [.hq, .eng, .cy, .vol, .rdr, .sm, .ic, .spill, .ev, .out] s (channelHalt f q s) := by
  unfold channelHalt
  repeat' first
    | with_reducible exact Frame.refl _ _
    | with_reducible assumption
    | with_reducible refine (abortsUnhook_frame _ _ _).comp ?_ (by decide)
    | with_reducible refine (setSq_frame _ _ _ _).comp ?_ (by decide)
    | with_reducible refine (tidy_frame _).comp ?_ (by decide)
    | with_reducible refine (failCmd_frame _ _ _).comp ?_ (by decide)
    | with_reducible refine (undefineOutput_frame _ _).comp ?_ (by decide)
    | with_reducible refine Frame.forEach _ _ ?_ ?_
    | intro _
    | (extract_lets +onlyGivenNames y; first | (refine have hy : Frame [.hq, .eng, .cy, .vol, .rdr, .sm, .ic, .spill, .ev, .out] s y := ?_; ?_; unfold y) | (refine have hy : Frame [.hq, .eng, .cy, .vol, .rdr, .sm, .ic, .spill, .ev, .out] s y.2 := ?_; ?_; unfold y) | skip)
    | split

theorem cqDelete_frame (f : Sys2Proof.Fn) (q : Nat) (s : State) :
    Frame [.hq, .ic] s (cqDelete f q s) := by
  unfold cqDelete
  repeat' first
    | with_reducible exact Frame.refl _ _
    | with_reducible refine (unbindCq_frame _ _ _).comp ?_ (by decide)
    | with_reducible refine (setCq_frame _ _ _ _).comp ?_ (by decide)

theorem doorbellError_frame (f : Sys2Proof.Fn) (q : Nat) (s : State) :
    Frame [.hq] s (doorbellError f q s) := by
  unfold doorbellError
  repeat' first
    | with_reducible exact Frame.refl _ _
    | with_reducible refine (setHqFn_frame _ _ _).comp ?_ (by decide)

theorem renameCmd_frame (old : CmdRef) (new : CmdRef) (s : State) :
    Frame [.hq, .tt, .se, .refs] s (renameCmd old new s) := by
  unfold renameCmd
  repeat' first
    | with_reducible exact Frame.refl _ _
    | (simp only [Frame.spelled]; (with_reducible apply FrameMk.upd); (with_reducible (intro b hb; cases b <;> first | exact absurd (by decide) hb | (dsimp only [Region.same] <;> rfl) | exact refs_id rfl | exact refs_filter _ rfl | (refine refs_map _ rfl ?_; intro d; split <;> simp_all))); (dsimp only; first | with_reducible exact List.suffix_refl _ | with_reducible exact List.suffix_cons _ _))

theorem flrOne_frame (f : Sys2Proof.Fn) (s : State) :
    Frame [.hq, .eng, .cy, .vol, .rdr, .sm, .tt, .ic, .spill, .ev, .mi, .se, .out, .refs] s (flrOne f s) := by
  unfold flrOne
  repeat' first
    | with_reducible exact Frame.refl _ _
    | with_reducible assumption
    | with_reducible refine (retire_frame _ _ _).comp ?_ (by decide)
    | with_reducible refine (renameCmd_frame _ _ _).comp ?_ (by decide)
    | with_reducible refine (setHqFn_frame _ _ _).comp ?_ (by decide)
    | with_reducible refine (slotErase_frame _ _).comp ?_ (by decide)
    | with_reducible refine (setKek_frame _ _ _).comp ?_ (by decide)
    | with_reducible refine (icReset_frame _ _).comp ?_ (by decide)
    | with_reducible refine (logReset_frame _ _ _ _).comp ?_ (by decide)
    | with_reducible refine Frame.forEach _ _ ?_ ?_
    | intro _
    | (simp only [Frame.spelled]; (with_reducible apply FrameMk.upd); (with_reducible (intro b hb; cases b <;> first | exact absurd (by decide) hb | (dsimp only [Region.same] <;> rfl) | exact refs_id rfl)); (dsimp only; first | with_reducible exact List.suffix_refl _ | with_reducible exact List.suffix_cons _ _))

theorem sqDelete_frame (f : Sys2Proof.Fn) (q : Nat) (s : State) :
    Frame [.hq, .eng, .cy, .vol, .rdr, .sm, .ic, .out] s (sqDelete f q s) := by
  unfold sqDelete
  repeat' first
    | with_reducible exact Frame.refl _ _
    | with_reducible assumption
    | with_reducible refine (setSq_frame _ _ _ _).comp ?_ (by decide)
    | with_reducible refine (abortsUnhook_frame _ _ _).comp ?_ (by decide)
    | with_reducible refine (failCmd_frame _ _ _).comp ?_ (by decide)
    | with_reducible refine Frame.forEach _ _ ?_ ?_
    | intro _

theorem fnDisable_frame (f : Sys2Proof.Fn) (s : State) :
    Frame [.hq, .eng, .cy, .vol, .rdr, .sm, .ic, .spill, .ev, .out] s (fnDisable f s) := by
  unfold fnDisable
  repeat' first
    | with_reducible exact Frame.refl _ _
    | with_reducible assumption
    | with_reducible refine (setHqFn_frame _ _ _).comp ?_ (by decide)
    | with_reducible refine (sqDelete_frame _ _ _).comp ?_ (by decide)
    | with_reducible refine (cqDelete_frame _ _ _).comp ?_ (by decide)
    | with_reducible refine (setSq_frame _ _ _ _).comp ?_ (by decide)
    | with_reducible refine (abortsUnhook_frame _ _ _).comp ?_ (by decide)
    | with_reducible refine (failCmd_frame _ _ _).comp ?_ (by decide)
    | with_reducible refine (tidy_frame _).comp ?_ (by decide)
    | with_reducible refine (fnSettle_frame _ _).comp ?_ (by decide)
    | with_reducible refine Frame.forEach _ _ ?_ ?_
    | intro _
    | (extract_lets +onlyGivenNames y; first | (refine have hy : Frame [.hq, .eng, .cy, .vol, .rdr, .sm, .ic, .spill, .ev, .out] s y := ?_; ?_; unfold y) | (refine have hy : Frame [.hq, .eng, .cy, .vol, .rdr, .sm, .ic, .spill, .ev, .out] s y.2 := ?_; ?_; unfold y) | skip)
    | split

theorem fnEnable_frame (f : Sys2Proof.Fn) (s : State) :
    Frame [.hq, .ic] s (fnEnable f s) := by
  unfold fnEnable
  repeat' first
    | with_reducible exact Frame.refl _ _
    | with_reducible refine (fnStart_frame _ _).comp ?_ (by decide)
    | with_reducible refine (setHqFn_frame _ _ _).comp ?_ (by decide)
    | (extract_lets +onlyGivenNames y; first | (refine have hy : Frame [.hq, .ic] s y := ?_; ?_; unfold y) | (refine have hy : Frame [.hq, .ic] s y.2 := ?_; ?_; unfold y) | skip)
    | split

end Sys2Proof.Machine
end

