-- ==== Sys2Proof/Laws/FrameFetch.lean ====
section
/-!
SUPPORT. The frames of the operations of Machine/Fetch.lean: which parts of the state each may change.
-/

namespace Sys2Proof.Machine

theorem fetchEffect_frame (c : InFlight) (s : State) :
    Frame [.hq, .vol] s (fetchEffect c s) := by
  unfold fetchEffect
  repeat' first
    | with_reducible exact Frame.refl _ _
    | with_reducible refine (beginFlush_frame _ _).comp ?_ (by decide)
    | with_reducible refine (noteFlush_frame _ _).comp ?_ (by decide)
    | with_reducible refine Frame.ite ?_ ?_
    | (simp only [Frame.spelled]; (with_reducible apply FrameMk.upd); (with_reducible (intro b hb; cases b <;> first | exact absurd (by decide) hb | (dsimp only [Region.same] <;> rfl) | exact refs_id rfl)); (dsimp only; first | with_reducible exact List.suffix_refl _ | with_reducible exact List.suffix_cons _ _))

theorem fetchEntry_frame (f : Sys2Proof.Fn) (q : Nat) (e : BitVec 512) (s : State) :
    Frame [.hq, .eng, .cy, .vol, .rdr, .sm, .ic, .out, .refs] s (fetchEntry f q e s) := by
  unfold fetchEntry
  repeat' first
    | with_reducible exact Frame.refl _ _
    | with_reducible assumption
    | with_reducible refine (setSq_frame _ _ _ _).comp ?_ (by decide)
    | with_reducible refine (complete_frame _ _ _ _ _ _).comp ?_ (by decide)
    | with_reducible refine (postEntry_frame _ _ _ _ _ _).comp ?_ (by decide)
    | with_reducible refine (fetchEffect_frame _ _).comp ?_ (by decide)
    | with_reducible refine Frame.forEach _ _ ?_ ?_
    | with_reducible refine Frame.ite ?_ ?_
    | intro _
    | (simp only [Frame.spelled]; (with_reducible apply FrameMk.upd); (with_reducible (intro b hb; cases b <;> first | exact absurd (by decide) hb | (dsimp only [Region.same] <;> rfl) | exact refs_id rfl | exact refs_filter _ rfl | (refine refs_map _ rfl ?_; intro d; split <;> simp_all))); (dsimp only; first | with_reducible exact List.suffix_refl _ | with_reducible exact List.suffix_cons _ _))
    | (extract_lets +onlyGivenNames y; first | (refine have hy : Frame [.hq, .eng, .cy, .vol, .rdr, .sm, .ic, .out, .refs] s y := ?_; ?_; unfold y) | (refine have hy : Frame [.hq, .eng, .cy, .vol, .rdr, .sm, .ic, .out, .refs] s y.2 := ?_; ?_; unfold y) | skip)
    | split

end Sys2Proof.Machine
end

