-- ==== Sys2Proof/Laws/FrameStream.lean ====
section
/-!
SUPPORT. The frames of the operations of Machine/Stream.lean: which parts of the state each may change.
-/

namespace Sys2Proof.Machine

theorem openSession_frame (p : Nat) (s : State) :
    Frame [.vol] s (openSession p s) := by
  unfold openSession
  repeat' first
    | with_reducible exact Frame.refl _ _
    | with_reducible assumption
    | with_reducible refine (setPart_frame _ _ _).comp ?_ (by decide)
    | (simp only [Frame.spelled]; (with_reducible apply FrameMk.upd); (with_reducible (intro b hb; cases b <;> first | exact absurd (by decide) hb | (dsimp only [Region.same] <;> rfl) | exact refs_id rfl)); (dsimp only; first | with_reducible exact List.suffix_refl _ | with_reducible exact List.suffix_cons _ _))
    | (extract_lets +onlyGivenNames y; first | (refine have hy : Frame [.vol] s y := ?_; ?_; unfold y) | (refine have hy : Frame [.vol] s y.2 := ?_; ?_; unfold y) | skip)
    | split

theorem addElems_frame (p : Nat) (es : List Element) (s : State) :
    Frame [.vol] s (addElems p es s) := by
  unfold addElems
  repeat' first
    | with_reducible exact Frame.refl _ _
    | with_reducible refine (setPart_frame _ _ _).comp ?_ (by decide)

theorem acceptAppend_frame (c : InFlight) (s : State) :
    Frame [.hq, .eng, .cy, .vol, .rdr, .sm, .ic, .out] s (acceptAppend c s) := by
  unfold acceptAppend
  repeat' first
    | with_reducible exact Frame.refl _ _
    | with_reducible refine (openSession_frame _ _).comp ?_ (by decide)
    | with_reducible refine (addElems_frame _ _ _).comp ?_ (by decide)
    | with_reducible refine (setCmd_frame _ _).comp ?_ (by decide)
    | with_reducible refine (grantPass_frame _).comp ?_ (by decide)
    | with_reducible refine (complete_frame _ _ _ _ _ _).comp ?_ (by decide)
    | with_reducible refine Frame.ite ?_ ?_
    | (simp only [Frame.spelled]; (with_reducible apply FrameMk.upd); (with_reducible (intro b hb; cases b <;> first | exact absurd (by decide) hb | (dsimp only [Region.same] <;> rfl) | exact refs_id rfl)); (dsimp only; first | with_reducible exact List.suffix_refl _ | with_reducible exact List.suffix_cons _ _))

end Sys2Proof.Machine
end

