-- ==== Sys2Proof/Laws/FrameEngines.lean ====
section
/-!
SUPPORT. The frames of the operations of Machine/Engines.lean: which parts of the state each may change.
-/

namespace Sys2Proof.Machine

theorem benchFirst_frame (r : Run) (e : Nat) (s : State) :
    Frame [.crew, .lk, .ic, .spill, .ev, .out] s (benchFirst r e s) := by
  unfold benchFirst
  repeat' first
    | with_reducible exact Frame.refl _ _
    | with_reducible refine (setUnitState_frame _ _ _ _).comp ?_ (by decide)
    | with_reducible refine Frame.ite ?_ ?_
    | split

theorem countFault_frame (f : Sys2Proof.Fn) (mismatch : Nat) (ended : Nat) (s : State) :
    Frame [.cy] s (countFault f mismatch ended s) := by
  unfold countFault
  repeat' first
    | with_reducible exact Frame.refl _ _
    | (simp only [Frame.spelled]; (with_reducible apply FrameMk.upd); (with_reducible (intro b hb; cases b <;> first | exact absurd (by decide) hb | (dsimp only [Region.same] <;> rfl) | exact refs_id rfl)); (dsimp only; first | with_reducible exact List.suffix_refl _ | with_reducible exact List.suffix_cons _ _))

theorem elemsDone_frame (p : Nat) (first : Nat) (count : Nat) (s : State) :
    Frame [.vol] s (elemsDone p first count s) := by
  unfold elemsDone
  repeat' first
    | with_reducible exact Frame.refl _ _
    | with_reducible refine (setPart_frame _ _ _).comp ?_ (by decide)

theorem runAgain_frame (r : Run) (s : State) :
    Frame [.eng] s (runAgain r s) := by
  unfold runAgain
  repeat' first
    | with_reducible exact Frame.refl _ _
    | (simp only [Frame.spelled]; (with_reducible apply FrameMk.upd); (with_reducible (intro b hb; cases b <;> first | exact absurd (by decide) hb | (dsimp only [Region.same] <;> rfl) | exact refs_id rfl)); (dsimp only; first | with_reducible exact List.suffix_refl _ | with_reducible exact List.suffix_cons _ _))

theorem recordAgain_frame (w : CipherRec) (s : State) :
    Frame [.cy] s (recordAgain w s) := by
  unfold recordAgain
  repeat' first
    | with_reducible exact Frame.refl _ _
    | (simp only [Frame.spelled]; (with_reducible apply FrameMk.upd); (with_reducible (intro b hb; cases b <;> first | exact absurd (by decide) hb | (dsimp only [Region.same] <;> rfl) | exact refs_id rfl)); (dsimp only; first | with_reducible exact List.suffix_refl _ | with_reducible exact List.suffix_cons _ _))

theorem recordBad_frame (r : Run) (s : State) :
    Frame [.hq] s (recordBad r s) := by
  unfold recordBad
  repeat' first
    | with_reducible exact Frame.refl _ _
    | with_reducible refine (setCmd_frame _ _).comp ?_ (by decide)
    | split

theorem recordFault_frame (w : CipherRec) (s : State) :
    Frame [.hq, .eng, .cy, .vol, .rdr, .sm, .ic, .spill, .ev, .out] s (recordFault w s) := by
  unfold recordFault
  repeat' first
    | with_reducible exact Frame.refl _ _
    | with_reducible refine (event_frame _ _ _ _ _).comp ?_ (by decide)
    | with_reducible refine (recordStops_frame _ _ _).comp ?_ (by decide)
    | with_reducible refine (countFault_frame _ _ _ _).comp ?_ (by decide)
    | with_reducible refine (pulseFast_frame _ _).comp ?_ (by decide)

theorem recordOpened_frame (w : CipherRec) (s : State) :
    Frame [.hq] s (recordOpened w s) := by
  unfold recordOpened
  repeat' first
    | with_reducible exact Frame.refl _ _
    | with_reducible refine (setCmd_frame _ _).comp ?_ (by decide)
    | split

theorem recordSealed_frame (w : CipherRec) (s : State) :
    Frame [.hq, .eng, .cy, .vol, .rdr, .sm, .ic, .out] s (recordSealed w s) := by
  unfold recordSealed
  repeat' first
    | with_reducible exact Frame.refl _ _
    | with_reducible assumption
    | with_reducible refine (setPart_frame _ _ _).comp ?_ (by decide)
    | with_reducible refine (complete_frame _ _ _ _ _ _).comp ?_ (by decide)
    | with_reducible refine (elemsDone_frame _ _ _ _).comp ?_ (by decide)
    | with_reducible refine Frame.ite ?_ ?_
    | (extract_lets +onlyGivenNames y; first | (refine have hy : Frame [.hq, .eng, .cy, .vol, .rdr, .sm, .ic, .out] s y := ?_; ?_; unfold y) | (refine have hy : Frame [.hq, .eng, .cy, .vol, .rdr, .sm, .ic, .out] s y.2 := ?_; ?_; unfold y) | skip)
    | split

theorem runFailed_frame (r : Run) (s : State) :
    Frame [.hq, .eng, .cy, .vol, .rdr, .sm, .ic, .spill, .ev, .out] s (runFailed r s) := by
  unfold runFailed
  repeat' first
    | with_reducible exact Frame.refl _ _
    | with_reducible refine (event_frame _ _ _ _ _).comp ?_ (by decide)
    | with_reducible refine (failCmd_frame _ _ _).comp ?_ (by decide)

theorem runFrameDone_frame (r : Run) (out : List Sys2Proof.Byte) (s : State) :
    Frame [.eng] s (runFrameDone r out s) := by
  unfold runFrameDone
  repeat' first
    | with_reducible exact Frame.refl _ _
    | (simp only [Frame.spelled]; (with_reducible apply FrameMk.upd); (with_reducible (intro b hb; cases b <;> first | exact absurd (by decide) hb | (dsimp only [Region.same] <;> rfl) | exact refs_id rfl)); (dsimp only; first | with_reducible exact List.suffix_refl _ | with_reducible exact List.suffix_cons _ _))

end Sys2Proof.Machine
end

