-- ==== Sys2Proof/Laws/FrameReading.lean ====
section
/-!
SUPPORT. The frames of the operations of Machine/Reading.lean: which parts of the state each may change.
-/

namespace Sys2Proof.Machine

theorem tapeRest_frame (s : State) :
    Frame [.gl, .crew, .ce, .ic] s (tapeRest s) := by
  unfold tapeRest
  repeat' first
    | with_reducible exact Frame.refl _ _
    | with_reducible refine (setMode_frame _ _).comp ?_ (by decide)
    | with_reducible refine Frame.ite ?_ ?_

theorem readEnds_frame (c : InFlight) (status : Nat) (mark : Nat) (s : State) :
    Frame [.hq, .eng, .cy, .vol, .rdr, .sm, .ic, .out] s (readEnds c status mark s) := by
  unfold readEnds
  repeat' first
    | with_reducible exact Frame.refl _ _
    | with_reducible refine (complete_frame _ _ _ _ _ _).comp ?_ (by decide)
    | with_reducible refine Frame.ite ?_ ?_

theorem cacheUse_frame (p : Nat) (b : Nat) (s : State) :
    Frame [.rdr] s (cacheUse p b s) := by
  unfold cacheUse
  repeat' first
    | with_reducible exact Frame.refl _ _
    | (simp only [Frame.spelled]; (with_reducible apply FrameMk.upd); (with_reducible (intro b hb; cases b <;> first | exact absurd (by decide) hb | (dsimp only [Region.same] <;> rfl) | exact refs_id rfl)); (dsimp only; first | with_reducible exact List.suffix_refl _ | with_reducible exact List.suffix_cons _ _))
    | (extract_lets +onlyGivenNames y; first | (refine have hy : Frame [.rdr] s y := ?_; ?_; unfold y) | (refine have hy : Frame [.rdr] s y.2 := ?_; ?_; unfold y) | skip)
    | split

theorem lengthEntry_frame (c : InFlight) (n : Nat) (s : State) :
    Frame [.out] s (lengthEntry c n s) := by
  unfold lengthEntry
  repeat' first
    | with_reducible exact Frame.refl _ _
    | with_reducible refine (emit_frame _ _).comp ?_ (by decide)
    | with_reducible refine Frame.ite ?_ ?_

theorem readAheadGo_frame (s : State) :
    Frame [.sm] s (readAheadGo s) := by
  unfold readAheadGo
  repeat' first
    | with_reducible exact Frame.refl _ _
    | with_reducible refine Frame.ite ?_ ?_
    | (simp only [Frame.spelled]; (with_reducible apply FrameMk.upd); (with_reducible (intro b hb; cases b <;> first | exact absurd (by decide) hb | (dsimp only [Region.same] <;> rfl) | exact refs_id rfl)); (dsimp only; first | with_reducible exact List.suffix_refl _ | with_reducible exact List.suffix_cons _ _))

theorem readStops_frame (c : InFlight) (status : Nat) (s : State) :
    Frame [.hq, .eng, .cy, .vol, .rdr, .sm, .ic, .out] s (readStops c status s) := by
  unfold readStops
  repeat' first
    | with_reducible exact Frame.refl _ _
    | with_reducible refine (lengthEntry_frame _ _ _).comp ?_ (by decide)
    | with_reducible refine (writeArea_frame _ _ _ _ _).comp ?_ (by decide)
    | with_reducible refine (undefineArea_frame _ _ _ _ _).comp ?_ (by decide)
    | with_reducible refine (readEnds_frame _ _ _ _).comp ?_ (by decide)
    | with_reducible refine Frame.ite ?_ ?_

theorem readDelivers_frame (c : InFlight) (plain : List Sys2Proof.Byte) (s : State) :
    Frame [.hq, .eng, .rdr, .sm, .out] s (readDelivers c plain s) := by
  unfold readDelivers
  repeat' first
    | with_reducible exact Frame.refl _ _
    | with_reducible refine (lengthEntry_frame _ _ _).comp ?_ (by decide)
    | with_reducible refine (writeArea_frame _ _ _ _ _).comp ?_ (by decide)
    | with_reducible refine (setCmd_frame _ _).comp ?_ (by decide)
    | with_reducible refine (cacheUse_frame _ _ _).comp ?_ (by decide)
    | with_reducible refine Frame.ite ?_ ?_
    | (simp only [Frame.spelled]; (with_reducible apply FrameMk.upd); (with_reducible (intro b hb; cases b <;> first | exact absurd (by decide) hb | (dsimp only [Region.same] <;> rfl) | exact refs_id rfl)); (dsimp only; first | with_reducible exact List.suffix_refl _ | with_reducible exact List.suffix_cons _ _))

theorem readRuns_frame (c : InFlight) (fs : List (List Sys2Proof.Byte)) (s : State) :
    Frame [.hq, .eng, .cy, .vol, .rdr, .sm, .ic, .out] s (readRuns c fs s).2 := by
  unfold readRuns
  repeat' first
    | with_reducible exact Frame.refl _ _
    | with_reducible refine (readStops_frame _ _ _).comp ?_ (by decide)
    | with_reducible refine (readDelivers_frame _ _ _).comp ?_ (by decide)
    | with_reducible refine Frame.iteSnd ?_ ?_
    | (simp only [Frame.spelled]; (with_reducible apply FrameMk.upd); (with_reducible (intro b hb; cases b <;> first | exact absurd (by decide) hb | (dsimp only [Region.same] <;> rfl) | exact refs_id rfl)); (dsimp only; first | with_reducible exact List.suffix_refl _ | with_reducible exact List.suffix_cons _ _))

theorem readBody_frame (c : InFlight) (body : List Sys2Proof.Byte) (s : State) :
    Frame [.hq, .eng, .cy, .vol, .rdr, .sm, .ic, .out] s (readBody c body s).2 := by
  unfold readBody
  repeat' first
    | with_reducible exact Frame.refl _ _
    | with_reducible refine (readRuns_frame _ _ _).comp ?_ (by decide)
    | with_reducible refine (readStops_frame _ _ _).comp ?_ (by decide)
    | with_reducible refine Frame.iteSnd ?_ ?_

theorem readNeedsTape_frame (c : InFlight) (s : State) :
    Frame [.hq, .eng, .cy, .vol, .rdr, .sm, .ic, .out] s (readNeedsTape c s) := by
  unfold readNeedsTape
  repeat' first
    | with_reducible exact Frame.refl _ _
    | with_reducible refine (readEnds_frame _ _ _ _).comp ?_ (by decide)
    | with_reducible refine (setCmd_frame _ _).comp ?_ (by decide)
    | with_reducible refine Frame.ite ?_ ?_

theorem readRecord_frame (c : InFlight) (bytes : List Sys2Proof.Byte) (s : State) :
    Frame [.hq, .eng, .cy, .vol, .rdr, .sm, .ic, .out] s (readRecord c bytes s).2 := by
  unfold readRecord
  repeat' first
    | with_reducible exact Frame.refl _ _
    | with_reducible refine (readStops_frame _ _ _).comp ?_ (by decide)
    | with_reducible refine (setCmd_frame _ _).comp ?_ (by decide)
    | with_reducible refine (readEnds_frame _ _ _ _).comp ?_ (by decide)
    | with_reducible refine (lengthEntry_frame _ _ _).comp ?_ (by decide)
    | with_reducible refine Frame.iteSnd ?_ ?_
    | (simp only [Frame.spelled]; (with_reducible apply FrameMk.upd); (with_reducible (intro b hb; cases b <;> first | exact absurd (by decide) hb | (dsimp only [Region.same] <;> rfl) | exact refs_id rfl)); (dsimp only; first | with_reducible exact List.suffix_refl _ | with_reducible exact List.suffix_cons _ _))

theorem readOnce_frame (c : InFlight) (s : State) :
    Frame [.hq, .eng, .cy, .vol, .rdr, .sm, .ic, .out] s (readOnce c s).2 := by
  unfold readOnce
  repeat' first
    | with_reducible exact Frame.refl _ _
    | with_reducible refine (readStops_frame _ _ _).comp ?_ (by decide)
    | with_reducible refine (readBody_frame _ _ _).comp ?_ (by decide)
    | with_reducible refine (readEnds_frame _ _ _ _).comp ?_ (by decide)
    | with_reducible refine (setCmd_frame _ _).comp ?_ (by decide)
    | with_reducible refine (lengthEntry_frame _ _ _).comp ?_ (by decide)
    | with_reducible refine (readRecord_frame _ _ _).comp ?_ (by decide)
    | with_reducible refine (readNeedsTape_frame _ _).comp ?_ (by decide)
    | with_reducible refine Frame.iteSnd ?_ ?_
    | (extract_lets +onlyGivenNames y; first | (refine have hy : Frame [.hq, .eng, .cy, .vol, .rdr, .sm, .ic, .out] s y := ?_; ?_; unfold y) | (refine have hy : Frame [.hq, .eng, .cy, .vol, .rdr, .sm, .ic, .out] s y.2 := ?_; ?_; unfold y) | skip)
    | split

theorem readRun_frame (r : CmdRef) (a : Nat) (a3 : State) :
    Frame [.hq, .eng, .cy, .vol, .rdr, .sm, .ic, .out] a3 (readRun r a a3) := by
  fun_induction readRun r a a3
  all_goals repeat' first
    | with_reducible exact Frame.refl _ _
    | with_reducible refine (readOnce_frame _ _).comp ?_ (by decide)
    | (extract_lets +onlyGivenNames y; first | (refine have hy : Frame [.hq, .eng, .cy, .vol, .rdr, .sm, .ic, .out] a3 y := ?_; ?_; unfold y) | (refine have hy : Frame [.hq, .eng, .cy, .vol, .rdr, .sm, .ic, .out] a3 y.2 := ?_; ?_; unfold y) | skip)
    | with_reducible refine Frame.snd (by assumption) ?_
    | with_reducible refine Frame.upd (by assumption) ?_

end Sys2Proof.Machine
end

