-- ==== Sys2Proof/Laws/Tables.lean ====
section
/-!
SUPPORT. Tables: an entry that was set reads back, every other entry is as it was, and setting keeps the canonical form.
-/

namespace Sys2Proof.Machine

variable {α : Type}

theorem tabGet_filter_ne (d : α) (t : List (Nat × α)) {i j : Nat} (h : j ≠ i) :
    tabGet d (t.filter fun p => !decide (p.1 = i)) j = tabGet d t j := by
  induction t with
  | nil => rfl
  | cons p r ih =>
    obtain ⟨k, v⟩ := p
    by_cases hk : k = i
    · subst hk; simp [tabGet, h, ih]
    · simp [List.filter_cons, hk, tabGet, ih]

theorem tabGet_filter_same (d : α) (t : List (Nat × α)) (i : Nat) :
    tabGet d (t.filter fun p => !decide (p.1 = i)) i = d := by
  induction t with
  | nil => rfl
  | cons p r ih =>
    obtain ⟨k, v⟩ := p
    by_cases hk : k = i
    · simp [List.filter_cons, hk, ih]
    · simp [List.filter_cons, hk, tabGet, Ne.symm hk, ih]

theorem tabGet_tabPut (d : α) (t : List (Nat × α)) (i j : Nat) (v : α) (h : ∀ p ∈ t, p.1 ≠ i) :
    tabGet d (tabPut i v t) j = if j = i then v else tabGet d t j := by
  induction t with
  | nil => simp [tabPut, tabGet]
  | cons p r ih =>
    obtain ⟨k, w⟩ := p
    have hk : k ≠ i := h (k, w) (by simp)
    have hr : ∀ p ∈ r, p.1 ≠ i := fun p hp => h p (by simp [hp])
    simp only [tabPut]
    split
    · simp [tabGet]
    · simp only [tabGet, ih hr]
      by_cases hj : j = k
      · subst hj; simp [hk]
      · simp [hj]

theorem tabGet_tabSet [DecidableEq α] (d : α) (t : List (Nat × α)) (i j : Nat) (v : α) :
    tabGet d (tabSet d t i v) j = if j = i then v else tabGet d t j := by
  unfold tabSet
  by_cases hv : v = d
  · simp only [hv, if_true]
    by_cases hj : j = i
    · subst hj; simp [tabGet_filter_same]
    · simp [hj, tabGet_filter_ne d t hj]
  · simp only [hv, if_false]
    rw [tabGet_tabPut _ _ _ _ _ (fun p hp => by simpa using (List.mem_filter.mp hp).2)]
    by_cases hj : j = i
    · simp [hj]
    · simp [hj, tabGet_filter_ne d t hj]

@[simp] theorem tabGet_tabSet_same [DecidableEq α] (d : α) (t : List (Nat × α)) (i : Nat) (v : α) :
    tabGet d (tabSet d t i v) i = v := by simp [tabGet_tabSet]

theorem tabGet_tabSet_other [DecidableEq α] (d : α) (t : List (Nat × α)) {i j : Nat} (v : α) (h : j ≠ i) :
    tabGet d (tabSet d t i v) j = tabGet d t j := by simp [tabGet_tabSet, h]

/-! ### The canonical form -/

theorem tabWfFrom_mono [DecidableEq α] {d : α} {t : List (Nat × α)} {b c : Option Nat}
    (hbc : ∀ m, c = some m → ∃ n, b = some n ∧ m ≤ n) (h : tabWfFrom d b t = true) : tabWfFrom d c t = true := by
  cases t with
  | nil => rfl
  | cons p r =>
    obtain ⟨k, v⟩ := p
    simp only [tabWfFrom, Bool.and_eq_true] at h ⊢
    refine ⟨⟨?_, h.1.2⟩, h.2⟩
    cases c with
    | none => rfl
    | some m =>
      obtain ⟨n, rfl, hmn⟩ := hbc m rfl
      have := h.1.1
      simp only [decide_eq_true_eq] at this ⊢
      omega

theorem tabWfFrom_filter [DecidableEq α] {d : α} {t : List (Nat × α)} (f : Nat × α → Bool) {b : Option Nat}
    (h : tabWfFrom d b t = true) : tabWfFrom d b (t.filter f) = true := by
  induction t generalizing b with
  | nil => rfl
  | cons p r ih =>
    obtain ⟨k, v⟩ := p
    simp only [tabWfFrom, Bool.and_eq_true] at h
    rw [List.filter_cons]
    split
    · simp only [tabWfFrom, Bool.and_eq_true]
      exact ⟨h.1, ih h.2⟩
    · refine ih (tabWfFrom_mono ?_ h.2)
      rintro m rfl
      exact ⟨k, rfl, by have := h.1.1; simp only [decide_eq_true_eq] at this; omega⟩

theorem tabWfFrom_put [DecidableEq α] {d : α} {t : List (Nat × α)} {i : Nat} {v : α} (hv : v ≠ d) {b : Option Nat}
    (hb : ∀ m, b = some m → m < i) (hi : ∀ p ∈ t, p.1 ≠ i) (h : tabWfFrom d b t = true) :
    tabWfFrom d b (tabPut i v t) = true := by
  induction t generalizing b with
  | nil => cases b <;> simp_all [tabPut, tabWfFrom]
  | cons p r ih =>
    obtain ⟨k, w⟩ := p
    simp only [tabWfFrom, Bool.and_eq_true] at h
    simp only [tabPut]
    split
    · rename_i hik
      cases b <;> simp_all [tabWfFrom]
    · rename_i hik
      have hk : k ≠ i := hi (k, w) (by simp)
      simp only [tabWfFrom, Bool.and_eq_true]
      exact ⟨h.1, ih (fun m hm => by cases hm; omega) (fun p hp => hi p (by simp [hp])) h.2⟩

theorem tabWf_tabSet [DecidableEq α] {d : α} {t : List (Nat × α)} (h : tabWf d t = true) (i : Nat) (v : α) :
    tabWf d (tabSet d t i v) = true := by
  unfold tabWf at h ⊢
  unfold tabSet
  by_cases hv : v = d
  · simp only [hv, if_true]; exact tabWfFrom_filter _ h
  · simp only [hv, if_false]
    exact tabWfFrom_put hv (by simp) (fun p hp => by simpa using (List.mem_filter.mp hp).2) (tabWfFrom_filter _ h)

theorem tabWf_filter [DecidableEq α] {d : α} {t : List (Nat × α)} (f : Nat × α → Bool) (h : tabWf d t = true) :
    tabWf d (t.filter f) = true := tabWfFrom_filter f h

end Sys2Proof.Machine
end

