-- ==== Sys2Proof/Laws/State.lean ====
section
/-!
SUPPORT. What each setter of the state leaves as it was, field by field, and what a table reads after a setter.
-/

namespace Sys2Proof.Machine

/-! ### Time -/

@[simp] theorem advance_gl (t : Time) (s : State) : (advance t s).gl = s.gl := by unfold advance; split <;> rfl
@[simp] theorem advance_pins (t : Time) (s : State) : (advance t s).pins = s.pins := by unfold advance; split <;> rfl
@[simp] theorem advance_crew (t : Time) (s : State) : (advance t s).crew = s.crew := by unfold advance; split <;> rfl
@[simp] theorem advance_hq (t : Time) (s : State) : (advance t s).hq = s.hq := by unfold advance; split <;> rfl
@[simp] theorem advance_task (t : Time) (s : State) : (advance t s).task = s.task := by unfold advance; split <;> rfl
@[simp] theorem advance_par (t : Time) (s : State) : (advance t s).par = s.par := by unfold advance; split <;> rfl
@[simp] theorem advance_eng (t : Time) (s : State) : (advance t s).eng = s.eng := by unfold advance; split <;> rfl
@[simp] theorem advance_cy (t : Time) (s : State) : (advance t s).cy = s.cy := by unfold advance; split <;> rfl
@[simp] theorem advance_vol (t : Time) (s : State) : (advance t s).vol = s.vol := by unfold advance; split <;> rfl
@[simp] theorem advance_wr (t : Time) (s : State) : (advance t s).wr = s.wr := by unfold advance; split <;> rfl
@[simp] theorem advance_fm (t : Time) (s : State) : (advance t s).fm = s.fm := by unfold advance; split <;> rfl
@[simp] theorem advance_rch (t : Time) (s : State) : (advance t s).rch = s.rch := by unfold advance; split <;> rfl
@[simp] theorem advance_rdr (t : Time) (s : State) : (advance t s).rdr = s.rdr := by unfold advance; split <;> rfl
@[simp] theorem advance_sm (t : Time) (s : State) : (advance t s).sm = s.sm := by unfold advance; split <;> rfl
@[simp] theorem advance_sv (t : Time) (s : State) : (advance t s).sv = s.sv := by unfold advance; split <;> rfl
@[simp] theorem advance_ce (t : Time) (s : State) : (advance t s).ce = s.ce := by unfold advance; split <;> rfl
@[simp] theorem advance_tt (t : Time) (s : State) : (advance t s).tt = s.tt := by unfold advance; split <;> rfl
@[simp] theorem advance_lk (t : Time) (s : State) : (advance t s).lk = s.lk := by unfold advance; split <;> rfl
@[simp] theorem advance_sp (t : Time) (s : State) : (advance t s).sp = s.sp := by unfold advance; split <;> rfl
@[simp] theorem advance_ic (t : Time) (s : State) : (advance t s).ic = s.ic := by unfold advance; split <;> rfl
@[simp] theorem advance_spill (t : Time) (s : State) : (advance t s).spill = s.spill := by unfold advance; split <;> rfl
@[simp] theorem advance_ev (t : Time) (s : State) : (advance t s).ev = s.ev := by unfold advance; split <;> rfl
@[simp] theorem advance_mi (t : Time) (s : State) : (advance t s).mi = s.mi := by unfold advance; split <;> rfl
@[simp] theorem advance_se (t : Time) (s : State) : (advance t s).se = s.se := by unfold advance; split <;> rfl
@[simp] theorem advance_logs (t : Time) (s : State) : (advance t s).logs = s.logs := by unfold advance; split <;> rfl
@[simp] theorem advance_latch (t : Time) (s : State) : (advance t s).latch = s.latch := by unfold advance; split <;> rfl
@[simp] theorem advance_out (t : Time) (s : State) : (advance t s).out = s.out := by unfold advance; split <;> rfl
@[simp] theorem advance_fresh (t : Time) (s : State) : (advance t s).fresh = s.fresh := by unfold advance; split <;> rfl
@[simp] theorem advance_pending (t : Time) (s : State) : (advance t s).pending = s.pending := by unfold advance; split <;> rfl

theorem advance_tb (t : Time) (s : State) :
    (advance t s).tb = if s.gl.locked && decide (s.tb.toNat < t.toNat) then t else s.tb := by unfold advance; split <;> rfl


/-! ### `emit` -/

@[simp] theorem emit_tb (o : Out) (s : State) : (emit o s).tb = s.tb := rfl
@[simp] theorem emit_gl (o : Out) (s : State) : (emit o s).gl = s.gl := rfl
@[simp] theorem emit_pins (o : Out) (s : State) : (emit o s).pins = s.pins := rfl
@[simp] theorem emit_crew (o : Out) (s : State) : (emit o s).crew = s.crew := rfl
@[simp] theorem emit_hq (o : Out) (s : State) : (emit o s).hq = s.hq := rfl
@[simp] theorem emit_task (o : Out) (s : State) : (emit o s).task = s.task := rfl
@[simp] theorem emit_par (o : Out) (s : State) : (emit o s).par = s.par := rfl
@[simp] theorem emit_eng (o : Out) (s : State) : (emit o s).eng = s.eng := rfl
@[simp] theorem emit_cy (o : Out) (s : State) : (emit o s).cy = s.cy := rfl
@[simp] theorem emit_vol (o : Out) (s : State) : (emit o s).vol = s.vol := rfl
@[simp] theorem emit_wr (o : Out) (s : State) : (emit o s).wr = s.wr := rfl
@[simp] theorem emit_fm (o : Out) (s : State) : (emit o s).fm = s.fm := rfl
@[simp] theorem emit_rch (o : Out) (s : State) : (emit o s).rch = s.rch := rfl
@[simp] theorem emit_rdr (o : Out) (s : State) : (emit o s).rdr = s.rdr := rfl
@[simp] theorem emit_sm (o : Out) (s : State) : (emit o s).sm = s.sm := rfl
@[simp] theorem emit_sv (o : Out) (s : State) : (emit o s).sv = s.sv := rfl
@[simp] theorem emit_ce (o : Out) (s : State) : (emit o s).ce = s.ce := rfl
@[simp] theorem emit_tt (o : Out) (s : State) : (emit o s).tt = s.tt := rfl
@[simp] theorem emit_lk (o : Out) (s : State) : (emit o s).lk = s.lk := rfl
@[simp] theorem emit_sp (o : Out) (s : State) : (emit o s).sp = s.sp := rfl
@[simp] theorem emit_ic (o : Out) (s : State) : (emit o s).ic = s.ic := rfl
@[simp] theorem emit_spill (o : Out) (s : State) : (emit o s).spill = s.spill := rfl
@[simp] theorem emit_ev (o : Out) (s : State) : (emit o s).ev = s.ev := rfl
@[simp] theorem emit_mi (o : Out) (s : State) : (emit o s).mi = s.mi := rfl
@[simp] theorem emit_se (o : Out) (s : State) : (emit o s).se = s.se := rfl
@[simp] theorem emit_logs (o : Out) (s : State) : (emit o s).logs = s.logs := rfl
@[simp] theorem emit_latch (o : Out) (s : State) : (emit o s).latch = s.latch := rfl
@[simp] theorem emit_fresh (o : Out) (s : State) : (emit o s).fresh = s.fresh := rfl
@[simp] theorem emit_pending (o : Out) (s : State) : (emit o s).pending = s.pending := rfl

/-! ### `setSq` -/

@[simp] theorem setSq_tb (f : Fn) (q : Nat) (v : Sq) (s : State) : (setSq f q v s).tb = s.tb := rfl
@[simp] theorem setSq_gl (f : Fn) (q : Nat) (v : Sq) (s : State) : (setSq f q v s).gl = s.gl := rfl
@[simp] theorem setSq_pins (f : Fn) (q : Nat) (v : Sq) (s : State) : (setSq f q v s).pins = s.pins := rfl
@[simp] theorem setSq_crew (f : Fn) (q : Nat) (v : Sq) (s : State) : (setSq f q v s).crew = s.crew := rfl
@[simp] theorem setSq_task (f : Fn) (q : Nat) (v : Sq) (s : State) : (setSq f q v s).task = s.task := rfl
@[simp] theorem setSq_par (f : Fn) (q : Nat) (v : Sq) (s : State) : (setSq f q v s).par = s.par := rfl
@[simp] theorem setSq_eng (f : Fn) (q : Nat) (v : Sq) (s : State) : (setSq f q v s).eng = s.eng := rfl
@[simp] theorem setSq_cy (f : Fn) (q : Nat) (v : Sq) (s : State) : (setSq f q v s).cy = s.cy := rfl
@[simp] theorem setSq_vol (f : Fn) (q : Nat) (v : Sq) (s : State) : (setSq f q v s).vol = s.vol := rfl
@[simp] theorem setSq_wr (f : Fn) (q : Nat) (v : Sq) (s : State) : (setSq f q v s).wr = s.wr := rfl
@[simp] theorem setSq_fm (f : Fn) (q : Nat) (v : Sq) (s : State) : (setSq f q v s).fm = s.fm := rfl
@[simp] theorem setSq_rch (f : Fn) (q : Nat) (v : Sq) (s : State) : (setSq f q v s).rch = s.rch := rfl
@[simp] theorem setSq_rdr (f : Fn) (q : Nat) (v : Sq) (s : State) : (setSq f q v s).rdr = s.rdr := rfl
@[simp] theorem setSq_sm (f : Fn) (q : Nat) (v : Sq) (s : State) : (setSq f q v s).sm = s.sm := rfl
@[simp] theorem setSq_sv (f : Fn) (q : Nat) (v : Sq) (s : State) : (setSq f q v s).sv = s.sv := rfl
@[simp] theorem setSq_ce (f : Fn) (q : Nat) (v : Sq) (s : State) : (setSq f q v s).ce = s.ce := rfl
@[simp] theorem setSq_tt (f : Fn) (q : Nat) (v : Sq) (s : State) : (setSq f q v s).tt = s.tt := rfl
@[simp] theorem setSq_lk (f : Fn) (q : Nat) (v : Sq) (s : State) : (setSq f q v s).lk = s.lk := rfl
@[simp] theorem setSq_sp (f : Fn) (q : Nat) (v : Sq) (s : State) : (setSq f q v s).sp = s.sp := rfl
@[simp] theorem setSq_ic (f : Fn) (q : Nat) (v : Sq) (s : State) : (setSq f q v s).ic = s.ic := rfl
@[simp] theorem setSq_spill (f : Fn) (q : Nat) (v : Sq) (s : State) : (setSq f q v s).spill = s.spill := rfl
@[simp] theorem setSq_ev (f : Fn) (q : Nat) (v : Sq) (s : State) : (setSq f q v s).ev = s.ev := rfl
@[simp] theorem setSq_mi (f : Fn) (q : Nat) (v : Sq) (s : State) : (setSq f q v s).mi = s.mi := rfl
@[simp] theorem setSq_se (f : Fn) (q : Nat) (v : Sq) (s : State) : (setSq f q v s).se = s.se := rfl
@[simp] theorem setSq_logs (f : Fn) (q : Nat) (v : Sq) (s : State) : (setSq f q v s).logs = s.logs := rfl
@[simp] theorem setSq_latch (f : Fn) (q : Nat) (v : Sq) (s : State) : (setSq f q v s).latch = s.latch := rfl
@[simp] theorem setSq_out (f : Fn) (q : Nat) (v : Sq) (s : State) : (setSq f q v s).out = s.out := rfl
@[simp] theorem setSq_fresh (f : Fn) (q : Nat) (v : Sq) (s : State) : (setSq f q v s).fresh = s.fresh := rfl
@[simp] theorem setSq_pending (f : Fn) (q : Nat) (v : Sq) (s : State) : (setSq f q v s).pending = s.pending := rfl

/-! ### `setCq` -/

@[simp] theorem setCq_tb (f : Fn) (q : Nat) (v : Cq) (s : State) : (setCq f q v s).tb = s.tb := rfl
@[simp] theorem setCq_gl (f : Fn) (q : Nat) (v : Cq) (s : State) : (setCq f q v s).gl = s.gl := rfl
@[simp] theorem setCq_pins (f : Fn) (q : Nat) (v : Cq) (s : State) : (setCq f q v s).pins = s.pins := rfl
@[simp] theorem setCq_crew (f : Fn) (q : Nat) (v : Cq) (s : State) : (setCq f q v s).crew = s.crew := rfl
@[simp] theorem setCq_task (f : Fn) (q : Nat) (v : Cq) (s : State) : (setCq f q v s).task = s.task := rfl
@[simp] theorem setCq_par (f : Fn) (q : Nat) (v : Cq) (s : State) : (setCq f q v s).par = s.par := rfl
@[simp] theorem setCq_eng (f : Fn) (q : Nat) (v : Cq) (s : State) : (setCq f q v s).eng = s.eng := rfl
@[simp] theorem setCq_cy (f : Fn) (q : Nat) (v : Cq) (s : State) : (setCq f q v s).cy = s.cy := rfl
@[simp] theorem setCq_vol (f : Fn) (q : Nat) (v : Cq) (s : State) : (setCq f q v s).vol = s.vol := rfl
@[simp] theorem setCq_wr (f : Fn) (q : Nat) (v : Cq) (s : State) : (setCq f q v s).wr = s.wr := rfl
@[simp] theorem setCq_fm (f : Fn) (q : Nat) (v : Cq) (s : State) : (setCq f q v s).fm = s.fm := rfl
@[simp] theorem setCq_rch (f : Fn) (q : Nat) (v : Cq) (s : State) : (setCq f q v s).rch = s.rch := rfl
@[simp] theorem setCq_rdr (f : Fn) (q : Nat) (v : Cq) (s : State) : (setCq f q v s).rdr = s.rdr := rfl
@[simp] theorem setCq_sm (f : Fn) (q : Nat) (v : Cq) (s : State) : (setCq f q v s).sm = s.sm := rfl
@[simp] theorem setCq_sv (f : Fn) (q : Nat) (v : Cq) (s : State) : (setCq f q v s).sv = s.sv := rfl
@[simp] theorem setCq_ce (f : Fn) (q : Nat) (v : Cq) (s : State) : (setCq f q v s).ce = s.ce := rfl
@[simp] theorem setCq_tt (f : Fn) (q : Nat) (v : Cq) (s : State) : (setCq f q v s).tt = s.tt := rfl
@[simp] theorem setCq_lk (f : Fn) (q : Nat) (v : Cq) (s : State) : (setCq f q v s).lk = s.lk := rfl
@[simp] theorem setCq_sp (f : Fn) (q : Nat) (v : Cq) (s : State) : (setCq f q v s).sp = s.sp := rfl
@[simp] theorem setCq_ic (f : Fn) (q : Nat) (v : Cq) (s : State) : (setCq f q v s).ic = s.ic := rfl
@[simp] theorem setCq_spill (f : Fn) (q : Nat) (v : Cq) (s : State) : (setCq f q v s).spill = s.spill := rfl
@[simp] theorem setCq_ev (f : Fn) (q : Nat) (v : Cq) (s : State) : (setCq f q v s).ev = s.ev := rfl
@[simp] theorem setCq_mi (f : Fn) (q : Nat) (v : Cq) (s : State) : (setCq f q v s).mi = s.mi := rfl
@[simp] theorem setCq_se (f : Fn) (q : Nat) (v : Cq) (s : State) : (setCq f q v s).se = s.se := rfl
@[simp] theorem setCq_logs (f : Fn) (q : Nat) (v : Cq) (s : State) : (setCq f q v s).logs = s.logs := rfl
@[simp] theorem setCq_latch (f : Fn) (q : Nat) (v : Cq) (s : State) : (setCq f q v s).latch = s.latch := rfl
@[simp] theorem setCq_out (f : Fn) (q : Nat) (v : Cq) (s : State) : (setCq f q v s).out = s.out := rfl
@[simp] theorem setCq_fresh (f : Fn) (q : Nat) (v : Cq) (s : State) : (setCq f q v s).fresh = s.fresh := rfl
@[simp] theorem setCq_pending (f : Fn) (q : Nat) (v : Cq) (s : State) : (setCq f q v s).pending = s.pending := rfl

/-! ### `setHqFn` -/

@[simp] theorem setHqFn_tb (f : Fn) (v : HqFn) (s : State) : (setHqFn f v s).tb = s.tb := rfl
@[simp] theorem setHqFn_gl (f : Fn) (v : HqFn) (s : State) : (setHqFn f v s).gl = s.gl := rfl
@[simp] theorem setHqFn_pins (f : Fn) (v : HqFn) (s : State) : (setHqFn f v s).pins = s.pins := rfl
@[simp] theorem setHqFn_crew (f : Fn) (v : HqFn) (s : State) : (setHqFn f v s).crew = s.crew := rfl
@[simp] theorem setHqFn_task (f : Fn) (v : HqFn) (s : State) : (setHqFn f v s).task = s.task := rfl
@[simp] theorem setHqFn_par (f : Fn) (v : HqFn) (s : State) : (setHqFn f v s).par = s.par := rfl
@[simp] theorem setHqFn_eng (f : Fn) (v : HqFn) (s : State) : (setHqFn f v s).eng = s.eng := rfl
@[simp] theorem setHqFn_cy (f : Fn) (v : HqFn) (s : State) : (setHqFn f v s).cy = s.cy := rfl
@[simp] theorem setHqFn_vol (f : Fn) (v : HqFn) (s : State) : (setHqFn f v s).vol = s.vol := rfl
@[simp] theorem setHqFn_wr (f : Fn) (v : HqFn) (s : State) : (setHqFn f v s).wr = s.wr := rfl
@[simp] theorem setHqFn_fm (f : Fn) (v : HqFn) (s : State) : (setHqFn f v s).fm = s.fm := rfl
@[simp] theorem setHqFn_rch (f : Fn) (v : HqFn) (s : State) : (setHqFn f v s).rch = s.rch := rfl
@[simp] theorem setHqFn_rdr (f : Fn) (v : HqFn) (s : State) : (setHqFn f v s).rdr = s.rdr := rfl
@[simp] theorem setHqFn_sm (f : Fn) (v : HqFn) (s : State) : (setHqFn f v s).sm = s.sm := rfl
@[simp] theorem setHqFn_sv (f : Fn) (v : HqFn) (s : State) : (setHqFn f v s).sv = s.sv := rfl
@[simp] theorem setHqFn_ce (f : Fn) (v : HqFn) (s : State) : (setHqFn f v s).ce = s.ce := rfl
@[simp] theorem setHqFn_tt (f : Fn) (v : HqFn) (s : State) : (setHqFn f v s).tt = s.tt := rfl
@[simp] theorem setHqFn_lk (f : Fn) (v : HqFn) (s : State) : (setHqFn f v s).lk = s.lk := rfl
@[simp] theorem setHqFn_sp (f : Fn) (v : HqFn) (s : State) : (setHqFn f v s).sp = s.sp := rfl
@[simp] theorem setHqFn_ic (f : Fn) (v : HqFn) (s : State) : (setHqFn f v s).ic = s.ic := rfl
@[simp] theorem setHqFn_spill (f : Fn) (v : HqFn) (s : State) : (setHqFn f v s).spill = s.spill := rfl
@[simp] theorem setHqFn_ev (f : Fn) (v : HqFn) (s : State) : (setHqFn f v s).ev = s.ev := rfl
@[simp] theorem setHqFn_mi (f : Fn) (v : HqFn) (s : State) : (setHqFn f v s).mi = s.mi := rfl
@[simp] theorem setHqFn_se (f : Fn) (v : HqFn) (s : State) : (setHqFn f v s).se = s.se := rfl
@[simp] theorem setHqFn_logs (f : Fn) (v : HqFn) (s : State) : (setHqFn f v s).logs = s.logs := rfl
@[simp] theorem setHqFn_latch (f : Fn) (v : HqFn) (s : State) : (setHqFn f v s).latch = s.latch := rfl
@[simp] theorem setHqFn_out (f : Fn) (v : HqFn) (s : State) : (setHqFn f v s).out = s.out := rfl
@[simp] theorem setHqFn_fresh (f : Fn) (v : HqFn) (s : State) : (setHqFn f v s).fresh = s.fresh := rfl
@[simp] theorem setHqFn_pending (f : Fn) (v : HqFn) (s : State) : (setHqFn f v s).pending = s.pending := rfl

/-! ### `setCmd` -/

@[simp] theorem setCmd_tb (c : InFlight) (s : State) : (setCmd c s).tb = s.tb := rfl
@[simp] theorem setCmd_gl (c : InFlight) (s : State) : (setCmd c s).gl = s.gl := rfl
@[simp] theorem setCmd_pins (c : InFlight) (s : State) : (setCmd c s).pins = s.pins := rfl
@[simp] theorem setCmd_crew (c : InFlight) (s : State) : (setCmd c s).crew = s.crew := rfl
@[simp] theorem setCmd_task (c : InFlight) (s : State) : (setCmd c s).task = s.task := rfl
@[simp] theorem setCmd_par (c : InFlight) (s : State) : (setCmd c s).par = s.par := rfl
@[simp] theorem setCmd_eng (c : InFlight) (s : State) : (setCmd c s).eng = s.eng := rfl
@[simp] theorem setCmd_cy (c : InFlight) (s : State) : (setCmd c s).cy = s.cy := rfl
@[simp] theorem setCmd_vol (c : InFlight) (s : State) : (setCmd c s).vol = s.vol := rfl
@[simp] theorem setCmd_wr (c : InFlight) (s : State) : (setCmd c s).wr = s.wr := rfl
@[simp] theorem setCmd_fm (c : InFlight) (s : State) : (setCmd c s).fm = s.fm := rfl
@[simp] theorem setCmd_rch (c : InFlight) (s : State) : (setCmd c s).rch = s.rch := rfl
@[simp] theorem setCmd_rdr (c : InFlight) (s : State) : (setCmd c s).rdr = s.rdr := rfl
@[simp] theorem setCmd_sm (c : InFlight) (s : State) : (setCmd c s).sm = s.sm := rfl
@[simp] theorem setCmd_sv (c : InFlight) (s : State) : (setCmd c s).sv = s.sv := rfl
@[simp] theorem setCmd_ce (c : InFlight) (s : State) : (setCmd c s).ce = s.ce := rfl
@[simp] theorem setCmd_tt (c : InFlight) (s : State) : (setCmd c s).tt = s.tt := rfl
@[simp] theorem setCmd_lk (c : InFlight) (s : State) : (setCmd c s).lk = s.lk := rfl
@[simp] theorem setCmd_sp (c : InFlight) (s : State) : (setCmd c s).sp = s.sp := rfl
@[simp] theorem setCmd_ic (c : InFlight) (s : State) : (setCmd c s).ic = s.ic := rfl
@[simp] theorem setCmd_spill (c : InFlight) (s : State) : (setCmd c s).spill = s.spill := rfl
@[simp] theorem setCmd_ev (c : InFlight) (s : State) : (setCmd c s).ev = s.ev := rfl
@[simp] theorem setCmd_mi (c : InFlight) (s : State) : (setCmd c s).mi = s.mi := rfl
@[simp] theorem setCmd_se (c : InFlight) (s : State) : (setCmd c s).se = s.se := rfl
@[simp] theorem setCmd_logs (c : InFlight) (s : State) : (setCmd c s).logs = s.logs := rfl
@[simp] theorem setCmd_latch (c : InFlight) (s : State) : (setCmd c s).latch = s.latch := rfl
@[simp] theorem setCmd_out (c : InFlight) (s : State) : (setCmd c s).out = s.out := rfl
@[simp] theorem setCmd_fresh (c : InFlight) (s : State) : (setCmd c s).fresh = s.fresh := rfl
@[simp] theorem setCmd_pending (c : InFlight) (s : State) : (setCmd c s).pending = s.pending := rfl

/-! ### `setIcFn` -/

@[simp] theorem setIcFn_tb (f : Fn) (v : IcFn) (s : State) : (setIcFn f v s).tb = s.tb := rfl
@[simp] theorem setIcFn_gl (f : Fn) (v : IcFn) (s : State) : (setIcFn f v s).gl = s.gl := rfl
@[simp] theorem setIcFn_pins (f : Fn) (v : IcFn) (s : State) : (setIcFn f v s).pins = s.pins := rfl
@[simp] theorem setIcFn_crew (f : Fn) (v : IcFn) (s : State) : (setIcFn f v s).crew = s.crew := rfl
@[simp] theorem setIcFn_hq (f : Fn) (v : IcFn) (s : State) : (setIcFn f v s).hq = s.hq := rfl
@[simp] theorem setIcFn_task (f : Fn) (v : IcFn) (s : State) : (setIcFn f v s).task = s.task := rfl
@[simp] theorem setIcFn_par (f : Fn) (v : IcFn) (s : State) : (setIcFn f v s).par = s.par := rfl
@[simp] theorem setIcFn_eng (f : Fn) (v : IcFn) (s : State) : (setIcFn f v s).eng = s.eng := rfl
@[simp] theorem setIcFn_cy (f : Fn) (v : IcFn) (s : State) : (setIcFn f v s).cy = s.cy := rfl
@[simp] theorem setIcFn_vol (f : Fn) (v : IcFn) (s : State) : (setIcFn f v s).vol = s.vol := rfl
@[simp] theorem setIcFn_wr (f : Fn) (v : IcFn) (s : State) : (setIcFn f v s).wr = s.wr := rfl
@[simp] theorem setIcFn_fm (f : Fn) (v : IcFn) (s : State) : (setIcFn f v s).fm = s.fm := rfl
@[simp] theorem setIcFn_rch (f : Fn) (v : IcFn) (s : State) : (setIcFn f v s).rch = s.rch := rfl
@[simp] theorem setIcFn_rdr (f : Fn) (v : IcFn) (s : State) : (setIcFn f v s).rdr = s.rdr := rfl
@[simp] theorem setIcFn_sm (f : Fn) (v : IcFn) (s : State) : (setIcFn f v s).sm = s.sm := rfl
@[simp] theorem setIcFn_sv (f : Fn) (v : IcFn) (s : State) : (setIcFn f v s).sv = s.sv := rfl
@[simp] theorem setIcFn_ce (f : Fn) (v : IcFn) (s : State) : (setIcFn f v s).ce = s.ce := rfl
@[simp] theorem setIcFn_tt (f : Fn) (v : IcFn) (s : State) : (setIcFn f v s).tt = s.tt := rfl
@[simp] theorem setIcFn_lk (f : Fn) (v : IcFn) (s : State) : (setIcFn f v s).lk = s.lk := rfl
@[simp] theorem setIcFn_sp (f : Fn) (v : IcFn) (s : State) : (setIcFn f v s).sp = s.sp := rfl
@[simp] theorem setIcFn_spill (f : Fn) (v : IcFn) (s : State) : (setIcFn f v s).spill = s.spill := rfl
@[simp] theorem setIcFn_ev (f : Fn) (v : IcFn) (s : State) : (setIcFn f v s).ev = s.ev := rfl
@[simp] theorem setIcFn_mi (f : Fn) (v : IcFn) (s : State) : (setIcFn f v s).mi = s.mi := rfl
@[simp] theorem setIcFn_se (f : Fn) (v : IcFn) (s : State) : (setIcFn f v s).se = s.se := rfl
@[simp] theorem setIcFn_logs (f : Fn) (v : IcFn) (s : State) : (setIcFn f v s).logs = s.logs := rfl
@[simp] theorem setIcFn_latch (f : Fn) (v : IcFn) (s : State) : (setIcFn f v s).latch = s.latch := rfl
@[simp] theorem setIcFn_out (f : Fn) (v : IcFn) (s : State) : (setIcFn f v s).out = s.out := rfl
@[simp] theorem setIcFn_fresh (f : Fn) (v : IcFn) (s : State) : (setIcFn f v s).fresh = s.fresh := rfl
@[simp] theorem setIcFn_pending (f : Fn) (v : IcFn) (s : State) : (setIcFn f v s).pending = s.pending := rfl

/-! ### `setSrc` -/

@[simp] theorem setSrc_tb (f : Fn) (n : Nat) (v : Src) (s : State) : (setSrc f n v s).tb = s.tb := rfl
@[simp] theorem setSrc_gl (f : Fn) (n : Nat) (v : Src) (s : State) : (setSrc f n v s).gl = s.gl := rfl
@[simp] theorem setSrc_pins (f : Fn) (n : Nat) (v : Src) (s : State) : (setSrc f n v s).pins = s.pins := rfl
@[simp] theorem setSrc_crew (f : Fn) (n : Nat) (v : Src) (s : State) : (setSrc f n v s).crew = s.crew := rfl
@[simp] theorem setSrc_hq (f : Fn) (n : Nat) (v : Src) (s : State) : (setSrc f n v s).hq = s.hq := rfl
@[simp] theorem setSrc_task (f : Fn) (n : Nat) (v : Src) (s : State) : (setSrc f n v s).task = s.task := rfl
@[simp] theorem setSrc_par (f : Fn) (n : Nat) (v : Src) (s : State) : (setSrc f n v s).par = s.par := rfl
@[simp] theorem setSrc_eng (f : Fn) (n : Nat) (v : Src) (s : State) : (setSrc f n v s).eng = s.eng := rfl
@[simp] theorem setSrc_cy (f : Fn) (n : Nat) (v : Src) (s : State) : (setSrc f n v s).cy = s.cy := rfl
@[simp] theorem setSrc_vol (f : Fn) (n : Nat) (v : Src) (s : State) : (setSrc f n v s).vol = s.vol := rfl
@[simp] theorem setSrc_wr (f : Fn) (n : Nat) (v : Src) (s : State) : (setSrc f n v s).wr = s.wr := rfl
@[simp] theorem setSrc_fm (f : Fn) (n : Nat) (v : Src) (s : State) : (setSrc f n v s).fm = s.fm := rfl
@[simp] theorem setSrc_rch (f : Fn) (n : Nat) (v : Src) (s : State) : (setSrc f n v s).rch = s.rch := rfl
@[simp] theorem setSrc_rdr (f : Fn) (n : Nat) (v : Src) (s : State) : (setSrc f n v s).rdr = s.rdr := rfl
@[simp] theorem setSrc_sm (f : Fn) (n : Nat) (v : Src) (s : State) : (setSrc f n v s).sm = s.sm := rfl
@[simp] theorem setSrc_sv (f : Fn) (n : Nat) (v : Src) (s : State) : (setSrc f n v s).sv = s.sv := rfl
@[simp] theorem setSrc_ce (f : Fn) (n : Nat) (v : Src) (s : State) : (setSrc f n v s).ce = s.ce := rfl
@[simp] theorem setSrc_tt (f : Fn) (n : Nat) (v : Src) (s : State) : (setSrc f n v s).tt = s.tt := rfl
@[simp] theorem setSrc_lk (f : Fn) (n : Nat) (v : Src) (s : State) : (setSrc f n v s).lk = s.lk := rfl
@[simp] theorem setSrc_sp (f : Fn) (n : Nat) (v : Src) (s : State) : (setSrc f n v s).sp = s.sp := rfl
@[simp] theorem setSrc_spill (f : Fn) (n : Nat) (v : Src) (s : State) : (setSrc f n v s).spill = s.spill := rfl
@[simp] theorem setSrc_ev (f : Fn) (n : Nat) (v : Src) (s : State) : (setSrc f n v s).ev = s.ev := rfl
@[simp] theorem setSrc_mi (f : Fn) (n : Nat) (v : Src) (s : State) : (setSrc f n v s).mi = s.mi := rfl
@[simp] theorem setSrc_se (f : Fn) (n : Nat) (v : Src) (s : State) : (setSrc f n v s).se = s.se := rfl
@[simp] theorem setSrc_logs (f : Fn) (n : Nat) (v : Src) (s : State) : (setSrc f n v s).logs = s.logs := rfl
@[simp] theorem setSrc_latch (f : Fn) (n : Nat) (v : Src) (s : State) : (setSrc f n v s).latch = s.latch := rfl
@[simp] theorem setSrc_out (f : Fn) (n : Nat) (v : Src) (s : State) : (setSrc f n v s).out = s.out := rfl
@[simp] theorem setSrc_fresh (f : Fn) (n : Nat) (v : Src) (s : State) : (setSrc f n v s).fresh = s.fresh := rfl
@[simp] theorem setSrc_pending (f : Fn) (n : Nat) (v : Src) (s : State) : (setSrc f n v s).pending = s.pending := rfl

/-! ### `setFast` -/

@[simp] theorem setFast_tb (n : Nat) (v : Src) (s : State) : (setFast n v s).tb = s.tb := rfl
@[simp] theorem setFast_gl (n : Nat) (v : Src) (s : State) : (setFast n v s).gl = s.gl := rfl
@[simp] theorem setFast_pins (n : Nat) (v : Src) (s : State) : (setFast n v s).pins = s.pins := rfl
@[simp] theorem setFast_crew (n : Nat) (v : Src) (s : State) : (setFast n v s).crew = s.crew := rfl
@[simp] theorem setFast_hq (n : Nat) (v : Src) (s : State) : (setFast n v s).hq = s.hq := rfl
@[simp] theorem setFast_task (n : Nat) (v : Src) (s : State) : (setFast n v s).task = s.task := rfl
@[simp] theorem setFast_par (n : Nat) (v : Src) (s : State) : (setFast n v s).par = s.par := rfl
@[simp] theorem setFast_eng (n : Nat) (v : Src) (s : State) : (setFast n v s).eng = s.eng := rfl
@[simp] theorem setFast_cy (n : Nat) (v : Src) (s : State) : (setFast n v s).cy = s.cy := rfl
@[simp] theorem setFast_vol (n : Nat) (v : Src) (s : State) : (setFast n v s).vol = s.vol := rfl
@[simp] theorem setFast_wr (n : Nat) (v : Src) (s : State) : (setFast n v s).wr = s.wr := rfl
@[simp] theorem setFast_fm (n : Nat) (v : Src) (s : State) : (setFast n v s).fm = s.fm := rfl
@[simp] theorem setFast_rch (n : Nat) (v : Src) (s : State) : (setFast n v s).rch = s.rch := rfl
@[simp] theorem setFast_rdr (n : Nat) (v : Src) (s : State) : (setFast n v s).rdr = s.rdr := rfl
@[simp] theorem setFast_sm (n : Nat) (v : Src) (s : State) : (setFast n v s).sm = s.sm := rfl
@[simp] theorem setFast_sv (n : Nat) (v : Src) (s : State) : (setFast n v s).sv = s.sv := rfl
@[simp] theorem setFast_ce (n : Nat) (v : Src) (s : State) : (setFast n v s).ce = s.ce := rfl
@[simp] theorem setFast_tt (n : Nat) (v : Src) (s : State) : (setFast n v s).tt = s.tt := rfl
@[simp] theorem setFast_lk (n : Nat) (v : Src) (s : State) : (setFast n v s).lk = s.lk := rfl
@[simp] theorem setFast_sp (n : Nat) (v : Src) (s : State) : (setFast n v s).sp = s.sp := rfl
@[simp] theorem setFast_spill (n : Nat) (v : Src) (s : State) : (setFast n v s).spill = s.spill := rfl
@[simp] theorem setFast_ev (n : Nat) (v : Src) (s : State) : (setFast n v s).ev = s.ev := rfl
@[simp] theorem setFast_mi (n : Nat) (v : Src) (s : State) : (setFast n v s).mi = s.mi := rfl
@[simp] theorem setFast_se (n : Nat) (v : Src) (s : State) : (setFast n v s).se = s.se := rfl
@[simp] theorem setFast_logs (n : Nat) (v : Src) (s : State) : (setFast n v s).logs = s.logs := rfl
@[simp] theorem setFast_latch (n : Nat) (v : Src) (s : State) : (setFast n v s).latch = s.latch := rfl
@[simp] theorem setFast_out (n : Nat) (v : Src) (s : State) : (setFast n v s).out = s.out := rfl
@[simp] theorem setFast_fresh (n : Nat) (v : Src) (s : State) : (setFast n v s).fresh = s.fresh := rfl
@[simp] theorem setFast_pending (n : Nat) (v : Src) (s : State) : (setFast n v s).pending = s.pending := rfl

/-! ### `setSpill` -/

@[simp] theorem setSpill_tb (q : Nat) (v : Spill) (s : State) : (setSpill q v s).tb = s.tb := rfl
@[simp] theorem setSpill_gl (q : Nat) (v : Spill) (s : State) : (setSpill q v s).gl = s.gl := rfl
@[simp] theorem setSpill_pins (q : Nat) (v : Spill) (s : State) : (setSpill q v s).pins = s.pins := rfl
@[simp] theorem setSpill_crew (q : Nat) (v : Spill) (s : State) : (setSpill q v s).crew = s.crew := rfl
@[simp] theorem setSpill_hq (q : Nat) (v : Spill) (s : State) : (setSpill q v s).hq = s.hq := rfl
@[simp] theorem setSpill_task (q : Nat) (v : Spill) (s : State) : (setSpill q v s).task = s.task := rfl
@[simp] theorem setSpill_par (q : Nat) (v : Spill) (s : State) : (setSpill q v s).par = s.par := rfl
@[simp] theorem setSpill_eng (q : Nat) (v : Spill) (s : State) : (setSpill q v s).eng = s.eng := rfl
@[simp] theorem setSpill_cy (q : Nat) (v : Spill) (s : State) : (setSpill q v s).cy = s.cy := rfl
@[simp] theorem setSpill_vol (q : Nat) (v : Spill) (s : State) : (setSpill q v s).vol = s.vol := rfl
@[simp] theorem setSpill_wr (q : Nat) (v : Spill) (s : State) : (setSpill q v s).wr = s.wr := rfl
@[simp] theorem setSpill_fm (q : Nat) (v : Spill) (s : State) : (setSpill q v s).fm = s.fm := rfl
@[simp] theorem setSpill_rch (q : Nat) (v : Spill) (s : State) : (setSpill q v s).rch = s.rch := rfl
@[simp] theorem setSpill_rdr (q : Nat) (v : Spill) (s : State) : (setSpill q v s).rdr = s.rdr := rfl
@[simp] theorem setSpill_sm (q : Nat) (v : Spill) (s : State) : (setSpill q v s).sm = s.sm := rfl
@[simp] theorem setSpill_sv (q : Nat) (v : Spill) (s : State) : (setSpill q v s).sv = s.sv := rfl
@[simp] theorem setSpill_ce (q : Nat) (v : Spill) (s : State) : (setSpill q v s).ce = s.ce := rfl
@[simp] theorem setSpill_tt (q : Nat) (v : Spill) (s : State) : (setSpill q v s).tt = s.tt := rfl
@[simp] theorem setSpill_lk (q : Nat) (v : Spill) (s : State) : (setSpill q v s).lk = s.lk := rfl
@[simp] theorem setSpill_sp (q : Nat) (v : Spill) (s : State) : (setSpill q v s).sp = s.sp := rfl
@[simp] theorem setSpill_ic (q : Nat) (v : Spill) (s : State) : (setSpill q v s).ic = s.ic := rfl
@[simp] theorem setSpill_ev (q : Nat) (v : Spill) (s : State) : (setSpill q v s).ev = s.ev := rfl
@[simp] theorem setSpill_mi (q : Nat) (v : Spill) (s : State) : (setSpill q v s).mi = s.mi := rfl
@[simp] theorem setSpill_se (q : Nat) (v : Spill) (s : State) : (setSpill q v s).se = s.se := rfl
@[simp] theorem setSpill_logs (q : Nat) (v : Spill) (s : State) : (setSpill q v s).logs = s.logs := rfl
@[simp] theorem setSpill_latch (q : Nat) (v : Spill) (s : State) : (setSpill q v s).latch = s.latch := rfl
@[simp] theorem setSpill_out (q : Nat) (v : Spill) (s : State) : (setSpill q v s).out = s.out := rfl
@[simp] theorem setSpill_fresh (q : Nat) (v : Spill) (s : State) : (setSpill q v s).fresh = s.fresh := rfl
@[simp] theorem setSpill_pending (q : Nat) (v : Spill) (s : State) : (setSpill q v s).pending = s.pending := rfl

/-! ### `setSlot` -/

@[simp] theorem setSlot_tb (i : Nat) (v : Slot) (s : State) : (setSlot i v s).tb = s.tb := rfl
@[simp] theorem setSlot_gl (i : Nat) (v : Slot) (s : State) : (setSlot i v s).gl = s.gl := rfl
@[simp] theorem setSlot_pins (i : Nat) (v : Slot) (s : State) : (setSlot i v s).pins = s.pins := rfl
@[simp] theorem setSlot_crew (i : Nat) (v : Slot) (s : State) : (setSlot i v s).crew = s.crew := rfl
@[simp] theorem setSlot_hq (i : Nat) (v : Slot) (s : State) : (setSlot i v s).hq = s.hq := rfl
@[simp] theorem setSlot_task (i : Nat) (v : Slot) (s : State) : (setSlot i v s).task = s.task := rfl
@[simp] theorem setSlot_par (i : Nat) (v : Slot) (s : State) : (setSlot i v s).par = s.par := rfl
@[simp] theorem setSlot_eng (i : Nat) (v : Slot) (s : State) : (setSlot i v s).eng = s.eng := rfl
@[simp] theorem setSlot_cy (i : Nat) (v : Slot) (s : State) : (setSlot i v s).cy = s.cy := rfl
@[simp] theorem setSlot_vol (i : Nat) (v : Slot) (s : State) : (setSlot i v s).vol = s.vol := rfl
@[simp] theorem setSlot_wr (i : Nat) (v : Slot) (s : State) : (setSlot i v s).wr = s.wr := rfl
@[simp] theorem setSlot_fm (i : Nat) (v : Slot) (s : State) : (setSlot i v s).fm = s.fm := rfl
@[simp] theorem setSlot_rch (i : Nat) (v : Slot) (s : State) : (setSlot i v s).rch = s.rch := rfl
@[simp] theorem setSlot_rdr (i : Nat) (v : Slot) (s : State) : (setSlot i v s).rdr = s.rdr := rfl
@[simp] theorem setSlot_sm (i : Nat) (v : Slot) (s : State) : (setSlot i v s).sm = s.sm := rfl
@[simp] theorem setSlot_sv (i : Nat) (v : Slot) (s : State) : (setSlot i v s).sv = s.sv := rfl
@[simp] theorem setSlot_tt (i : Nat) (v : Slot) (s : State) : (setSlot i v s).tt = s.tt := rfl
@[simp] theorem setSlot_lk (i : Nat) (v : Slot) (s : State) : (setSlot i v s).lk = s.lk := rfl
@[simp] theorem setSlot_sp (i : Nat) (v : Slot) (s : State) : (setSlot i v s).sp = s.sp := rfl
@[simp] theorem setSlot_ic (i : Nat) (v : Slot) (s : State) : (setSlot i v s).ic = s.ic := rfl
@[simp] theorem setSlot_spill (i : Nat) (v : Slot) (s : State) : (setSlot i v s).spill = s.spill := rfl
@[simp] theorem setSlot_ev (i : Nat) (v : Slot) (s : State) : (setSlot i v s).ev = s.ev := rfl
@[simp] theorem setSlot_mi (i : Nat) (v : Slot) (s : State) : (setSlot i v s).mi = s.mi := rfl
@[simp] theorem setSlot_se (i : Nat) (v : Slot) (s : State) : (setSlot i v s).se = s.se := rfl
@[simp] theorem setSlot_logs (i : Nat) (v : Slot) (s : State) : (setSlot i v s).logs = s.logs := rfl
@[simp] theorem setSlot_latch (i : Nat) (v : Slot) (s : State) : (setSlot i v s).latch = s.latch := rfl
@[simp] theorem setSlot_out (i : Nat) (v : Slot) (s : State) : (setSlot i v s).out = s.out := rfl
@[simp] theorem setSlot_fresh (i : Nat) (v : Slot) (s : State) : (setSlot i v s).fresh = s.fresh := rfl
@[simp] theorem setSlot_pending (i : Nat) (v : Slot) (s : State) : (setSlot i v s).pending = s.pending := rfl

/-! ### `setKeySlot` -/

@[simp] theorem setKeySlot_tb (k : Nat) (v : KeySlot) (s : State) : (setKeySlot k v s).tb = s.tb := rfl
@[simp] theorem setKeySlot_gl (k : Nat) (v : KeySlot) (s : State) : (setKeySlot k v s).gl = s.gl := rfl
@[simp] theorem setKeySlot_pins (k : Nat) (v : KeySlot) (s : State) : (setKeySlot k v s).pins = s.pins := rfl
@[simp] theorem setKeySlot_crew (k : Nat) (v : KeySlot) (s : State) : (setKeySlot k v s).crew = s.crew := rfl
@[simp] theorem setKeySlot_hq (k : Nat) (v : KeySlot) (s : State) : (setKeySlot k v s).hq = s.hq := rfl
@[simp] theorem setKeySlot_task (k : Nat) (v : KeySlot) (s : State) : (setKeySlot k v s).task = s.task := rfl
@[simp] theorem setKeySlot_par (k : Nat) (v : KeySlot) (s : State) : (setKeySlot k v s).par = s.par := rfl
@[simp] theorem setKeySlot_eng (k : Nat) (v : KeySlot) (s : State) : (setKeySlot k v s).eng = s.eng := rfl
@[simp] theorem setKeySlot_vol (k : Nat) (v : KeySlot) (s : State) : (setKeySlot k v s).vol = s.vol := rfl
@[simp] theorem setKeySlot_wr (k : Nat) (v : KeySlot) (s : State) : (setKeySlot k v s).wr = s.wr := rfl
@[simp] theorem setKeySlot_fm (k : Nat) (v : KeySlot) (s : State) : (setKeySlot k v s).fm = s.fm := rfl
@[simp] theorem setKeySlot_rch (k : Nat) (v : KeySlot) (s : State) : (setKeySlot k v s).rch = s.rch := rfl
@[simp] theorem setKeySlot_rdr (k : Nat) (v : KeySlot) (s : State) : (setKeySlot k v s).rdr = s.rdr := rfl
@[simp] theorem setKeySlot_sm (k : Nat) (v : KeySlot) (s : State) : (setKeySlot k v s).sm = s.sm := rfl
@[simp] theorem setKeySlot_sv (k : Nat) (v : KeySlot) (s : State) : (setKeySlot k v s).sv = s.sv := rfl
@[simp] theorem setKeySlot_ce (k : Nat) (v : KeySlot) (s : State) : (setKeySlot k v s).ce = s.ce := rfl
@[simp] theorem setKeySlot_tt (k : Nat) (v : KeySlot) (s : State) : (setKeySlot k v s).tt = s.tt := rfl
@[simp] theorem setKeySlot_lk (k : Nat) (v : KeySlot) (s : State) : (setKeySlot k v s).lk = s.lk := rfl
@[simp] theorem setKeySlot_sp (k : Nat) (v : KeySlot) (s : State) : (setKeySlot k v s).sp = s.sp := rfl
@[simp] theorem setKeySlot_ic (k : Nat) (v : KeySlot) (s : State) : (setKeySlot k v s).ic = s.ic := rfl
@[simp] theorem setKeySlot_spill (k : Nat) (v : KeySlot) (s : State) : (setKeySlot k v s).spill = s.spill := rfl
@[simp] theorem setKeySlot_ev (k : Nat) (v : KeySlot) (s : State) : (setKeySlot k v s).ev = s.ev := rfl
@[simp] theorem setKeySlot_mi (k : Nat) (v : KeySlot) (s : State) : (setKeySlot k v s).mi = s.mi := rfl
@[simp] theorem setKeySlot_se (k : Nat) (v : KeySlot) (s : State) : (setKeySlot k v s).se = s.se := rfl
@[simp] theorem setKeySlot_logs (k : Nat) (v : KeySlot) (s : State) : (setKeySlot k v s).logs = s.logs := rfl
@[simp] theorem setKeySlot_latch (k : Nat) (v : KeySlot) (s : State) : (setKeySlot k v s).latch = s.latch := rfl
@[simp] theorem setKeySlot_out (k : Nat) (v : KeySlot) (s : State) : (setKeySlot k v s).out = s.out := rfl
@[simp] theorem setKeySlot_fresh (k : Nat) (v : KeySlot) (s : State) : (setKeySlot k v s).fresh = s.fresh := rfl
@[simp] theorem setKeySlot_pending (k : Nat) (v : KeySlot) (s : State) : (setKeySlot k v s).pending = s.pending := rfl

/-! ### `setServoMod` -/

@[simp] theorem setServoMod_tb (k : Nat) (v : ServoMod) (s : State) : (setServoMod k v s).tb = s.tb := rfl
@[simp] theorem setServoMod_gl (k : Nat) (v : ServoMod) (s : State) : (setServoMod k v s).gl = s.gl := rfl
@[simp] theorem setServoMod_pins (k : Nat) (v : ServoMod) (s : State) : (setServoMod k v s).pins = s.pins := rfl
@[simp] theorem setServoMod_crew (k : Nat) (v : ServoMod) (s : State) : (setServoMod k v s).crew = s.crew := rfl
@[simp] theorem setServoMod_hq (k : Nat) (v : ServoMod) (s : State) : (setServoMod k v s).hq = s.hq := rfl
@[simp] theorem setServoMod_task (k : Nat) (v : ServoMod) (s : State) : (setServoMod k v s).task = s.task := rfl
@[simp] theorem setServoMod_par (k : Nat) (v : ServoMod) (s : State) : (setServoMod k v s).par = s.par := rfl
@[simp] theorem setServoMod_eng (k : Nat) (v : ServoMod) (s : State) : (setServoMod k v s).eng = s.eng := rfl
@[simp] theorem setServoMod_cy (k : Nat) (v : ServoMod) (s : State) : (setServoMod k v s).cy = s.cy := rfl
@[simp] theorem setServoMod_vol (k : Nat) (v : ServoMod) (s : State) : (setServoMod k v s).vol = s.vol := rfl
@[simp] theorem setServoMod_wr (k : Nat) (v : ServoMod) (s : State) : (setServoMod k v s).wr = s.wr := rfl
@[simp] theorem setServoMod_fm (k : Nat) (v : ServoMod) (s : State) : (setServoMod k v s).fm = s.fm := rfl
@[simp] theorem setServoMod_rch (k : Nat) (v : ServoMod) (s : State) : (setServoMod k v s).rch = s.rch := rfl
@[simp] theorem setServoMod_rdr (k : Nat) (v : ServoMod) (s : State) : (setServoMod k v s).rdr = s.rdr := rfl
@[simp] theorem setServoMod_sm (k : Nat) (v : ServoMod) (s : State) : (setServoMod k v s).sm = s.sm := rfl
@[simp] theorem setServoMod_ce (k : Nat) (v : ServoMod) (s : State) : (setServoMod k v s).ce = s.ce := rfl
@[simp] theorem setServoMod_tt (k : Nat) (v : ServoMod) (s : State) : (setServoMod k v s).tt = s.tt := rfl
@[simp] theorem setServoMod_lk (k : Nat) (v : ServoMod) (s : State) : (setServoMod k v s).lk = s.lk := rfl
@[simp] theorem setServoMod_sp (k : Nat) (v : ServoMod) (s : State) : (setServoMod k v s).sp = s.sp := rfl
@[simp] theorem setServoMod_ic (k : Nat) (v : ServoMod) (s : State) : (setServoMod k v s).ic = s.ic := rfl
@[simp] theorem setServoMod_spill (k : Nat) (v : ServoMod) (s : State) : (setServoMod k v s).spill = s.spill := rfl
@[simp] theorem setServoMod_ev (k : Nat) (v : ServoMod) (s : State) : (setServoMod k v s).ev = s.ev := rfl
@[simp] theorem setServoMod_mi (k : Nat) (v : ServoMod) (s : State) : (setServoMod k v s).mi = s.mi := rfl
@[simp] theorem setServoMod_se (k : Nat) (v : ServoMod) (s : State) : (setServoMod k v s).se = s.se := rfl
@[simp] theorem setServoMod_logs (k : Nat) (v : ServoMod) (s : State) : (setServoMod k v s).logs = s.logs := rfl
@[simp] theorem setServoMod_latch (k : Nat) (v : ServoMod) (s : State) : (setServoMod k v s).latch = s.latch := rfl
@[simp] theorem setServoMod_out (k : Nat) (v : ServoMod) (s : State) : (setServoMod k v s).out = s.out := rfl
@[simp] theorem setServoMod_fresh (k : Nat) (v : ServoMod) (s : State) : (setServoMod k v s).fresh = s.fresh := rfl
@[simp] theorem setServoMod_pending (k : Nat) (v : ServoMod) (s : State) : (setServoMod k v s).pending = s.pending := rfl

/-! ### `setServoRd` -/

@[simp] theorem setServoRd_tb (n : Nat) (v : ServoRd) (s : State) : (setServoRd n v s).tb = s.tb := rfl
@[simp] theorem setServoRd_gl (n : Nat) (v : ServoRd) (s : State) : (setServoRd n v s).gl = s.gl := rfl
@[simp] theorem setServoRd_pins (n : Nat) (v : ServoRd) (s : State) : (setServoRd n v s).pins = s.pins := rfl
@[simp] theorem setServoRd_crew (n : Nat) (v : ServoRd) (s : State) : (setServoRd n v s).crew = s.crew := rfl
@[simp] theorem setServoRd_hq (n : Nat) (v : ServoRd) (s : State) : (setServoRd n v s).hq = s.hq := rfl
@[simp] theorem setServoRd_task (n : Nat) (v : ServoRd) (s : State) : (setServoRd n v s).task = s.task := rfl
@[simp] theorem setServoRd_par (n : Nat) (v : ServoRd) (s : State) : (setServoRd n v s).par = s.par := rfl
@[simp] theorem setServoRd_eng (n : Nat) (v : ServoRd) (s : State) : (setServoRd n v s).eng = s.eng := rfl
@[simp] theorem setServoRd_cy (n : Nat) (v : ServoRd) (s : State) : (setServoRd n v s).cy = s.cy := rfl
@[simp] theorem setServoRd_vol (n : Nat) (v : ServoRd) (s : State) : (setServoRd n v s).vol = s.vol := rfl
@[simp] theorem setServoRd_wr (n : Nat) (v : ServoRd) (s : State) : (setServoRd n v s).wr = s.wr := rfl
@[simp] theorem setServoRd_fm (n : Nat) (v : ServoRd) (s : State) : (setServoRd n v s).fm = s.fm := rfl
@[simp] theorem setServoRd_rch (n : Nat) (v : ServoRd) (s : State) : (setServoRd n v s).rch = s.rch := rfl
@[simp] theorem setServoRd_rdr (n : Nat) (v : ServoRd) (s : State) : (setServoRd n v s).rdr = s.rdr := rfl
@[simp] theorem setServoRd_sm (n : Nat) (v : ServoRd) (s : State) : (setServoRd n v s).sm = s.sm := rfl
@[simp] theorem setServoRd_ce (n : Nat) (v : ServoRd) (s : State) : (setServoRd n v s).ce = s.ce := rfl
@[simp] theorem setServoRd_tt (n : Nat) (v : ServoRd) (s : State) : (setServoRd n v s).tt = s.tt := rfl
@[simp] theorem setServoRd_lk (n : Nat) (v : ServoRd) (s : State) : (setServoRd n v s).lk = s.lk := rfl
@[simp] theorem setServoRd_sp (n : Nat) (v : ServoRd) (s : State) : (setServoRd n v s).sp = s.sp := rfl
@[simp] theorem setServoRd_ic (n : Nat) (v : ServoRd) (s : State) : (setServoRd n v s).ic = s.ic := rfl
@[simp] theorem setServoRd_spill (n : Nat) (v : ServoRd) (s : State) : (setServoRd n v s).spill = s.spill := rfl
@[simp] theorem setServoRd_ev (n : Nat) (v : ServoRd) (s : State) : (setServoRd n v s).ev = s.ev := rfl
@[simp] theorem setServoRd_mi (n : Nat) (v : ServoRd) (s : State) : (setServoRd n v s).mi = s.mi := rfl
@[simp] theorem setServoRd_se (n : Nat) (v : ServoRd) (s : State) : (setServoRd n v s).se = s.se := rfl
@[simp] theorem setServoRd_logs (n : Nat) (v : ServoRd) (s : State) : (setServoRd n v s).logs = s.logs := rfl
@[simp] theorem setServoRd_latch (n : Nat) (v : ServoRd) (s : State) : (setServoRd n v s).latch = s.latch := rfl
@[simp] theorem setServoRd_out (n : Nat) (v : ServoRd) (s : State) : (setServoRd n v s).out = s.out := rfl
@[simp] theorem setServoRd_fresh (n : Nat) (v : ServoRd) (s : State) : (setServoRd n v s).fresh = s.fresh := rfl
@[simp] theorem setServoRd_pending (n : Nat) (v : ServoRd) (s : State) : (setServoRd n v s).pending = s.pending := rfl

/-! ### `setLane` -/

@[simp] theorem setLane_tb (l : Nat) (v : Lane) (s : State) : (setLane l v s).tb = s.tb := rfl
@[simp] theorem setLane_gl (l : Nat) (v : Lane) (s : State) : (setLane l v s).gl = s.gl := rfl
@[simp] theorem setLane_pins (l : Nat) (v : Lane) (s : State) : (setLane l v s).pins = s.pins := rfl
@[simp] theorem setLane_crew (l : Nat) (v : Lane) (s : State) : (setLane l v s).crew = s.crew := rfl
@[simp] theorem setLane_hq (l : Nat) (v : Lane) (s : State) : (setLane l v s).hq = s.hq := rfl
@[simp] theorem setLane_task (l : Nat) (v : Lane) (s : State) : (setLane l v s).task = s.task := rfl
@[simp] theorem setLane_par (l : Nat) (v : Lane) (s : State) : (setLane l v s).par = s.par := rfl
@[simp] theorem setLane_eng (l : Nat) (v : Lane) (s : State) : (setLane l v s).eng = s.eng := rfl
@[simp] theorem setLane_cy (l : Nat) (v : Lane) (s : State) : (setLane l v s).cy = s.cy := rfl
@[simp] theorem setLane_vol (l : Nat) (v : Lane) (s : State) : (setLane l v s).vol = s.vol := rfl
@[simp] theorem setLane_wr (l : Nat) (v : Lane) (s : State) : (setLane l v s).wr = s.wr := rfl
@[simp] theorem setLane_fm (l : Nat) (v : Lane) (s : State) : (setLane l v s).fm = s.fm := rfl
@[simp] theorem setLane_rch (l : Nat) (v : Lane) (s : State) : (setLane l v s).rch = s.rch := rfl
@[simp] theorem setLane_rdr (l : Nat) (v : Lane) (s : State) : (setLane l v s).rdr = s.rdr := rfl
@[simp] theorem setLane_sm (l : Nat) (v : Lane) (s : State) : (setLane l v s).sm = s.sm := rfl
@[simp] theorem setLane_sv (l : Nat) (v : Lane) (s : State) : (setLane l v s).sv = s.sv := rfl
@[simp] theorem setLane_ce (l : Nat) (v : Lane) (s : State) : (setLane l v s).ce = s.ce := rfl
@[simp] theorem setLane_tt (l : Nat) (v : Lane) (s : State) : (setLane l v s).tt = s.tt := rfl
@[simp] theorem setLane_sp (l : Nat) (v : Lane) (s : State) : (setLane l v s).sp = s.sp := rfl
@[simp] theorem setLane_ic (l : Nat) (v : Lane) (s : State) : (setLane l v s).ic = s.ic := rfl
@[simp] theorem setLane_spill (l : Nat) (v : Lane) (s : State) : (setLane l v s).spill = s.spill := rfl
@[simp] theorem setLane_ev (l : Nat) (v : Lane) (s : State) : (setLane l v s).ev = s.ev := rfl
@[simp] theorem setLane_mi (l : Nat) (v : Lane) (s : State) : (setLane l v s).mi = s.mi := rfl
@[simp] theorem setLane_se (l : Nat) (v : Lane) (s : State) : (setLane l v s).se = s.se := rfl
@[simp] theorem setLane_logs (l : Nat) (v : Lane) (s : State) : (setLane l v s).logs = s.logs := rfl
@[simp] theorem setLane_latch (l : Nat) (v : Lane) (s : State) : (setLane l v s).latch = s.latch := rfl
@[simp] theorem setLane_out (l : Nat) (v : Lane) (s : State) : (setLane l v s).out = s.out := rfl
@[simp] theorem setLane_fresh (l : Nat) (v : Lane) (s : State) : (setLane l v s).fresh = s.fresh := rfl
@[simp] theorem setLane_pending (l : Nat) (v : Lane) (s : State) : (setLane l v s).pending = s.pending := rfl

/-! ### `setCrew` -/

@[simp] theorem setCrew_tb (i : Nat) (v : Crew) (s : State) : (setCrew i v s).tb = s.tb := rfl
@[simp] theorem setCrew_gl (i : Nat) (v : Crew) (s : State) : (setCrew i v s).gl = s.gl := rfl
@[simp] theorem setCrew_pins (i : Nat) (v : Crew) (s : State) : (setCrew i v s).pins = s.pins := rfl
@[simp] theorem setCrew_hq (i : Nat) (v : Crew) (s : State) : (setCrew i v s).hq = s.hq := rfl
@[simp] theorem setCrew_task (i : Nat) (v : Crew) (s : State) : (setCrew i v s).task = s.task := rfl
@[simp] theorem setCrew_par (i : Nat) (v : Crew) (s : State) : (setCrew i v s).par = s.par := rfl
@[simp] theorem setCrew_eng (i : Nat) (v : Crew) (s : State) : (setCrew i v s).eng = s.eng := rfl
@[simp] theorem setCrew_cy (i : Nat) (v : Crew) (s : State) : (setCrew i v s).cy = s.cy := rfl
@[simp] theorem setCrew_vol (i : Nat) (v : Crew) (s : State) : (setCrew i v s).vol = s.vol := rfl
@[simp] theorem setCrew_wr (i : Nat) (v : Crew) (s : State) : (setCrew i v s).wr = s.wr := rfl
@[simp] theorem setCrew_fm (i : Nat) (v : Crew) (s : State) : (setCrew i v s).fm = s.fm := rfl
@[simp] theorem setCrew_rch (i : Nat) (v : Crew) (s : State) : (setCrew i v s).rch = s.rch := rfl
@[simp] theorem setCrew_rdr (i : Nat) (v : Crew) (s : State) : (setCrew i v s).rdr = s.rdr := rfl
@[simp] theorem setCrew_sm (i : Nat) (v : Crew) (s : State) : (setCrew i v s).sm = s.sm := rfl
@[simp] theorem setCrew_sv (i : Nat) (v : Crew) (s : State) : (setCrew i v s).sv = s.sv := rfl
@[simp] theorem setCrew_ce (i : Nat) (v : Crew) (s : State) : (setCrew i v s).ce = s.ce := rfl
@[simp] theorem setCrew_tt (i : Nat) (v : Crew) (s : State) : (setCrew i v s).tt = s.tt := rfl
@[simp] theorem setCrew_lk (i : Nat) (v : Crew) (s : State) : (setCrew i v s).lk = s.lk := rfl
@[simp] theorem setCrew_sp (i : Nat) (v : Crew) (s : State) : (setCrew i v s).sp = s.sp := rfl
@[simp] theorem setCrew_ic (i : Nat) (v : Crew) (s : State) : (setCrew i v s).ic = s.ic := rfl
@[simp] theorem setCrew_spill (i : Nat) (v : Crew) (s : State) : (setCrew i v s).spill = s.spill := rfl
@[simp] theorem setCrew_ev (i : Nat) (v : Crew) (s : State) : (setCrew i v s).ev = s.ev := rfl
@[simp] theorem setCrew_mi (i : Nat) (v : Crew) (s : State) : (setCrew i v s).mi = s.mi := rfl
@[simp] theorem setCrew_se (i : Nat) (v : Crew) (s : State) : (setCrew i v s).se = s.se := rfl
@[simp] theorem setCrew_logs (i : Nat) (v : Crew) (s : State) : (setCrew i v s).logs = s.logs := rfl
@[simp] theorem setCrew_latch (i : Nat) (v : Crew) (s : State) : (setCrew i v s).latch = s.latch := rfl
@[simp] theorem setCrew_out (i : Nat) (v : Crew) (s : State) : (setCrew i v s).out = s.out := rfl
@[simp] theorem setCrew_fresh (i : Nat) (v : Crew) (s : State) : (setCrew i v s).fresh = s.fresh := rfl
@[simp] theorem setCrew_pending (i : Nat) (v : Crew) (s : State) : (setCrew i v s).pending = s.pending := rfl

/-! ### `setElem` -/

@[simp] theorem setElem_tb (e : Nat) (v : ElemStat) (s : State) : (setElem e v s).tb = s.tb := rfl
@[simp] theorem setElem_gl (e : Nat) (v : ElemStat) (s : State) : (setElem e v s).gl = s.gl := rfl
@[simp] theorem setElem_pins (e : Nat) (v : ElemStat) (s : State) : (setElem e v s).pins = s.pins := rfl
@[simp] theorem setElem_crew (e : Nat) (v : ElemStat) (s : State) : (setElem e v s).crew = s.crew := rfl
@[simp] theorem setElem_hq (e : Nat) (v : ElemStat) (s : State) : (setElem e v s).hq = s.hq := rfl
@[simp] theorem setElem_task (e : Nat) (v : ElemStat) (s : State) : (setElem e v s).task = s.task := rfl
@[simp] theorem setElem_par (e : Nat) (v : ElemStat) (s : State) : (setElem e v s).par = s.par := rfl
@[simp] theorem setElem_eng (e : Nat) (v : ElemStat) (s : State) : (setElem e v s).eng = s.eng := rfl
@[simp] theorem setElem_cy (e : Nat) (v : ElemStat) (s : State) : (setElem e v s).cy = s.cy := rfl
@[simp] theorem setElem_vol (e : Nat) (v : ElemStat) (s : State) : (setElem e v s).vol = s.vol := rfl
@[simp] theorem setElem_fm (e : Nat) (v : ElemStat) (s : State) : (setElem e v s).fm = s.fm := rfl
@[simp] theorem setElem_rch (e : Nat) (v : ElemStat) (s : State) : (setElem e v s).rch = s.rch := rfl
@[simp] theorem setElem_rdr (e : Nat) (v : ElemStat) (s : State) : (setElem e v s).rdr = s.rdr := rfl
@[simp] theorem setElem_sm (e : Nat) (v : ElemStat) (s : State) : (setElem e v s).sm = s.sm := rfl
@[simp] theorem setElem_sv (e : Nat) (v : ElemStat) (s : State) : (setElem e v s).sv = s.sv := rfl
@[simp] theorem setElem_ce (e : Nat) (v : ElemStat) (s : State) : (setElem e v s).ce = s.ce := rfl
@[simp] theorem setElem_tt (e : Nat) (v : ElemStat) (s : State) : (setElem e v s).tt = s.tt := rfl
@[simp] theorem setElem_lk (e : Nat) (v : ElemStat) (s : State) : (setElem e v s).lk = s.lk := rfl
@[simp] theorem setElem_sp (e : Nat) (v : ElemStat) (s : State) : (setElem e v s).sp = s.sp := rfl
@[simp] theorem setElem_ic (e : Nat) (v : ElemStat) (s : State) : (setElem e v s).ic = s.ic := rfl
@[simp] theorem setElem_spill (e : Nat) (v : ElemStat) (s : State) : (setElem e v s).spill = s.spill := rfl
@[simp] theorem setElem_ev (e : Nat) (v : ElemStat) (s : State) : (setElem e v s).ev = s.ev := rfl
@[simp] theorem setElem_mi (e : Nat) (v : ElemStat) (s : State) : (setElem e v s).mi = s.mi := rfl
@[simp] theorem setElem_se (e : Nat) (v : ElemStat) (s : State) : (setElem e v s).se = s.se := rfl
@[simp] theorem setElem_logs (e : Nat) (v : ElemStat) (s : State) : (setElem e v s).logs = s.logs := rfl
@[simp] theorem setElem_latch (e : Nat) (v : ElemStat) (s : State) : (setElem e v s).latch = s.latch := rfl
@[simp] theorem setElem_out (e : Nat) (v : ElemStat) (s : State) : (setElem e v s).out = s.out := rfl
@[simp] theorem setElem_fresh (e : Nat) (v : ElemStat) (s : State) : (setElem e v s).fresh = s.fresh := rfl
@[simp] theorem setElem_pending (e : Nat) (v : ElemStat) (s : State) : (setElem e v s).pending = s.pending := rfl

/-! ### `setDie` -/

@[simp] theorem setDie_tb (d : Nat) (v : Unit_) (s : State) : (setDie d v s).tb = s.tb := rfl
@[simp] theorem setDie_gl (d : Nat) (v : Unit_) (s : State) : (setDie d v s).gl = s.gl := rfl
@[simp] theorem setDie_pins (d : Nat) (v : Unit_) (s : State) : (setDie d v s).pins = s.pins := rfl
@[simp] theorem setDie_hq (d : Nat) (v : Unit_) (s : State) : (setDie d v s).hq = s.hq := rfl
@[simp] theorem setDie_task (d : Nat) (v : Unit_) (s : State) : (setDie d v s).task = s.task := rfl
@[simp] theorem setDie_par (d : Nat) (v : Unit_) (s : State) : (setDie d v s).par = s.par := rfl
@[simp] theorem setDie_eng (d : Nat) (v : Unit_) (s : State) : (setDie d v s).eng = s.eng := rfl
@[simp] theorem setDie_cy (d : Nat) (v : Unit_) (s : State) : (setDie d v s).cy = s.cy := rfl
@[simp] theorem setDie_vol (d : Nat) (v : Unit_) (s : State) : (setDie d v s).vol = s.vol := rfl
@[simp] theorem setDie_wr (d : Nat) (v : Unit_) (s : State) : (setDie d v s).wr = s.wr := rfl
@[simp] theorem setDie_fm (d : Nat) (v : Unit_) (s : State) : (setDie d v s).fm = s.fm := rfl
@[simp] theorem setDie_rch (d : Nat) (v : Unit_) (s : State) : (setDie d v s).rch = s.rch := rfl
@[simp] theorem setDie_rdr (d : Nat) (v : Unit_) (s : State) : (setDie d v s).rdr = s.rdr := rfl
@[simp] theorem setDie_sm (d : Nat) (v : Unit_) (s : State) : (setDie d v s).sm = s.sm := rfl
@[simp] theorem setDie_sv (d : Nat) (v : Unit_) (s : State) : (setDie d v s).sv = s.sv := rfl
@[simp] theorem setDie_ce (d : Nat) (v : Unit_) (s : State) : (setDie d v s).ce = s.ce := rfl
@[simp] theorem setDie_tt (d : Nat) (v : Unit_) (s : State) : (setDie d v s).tt = s.tt := rfl
@[simp] theorem setDie_lk (d : Nat) (v : Unit_) (s : State) : (setDie d v s).lk = s.lk := rfl
@[simp] theorem setDie_sp (d : Nat) (v : Unit_) (s : State) : (setDie d v s).sp = s.sp := rfl
@[simp] theorem setDie_ic (d : Nat) (v : Unit_) (s : State) : (setDie d v s).ic = s.ic := rfl
@[simp] theorem setDie_spill (d : Nat) (v : Unit_) (s : State) : (setDie d v s).spill = s.spill := rfl
@[simp] theorem setDie_ev (d : Nat) (v : Unit_) (s : State) : (setDie d v s).ev = s.ev := rfl
@[simp] theorem setDie_mi (d : Nat) (v : Unit_) (s : State) : (setDie d v s).mi = s.mi := rfl
@[simp] theorem setDie_se (d : Nat) (v : Unit_) (s : State) : (setDie d v s).se = s.se := rfl
@[simp] theorem setDie_logs (d : Nat) (v : Unit_) (s : State) : (setDie d v s).logs = s.logs := rfl
@[simp] theorem setDie_latch (d : Nat) (v : Unit_) (s : State) : (setDie d v s).latch = s.latch := rfl
@[simp] theorem setDie_out (d : Nat) (v : Unit_) (s : State) : (setDie d v s).out = s.out := rfl
@[simp] theorem setDie_fresh (d : Nat) (v : Unit_) (s : State) : (setDie d v s).fresh = s.fresh := rfl
@[simp] theorem setDie_pending (d : Nat) (v : Unit_) (s : State) : (setDie d v s).pending = s.pending := rfl

/-! ### `setHead` -/

@[simp] theorem setHead_tb (m : Nat) (v : Head) (s : State) : (setHead m v s).tb = s.tb := rfl
@[simp] theorem setHead_gl (m : Nat) (v : Head) (s : State) : (setHead m v s).gl = s.gl := rfl
@[simp] theorem setHead_pins (m : Nat) (v : Head) (s : State) : (setHead m v s).pins = s.pins := rfl
@[simp] theorem setHead_crew (m : Nat) (v : Head) (s : State) : (setHead m v s).crew = s.crew := rfl
@[simp] theorem setHead_hq (m : Nat) (v : Head) (s : State) : (setHead m v s).hq = s.hq := rfl
@[simp] theorem setHead_task (m : Nat) (v : Head) (s : State) : (setHead m v s).task = s.task := rfl
@[simp] theorem setHead_par (m : Nat) (v : Head) (s : State) : (setHead m v s).par = s.par := rfl
@[simp] theorem setHead_eng (m : Nat) (v : Head) (s : State) : (setHead m v s).eng = s.eng := rfl
@[simp] theorem setHead_cy (m : Nat) (v : Head) (s : State) : (setHead m v s).cy = s.cy := rfl
@[simp] theorem setHead_vol (m : Nat) (v : Head) (s : State) : (setHead m v s).vol = s.vol := rfl
@[simp] theorem setHead_wr (m : Nat) (v : Head) (s : State) : (setHead m v s).wr = s.wr := rfl
@[simp] theorem setHead_fm (m : Nat) (v : Head) (s : State) : (setHead m v s).fm = s.fm := rfl
@[simp] theorem setHead_rch (m : Nat) (v : Head) (s : State) : (setHead m v s).rch = s.rch := rfl
@[simp] theorem setHead_rdr (m : Nat) (v : Head) (s : State) : (setHead m v s).rdr = s.rdr := rfl
@[simp] theorem setHead_sm (m : Nat) (v : Head) (s : State) : (setHead m v s).sm = s.sm := rfl
@[simp] theorem setHead_sv (m : Nat) (v : Head) (s : State) : (setHead m v s).sv = s.sv := rfl
@[simp] theorem setHead_ce (m : Nat) (v : Head) (s : State) : (setHead m v s).ce = s.ce := rfl
@[simp] theorem setHead_tt (m : Nat) (v : Head) (s : State) : (setHead m v s).tt = s.tt := rfl
@[simp] theorem setHead_sp (m : Nat) (v : Head) (s : State) : (setHead m v s).sp = s.sp := rfl
@[simp] theorem setHead_ic (m : Nat) (v : Head) (s : State) : (setHead m v s).ic = s.ic := rfl
@[simp] theorem setHead_spill (m : Nat) (v : Head) (s : State) : (setHead m v s).spill = s.spill := rfl
@[simp] theorem setHead_ev (m : Nat) (v : Head) (s : State) : (setHead m v s).ev = s.ev := rfl
@[simp] theorem setHead_mi (m : Nat) (v : Head) (s : State) : (setHead m v s).mi = s.mi := rfl
@[simp] theorem setHead_se (m : Nat) (v : Head) (s : State) : (setHead m v s).se = s.se := rfl
@[simp] theorem setHead_logs (m : Nat) (v : Head) (s : State) : (setHead m v s).logs = s.logs := rfl
@[simp] theorem setHead_latch (m : Nat) (v : Head) (s : State) : (setHead m v s).latch = s.latch := rfl
@[simp] theorem setHead_out (m : Nat) (v : Head) (s : State) : (setHead m v s).out = s.out := rfl
@[simp] theorem setHead_fresh (m : Nat) (v : Head) (s : State) : (setHead m v s).fresh = s.fresh := rfl
@[simp] theorem setHead_pending (m : Nat) (v : Head) (s : State) : (setHead m v s).pending = s.pending := rfl

/-! ### `setPart` -/

@[simp] theorem setPart_tb (p : Nat) (v : Part) (s : State) : (setPart p v s).tb = s.tb := rfl
@[simp] theorem setPart_gl (p : Nat) (v : Part) (s : State) : (setPart p v s).gl = s.gl := rfl
@[simp] theorem setPart_pins (p : Nat) (v : Part) (s : State) : (setPart p v s).pins = s.pins := rfl
@[simp] theorem setPart_crew (p : Nat) (v : Part) (s : State) : (setPart p v s).crew = s.crew := rfl
@[simp] theorem setPart_hq (p : Nat) (v : Part) (s : State) : (setPart p v s).hq = s.hq := rfl
@[simp] theorem setPart_task (p : Nat) (v : Part) (s : State) : (setPart p v s).task = s.task := rfl
@[simp] theorem setPart_par (p : Nat) (v : Part) (s : State) : (setPart p v s).par = s.par := rfl
@[simp] theorem setPart_eng (p : Nat) (v : Part) (s : State) : (setPart p v s).eng = s.eng := rfl
@[simp] theorem setPart_cy (p : Nat) (v : Part) (s : State) : (setPart p v s).cy = s.cy := rfl
@[simp] theorem setPart_wr (p : Nat) (v : Part) (s : State) : (setPart p v s).wr = s.wr := rfl
@[simp] theorem setPart_fm (p : Nat) (v : Part) (s : State) : (setPart p v s).fm = s.fm := rfl
@[simp] theorem setPart_rch (p : Nat) (v : Part) (s : State) : (setPart p v s).rch = s.rch := rfl
@[simp] theorem setPart_rdr (p : Nat) (v : Part) (s : State) : (setPart p v s).rdr = s.rdr := rfl
@[simp] theorem setPart_sm (p : Nat) (v : Part) (s : State) : (setPart p v s).sm = s.sm := rfl
@[simp] theorem setPart_sv (p : Nat) (v : Part) (s : State) : (setPart p v s).sv = s.sv := rfl
@[simp] theorem setPart_ce (p : Nat) (v : Part) (s : State) : (setPart p v s).ce = s.ce := rfl
@[simp] theorem setPart_tt (p : Nat) (v : Part) (s : State) : (setPart p v s).tt = s.tt := rfl
@[simp] theorem setPart_lk (p : Nat) (v : Part) (s : State) : (setPart p v s).lk = s.lk := rfl
@[simp] theorem setPart_sp (p : Nat) (v : Part) (s : State) : (setPart p v s).sp = s.sp := rfl
@[simp] theorem setPart_ic (p : Nat) (v : Part) (s : State) : (setPart p v s).ic = s.ic := rfl
@[simp] theorem setPart_spill (p : Nat) (v : Part) (s : State) : (setPart p v s).spill = s.spill := rfl
@[simp] theorem setPart_ev (p : Nat) (v : Part) (s : State) : (setPart p v s).ev = s.ev := rfl
@[simp] theorem setPart_mi (p : Nat) (v : Part) (s : State) : (setPart p v s).mi = s.mi := rfl
@[simp] theorem setPart_se (p : Nat) (v : Part) (s : State) : (setPart p v s).se = s.se := rfl
@[simp] theorem setPart_logs (p : Nat) (v : Part) (s : State) : (setPart p v s).logs = s.logs := rfl
@[simp] theorem setPart_latch (p : Nat) (v : Part) (s : State) : (setPart p v s).latch = s.latch := rfl
@[simp] theorem setPart_out (p : Nat) (v : Part) (s : State) : (setPart p v s).out = s.out := rfl
@[simp] theorem setPart_fresh (p : Nat) (v : Part) (s : State) : (setPart p v s).fresh = s.fresh := rfl
@[simp] theorem setPart_pending (p : Nat) (v : Part) (s : State) : (setPart p v s).pending = s.pending := rfl

/-! ### `setUnitBits` -/

@[simp] theorem setUnitBits_tb (c : Nat) (a : Nat) (w : BitVec 288) (s : State) : (setUnitBits c a w s).tb = s.tb := rfl
@[simp] theorem setUnitBits_gl (c : Nat) (a : Nat) (w : BitVec 288) (s : State) : (setUnitBits c a w s).gl = s.gl := rfl
@[simp] theorem setUnitBits_pins (c : Nat) (a : Nat) (w : BitVec 288) (s : State) : (setUnitBits c a w s).pins = s.pins := rfl
@[simp] theorem setUnitBits_crew (c : Nat) (a : Nat) (w : BitVec 288) (s : State) : (setUnitBits c a w s).crew = s.crew := rfl
@[simp] theorem setUnitBits_hq (c : Nat) (a : Nat) (w : BitVec 288) (s : State) : (setUnitBits c a w s).hq = s.hq := rfl
@[simp] theorem setUnitBits_task (c : Nat) (a : Nat) (w : BitVec 288) (s : State) : (setUnitBits c a w s).task = s.task := rfl
@[simp] theorem setUnitBits_par (c : Nat) (a : Nat) (w : BitVec 288) (s : State) : (setUnitBits c a w s).par = s.par := rfl
@[simp] theorem setUnitBits_eng (c : Nat) (a : Nat) (w : BitVec 288) (s : State) : (setUnitBits c a w s).eng = s.eng := rfl
@[simp] theorem setUnitBits_cy (c : Nat) (a : Nat) (w : BitVec 288) (s : State) : (setUnitBits c a w s).cy = s.cy := rfl
@[simp] theorem setUnitBits_vol (c : Nat) (a : Nat) (w : BitVec 288) (s : State) : (setUnitBits c a w s).vol = s.vol := rfl
@[simp] theorem setUnitBits_wr (c : Nat) (a : Nat) (w : BitVec 288) (s : State) : (setUnitBits c a w s).wr = s.wr := rfl
@[simp] theorem setUnitBits_fm (c : Nat) (a : Nat) (w : BitVec 288) (s : State) : (setUnitBits c a w s).fm = s.fm := rfl
@[simp] theorem setUnitBits_rch (c : Nat) (a : Nat) (w : BitVec 288) (s : State) : (setUnitBits c a w s).rch = s.rch := rfl
@[simp] theorem setUnitBits_rdr (c : Nat) (a : Nat) (w : BitVec 288) (s : State) : (setUnitBits c a w s).rdr = s.rdr := rfl
@[simp] theorem setUnitBits_sm (c : Nat) (a : Nat) (w : BitVec 288) (s : State) : (setUnitBits c a w s).sm = s.sm := rfl
@[simp] theorem setUnitBits_sv (c : Nat) (a : Nat) (w : BitVec 288) (s : State) : (setUnitBits c a w s).sv = s.sv := rfl
@[simp] theorem setUnitBits_ce (c : Nat) (a : Nat) (w : BitVec 288) (s : State) : (setUnitBits c a w s).ce = s.ce := rfl
@[simp] theorem setUnitBits_tt (c : Nat) (a : Nat) (w : BitVec 288) (s : State) : (setUnitBits c a w s).tt = s.tt := rfl
@[simp] theorem setUnitBits_lk (c : Nat) (a : Nat) (w : BitVec 288) (s : State) : (setUnitBits c a w s).lk = s.lk := rfl
@[simp] theorem setUnitBits_sp (c : Nat) (a : Nat) (w : BitVec 288) (s : State) : (setUnitBits c a w s).sp = s.sp := rfl
@[simp] theorem setUnitBits_ic (c : Nat) (a : Nat) (w : BitVec 288) (s : State) : (setUnitBits c a w s).ic = s.ic := rfl
@[simp] theorem setUnitBits_spill (c : Nat) (a : Nat) (w : BitVec 288) (s : State) : (setUnitBits c a w s).spill = s.spill := rfl
@[simp] theorem setUnitBits_ev (c : Nat) (a : Nat) (w : BitVec 288) (s : State) : (setUnitBits c a w s).ev = s.ev := rfl
@[simp] theorem setUnitBits_se (c : Nat) (a : Nat) (w : BitVec 288) (s : State) : (setUnitBits c a w s).se = s.se := rfl
@[simp] theorem setUnitBits_logs (c : Nat) (a : Nat) (w : BitVec 288) (s : State) : (setUnitBits c a w s).logs = s.logs := rfl
@[simp] theorem setUnitBits_latch (c : Nat) (a : Nat) (w : BitVec 288) (s : State) : (setUnitBits c a w s).latch = s.latch := rfl
@[simp] theorem setUnitBits_out (c : Nat) (a : Nat) (w : BitVec 288) (s : State) : (setUnitBits c a w s).out = s.out := rfl
@[simp] theorem setUnitBits_fresh (c : Nat) (a : Nat) (w : BitVec 288) (s : State) : (setUnitBits c a w s).fresh = s.fresh := rfl
@[simp] theorem setUnitBits_pending (c : Nat) (a : Nat) (w : BitVec 288) (s : State) : (setUnitBits c a w s).pending = s.pending := rfl

/-! ### `setParamCur` -/

@[simp] theorem setParamCur_tb (id : Nat) (target : Nat) (v : Nat) (s : State) : (setParamCur id target v s).tb = s.tb := rfl
@[simp] theorem setParamCur_gl (id : Nat) (target : Nat) (v : Nat) (s : State) : (setParamCur id target v s).gl = s.gl := rfl
@[simp] theorem setParamCur_pins (id : Nat) (target : Nat) (v : Nat) (s : State) : (setParamCur id target v s).pins = s.pins := rfl
@[simp] theorem setParamCur_crew (id : Nat) (target : Nat) (v : Nat) (s : State) : (setParamCur id target v s).crew = s.crew := rfl
@[simp] theorem setParamCur_hq (id : Nat) (target : Nat) (v : Nat) (s : State) : (setParamCur id target v s).hq = s.hq := rfl
@[simp] theorem setParamCur_task (id : Nat) (target : Nat) (v : Nat) (s : State) : (setParamCur id target v s).task = s.task := rfl
@[simp] theorem setParamCur_eng (id : Nat) (target : Nat) (v : Nat) (s : State) : (setParamCur id target v s).eng = s.eng := rfl
@[simp] theorem setParamCur_cy (id : Nat) (target : Nat) (v : Nat) (s : State) : (setParamCur id target v s).cy = s.cy := rfl
@[simp] theorem setParamCur_vol (id : Nat) (target : Nat) (v : Nat) (s : State) : (setParamCur id target v s).vol = s.vol := rfl
@[simp] theorem setParamCur_wr (id : Nat) (target : Nat) (v : Nat) (s : State) : (setParamCur id target v s).wr = s.wr := rfl
@[simp] theorem setParamCur_fm (id : Nat) (target : Nat) (v : Nat) (s : State) : (setParamCur id target v s).fm = s.fm := rfl
@[simp] theorem setParamCur_rch (id : Nat) (target : Nat) (v : Nat) (s : State) : (setParamCur id target v s).rch = s.rch := rfl
@[simp] theorem setParamCur_rdr (id : Nat) (target : Nat) (v : Nat) (s : State) : (setParamCur id target v s).rdr = s.rdr := rfl
@[simp] theorem setParamCur_sm (id : Nat) (target : Nat) (v : Nat) (s : State) : (setParamCur id target v s).sm = s.sm := rfl
@[simp] theorem setParamCur_sv (id : Nat) (target : Nat) (v : Nat) (s : State) : (setParamCur id target v s).sv = s.sv := rfl
@[simp] theorem setParamCur_ce (id : Nat) (target : Nat) (v : Nat) (s : State) : (setParamCur id target v s).ce = s.ce := rfl
@[simp] theorem setParamCur_tt (id : Nat) (target : Nat) (v : Nat) (s : State) : (setParamCur id target v s).tt = s.tt := rfl
@[simp] theorem setParamCur_lk (id : Nat) (target : Nat) (v : Nat) (s : State) : (setParamCur id target v s).lk = s.lk := rfl
@[simp] theorem setParamCur_sp (id : Nat) (target : Nat) (v : Nat) (s : State) : (setParamCur id target v s).sp = s.sp := rfl
@[simp] theorem setParamCur_ic (id : Nat) (target : Nat) (v : Nat) (s : State) : (setParamCur id target v s).ic = s.ic := rfl
@[simp] theorem setParamCur_spill (id : Nat) (target : Nat) (v : Nat) (s : State) : (setParamCur id target v s).spill = s.spill := rfl
@[simp] theorem setParamCur_ev (id : Nat) (target : Nat) (v : Nat) (s : State) : (setParamCur id target v s).ev = s.ev := rfl
@[simp] theorem setParamCur_mi (id : Nat) (target : Nat) (v : Nat) (s : State) : (setParamCur id target v s).mi = s.mi := rfl
@[simp] theorem setParamCur_se (id : Nat) (target : Nat) (v : Nat) (s : State) : (setParamCur id target v s).se = s.se := rfl
@[simp] theorem setParamCur_logs (id : Nat) (target : Nat) (v : Nat) (s : State) : (setParamCur id target v s).logs = s.logs := rfl
@[simp] theorem setParamCur_latch (id : Nat) (target : Nat) (v : Nat) (s : State) : (setParamCur id target v s).latch = s.latch := rfl
@[simp] theorem setParamCur_out (id : Nat) (target : Nat) (v : Nat) (s : State) : (setParamCur id target v s).out = s.out := rfl
@[simp] theorem setParamCur_fresh (id : Nat) (target : Nat) (v : Nat) (s : State) : (setParamCur id target v s).fresh = s.fresh := rfl
@[simp] theorem setParamCur_pending (id : Nat) (target : Nat) (v : Nat) (s : State) : (setParamCur id target v s).pending = s.pending := rfl

/-! ### `setGen` -/

@[simp] theorem setGen_tb (g : Nat) (v : Gen) (s : State) : (setGen g v s).tb = s.tb := rfl
@[simp] theorem setGen_gl (g : Nat) (v : Gen) (s : State) : (setGen g v s).gl = s.gl := rfl
@[simp] theorem setGen_pins (g : Nat) (v : Gen) (s : State) : (setGen g v s).pins = s.pins := rfl
@[simp] theorem setGen_crew (g : Nat) (v : Gen) (s : State) : (setGen g v s).crew = s.crew := rfl
@[simp] theorem setGen_hq (g : Nat) (v : Gen) (s : State) : (setGen g v s).hq = s.hq := rfl
@[simp] theorem setGen_task (g : Nat) (v : Gen) (s : State) : (setGen g v s).task = s.task := rfl
@[simp] theorem setGen_par (g : Nat) (v : Gen) (s : State) : (setGen g v s).par = s.par := rfl
@[simp] theorem setGen_eng (g : Nat) (v : Gen) (s : State) : (setGen g v s).eng = s.eng := rfl
@[simp] theorem setGen_cy (g : Nat) (v : Gen) (s : State) : (setGen g v s).cy = s.cy := rfl
@[simp] theorem setGen_vol (g : Nat) (v : Gen) (s : State) : (setGen g v s).vol = s.vol := rfl
@[simp] theorem setGen_wr (g : Nat) (v : Gen) (s : State) : (setGen g v s).wr = s.wr := rfl
@[simp] theorem setGen_fm (g : Nat) (v : Gen) (s : State) : (setGen g v s).fm = s.fm := rfl
@[simp] theorem setGen_rch (g : Nat) (v : Gen) (s : State) : (setGen g v s).rch = s.rch := rfl
@[simp] theorem setGen_rdr (g : Nat) (v : Gen) (s : State) : (setGen g v s).rdr = s.rdr := rfl
@[simp] theorem setGen_sm (g : Nat) (v : Gen) (s : State) : (setGen g v s).sm = s.sm := rfl
@[simp] theorem setGen_sv (g : Nat) (v : Gen) (s : State) : (setGen g v s).sv = s.sv := rfl
@[simp] theorem setGen_ce (g : Nat) (v : Gen) (s : State) : (setGen g v s).ce = s.ce := rfl
@[simp] theorem setGen_lk (g : Nat) (v : Gen) (s : State) : (setGen g v s).lk = s.lk := rfl
@[simp] theorem setGen_sp (g : Nat) (v : Gen) (s : State) : (setGen g v s).sp = s.sp := rfl
@[simp] theorem setGen_ic (g : Nat) (v : Gen) (s : State) : (setGen g v s).ic = s.ic := rfl
@[simp] theorem setGen_spill (g : Nat) (v : Gen) (s : State) : (setGen g v s).spill = s.spill := rfl
@[simp] theorem setGen_ev (g : Nat) (v : Gen) (s : State) : (setGen g v s).ev = s.ev := rfl
@[simp] theorem setGen_mi (g : Nat) (v : Gen) (s : State) : (setGen g v s).mi = s.mi := rfl
@[simp] theorem setGen_se (g : Nat) (v : Gen) (s : State) : (setGen g v s).se = s.se := rfl
@[simp] theorem setGen_logs (g : Nat) (v : Gen) (s : State) : (setGen g v s).logs = s.logs := rfl
@[simp] theorem setGen_latch (g : Nat) (v : Gen) (s : State) : (setGen g v s).latch = s.latch := rfl
@[simp] theorem setGen_out (g : Nat) (v : Gen) (s : State) : (setGen g v s).out = s.out := rfl
@[simp] theorem setGen_fresh (g : Nat) (v : Gen) (s : State) : (setGen g v s).fresh = s.fresh := rfl
@[simp] theorem setGen_pending (g : Nat) (v : Gen) (s : State) : (setGen g v s).pending = s.pending := rfl

/-! ### `setMsixWord` -/

@[simp] theorem setMsixWord_tb (f : Fn) (v : Nat) (w : Nat) (a4 : Word) (s : State) : (setMsixWord f v w a4 s).tb = s.tb := rfl
@[simp] theorem setMsixWord_gl (f : Fn) (v : Nat) (w : Nat) (a4 : Word) (s : State) : (setMsixWord f v w a4 s).gl = s.gl := rfl
@[simp] theorem setMsixWord_pins (f : Fn) (v : Nat) (w : Nat) (a4 : Word) (s : State) : (setMsixWord f v w a4 s).pins = s.pins := rfl
@[simp] theorem setMsixWord_crew (f : Fn) (v : Nat) (w : Nat) (a4 : Word) (s : State) : (setMsixWord f v w a4 s).crew = s.crew := rfl
@[simp] theorem setMsixWord_hq (f : Fn) (v : Nat) (w : Nat) (a4 : Word) (s : State) : (setMsixWord f v w a4 s).hq = s.hq := rfl
@[simp] theorem setMsixWord_task (f : Fn) (v : Nat) (w : Nat) (a4 : Word) (s : State) : (setMsixWord f v w a4 s).task = s.task := rfl
@[simp] theorem setMsixWord_par (f : Fn) (v : Nat) (w : Nat) (a4 : Word) (s : State) : (setMsixWord f v w a4 s).par = s.par := rfl
@[simp] theorem setMsixWord_eng (f : Fn) (v : Nat) (w : Nat) (a4 : Word) (s : State) : (setMsixWord f v w a4 s).eng = s.eng := rfl
@[simp] theorem setMsixWord_cy (f : Fn) (v : Nat) (w : Nat) (a4 : Word) (s : State) : (setMsixWord f v w a4 s).cy = s.cy := rfl
@[simp] theorem setMsixWord_vol (f : Fn) (v : Nat) (w : Nat) (a4 : Word) (s : State) : (setMsixWord f v w a4 s).vol = s.vol := rfl
@[simp] theorem setMsixWord_wr (f : Fn) (v : Nat) (w : Nat) (a4 : Word) (s : State) : (setMsixWord f v w a4 s).wr = s.wr := rfl
@[simp] theorem setMsixWord_fm (f : Fn) (v : Nat) (w : Nat) (a4 : Word) (s : State) : (setMsixWord f v w a4 s).fm = s.fm := rfl
@[simp] theorem setMsixWord_rch (f : Fn) (v : Nat) (w : Nat) (a4 : Word) (s : State) : (setMsixWord f v w a4 s).rch = s.rch := rfl
@[simp] theorem setMsixWord_rdr (f : Fn) (v : Nat) (w : Nat) (a4 : Word) (s : State) : (setMsixWord f v w a4 s).rdr = s.rdr := rfl
@[simp] theorem setMsixWord_sm (f : Fn) (v : Nat) (w : Nat) (a4 : Word) (s : State) : (setMsixWord f v w a4 s).sm = s.sm := rfl
@[simp] theorem setMsixWord_sv (f : Fn) (v : Nat) (w : Nat) (a4 : Word) (s : State) : (setMsixWord f v w a4 s).sv = s.sv := rfl
@[simp] theorem setMsixWord_ce (f : Fn) (v : Nat) (w : Nat) (a4 : Word) (s : State) : (setMsixWord f v w a4 s).ce = s.ce := rfl
@[simp] theorem setMsixWord_tt (f : Fn) (v : Nat) (w : Nat) (a4 : Word) (s : State) : (setMsixWord f v w a4 s).tt = s.tt := rfl
@[simp] theorem setMsixWord_lk (f : Fn) (v : Nat) (w : Nat) (a4 : Word) (s : State) : (setMsixWord f v w a4 s).lk = s.lk := rfl
@[simp] theorem setMsixWord_sp (f : Fn) (v : Nat) (w : Nat) (a4 : Word) (s : State) : (setMsixWord f v w a4 s).sp = s.sp := rfl
@[simp] theorem setMsixWord_spill (f : Fn) (v : Nat) (w : Nat) (a4 : Word) (s : State) : (setMsixWord f v w a4 s).spill = s.spill := rfl
@[simp] theorem setMsixWord_ev (f : Fn) (v : Nat) (w : Nat) (a4 : Word) (s : State) : (setMsixWord f v w a4 s).ev = s.ev := rfl
@[simp] theorem setMsixWord_mi (f : Fn) (v : Nat) (w : Nat) (a4 : Word) (s : State) : (setMsixWord f v w a4 s).mi = s.mi := rfl
@[simp] theorem setMsixWord_se (f : Fn) (v : Nat) (w : Nat) (a4 : Word) (s : State) : (setMsixWord f v w a4 s).se = s.se := rfl
@[simp] theorem setMsixWord_logs (f : Fn) (v : Nat) (w : Nat) (a4 : Word) (s : State) : (setMsixWord f v w a4 s).logs = s.logs := rfl
@[simp] theorem setMsixWord_latch (f : Fn) (v : Nat) (w : Nat) (a4 : Word) (s : State) : (setMsixWord f v w a4 s).latch = s.latch := rfl
@[simp] theorem setMsixWord_out (f : Fn) (v : Nat) (w : Nat) (a4 : Word) (s : State) : (setMsixWord f v w a4 s).out = s.out := rfl
@[simp] theorem setMsixWord_fresh (f : Fn) (v : Nat) (w : Nat) (a4 : Word) (s : State) : (setMsixWord f v w a4 s).fresh = s.fresh := rfl
@[simp] theorem setMsixWord_pending (f : Fn) (v : Nat) (w : Nat) (a4 : Word) (s : State) : (setMsixWord f v w a4 s).pending = s.pending := rfl

/-! ### `setTaskArg` -/

@[simp] theorem setTaskArg_tb (n : Nat) (v : Word) (s : State) : (setTaskArg n v s).tb = s.tb := rfl
@[simp] theorem setTaskArg_gl (n : Nat) (v : Word) (s : State) : (setTaskArg n v s).gl = s.gl := rfl
@[simp] theorem setTaskArg_pins (n : Nat) (v : Word) (s : State) : (setTaskArg n v s).pins = s.pins := rfl
@[simp] theorem setTaskArg_crew (n : Nat) (v : Word) (s : State) : (setTaskArg n v s).crew = s.crew := rfl
@[simp] theorem setTaskArg_hq (n : Nat) (v : Word) (s : State) : (setTaskArg n v s).hq = s.hq := rfl
@[simp] theorem setTaskArg_par (n : Nat) (v : Word) (s : State) : (setTaskArg n v s).par = s.par := rfl
@[simp] theorem setTaskArg_eng (n : Nat) (v : Word) (s : State) : (setTaskArg n v s).eng = s.eng := rfl
@[simp] theorem setTaskArg_cy (n : Nat) (v : Word) (s : State) : (setTaskArg n v s).cy = s.cy := rfl
@[simp] theorem setTaskArg_vol (n : Nat) (v : Word) (s : State) : (setTaskArg n v s).vol = s.vol := rfl
@[simp] theorem setTaskArg_wr (n : Nat) (v : Word) (s : State) : (setTaskArg n v s).wr = s.wr := rfl
@[simp] theorem setTaskArg_fm (n : Nat) (v : Word) (s : State) : (setTaskArg n v s).fm = s.fm := rfl
@[simp] theorem setTaskArg_rch (n : Nat) (v : Word) (s : State) : (setTaskArg n v s).rch = s.rch := rfl
@[simp] theorem setTaskArg_rdr (n : Nat) (v : Word) (s : State) : (setTaskArg n v s).rdr = s.rdr := rfl
@[simp] theorem setTaskArg_sm (n : Nat) (v : Word) (s : State) : (setTaskArg n v s).sm = s.sm := rfl
@[simp] theorem setTaskArg_sv (n : Nat) (v : Word) (s : State) : (setTaskArg n v s).sv = s.sv := rfl
@[simp] theorem setTaskArg_ce (n : Nat) (v : Word) (s : State) : (setTaskArg n v s).ce = s.ce := rfl
@[simp] theorem setTaskArg_tt (n : Nat) (v : Word) (s : State) : (setTaskArg n v s).tt = s.tt := rfl
@[simp] theorem setTaskArg_lk (n : Nat) (v : Word) (s : State) : (setTaskArg n v s).lk = s.lk := rfl
@[simp] theorem setTaskArg_sp (n : Nat) (v : Word) (s : State) : (setTaskArg n v s).sp = s.sp := rfl
@[simp] theorem setTaskArg_ic (n : Nat) (v : Word) (s : State) : (setTaskArg n v s).ic = s.ic := rfl
@[simp] theorem setTaskArg_spill (n : Nat) (v : Word) (s : State) : (setTaskArg n v s).spill = s.spill := rfl
@[simp] theorem setTaskArg_ev (n : Nat) (v : Word) (s : State) : (setTaskArg n v s).ev = s.ev := rfl
@[simp] theorem setTaskArg_mi (n : Nat) (v : Word) (s : State) : (setTaskArg n v s).mi = s.mi := rfl
@[simp] theorem setTaskArg_se (n : Nat) (v : Word) (s : State) : (setTaskArg n v s).se = s.se := rfl
@[simp] theorem setTaskArg_logs (n : Nat) (v : Word) (s : State) : (setTaskArg n v s).logs = s.logs := rfl
@[simp] theorem setTaskArg_latch (n : Nat) (v : Word) (s : State) : (setTaskArg n v s).latch = s.latch := rfl
@[simp] theorem setTaskArg_out (n : Nat) (v : Word) (s : State) : (setTaskArg n v s).out = s.out := rfl
@[simp] theorem setTaskArg_fresh (n : Nat) (v : Word) (s : State) : (setTaskArg n v s).fresh = s.fresh := rfl
@[simp] theorem setTaskArg_pending (n : Nat) (v : Word) (s : State) : (setTaskArg n v s).pending = s.pending := rfl

/-! ### `setKek` -/

@[simp] theorem setKek_tb (f : Fn) (k : List Byte) (s : State) : (setKek f k s).tb = s.tb := rfl
@[simp] theorem setKek_gl (f : Fn) (k : List Byte) (s : State) : (setKek f k s).gl = s.gl := rfl
@[simp] theorem setKek_pins (f : Fn) (k : List Byte) (s : State) : (setKek f k s).pins = s.pins := rfl
@[simp] theorem setKek_crew (f : Fn) (k : List Byte) (s : State) : (setKek f k s).crew = s.crew := rfl
@[simp] theorem setKek_hq (f : Fn) (k : List Byte) (s : State) : (setKek f k s).hq = s.hq := rfl
@[simp] theorem setKek_task (f : Fn) (k : List Byte) (s : State) : (setKek f k s).task = s.task := rfl
@[simp] theorem setKek_par (f : Fn) (k : List Byte) (s : State) : (setKek f k s).par = s.par := rfl
@[simp] theorem setKek_eng (f : Fn) (k : List Byte) (s : State) : (setKek f k s).eng = s.eng := rfl
@[simp] theorem setKek_vol (f : Fn) (k : List Byte) (s : State) : (setKek f k s).vol = s.vol := rfl
@[simp] theorem setKek_wr (f : Fn) (k : List Byte) (s : State) : (setKek f k s).wr = s.wr := rfl
@[simp] theorem setKek_fm (f : Fn) (k : List Byte) (s : State) : (setKek f k s).fm = s.fm := rfl
@[simp] theorem setKek_rch (f : Fn) (k : List Byte) (s : State) : (setKek f k s).rch = s.rch := rfl
@[simp] theorem setKek_rdr (f : Fn) (k : List Byte) (s : State) : (setKek f k s).rdr = s.rdr := rfl
@[simp] theorem setKek_sm (f : Fn) (k : List Byte) (s : State) : (setKek f k s).sm = s.sm := rfl
@[simp] theorem setKek_sv (f : Fn) (k : List Byte) (s : State) : (setKek f k s).sv = s.sv := rfl
@[simp] theorem setKek_ce (f : Fn) (k : List Byte) (s : State) : (setKek f k s).ce = s.ce := rfl
@[simp] theorem setKek_tt (f : Fn) (k : List Byte) (s : State) : (setKek f k s).tt = s.tt := rfl
@[simp] theorem setKek_lk (f : Fn) (k : List Byte) (s : State) : (setKek f k s).lk = s.lk := rfl
@[simp] theorem setKek_sp (f : Fn) (k : List Byte) (s : State) : (setKek f k s).sp = s.sp := rfl
@[simp] theorem setKek_ic (f : Fn) (k : List Byte) (s : State) : (setKek f k s).ic = s.ic := rfl
@[simp] theorem setKek_spill (f : Fn) (k : List Byte) (s : State) : (setKek f k s).spill = s.spill := rfl
@[simp] theorem setKek_ev (f : Fn) (k : List Byte) (s : State) : (setKek f k s).ev = s.ev := rfl
@[simp] theorem setKek_mi (f : Fn) (k : List Byte) (s : State) : (setKek f k s).mi = s.mi := rfl
@[simp] theorem setKek_se (f : Fn) (k : List Byte) (s : State) : (setKek f k s).se = s.se := rfl
@[simp] theorem setKek_logs (f : Fn) (k : List Byte) (s : State) : (setKek f k s).logs = s.logs := rfl
@[simp] theorem setKek_latch (f : Fn) (k : List Byte) (s : State) : (setKek f k s).latch = s.latch := rfl
@[simp] theorem setKek_out (f : Fn) (k : List Byte) (s : State) : (setKek f k s).out = s.out := rfl
@[simp] theorem setKek_fresh (f : Fn) (k : List Byte) (s : State) : (setKek f k s).fresh = s.fresh := rfl
@[simp] theorem setKek_pending (f : Fn) (k : List Byte) (s : State) : (setKek f k s).pending = s.pending := rfl

/-! ### `setEnc` -/

@[simp] theorem setEnc_tb (a1 : Nat) (v : Enc) (s : State) : (setEnc a1 v s).tb = s.tb := rfl
@[simp] theorem setEnc_gl (a1 : Nat) (v : Enc) (s : State) : (setEnc a1 v s).gl = s.gl := rfl
@[simp] theorem setEnc_pins (a1 : Nat) (v : Enc) (s : State) : (setEnc a1 v s).pins = s.pins := rfl
@[simp] theorem setEnc_crew (a1 : Nat) (v : Enc) (s : State) : (setEnc a1 v s).crew = s.crew := rfl
@[simp] theorem setEnc_hq (a1 : Nat) (v : Enc) (s : State) : (setEnc a1 v s).hq = s.hq := rfl
@[simp] theorem setEnc_task (a1 : Nat) (v : Enc) (s : State) : (setEnc a1 v s).task = s.task := rfl
@[simp] theorem setEnc_par (a1 : Nat) (v : Enc) (s : State) : (setEnc a1 v s).par = s.par := rfl
@[simp] theorem setEnc_eng (a1 : Nat) (v : Enc) (s : State) : (setEnc a1 v s).eng = s.eng := rfl
@[simp] theorem setEnc_cy (a1 : Nat) (v : Enc) (s : State) : (setEnc a1 v s).cy = s.cy := rfl
@[simp] theorem setEnc_vol (a1 : Nat) (v : Enc) (s : State) : (setEnc a1 v s).vol = s.vol := rfl
@[simp] theorem setEnc_wr (a1 : Nat) (v : Enc) (s : State) : (setEnc a1 v s).wr = s.wr := rfl
@[simp] theorem setEnc_fm (a1 : Nat) (v : Enc) (s : State) : (setEnc a1 v s).fm = s.fm := rfl
@[simp] theorem setEnc_rch (a1 : Nat) (v : Enc) (s : State) : (setEnc a1 v s).rch = s.rch := rfl
@[simp] theorem setEnc_rdr (a1 : Nat) (v : Enc) (s : State) : (setEnc a1 v s).rdr = s.rdr := rfl
@[simp] theorem setEnc_sm (a1 : Nat) (v : Enc) (s : State) : (setEnc a1 v s).sm = s.sm := rfl
@[simp] theorem setEnc_sv (a1 : Nat) (v : Enc) (s : State) : (setEnc a1 v s).sv = s.sv := rfl
@[simp] theorem setEnc_ce (a1 : Nat) (v : Enc) (s : State) : (setEnc a1 v s).ce = s.ce := rfl
@[simp] theorem setEnc_tt (a1 : Nat) (v : Enc) (s : State) : (setEnc a1 v s).tt = s.tt := rfl
@[simp] theorem setEnc_lk (a1 : Nat) (v : Enc) (s : State) : (setEnc a1 v s).lk = s.lk := rfl
@[simp] theorem setEnc_ic (a1 : Nat) (v : Enc) (s : State) : (setEnc a1 v s).ic = s.ic := rfl
@[simp] theorem setEnc_spill (a1 : Nat) (v : Enc) (s : State) : (setEnc a1 v s).spill = s.spill := rfl
@[simp] theorem setEnc_ev (a1 : Nat) (v : Enc) (s : State) : (setEnc a1 v s).ev = s.ev := rfl
@[simp] theorem setEnc_mi (a1 : Nat) (v : Enc) (s : State) : (setEnc a1 v s).mi = s.mi := rfl
@[simp] theorem setEnc_se (a1 : Nat) (v : Enc) (s : State) : (setEnc a1 v s).se = s.se := rfl
@[simp] theorem setEnc_logs (a1 : Nat) (v : Enc) (s : State) : (setEnc a1 v s).logs = s.logs := rfl
@[simp] theorem setEnc_latch (a1 : Nat) (v : Enc) (s : State) : (setEnc a1 v s).latch = s.latch := rfl
@[simp] theorem setEnc_out (a1 : Nat) (v : Enc) (s : State) : (setEnc a1 v s).out = s.out := rfl
@[simp] theorem setEnc_fresh (a1 : Nat) (v : Enc) (s : State) : (setEnc a1 v s).fresh = s.fresh := rfl
@[simp] theorem setEnc_pending (a1 : Nat) (v : Enc) (s : State) : (setEnc a1 v s).pending = s.pending := rfl

/-! ### What is read back -/


@[simp] theorem sqOf_setSq (f : Fn) (q : Nat) (v : Sq) (s : State) : sqOf (setSq f q v s) f q = v := tabGet_tabSet_same _ _ _ _
@[simp] theorem cqOf_setCq (f : Fn) (q : Nat) (v : Cq) (s : State) : cqOf (setCq f q v s) f q = v := tabGet_tabSet_same _ _ _ _
@[simp] theorem hqFn_setHqFn (f : Fn) (v : HqFn) (s : State) : hqFn (setHqFn f v s) f = v := tabGet_tabSet_same _ _ _ _
@[simp] theorem icFn_setIcFn (f : Fn) (v : IcFn) (s : State) : icFn (setIcFn f v s) f = v := tabGet_tabSet_same _ _ _ _
@[simp] theorem srcOf_setSrc (f : Fn) (n : Nat) (v : Src) (s : State) : srcOf (setSrc f n v s) f n = v := tabGet_tabSet_same _ _ _ _
@[simp] theorem fastOf_setFast (n : Nat) (v : Src) (s : State) : fastOf (setFast n v s) n = v := tabGet_tabSet_same _ _ _ _
@[simp] theorem spillOf_setSpill (q : Nat) (v : Spill) (s : State) : spillOf (setSpill q v s) q = v := tabGet_tabSet_same _ _ _ _
@[simp] theorem slotOf_setSlot (i : Nat) (v : Slot) (s : State) : slotOf (setSlot i v s) i = v := tabGet_tabSet_same _ _ _ _
@[simp] theorem keySlot_setKeySlot (k : Nat) (v : KeySlot) (s : State) : keySlot (setKeySlot k v s) k = v := tabGet_tabSet_same _ _ _ _
@[simp] theorem servoMod_setServoMod (k : Nat) (v : ServoMod) (s : State) : servoMod (setServoMod k v s) k = v := tabGet_tabSet_same _ _ _ _
@[simp] theorem servoRd_setServoRd (n : Nat) (v : ServoRd) (s : State) : servoRd (setServoRd n v s) n = v := tabGet_tabSet_same _ _ _ _
@[simp] theorem laneOf_setLane (l : Nat) (v : Lane) (s : State) : laneOf (setLane l v s) l = v := tabGet_tabSet_same _ _ _ _
@[simp] theorem crewOf_setCrew (i : Nat) (v : Crew) (s : State) : crewOf (setCrew i v s) i = v := tabGet_tabSet_same _ _ _ _
@[simp] theorem elemOf_setElem (e : Nat) (v : ElemStat) (s : State) : elemOf (setElem e v s) e = v := tabGet_tabSet_same _ _ _ _
@[simp] theorem dieOf_setDie (d : Nat) (v : Unit_) (s : State) : dieOf (setDie d v s) d = v := tabGet_tabSet_same _ _ _ _
@[simp] theorem headOf_setHead (m : Nat) (v : Head) (s : State) : headOf (setHead m v s) m = v := tabGet_tabSet_same _ _ _ _
@[simp] theorem partOf_setPart (p : Nat) (v : Part) (s : State) : partOf (setPart p v s) p = v := tabGet_tabSet_same _ _ _ _
@[simp] theorem genOf_setGen (g : Nat) (v : Gen) (s : State) : genOf (setGen g v s) g = v := tabGet_tabSet_same _ _ _ _

theorem fastOf_setFast_other (n : Nat) (v : Src) {j : Nat} (s : State) (h : j ≠ n) : fastOf (setFast n v s) j = fastOf s j :=
  tabGet_tabSet_other _ _ _ h
theorem spillOf_setSpill_other (q : Nat) (v : Spill) {j : Nat} (s : State) (h : j ≠ q) : spillOf (setSpill q v s) j = spillOf s j :=
  tabGet_tabSet_other _ _ _ h
theorem slotOf_setSlot_other (i : Nat) (v : Slot) {j : Nat} (s : State) (h : j ≠ i) : slotOf (setSlot i v s) j = slotOf s j :=
  tabGet_tabSet_other _ _ _ h
theorem keySlot_setKeySlot_other (k : Nat) (v : KeySlot) {j : Nat} (s : State) (h : j ≠ k) : keySlot (setKeySlot k v s) j = keySlot s j :=
  tabGet_tabSet_other _ _ _ h
theorem servoMod_setServoMod_other (k : Nat) (v : ServoMod) {j : Nat} (s : State) (h : j ≠ k) : servoMod (setServoMod k v s) j = servoMod s j :=
  tabGet_tabSet_other _ _ _ h
theorem servoRd_setServoRd_other (n : Nat) (v : ServoRd) {j : Nat} (s : State) (h : j ≠ n) : servoRd (setServoRd n v s) j = servoRd s j :=
  tabGet_tabSet_other _ _ _ h
theorem laneOf_setLane_other (l : Nat) (v : Lane) {j : Nat} (s : State) (h : j ≠ l) : laneOf (setLane l v s) j = laneOf s j :=
  tabGet_tabSet_other _ _ _ h
theorem crewOf_setCrew_other (i : Nat) (v : Crew) {j : Nat} (s : State) (h : j ≠ i) : crewOf (setCrew i v s) j = crewOf s j :=
  tabGet_tabSet_other _ _ _ h
theorem elemOf_setElem_other (e : Nat) (v : ElemStat) {j : Nat} (s : State) (h : j ≠ e) : elemOf (setElem e v s) j = elemOf s j :=
  tabGet_tabSet_other _ _ _ h
theorem dieOf_setDie_other (d : Nat) (v : Unit_) {j : Nat} (s : State) (h : j ≠ d) : dieOf (setDie d v s) j = dieOf s j :=
  tabGet_tabSet_other _ _ _ h
theorem partOf_setPart_other (p : Nat) (v : Part) {j : Nat} (s : State) (h : j ≠ p) : partOf (setPart p v s) j = partOf s j :=
  tabGet_tabSet_other _ _ _ h
theorem genOf_setGen_other (g : Nat) (v : Gen) {j : Nat} (s : State) (h : j ≠ g) : genOf (setGen g v s) j = genOf s j :=
  tabGet_tabSet_other _ _ _ h

theorem fn_key {f g : Fn} (h : g ≠ f) : g.toNat ≠ f.toNat := fun e => h (BitVec.eq_of_toNat_eq e)

theorem hqFn_setHqFn_other {f g : Fn} (v : HqFn) (s : State) (h : g ≠ f) : hqFn (setHqFn f v s) g = hqFn s g :=
  tabGet_tabSet_other _ _ _ (fn_key h)

/-- Every queue identifier has a place of its own. -/
theorem queueKey_inj {f g : Fn} {q r : Nat} (h : queueKey f q = queueKey g r) : f = g ∧ q = r := by
  have hf := f.isLt
  have hg := g.isLt
  unfold queueKey at h
  split at h <;> split at h <;> exact ⟨BitVec.eq_of_toNat_eq (by omega), by omega⟩

theorem sqOf_setSq_other {f g : Fn} {q r : Nat} (v : Sq) (s : State) (h : ¬(g = f ∧ r = q)) :
    sqOf (setSq f q v s) g r = sqOf s g r :=
  tabGet_tabSet_other _ _ _ fun e => h (queueKey_inj e)

theorem cqOf_setCq_other {f g : Fn} {q r : Nat} (v : Cq) (s : State) (h : ¬(g = f ∧ r = q)) :
    cqOf (setCq f q v s) g r = cqOf s g r :=
  tabGet_tabSet_other _ _ _ fun e => h (queueKey_inj e)

end Sys2Proof.Machine
end

