-- ==== Sys2Proof/Laws/Ends.lean ====
section
/-!
SUPPORT. How a command ends: `complete` and `failCmd` commit its completion entry and take it out of flight, and nothing
that follows within a frame brings it back.
-/

namespace Sys2Proof.Machine

theorem Sent.frame {l : List Region} {s u v : State} {x : Out} (h : Sent s u x) (hf : Frame l u v) : Sent s v x := by
  obtain ⟨a, ha, hx⟩ := h
  obtain ⟨b, hb⟩ := hf.out
  exact ⟨b ++ a, by rw [← hb, ha, List.append_assoc], List.mem_append_right _ hx⟩

theorem Sent.after {l : List Region} {s u v : State} {x : Out} (hf : Frame l s u) (h : Sent u v x) : Sent s v x := by
  obtain ⟨a, ha, hx⟩ := h
  obtain ⟨b, hb⟩ := hf.out
  exact ⟨a ++ b, by rw [ha, ← hb, List.append_assoc], List.mem_append_left _ hx⟩

theorem Sent.emit (x : Out) (s : State) : Sent s (emit x s) x := ⟨[x], rfl, by simp⟩

/-- Nothing within a frame that admits no new command undoes an end. -/
theorem Ends.frame {l : List Region} {s u v : State} {r : CmdRef} {st a b : Nat} (h : Ends s u r st a b) (hf : Frame l u v)
    (hl : l.contains .refs = false := by decide) : Ends s v r st a b := by
  obtain ⟨cq, slot, bytes, hs, hb⟩ := h.entry
  exact ⟨findCmd_none (hf.same .refs (not_mem_of_contains hl)) h.gone, cq, slot, bytes, hs.frame hf, hb⟩

/-- What came before an end stays in the account of what left the device. -/
theorem Ends.after {l : List Region} {s u v : State} {r : CmdRef} {st a b : Nat} (hf : Frame l s u)
    (h : Ends u v r st a b) :
    Ends s v r st a b := by
  obtain ⟨cq, slot, bytes, hs, hb⟩ := h.entry
  exact ⟨h.gone, cq, slot, bytes, hs.after hf, hb⟩

@[simp] theorem natLe_length (n v : Nat) : (natLe n v).length = n := by
  induction n generalizing v with
  | zero => rfl
  | succ n ih => simp [natLe, ih]

theorem leNat_natLe (n v : Nat) (h : v < 256 ^ n) : leNat (natLe n v) = v := by
  induction n generalizing v with
  | zero => simp at h; simp [natLe, leNat, h]
  | succ n ih =>
    have := ih (v / 256) (by rw [Nat.pow_succ] at h; omega)
    simp only [natLe, leNat, this, BitVec.toNat_ofNat]
    omega

theorem entryBytes_length (r0 r1 sqid hd : Nat) (tag : BitVec 16) (slot st : Nat) (ph more : Bool) (ts : Time) :
    (entryBytes r0 r1 sqid hd tag slot st ph more ts).length = 32 := by
  simp [entryBytes]

theorem entryBytes_tag (r0 r1 sqid hd : Nat) (tag : BitVec 16) (slot st : Nat) (ph more : Bool) (ts : Time) :
    fieldLe (entryBytes r0 r1 sqid hd tag slot st ph more ts) 16 2 = tag.toNat := by
  unfold fieldLe slice entryBytes
  rw [show (natLe 8 r0 ++ natLe 4 r1 ++ natLe 2 sqid ++ natLe 2 hd ++ natLe 2 tag.toNat ++ natLe 2 slot ++ natLe 2 st
    ++ natLe 2 (b2n ph + 2 * b2n more) ++ natLe 8 ts.toNat) = (natLe 8 r0 ++ natLe 4 r1 ++ natLe 2 sqid ++ natLe 2 hd)
    ++ (natLe 2 tag.toNat ++ (natLe 2 slot ++ natLe 2 st ++ natLe 2 (b2n ph + 2 * b2n more) ++ natLe 8 ts.toNat)) by
      simp only [List.append_assoc], List.drop_left' (by simp), List.take_left' (by simp)]
  exact leNat_natLe _ _ (by have := tag.isLt; omega)

theorem entryBytes_status (r0 r1 sqid hd : Nat) (tag : BitVec 16) (slot st : Nat) (ph more : Bool) (ts : Time)
    (h : st < 65536) : fieldLe (entryBytes r0 r1 sqid hd tag slot st ph more ts) 20 2 = st := by
  unfold fieldLe slice entryBytes
  rw [show (natLe 8 r0 ++ natLe 4 r1 ++ natLe 2 sqid ++ natLe 2 hd ++ natLe 2 tag.toNat ++ natLe 2 slot ++ natLe 2 st
    ++ natLe 2 (b2n ph + 2 * b2n more) ++ natLe 8 ts.toNat) = (natLe 8 r0 ++ natLe 4 r1 ++ natLe 2 sqid ++ natLe 2 hd
    ++ natLe 2 tag.toNat ++ natLe 2 slot) ++ (natLe 2 st ++ (natLe 2 (b2n ph + 2 * b2n more) ++ natLe 8 ts.toNat)) by
      simp only [List.append_assoc], List.drop_left' (by simp), List.take_left' (by simp)]
  exact leNat_natLe _ _ (by omega)

theorem entryBytes_r0 (r0 r1 sqid hd : Nat) (tag : BitVec 16) (slot st : Nat) (ph more : Bool) (ts : Time)
    (h : r0 < 2 ^ 64) : fieldLe (entryBytes r0 r1 sqid hd tag slot st ph more ts) 0 8 = r0 := by
  unfold fieldLe slice entryBytes
  rw [show (natLe 8 r0 ++ natLe 4 r1 ++ natLe 2 sqid ++ natLe 2 hd ++ natLe 2 tag.toNat ++ natLe 2 slot ++ natLe 2 st
    ++ natLe 2 (b2n ph + 2 * b2n more) ++ natLe 8 ts.toNat) = natLe 8 r0 ++ (natLe 4 r1 ++ natLe 2 sqid ++ natLe 2 hd
    ++ natLe 2 tag.toNat ++ natLe 2 slot ++ natLe 2 st ++ natLe 2 (b2n ph + 2 * b2n more) ++ natLe 8 ts.toNat) by
      simp only [List.append_assoc], List.drop_zero, List.take_left' (by simp)]
  exact leNat_natLe _ _ (by omega)

theorem entryBytes_r1 (r0 r1 sqid hd : Nat) (tag : BitVec 16) (slot st : Nat) (ph more : Bool) (ts : Time)
    (h : r1 < 2 ^ 32) : fieldLe (entryBytes r0 r1 sqid hd tag slot st ph more ts) 8 4 = r1 := by
  unfold fieldLe slice entryBytes
  rw [show (natLe 8 r0 ++ natLe 4 r1 ++ natLe 2 sqid ++ natLe 2 hd ++ natLe 2 tag.toNat ++ natLe 2 slot ++ natLe 2 st
    ++ natLe 2 (b2n ph + 2 * b2n more) ++ natLe 8 ts.toNat) = natLe 8 r0 ++ (natLe 4 r1 ++ (natLe 2 sqid ++ natLe 2 hd
    ++ natLe 2 tag.toNat ++ natLe 2 slot ++ natLe 2 st ++ natLe 2 (b2n ph + 2 * b2n more) ++ natLe 8 ts.toNat)) by
      simp only [List.append_assoc], List.drop_left' (by simp), List.take_left' (by simp)]
  exact leNat_natLe _ _ (by omega)

theorem findCmd_ref {s : State} {r : CmdRef} {c : InFlight} (h : findCmd s r = some c) : c.ref = r := by
  unfold findCmd at h
  simpa using List.find?_some h

/-- A committed entry, for a command of a submission queue. -/
theorem postEntry_sent (c : InFlight) (st r0 r1 : Nat) (more : Bool) (s : State) (hq : c.ref.sq < 8192) (h : st < 65536)
    (h0 : r0 < 2 ^ 64) (h1 : r1 < 2 ^ 32) :
    ∃ cq slot bytes, Sent s (postEntry c st r0 r1 more s) (.completion c.ref.fn cq slot bytes) ∧ bytes.length = 32
      ∧ fieldLe bytes 16 2 = c.ref.tag.toNat ∧ fieldLe bytes 20 2 = st ∧ fieldLe bytes 0 8 = r0
      ∧ fieldLe bytes 8 4 = r1 := by
  unfold postEntry
  rw [if_neg (by omega)]
  exact ⟨_, _, _, ⟨[_], rfl, List.mem_singleton.mpr rfl⟩, entryBytes_length .., entryBytes_tag ..,
    entryBytes_status _ _ _ _ _ _ _ _ _ _ h, entryBytes_r0 _ _ _ _ _ _ _ _ _ _ h0, entryBytes_r1 _ _ _ _ _ _ _ _ _ _ h1⟩

/-- The same without the results: the tag and the status of a committed entry. -/
theorem postEntry_said (c : InFlight) (st r0 r1 : Nat) (more : Bool) (s : State) (hq : c.ref.sq < 8192) (h : st < 65536) :
    ∃ cq slot bytes, Sent s (postEntry c st r0 r1 more s) (.completion c.ref.fn cq slot bytes)
      ∧ fieldLe bytes 16 2 = c.ref.tag.toNat ∧ fieldLe bytes 20 2 = st := by
  unfold postEntry
  rw [if_neg (by omega)]
  exact ⟨_, _, _, ⟨[_], rfl, List.mem_singleton.mpr rfl⟩, entryBytes_tag .., entryBytes_status _ _ _ _ _ _ _ _ _ _ h⟩

theorem postEntry_inflight (c : InFlight) (st r0 r1 : Nat) (more : Bool) (s : State) :
    (postEntry c st r0 r1 more s).hq.inflight = s.hq.inflight ∧ (postEntry c st r0 r1 more s).hq.fetched = s.hq.fetched := by
  unfold postEntry; split <;> exact ⟨rfl, rfl⟩

theorem retire_gone (c : InFlight) (st : Nat) (s : State) : findCmd (retire c st s) c.ref = none := by
  have key : ∀ x : State, x.hq.inflight = s.hq.inflight.filter (fun d => d.ref != c.ref) → findCmd x c.ref = none := by
    intro x hx
    unfold findCmd
    rw [hx, List.find?_eq_none]
    intro d hd
    have := (List.mem_filter.mp hd).2
    simpa using this
  unfold retire
  extract_lets q s₂ s₃ v s₄ s₅
  have h₃ : findCmd s₄ c.ref = none := by
    unfold s₄; split
    · exact key _ rfl
    · exact key _ rfl
  split
  · refine findCmd_none ((releaseStaging_frame _ _).same .refs (by decide)) ?_
    unfold s₅
    split
    · exact findCmd_none ((voidBlocks_frame _ _ _ _).same .refs (by decide)) h₃
    · exact h₃
  · exact h₃

/-- A command in flight that came from a submission queue ends when it is completed (R62, R63). -/
theorem complete_ends {s : State} {r : CmdRef} {c : InFlight} (hc : findCmd s r = some c) (hq : r.sq < 8192)
    {st r0 r1 : Nat} (more : Bool) (h : st < 65536) (h0 : r0 < 2 ^ 64) (h1 : r1 < 2 ^ 32) :
    Ends s (complete r st r0 r1 more s) r st r0 r1 := by
  unfold complete
  rw [hc]
  have hr : c.ref = r := findCmd_ref hc
  obtain ⟨cq, slot, bytes, hs, hb⟩ := postEntry_sent c st r0 r1 more s (by rw [hr]; exact hq) h h0 h1
  have base : Ends s (retire c st (postEntry c st r0 r1 more s)) r st r0 r1 := by
    refine ⟨?_, cq, slot, bytes, ?_, by rw [← hr]; exact hb⟩
    · have := retire_gone c st (postEntry c st r0 r1 more s); rwa [hr] at this
    · have := hs.frame (retire_frame c st _); rwa [hr] at this
  exact (base.frame (abortsDone_frame _ _)).frame (fnSettle_frame _ _)

/-- The same for an end with a status other than SUCCESS. -/
theorem failCmd_ends {s : State} {r : CmdRef} {c : InFlight} (hc : findCmd s r = some c) (hq : r.sq < 8192) {st : Nat}
    (h : st < 65536) (h0 : failR0 c < 2 ^ 64) (h1 : failR1 c < 2 ^ 32) :
    Ends s (failCmd r st s) r st (failR0 c) (failR1 c) := by
  unfold failCmd
  rw [hc]
  exact complete_ends hc hq false h h0 h1

theorem findCmd_of_hq {s u : State} (h : u.hq.inflight = s.hq.inflight) (r : CmdRef) : findCmd u r = findCmd s r := by
  unfold findCmd; rw [h]

@[simp] theorem findCmd_advance (t : Time) (s : State) (r : CmdRef) : findCmd (advance t s) r = findCmd s r :=
  findCmd_of_hq (by simp) r

end Sys2Proof.Machine
end

