-- ==== Sys2Proof/Laws/Flight.lean ====
section
/-!
SUPPORT. The commands in flight around the end of one of them: the others stay in flight, so that a pass over a list of
commands ends each of them.
-/

namespace Sys2Proof.Machine

/-- Every command in flight but those of `p` stays in flight, and no ABORT begins to wait for its target. -/
structure Stays (p : CmdRef → Prop) (s u : State) : Prop where
  flying : ∀ d ∈ s.hq.inflight, ¬ p d.ref → ∃ e ∈ u.hq.inflight, e.ref = d.ref
  aborts : (∀ d ∈ s.hq.inflight, d.stage ≠ .abortOwn) → ∀ d ∈ u.hq.inflight, d.stage ≠ .abortOwn

theorem Stays.same {p : CmdRef → Prop} {s u : State} (h : u.hq.inflight = s.hq.inflight) : Stays p s u :=
  ⟨fun d hd _ => ⟨d, h ▸ hd, rfl⟩, fun k d hd => k d (h ▸ hd)⟩

theorem Stays.trans {p : CmdRef → Prop} {s x u : State} (h : Stays p s x) (k : Stays p x u) : Stays p s u := by
  refine ⟨fun d hd hp => ?_, fun a => k.aborts (h.aborts a)⟩
  obtain ⟨e, he, hr⟩ := h.flying d hd hp
  obtain ⟨e', he', hr'⟩ := k.flying e he (hr ▸ hp)
  exact ⟨e', he', hr'.trans hr⟩

theorem Stays.of_hq {p : CmdRef → Prop} {l : List Region} {s u : State} (h : Frame l s u)
    (hl : l.contains .hq = false := by decide) : Stays p s u := .same (by rw [h.hq_eq hl])

theorem Stays.setCmd {p : CmdRef → Prop} (c : InFlight) (s : State) (hc : c.stage ≠ .abortOwn) :
    Stays p s (Machine.setCmd c s) := by
  refine ⟨fun d hd _ => ⟨if d.ref = c.ref then c else d, List.mem_map_of_mem hd, ?_⟩, fun k d hd => ?_⟩
  · split
    · rename_i h; exact h.symm
    · rfl
  · obtain ⟨e, he, rfl⟩ := List.mem_map.mp hd
    split
    · exact hc
    · exact k e he

theorem Stays.startRuns {p : CmdRef → Prop} (c : InFlight) (s : State) : Stays p s (Machine.startRuns c s) :=
  .of_hq (startRuns_frame c s)

theorem Stays.grantTo {p : CmdRef → Prop} (c : InFlight) (s : State) : Stays p s (Machine.grantTo c s) := by
  unfold Machine.grantTo
  extract_lets g g' s'
  have h : Stays p s s' := by
    refine Stays.trans ?_ (Stays.setCmd _ _ (by simp))
    exact .same rfl
  exact h.trans ((Stays.of_hq (trimCache_frame _ s')).trans (Stays.startRuns _ _))

theorem Stays.grantList {p : CmdRef → Prop} (l : List InFlight) (s : State) : Stays p s (Machine.grantList l s) := by
  induction l generalizing s with
  | nil => exact .same rfl
  | cons c r ih =>
    unfold Machine.grantList
    split
    · exact ih s
    · split
      · exact (Stays.grantTo c s).trans (ih _)
      · exact .same rfl

theorem Stays.releaseStaging {p : CmdRef → Prop} (r : CmdRef) (s : State) : Stays p s (Machine.releaseStaging r s) := by
  unfold Machine.releaseStaging Machine.grantPass
  refine Stays.trans ?_ (Stays.grantList _ _)
  exact .same rfl

theorem Stays.retire (c : InFlight) (st : Nat) (s : State) : Stays (· = c.ref) s (Machine.retire c st s) := by
  unfold Machine.retire
  extract_lets q s₁ s₂ v s₃ s₄
  have h₁ : Stays (· = c.ref) s s₁ :=
    ⟨fun d hd hp => ⟨d, List.mem_filter.mpr ⟨hd, by simpa using hp⟩, rfl⟩, fun k d hd => k d (List.mem_filter.mp hd).1⟩
  have h₂ : Stays (· = c.ref) s₁ s₂ := .of_hq (dropWork_frame c.ref s₁)
  have h₃ : Stays (· = c.ref) s₂ s₃ := by unfold s₃; split <;> exact .same rfl
  have h := h₁.trans (h₂.trans h₃)
  clear_value s₃
  split
  · have h₄ : Stays (· = c.ref) s₃ s₄ := by
      unfold s₄
      split
      · exact .of_hq (voidBlocks_frame _ _ _ _)
      · exact .same rfl
    exact h.trans (h₄.trans (Stays.releaseStaging _ _))
  · exact h

theorem Stays.postEntry {p : CmdRef → Prop} (c : InFlight) (st a b : Nat) (m : Bool) (s : State) :
    Stays p s (Machine.postEntry c st a b m s) := by
  unfold Machine.postEntry
  split <;> exact .same rfl

/-- With no ABORT waiting, the end of a command ends no other. -/
theorem abortsDone_none (c : InFlight) (s : State) (h : ∀ d ∈ s.hq.inflight, d.stage ≠ .abortOwn) : abortsDone c s = s := by
  unfold abortsDone
  extract_lets w
  have hw : w = [] := by
    unfold w
    rw [List.filter_eq_nil_iff]
    intro a ha
    simp [h a ha]
  rw [hw]; rfl

theorem fnStart_inflight (f : Fn) (s : State) : (fnStart f s).hq.inflight = s.hq.inflight := by
  unfold fnStart
  extract_lets h v r x y
  split
  · rfl
  · split
    · rfl
    · rw [(bindCq_frame _ _ _ _ _).hq_eq]; rfl

theorem fnSettle_inflight (f : Fn) (s : State) : (fnSettle f s).hq.inflight = s.hq.inflight := by
  unfold fnSettle
  extract_lets h x u y
  have hy : y.hq.inflight = s.hq.inflight := by
    show x.hq.inflight = _
    unfold x
    rw [(unbindCq_frame _ _ _).hq_eq]; rfl
  clear_value y
  split
  · split
    · rfl
    · split
      · rw [fnStart_inflight, hy]
      · exact hy
  · rfl

/-- The end of a command leaves the others in flight, when no ABORT waits. -/
theorem Stays.failCmd (r : CmdRef) (st : Nat) (s : State) (h : ∀ d ∈ s.hq.inflight, d.stage ≠ .abortOwn) :
    Stays (· = r) s (Machine.failCmd r st s) := by
  unfold Machine.failCmd
  split
  · exact .same rfl
  · rename_i c hc
    unfold Machine.complete
    rw [hc]
    dsimp only
    have hr := findCmd_ref hc
    have hk : Stays (· = r) s (Machine.retire c st (Machine.postEntry c st (failR0 c) (failR1 c) false s)) := by
      have := Stays.retire c st (Machine.postEntry c st (failR0 c) (failR1 c) false s)
      rw [hr] at this
      exact (Stays.postEntry c st _ _ _ s).trans this
    rw [abortsDone_none _ _ (hk.aborts h)]
    exact hk.trans (.same (fnSettle_inflight _ _))

theorem findCmd_isSome {s : State} {r : CmdRef} : (findCmd s r).isSome = true ↔ ∃ d ∈ s.hq.inflight, d.ref = r := by
  unfold findCmd
  rw [List.find?_isSome]
  simp

end Sys2Proof.Machine
end

