-- ==== Sys2Proof/Laws/FrameHead.lean ====
section
/-!
SUPPORT. The frames of the operations of Machine/Head.lean: which parts of the state each may change.
-/

namespace Sys2Proof.Machine

theorem setElem_frame (e : Nat) (v : ElemStat) (s : State) :
    Frame [.wr] s (setElem e v s) := by
  unfold setElem
  repeat' first
    | with_reducible exact Frame.refl _ _
    | (simp only [Frame.spelled]; (with_reducible apply FrameMk.upd); (with_reducible (intro b hb; cases b <;> first | exact absurd (by decide) hb | (dsimp only [Region.same] <;> rfl) | exact refs_id rfl)); (dsimp only; first | with_reducible exact List.suffix_refl _ | with_reducible exact List.suffix_cons _ _))

theorem headEvent_frame (m : Nat) (a2 : Nat) (s : State) :
    Frame [.spill, .ev, .out] s (headEvent m a2 s) := by
  unfold headEvent
  repeat' first
    | with_reducible exact Frame.refl _ _
    | with_reducible refine (event_frame _ _ _ _ _).comp ?_ (by decide)

theorem setWorking_frame (e : Nat) (z : Nat) (v : List Sys2Proof.Byte) (s : State) :
    Frame [.rch] s (setWorking e z v s) := by
  unfold setWorking
  repeat' first
    | with_reducible exact Frame.refl _ _
    | (simp only [Frame.spelled]; (with_reducible apply FrameMk.upd); (with_reducible (intro b hb; cases b <;> first | exact absurd (by decide) hb | (dsimp only [Region.same] <;> rfl) | exact refs_id rfl)); (dsimp only; first | with_reducible exact List.suffix_refl _ | with_reducible exact List.suffix_cons _ _))

theorem setHeadEntry_frame (e : Nat) (z : Nat) (v : List Sys2Proof.Byte) (s : State) :
    Frame [.rch] s (setHeadEntry e z v s) := by
  unfold setHeadEntry
  repeat' first
    | with_reducible exact Frame.refl _ _
    | with_reducible assumption
    | with_reducible refine (setWorking_frame _ _ _ _).comp ?_ (by decide)
    | with_reducible refine Frame.ite ?_ ?_
    | with_reducible refine Frame.foldl _ _ ?_ ?_
    | intro _
    | (simp only [Frame.spelled]; (with_reducible apply FrameMk.upd); (with_reducible (intro b hb; cases b <;> first | exact absurd (by decide) hb | (dsimp only [Region.same] <;> rfl) | exact refs_id rfl)); (dsimp only; first | with_reducible exact List.suffix_refl _ | with_reducible exact List.suffix_cons _ _))

theorem elemFresh_frame (e : Nat) (s : State) :
    Frame [.wr] s (elemFresh e s) := by
  unfold elemFresh
  repeat' first
    | with_reducible exact Frame.refl _ _
    | with_reducible refine (setElem_frame _ _ _).comp ?_ (by decide)

theorem laneUp_frame (l : Nat) (s : State) :
    Frame [.crew, .rch, .lk, .ic, .spill, .ev, .out] s (laneUp l s) := by
  unfold laneUp
  repeat' first
    | with_reducible exact Frame.refl _ _
    | with_reducible refine (setLane_frame _ _ _).comp ?_ (by decide)
    | with_reducible refine (unitsChange_frame _ _ _ _).comp ?_ (by decide)
    | (simp only [Frame.spelled]; (with_reducible apply FrameMk.upd); (with_reducible (intro b hb; cases b <;> first | exact absurd (by decide) hb | (dsimp only [Region.same] <;> rfl) | exact refs_id rfl)); (dsimp only; first | with_reducible exact List.suffix_refl _ | with_reducible exact List.suffix_cons _ _))

theorem zonesDefault_frame (m : Nat) (s : State) :
    Frame [.rch] s (zonesDefault m s) := by
  unfold zonesDefault
  repeat' first
    | with_reducible exact Frame.refl _ _
    | (simp only [Frame.spelled]; (with_reducible apply FrameMk.upd); (with_reducible (intro b hb; cases b <;> first | exact absurd (by decide) hb | (dsimp only [Region.same] <;> rfl) | exact refs_id rfl)); (dsimp only; first | with_reducible exact List.suffix_refl _ | with_reducible exact List.suffix_cons _ _))

theorem readerReload_frame (n : Nat) (s : State) :
    Frame [.sv] s (readerReload n s) := by
  unfold readerReload
  repeat' first
    | with_reducible exact Frame.refl _ _
    | with_reducible refine (setServoRd_frame _ _ _).comp ?_ (by decide)

theorem serialChanged_frame (m : Nat) (r : List Sys2Proof.Byte) (s : State) :
    Frame [.crew, .wr, .rch, .sv, .lk, .spill, .ev, .out] s (serialChanged m r s) := by
  unfold serialChanged
  repeat' first
    | with_reducible exact Frame.refl _ _
    | with_reducible assumption
    | with_reducible refine (setHead_frame _ _ _).comp ?_ (by decide)
    | with_reducible refine (zonesDefault_frame _ _).comp ?_ (by decide)
    | with_reducible refine (setElem_frame _ _ _).comp ?_ (by decide)
    | with_reducible refine (bumpEpochs_frame _ _).comp ?_ (by decide)
    | with_reducible refine (readerReload_frame _ _).comp ?_ (by decide)
    | with_reducible refine (headEvent_frame _ _ _).comp ?_ (by decide)
    | with_reducible refine Frame.forEach _ _ ?_ ?_
    | intro _
    | (simp only [Frame.spelled]; (with_reducible apply FrameMk.upd); (with_reducible (intro b hb; cases b <;> first | exact absurd (by decide) hb | (dsimp only [Region.same] <;> rfl) | exact refs_id rfl)); (dsimp only; first | with_reducible exact List.suffix_refl _ | with_reducible exact List.suffix_cons _ _))

theorem headFound_frame (m : Nat) (a2 : Option (List Sys2Proof.Byte)) (s : State) :
    Frame [.crew, .wr, .rch, .sv, .lk, .ic, .spill, .ev, .out] s (headFound m a2 s) := by
  unfold headFound
  repeat' first
    | with_reducible exact Frame.refl _ _
    | with_reducible assumption
    | with_reducible refine (setHead_frame _ _ _).comp ?_ (by decide)
    | with_reducible refine (setUnitsState_frame _ _ _ _).comp ?_ (by decide)
    | with_reducible refine (setLane_frame _ _ _).comp ?_ (by decide)
    | with_reducible refine (headEvent_frame _ _ _).comp ?_ (by decide)
    | with_reducible refine (serialChanged_frame _ _ _).comp ?_ (by decide)
    | with_reducible refine Frame.forEach _ _ ?_ ?_
    | with_reducible refine Frame.ite ?_ ?_
    | intro _
    | (extract_lets +onlyGivenNames y; first | (refine have hy : Frame [.crew, .wr, .rch, .sv, .lk, .ic, .spill, .ev, .out] s y := ?_; ?_; unfold y) | (refine have hy : Frame [.crew, .wr, .rch, .sv, .lk, .ic, .spill, .ev, .out] s y.2 := ?_; ?_; unfold y) | skip)
    | split

theorem laneTrain_frame (l : Nat) (s : State) :
    Frame [.lk] s (laneTrain l s) := by
  unfold laneTrain
  repeat' first
    | with_reducible exact Frame.refl _ _
    | with_reducible refine (setLane_frame _ _ _).comp ?_ (by decide)

theorem dieAwake_frame (d : Nat) (s : State) :
    Frame [.crew, .lk, .ic, .spill, .ev, .out] s (dieAwake d s) := by
  unfold dieAwake
  repeat' first
    | with_reducible exact Frame.refl _ _
    | with_reducible refine (unitsChange_frame _ _ _ _).comp ?_ (by decide)

theorem dieSleep_frame (d : Nat) (s : State) :
    Frame [.crew, .sv, .lk, .ic, .spill, .ev, .out] s (dieSleep d s) := by
  unfold dieSleep
  repeat' first
    | with_reducible exact Frame.refl _ _
    | with_reducible assumption
    | with_reducible refine (setLane_frame _ _ _).comp ?_ (by decide)
    | with_reducible refine (readerReload_frame _ _).comp ?_ (by decide)
    | with_reducible refine (setUnitsState_frame _ _ _ _).comp ?_ (by decide)
    | with_reducible refine Frame.forEach _ _ ?_ ?_
    | intro _

theorem dieWake_frame (d : Nat) (s : State) :
    Frame [.crew, .lk] s (dieWake d s) := by
  unfold dieWake
  repeat' first
    | with_reducible exact Frame.refl _ _
    | with_reducible assumption
    | with_reducible refine (setDie_frame _ _ _).comp ?_ (by decide)
    | with_reducible refine (laneTrain_frame _ _).comp ?_ (by decide)
    | with_reducible refine Frame.forEach _ _ ?_ ?_
    | intro _
    | (extract_lets +onlyGivenNames y; first | (refine have hy : Frame [.crew, .lk] s y := ?_; ?_; unfold y) | (refine have hy : Frame [.crew, .lk] s y.2 := ?_; ?_; unfold y) | skip)
    | split

theorem laneBench_frame (l : Nat) (s : State) :
    Frame [.crew, .lk, .ic, .spill, .ev, .out] s (laneBench l s) := by
  unfold laneBench
  repeat' first
    | with_reducible exact Frame.refl _ _
    | with_reducible refine (setLane_frame _ _ _).comp ?_ (by decide)
    | with_reducible refine (headEvent_frame _ _ _).comp ?_ (by decide)
    | with_reducible refine (setUnitState_frame _ _ _ _).comp ?_ (by decide)

theorem reloadZones_frame (s : State) :
    Frame [.rch] s (reloadZones s) := by
  unfold reloadZones
  repeat' first
    | with_reducible exact Frame.refl _ _
    | (simp only [Frame.spelled]; (with_reducible apply FrameMk.upd); (with_reducible (intro b hb; cases b <;> first | exact absurd (by decide) hb | (dsimp only [Region.same] <;> rfl) | exact refs_id rfl)); (dsimp only; first | with_reducible exact List.suffix_refl _ | with_reducible exact List.suffix_cons _ _))

theorem wakeDies_frame (s : State) :
    Frame [.crew, .lk] s (wakeDies s) := by
  unfold wakeDies
  repeat' first
    | with_reducible exact Frame.refl _ _
    | with_reducible assumption
    | with_reducible refine (dieWake_frame _ _).comp ?_ (by decide)
    | with_reducible refine Frame.forEach _ _ ?_ ?_
    | intro _

end Sys2Proof.Machine
end

