-- ==== Sys2Proof/Laws/FrameModes.lean ====
section
/-!
SUPPORT. The frames of the operations of Machine/Modes.lean: which parts of the state each may change.
-/

namespace Sys2Proof.Machine

theorem requestReset_frame (cause : BitVec 3) (s : State) :
    Frame [.gl, .crew, .hq, .eng, .cy, .vol, .wr, .rdr, .sm, .sv, .ce, .ic, .spill, .ev, .out] s (requestReset cause s) := by
  unfold requestReset
  repeat' first
    | with_reducible exact Frame.refl _ _
    | with_reducible assumption
    | with_reducible refine (senseFastAll_frame _).comp ?_ (by decide)
    | with_reducible refine (holdCause_frame _ _).comp ?_ (by decide)
    | with_reducible refine Frame.ite ?_ ?_
    | (simp only [Frame.spelled]; (with_reducible apply FrameMk.upd); (with_reducible (intro b hb; cases b <;> first | exact absurd (by decide) hb | (dsimp only [Region.same] <;> rfl) | exact refs_id rfl)); (dsimp only; first | with_reducible exact List.suffix_refl _ | with_reducible exact List.suffix_cons _ _))
    | (extract_lets +onlyGivenNames y; first | (refine have hy : Frame [.gl, .crew, .hq, .eng, .cy, .vol, .wr, .rdr, .sm, .sv, .ce, .ic, .spill, .ev, .out] s y := ?_; ?_; unfold y) | (refine have hy : Frame [.gl, .crew, .hq, .eng, .cy, .vol, .wr, .rdr, .sm, .sv, .ce, .ic, .spill, .ev, .out] s y.2 := ?_; ?_; unfold y) | skip)
    | split

theorem coldState_frame (s : State) :
    Frame [.gl, .life, .pins, .crew, .hq, .task, .par, .eng, .cy, .vol, .wr, .fm, .rch, .rdr, .sm, .sv, .ce, .tt, .lk, .sp, .ic, .spill, .ev, .mi, .units, .se, .latch] s (coldState s) := by
  refine ⟨fun b hb => ?_, List.suffix_refl _⟩
  cases b <;> first | exact absurd (by decide) hb | rfl | exact List.nil_sublist _

theorem enterReset_frame (s : State) :
    Frame [.gl, .life, .pins, .crew, .hq, .task, .par, .eng, .cy, .vol, .wr, .fm, .rch, .rdr, .sm, .sv, .ce, .tt, .lk, .sp, .ic, .spill, .ev, .mi, .units, .se, .latch, .fresh] s (enterReset s) := by
  unfold enterReset
  repeat' first
    | with_reducible exact Frame.refl _ _
    | with_reducible refine (coldState_frame _).comp ?_ (by decide)
    | with_reducible refine (openNat_frame _).comp ?_ (by decide)
    | with_reducible refine Frame.ite ?_ ?_
    | (simp only [Frame.spelled]; (with_reducible apply FrameMk.upd); (with_reducible (intro b hb; cases b <;> first | exact absurd (by decide) hb | (dsimp only [Region.same] <;> rfl) | exact refs_id rfl)); (dsimp only; first | with_reducible exact List.suffix_refl _ | with_reducible exact List.suffix_cons _ _))
    | split

theorem fillBoot_frame (s : State) :
    Frame [.gl, .life, .crew, .par, .rch, .lk, .ev, .se, .logs] s (fillBoot s) := by
  unfold fillBoot
  repeat' first
    | with_reducible exact Frame.refl _ _
    | with_reducible refine (lcWipe_frame _ _).comp ?_ (by decide)
    | with_reducible refine Frame.ite ?_ ?_
    | (simp only [Frame.spelled]; (with_reducible apply FrameMk.upd); (with_reducible (intro b hb; cases b <;> first | exact absurd (by decide) hb | (dsimp only [Region.same] <;> rfl) | exact refs_id rfl)); (dsimp only; first | with_reducible exact List.suffix_refl _ | with_reducible exact List.suffix_cons _ _))

theorem fillLoads_frame (s : State) :
    Frame [.sv, .ce, .sp] s (fillLoads s) := by
  unfold fillLoads
  repeat' first
    | with_reducible exact Frame.refl _ _
    | with_reducible assumption
    | with_reducible refine (loadLoops_frame _).comp ?_ (by decide)
    | with_reducible refine Frame.forEach _ _ ?_ ?_
    | with_reducible refine Frame.ite ?_ ?_
    | intro _
    | (simp only [Frame.spelled]; (with_reducible apply FrameMk.upd); (with_reducible (intro b hb; cases b <;> first | exact absurd (by decide) hb | (dsimp only [Region.same] <;> rfl) | exact refs_id rfl)); (dsimp only; first | with_reducible exact List.suffix_refl _ | with_reducible exact List.suffix_cons _ _))
    | (extract_lets +onlyGivenNames y; first | (refine have hy : Frame [.sv, .ce, .sp] s y := ?_; ?_; unfold y) | (refine have hy : Frame [.sv, .ce, .sp] s y.2 := ?_; ?_; unfold y) | skip)
    | split

theorem fillLinks_frame (warm : Bool) (env : Sys2Proof.BringUp) (s : State) :
    Frame [.gl, .crew, .cy, .wr, .rch, .sv, .ce, .lk, .sp, .ic, .spill, .ev, .se, .out, .fresh] s (fillLinks warm env s) := by
  unfold fillLinks
  repeat' first
    | with_reducible exact Frame.refl _ _
    | with_reducible assumption
    | with_reducible refine (sessionAdvance_frame _ _).comp ?_ (by decide)
    | with_reducible refine (laneTrain_frame _ _).comp ?_ (by decide)
    | with_reducible refine (setDie_frame _ _ _).comp ?_ (by decide)
    | with_reducible refine (headFound_frame _ _ _).comp ?_ (by decide)
    | with_reducible refine (setLane_frame _ _ _).comp ?_ (by decide)
    | with_reducible refine (bumpEpochs_frame _ _).comp ?_ (by decide)
    | with_reducible refine (freshNonce_frame _).comp ?_ (by decide)
    | with_reducible refine (fillLoads_frame _).comp ?_ (by decide)
    | with_reducible refine Frame.forEach _ _ ?_ ?_
    | with_reducible refine Frame.ite ?_ ?_
    | intro _
    | (simp only [Frame.spelled]; (with_reducible apply FrameMk.upd); (with_reducible (intro b hb; cases b <;> first | exact absurd (by decide) hb | (dsimp only [Region.same] <;> rfl) | exact refs_id rfl)); (dsimp only; first | with_reducible exact List.suffix_refl _ | with_reducible exact List.suffix_cons _ _))

theorem fillRun_frame (warm : Bool) (env : Sys2Proof.BringUp) (s : State) :
    Frame [.gl, .life, .pins, .crew, .hq, .par, .eng, .cy, .vol, .wr, .rch, .rdr, .sm, .sv, .ce, .lk, .sp, .ic, .spill, .ev, .se, .fuses, .logs, .out, .fresh] s (fillRun warm env s) := by
  unfold fillRun
  repeat' first
    | with_reducible exact Frame.refl _ _
    | with_reducible refine (setMode_frame _ _).comp ?_ (by decide)
    | with_reducible refine (fillLinks_frame _ _ _).comp ?_ (by decide)
    | with_reducible refine (patchCheck_frame _).comp ?_ (by decide)
    | with_reducible refine (fillBoot_frame _).comp ?_ (by decide)
    | with_reducible refine (senseFastAll_frame _).comp ?_ (by decide)
    | with_reducible refine (enterHold_frame _).comp ?_ (by decide)
    | with_reducible refine Frame.ite ?_ ?_
    | (simp only [Frame.spelled]; (with_reducible apply FrameMk.upd); (with_reducible (intro b hb; cases b <;> first | exact absurd (by decide) hb | (dsimp only [Region.same] <;> rfl) | exact refs_id rfl)); (dsimp only; first | with_reducible exact List.suffix_refl _ | with_reducible exact List.suffix_cons _ _))

theorem stopArm_frame (data : Nat) (s : State) :
    Frame [.out] s (stopArm data s) := by
  unfold stopArm
  repeat' first
    | with_reducible exact Frame.refl _ _
    | with_reducible assumption
    | with_reducible refine (emit_frame _ _).comp ?_ (by decide)
    | with_reducible refine Frame.forEach _ _ ?_ ?_
    | intro _

theorem resetWrite_frame (value : Sys2Proof.Word) (s : State) :
    Frame [.gl, .crew, .hq, .eng, .cy, .vol, .wr, .rdr, .sm, .sv, .ce, .ic, .spill, .ev, .out] s (resetWrite value s) := by
  unfold resetWrite
  repeat' first
    | with_reducible exact Frame.refl _ _
    | with_reducible refine (requestReset_frame _ _).comp ?_ (by decide)
    | with_reducible refine Frame.ite ?_ ?_
    | (simp only [Frame.spelled]; (with_reducible apply FrameMk.upd); (with_reducible (intro b hb; cases b <;> first | exact absurd (by decide) hb | (dsimp only [Region.same] <;> rfl) | exact refs_id rfl)); (dsimp only; first | with_reducible exact List.suffix_refl _ | with_reducible exact List.suffix_cons _ _))

theorem storeLoss_frame (mode : Nat) (a2 : Bool) (s : State) :
    Frame [.gl] s (storeLoss mode a2 s) := by
  unfold storeLoss
  repeat' first
    | with_reducible exact Frame.refl _ _
    | (simp only [Frame.spelled]; (with_reducible apply FrameMk.upd); (with_reducible (intro b hb; cases b <;> first | exact absurd (by decide) hb | (dsimp only [Region.same] <;> rfl) | exact refs_id rfl)); (dsimp only; first | with_reducible exact List.suffix_refl _ | with_reducible exact List.suffix_cons _ _))

theorem warmState_frame (cause : BitVec 3) (s : State) :
    Frame [.gl, .life, .crew, .hq, .task, .par, .eng, .cy, .vol, .wr, .fm, .rch, .rdr, .sm, .tt, .lk, .ic, .spill, .ev, .mi, .units, .se, .latch] s (warmState cause s) := by
  refine ⟨fun b hb => ?_, List.suffix_refl _⟩
  cases b <;> first | exact absurd (by decide) hb | rfl | exact List.nil_sublist _

theorem abortAll_frame (s : State) :
    Frame [.hq, .eng, .cy, .vol, .rdr, .sm, .ic, .out] s (abortAll s) := by
  unfold abortAll
  repeat' first
    | with_reducible exact Frame.refl _ _
    | with_reducible assumption
    | with_reducible refine (failCmd_frame _ _ _).comp ?_ (by decide)
    | with_reducible refine Frame.forEach _ _ ?_ ?_
    | with_reducible refine Frame.ite ?_ ?_
    | with_reducible refine Frame.foldl _ _ ?_ ?_
    | with_reducible refine Frame.foldlSnd _ _ ?_ ?_
    | with_reducible refine Frame.iteSnd ?_ ?_
    | intro _
    | (simp only [Frame.spelled]; (with_reducible apply FrameMk.upd); (with_reducible (intro b hb; cases b <;> first | exact absurd (by decide) hb | (dsimp only [Region.same] <;> rfl) | exact refs_id rfl | exact refs_filter _ rfl | (refine refs_map _ rfl ?_; intro d; split <;> simp_all))); (dsimp only; first | with_reducible exact List.suffix_refl _ | with_reducible exact List.suffix_cons _ _))
    | (extract_lets +onlyGivenNames y; first | (refine have hy : Frame [.hq, .eng, .cy, .vol, .rdr, .sm, .ic, .out] s y := ?_; ?_; unfold y) | (refine have hy : Frame [.hq, .eng, .cy, .vol, .rdr, .sm, .ic, .out] s y.2 := ?_; ?_; unfold y) | skip)
    | with_reducible refine Frame.snd (by assumption) ?_
    | split
    | (clear_value *; split)
    | dsimp only

end Sys2Proof.Machine
end

