-- ==== Sys2Proof/Laws/FramePace.lean ====
section
/-!
SUPPORT. The frames of the operations of Machine/Pace.lean: which parts of the state each may change.
-/

namespace Sys2Proof.Machine

theorem underrun_frame (p : Nat) (s : State) :
    Frame [.sm] s (underrun p s) := by
  unfold underrun
  repeat' first
    | with_reducible exact Frame.refl _ _
    | (simp only [Frame.spelled]; (with_reducible apply FrameMk.upd); (with_reducible (intro b hb; cases b <;> first | exact absurd (by decide) hb | (dsimp only [Region.same] <;> rfl) | exact refs_id rfl)); (dsimp only; first | with_reducible exact List.suffix_refl _ | with_reducible exact List.suffix_cons _ _))

theorem reefStep_frame (k : Nat) (s : State) :
    Frame [.sm] s (reefStep k s) := by
  unfold reefStep
  repeat' first
    | with_reducible exact Frame.refl _ _
    | (simp only [Frame.spelled]; (with_reducible apply FrameMk.upd); (with_reducible (intro b hb; cases b <;> first | exact absurd (by decide) hb | (dsimp only [Region.same] <;> rfl) | exact refs_id rfl)); (dsimp only; first | with_reducible exact List.suffix_refl _ | with_reducible exact List.suffix_cons _ _))

theorem paceWrite_frame (b : Int) (s : State) :
    Frame [.sm] s (paceWrite b s) := by
  unfold paceWrite
  repeat' first
    | with_reducible exact Frame.refl _ _
    | with_reducible refine (reefStep_frame _ _).comp ?_ (by decide)
    | with_reducible refine Frame.ite ?_ ?_
    | (simp only [Frame.spelled]; (with_reducible apply FrameMk.upd); (with_reducible (intro b hb; cases b <;> first | exact absurd (by decide) hb | (dsimp only [Region.same] <;> rfl) | exact refs_id rfl)); (dsimp only; first | with_reducible exact List.suffix_refl _ | with_reducible exact List.suffix_cons _ _))

theorem paceRead_frame (s : State) :
    Frame [.sm] s (paceRead s) := by
  unfold paceRead
  repeat' first
    | with_reducible exact Frame.refl _ _
    | with_reducible refine (reefStep_frame _ _).comp ?_ (by decide)
    | with_reducible refine Frame.ite ?_ ?_
    | (simp only [Frame.spelled]; (with_reducible apply FrameMk.upd); (with_reducible (intro b hb; cases b <;> first | exact absurd (by decide) hb | (dsimp only [Region.same] <;> rfl) | exact refs_id rfl)); (dsimp only; first | with_reducible exact List.suffix_refl _ | with_reducible exact List.suffix_cons _ _))

theorem readBegins_frame (s : State) :
    Frame [.sm] s (readBegins s) := by
  unfold readBegins
  repeat' first
    | with_reducible exact Frame.refl _ _
    | (simp only [Frame.spelled]; (with_reducible apply FrameMk.upd); (with_reducible (intro b hb; cases b <;> first | exact absurd (by decide) hb | (dsimp only [Region.same] <;> rfl) | exact refs_id rfl)); (dsimp only; first | with_reducible exact List.suffix_refl _ | with_reducible exact List.suffix_cons _ _))

end Sys2Proof.Machine
end

