-- ==== Sys2Proof/Laws/FrameRecover.lean ====
section
/-!
SUPPORT. The frames of the operations of Machine/Recover.lean: which parts of the state each may change.
-/

namespace Sys2Proof.Machine

theorem countC2_frame (gs : List GroupEnd) (s : State) :
    Frame [.fm] s (countC2 gs s) := by
  unfold countC2
  repeat' first
    | with_reducible exact Frame.refl _ _
    | (simp only [Frame.spelled]; (with_reducible apply FrameMk.upd); (with_reducible (intro b hb; cases b <;> first | exact absurd (by decide) hb | (dsimp only [Region.same] <;> rfl) | exact refs_id rfl)); (dsimp only; first | with_reducible exact List.suffix_refl _ | with_reducible exact List.suffix_cons _ _))

theorem dropGather_frame (part : Nat) (d : Nat) (s : State) :
    Frame [.rdr] s (dropGather part d s) := by
  unfold dropGather
  repeat' first
    | with_reducible exact Frame.refl _ _
    | (simp only [Frame.spelled]; (with_reducible apply FrameMk.upd); (with_reducible (intro b hb; cases b <;> first | exact absurd (by decide) hb | (dsimp only [Region.same] <;> rfl) | exact refs_id rfl)); (dsimp only; first | with_reducible exact List.suffix_refl _ | with_reducible exact List.suffix_cons _ _))

theorem enterCache_frame (part : Nat) (d : Nat) (kind : Nat) (payload : List (Option Sys2Proof.Byte)) (s : State) :
    Frame [.rdr, .sm] s (enterCache part d kind payload s) := by
  unfold enterCache
  repeat' first
    | with_reducible exact Frame.refl _ _
    | with_reducible refine (dropGather_frame _ _ _).comp ?_ (by decide)
    | with_reducible refine (paceRead_frame _).comp ?_ (by decide)
    | with_reducible refine (trimCache_frame _ _).comp ?_ (by decide)
    | (simp only [Frame.spelled]; (with_reducible apply FrameMk.upd); (with_reducible (intro b hb; cases b <;> first | exact absurd (by decide) hb | (dsimp only [Region.same] <;> rfl) | exact refs_id rfl)); (dsimp only; first | with_reducible exact List.suffix_refl _ | with_reducible exact List.suffix_cons _ _))

theorem countC3_frame (restored : Bool) (left : Bool) (s : State) :
    Frame [.fm] s (countC3 restored left s) := by
  unfold countC3
  repeat' first
    | with_reducible exact Frame.refl _ _
    | (simp only [Frame.spelled]; (with_reducible apply FrameMk.upd); (with_reducible (intro b hb; cases b <;> first | exact absurd (by decide) hb | (dsimp only [Region.same] <;> rfl) | exact refs_id rfl)); (dsimp only; first | with_reducible exact List.suffix_refl _ | with_reducible exact List.suffix_cons _ _))

theorem setGather_frame (g : Gather) (s : State) :
    Frame [.rdr] s (setGather g s) := by
  unfold setGather
  repeat' first
    | with_reducible exact Frame.refl _ _
    | (simp only [Frame.spelled]; (with_reducible apply FrameMk.upd); (with_reducible (intro b hb; cases b <;> first | exact absurd (by decide) hb | (dsimp only [Region.same] <;> rfl) | exact refs_id rfl)); (dsimp only; first | with_reducible exact List.suffix_refl _ | with_reducible exact List.suffix_cons _ _))

theorem finishPass_frame (part : Nat) (d : Nat) (s : State) :
    Frame [.fm, .rdr, .sm] s (finishPass part d s) := by
  unfold finishPass
  repeat' first
    | with_reducible exact Frame.refl _ _
    | with_reducible refine (countC2_frame _ _).comp ?_ (by decide)
    | with_reducible refine (enterCache_frame _ _ _ _ _).comp ?_ (by decide)
    | with_reducible refine (countC3_frame _ _ _).comp ?_ (by decide)
    | with_reducible refine (setGather_frame _ _).comp ?_ (by decide)
    | with_reducible refine Frame.ite ?_ ?_
    | (extract_lets +onlyGivenNames y; first | (refine have hy : Frame [.fm, .rdr, .sm] s y := ?_; ?_; unfold y) | (refine have hy : Frame [.fm, .rdr, .sm] s y.2 := ?_; ?_; unfold y) | skip)
    | split

theorem spansGoOn_frame (s : State) :
    Frame [.fm, .rdr, .sm] s (spansGoOn s) := by
  unfold spansGoOn
  repeat' first
    | with_reducible exact Frame.refl _ _
    | with_reducible assumption
    | with_reducible refine (finishPass_frame _ _ _).comp ?_ (by decide)
    | with_reducible refine Frame.forEach _ _ ?_ ?_
    | intro _

theorem passEnds_frame (part : Nat) (d : Nat) (s : State) :
    Frame [.fm, .rdr, .sm] s (passEnds part d s) := by
  unfold passEnds
  repeat' first
    | with_reducible exact Frame.refl _ _
    | with_reducible refine (spansGoOn_frame _).comp ?_ (by decide)
    | with_reducible refine (finishPass_frame _ _ _).comp ?_ (by decide)

theorem blockSeen_frame (kind : Nat) (part : Nat) (dsn : Nat) (s : State) :
    Frame [.fm, .rdr, .sm] s (blockSeen kind part dsn s) := by
  unfold blockSeen
  repeat' first
    | with_reducible exact Frame.refl _ _
    | with_reducible assumption
    | with_reducible refine (passEnds_frame _ _ _).comp ?_ (by decide)
    | with_reducible refine (setGather_frame _ _).comp ?_ (by decide)
    | with_reducible refine Frame.forEach _ _ ?_ ?_
    | with_reducible refine Frame.ite ?_ ?_
    | intro _
    | (simp only [Frame.spelled]; (with_reducible apply FrameMk.upd); (with_reducible (intro b hb; cases b <;> first | exact absurd (by decide) hb | (dsimp only [Region.same] <;> rfl) | exact refs_id rfl)); (dsimp only; first | with_reducible exact List.suffix_refl _ | with_reducible exact List.suffix_cons _ _))
    | (extract_lets +onlyGivenNames y; first | (refine have hy : Frame [.fm, .rdr, .sm] s y := ?_; ?_; unfold y) | (refine have hy : Frame [.fm, .rdr, .sm] s y.2 := ?_; ?_; unfold y) | skip)
    | split

theorem takeCodeword_frame (part : Nat) (dsn : Nat) (cw : Nat) (block : List Sys2Proof.Byte) (s : State) :
    Frame [.fm, .rdr, .sm] s (takeCodeword part dsn cw block s) := by
  unfold takeCodeword
  repeat' first
    | with_reducible exact Frame.refl _ _
    | with_reducible refine (setGather_frame _ _).comp ?_ (by decide)
    | with_reducible refine (passEnds_frame _ _ _).comp ?_ (by decide)
    | with_reducible refine Frame.ite ?_ ?_
    | split

end Sys2Proof.Machine
end

