-- ==== Sys2Proof/Laws/FrameSheet.lean ====
section
/-!
SUPPORT. The frames of the operations of Machine/Sheet.lean: which parts of the state each may change.
-/

namespace Sys2Proof.Machine

theorem sendWord_frame (w : Nat) (a2 : Sys2Proof.Word) (s : State) :
    Frame [.sp, .out] s (sendWord w a2 s) := by
  unfold sendWord
  repeat' first
    | with_reducible exact Frame.refl _ _
    | with_reducible refine (emit_frame _ _).comp ?_ (by decide)
    | (simp only [Frame.spelled]; (with_reducible apply FrameMk.upd); (with_reducible (intro b hb; cases b <;> first | exact absurd (by decide) hb | (dsimp only [Region.same] <;> rfl) | exact refs_id rfl)); (dsimp only; first | with_reducible exact List.suffix_refl _ | with_reducible exact List.suffix_cons _ _))

theorem setEnc_frame (a1 : Nat) (v : Enc) (s : State) :
    Frame [.sp] s (setEnc a1 v s) := by
  unfold setEnc
  repeat' first
    | with_reducible exact Frame.refl _ _
    | (simp only [Frame.spelled]; (with_reducible apply FrameMk.upd); (with_reducible (intro b hb; cases b <;> first | exact absurd (by decide) hb | (dsimp only [Region.same] <;> rfl) | exact refs_id rfl)); (dsimp only; first | with_reducible exact List.suffix_refl _ | with_reducible exact List.suffix_cons _ _))

theorem encMove_frame (a1 : Nat) (a : Bool) (b : Bool) (s : State) :
    Frame [.sp] s (encMove a1 a b s) := by
  unfold encMove
  repeat' first
    | with_reducible exact Frame.refl _ _
    | with_reducible refine (setEnc_frame _ _ _).comp ?_ (by decide)
    | with_reducible refine Frame.ite ?_ ?_
    | (simp only [Frame.spelled]; (with_reducible apply FrameMk.upd); (with_reducible (intro b hb; cases b <;> first | exact absurd (by decide) hb | (dsimp only [Region.same] <;> rfl) | exact refs_id rfl)); (dsimp only; first | with_reducible exact List.suffix_refl _ | with_reducible exact List.suffix_cons _ _))

theorem nearestTurn_frame (s : State) (v : Enc) :
    Frame [.fresh] s (nearestTurn s v).2 := by
  unfold nearestTurn
  repeat' first
    | with_reducible exact Frame.refl _ _
    | with_reducible refine (openNat_frame _).comp ?_ (by decide)
    | with_reducible refine Frame.iteSnd ?_ ?_

theorem encTurn_frame (a1 : Nat) (s : State) :
    Frame [.sp, .fresh] s (encTurn a1 s) := by
  unfold encTurn
  repeat' first
    | with_reducible exact Frame.refl _ _
    | with_reducible refine (setEnc_frame _ _ _).comp ?_ (by decide)
    | with_reducible refine (nearestTurn_frame _ _).comp ?_ (by decide)
    | with_reducible refine Frame.ite ?_ ?_
    | (simp only [Frame.spelled]; (with_reducible apply FrameMk.upd); (with_reducible (intro b hb; cases b <;> first | exact absurd (by decide) hb | (dsimp only [Region.same] <;> rfl) | exact refs_id rfl)); (dsimp only; first | with_reducible exact List.suffix_refl _ | with_reducible exact List.suffix_cons _ _))

theorem linksNote_frame (s : State) :
    Frame [.sp] s (linksNote s) := by
  unfold linksNote
  repeat' first
    | with_reducible exact Frame.refl _ _
    | (simp only [Frame.spelled]; (with_reducible apply FrameMk.upd); (with_reducible (intro b hb; cases b <;> first | exact absurd (by decide) hb | (dsimp only [Region.same] <;> rfl) | exact refs_id rfl)); (dsimp only; first | with_reducible exact List.suffix_refl _ | with_reducible exact List.suffix_cons _ _))

theorem sheetDown_frame (s : State) :
    Frame [.gl, .crew, .hq, .eng, .cy, .vol, .wr, .rdr, .sm, .sv, .ce, .sp, .ic, .spill, .ev, .out] s (sheetDown s) := by
  unfold sheetDown
  repeat' first
    | with_reducible exact Frame.refl _ _
    | with_reducible refine (senseFast_frame _ _).comp ?_ (by decide)
    | with_reducible refine (holdCause_frame _ _).comp ?_ (by decide)
    | with_reducible refine (linksNote_frame _).comp ?_ (by decide)
    | (simp only [Frame.spelled]; (with_reducible apply FrameMk.upd); (with_reducible (intro b hb; cases b <;> first | exact absurd (by decide) hb | (dsimp only [Region.same] <;> rfl) | exact refs_id rfl)); (dsimp only; first | with_reducible exact List.suffix_refl _ | with_reducible exact List.suffix_cons _ _))

theorem radiiUpdate_frame (s : State) :
    Frame [.sv] s (radiiUpdate s) := by
  unfold radiiUpdate
  repeat' first
    | with_reducible exact Frame.refl _ _
    | with_reducible refine Frame.ite ?_ ?_
    | (simp only [Frame.spelled]; (with_reducible apply FrameMk.upd); (with_reducible (intro b hb; cases b <;> first | exact absurd (by decide) hb | (dsimp only [Region.same] <;> rfl) | exact refs_id rfl)); (dsimp only; first | with_reducible exact List.suffix_refl _ | with_reducible exact List.suffix_cons _ _))

theorem sheetError_frame (o : Nat) (n : Nat) (s : State) :
    Frame [.sp] s (sheetError o n s) := by
  unfold sheetError
  repeat' first
    | with_reducible exact Frame.refl _ _
    | (simp only [Frame.spelled]; (with_reducible apply FrameMk.upd); (with_reducible (intro b hb; cases b <;> first | exact absurd (by decide) hb | (dsimp only [Region.same] <;> rfl) | exact refs_id rfl)); (dsimp only; first | with_reducible exact List.suffix_refl _ | with_reducible exact List.suffix_cons _ _))

end Sys2Proof.Machine
end

