-- ==== Sys2Proof/Laws/FrameServo.lean ====
section
/-!
SUPPORT. The frames of the operations of Machine/Servo.lean: which parts of the state each may change.
-/

namespace Sys2Proof.Machine

theorem badPass_frame (s : State) :
    Frame [.sv, .ic] s (badPass s) := by
  unfold badPass
  repeat' first
    | with_reducible exact Frame.refl _ _
    | with_reducible refine (senseFast_frame _ _).comp ?_ (by decide)
    | (simp only [Frame.spelled]; (with_reducible apply FrameMk.upd); (with_reducible (intro b hb; cases b <;> first | exact absurd (by decide) hb | (dsimp only [Region.same] <;> rfl) | exact refs_id rfl)); (dsimp only; first | with_reducible exact List.suffix_refl _ | with_reducible exact List.suffix_cons _ _))

theorem servoPass_frame (k : Nat) (s : State) :
    Frame [.wr, .sv, .ic, .out] s (servoPass k s) := by
  unfold servoPass
  repeat' first
    | with_reducible exact Frame.refl _ _
    | with_reducible refine (badPass_frame _).comp ?_ (by decide)
    | with_reducible refine (setServoMod_frame _ _ _).comp ?_ (by decide)
    | with_reducible refine (closeGate_frame _ _).comp ?_ (by decide)
    | with_reducible refine Frame.ite ?_ ?_

theorem freezeFine_frame (b : Bool) (s : State) :
    Frame [.ce] s (freezeFine b s) := by
  unfold freezeFine
  repeat' first
    | with_reducible exact Frame.refl _ _
    | with_reducible assumption
    | with_reducible refine (setSlot_frame _ _ _).comp ?_ (by decide)
    | with_reducible refine Frame.forEach _ _ ?_ ?_
    | intro _

theorem coarsePass_frame (s : State) :
    Frame [.sv, .ce] s (coarsePass s) := by
  unfold coarsePass
  repeat' first
    | with_reducible exact Frame.refl _ _
    | with_reducible refine (freezeFine_frame _ _).comp ?_ (by decide)
    | with_reducible refine (setSlot_frame _ _ _).comp ?_ (by decide)
    | with_reducible refine Frame.ite ?_ ?_
    | (simp only [Frame.spelled]; (with_reducible apply FrameMk.upd); (with_reducible (intro b hb; cases b <;> first | exact absurd (by decide) hb | (dsimp only [Region.same] <;> rfl) | exact refs_id rfl)); (dsimp only; first | with_reducible exact List.suffix_refl _ | with_reducible exact List.suffix_cons _ _))

theorem headSamples_frame (s : State) :
    Frame [.sv, .ce] s (headSamples s) := by
  unfold headSamples
  repeat' first
    | with_reducible exact Frame.refl _ _
    | with_reducible refine (coarsePass_frame _).comp ?_ (by decide)
    | with_reducible refine Frame.ite ?_ ?_
    | (simp only [Frame.spelled]; (with_reducible apply FrameMk.upd); (with_reducible (intro b hb; cases b <;> first | exact absurd (by decide) hb | (dsimp only [Region.same] <;> rfl) | exact refs_id rfl)); (dsimp only; first | with_reducible exact List.suffix_refl _ | with_reducible exact List.suffix_cons _ _))
    | (extract_lets +onlyGivenNames y; first | (refine have hy : Frame [.sv, .ce] s y := ?_; ?_; unfold y) | (refine have hy : Frame [.sv, .ce] s y.2 := ?_; ?_; unfold y) | skip)
    | split

theorem wordError_frame (o : Nat) (s : State) :
    Frame [.sv] s (wordError o s) := by
  unfold wordError
  repeat' first
    | with_reducible exact Frame.refl _ _
    | (simp only [Frame.spelled]; (with_reducible apply FrameMk.upd); (with_reducible (intro b hb; cases b <;> first | exact absurd (by decide) hb | (dsimp only [Region.same] <;> rfl) | exact refs_id rfl)); (dsimp only; first | with_reducible exact List.suffix_refl _ | with_reducible exact List.suffix_cons _ _))

theorem takeWord_frame (n : Nat) (l : List Bool) (s : State) :
    Frame [.sv] s (takeWord n l s) := by
  unfold takeWord
  repeat' first
    | with_reducible exact Frame.refl _ _
    | with_reducible refine (wordError_frame _ _).comp ?_ (by decide)
    | with_reducible refine (setServoRd_frame _ _ _).comp ?_ (by decide)
    | with_reducible refine Frame.ite ?_ ?_

theorem frameDone_frame (n : Nat) (a : Option (List Nat)) (b : Option (List Nat)) (s : State) :
    Frame [.sv, .ce] s (frameDone n a b s) := by
  unfold frameDone
  repeat' first
    | with_reducible exact Frame.refl _ _
    | with_reducible refine (setServoRd_frame _ _ _).comp ?_ (by decide)
    | with_reducible refine (headSamples_frame _).comp ?_ (by decide)
    | with_reducible refine (takeWord_frame _ _ _).comp ?_ (by decide)
    | (extract_lets +onlyGivenNames y; first | (refine have hy : Frame [.sv, .ce] s y := ?_; ?_; unfold y) | (refine have hy : Frame [.sv, .ce] s y.2 := ?_; ?_; unfold y) | skip)
    | split

theorem readerLost_frame (n : Nat) (s : State) :
    Frame [.crew, .wr, .sv, .lk, .ic, .spill, .ev, .out] s (readerLost n s) := by
  unfold readerLost
  repeat' first
    | with_reducible exact Frame.refl _ _
    | with_reducible refine (setServoRd_frame _ _ _).comp ?_ (by decide)
    | with_reducible refine (setServoMod_frame _ _ _).comp ?_ (by decide)
    | with_reducible refine (setUnitState_frame _ _ _ _).comp ?_ (by decide)
    | with_reducible refine (servoPass_frame _ _).comp ?_ (by decide)
    | with_reducible refine Frame.ite ?_ ?_

theorem giveSample_frame (n : Nat) (ab : Bool) (y : Option Int) (s : State) :
    Frame [.crew, .wr, .sv, .lk, .ic, .spill, .ev, .out] s (giveSample n ab y s) := by
  unfold giveSample
  repeat' first
    | with_reducible exact Frame.refl _ _
    | with_reducible assumption
    | with_reducible refine (setServoRd_frame _ _ _).comp ?_ (by decide)
    | with_reducible refine (readerLost_frame _ _).comp ?_ (by decide)
    | with_reducible refine Frame.ite ?_ ?_
    | (extract_lets +onlyGivenNames y; first | (refine have hy : Frame [.crew, .wr, .sv, .lk, .ic, .spill, .ev, .out] s y := ?_; ?_; unfold y) | (refine have hy : Frame [.crew, .wr, .sv, .lk, .ic, .spill, .ev, .out] s y.2 := ?_; ?_; unfold y) | skip)
    | split

theorem sampleDone_frame (n : Nat) (s : State) :
    Frame [.crew, .wr, .sv, .lk, .ic, .spill, .ev, .out] s (sampleDone n s) := by
  unfold sampleDone
  repeat' first
    | with_reducible exact Frame.refl _ _
    | with_reducible refine (giveSample_frame _ _ _ _).comp ?_ (by decide)
    | with_reducible refine Frame.ite ?_ ?_
    | split

theorem burstDone_frame (n : Nat) (k : Nat) (res : Option (List Nat)) (s : State) :
    Frame [.crew, .wr, .sv, .ce, .lk, .ic, .spill, .ev, .out] s (burstDone n k res s) := by
  unfold burstDone
  repeat' first
    | with_reducible exact Frame.refl _ _
    | with_reducible refine (setServoRd_frame _ _ _).comp ?_ (by decide)
    | with_reducible refine (frameDone_frame _ _ _ _).comp ?_ (by decide)
    | with_reducible refine (sampleDone_frame _ _).comp ?_ (by decide)
    | with_reducible refine Frame.ite ?_ ?_
    | (extract_lets +onlyGivenNames y; first | (refine have hy : Frame [.crew, .wr, .sv, .ce, .lk, .ic, .spill, .ev, .out] s y := ?_; ?_; unfold y) | (refine have hy : Frame [.crew, .wr, .sv, .ce, .lk, .ic, .spill, .ev, .out] s y.2 := ?_; ?_; unfold y) | skip)
    | split

theorem countStaleN_frame (i : Nat) (k : Nat) (s : State) :
    Frame [.crew] s (countStaleN i k s) := by
  unfold countStaleN
  repeat' first
    | with_reducible exact Frame.refl _ _
    | (simp only [Frame.spelled]; (with_reducible apply FrameMk.upd); (with_reducible (intro b hb; cases b <;> first | exact absurd (by decide) hb | (dsimp only [Region.same] <;> rfl) | exact refs_id rfl)); (dsimp only; first | with_reducible exact List.suffix_refl _ | with_reducible exact List.suffix_cons _ _))

theorem enterTrack_frame (n : Nat) (s : State) :
    Frame [.wr, .sv, .ic, .out] s (enterTrack n s) := by
  unfold enterTrack
  repeat' first
    | with_reducible exact Frame.refl _ _
    | with_reducible refine (setServoRd_frame _ _ _).comp ?_ (by decide)
    | with_reducible refine (servoPass_frame _ _).comp ?_ (by decide)
    | with_reducible refine (setServoMod_frame _ _ _).comp ?_ (by decide)
    | with_reducible refine Frame.ite ?_ ?_

theorem groupDone_frame (n : Nat) (s : State) :
    Frame [.crew, .wr, .sv, .ce, .lk, .ic, .spill, .ev, .out] s (groupDone n s) := by
  unfold groupDone
  repeat' first
    | with_reducible exact Frame.refl _ _
    | with_reducible refine (setServoRd_frame _ _ _).comp ?_ (by decide)
    | with_reducible refine (burstDone_frame _ _ _ _).comp ?_ (by decide)
    | with_reducible refine (enterTrack_frame _ _).comp ?_ (by decide)
    | with_reducible refine Frame.ite ?_ ?_

theorem crossingAt_frame (n : Nat) (c : Nat) (s : State) :
    Frame [.crew, .wr, .sv, .ce, .lk, .ic, .spill, .ev, .out] s (crossingAt n c s) := by
  unfold crossingAt
  repeat' first
    | with_reducible exact Frame.refl _ _
    | with_reducible assumption
    | with_reducible refine (setServoRd_frame _ _ _).comp ?_ (by decide)
    | with_reducible refine (groupDone_frame _ _).comp ?_ (by decide)
    | with_reducible refine Frame.ite ?_ ?_
    | (extract_lets +onlyGivenNames y; first | (refine have hy : Frame [.crew, .wr, .sv, .ce, .lk, .ic, .spill, .ev, .out] s y := ?_; ?_; unfold y) | (refine have hy : Frame [.crew, .wr, .sv, .ce, .lk, .ic, .spill, .ev, .out] s y.2 := ?_; ?_; unfold y) | skip)
    | split

theorem laneStale_frame (l : Nat) (s : State) :
    Frame [.lk] s (laneStale l s) := by
  unfold laneStale
  repeat' first
    | with_reducible exact Frame.refl _ _
    | with_reducible refine (setLane_frame _ _ _).comp ?_ (by decide)

theorem meanMismatch_frame (s : State) (ival : Nat) :
    Frame [.sv] s (meanMismatch s ival) := by
  unfold meanMismatch
  repeat' first
    | with_reducible exact Frame.refl _ _
    | with_reducible refine Frame.ite ?_ ?_
    | (simp only [Frame.spelled]; (with_reducible apply FrameMk.upd); (with_reducible (intro b hb; cases b <;> first | exact absurd (by decide) hb | (dsimp only [Region.same] <;> rfl) | exact refs_id rfl)); (dsimp only; first | with_reducible exact List.suffix_refl _ | with_reducible exact List.suffix_cons _ _))

theorem moduleSample_frame (k : Nat) (ab : Bool) (s : State) :
    Frame [.wr, .sv, .ic, .out] s (moduleSample k ab s) := by
  unfold moduleSample
  repeat' first
    | with_reducible exact Frame.refl _ _
    | with_reducible assumption
    | with_reducible refine (setServoRd_frame _ _ _).comp ?_ (by decide)
    | with_reducible refine (setServoMod_frame _ _ _).comp ?_ (by decide)
    | with_reducible refine (meanMismatch_frame _ _).comp ?_ (by decide)
    | with_reducible refine (badPass_frame _).comp ?_ (by decide)
    | with_reducible refine (closeGate_frame _ _).comp ?_ (by decide)
    | with_reducible refine Frame.forEach _ _ ?_ ?_
    | with_reducible refine Frame.ite ?_ ?_
    | intro _
    | (extract_lets +onlyGivenNames y; first | (refine have hy : Frame [.wr, .sv, .ic, .out] s y := ?_; ?_; unfold y) | (refine have hy : Frame [.wr, .sv, .ic, .out] s y.2 := ?_; ?_; unfold y) | skip)
    | (clear_value *; split)

theorem servoSample_frame (n : Nat) (idx : Nat) (first : Nat) (a4 : Int) (s : State) :
    Frame [.crew, .wr, .sv, .ce, .lk, .ic, .spill, .ev, .out] s (servoSample n idx first a4 s) := by
  unfold servoSample
  repeat' first
    | with_reducible exact Frame.refl _ _
    | with_reducible assumption
    | with_reducible refine (setServoRd_frame _ _ _).comp ?_ (by decide)
    | with_reducible refine (crossingAt_frame _ _ _).comp ?_ (by decide)
    | (extract_lets +onlyGivenNames y; first | (refine have hy : Frame [.crew, .wr, .sv, .ce, .lk, .ic, .spill, .ev, .out] s y := ?_; ?_; unfold y) | (refine have hy : Frame [.crew, .wr, .sv, .ce, .lk, .ic, .spill, .ev, .out] s y.2 := ?_; ?_; unfold y) | skip)
    | split

theorem servoSpeed_frame (s : State) :
    Frame [.wr, .sv, .ic, .out] s (servoSpeed s) := by
  unfold servoSpeed
  repeat' first
    | with_reducible exact Frame.refl _ _
    | with_reducible assumption
    | with_reducible refine (setServoRd_frame _ _ _).comp ?_ (by decide)
    | with_reducible refine (closeGate_frame _ _).comp ?_ (by decide)
    | with_reducible refine (setServoMod_frame _ _ _).comp ?_ (by decide)
    | with_reducible refine (badPass_frame _).comp ?_ (by decide)
    | with_reducible refine Frame.forEach _ _ ?_ ?_
    | with_reducible refine Frame.ite ?_ ?_
    | intro _
    | (simp only [Frame.spelled]; (with_reducible apply FrameMk.upd); (with_reducible (intro b hb; cases b <;> first | exact absurd (by decide) hb | (dsimp only [Region.same] <;> rfl) | exact refs_id rfl)); (dsimp only; first | with_reducible exact List.suffix_refl _ | with_reducible exact List.suffix_cons _ _))

theorem strayCell_frame (l : Nat) (c : BitVec 512) (s : State) :
    Frame [.lk] s (strayCell l c s) := by
  unfold strayCell
  repeat' first
    | with_reducible exact Frame.refl _ _
    | with_reducible refine (laneStale_frame _ _).comp ?_ (by decide)
    | with_reducible refine Frame.ite ?_ ?_

end Sys2Proof.Machine
end

