-- ==== Sys2Proof/Laws/FrameTape.lean ====
section
/-!
SUPPORT. The frames of the operations of Machine/Tape.lean: which parts of the state each may change.
-/

namespace Sys2Proof.Machine

theorem writeHousekeeping_frame (s : State) :
    Frame [.vol, .out] s (writeHousekeeping s) := by
  unfold writeHousekeeping
  repeat' first
    | with_reducible exact Frame.refl _ _
    | with_reducible refine (emit_frame _ _).comp ?_ (by decide)
    | (simp only [Frame.spelled]; (with_reducible apply FrameMk.upd); (with_reducible (intro b hb; cases b <;> first | exact absurd (by decide) hb | (dsimp only [Region.same] <;> rfl) | exact refs_id rfl)); (dsimp only; first | with_reducible exact List.suffix_refl _ | with_reducible exact List.suffix_cons _ _))

theorem coverSession_frame (n : Nat) (hk : Sys2Proof.HkWrite) (s : State) :
    Frame [.vol, .out] s (coverSession n hk s).2 := by
  unfold coverSession
  repeat' first
    | with_reducible exact Frame.refl _ _
    | with_reducible refine (writeHousekeeping_frame _).comp ?_ (by decide)
    | with_reducible refine Frame.iteSnd ?_ ?_
    | (simp only [Frame.spelled]; (with_reducible apply FrameMk.upd); (with_reducible (intro b hb; cases b <;> first | exact absurd (by decide) hb | (dsimp only [Region.same] <;> rfl) | exact refs_id rfl)); (dsimp only; first | with_reducible exact List.suffix_refl _ | with_reducible exact List.suffix_cons _ _))

theorem failStream_frame (p : Nat) (s : State) :
    Frame [.hq, .eng, .cy, .vol, .rdr, .sm, .ic, .spill, .ev, .out] s (failStream p s) := by
  unfold failStream
  repeat' first
    | with_reducible exact Frame.refl _ _
    | with_reducible assumption
    | with_reducible refine (setPart_frame _ _ _).comp ?_ (by decide)
    | with_reducible refine (addLosses_frame _ _ _ _).comp ?_ (by decide)
    | with_reducible refine (tidy_frame _).comp ?_ (by decide)
    | with_reducible refine (releaseRecord_frame _ _ _).comp ?_ (by decide)
    | with_reducible refine Frame.forEach _ _ ?_ ?_
    | intro _

theorem fineTargets_frame (w : Nat) (s : State) :
    Frame [.ce] s (fineTargets w s) := by
  unfold fineTargets
  repeat' first
    | with_reducible exact Frame.refl _ _
    | with_reducible assumption
    | with_reducible refine (setSlot_frame _ _ _).comp ?_ (by decide)
    | with_reducible refine Frame.forEach _ _ ?_ ?_
    | with_reducible refine Frame.ite ?_ ?_
    | intro _

theorem pathBegins_frame (s : State) :
    Frame [.rdr] s (pathBegins s) := by
  unfold pathBegins
  repeat' first
    | with_reducible exact Frame.refl _ _
    | (simp only [Frame.spelled]; (with_reducible apply FrameMk.upd); (with_reducible (intro b hb; cases b <;> first | exact absurd (by decide) hb | (dsimp only [Region.same] <;> rfl) | exact refs_id rfl)); (dsimp only; first | with_reducible exact List.suffix_refl _ | with_reducible exact List.suffix_cons _ _))

theorem goToWork_frame (c : InFlight) (s : State) :
    Frame [.gl, .crew, .rdr, .sm, .ce, .ic] s (goToWork c s) := by
  unfold goToWork
  repeat' first
    | with_reducible exact Frame.refl _ _
    | with_reducible refine (pathBegins_frame _).comp ?_ (by decide)
    | with_reducible refine (setMode_frame _ _).comp ?_ (by decide)
    | with_reducible refine (readBegins_frame _).comp ?_ (by decide)
    | with_reducible refine Frame.ite ?_ ?_
    | (simp only [Frame.spelled]; (with_reducible apply FrameMk.upd); (with_reducible (intro b hb; cases b <;> first | exact absurd (by decide) hb | (dsimp only [Region.same] <;> rfl) | exact refs_id rfl)); (dsimp only; first | with_reducible exact List.suffix_refl _ | with_reducible exact List.suffix_cons _ _))

theorem locateEnds_frame (c : InFlight) (s : State) :
    Frame [.gl, .crew, .hq, .eng, .cy, .vol, .rdr, .sm, .ce, .ic, .spill, .ev, .out] s (locateEnds c s) := by
  unfold locateEnds
  repeat' first
    | with_reducible exact Frame.refl _ _
    | with_reducible refine (tapeRest_frame _).comp ?_ (by decide)
    | with_reducible refine (tidy_frame _).comp ?_ (by decide)
    | with_reducible refine (complete_frame _ _ _ _ _ _).comp ?_ (by decide)

theorem locateLeaves_frame (a1 : Nat) (s : State) :
    Frame [.vol] s (locateLeaves a1 s) := by
  unfold locateLeaves
  repeat' first
    | with_reducible exact Frame.refl _ _
    | with_reducible assumption
    | with_reducible refine (endSession_frame _ _).comp ?_ (by decide)
    | with_reducible refine Frame.forEach _ _ ?_ ?_
    | with_reducible refine Frame.ite ?_ ?_
    | intro _

theorem stopWriting_frame (s : State) :
    Frame [.vol, .wr] s (stopWriting s) := by
  unfold stopWriting
  repeat' first
    | with_reducible exact Frame.refl _ _
    | with_reducible refine (endSessions_frame _).comp ?_ (by decide)
    | (simp only [Frame.spelled]; (with_reducible apply FrameMk.upd); (with_reducible (intro b hb; cases b <;> first | exact absurd (by decide) hb | (dsimp only [Region.same] <;> rfl) | exact refs_id rfl)); (dsimp only; first | with_reducible exact List.suffix_refl _ | with_reducible exact List.suffix_cons _ _))

end Sys2Proof.Machine
end

