-- ==== Sys2Proof/Laws/FrameWriter.lean ====
section
/-!
SUPPORT. The frames of the operations of Machine/Writer.lean: which parts of the state each may change.
-/

namespace Sys2Proof.Machine

theorem dropElements_frame (p : Nat) (s : State) :
    Frame [.hq, .eng, .vol, .rdr, .sm] s (dropElements p s) := by
  unfold dropElements
  repeat' first
    | with_reducible exact Frame.refl _ _
    | with_reducible assumption
    | with_reducible refine (releaseRecord_frame _ _ _).comp ?_ (by decide)
    | with_reducible refine (setPart_frame _ _ _).comp ?_ (by decide)
    | with_reducible refine Frame.forEach _ _ ?_ ?_
    | intro _

theorem setFails_frame (d : DataSet) (s : State) :
    Frame [.hq, .eng, .cy, .vol, .wr, .fm, .rdr, .sm, .ic, .spill, .ev, .out] s (setFails d s) := by
  unfold setFails
  repeat' first
    | with_reducible exact Frame.refl _ _
    | with_reducible assumption
    | with_reducible refine (setPart_frame _ _ _).comp ?_ (by decide)
    | with_reducible refine (addLosses_frame _ _ _ _).comp ?_ (by decide)
    | with_reducible refine (tidy_frame _).comp ?_ (by decide)
    | with_reducible refine (dropElements_frame _ _).comp ?_ (by decide)
    | with_reducible refine Frame.forEach _ _ ?_ ?_
    | intro _
    | (simp only [Frame.spelled]; (with_reducible apply FrameMk.upd); (with_reducible (intro b hb; cases b <;> first | exact absurd (by decide) hb | (dsimp only [Region.same] <;> rfl) | exact refs_id rfl)); (dsimp only; first | with_reducible exact List.suffix_refl _ | with_reducible exact List.suffix_cons _ _))

theorem goBack_frame (d : Nat) (next : SetRun → Nat) (s : State) :
    Frame [.wr] s (goBack d next s) := by
  unfold goBack
  repeat' first
    | with_reducible exact Frame.refl _ _
    | (simp only [Frame.spelled]; (with_reducible apply FrameMk.upd); (with_reducible (intro b hb; cases b <;> first | exact absurd (by decide) hb | (dsimp only [Region.same] <;> rfl) | exact refs_id rfl)); (dsimp only; first | with_reducible exact List.suffix_refl _ | with_reducible exact List.suffix_cons _ _))

theorem attemptsFail_frame (dsns : List Nat) (s : State) :
    Frame [.hq, .eng, .cy, .vol, .wr, .fm, .rdr, .sm, .ic, .spill, .ev, .out] s (attemptsFail dsns s) := by
  unfold attemptsFail
  repeat' first
    | with_reducible exact Frame.refl _ _
    | with_reducible assumption
    | with_reducible refine (setFails_frame _ _).comp ?_ (by decide)
    | with_reducible refine (goBack_frame _ _ _).comp ?_ (by decide)
    | with_reducible refine Frame.forEach _ _ ?_ ?_
    | intro _
    | (simp only [Frame.spelled]; (with_reducible apply FrameMk.upd); (with_reducible (intro b hb; cases b <;> first | exact absurd (by decide) hb | (dsimp only [Region.same] <;> rfl) | exact refs_id rfl)); (dsimp only; first | with_reducible exact List.suffix_refl _ | with_reducible exact List.suffix_cons _ _))
    | (extract_lets +onlyGivenNames y; first | (refine have hy : Frame [.hq, .eng, .cy, .vol, .wr, .fm, .rdr, .sm, .ic, .spill, .ev, .out] s y := ?_; ?_; unfold y) | (refine have hy : Frame [.hq, .eng, .cy, .vol, .wr, .fm, .rdr, .sm, .ic, .spill, .ev, .out] s y.2 := ?_; ?_; unfold y) | skip)
    | split

theorem sendRow_frame (b : Block) (fs : List RowFrame) (s : State) :
    Frame [.wr, .out] s (sendRow b fs s) := by
  unfold sendRow
  repeat' first
    | with_reducible exact Frame.refl _ _
    | with_reducible refine (emit_frame _ _).comp ?_ (by decide)
    | (simp only [Frame.spelled]; (with_reducible apply FrameMk.upd); (with_reducible (intro b hb; cases b <;> first | exact absurd (by decide) hb | (dsimp only [Region.same] <;> rfl) | exact refs_id rfl)); (dsimp only; first | with_reducible exact List.suffix_refl _ | with_reducible exact List.suffix_cons _ _))

theorem rewriteRow_frame (b : Block) (s : State) :
    Frame [.wr, .fm, .out] s (rewriteRow b s) := by
  unfold rewriteRow
  repeat' first
    | with_reducible exact Frame.refl _ _
    | with_reducible refine (sendRow_frame _ _ _).comp ?_ (by decide)
    | (simp only [Frame.spelled]; (with_reducible apply FrameMk.upd); (with_reducible (intro b hb; cases b <;> first | exact absurd (by decide) hb | (dsimp only [Region.same] <;> rfl) | exact refs_id rfl)); (dsimp only; first | with_reducible exact List.suffix_refl _ | with_reducible exact List.suffix_cons _ _))

theorem burstEnds_frame (p : Nat) (s : State) :
    Frame [.gl, .crew, .hq, .eng, .cy, .vol, .wr, .rdr, .sm, .ce, .ic, .spill, .ev, .out] s (burstEnds p s) := by
  unfold burstEnds
  repeat' first
    | with_reducible exact Frame.refl _ _
    | with_reducible refine (setPart_frame _ _ _).comp ?_ (by decide)
    | with_reducible refine (underrun_frame _ _).comp ?_ (by decide)
    | with_reducible refine (tidy_frame _).comp ?_ (by decide)
    | with_reducible refine (tapeRest_frame _).comp ?_ (by decide)
    | with_reducible refine Frame.ite ?_ ?_
    | (simp only [Frame.spelled]; (with_reducible apply FrameMk.upd); (with_reducible (intro b hb; cases b <;> first | exact absurd (by decide) hb | (dsimp only [Region.same] <;> rfl) | exact refs_id rfl)); (dsimp only; first | with_reducible exact List.suffix_refl _ | with_reducible exact List.suffix_cons _ _))

theorem separatorRow_frame (p : Nat) (b : Block) (s : State) :
    Frame [.gl, .crew, .hq, .eng, .cy, .vol, .wr, .rdr, .sm, .ce, .ic, .spill, .ev, .out] s (separatorRow p b s) := by
  unfold separatorRow
  repeat' first
    | with_reducible exact Frame.refl _ _
    | with_reducible refine (emit_frame _ _).comp ?_ (by decide)
    | with_reducible refine (burstEnds_frame _ _).comp ?_ (by decide)
    | with_reducible refine Frame.ite ?_ ?_
    | (simp only [Frame.spelled]; (with_reducible apply FrameMk.upd); (with_reducible (intro b hb; cases b <;> first | exact absurd (by decide) hb | (dsimp only [Region.same] <;> rfl) | exact refs_id rfl)); (dsimp only; first | with_reducible exact List.suffix_refl _ | with_reducible exact List.suffix_cons _ _))

theorem blockCut_frame (p : Nat) (b : Block) (s : State) :
    Frame [.gl, .crew, .hq, .eng, .cy, .vol, .wr, .fm, .rdr, .sm, .ce, .ic, .spill, .ev, .out] s (blockCut p b s) := by
  unfold blockCut
  repeat' first
    | with_reducible exact Frame.refl _ _
    | with_reducible assumption
    | with_reducible refine (goBack_frame _ _ _).comp ?_ (by decide)
    | with_reducible refine (setFails_frame _ _).comp ?_ (by decide)
    | with_reducible refine (separatorRow_frame _ _ _).comp ?_ (by decide)
    | with_reducible refine Frame.forEach _ _ ?_ ?_
    | with_reducible refine Frame.ite ?_ ?_
    | intro _

theorem lastBlockFull_frame (p : Nat) (b : Block) (s : State) :
    Frame [.gl, .crew, .hq, .eng, .cy, .vol, .wr, .fm, .rdr, .sm, .ce, .ic, .spill, .ev, .out] s (lastBlockFull p b s) := by
  unfold lastBlockFull
  repeat' first
    | with_reducible exact Frame.refl _ _
    | with_reducible refine (separatorRow_frame _ _ _).comp ?_ (by decide)
    | with_reducible refine (attemptsFail_frame _ _).comp ?_ (by decide)
    | with_reducible refine (blockCut_frame _ _ _).comp ?_ (by decide)
    | with_reducible refine Frame.ite ?_ ?_

theorem afterRows_frame (p : Nat) (b : Block) (s : State) :
    Frame [.gl, .crew, .hq, .eng, .cy, .vol, .wr, .fm, .rdr, .sm, .ce, .ic, .spill, .ev, .out] s (afterRows p b s) := by
  unfold afterRows
  repeat' first
    | with_reducible exact Frame.refl _ _
    | with_reducible refine (attemptsFail_frame _ _).comp ?_ (by decide)
    | with_reducible refine (rewriteRow_frame _ _).comp ?_ (by decide)
    | with_reducible refine (lastBlockFull_frame _ _ _).comp ?_ (by decide)
    | with_reducible refine (blockCut_frame _ _ _).comp ?_ (by decide)
    | with_reducible refine (separatorRow_frame _ _ _).comp ?_ (by decide)
    | with_reducible refine Frame.ite ?_ ?_

theorem nominalRow_frame (b : Block) (s : State) :
    Frame [.wr, .out] s (nominalRow b s) := by
  unfold nominalRow
  repeat' first
    | with_reducible exact Frame.refl _ _
    | with_reducible refine (sendRow_frame _ _ _).comp ?_ (by decide)

theorem beginSet_frame (p : Nat) (d : DataSet) (a : Nat) (a4 : Nat) (pos : Nat) (b : Int) (s : State) :
    Frame [.wr, .sm, .out] s (beginSet p d a a4 pos b s) := by
  unfold beginSet
  repeat' first
    | with_reducible exact Frame.refl _ _
    | with_reducible refine (paceWrite_frame _ _).comp ?_ (by decide)
    | with_reducible refine (emit_frame _ _).comp ?_ (by decide)
    | with_reducible refine (nominalRow_frame _ _).comp ?_ (by decide)
    | with_reducible refine Frame.ite ?_ ?_
    | (simp only [Frame.spelled]; (with_reducible apply FrameMk.upd); (with_reducible (intro b hb; cases b <;> first | exact absurd (by decide) hb | (dsimp only [Region.same] <;> rfl) | exact refs_id rfl)); (dsimp only; first | with_reducible exact List.suffix_refl _ | with_reducible exact List.suffix_cons _ _))

theorem doomCopies_frame (e : Nat) (s : State) :
    Frame [.wr] s (doomCopies e s) := by
  unfold doomCopies
  repeat' first
    | with_reducible exact Frame.refl _ _
    | (simp only [Frame.spelled]; (with_reducible apply FrameMk.upd); (with_reducible (intro b hb; cases b <;> first | exact absurd (by decide) hb | (dsimp only [Region.same] <;> rfl) | exact refs_id rfl)); (dsimp only; first | with_reducible exact List.suffix_refl _ | with_reducible exact List.suffix_cons _ _))

theorem benchElem_frame (e : Nat) (cause : Nat) (s : State) :
    Frame [.crew, .wr, .lk, .ic, .spill, .ev, .out] s (benchElem e cause s) := by
  unfold benchElem
  repeat' first
    | with_reducible exact Frame.refl _ _
    | with_reducible refine (doomCopies_frame _ _).comp ?_ (by decide)
    | with_reducible refine (setUnitState_frame _ _ _ _).comp ?_ (by decide)

theorem benchOrDegrade_frame (e : Nat) (s : State) :
    Frame [.crew, .wr, .lk, .ic, .spill, .ev, .out] s (benchOrDegrade e s) := by
  unfold benchOrDegrade
  repeat' first
    | with_reducible exact Frame.refl _ _
    | with_reducible refine (benchElem_frame _ _ _).comp ?_ (by decide)
    | with_reducible refine (event_frame _ _ _ _ _).comp ?_ (by decide)
    | with_reducible refine (setElem_frame _ _ _).comp ?_ (by decide)
    | with_reducible refine Frame.ite ?_ ?_

theorem dropCopy_frame (c : Copy) (s : State) :
    Frame [.wr] s (dropCopy c s) := by
  unfold dropCopy
  repeat' first
    | with_reducible exact Frame.refl _ _
    | (simp only [Frame.spelled]; (with_reducible apply FrameMk.upd); (with_reducible (intro b hb; cases b <;> first | exact absurd (by decide) hb | (dsimp only [Region.same] <;> rfl) | exact refs_id rfl)); (dsimp only; first | with_reducible exact List.suffix_refl _ | with_reducible exact List.suffix_cons _ _))

theorem elemResult_frame (c : Copy) (failed : Bool) (s : State) :
    Frame [.crew, .wr, .lk, .ic, .spill, .ev, .out] s (elemResult c failed s) := by
  unfold elemResult
  repeat' first
    | with_reducible exact Frame.refl _ _
    | with_reducible refine (setElem_frame _ _ _).comp ?_ (by decide)
    | with_reducible refine (benchOrDegrade_frame _ _).comp ?_ (by decide)
    | with_reducible refine Frame.ite ?_ ?_

theorem verifyFails_frame (c : Copy) (late : Bool) (s : State) :
    Frame [.crew, .hq, .eng, .cy, .vol, .wr, .fm, .rdr, .sm, .lk, .ic, .spill, .ev, .out] s (verifyFails c late s) := by
  unfold verifyFails
  repeat' first
    | with_reducible exact Frame.refl _ _
    | with_reducible assumption
    | with_reducible refine (dropCopy_frame _ _).comp ?_ (by decide)
    | with_reducible refine (setElem_frame _ _ _).comp ?_ (by decide)
    | with_reducible refine (elemResult_frame _ _ _).comp ?_ (by decide)
    | with_reducible refine (attemptsFail_frame _ _).comp ?_ (by decide)
    | with_reducible refine Frame.ite ?_ ?_
    | (simp only [Frame.spelled]; (with_reducible apply FrameMk.upd); (with_reducible (intro b hb; cases b <;> first | exact absurd (by decide) hb | (dsimp only [Region.same] <;> rfl) | exact refs_id rfl)); (dsimp only; first | with_reducible exact List.suffix_refl _ | with_reducible exact List.suffix_cons _ _))
    | (extract_lets +onlyGivenNames y; first | (refine have hy : Frame [.crew, .hq, .eng, .cy, .vol, .wr, .fm, .rdr, .sm, .lk, .ic, .spill, .ev, .out] s y := ?_; ?_; unfold y) | (refine have hy : Frame [.crew, .hq, .eng, .cy, .vol, .wr, .fm, .rdr, .sm, .lk, .ic, .spill, .ev, .out] s y.2 := ?_; ?_; unfold y) | skip)
    | split

theorem latchMap_frame (s : State) :
    Frame [.crew, .wr, .lk, .ic, .spill, .ev, .out] s (latchMap s) := by
  unfold latchMap
  repeat' first
    | with_reducible exact Frame.refl _ _
    | with_reducible assumption
    | with_reducible refine (elemFresh_frame _ _).comp ?_ (by decide)
    | with_reducible refine (setUnitState_frame _ _ _ _).comp ?_ (by decide)
    | with_reducible refine Frame.forEach _ _ ?_ ?_
    | intro _
    | (simp only [Frame.spelled]; (with_reducible apply FrameMk.upd); (with_reducible (intro b hb; cases b <;> first | exact absurd (by decide) hb | (dsimp only [Region.same] <;> rfl) | exact refs_id rfl)); (dsimp only; first | with_reducible exact List.suffix_refl _ | with_reducible exact List.suffix_cons _ _))
    | (extract_lets +onlyGivenNames y; first | (refine have hy : Frame [.crew, .wr, .lk, .ic, .spill, .ev, .out] s y := ?_; ?_; unfold y) | (refine have hy : Frame [.crew, .wr, .lk, .ic, .spill, .ev, .out] s y.2 := ?_; ?_; unfold y) | skip)
    | split

theorem placeSet_frame (p : Nat) (d : DataSet) (a : Nat) (a4 : Option Nat) (pos : Nat) (b : Int) (s : State) :
    Frame [.crew, .hq, .eng, .cy, .vol, .wr, .fm, .rdr, .sm, .lk, .ic, .spill, .ev, .out] s (placeSet p d a a4 pos b s) := by
  unfold placeSet
  repeat' first
    | with_reducible exact Frame.refl _ _
    | with_reducible refine (setFails_frame _ _).comp ?_ (by decide)
    | with_reducible refine (beginSet_frame _ _ _ _ _ _ _).comp ?_ (by decide)
    | with_reducible refine (latchMap_frame _).comp ?_ (by decide)
    | split

theorem takeNext_frame {p : Nat} {s u : State} {d : DataSet} {a : Nat} (h : takeNext p s = some (d, a, u)) :
    Frame [.vol, .wr, .sm] s u := by
  unfold takeNext at h
  repeat' split at h
  all_goals first
    | (exfalso; revert h; simp; done)
    | skip
  all_goals
    simp only [Option.some.injEq, Prod.mk.injEq] at h
    obtain ⟨-, -, rfl⟩ := h
    simp only [Frame.spelled]
    with_reducible apply FrameMk.upd
    case h₀ => first | exact Frame.refl _ _ | exact (setPart_frame _ _ _).comp (Frame.refl _ _) (by decide)
    case ho => exact List.suffix_refl _
    intro b hb
    cases b <;> first | exact absurd (by decide) hb | rfl | exact refs_id rfl

theorem rowTaken_frame (p : Nat) (next : Option (DataSet × Nat × State)) {s : State}
    (h : ∀ d a u, next = some (d, a, u) → Frame [.vol, .wr, .sm] s u) :
    Frame [.crew, .hq, .eng, .cy, .vol, .wr, .fm, .rdr, .sm, .lk, .ic, .spill, .ev, .out] s (rowTaken p next s) := by
  unfold rowTaken
  extract_lets v
  split
  · exact Frame.refl _ _
  · exact (placeSet_frame _ _ _ _ _ _ _).comp ((h _ _ _ rfl).comp (Frame.refl _ _) (by decide)) (by decide)

theorem rowZero_frame (p : Nat) (s : State) :
    Frame [.gl, .crew, .hq, .eng, .cy, .vol, .wr, .fm, .rdr, .sm, .ce, .lk, .ic, .spill, .ev, .out] s (rowZero p s) := by
  unfold rowZero
  repeat' first
    | with_reducible exact Frame.refl _ _
    | with_reducible refine (rewriteRow_frame _ _).comp ?_ (by decide)
    | with_reducible refine (goBack_frame _ _ _).comp ?_ (by decide)
    | with_reducible refine (burstEnds_frame _ _).comp ?_ (by decide)
    | with_reducible refine (rowTaken_frame _ _ fun d a u h => takeNext_frame h).comp ?_ (by decide)
    | with_reducible refine Frame.ite ?_ ?_
    | (extract_lets +onlyGivenNames y; first | (refine have hy : Frame [.gl, .crew, .hq, .eng, .cy, .vol, .wr, .fm, .rdr, .sm, .ce, .lk, .ic, .spill, .ev, .out] s y := ?_; ?_; unfold y) | (refine have hy : Frame [.gl, .crew, .hq, .eng, .cy, .vol, .wr, .fm, .rdr, .sm, .ce, .lk, .ic, .spill, .ev, .out] s y.2 := ?_; ?_; unfold y) | skip)
    | split

theorem setSettles_frame (r : SetRun) (s : State) :
    Frame [.hq, .eng, .vol, .rdr, .sm] s (setSettles r s) := by
  unfold setSettles
  repeat' first
    | with_reducible exact Frame.refl _ _
    | with_reducible refine (dropElements_frame _ _).comp ?_ (by decide)
    | with_reducible refine (setPart_frame _ _ _).comp ?_ (by decide)

theorem verifyPasses_frame (c : Copy) (s : State) :
    Frame [.crew, .hq, .eng, .vol, .wr, .rdr, .sm, .lk, .ic, .spill, .ev, .out] s (verifyPasses c s) := by
  unfold verifyPasses
  repeat' first
    | with_reducible exact Frame.refl _ _
    | with_reducible assumption
    | with_reducible refine (elemResult_frame _ _ _).comp ?_ (by decide)
    | with_reducible refine (dropCopy_frame _ _).comp ?_ (by decide)
    | with_reducible refine (setSettles_frame _ _).comp ?_ (by decide)
    | with_reducible refine Frame.ite ?_ ?_
    | (simp only [Frame.spelled]; (with_reducible apply FrameMk.upd); (with_reducible (intro b hb; cases b <;> first | exact absurd (by decide) hb | (dsimp only [Region.same] <;> rfl) | exact refs_id rfl)); (dsimp only; first | with_reducible exact List.suffix_refl _ | with_reducible exact List.suffix_cons _ _))
    | (extract_lets +onlyGivenNames y; first | (refine have hy : Frame [.crew, .hq, .eng, .vol, .wr, .rdr, .sm, .lk, .ic, .spill, .ev, .out] s y := ?_; ?_; unfold y) | (refine have hy : Frame [.crew, .hq, .eng, .vol, .wr, .rdr, .sm, .lk, .ic, .spill, .ev, .out] s y.2 := ?_; ?_; unfold y) | skip)
    | split

end Sys2Proof.Machine
end

