-- ==== Sys2Proof/Laws/FrameFront.lean ====
section
/-!
SUPPORT. The frames of the operations of Machine/Front.lean: which parts of the state each may change.
-/

namespace Sys2Proof.Machine

theorem dropFront_frame (e : Nat) (s : State) :
    Frame [.rch] s (dropFront e s) := by
  unfold dropFront
  repeat' first
    | with_reducible exact Frame.refl _ _
    | (simp only [Frame.spelled]; (with_reducible apply FrameMk.upd); (with_reducible (intro b hb; cases b <;> first | exact absurd (by decide) hb | (dsimp only [Region.same] <;> rfl) | exact refs_id rfl)); (dsimp only; first | with_reducible exact List.suffix_refl _ | with_reducible exact List.suffix_cons _ _))

theorem setQueue_frame (d : Nat) (q : List FrameJob) (s : State) :
    Frame [.rch] s (setQueue d q s) := by
  unfold setQueue
  repeat' first
    | with_reducible exact Frame.refl _ _
    | (simp only [Frame.spelled]; (with_reducible apply FrameMk.upd); (with_reducible (intro b hb; cases b <;> first | exact absurd (by decide) hb | (dsimp only [Region.same] <;> rfl) | exact refs_id rfl)); (dsimp only; first | with_reducible exact List.suffix_refl _ | with_reducible exact List.suffix_cons _ _))

theorem frameBack_frame (k : Nat) (s : State) :
    Frame [.rch] s (frameBack k s) := by
  unfold frameBack
  repeat' first
    | with_reducible exact Frame.refl _ _
    | with_reducible refine (setQueue_frame _ _ _).comp ?_ (by decide)
    | split

theorem blankReads_frame (a1 : Nat) (s : State) :
    Frame [.hq, .eng, .cy, .vol, .rdr, .sm, .ic, .spill, .ev, .out] s (blankReads a1 s) := by
  unfold blankReads
  repeat' first
    | with_reducible exact Frame.refl _ _
    | with_reducible assumption
    | with_reducible refine (tidy_frame _).comp ?_ (by decide)
    | with_reducible refine (readEnds_frame _ _ _ _).comp ?_ (by decide)
    | with_reducible refine Frame.forEach _ _ ?_ ?_
    | with_reducible refine Frame.ite ?_ ?_
    | intro _
    | (extract_lets +onlyGivenNames y; first | (refine have hy : Frame [.hq, .eng, .cy, .vol, .rdr, .sm, .ic, .spill, .ev, .out] s y := ?_; ?_; unfold y) | (refine have hy : Frame [.hq, .eng, .cy, .vol, .rdr, .sm, .ic, .spill, .ev, .out] s y.2 := ?_; ?_; unfold y) | skip)
    | split

theorem setFront_frame (e : Nat) (f : FrontEnd) (s : State) :
    Frame [.rch] s (setFront e f s) := by
  unfold setFront
  repeat' first
    | with_reducible exact Frame.refl _ _
    | (simp only [Frame.spelled]; (with_reducible apply FrameMk.upd); (with_reducible (intro b hb; cases b <;> first | exact absurd (by decide) hb | (dsimp only [Region.same] <;> rfl) | exact refs_id rfl)); (dsimp only; first | with_reducible exact List.suffix_refl _ | with_reducible exact List.suffix_cons _ _))

theorem votePass_frame (m : Nat) (s : State) :
    Frame [.rch] s (votePass m s) := by
  unfold votePass
  repeat' first
    | with_reducible exact Frame.refl _ _
    | with_reducible assumption
    | with_reducible refine (setFront_frame _ _ _).comp ?_ (by decide)
    | with_reducible refine Frame.forEach _ _ ?_ ?_
    | with_reducible refine Frame.ite ?_ ?_
    | intro _
    | (simp only [Frame.spelled]; (with_reducible apply FrameMk.upd); (with_reducible (intro b hb; cases b <;> first | exact absurd (by decide) hb | (dsimp only [Region.same] <;> rfl) | exact refs_id rfl)); (dsimp only; first | with_reducible exact List.suffix_refl _ | with_reducible exact List.suffix_cons _ _))
    | (extract_lets +onlyGivenNames y; first | (refine have hy : Frame [.rch] s y := ?_; ?_; unfold y) | (refine have hy : Frame [.rch] s y.2 := ?_; ?_; unfold y) | skip)
    | split

theorem castVote_frame (v : Vote) (s : State) :
    Frame [.rch] s (castVote v s) := by
  unfold castVote
  repeat' first
    | with_reducible exact Frame.refl _ _
    | with_reducible refine (votePass_frame _ _).comp ?_ (by decide)
    | (simp only [Frame.spelled]; (with_reducible apply FrameMk.upd); (with_reducible (intro b hb; cases b <;> first | exact absurd (by decide) hb | (dsimp only [Region.same] <;> rfl) | exact refs_id rfl)); (dsimp only; first | with_reducible exact List.suffix_refl _ | with_reducible exact List.suffix_cons _ _))

theorem correctIndex_frame (job : FrameJob) (won : Nat) (s : State) :
    Frame [.rch] s (correctIndex job won s) := by
  unfold correctIndex
  repeat' first
    | with_reducible exact Frame.refl _ _
    | with_reducible refine (setFront_frame _ _ _).comp ?_ (by decide)
    | with_reducible refine Frame.ite ?_ ?_
    | split

theorem cutPass_frame (d : Nat) (s : State) :
    Frame [.rch] s (cutPass d s) := by
  unfold cutPass
  repeat' first
    | with_reducible exact Frame.refl _ _
    | with_reducible refine Frame.ite ?_ ?_
    | (simp only [Frame.spelled]; (with_reducible apply FrameMk.upd); (with_reducible (intro b hb; cases b <;> first | exact absurd (by decide) hb | (dsimp only [Region.same] <;> rfl) | exact refs_id rfl)); (dsimp only; first | with_reducible exact List.suffix_refl _ | with_reducible exact List.suffix_cons _ _))

theorem joinRun_frame (e : Nat) (s : State) :
    Frame [.rch] s (joinRun e s) := by
  unfold joinRun
  repeat' first
    | with_reducible exact Frame.refl _ _
    | with_reducible refine (setFront_frame _ _ _).comp ?_ (by decide)
    | with_reducible refine Frame.ite ?_ ?_
    | (simp only [Frame.spelled]; (with_reducible apply FrameMk.upd); (with_reducible (intro b hb; cases b <;> first | exact absurd (by decide) hb | (dsimp only [Region.same] <;> rfl) | exact refs_id rfl)); (dsimp only; first | with_reducible exact List.suffix_refl _ | with_reducible exact List.suffix_cons _ _))
    | (extract_lets +onlyGivenNames y; first | (refine have hy : Frame [.rch] s y := ?_; ?_; unfold y) | (refine have hy : Frame [.rch] s y.2 := ?_; ?_; unfold y) | skip)
    | split

theorem frameLost_frame (e : Nat) (found : Bool) (s : State) :
    Frame [.rch] s (frameLost e found s) := by
  unfold frameLost
  repeat' first
    | with_reducible exact Frame.refl _ _
    | with_reducible refine (joinRun_frame _ _).comp ?_ (by decide)
    | with_reducible refine Frame.ite ?_ ?_
    | (simp only [Frame.spelled]; (with_reducible apply FrameMk.upd); (with_reducible (intro b hb; cases b <;> first | exact absurd (by decide) hb | (dsimp only [Region.same] <;> rfl) | exact refs_id rfl)); (dsimp only; first | with_reducible exact List.suffix_refl _ | with_reducible exact List.suffix_cons _ _))

theorem frameWins_frame (e : Nat) (found : Bool) (alt : Bool) (s : State) :
    Frame [.rch] s (frameWins e found alt s) := by
  unfold frameWins
  repeat' first
    | with_reducible exact Frame.refl _ _
    | with_reducible assumption
    | with_reducible refine (setFront_frame _ _ _).comp ?_ (by decide)
    | with_reducible refine Frame.ite ?_ ?_
    | (simp only [Frame.spelled]; (with_reducible apply FrameMk.upd); (with_reducible (intro b hb; cases b <;> first | exact absurd (by decide) hb | (dsimp only [Region.same] <;> rfl) | exact refs_id rfl)); (dsimp only; first | with_reducible exact List.suffix_refl _ | with_reducible exact List.suffix_cons _ _))
    | (extract_lets +onlyGivenNames y; first | (refine have hy : Frame [.rch] s y := ?_; ?_; unfold y) | (refine have hy : Frame [.rch] s y.2 := ?_; ?_; unfold y) | skip)
    | split

theorem sumFrame_frame (job : FrameJob) (s : State) :
    Frame [.rch] s (sumFrame job s) := by
  unfold sumFrame
  repeat' first
    | with_reducible exact Frame.refl _ _
    | with_reducible refine Frame.ite ?_ ?_
    | (simp only [Frame.spelled]; (with_reducible apply FrameMk.upd); (with_reducible (intro b hb; cases b <;> first | exact absurd (by decide) hb | (dsimp only [Region.same] <;> rfl) | exact refs_id rfl)); (dsimp only; first | with_reducible exact List.suffix_refl _ | with_reducible exact List.suffix_cons _ _))

theorem decodeEnds_frame (job : FrameJob) (s : State) :
    Frame [.fm, .rch, .rdr, .sm] s (decodeEnds job s) := by
  unfold decodeEnds
  repeat' first
    | with_reducible exact Frame.refl _ _
    | with_reducible assumption
    | with_reducible refine (frameLost_frame _ _ _).comp ?_ (by decide)
    | with_reducible refine (frameWins_frame _ _ _ _).comp ?_ (by decide)
    | with_reducible refine (correctIndex_frame _ _ _).comp ?_ (by decide)
    | with_reducible refine (sumFrame_frame _ _).comp ?_ (by decide)
    | with_reducible refine (takeCodeword_frame _ _ _ _ _).comp ?_ (by decide)
    | with_reducible refine Frame.ite ?_ ?_
    | (extract_lets +onlyGivenNames y; first | (refine have hy : Frame [.fm, .rch, .rdr, .sm] s y := ?_; ?_; unfold y) | (refine have hy : Frame [.fm, .rch, .rdr, .sm] s y.2 := ?_; ?_; unfold y) | skip)
    | split

theorem frameDrop_frame (job : FrameJob) (s : State) :
    Frame [.crew, .hq, .eng, .cy, .vol, .wr, .fm, .rch, .rdr, .sm, .lk, .ic, .spill, .ev, .out] s (frameDrop job s) := by
  unfold frameDrop
  repeat' first
    | with_reducible exact Frame.refl _ _
    | with_reducible assumption
    | with_reducible refine (verifyFails_frame _ _ _).comp ?_ (by decide)
    | (simp only [Frame.spelled]; (with_reducible apply FrameMk.upd); (with_reducible (intro b hb; cases b <;> first | exact absurd (by decide) hb | (dsimp only [Region.same] <;> rfl) | exact refs_id rfl)); (dsimp only; first | with_reducible exact List.suffix_refl _ | with_reducible exact List.suffix_cons _ _))
    | (extract_lets +onlyGivenNames y; first | (refine have hy : Frame [.crew, .hq, .eng, .cy, .vol, .wr, .fm, .rch, .rdr, .sm, .lk, .ic, .spill, .ev, .out] s y := ?_; ?_; unfold y) | (refine have hy : Frame [.crew, .hq, .eng, .cy, .vol, .wr, .fm, .rch, .rdr, .sm, .lk, .ic, .spill, .ev, .out] s y.2 := ?_; ?_; unfold y) | skip)
    | split

theorem notePeak_frame (d : Nat) (s : State) :
    Frame [.rch] s (notePeak d s) := by
  unfold notePeak
  repeat' first
    | with_reducible exact Frame.refl _ _
    | (simp only [Frame.spelled]; (with_reducible apply FrameMk.upd); (with_reducible (intro b hb; cases b <;> first | exact absurd (by decide) hb | (dsimp only [Region.same] <;> rfl) | exact refs_id rfl)); (dsimp only; first | with_reducible exact List.suffix_refl _ | with_reducible exact List.suffix_cons _ _))

theorem enqueue_frame (job : FrameJob) (s : State) :
    Frame [.crew, .hq, .eng, .cy, .vol, .wr, .fm, .rch, .rdr, .sm, .lk, .ic, .spill, .ev, .out] s (enqueue job s) := by
  unfold enqueue
  repeat' first
    | with_reducible exact Frame.refl _ _
    | with_reducible refine (frameDrop_frame _ _).comp ?_ (by decide)
    | with_reducible refine (notePeak_frame _ _).comp ?_ (by decide)
    | with_reducible refine (setQueue_frame _ _ _).comp ?_ (by decide)
    | with_reducible refine Frame.ite ?_ ?_

theorem frameTry_frame (job : FrameJob) (s : State) :
    Frame [.crew, .hq, .eng, .cy, .vol, .wr, .fm, .rch, .rdr, .sm, .lk, .ic, .spill, .ev, .out] s (frameTry job s) := by
  unfold frameTry
  repeat' first
    | with_reducible exact Frame.refl _ _
    | with_reducible refine (frameLost_frame _ _ _).comp ?_ (by decide)
    | with_reducible refine (setFront_frame _ _ _).comp ?_ (by decide)
    | with_reducible refine (frameWins_frame _ _ _ _).comp ?_ (by decide)
    | with_reducible refine (enqueue_frame _ _).comp ?_ (by decide)
    | with_reducible refine Frame.ite ?_ ?_
    | (extract_lets +onlyGivenNames y; first | (refine have hy : Frame [.crew, .hq, .eng, .cy, .vol, .wr, .fm, .rch, .rdr, .sm, .lk, .ic, .spill, .ev, .out] s y := ?_; ?_; unfold y) | (refine have hy : Frame [.crew, .hq, .eng, .cy, .vol, .wr, .fm, .rch, .rdr, .sm, .lk, .ic, .spill, .ev, .out] s y.2 := ?_; ?_; unfold y) | skip)
    | split

theorem fixTuple_frame (d : Nat) (s : State) :
    Frame [.crew, .hq, .eng, .cy, .vol, .wr, .fm, .rch, .rdr, .sm, .lk, .ic, .spill, .ev, .out] s (fixTuple d s) := by
  unfold fixTuple
  repeat' first
    | with_reducible exact Frame.refl _ _
    | with_reducible assumption
    | with_reducible refine (blockSeen_frame _ _ _ _).comp ?_ (by decide)
    | with_reducible refine (frameTry_frame _ _).comp ?_ (by decide)
    | with_reducible refine Frame.forEach _ _ ?_ ?_
    | with_reducible refine Frame.ite ?_ ?_
    | intro _
    | (simp only [Frame.spelled]; (with_reducible apply FrameMk.upd); (with_reducible (intro b hb; cases b <;> first | exact absurd (by decide) hb | (dsimp only [Region.same] <;> rfl) | exact refs_id rfl)); (dsimp only; first | with_reducible exact List.suffix_refl _ | with_reducible exact List.suffix_cons _ _))
    | (extract_lets +onlyGivenNames y; first | (refine have hy : Frame [.crew, .hq, .eng, .cy, .vol, .wr, .fm, .rch, .rdr, .sm, .lk, .ic, .spill, .ev, .out] s y := ?_; ?_; unfold y) | (refine have hy : Frame [.crew, .hq, .eng, .cy, .vol, .wr, .fm, .rch, .rdr, .sm, .lk, .ic, .spill, .ev, .out] s y.2 := ?_; ?_; unfold y) | skip)
    | split

theorem headerSeen_frame (back : Nat) (s : State) :
    Frame [.rdr] s (headerSeen back s) := by
  unfold headerSeen
  repeat' first
    | with_reducible exact Frame.refl _ _
    | (simp only [Frame.spelled]; (with_reducible apply FrameMk.upd); (with_reducible (intro b hb; cases b <;> first | exact absurd (by decide) hb | (dsimp only [Region.same] <;> rfl) | exact refs_id rfl)); (dsimp only; first | with_reducible exact List.suffix_refl _ | with_reducible exact List.suffix_cons _ _))

theorem reportRowZero_frame (e : Nat) (tuple : Option (Nat × Nat × Nat)) (job : Option FrameJob) (s : State) :
    Frame [.crew, .hq, .eng, .cy, .vol, .wr, .fm, .rch, .rdr, .sm, .lk, .ic, .spill, .ev, .out] s (reportRowZero e tuple job s) := by
  unfold reportRowZero
  repeat' first
    | with_reducible exact Frame.refl _ _
    | with_reducible refine (fixTuple_frame _ _).comp ?_ (by decide)
    | with_reducible refine (notePeak_frame _ _).comp ?_ (by decide)
    | with_reducible refine Frame.ite ?_ ?_
    | (simp only [Frame.spelled]; (with_reducible apply FrameMk.upd); (with_reducible (intro b hb; cases b <;> first | exact absurd (by decide) hb | (dsimp only [Region.same] <;> rfl) | exact refs_id rfl)); (dsimp only; first | with_reducible exact List.suffix_refl _ | with_reducible exact List.suffix_cons _ _))

theorem frameEnds_frame (e : Nat) (f : FrontEnd) (s : State) :
    Frame [.crew, .hq, .eng, .cy, .vol, .wr, .fm, .rch, .rdr, .sm, .lk, .ic, .spill, .ev, .out] s (frameEnds e f s) := by
  unfold frameEnds
  repeat' first
    | with_reducible exact Frame.refl _ _
    | with_reducible refine (headerSeen_frame _ _).comp ?_ (by decide)
    | with_reducible refine (setFront_frame _ _ _).comp ?_ (by decide)
    | with_reducible refine (joinRun_frame _ _).comp ?_ (by decide)
    | with_reducible refine (reportRowZero_frame _ _ _ _).comp ?_ (by decide)
    | with_reducible refine (frameTry_frame _ _).comp ?_ (by decide)
    | with_reducible refine (castVote_frame _ _).comp ?_ (by decide)
    | with_reducible refine Frame.ite ?_ ?_
    | (simp only [Frame.spelled]; (with_reducible apply FrameMk.upd); (with_reducible (intro b hb; cases b <;> first | exact absurd (by decide) hb | (dsimp only [Region.same] <;> rfl) | exact refs_id rfl)); (dsimp only; first | with_reducible exact List.suffix_refl _ | with_reducible exact List.suffix_cons _ _))
    | (extract_lets +onlyGivenNames y; first | (refine have hy : Frame [.crew, .hq, .eng, .cy, .vol, .wr, .fm, .rch, .rdr, .sm, .lk, .ic, .spill, .ev, .out] s y := ?_; ?_; unfold y) | (refine have hy : Frame [.crew, .hq, .eng, .cy, .vol, .wr, .fm, .rch, .rdr, .sm, .lk, .ic, .spill, .ev, .out] s y.2 := ?_; ?_; unfold y) | skip)
    | split

theorem rneQuot_frame (a : Int) (b : Int) (s : State) :
    Frame [.fresh] s (rneQuot a b s).2 := by
  unfold rneQuot
  repeat' first
    | with_reducible exact Frame.refl _ _
    | with_reducible refine Frame.iteSnd ?_ ?_
    | (simp only [Frame.spelled]; (with_reducible apply FrameMk.upd); (with_reducible (intro b hb; cases b <;> first | exact absurd (by decide) hb | (dsimp only [Region.same] <;> rfl) | exact refs_id rfl)); (dsimp only; first | with_reducible exact List.suffix_refl _ | with_reducible exact List.suffix_cons _ _))

theorem refined_frame (v : RefSums) (entry : List Sys2Proof.Byte) (s : State) :
    Frame [.fresh] s (refined v entry s).2 := by
  unfold refined
  repeat' first
    | with_reducible exact Frame.refl _ _
    | with_reducible refine (rneQuot_frame _ _ _).comp ?_ (by decide)

theorem refinePass_frame (e : Nat) (s : State) :
    Frame [.rch, .fresh] s (refinePass e s) := by
  unfold refinePass
  repeat' first
    | with_reducible exact Frame.refl _ _
    | with_reducible assumption
    | with_reducible refine (refined_frame _ _ _).comp ?_ (by decide)
    | with_reducible refine (setWorking_frame _ _ _ _).comp ?_ (by decide)
    | with_reducible refine Frame.forEach _ _ ?_ ?_
    | with_reducible refine Frame.ite ?_ ?_
    | intro _
    | (simp only [Frame.spelled]; (with_reducible apply FrameMk.upd); (with_reducible (intro b hb; cases b <;> first | exact absurd (by decide) hb | (dsimp only [Region.same] <;> rfl) | exact refs_id rfl)); (dsimp only; first | with_reducible exact List.suffix_refl _ | with_reducible exact List.suffix_cons _ _))

theorem verifyFrame_frame (e : Nat) (f : FrontEnd) (s : State) :
    Frame [.crew, .hq, .eng, .cy, .vol, .wr, .fm, .rch, .rdr, .sm, .lk, .ic, .spill, .ev, .out] s (verifyFrame e f s) := by
  unfold verifyFrame
  repeat' first
    | with_reducible exact Frame.refl _ _
    | with_reducible assumption
    | with_reducible refine (setFront_frame _ _ _).comp ?_ (by decide)
    | with_reducible refine (enqueue_frame _ _).comp ?_ (by decide)
    | with_reducible refine Frame.ite ?_ ?_
    | (extract_lets +onlyGivenNames y; first | (refine have hy : Frame [.crew, .hq, .eng, .cy, .vol, .wr, .fm, .rch, .rdr, .sm, .lk, .ic, .spill, .ev, .out] s y := ?_; ?_; unfold y) | (refine have hy : Frame [.crew, .hq, .eng, .cy, .vol, .wr, .fm, .rch, .rdr, .sm, .lk, .ic, .spill, .ev, .out] s y.2 := ?_; ?_; unfold y) | skip)
    | split

theorem frontChecks_frame (e : Nat) (s : State) :
    Frame [.crew, .hq, .eng, .cy, .vol, .wr, .fm, .rch, .rdr, .sm, .lk, .ic, .spill, .ev, .out] s (frontChecks e s) := by
  unfold frontChecks
  repeat' first
    | with_reducible exact Frame.refl _ _
    | with_reducible refine (verifyFrame_frame _ _ _).comp ?_ (by decide)
    | with_reducible refine (frameEnds_frame _ _ _).comp ?_ (by decide)
    | with_reducible refine Frame.ite ?_ ?_
    | split

theorem frontCell_frame (e : Nat) (idx : Nat) (a3 : List Int) (s : State) :
    Frame [.crew, .hq, .eng, .cy, .vol, .wr, .fm, .rch, .rdr, .sm, .lk, .ic, .spill, .ev, .out, .fresh] s (frontCell e idx a3 s) := by
  unfold frontCell
  repeat' first
    | with_reducible exact Frame.refl _ _
    | with_reducible refine (setFront_frame _ _ _).comp ?_ (by decide)
    | with_reducible refine (headerSeen_frame _ _).comp ?_ (by decide)
    | with_reducible refine (refinePass_frame _ _).comp ?_ (by decide)
    | with_reducible refine (votePass_frame _ _).comp ?_ (by decide)
    | with_reducible refine (frontChecks_frame _ _).comp ?_ (by decide)
    | with_reducible refine Frame.ite ?_ ?_

end Sys2Proof.Machine
end

