-- ==== Sys2Proof/Laws/FrameParams.lean ====
section
/-!
SUPPORT. The frames of the operations of Machine/Params.lean: which parts of the state each may change.
-/

namespace Sys2Proof.Machine

theorem paramPut_frame (id : Nat) (target : Nat) (v : Nat) (persist : Bool) (s : State) :
    Frame [.par, .ce] s (paramPut id target v persist s) := by
  unfold paramPut
  repeat' first
    | with_reducible exact Frame.refl _ _
    | with_reducible refine (setParamCur_frame _ _ _ _).comp ?_ (by decide)
    | with_reducible refine (profileWords_frame _).comp ?_ (by decide)
    | with_reducible refine Frame.ite ?_ ?_
    | (simp only [Frame.spelled]; (with_reducible apply FrameMk.upd); (with_reducible (intro b hb; cases b <;> first | exact absurd (by decide) hb | (dsimp only [Region.same] <;> rfl) | exact refs_id rfl)); (dsimp only; first | with_reducible exact List.suffix_refl _ | with_reducible exact List.suffix_cons _ _))

end Sys2Proof.Machine
end

