-- ==== Sys2Proof/Laws/FrameLife.lean ====
section
/-!
SUPPORT. The frames of the operations of Machine/Life.lean: which parts of the state each may change.
-/

namespace Sys2Proof.Machine

theorem taskEnds_frame (status : Nat) (len : Nat) (s : State) :
    Frame [.task] s (taskEnds status len s) := by
  unfold taskEnds
  repeat' first
    | with_reducible exact Frame.refl _ _
    | (simp only [Frame.spelled]; (with_reducible apply FrameMk.upd); (with_reducible (intro b hb; cases b <;> first | exact absurd (by decide) hb | (dsimp only [Region.same] <;> rfl) | exact refs_id rfl)); (dsimp only; first | with_reducible exact List.suffix_refl _ | with_reducible exact List.suffix_cons _ _))

theorem lcAnswer_frame (ref : Option CmdRef) (status : Nat) (s : State) :
    Frame [.hq, .task, .eng, .cy, .vol, .rdr, .sm, .ic, .out] s (lcAnswer ref status s) := by
  unfold lcAnswer
  repeat' first
    | with_reducible exact Frame.refl _ _
    | with_reducible refine (complete_frame _ _ _ _ _ _).comp ?_ (by decide)
    | with_reducible refine (failCmd_frame _ _ _).comp ?_ (by decide)
    | with_reducible refine (taskEnds_frame _ _ _).comp ?_ (by decide)
    | with_reducible refine Frame.ite ?_ ?_
    | split

theorem lcPerform_frame (target : BitVec 3) (s : State) :
    Frame [.gl, .life, .crew, .hq, .eng, .cy, .vol, .wr, .rdr, .sm, .sv, .ce, .ic, .spill, .ev, .out] s (lcPerform target s) := by
  unfold lcPerform
  repeat' first
    | with_reducible exact Frame.refl _ _
    | with_reducible refine (requestReset_frame _ _).comp ?_ (by decide)
    | (simp only [Frame.spelled]; (with_reducible apply FrameMk.upd); (with_reducible (intro b hb; cases b <;> first | exact absurd (by decide) hb | (dsimp only [Region.same] <;> rfl) | exact refs_id rfl)); (dsimp only; first | with_reducible exact List.suffix_refl _ | with_reducible exact List.suffix_cons _ _))

theorem authDone_frame (ref : Option CmdRef) (target : BitVec 3) (a : List Sys2Proof.Byte) (s : State) :
    Frame [.gl, .life, .crew, .hq, .task, .eng, .cy, .vol, .wr, .rdr, .sm, .sv, .ce, .ic, .spill, .ev, .se, .out, .fresh] s (authDone ref target a s) := by
  unfold authDone
  repeat' first
    | with_reducible exact Frame.refl _ _
    | with_reducible refine (freshNonce_frame _).comp ?_ (by decide)
    | with_reducible refine (lcAnswer_frame _ _ _).comp ?_ (by decide)
    | with_reducible refine (authReject_frame _).comp ?_ (by decide)
    | with_reducible refine (lcPerform_frame _ _).comp ?_ (by decide)
    | with_reducible refine Frame.ite ?_ ?_

theorem taskOutput_frame (bytes : List Sys2Proof.Byte) (s : State) :
    Frame [.task] s (taskOutput bytes s) := by
  unfold taskOutput
  repeat' first
    | with_reducible exact Frame.refl _ _
    | (simp only [Frame.spelled]; (with_reducible apply FrameMk.upd); (with_reducible (intro b hb; cases b <;> first | exact absurd (by decide) hb | (dsimp only [Region.same] <;> rfl) | exact refs_id rfl)); (dsimp only; first | with_reducible exact List.suffix_refl _ | with_reducible exact List.suffix_cons _ _))

theorem lcArm_frame (target : BitVec 3) (auth : List Sys2Proof.Byte) (s : State) :
    Frame [.gl] s (lcArm target auth s) := by
  unfold lcArm
  repeat' first
    | with_reducible exact Frame.refl _ _
    | with_reducible refine Frame.ite ?_ ?_
    | (simp only [Frame.spelled]; (with_reducible apply FrameMk.upd); (with_reducible (intro b hb; cases b <;> first | exact absurd (by decide) hb | (dsimp only [Region.same] <;> rfl) | exact refs_id rfl)); (dsimp only; first | with_reducible exact List.suffix_refl _ | with_reducible exact List.suffix_cons _ _))

theorem spdmSend_frame (c : Sys2Proof.SpdmConn) (resp : List Sys2Proof.Byte) (s : State) :
    Frame [.task, .se, .out] s (spdmSend c resp s) := by
  unfold spdmSend
  repeat' first
    | with_reducible exact Frame.refl _ _
    | with_reducible assumption
    | with_reducible refine (emit_frame _ _).comp ?_ (by decide)
    | with_reducible refine (taskEnds_frame _ _ _).comp ?_ (by decide)
    | with_reducible refine (taskOutput_frame _ _).comp ?_ (by decide)
    | with_reducible refine Frame.ite ?_ ?_
    | (simp only [Frame.spelled]; (with_reducible apply FrameMk.upd); (with_reducible (intro b hb; cases b <;> first | exact absurd (by decide) hb | (dsimp only [Region.same] <;> rfl) | exact refs_id rfl)); (dsimp only; first | with_reducible exact List.suffix_refl _ | with_reducible exact List.suffix_cons _ _))
    | (extract_lets +onlyGivenNames y; first | (refine have hy : Frame [.task, .se, .out] s y := ?_; ?_; unfold y) | (refine have hy : Frame [.task, .se, .out] s y.2 := ?_; ?_; unfold y) | skip)
    | split

theorem setSpdm_frame (c : Sys2Proof.SpdmConn) (v : Spdm) (s : State) :
    Frame [.se] s (setSpdm c v s) := by
  unfold setSpdm
  repeat' first
    | with_reducible exact Frame.refl _ _
    | (simp only [Frame.spelled]; (with_reducible apply FrameMk.upd); (with_reducible (intro b hb; cases b <;> first | exact absurd (by decide) hb | (dsimp only [Region.same] <;> rfl) | exact refs_id rfl)); (dsimp only; first | with_reducible exact List.suffix_refl _ | with_reducible exact List.suffix_cons _ _))
    | (extract_lets +onlyGivenNames y; first | (refine have hy : Frame [.se] s y := ?_; ?_; unfold y) | (refine have hy : Frame [.se] s y.2 := ?_; ?_; unfold y) | skip)
    | split

theorem bundleDone_frame (ref : CmdRef) (b : List Sys2Proof.Byte) (s : State) :
    Frame [.hq, .eng, .cy, .vol, .rdr, .sm, .ic, .spill, .ev, .se, .out] s (bundleDone ref b s) := by
  unfold bundleDone
  repeat' first
    | with_reducible exact Frame.refl _ _
    | with_reducible refine (complete_frame _ _ _ _ _ _).comp ?_ (by decide)
    | with_reducible refine (failCmd_frame _ _ _).comp ?_ (by decide)
    | with_reducible refine (bundleReject_frame _ _).comp ?_ (by decide)
    | with_reducible refine Frame.ite ?_ ?_
    | (simp only [Frame.spelled]; (with_reducible apply FrameMk.upd); (with_reducible (intro b hb; cases b <;> first | exact absurd (by decide) hb | (dsimp only [Region.same] <;> rfl) | exact refs_id rfl)); (dsimp only; first | with_reducible exact List.suffix_refl _ | with_reducible exact List.suffix_cons _ _))

theorem kekDone_frame (ref : CmdRef) (blob : List Sys2Proof.Byte) (s : State) :
    Frame [.hq, .eng, .cy, .vol, .rdr, .sm, .ic, .out] s (kekDone ref blob s) := by
  unfold kekDone
  repeat' first
    | with_reducible exact Frame.refl _ _
    | with_reducible refine (failCmd_frame _ _ _).comp ?_ (by decide)
    | with_reducible refine (complete_frame _ _ _ _ _ _).comp ?_ (by decide)
    | with_reducible refine (setKek_frame _ _ _).comp ?_ (by decide)
    | with_reducible refine Frame.ite ?_ ?_
    | (extract_lets +onlyGivenNames y; first | (refine have hy : Frame [.hq, .eng, .cy, .vol, .rdr, .sm, .ic, .out] s y := ?_; ?_; unfold y) | (refine have hy : Frame [.hq, .eng, .cy, .vol, .rdr, .sm, .ic, .out] s y.2 := ?_; ?_; unfold y) | skip)
    | split

theorem unlockDone_frame (a : List Sys2Proof.Byte) (s : State) :
    Frame [.gl, .crew, .hq, .eng, .cy, .vol, .wr, .rdr, .sm, .sv, .ce, .ic, .spill, .ev, .se, .out, .fresh] s (unlockDone a s) := by
  unfold unlockDone
  repeat' first
    | with_reducible exact Frame.refl _ _
    | with_reducible refine (freshNonce_frame _).comp ?_ (by decide)
    | with_reducible refine (requestReset_frame _ _).comp ?_ (by decide)
    | with_reducible refine (authReject_frame _).comp ?_ (by decide)
    | with_reducible refine Frame.ite ?_ ?_

theorem spdmSigned_frame (c : Sys2Proof.SpdmConn) (s : State) :
    Frame [.task, .se, .out] s (spdmSigned c s) := by
  unfold spdmSigned
  repeat' first
    | with_reducible exact Frame.refl _ _
    | with_reducible refine (spdmSend_frame _ _ _).comp ?_ (by decide)
    | with_reducible refine (setSpdm_frame _ _ _).comp ?_ (by decide)
    | (extract_lets +onlyGivenNames y; first | (refine have hy : Frame [.task, .se, .out] s y := ?_; ?_; unfold y) | (refine have hy : Frame [.task, .se, .out] s y.2 := ?_; ?_; unfold y) | skip)
    | split

theorem rsaEnds_frame (j : RsaJob) (s : State) :
    Frame [.gl, .life, .crew, .hq, .task, .eng, .cy, .vol, .wr, .rdr, .sm, .sv, .ce, .ic, .spill, .ev, .se, .out, .fresh] s (rsaEnds j s) := by
  unfold rsaEnds
  repeat' first
    | with_reducible exact Frame.refl _ _
    | with_reducible refine (kekDone_frame _ _ _).comp ?_ (by decide)
    | with_reducible refine (bundleDone_frame _ _ _).comp ?_ (by decide)
    | with_reducible refine (authDone_frame _ _ _ _).comp ?_ (by decide)
    | with_reducible refine (unlockDone_frame _ _).comp ?_ (by decide)
    | with_reducible refine (spdmSigned_frame _ _).comp ?_ (by decide)
    | split

end Sys2Proof.Machine
end

