-- ==== Sys2Proof/Laws/FrameShroud.lean ====
section
/-!
SUPPORT. The frames of the operations of Machine/Shroud.lean: which parts of the state each may change.
-/

namespace Sys2Proof.Machine

theorem laneDooms_frame (l : Nat) (s : State) :
    Frame [.wr] s (laneDooms l s) := by
  unfold laneDooms
  repeat' first
    | with_reducible exact Frame.refl _ _
    | (simp only [Frame.spelled]; (with_reducible apply FrameMk.upd); (with_reducible (intro b hb; cases b <;> first | exact absurd (by decide) hb | (dsimp only [Region.same] <;> rfl) | exact refs_id rfl)); (dsimp only; first | with_reducible exact List.suffix_refl _ | with_reducible exact List.suffix_cons _ _))

theorem readerFresh_frame (l : Nat) (s : State) :
    Frame [.sv] s (readerFresh l s) := by
  unfold readerFresh
  repeat' first
    | with_reducible exact Frame.refl _ _
    | with_reducible refine (setServoRd_frame _ _ _).comp ?_ (by decide)

end Sys2Proof.Machine
end

