-- ==== Sys2Proof/Laws/FrameTrim.lean ====
section
/-!
SUPPORT. The frames of the operations of Machine/Trim.lean: which parts of the state each may change.
-/

namespace Sys2Proof.Machine

theorem rcData_frame (i : Nat) (write : Option Sys2Proof.Word) (s : State) :
    Frame [.ce] s (rcData i write s).2 := by
  unfold rcData
  repeat' first
    | with_reducible exact Frame.refl _ _
    | with_reducible refine (setSlot_frame _ _ _).comp ?_ (by decide)
    | with_reducible refine Frame.iteSnd ?_ ?_
    | (extract_lets +onlyGivenNames y; first | (refine have hy : Frame [.ce] s y := ?_; ?_; unfold y) | (refine have hy : Frame [.ce] s y.2 := ?_; ?_; unfold y) | skip)
    | split

theorem slotCtlWrite_frame (i : Nat) (w : Sys2Proof.Word) (s : State) :
    Frame [.ce, .ic] s (slotCtlWrite i w s) := by
  unfold slotCtlWrite
  repeat' first
    | with_reducible exact Frame.refl _ _
    | with_reducible refine (senseFast_frame _ _).comp ?_ (by decide)
    | with_reducible refine (setSlot_frame _ _ _).comp ?_ (by decide)
    | with_reducible refine Frame.ite ?_ ?_

theorem slotCoefWrite_frame (i : Nat) (o : Nat) (w : Sys2Proof.Word) (s : State) :
    Frame [.ce] s (slotCoefWrite i o w s) := by
  unfold slotCoefWrite
  repeat' first
    | with_reducible exact Frame.refl _ _
    | with_reducible refine (setSlot_frame _ _ _).comp ?_ (by decide)
    | with_reducible refine Frame.ite ?_ ?_

theorem slotRegWrite_frame (i : Nat) (o : Nat) (w : Sys2Proof.Word) (s : State) :
    Frame [.ce] s (slotRegWrite i o w s) := by
  unfold slotRegWrite
  repeat' first
    | with_reducible exact Frame.refl _ _
    | with_reducible refine (setSlot_frame _ _ _).comp ?_ (by decide)
    | with_reducible refine (slotCoefWrite_frame _ _ _ _).comp ?_ (by decide)
    | with_reducible refine Frame.ite ?_ ?_
    | (extract_lets +onlyGivenNames y; first | (refine have hy : Frame [.ce] s y := ?_; ?_; unfold y) | (refine have hy : Frame [.ce] s y.2 := ?_; ?_; unfold y) | skip)
    | split

theorem capture_frame (i : Nat) (tb : Sys2Proof.Time) (cnt : Nat) (flags : Nat) (s : State) :
    Frame [.spill, .out] s (capture i tb cnt flags s) := by
  unfold capture
  repeat' first
    | with_reducible exact Frame.refl _ _
    | with_reducible refine (offerItem_frame _ _ _).comp ?_ (by decide)
    | with_reducible refine Frame.ite ?_ ?_

theorem ceSwap_frame (w : Sys2Proof.Word) (s : State) :
    Frame [.ce] s (ceSwap w s) := by
  unfold ceSwap
  repeat' first
    | with_reducible exact Frame.refl _ _
    | (simp only [Frame.spelled]; (with_reducible apply FrameMk.upd); (with_reducible (intro b hb; cases b <;> first | exact absurd (by decide) hb | (dsimp only [Region.same] <;> rfl) | exact refs_id rfl)); (dsimp only; first | with_reducible exact List.suffix_refl _ | with_reducible exact List.suffix_cons _ _))

theorem releaseWaiting_frame (i : Nat) (s : State) :
    Frame [.ce] s (releaseWaiting i s) := by
  unfold releaseWaiting
  repeat' first
    | with_reducible exact Frame.refl _ _
    | (simp only [Frame.spelled]; (with_reducible apply FrameMk.upd); (with_reducible (intro b hb; cases b <;> first | exact absurd (by decide) hb | (dsimp only [Region.same] <;> rfl) | exact refs_id rfl)); (dsimp only; first | with_reducible exact List.suffix_refl _ | with_reducible exact List.suffix_cons _ _))

theorem slotOverrun_frame (i : Nat) (s : State) :
    Frame [.gl, .crew, .hq, .eng, .cy, .vol, .wr, .rdr, .sm, .sv, .ce, .ic, .spill, .ev, .out] s (slotOverrun i s) := by
  unfold slotOverrun
  repeat' first
    | with_reducible exact Frame.refl _ _
    | with_reducible refine (setSlot_frame _ _ _).comp ?_ (by decide)
    | with_reducible refine (senseFast_frame _ _).comp ?_ (by decide)
    | with_reducible refine (releaseWaiting_frame _ _).comp ?_ (by decide)
    | with_reducible refine (capture_frame _ _ _ _ _).comp ?_ (by decide)
    | with_reducible refine (holdCause_frame _ _).comp ?_ (by decide)
    | with_reducible refine Frame.ite ?_ ?_
    | (simp only [Frame.spelled]; (with_reducible apply FrameMk.upd); (with_reducible (intro b hb; cases b <;> first | exact absurd (by decide) hb | (dsimp only [Region.same] <;> rfl) | exact refs_id rfl)); (dsimp only; first | with_reducible exact List.suffix_refl _ | with_reducible exact List.suffix_cons _ _))

theorem telltaleSettle_frame (s : State) :
    Frame [.gl, .crew, .hq, .eng, .cy, .vol, .rdr, .sm, .ce, .tt, .ic, .spill, .ev, .out] s (telltaleSettle s) := by
  unfold telltaleSettle
  repeat' first
    | with_reducible exact Frame.refl _ _
    | with_reducible assumption
    | with_reducible refine (flushRequest_frame _ _ _).comp ?_ (by decide)
    | with_reducible refine (tapeRest_frame _).comp ?_ (by decide)
    | with_reducible refine (tidy_frame _).comp ?_ (by decide)
    | with_reducible refine (complete_frame _ _ _ _ _ _).comp ?_ (by decide)
    | with_reducible refine Frame.forEach _ _ ?_ ?_
    | with_reducible refine Frame.ite ?_ ?_
    | intro _
    | (simp only [Frame.spelled]; (with_reducible apply FrameMk.upd); (with_reducible (intro b hb; cases b <;> first | exact absurd (by decide) hb | (dsimp only [Region.same] <;> rfl) | exact refs_id rfl)); (dsimp only; first | with_reducible exact List.suffix_refl _ | with_reducible exact List.suffix_cons _ _))
    | (extract_lets +onlyGivenNames y; first | (refine have hy : Frame [.gl, .crew, .hq, .eng, .cy, .vol, .rdr, .sm, .ce, .tt, .ic, .spill, .ev, .out] s y := ?_; ?_; unfold y) | (refine have hy : Frame [.gl, .crew, .hq, .eng, .cy, .vol, .rdr, .sm, .ce, .tt, .ic, .spill, .ev, .out] s y.2 := ?_; ?_; unfold y) | skip)
    | split

theorem telltalePast_frame (i : Nat) (s : State) :
    Frame [.gl, .crew, .hq, .eng, .cy, .vol, .rdr, .sm, .ce, .tt, .ic, .spill, .ev, .out] s (telltalePast i s) := by
  unfold telltalePast
  repeat' first
    | with_reducible exact Frame.refl _ _
    | with_reducible refine (telltaleSettle_frame _).comp ?_ (by decide)
    | (simp only [Frame.spelled]; (with_reducible apply FrameMk.upd); (with_reducible (intro b hb; cases b <;> first | exact absurd (by decide) hb | (dsimp only [Region.same] <;> rfl) | exact refs_id rfl)); (dsimp only; first | with_reducible exact List.suffix_refl _ | with_reducible exact List.suffix_cons _ _))

theorem slotHalt_frame (i : Nat) (s : State) :
    Frame [.gl, .crew, .hq, .eng, .cy, .vol, .rdr, .sm, .ce, .tt, .sp, .ic, .spill, .ev, .out] s (slotHalt i s) := by
  unfold slotHalt
  repeat' first
    | with_reducible exact Frame.refl _ _
    | with_reducible refine (setSlot_frame _ _ _).comp ?_ (by decide)
    | with_reducible refine (sendWord_frame _ _ _).comp ?_ (by decide)
    | with_reducible refine (telltalePast_frame _ _).comp ?_ (by decide)
    | with_reducible refine (senseFast_frame _ _).comp ?_ (by decide)
    | with_reducible refine Frame.ite ?_ ?_

theorem slotSkip_frame (i : Nat) (s : State) :
    Frame [.gl, .crew, .hq, .eng, .cy, .vol, .rdr, .sm, .ce, .tt, .ic, .spill, .ev, .out] s (slotSkip i s) := by
  unfold slotSkip
  repeat' first
    | with_reducible exact Frame.refl _ _
    | with_reducible refine (setSlot_frame _ _ _).comp ?_ (by decide)
    | with_reducible refine (senseFast_frame _ _).comp ?_ (by decide)
    | with_reducible refine (capture_frame _ _ _ _ _).comp ?_ (by decide)
    | with_reducible refine (telltalePast_frame _ _).comp ?_ (by decide)
    | with_reducible refine Frame.ite ?_ ?_

theorem dueSlots_frame (s : State) :
    Frame [.gl, .crew, .hq, .eng, .cy, .vol, .wr, .rdr, .sm, .sv, .ce, .tt, .sp, .ic, .spill, .ev, .out] s (dueSlots s) := by
  unfold dueSlots
  repeat' first
    | with_reducible exact Frame.refl _ _
    | with_reducible assumption
    | with_reducible refine (slotOverrun_frame _ _).comp ?_ (by decide)
    | with_reducible refine (slotHalt_frame _ _).comp ?_ (by decide)
    | with_reducible refine (slotSkip_frame _ _).comp ?_ (by decide)
    | with_reducible refine (setSlot_frame _ _ _).comp ?_ (by decide)
    | with_reducible refine Frame.forEach _ _ ?_ ?_
    | with_reducible refine Frame.ite ?_ ?_
    | intro _
    | (simp only [Frame.spelled]; (with_reducible apply FrameMk.upd); (with_reducible (intro b hb; cases b <;> first | exact absurd (by decide) hb | (dsimp only [Region.same] <;> rfl) | exact refs_id rfl)); (dsimp only; first | with_reducible exact List.suffix_refl _ | with_reducible exact List.suffix_cons _ _))

theorem holdSlots_frame (s : State) :
    Frame [.ce] s (holdSlots s) := by
  unfold holdSlots
  repeat' first
    | with_reducible exact Frame.refl _ _
    | with_reducible assumption
    | with_reducible refine (setSlot_frame _ _ _).comp ?_ (by decide)
    | with_reducible refine Frame.forEach _ _ ?_ ?_
    | with_reducible refine Frame.ite ?_ ?_
    | intro _
    | (simp only [Frame.spelled]; (with_reducible apply FrameMk.upd); (with_reducible (intro b hb; cases b <;> first | exact absurd (by decide) hb | (dsimp only [Region.same] <;> rfl) | exact refs_id rfl)); (dsimp only; first | with_reducible exact List.suffix_refl _ | with_reducible exact List.suffix_cons _ _))

theorem setGen_frame (g : Nat) (v : Gen) (s : State) :
    Frame [.tt] s (setGen g v s) := by
  unfold setGen
  repeat' first
    | with_reducible exact Frame.refl _ _
    | (simp only [Frame.spelled]; (with_reducible apply FrameMk.upd); (with_reducible (intro b hb; cases b <;> first | exact absurd (by decide) hb | (dsimp only [Region.same] <;> rfl) | exact refs_id rfl)); (dsimp only; first | with_reducible exact List.suffix_refl _ | with_reducible exact List.suffix_cons _ _))

theorem rateCells_frame (s : State) :
    Frame [.sm, .out, .fresh] s (rateCells s) := by
  unfold rateCells
  repeat' first
    | with_reducible exact Frame.refl _ _
    | with_reducible assumption
    | with_reducible refine (openNat_frame _).comp ?_ (by decide)
    | with_reducible refine (emit_frame _ _).comp ?_ (by decide)
    | with_reducible refine Frame.forEach _ _ ?_ ?_
    | with_reducible refine Frame.ite ?_ ?_
    | intro _
    | (simp only [Frame.spelled]; (with_reducible apply FrameMk.upd); (with_reducible (intro b hb; cases b <;> first | exact absurd (by decide) hb | (dsimp only [Region.same] <;> rfl) | exact refs_id rfl)); (dsimp only; first | with_reducible exact List.suffix_refl _ | with_reducible exact List.suffix_cons _ _))

theorem serviceEnds_frame (r : CmdRef) (status : Nat) (r0 : Nat) (s : State) :
    Frame [.gl, .crew, .hq, .eng, .cy, .vol, .rdr, .sm, .ce, .ic, .spill, .ev, .out] s (serviceEnds r status r0 s) := by
  unfold serviceEnds
  repeat' first
    | with_reducible exact Frame.refl _ _
    | with_reducible refine (tapeRest_frame _).comp ?_ (by decide)
    | with_reducible refine (tidy_frame _).comp ?_ (by decide)
    | with_reducible refine (complete_frame _ _ _ _ _ _).comp ?_ (by decide)

theorem slotFinish_frame (i : Nat) (l : Latched) (s : State) :
    Frame [.gl, .crew, .hq, .eng, .cy, .vol, .rdr, .sm, .ce, .tt, .sp, .ic, .spill, .ev, .out] s (slotFinish i l s) := by
  unfold slotFinish
  repeat' first
    | with_reducible exact Frame.refl _ _
    | with_reducible assumption
    | with_reducible refine (setSlot_frame _ _ _).comp ?_ (by decide)
    | with_reducible refine (sendWord_frame _ _ _).comp ?_ (by decide)
    | with_reducible refine (senseFast_frame _ _).comp ?_ (by decide)
    | with_reducible refine (releaseWaiting_frame _ _).comp ?_ (by decide)
    | with_reducible refine (capture_frame _ _ _ _ _).comp ?_ (by decide)
    | with_reducible refine (setGen_frame _ _ _).comp ?_ (by decide)
    | with_reducible refine (profileWords_frame _).comp ?_ (by decide)
    | with_reducible refine (telltalePast_frame _ _).comp ?_ (by decide)
    | with_reducible refine Frame.forEach _ _ ?_ ?_
    | with_reducible refine Frame.ite ?_ ?_
    | intro _
    | (simp only [Frame.spelled]; (with_reducible apply FrameMk.upd); (with_reducible (intro b hb; cases b <;> first | exact absurd (by decide) hb | (dsimp only [Region.same] <;> rfl) | exact refs_id rfl)); (dsimp only; first | with_reducible exact List.suffix_refl _ | with_reducible exact List.suffix_cons _ _))

theorem swapSlots_frame (s : State) :
    Frame [.ce, .ic] s (swapSlots s) := by
  unfold swapSlots
  repeat' first
    | with_reducible exact Frame.refl _ _
    | with_reducible refine (setSlot_frame _ _ _).comp ?_ (by decide)
    | with_reducible refine (senseFast_frame _ _).comp ?_ (by decide)
    | with_reducible refine Frame.ite ?_ ?_
    | (simp only [Frame.spelled]; (with_reducible apply FrameMk.upd); (with_reducible (intro b hb; cases b <;> first | exact absurd (by decide) hb | (dsimp only [Region.same] <;> rfl) | exact refs_id rfl)); (dsimp only; first | with_reducible exact List.suffix_refl _ | with_reducible exact List.suffix_cons _ _))
    | (extract_lets +onlyGivenNames y; first | (refine have hy : Frame [.ce, .ic] s y := ?_; ?_; unfold y) | (refine have hy : Frame [.ce, .ic] s y.2 := ?_; ?_; unfold y) | skip)
    | split

end Sys2Proof.Machine
end

