-- ==== Sys2Proof/Laws/FrameService.lean ====
section
/-!
SUPPORT. The frames of the operations of Machine/Service.lean: which parts of the state each may change.
-/

namespace Sys2Proof.Machine

theorem benchReader_frame (n : Nat) (cause : Nat) (s : State) :
    Frame [.crew, .wr, .sv, .lk, .ic, .spill, .ev, .out] s (benchReader n cause s) := by
  unfold benchReader
  repeat' first
    | with_reducible exact Frame.refl _ _
    | with_reducible refine (setUnitState_frame _ _ _ _).comp ?_ (by decide)
    | with_reducible refine (setServoRd_frame _ _ _).comp ?_ (by decide)
    | with_reducible refine (setServoMod_frame _ _ _).comp ?_ (by decide)
    | with_reducible refine (servoPass_frame _ _).comp ?_ (by decide)
    | with_reducible refine Frame.ite ?_ ?_

theorem benchUnit_frame (i : Nat) (cause : Nat) (s : State) :
    Frame [.crew, .wr, .rch, .sv, .lk, .ic, .spill, .ev, .out] s (benchUnit i cause s) := by
  unfold benchUnit
  repeat' first
    | with_reducible exact Frame.refl _ _
    | with_reducible refine (dropFront_frame _ _).comp ?_ (by decide)
    | with_reducible refine (benchElem_frame _ _ _).comp ?_ (by decide)
    | with_reducible refine (frameBack_frame _ _).comp ?_ (by decide)
    | with_reducible refine (setUnitState_frame _ _ _ _).comp ?_ (by decide)
    | with_reducible refine (laneDooms_frame _ _).comp ?_ (by decide)
    | with_reducible refine (setLane_frame _ _ _).comp ?_ (by decide)
    | with_reducible refine (headEvent_frame _ _ _).comp ?_ (by decide)
    | with_reducible refine (benchReader_frame _ _ _).comp ?_ (by decide)
    | with_reducible refine Frame.ite ?_ ?_

theorem calAdc_frame (out : Sys2Proof.CalOutcome) (s : State) :
    Frame [.sp, .logs] s (calAdc out s) := by
  unfold calAdc
  repeat' first
    | with_reducible exact Frame.refl _ _
    | with_reducible assumption
    | with_reducible refine (calWrite_frame _ _ _).comp ?_ (by decide)
    | with_reducible refine Frame.forEach _ _ ?_ ?_
    | intro _
    | (simp only [Frame.spelled]; (with_reducible apply FrameMk.upd); (with_reducible (intro b hb; cases b <;> first | exact absurd (by decide) hb | (dsimp only [Region.same] <;> rfl) | exact refs_id rfl)); (dsimp only; first | with_reducible exact List.suffix_refl _ | with_reducible exact List.suffix_cons _ _))

theorem calLog_frame (s : State) :
    Frame [.logs, .fresh] s (calLog s) := by
  unfold calLog
  repeat' first
    | with_reducible exact Frame.refl _ _
    | (simp only [Frame.spelled]; (with_reducible apply FrameMk.upd); (with_reducible (intro b hb; cases b <;> first | exact absurd (by decide) hb | (dsimp only [Region.same] <;> rfl) | exact refs_id rfl)); (dsimp only; first | with_reducible exact List.suffix_refl _ | with_reducible exact List.suffix_cons _ _))

theorem calLoops_frame (slots : Nat → Bool) (out : Sys2Proof.CalOutcome) (s : State) :
    Frame [.ce, .logs] s (calLoops slots out s) := by
  unfold calLoops
  repeat' first
    | with_reducible exact Frame.refl _ _
    | with_reducible assumption
    | with_reducible refine (slotCoefWrite_frame _ _ _ _).comp ?_ (by decide)
    | with_reducible refine (calWrite_frame _ _ _).comp ?_ (by decide)
    | with_reducible refine Frame.forEach _ _ ?_ ?_
    | with_reducible refine Frame.ite ?_ ?_
    | intro _

theorem calZone_frame (c : InFlight) (out : Sys2Proof.CalOutcome) (s : State) :
    Frame [.crew, .rch, .lk] s (calZone c out s) := by
  unfold calZone
  repeat' first
    | with_reducible exact Frame.refl _ _
    | with_reducible assumption
    | with_reducible refine (setHeadEntry_frame _ _ _ _).comp ?_ (by decide)
    | with_reducible refine (setHead_frame _ _ _).comp ?_ (by decide)
    | with_reducible refine Frame.forEach _ _ ?_ ?_
    | intro _
    | (simp only [Frame.spelled]; (with_reducible apply FrameMk.upd); (with_reducible (intro b hb; cases b <;> first | exact absurd (by decide) hb | (dsimp only [Region.same] <;> rfl) | exact refs_id rfl)); (dsimp only; first | with_reducible exact List.suffix_refl _ | with_reducible exact List.suffix_cons _ _))

theorem calProcs_frame (c : InFlight) (out : Sys2Proof.CalOutcome) (s : State) :
    Frame [.crew, .rch, .sv, .ce, .lk, .sp, .logs] s (calProcs c out s) := by
  unfold calProcs
  repeat' first
    | with_reducible exact Frame.refl _ _
    | with_reducible refine (calZone_frame _ _ _).comp ?_ (by decide)
    | with_reducible refine (calLoops_frame _ _ _).comp ?_ (by decide)
    | with_reducible refine (calAdc_frame _ _).comp ?_ (by decide)
    | with_reducible refine Frame.ite ?_ ?_
    | (simp only [Frame.spelled]; (with_reducible apply FrameMk.upd); (with_reducible (intro b hb; cases b <;> first | exact absurd (by decide) hb | (dsimp only [Region.same] <;> rfl) | exact refs_id rfl)); (dsimp only; first | with_reducible exact List.suffix_refl _ | with_reducible exact List.suffix_cons _ _))

theorem readmitElem_frame (e : Nat) (s : State) :
    Frame [.crew, .wr, .rch, .lk, .ic, .spill, .ev, .out] s (readmitElem e s) := by
  unfold readmitElem
  repeat' first
    | with_reducible exact Frame.refl _ _
    | with_reducible assumption
    | with_reducible refine (dropFront_frame _ _).comp ?_ (by decide)
    | with_reducible refine (bumpEpochs_frame _ _).comp ?_ (by decide)
    | with_reducible refine (setElem_frame _ _ _).comp ?_ (by decide)
    | with_reducible refine (elemFresh_frame _ _).comp ?_ (by decide)
    | with_reducible refine (setUnitState_frame _ _ _ _).comp ?_ (by decide)
    | with_reducible refine Frame.ite ?_ ?_
    | (extract_lets +onlyGivenNames y; first | (refine have hy : Frame [.crew, .wr, .rch, .lk, .ic, .spill, .ev, .out] s y := ?_; ?_; unfold y) | (refine have hy : Frame [.crew, .wr, .rch, .lk, .ic, .spill, .ev, .out] s y.2 := ?_; ?_; unfold y) | skip)
    | split

theorem readmit_frame (out : Sys2Proof.CalOutcome) (i : Nat) (s : State) :
    Frame [.crew, .wr, .rch, .sv, .lk, .ic, .spill, .ev, .out] s (readmit out i s) := by
  unfold readmit
  repeat' first
    | with_reducible exact Frame.refl _ _
    | with_reducible refine (readmitElem_frame _ _).comp ?_ (by decide)
    | with_reducible refine (readerFresh_frame _ _).comp ?_ (by decide)
    | with_reducible refine (laneUp_frame _ _).comp ?_ (by decide)
    | with_reducible refine (headFound_frame _ _ _).comp ?_ (by decide)
    | with_reducible refine (laneTrain_frame _ _).comp ?_ (by decide)
    | with_reducible refine (setUnitState_frame _ _ _ _).comp ?_ (by decide)
    | with_reducible refine (readerReload_frame _ _).comp ?_ (by decide)
    | with_reducible refine Frame.ite ?_ ?_
    | (extract_lets +onlyGivenNames y; first | (refine have hy : Frame [.crew, .wr, .rch, .sv, .lk, .ic, .spill, .ev, .out] s y := ?_; ?_; unfold y) | (refine have hy : Frame [.crew, .wr, .rch, .sv, .lk, .ic, .spill, .ev, .out] s y.2 := ?_; ?_; unfold y) | skip)
    | split

theorem calRun_frame (c : InFlight) (units : List Nat) (out : Sys2Proof.CalOutcome) (s : State) :
    Frame [.gl, .crew, .hq, .eng, .cy, .vol, .wr, .rch, .rdr, .sm, .sv, .ce, .lk, .sp, .ic, .spill, .ev, .se, .logs, .out, .fresh] s (calRun c units out s) := by
  unfold calRun
  repeat' first
    | with_reducible exact Frame.refl _ _
    | with_reducible assumption
    | with_reducible refine (calProcs_frame _ _ _).comp ?_ (by decide)
    | with_reducible refine (readmit_frame _ _ _).comp ?_ (by decide)
    | with_reducible refine (calLog_frame _).comp ?_ (by decide)
    | with_reducible refine (tapeRest_frame _).comp ?_ (by decide)
    | with_reducible refine (tidy_frame _).comp ?_ (by decide)
    | with_reducible refine (complete_frame _ _ _ _ _ _).comp ?_ (by decide)
    | with_reducible refine (poolPass_frame _).comp ?_ (by decide)
    | with_reducible refine Frame.forEach _ _ ?_ ?_
    | intro _
    | (simp only [Frame.spelled]; (with_reducible apply FrameMk.upd); (with_reducible (intro b hb; cases b <;> first | exact absurd (by decide) hb | (dsimp only [Region.same] <;> rfl) | exact refs_id rfl)); (dsimp only; first | with_reducible exact List.suffix_refl _ | with_reducible exact List.suffix_cons _ _))

theorem eraseResumes_frame (s : State) :
    Frame [.gl, .crew, .hq, .rdr, .ce, .ic] s (eraseResumes s) := by
  unfold eraseResumes
  repeat' first
    | with_reducible exact Frame.refl _ _
    | with_reducible refine (setMode_frame _ _).comp ?_ (by decide)
    | with_reducible refine (setCmd_frame _ _).comp ?_ (by decide)
    | (simp only [Frame.spelled]; (with_reducible apply FrameMk.upd); (with_reducible (intro b hb; cases b <;> first | exact absurd (by decide) hb | (dsimp only [Region.same] <;> rfl) | exact refs_id rfl)); (dsimp only; first | with_reducible exact List.suffix_refl _ | with_reducible exact List.suffix_cons _ _))
    | (extract_lets +onlyGivenNames y; first | (refine have hy : Frame [.gl, .crew, .hq, .rdr, .ce, .ic] s y := ?_; ?_; unfold y) | (refine have hy : Frame [.gl, .crew, .hq, .rdr, .ce, .ic] s y.2 := ?_; ?_; unfold y) | skip)
    | split

theorem holdEnds_frame (s : State) :
    Frame [.gl, .crew, .hq, .rdr, .ce, .ic, .out] s (holdEnds s) := by
  unfold holdEnds
  repeat' first
    | with_reducible exact Frame.refl _ _
    | with_reducible refine (senseFastAll_frame _).comp ?_ (by decide)
    | with_reducible refine (eraseResumes_frame _).comp ?_ (by decide)
    | with_reducible refine (stopArm_frame _ _).comp ?_ (by decide)
    | with_reducible refine (setMode_frame _ _).comp ?_ (by decide)
    | (simp only [Frame.spelled]; (with_reducible apply FrameMk.upd); (with_reducible (intro b hb; cases b <;> first | exact absurd (by decide) hb | (dsimp only [Region.same] <;> rfl) | exact refs_id rfl)); (dsimp only; first | with_reducible exact List.suffix_refl _ | with_reducible exact List.suffix_cons _ _))

end Sys2Proof.Machine
end

