-- ==== Sys2Proof/Laws/FrameSpdm.lean ====
section
/-!
SUPPORT. The frames of the operations of Machine/Spdm.lean: which parts of the state each may change.
-/

namespace Sys2Proof.Machine

theorem spdmFail_frame (c : Sys2Proof.SpdmConn) (code : Nat) (data : Nat) (s : State) :
    Frame [.task, .se, .out] s (spdmFail c code data s) := by
  unfold spdmFail
  repeat' first
    | with_reducible exact Frame.refl _ _
    | with_reducible refine (spdmSend_frame _ _ _).comp ?_ (by decide)

theorem spdmReply_frame (c : Sys2Proof.SpdmConn) (v : Spdm) (resp : List Sys2Proof.Byte) (s : State) :
    Frame [.task, .se, .out] s (spdmReply c v resp s) := by
  unfold spdmReply
  repeat' first
    | with_reducible exact Frame.refl _ _
    | with_reducible refine (spdmSend_frame _ _ _).comp ?_ (by decide)
    | with_reducible refine (setSpdm_frame _ _ _).comp ?_ (by decide)
    | with_reducible refine Frame.ite ?_ ?_

theorem spdmVersion_frame (c : Sys2Proof.SpdmConn) (m : List Sys2Proof.Byte) (s : State) :
    Frame [.task, .se, .out] s (spdmVersion c m s) := by
  unfold spdmVersion
  repeat' first
    | with_reducible exact Frame.refl _ _
    | with_reducible refine (spdmFail_frame _ _ _ _).comp ?_ (by decide)
    | with_reducible refine (spdmReply_frame _ _ _ _).comp ?_ (by decide)
    | with_reducible refine Frame.ite ?_ ?_

theorem spdmCapabilities_frame (c : Sys2Proof.SpdmConn) (m : List Sys2Proof.Byte) (s : State) :
    Frame [.task, .se, .out] s (spdmCapabilities c m s) := by
  unfold spdmCapabilities
  repeat' first
    | with_reducible exact Frame.refl _ _
    | with_reducible refine (spdmFail_frame _ _ _ _).comp ?_ (by decide)
    | with_reducible refine (spdmReply_frame _ _ _ _).comp ?_ (by decide)
    | with_reducible refine Frame.ite ?_ ?_

theorem spdmAlgorithms_frame (c : Sys2Proof.SpdmConn) (m : List Sys2Proof.Byte) (s : State) :
    Frame [.task, .se, .out] s (spdmAlgorithms c m s) := by
  unfold spdmAlgorithms
  repeat' first
    | with_reducible exact Frame.refl _ _
    | with_reducible refine (spdmFail_frame _ _ _ _).comp ?_ (by decide)
    | with_reducible refine (spdmReply_frame _ _ _ _).comp ?_ (by decide)
    | with_reducible refine Frame.ite ?_ ?_

theorem spdmDigests_frame (c : Sys2Proof.SpdmConn) (m : List Sys2Proof.Byte) (s : State) :
    Frame [.task, .se, .out] s (spdmDigests c m s) := by
  unfold spdmDigests
  repeat' first
    | with_reducible exact Frame.refl _ _
    | with_reducible refine (spdmFail_frame _ _ _ _).comp ?_ (by decide)
    | with_reducible refine (spdmReply_frame _ _ _ _).comp ?_ (by decide)
    | with_reducible refine Frame.ite ?_ ?_

theorem spdmCertificate_frame (c : Sys2Proof.SpdmConn) (m : List Sys2Proof.Byte) (s : State) :
    Frame [.task, .se, .out] s (spdmCertificate c m s) := by
  unfold spdmCertificate
  repeat' first
    | with_reducible exact Frame.refl _ _
    | with_reducible refine (spdmFail_frame _ _ _ _).comp ?_ (by decide)
    | with_reducible refine (spdmReply_frame _ _ _ _).comp ?_ (by decide)
    | with_reducible refine Frame.ite ?_ ?_

theorem spdmSign_frame (c : Sys2Proof.SpdmConn) (v : Spdm) (resp : List Sys2Proof.Byte) (toSign : List Sys2Proof.Byte) (s : State) :
    Frame [.task, .se, .out] s (spdmSign c v resp toSign s) := by
  unfold spdmSign
  repeat' first
    | with_reducible exact Frame.refl _ _
    | with_reducible refine (spdmSend_frame _ _ _).comp ?_ (by decide)
    | with_reducible refine (rsaSubmit_frame _ _).comp ?_ (by decide)
    | with_reducible refine (setSpdm_frame _ _ _).comp ?_ (by decide)
    | with_reducible refine Frame.ite ?_ ?_

theorem spdmChallenge_frame (c : Sys2Proof.SpdmConn) (m : List Sys2Proof.Byte) (s : State) :
    Frame [.task, .se, .out, .fresh] s (spdmChallenge c m s) := by
  unfold spdmChallenge
  repeat' first
    | with_reducible exact Frame.refl _ _
    | with_reducible refine (spdmFail_frame _ _ _ _).comp ?_ (by decide)
    | with_reducible refine (drbgBytes_frame _ _).comp ?_ (by decide)
    | with_reducible refine (spdmSign_frame _ _ _ _ _).comp ?_ (by decide)
    | with_reducible refine Frame.ite ?_ ?_

theorem measureNonce_frame (signed : Bool) (s : State) :
    Frame [.fresh] s (measureNonce signed s).2 := by
  unfold measureNonce
  repeat' first
    | with_reducible exact Frame.refl _ _
    | with_reducible refine (drbgBytes_frame _ _).comp ?_ (by decide)
    | with_reducible refine Frame.iteSnd ?_ ?_
    | (simp only [Frame.spelled]; (with_reducible apply FrameMk.upd); (with_reducible (intro b hb; cases b <;> first | exact absurd (by decide) hb | (dsimp only [Region.same] <;> rfl) | exact refs_id rfl)); (dsimp only; first | with_reducible exact List.suffix_refl _ | with_reducible exact List.suffix_cons _ _))

theorem spdmMeasurements_frame (c : Sys2Proof.SpdmConn) (m : List Sys2Proof.Byte) (s : State) :
    Frame [.task, .se, .out, .fresh] s (spdmMeasurements c m s) := by
  unfold spdmMeasurements
  repeat' first
    | with_reducible exact Frame.refl _ _
    | with_reducible refine (spdmFail_frame _ _ _ _).comp ?_ (by decide)
    | with_reducible refine (measureNonce_frame _ _).comp ?_ (by decide)
    | with_reducible refine (spdmSign_frame _ _ _ _ _).comp ?_ (by decide)
    | with_reducible refine (spdmReply_frame _ _ _ _).comp ?_ (by decide)
    | with_reducible refine Frame.ite ?_ ?_

theorem spdmAnswer_frame (c : Sys2Proof.SpdmConn) (m : List Sys2Proof.Byte) (s : State) :
    Frame [.task, .se, .out, .fresh] s (spdmAnswer c m s) := by
  unfold spdmAnswer
  repeat' first
    | with_reducible exact Frame.refl _ _
    | with_reducible refine (spdmFail_frame _ _ _ _).comp ?_ (by decide)
    | with_reducible refine (spdmVersion_frame _ _ _).comp ?_ (by decide)
    | with_reducible refine (spdmCapabilities_frame _ _ _).comp ?_ (by decide)
    | with_reducible refine (spdmAlgorithms_frame _ _ _).comp ?_ (by decide)
    | with_reducible refine (spdmDigests_frame _ _ _).comp ?_ (by decide)
    | with_reducible refine (spdmCertificate_frame _ _ _).comp ?_ (by decide)
    | with_reducible refine (spdmChallenge_frame _ _ _).comp ?_ (by decide)
    | with_reducible refine (spdmMeasurements_frame _ _ _).comp ?_ (by decide)
    | with_reducible refine Frame.ite ?_ ?_

theorem spdmRow_frame (code : Nat) (c : Sys2Proof.SpdmConn) (m : List Sys2Proof.Byte) (s : State) :
    Frame [.task, .se, .out, .fresh] s (spdmRow code c m s) := by
  unfold spdmRow
  repeat' first
    | with_reducible exact Frame.refl _ _
    | with_reducible refine (spdmAnswer_frame _ _ _).comp ?_ (by decide)
    | with_reducible refine Frame.ite ?_ ?_

end Sys2Proof.Machine
end

