-- ==== Sys2Proof/Laws/FrameTaskRegs.lean ====
section
/-!
SUPPORT. The frames of the operations of Machine/TaskRegs.lean: which parts of the state each may change.
-/

namespace Sys2Proof.Machine

theorem takeHold_frame (s : State) :
    Frame [.gl, .crew, .hq, .task, .eng, .cy, .vol, .wr, .rdr, .sm, .sv, .ce, .ic, .spill, .ev, .out] s (takeHold s) := by
  unfold takeHold
  repeat' first
    | with_reducible exact Frame.refl _ _
    | with_reducible refine (senseFastAll_frame _).comp ?_ (by decide)
    | with_reducible refine (holdCause_frame _ _).comp ?_ (by decide)
    | (simp only [Frame.spelled]; (with_reducible apply FrameMk.upd); (with_reducible (intro b hb; cases b <;> first | exact absurd (by decide) hb | (dsimp only [Region.same] <;> rfl) | exact refs_id rfl)); (dsimp only; first | with_reducible exact List.suffix_refl _ | with_reducible exact List.suffix_cons _ _))

theorem setTaskArg_frame (n : Nat) (v : Sys2Proof.Word) (s : State) :
    Frame [.task] s (setTaskArg n v s) := by
  unfold setTaskArg
  repeat' first
    | with_reducible exact Frame.refl _ _
    | (simp only [Frame.spelled]; (with_reducible apply FrameMk.upd); (with_reducible (intro b hb; cases b <;> first | exact absurd (by decide) hb | (dsimp only [Region.same] <;> rfl) | exact refs_id rfl)); (dsimp only; first | with_reducible exact List.suffix_refl _ | with_reducible exact List.suffix_cons _ _))

theorem taskHealth_frame (s : State) :
    Frame [.task] s (taskHealth s) := by
  unfold taskHealth
  repeat' first
    | with_reducible exact Frame.refl _ _
    | with_reducible assumption
    | with_reducible refine (taskEnds_frame _ _ _).comp ?_ (by decide)
    | with_reducible refine (setTaskArg_frame _ _ _).comp ?_ (by decide)
    | with_reducible refine Frame.forEach _ _ ?_ ?_
    | intro _

theorem taskLogRead_frame (s : State) :
    Frame [.task] s (taskLogRead s) := by
  unfold taskLogRead
  repeat' first
    | with_reducible exact Frame.refl _ _
    | with_reducible refine (taskEnds_frame _ _ _).comp ?_ (by decide)
    | with_reducible refine (taskOutput_frame _ _).comp ?_ (by decide)
    | with_reducible refine Frame.ite ?_ ?_

theorem taskLc_frame (s : State) :
    Frame [.gl, .life, .crew, .hq, .task, .eng, .cy, .vol, .wr, .rdr, .sm, .sv, .ce, .ic, .spill, .ev, .se, .out] s (taskLc s) := by
  unfold taskLc
  repeat' first
    | with_reducible exact Frame.refl _ _
    | with_reducible refine (taskEnds_frame _ _ _).comp ?_ (by decide)
    | with_reducible refine (lcArm_frame _ _ _).comp ?_ (by decide)
    | with_reducible refine (lcPerform_frame _ _).comp ?_ (by decide)
    | with_reducible refine (rsaSubmit_frame _ _).comp ?_ (by decide)
    | with_reducible refine Frame.ite ?_ ?_

theorem taskAttest_frame (s : State) :
    Frame [.task, .se, .out, .fresh] s (taskAttest s) := by
  unfold taskAttest
  repeat' first
    | with_reducible exact Frame.refl _ _
    | with_reducible refine (taskEnds_frame _ _ _).comp ?_ (by decide)
    | with_reducible refine (spdmAnswer_frame _ _ _).comp ?_ (by decide)
    | with_reducible refine Frame.ite ?_ ?_

theorem taskQueues_frame (s : State) :
    Frame [.hq, .task, .ic] s (taskQueues s) := by
  unfold taskQueues
  repeat' first
    | with_reducible exact Frame.refl _ _
    | with_reducible assumption
    | with_reducible refine (setHqFn_frame _ _ _).comp ?_ (by decide)
    | with_reducible refine (fnStart_frame _ _).comp ?_ (by decide)
    | with_reducible refine (taskEnds_frame _ _ _).comp ?_ (by decide)
    | with_reducible refine Frame.ite ?_ ?_
    | (extract_lets +onlyGivenNames y; first | (refine have hy : Frame [.hq, .task, .ic] s y := ?_; ?_; unfold y) | (refine have hy : Frame [.hq, .task, .ic] s y.2 := ?_; ?_; unfold y) | skip)
    | split

theorem taskReset_frame (s : State) :
    Frame [.gl, .crew, .hq, .task, .eng, .cy, .vol, .wr, .rdr, .sm, .sv, .ce, .ic, .spill, .ev, .out] s (taskReset s) := by
  unfold taskReset
  repeat' first
    | with_reducible exact Frame.refl _ _
    | with_reducible refine (requestReset_frame _ _).comp ?_ (by decide)
    | with_reducible refine (taskEnds_frame _ _ _).comp ?_ (by decide)
    | with_reducible refine Frame.ite ?_ ?_

theorem taskRun_frame (op : Nat) (s : State) :
    Frame [.gl, .life, .crew, .hq, .task, .eng, .cy, .vol, .wr, .rdr, .sm, .sv, .ce, .ic, .spill, .ev, .se, .out, .fresh] s (taskRun op s) := by
  unfold taskRun
  repeat' first
    | with_reducible exact Frame.refl _ _
    | with_reducible refine (taskHealth_frame _).comp ?_ (by decide)
    | with_reducible refine (taskLogRead_frame _).comp ?_ (by decide)
    | with_reducible refine (taskLc_frame _).comp ?_ (by decide)
    | with_reducible refine (taskAttest_frame _).comp ?_ (by decide)
    | with_reducible refine (taskQueues_frame _).comp ?_ (by decide)
    | with_reducible refine (taskEnds_frame _ _ _).comp ?_ (by decide)
    | with_reducible refine (takeHold_frame _).comp ?_ (by decide)
    | with_reducible refine (taskReset_frame _).comp ?_ (by decide)
    | split

theorem taskGo_frame (op : Nat) (s : State) :
    Frame [.gl, .life, .crew, .hq, .task, .eng, .cy, .vol, .wr, .rdr, .sm, .sv, .ce, .ic, .spill, .ev, .se, .out, .fresh] s (taskGo op s) := by
  unfold taskGo
  repeat' first
    | with_reducible exact Frame.refl _ _
    | with_reducible refine (taskEnds_frame _ _ _).comp ?_ (by decide)
    | with_reducible refine (taskRun_frame _ _).comp ?_ (by decide)
    | with_reducible refine Frame.ite ?_ ?_
    | (simp only [Frame.spelled]; (with_reducible apply FrameMk.upd); (with_reducible (intro b hb; cases b <;> first | exact absurd (by decide) hb | (dsimp only [Region.same] <;> rfl) | exact refs_id rfl)); (dsimp only; first | with_reducible exact List.suffix_refl _ | with_reducible exact List.suffix_cons _ _))

theorem taskCommand_frame (op : Nat) (src : Sys2Proof.BusSource) (s : State) :
    Frame [.gl, .life, .crew, .hq, .task, .eng, .cy, .vol, .wr, .rdr, .sm, .sv, .ce, .ic, .spill, .ev, .se, .out, .fresh] s (taskCommand op src s) := by
  unfold taskCommand
  repeat' first
    | with_reducible exact Frame.refl _ _
    | with_reducible refine (takeHold_frame _).comp ?_ (by decide)
    | with_reducible refine (taskGo_frame _ _).comp ?_ (by decide)
    | with_reducible refine Frame.ite ?_ ?_
    | (simp only [Frame.spelled]; (with_reducible apply FrameMk.upd); (with_reducible (intro b hb; cases b <;> first | exact absurd (by decide) hb | (dsimp only [Region.same] <;> rfl) | exact refs_id rfl)); (dsimp only; first | with_reducible exact List.suffix_refl _ | with_reducible exact List.suffix_cons _ _))

theorem taskWrite_frame (src : Sys2Proof.BusSource) (o : Nat) (v : Sys2Proof.Word) (s : State) :
    Frame [.gl, .life, .crew, .hq, .task, .eng, .cy, .vol, .wr, .rdr, .sm, .sv, .ce, .ic, .spill, .ev, .se, .out, .fresh] s (taskWrite src o v s) := by
  unfold taskWrite
  repeat' first
    | with_reducible exact Frame.refl _ _
    | with_reducible refine (taskCommand_frame _ _ _).comp ?_ (by decide)
    | with_reducible refine (setTaskArg_frame _ _ _).comp ?_ (by decide)
    | with_reducible refine Frame.ite ?_ ?_
    | (simp only [Frame.spelled]; (with_reducible apply FrameMk.upd); (with_reducible (intro b hb; cases b <;> first | exact absurd (by decide) hb | (dsimp only [Region.same] <;> rfl) | exact refs_id rfl)); (dsimp only; first | with_reducible exact List.suffix_refl _ | with_reducible exact List.suffix_cons _ _))

theorem boardTake_frame (src : Sys2Proof.BusSource) (bytes : List Sys2Proof.Byte) (s : State) :
    Frame [.gl, .life, .crew, .hq, .task, .eng, .cy, .vol, .wr, .rdr, .sm, .sv, .ce, .ic, .spill, .ev, .se, .out, .fresh] s (boardTake src bytes s) := by
  unfold boardTake
  repeat' first
    | with_reducible exact Frame.refl _ _
    | with_reducible assumption
    | with_reducible refine (taskWrite_frame _ _ _ _).comp ?_ (by decide)
    | with_reducible refine Frame.forEach _ _ ?_ ?_
    | with_reducible refine Frame.ite ?_ ?_
    | intro _

theorem taskResume_frame (s : State) :
    Frame [.gl, .life, .crew, .hq, .task, .eng, .cy, .vol, .wr, .rdr, .sm, .sv, .ce, .ic, .spill, .ev, .se, .out, .fresh] s (taskResume s) := by
  unfold taskResume
  repeat' first
    | with_reducible exact Frame.refl _ _
    | with_reducible refine (taskRun_frame _ _).comp ?_ (by decide)
    | with_reducible refine Frame.ite ?_ ?_
    | (simp only [Frame.spelled]; (with_reducible apply FrameMk.upd); (with_reducible (intro b hb; cases b <;> first | exact absurd (by decide) hb | (dsimp only [Region.same] <;> rfl) | exact refs_id rfl)); (dsimp only; first | with_reducible exact List.suffix_refl _ | with_reducible exact List.suffix_cons _ _))

end Sys2Proof.Machine
end

