-- ==== Sys2Proof/Laws/FrameMemory.lean ====
section
/-!
SUPPORT. The frames of the operations of Machine/Memory.lean: which parts of the state each may change.
-/

namespace Sys2Proof.Machine

theorem dropItems_frame (q : Nat) (idx : List Nat) (s : State) :
    Frame [.spill] s (dropItems q idx s) := by
  unfold dropItems
  repeat' first
    | with_reducible exact Frame.refl _ _
    | with_reducible refine (setSpill_frame _ _ _).comp ?_ (by decide)

theorem logEntry_frame (e : Sys2Proof.DWord × Sys2Proof.DWord) (s : State) :
    Frame [.mi] s (logEntry e s) := by
  unfold logEntry
  repeat' first
    | with_reducible exact Frame.refl _ _
    | (simp only [Frame.spelled]; (with_reducible apply FrameMk.upd); (with_reducible (intro b hb; cases b <;> first | exact absurd (by decide) hb | (dsimp only [Region.same] <;> rfl) | exact refs_id rfl)); (dsimp only; first | with_reducible exact List.suffix_refl _ | with_reducible exact List.suffix_cons _ _))

theorem fetchFinding_frame (f : Sys2Proof.FetchFault) (s : State) :
    Frame [.spill, .ev, .mi, .out] s (fetchFinding f s) := by
  unfold fetchFinding
  repeat' first
    | with_reducible exact Frame.refl _ _
    | with_reducible refine (logEntry_frame _ _).comp ?_ (by decide)
    | with_reducible refine (event_frame _ _ _ _ _).comp ?_ (by decide)
    | with_reducible refine Frame.ite ?_ ?_
    | (simp only [Frame.spelled]; (with_reducible apply FrameMk.upd); (with_reducible (intro b hb; cases b <;> first | exact absurd (by decide) hb | (dsimp only [Region.same] <;> rfl) | exact refs_id rfl)); (dsimp only; first | with_reducible exact List.suffix_refl _ | with_reducible exact List.suffix_cons _ _))

theorem setInject_frame (c : Nat) (v : Inject) (s : State) :
    Frame [.mi] s (setInject c v s) := by
  unfold setInject
  repeat' first
    | with_reducible exact Frame.refl _ _
    | (simp only [Frame.spelled]; (with_reducible apply FrameMk.upd); (with_reducible (intro b hb; cases b <;> first | exact absurd (by decide) hb | (dsimp only [Region.same] <;> rfl) | exact refs_id rfl)); (dsimp only; first | with_reducible exact List.suffix_refl _ | with_reducible exact List.suffix_cons _ _))

theorem flipAddr_frame (c : Nat) (high : Bool) (value : Nat) (s : State) :
    Frame [.mi] s (flipAddr c high value s) := by
  unfold flipAddr
  repeat' first
    | with_reducible exact Frame.refl _ _
    | with_reducible refine (setInject_frame _ _ _).comp ?_ (by decide)

theorem functionFault_frame (f : Sys2Proof.Fn) (ref : Option CmdRef) (s : State) :
    Frame [.hq, .eng, .cy, .vol, .rdr, .sm, .ic, .mi, .out] s (functionFault f ref s) := by
  unfold functionFault
  repeat' first
    | with_reducible exact Frame.refl _ _
    | with_reducible assumption
    | with_reducible refine (failCmd_frame _ _ _).comp ?_ (by decide)
    | (simp only [Frame.spelled]; (with_reducible apply FrameMk.upd); (with_reducible (intro b hb; cases b <;> first | exact absurd (by decide) hb | (dsimp only [Region.same] <;> rfl) | exact refs_id rfl)); (dsimp only; first | with_reducible exact List.suffix_refl _ | with_reducible exact List.suffix_cons _ _))
    | (extract_lets +onlyGivenNames y; first | (refine have hy : Frame [.hq, .eng, .cy, .vol, .rdr, .sm, .ic, .mi, .out] s y := ?_; ?_; unfold y) | (refine have hy : Frame [.hq, .eng, .cy, .vol, .rdr, .sm, .ic, .mi, .out] s y.2 := ?_; ?_; unfold y) | skip)
    | split

theorem setUnitBits_frame (c : Nat) (a : Nat) (w : BitVec 288) (s : State) :
    Frame [.units] s (setUnitBits c a w s) := by
  unfold setUnitBits
  repeat' first
    | with_reducible exact Frame.refl _ _
    | (simp only [Frame.spelled]; (with_reducible apply FrameMk.upd); (with_reducible (intro b hb; cases b <;> first | exact absurd (by decide) hb | (dsimp only [Region.same] <;> rfl) | exact refs_id rfl)); (dsimp only; first | with_reducible exact List.suffix_refl _ | with_reducible exact List.suffix_cons _ _))

theorem storeUnit_frame (c : Nat) (a : Nat) (w : BitVec 288) (s : State) :
    Frame [.mi, .units] s (storeUnit c a w s) := by
  unfold storeUnit
  repeat' first
    | with_reducible exact Frame.refl _ _
    | with_reducible refine (setInject_frame _ _ _).comp ?_ (by decide)
    | with_reducible refine (setUnitBits_frame _ _ _ _).comp ?_ (by decide)
    | with_reducible refine Frame.ite ?_ ?_
    | (simp only [Frame.spelled]; (with_reducible apply FrameMk.upd); (with_reducible (intro b hb; cases b <;> first | exact absurd (by decide) hb | (dsimp only [Region.same] <;> rfl) | exact refs_id rfl)); (dsimp only; first | with_reducible exact List.suffix_refl _ | with_reducible exact List.suffix_cons _ _))

theorem loseStaged_frame (a : Nat) (s : State) :
    Frame [.hq, .vol, .spill, .ev, .out] s (loseStaged a s) := by
  unfold loseStaged
  repeat' first
    | with_reducible exact Frame.refl _ _
    | with_reducible assumption
    | with_reducible refine (addLosses_frame _ _ _ _).comp ?_ (by decide)
    | with_reducible refine (setPart_frame _ _ _).comp ?_ (by decide)
    | with_reducible refine Frame.forEach _ _ ?_ ?_
    | with_reducible refine Frame.ite ?_ ?_
    | intro _

theorem unitHurt_frame (i : Nat) (remapped : Bool) (s : State) :
    Frame [.crew, .eng, .cy, .wr, .rch, .sv, .lk, .ic, .spill, .ev, .out] s (unitHurt i remapped s) := by
  unfold unitHurt
  repeat' first
    | with_reducible exact Frame.refl _ _
    | with_reducible assumption
    | with_reducible refine (frameBack_frame _ _).comp ?_ (by decide)
    | with_reducible refine (runAgain_frame _ _).comp ?_ (by decide)
    | with_reducible refine (recordAgain_frame _ _).comp ?_ (by decide)
    | with_reducible refine (benchUnit_frame _ _ _).comp ?_ (by decide)
    | with_reducible refine Frame.ite ?_ ?_
    | (simp only [Frame.spelled]; (with_reducible apply FrameMk.upd); (with_reducible (intro b hb; cases b <;> first | exact absurd (by decide) hb | (dsimp only [Region.same] <;> rfl) | exact refs_id rfl)); (dsimp only; first | with_reducible exact List.suffix_refl _ | with_reducible exact List.suffix_cons _ _))
    | (extract_lets +onlyGivenNames y; first | (refine have hy : Frame [.crew, .eng, .cy, .wr, .rch, .sv, .lk, .ic, .spill, .ev, .out] s y := ?_; ?_; unfold y) | (refine have hy : Frame [.crew, .eng, .cy, .wr, .rch, .sv, .lk, .ic, .spill, .ev, .out] s y.2 := ?_; ?_; unfold y) | skip)
    | split

theorem ownerAction_frame (c : Nat) (a : Nat) (owner : Nat) (u : Sys2Proof.UnitUse) (remapped : Bool) (s : State) :
    Frame [.crew, .hq, .eng, .cy, .vol, .wr, .rch, .rdr, .sm, .sv, .lk, .ic, .spill, .ev, .mi, .units, .se, .out] s (ownerAction c a owner u remapped s) := by
  unfold ownerAction
  repeat' first
    | with_reducible exact Frame.refl _ _
    | with_reducible refine (storeUnit_frame _ _ _ _).comp ?_ (by decide)
    | with_reducible refine (loseStaged_frame _ _).comp ?_ (by decide)
    | with_reducible refine (failCmd_frame _ _ _).comp ?_ (by decide)
    | with_reducible refine (functionFault_frame _ _ _).comp ?_ (by decide)
    | with_reducible refine (dropItems_frame _ _ _).comp ?_ (by decide)
    | with_reducible refine (slotErase_frame _ _).comp ?_ (by decide)
    | with_reducible refine (setKek_frame _ _ _).comp ?_ (by decide)
    | with_reducible refine (unitHurt_frame _ _ _).comp ?_ (by decide)
    | with_reducible refine (setHeadEntry_frame _ _ _ _).comp ?_ (by decide)
    | (simp only [Frame.spelled]; (with_reducible apply FrameMk.upd); (with_reducible (intro b hb; cases b <;> first | exact absurd (by decide) hb | (dsimp only [Region.same] <;> rfl) | exact refs_id rfl)); (dsimp only; first | with_reducible exact List.suffix_refl _ | with_reducible exact List.suffix_cons _ _))
    | (extract_lets +onlyGivenNames y; first | (refine have hy : Frame [.crew, .hq, .eng, .cy, .vol, .wr, .rch, .rdr, .sm, .sv, .lk, .ic, .spill, .ev, .mi, .units, .se, .out] s y := ?_; ?_; unfold y) | (refine have hy : Frame [.crew, .hq, .eng, .cy, .vol, .wr, .rch, .rdr, .sm, .sv, .lk, .ic, .spill, .ev, .mi, .units, .se, .out] s y.2 := ?_; ?_; unfold y) | skip)
    | split

theorem handleOwner_frame (c : Nat) (a : Nat) (owner : Nat) (u : Sys2Proof.UnitUse) (remapped : Bool) (e : Sys2Proof.DWord × Sys2Proof.DWord) (s : State) :
    Frame [.crew, .hq, .eng, .cy, .vol, .wr, .rch, .rdr, .sm, .sv, .lk, .ic, .spill, .ev, .mi, .units, .se, .out] s (handleOwner c a owner u remapped e s) := by
  unfold handleOwner
  repeat' first
    | with_reducible exact Frame.refl _ _
    | with_reducible refine (event_frame _ _ _ _ _).comp ?_ (by decide)
    | with_reducible refine (ownerAction_frame _ _ _ _ _ _).comp ?_ (by decide)
    | with_reducible refine Frame.ite ?_ ?_
    | (simp only [Frame.spelled]; (with_reducible apply FrameMk.upd); (with_reducible (intro b hb; cases b <;> first | exact absurd (by decide) hb | (dsimp only [Region.same] <;> rfl) | exact refs_id rfl)); (dsimp only; first | with_reducible exact List.suffix_refl _ | with_reducible exact List.suffix_cons _ _))

theorem remap_frame (c : Nat) (a : Nat) (owner : Nat) (flags : Nat) (bank : BitVec 6) (s : State) :
    Frame [.mi, .units] s (remap c a owner flags bank s) := by
  unfold remap
  repeat' first
    | with_reducible exact Frame.refl _ _
    | with_reducible assumption
    | with_reducible refine (logEntry_frame _ _).comp ?_ (by decide)
    | with_reducible refine (storeUnit_frame _ _ _ _).comp ?_ (by decide)
    | with_reducible refine Frame.forEach _ _ ?_ ?_
    | with_reducible refine Frame.ite ?_ ?_
    | intro _
    | (simp only [Frame.spelled]; (with_reducible apply FrameMk.upd); (with_reducible (intro b hb; cases b <;> first | exact absurd (by decide) hb | (dsimp only [Region.same] <;> rfl) | exact refs_id rfl)); (dsimp only; first | with_reducible exact List.suffix_refl _ | with_reducible exact List.suffix_cons _ _))

theorem scrubCorrected_frame (c : Nat) (a : Nat) (detail : Nat) (fixed : BitVec 288) (obs : Sys2Proof.ScrubObs) (s : State) :
    Frame [.mi, .units] s (scrubCorrected c a detail fixed obs s) := by
  unfold scrubCorrected
  repeat' first
    | with_reducible exact Frame.refl _ _
    | with_reducible refine (logEntry_frame _ _).comp ?_ (by decide)
    | with_reducible refine (storeUnit_frame _ _ _ _).comp ?_ (by decide)
    | with_reducible refine (remap_frame _ _ _ _ _ _).comp ?_ (by decide)
    | with_reducible refine Frame.ite ?_ ?_
    | (simp only [Frame.spelled]; (with_reducible apply FrameMk.upd); (with_reducible (intro b hb; cases b <;> first | exact absurd (by decide) hb | (dsimp only [Region.same] <;> rfl) | exact refs_id rfl)); (dsimp only; first | with_reducible exact List.suffix_refl _ | with_reducible exact List.suffix_cons _ _))

theorem scrubMoves_frame (c : Nat) (a : Nat) (next : Option Nat) (s : State) :
    Frame [.ic, .mi] s (scrubMoves c a next s) := by
  unfold scrubMoves
  dsimp only
  repeat' first
    | with_reducible exact Frame.refl _ _
    | with_reducible refine (pulseInternal_frame _ _).comp ?_ (by decide)
    | with_reducible refine Frame.ite ?_ ?_
    | (simp only [Frame.spelled]; (with_reducible apply FrameMk.upd); (with_reducible (intro b hb; cases b <;> first | exact absurd (by decide) hb | (dsimp only [Region.same] <;> rfl) | exact refs_id rfl)); (dsimp only; first | with_reducible exact List.suffix_refl _ | with_reducible exact List.suffix_cons _ _))
    | split

theorem scrubPoisoned_frame (c : Nat) (a : Nat) (obs : Sys2Proof.ScrubObs) (s : State) :
    Frame [.crew, .hq, .eng, .cy, .vol, .wr, .rch, .rdr, .sm, .sv, .lk, .ic, .spill, .ev, .mi, .units, .se, .out] s (scrubPoisoned c a obs s) := by
  unfold scrubPoisoned
  repeat' first
    | with_reducible exact Frame.refl _ _
    | with_reducible refine (logEntry_frame _ _).comp ?_ (by decide)
    | with_reducible refine (handleOwner_frame _ _ _ _ _ _ _).comp ?_ (by decide)
    | (simp only [Frame.spelled]; (with_reducible apply FrameMk.upd); (with_reducible (intro b hb; cases b <;> first | exact absurd (by decide) hb | (dsimp only [Region.same] <;> rfl) | exact refs_id rfl)); (dsimp only; first | with_reducible exact List.suffix_refl _ | with_reducible exact List.suffix_cons _ _))

theorem scrubUncorrectable_frame (c : Nat) (a : Nat) (w : BitVec 288) (obs : Sys2Proof.ScrubObs) (s : State) :
    Frame [.crew, .hq, .eng, .cy, .vol, .wr, .rch, .rdr, .sm, .sv, .lk, .ic, .spill, .ev, .mi, .units, .se, .out] s (scrubUncorrectable c a w obs s) := by
  unfold scrubUncorrectable
  dsimp only
  repeat' first
    | with_reducible exact Frame.refl _ _
    | with_reducible refine (logEntry_frame _ _).comp ?_ (by decide)
    | with_reducible refine (storeUnit_frame _ _ _ _).comp ?_ (by decide)
    | with_reducible refine (remap_frame _ _ _ _ _ _).comp ?_ (by decide)
    | with_reducible refine (handleOwner_frame _ _ _ _ _ _ _).comp ?_ (by decide)
    | with_reducible refine Frame.ite ?_ ?_
    | (simp only [Frame.spelled]; (with_reducible apply FrameMk.upd); (with_reducible (intro b hb; cases b <;> first | exact absurd (by decide) hb | (dsimp only [Region.same] <;> rfl) | exact refs_id rfl)); (dsimp only; first | with_reducible exact List.suffix_refl _ | with_reducible exact List.suffix_cons _ _))
    | split

end Sys2Proof.Machine
end

