-- ==== Sys2Proof/Laws/FrameRegisters.lean ====
section
/-!
SUPPORT. The frames of the operations of Machine/Registers.lean: which parts of the state each may change.
-/

namespace Sys2Proof.Machine

theorem apertureRead_frame (s : State) (o : Nat) :
    Frame [.ce, .ic] s (apertureRead s o).2 := by
  unfold apertureRead
  repeat' first
    | with_reducible exact Frame.refl _ _
    | with_reducible refine (senseFast_frame _ _).comp ?_ (by decide)
    | with_reducible refine (setSlot_frame _ _ _).comp ?_ (by decide)
    | with_reducible refine (rcData_frame _ _ _).comp ?_ (by decide)
    | (extract_lets +onlyGivenNames y; first | (refine have hy : Frame [.ce, .ic] s y := ?_; ?_; unfold y) | (refine have hy : Frame [.ce, .ic] s y.2 := ?_; ?_; unfold y) | skip)
    | split

theorem apertureWrite_frame (o : Nat) (v : Sys2Proof.Word) (s : State) :
    Frame [.ce, .ic] s (apertureWrite o v s) := by
  unfold apertureWrite
  repeat' first
    | with_reducible exact Frame.refl _ _
    | with_reducible refine (slotCtlWrite_frame _ _ _).comp ?_ (by decide)
    | with_reducible refine (rcData_frame _ _ _).comp ?_ (by decide)
    | with_reducible refine (slotRegWrite_frame _ _ _ _).comp ?_ (by decide)
    | split

theorem azkTaken_frame (b : Nat) (s : State) :
    Frame [.sv] s (azkTaken b s) := by
  unfold azkTaken
  repeat' first
    | with_reducible exact Frame.refl _ _
    | with_reducible assumption
    | with_reducible refine (setServoRd_frame _ _ _).comp ?_ (by decide)
    | with_reducible refine Frame.forEach _ _ ?_ ?_
    | intro _

theorem glRead_frame (s : State) (o : Nat) :
    Frame [.gl, .crew] s (glRead s o).2 := by
  unfold glRead
  repeat' first
    | with_reducible exact Frame.refl _ _
    | with_reducible refine Frame.iteSnd ?_ ?_
    | (simp only [Frame.spelled]; (with_reducible apply FrameMk.upd); (with_reducible (intro b hb; cases b <;> first | exact absurd (by decide) hb | (dsimp only [Region.same] <;> rfl) | exact refs_id rfl)); (dsimp only; first | with_reducible exact List.suffix_refl _ | with_reducible exact List.suffix_cons _ _))

theorem icRead_frame (f : Sys2Proof.Fn) (s : State) (o : Nat) :
    Frame [.ic] s (icRead f s o).2 := by
  unfold icRead
  repeat' first
    | with_reducible exact Frame.refl _ _
    | with_reducible refine (lookWord_frame _ _ _).comp ?_ (by decide)
    | with_reducible refine (setSrc_frame _ _ _ _).comp ?_ (by decide)
    | with_reducible refine Frame.ite ?_ ?_
    | with_reducible refine Frame.iteSnd ?_ ?_

theorem hqRead_frame (f : Sys2Proof.Fn) (s : State) (o : Nat) :
    Frame [.hq] s (hqRead f s o).2 := by
  unfold hqRead
  repeat' first
    | with_reducible exact Frame.refl _ _
    | with_reducible refine (setHqFn_frame _ _ _).comp ?_ (by decide)
    | with_reducible refine Frame.iteSnd ?_ ?_

theorem spillRead_frame (q : Nat) (s : State) (o : Nat) :
    Frame [.spill] s (spillRead q s o).2 := by
  unfold spillRead
  repeat' first
    | with_reducible exact Frame.refl _ _
    | with_reducible refine (setSpill_frame _ _ _).comp ?_ (by decide)
    | (extract_lets +onlyGivenNames y; first | (refine have hy : Frame [.spill] s y := ?_; ?_; unfold y) | (refine have hy : Frame [.spill] s y.2 := ?_; ?_; unfold y) | skip)
    | split

theorem fastRead_frame (s : State) (o : Nat) :
    Frame [.ic] s (fastRead s o).2 := by
  unfold fastRead
  repeat' first
    | with_reducible exact Frame.refl _ _
    | with_reducible refine (setFast_frame _ _ _).comp ?_ (by decide)
    | with_reducible refine (lookFast_frame _).comp ?_ (by decide)
    | with_reducible refine Frame.iteSnd ?_ ?_
    | (extract_lets +onlyGivenNames y; first | (refine have hy : Frame [.ic] s y := ?_; ?_; unfold y) | (refine have hy : Frame [.ic] s y.2 := ?_; ?_; unfold y) | skip)
    | split

theorem miRead_frame (s : State) (o : Nat) :
    Frame [.mi] s (miRead s o).2 := by
  unfold miRead
  repeat' first
    | with_reducible exact Frame.refl _ _
    | with_reducible refine Frame.iteSnd ?_ ?_
    | (simp only [Frame.spelled]; (with_reducible apply FrameMk.upd); (with_reducible (intro b hb; cases b <;> first | exact absurd (by decide) hb | (dsimp only [Region.same] <;> rfl) | exact refs_id rfl)); (dsimp only; first | with_reducible exact List.suffix_refl _ | with_reducible exact List.suffix_cons _ _))

theorem ceRead_frame (s : State) (o : Nat) :
    Frame [.ce] s (ceRead s o).2 := by
  unfold ceRead
  repeat' first
    | with_reducible exact Frame.refl _ _
    | with_reducible refine Frame.iteSnd ?_ ?_
    | (simp only [Frame.spelled]; (with_reducible apply FrameMk.upd); (with_reducible (intro b hb; cases b <;> first | exact absurd (by decide) hb | (dsimp only [Region.same] <;> rfl) | exact refs_id rfl)); (dsimp only; first | with_reducible exact List.suffix_refl _ | with_reducible exact List.suffix_cons _ _))
    | (extract_lets +onlyGivenNames y; first | (refine have hy : Frame [.ce] s y := ?_; ?_; unfold y) | (refine have hy : Frame [.ce] s y.2 := ?_; ?_; unfold y) | skip)
    | split

theorem readerRead_frame (s : State) (n : Nat) (r : Nat) :
    Frame [.sv] s (readerRead s n r).2 := by
  unfold readerRead
  repeat' first
    | with_reducible exact Frame.refl _ _
    | with_reducible refine (setServoRd_frame _ _ _).comp ?_ (by decide)
    | with_reducible refine Frame.iteSnd ?_ ?_

theorem svRead_frame (s : State) (o : Nat) :
    Frame [.sv] s (svRead s o).2 := by
  unfold svRead
  repeat' first
    | with_reducible exact Frame.refl _ _
    | with_reducible refine (readerRead_frame _ _ _).comp ?_ (by decide)
    | with_reducible refine Frame.iteSnd ?_ ?_
    | (simp only [Frame.spelled]; (with_reducible apply FrameMk.upd); (with_reducible (intro b hb; cases b <;> first | exact absurd (by decide) hb | (dsimp only [Region.same] <;> rfl) | exact refs_id rfl)); (dsimp only; first | with_reducible exact List.suffix_refl _ | with_reducible exact List.suffix_cons _ _))
    | (extract_lets +onlyGivenNames y; first | (refine have hy : Frame [.sv] s y := ?_; ?_; unfold y) | (refine have hy : Frame [.sv] s y.2 := ?_; ?_; unfold y) | skip)
    | split

theorem laneRead_frame (s : State) (l : Nat) (r : Nat) :
    Frame [.lk] s (laneRead s l r).2 := by
  unfold laneRead
  repeat' first
    | with_reducible exact Frame.refl _ _
    | with_reducible refine (setLane_frame _ _ _).comp ?_ (by decide)
    | (extract_lets +onlyGivenNames y; first | (refine have hy : Frame [.lk] s y := ?_; ?_; unfold y) | (refine have hy : Frame [.lk] s y.2 := ?_; ?_; unfold y) | skip)
    | split

theorem lkRead_frame (s : State) (o : Nat) :
    Frame [.lk] s (lkRead s o).2 := by
  unfold lkRead
  repeat' first
    | with_reducible exact Frame.refl _ _
    | with_reducible refine (laneRead_frame _ _ _).comp ?_ (by decide)
    | with_reducible refine Frame.iteSnd ?_ ?_

theorem spRead_frame (s : State) (o : Nat) :
    Frame [.sp] s (spRead s o).2 := by
  unfold spRead
  repeat' first
    | with_reducible exact Frame.refl _ _
    | with_reducible refine Frame.iteSnd ?_ ?_
    | (simp only [Frame.spelled]; (with_reducible apply FrameMk.upd); (with_reducible (intro b hb; cases b <;> first | exact absurd (by decide) hb | (dsimp only [Region.same] <;> rfl) | exact refs_id rfl)); (dsimp only; first | with_reducible exact List.suffix_refl _ | with_reducible exact List.suffix_cons _ _))
    | (extract_lets +onlyGivenNames y; first | (refine have hy : Frame [.sp] s y := ?_; ?_; unfold y) | (refine have hy : Frame [.sp] s y.2 := ?_; ?_; unfold y) | skip)
    | split

theorem cyRead_frame (f : Sys2Proof.Fn) (s : State) (o : Nat) :
    Frame [.cy] s (cyRead f s o).2 := by
  unfold cyRead
  repeat' first
    | with_reducible exact Frame.refl _ _
    | with_reducible refine Frame.iteSnd ?_ ?_
    | (simp only [Frame.spelled]; (with_reducible apply FrameMk.upd); (with_reducible (intro b hb; cases b <;> first | exact absurd (by decide) hb | (dsimp only [Region.same] <;> rfl) | exact refs_id rfl)); (dsimp only; first | with_reducible exact List.suffix_refl _ | with_reducible exact List.suffix_cons _ _))
    | (extract_lets +onlyGivenNames y; first | (refine have hy : Frame [.cy] s y := ?_; ?_; unfold y) | (refine have hy : Frame [.cy] s y.2 := ?_; ?_; unfold y) | skip)
    | split

theorem fmRead_frame (s : State) (o : Nat) :
    Frame [.fm, .rch, .sm] s (fmRead s o).2 := by
  unfold fmRead
  dsimp only
  repeat' first
    | with_reducible exact Frame.refl _ _
    | with_reducible refine Frame.iteSnd ?_ ?_
    | (simp only [Frame.spelled]; (with_reducible apply FrameMk.upd); (with_reducible (intro b hb; cases b <;> first | exact absurd (by decide) hb | (dsimp only [Region.same] <;> rfl) | exact refs_id rfl)); (dsimp only; first | with_reducible exact List.suffix_refl _ | with_reducible exact List.suffix_cons _ _))
    | (extract_lets +onlyGivenNames y; first | (refine have hy : Frame [.fm, .rch, .sm] s y := ?_; ?_; unfold y) | (refine have hy : Frame [.fm, .rch, .sm] s y.2 := ?_; ?_; unfold y) | skip)
    | split

theorem tkRead_frame (s : State) (o : Nat) :
    Frame [.task] s (tkRead s o).2 := by
  unfold tkRead
  repeat' first
    | with_reducible exact Frame.refl _ _
    | with_reducible refine Frame.iteSnd ?_ ?_
    | (simp only [Frame.spelled]; (with_reducible apply FrameMk.upd); (with_reducible (intro b hb; cases b <;> first | exact absurd (by decide) hb | (dsimp only [Region.same] <;> rfl) | exact refs_id rfl)); (dsimp only; first | with_reducible exact List.suffix_refl _ | with_reducible exact List.suffix_cons _ _))
    | (extract_lets +onlyGivenNames y; first | (refine have hy : Frame [.task] s y := ?_; ?_; unfold y) | (refine have hy : Frame [.task] s y.2 := ?_; ?_; unfold y) | skip)
    | split

theorem seRead_frame (s : State) (o : Nat) :
    Frame [.se] s (seRead s o).2 := by
  unfold seRead
  repeat' first
    | with_reducible exact Frame.refl _ _
    | with_reducible refine Frame.iteSnd ?_ ?_
    | (simp only [Frame.spelled]; (with_reducible apply FrameMk.upd); (with_reducible (intro b hb; cases b <;> first | exact absurd (by decide) hb | (dsimp only [Region.same] <;> rfl) | exact refs_id rfl)); (dsimp only; first | with_reducible exact List.suffix_refl _ | with_reducible exact List.suffix_cons _ _))
    | (extract_lets +onlyGivenNames y; first | (refine have hy : Frame [.se] s y := ?_; ?_; unfold y) | (refine have hy : Frame [.se] s y.2 := ?_; ?_; unfold y) | skip)
    | split

theorem pfRead_frame (s : State) (o : Nat) :
    Frame [.gl, .crew, .hq, .task, .cy, .fm, .rch, .sm, .sv, .ce, .lk, .sp, .ic, .spill, .mi, .se] s (pfRead s o).2 := by
  unfold pfRead
  repeat' first
    | with_reducible exact Frame.refl _ _
    | with_reducible refine (glRead_frame _ _).comp ?_ (by decide)
    | with_reducible refine (icRead_frame _ _ _).comp ?_ (by decide)
    | with_reducible refine (hqRead_frame _ _ _).comp ?_ (by decide)
    | with_reducible refine (spillRead_frame _ _ _).comp ?_ (by decide)
    | with_reducible refine (fastRead_frame _ _).comp ?_ (by decide)
    | with_reducible refine (miRead_frame _ _).comp ?_ (by decide)
    | with_reducible refine (ceRead_frame _ _).comp ?_ (by decide)
    | with_reducible refine (apertureRead_frame _ _).comp ?_ (by decide)
    | with_reducible refine (svRead_frame _ _).comp ?_ (by decide)
    | with_reducible refine (lkRead_frame _ _).comp ?_ (by decide)
    | with_reducible refine (spRead_frame _ _).comp ?_ (by decide)
    | with_reducible refine (cyRead_frame _ _ _).comp ?_ (by decide)
    | with_reducible refine (fmRead_frame _ _).comp ?_ (by decide)
    | with_reducible refine (tkRead_frame _ _).comp ?_ (by decide)
    | with_reducible refine (seRead_frame _ _).comp ?_ (by decide)
    | with_reducible refine Frame.iteSnd ?_ ?_

theorem vfRead_frame (f : Sys2Proof.Fn) (s : State) (o : Nat) :
    Frame [.hq, .cy, .ic, .spill] s (vfRead f s o).2 := by
  unfold vfRead
  repeat' first
    | with_reducible exact Frame.refl _ _
    | with_reducible refine (icRead_frame _ _ _).comp ?_ (by decide)
    | with_reducible refine (hqRead_frame _ _ _).comp ?_ (by decide)
    | with_reducible refine (cyRead_frame _ _ _).comp ?_ (by decide)
    | with_reducible refine (spillRead_frame _ _ _).comp ?_ (by decide)
    | with_reducible refine Frame.iteSnd ?_ ?_

theorem regRead_frame (f : Sys2Proof.Fn) (s : State) (o : Nat) :
    Frame [.gl, .crew, .hq, .task, .cy, .fm, .rch, .sm, .sv, .ce, .lk, .sp, .ic, .spill, .mi, .se] s (regRead f s o).2 := by
  unfold regRead
  repeat' first
    | with_reducible exact Frame.refl _ _
    | with_reducible refine (pfRead_frame _ _).comp ?_ (by decide)
    | with_reducible refine (vfRead_frame _ _ _).comp ?_ (by decide)
    | with_reducible refine Frame.iteSnd ?_ ?_

theorem setLatch_frame (f : Sys2Proof.Fn) (o : Nat) (v : Option Sys2Proof.Word) (s : State) :
    Frame [.latch] s (setLatch f o v s) := by
  unfold setLatch
  repeat' first
    | with_reducible exact Frame.refl _ _
    | (simp only [Frame.spelled]; (with_reducible apply FrameMk.upd); (with_reducible (intro b hb; cases b <;> first | exact absurd (by decide) hb | (dsimp only [Region.same] <;> rfl) | exact refs_id rfl)); (dsimp only; first | with_reducible exact List.suffix_refl _ | with_reducible exact List.suffix_cons _ _))

theorem readWord32_frame (f : Sys2Proof.Fn) (s : State) (o : Nat) :
    Frame [.gl, .crew, .hq, .task, .cy, .fm, .rch, .sm, .sv, .ce, .lk, .sp, .ic, .spill, .mi, .se, .latch] s (readWord32 f s o).2 := by
  unfold readWord32
  repeat' first
    | with_reducible exact Frame.refl _ _
    | with_reducible refine (regRead_frame _ _ _).comp ?_ (by decide)
    | with_reducible refine (setLatch_frame _ _ _ _).comp ?_ (by decide)
    | with_reducible refine Frame.iteSnd ?_ ?_
    | (extract_lets +onlyGivenNames y; first | (refine have hy : Frame [.gl, .crew, .hq, .task, .cy, .fm, .rch, .sm, .sv, .ce, .lk, .sp, .ic, .spill, .mi, .se, .latch] s y := ?_; ?_; unfold y) | (refine have hy : Frame [.gl, .crew, .hq, .task, .cy, .fm, .rch, .sm, .sv, .ce, .lk, .sp, .ic, .spill, .mi, .se, .latch] s y.2 := ?_; ?_; unfold y) | skip)
    | split

theorem barRead_frame (f : Sys2Proof.Fn) (o : Nat) (width : Nat) (s : State) :
    Frame [.gl, .crew, .hq, .task, .cy, .fm, .rch, .sm, .sv, .ce, .lk, .sp, .ic, .spill, .mi, .se, .latch] s (barRead f o width s).2 := by
  unfold barRead
  repeat' first
    | with_reducible exact Frame.refl _ _
    | with_reducible refine (readWord32_frame _ _ _).comp ?_ (by decide)
    | with_reducible refine (regRead_frame _ _ _).comp ?_ (by decide)
    | with_reducible refine Frame.iteSnd ?_ ?_

theorem ceWrite_frame (o : Nat) (v : Sys2Proof.Word) (s : State) :
    Frame [.ce] s (ceWrite o v s) := by
  unfold ceWrite
  repeat' first
    | with_reducible exact Frame.refl _ _
    | with_reducible refine (ceSwap_frame _ _).comp ?_ (by decide)
    | with_reducible refine Frame.ite ?_ ?_
    | (simp only [Frame.spelled]; (with_reducible apply FrameMk.upd); (with_reducible (intro b hb; cases b <;> first | exact absurd (by decide) hb | (dsimp only [Region.same] <;> rfl) | exact refs_id rfl)); (dsimp only; first | with_reducible exact List.suffix_refl _ | with_reducible exact List.suffix_cons _ _))
    | (extract_lets +onlyGivenNames y; first | (refine have hy : Frame [.ce] s y := ?_; ?_; unfold y) | (refine have hy : Frame [.ce] s y.2 := ?_; ?_; unfold y) | skip)
    | split

theorem fastWrite_frame (o : Nat) (v : Sys2Proof.Word) (s : State) :
    Frame [.ic] s (fastWrite o v s) := by
  unfold fastWrite
  repeat' first
    | with_reducible exact Frame.refl _ _
    | with_reducible assumption
    | with_reducible refine (setFast_frame _ _ _).comp ?_ (by decide)
    | with_reducible refine (eoiFast_frame _).comp ?_ (by decide)
    | with_reducible refine Frame.forEach _ _ ?_ ?_
    | with_reducible refine Frame.ite ?_ ?_
    | intro _
    | (simp only [Frame.spelled]; (with_reducible apply FrameMk.upd); (with_reducible (intro b hb; cases b <;> first | exact absurd (by decide) hb | (dsimp only [Region.same] <;> rfl) | exact refs_id rfl)); (dsimp only; first | with_reducible exact List.suffix_refl _ | with_reducible exact List.suffix_cons _ _))
    | (extract_lets +onlyGivenNames y; first | (refine have hy : Frame [.ic] s y := ?_; ?_; unfold y) | (refine have hy : Frame [.ic] s y.2 := ?_; ?_; unfold y) | skip)
    | split

theorem targetWrite_frame (o : Nat) (v : Sys2Proof.Word) (s : State) :
    Frame [.rch] s (targetWrite o v s) := by
  unfold targetWrite
  repeat' first
    | with_reducible exact Frame.refl _ _
    | with_reducible assumption
    | with_reducible refine Frame.ite ?_ ?_
    | with_reducible refine Frame.foldl _ _ ?_ ?_
    | intro _
    | (simp only [Frame.spelled]; (with_reducible apply FrameMk.upd); (with_reducible (intro b hb; cases b <;> first | exact absurd (by decide) hb | (dsimp only [Region.same] <;> rfl) | exact refs_id rfl)); (dsimp only; first | with_reducible exact List.suffix_refl _ | with_reducible exact List.suffix_cons _ _))

theorem zoneWinWrite_frame (o : Nat) (v : Sys2Proof.Word) (s : State) :
    Frame [.rch] s (zoneWinWrite o v s) := by
  unfold zoneWinWrite
  repeat' first
    | with_reducible exact Frame.refl _ _
    | with_reducible refine (setHeadEntry_frame _ _ _ _).comp ?_ (by decide)
    | with_reducible refine Frame.ite ?_ ?_

theorem fmWrite_frame (o : Nat) (v : Sys2Proof.Word) (s : State) :
    Frame [.hq, .eng, .fm, .rch, .rdr, .sm] s (fmWrite o v s) := by
  unfold fmWrite
  repeat' first
    | with_reducible exact Frame.refl _ _
    | with_reducible refine (grantPass_frame _).comp ?_ (by decide)
    | with_reducible refine (targetWrite_frame _ _ _).comp ?_ (by decide)
    | with_reducible refine (zoneWinWrite_frame _ _ _).comp ?_ (by decide)
    | with_reducible refine Frame.ite ?_ ?_
    | (simp only [Frame.spelled]; (with_reducible apply FrameMk.upd); (with_reducible (intro b hb; cases b <;> first | exact absurd (by decide) hb | (dsimp only [Region.same] <;> rfl) | exact refs_id rfl)); (dsimp only; first | with_reducible exact List.suffix_refl _ | with_reducible exact List.suffix_cons _ _))
    | (extract_lets +onlyGivenNames y; first | (refine have hy : Frame [.hq, .eng, .fm, .rch, .rdr, .sm] s y := ?_; ?_; unfold y) | (refine have hy : Frame [.hq, .eng, .fm, .rch, .rdr, .sm] s y.2 := ?_; ?_; unfold y) | skip)
    | split

theorem hqWrite_frame (f : Sys2Proof.Fn) (o : Nat) (v : Sys2Proof.Word) (s : State) :
    Frame [.hq, .eng, .cy, .vol, .rdr, .sm, .ic, .spill, .ev, .out] s (hqWrite f o v s) := by
  unfold hqWrite
  repeat' first
    | with_reducible exact Frame.refl _ _
    | with_reducible refine (setHqFn_frame _ _ _).comp ?_ (by decide)
    | with_reducible refine (fnEnable_frame _ _).comp ?_ (by decide)
    | with_reducible refine (fnDisable_frame _ _).comp ?_ (by decide)
    | with_reducible refine Frame.ite ?_ ?_
    | (extract_lets +onlyGivenNames y; first | (refine have hy : Frame [.hq, .eng, .cy, .vol, .rdr, .sm, .ic, .spill, .ev, .out] s y := ?_; ?_; unfold y) | (refine have hy : Frame [.hq, .eng, .cy, .vol, .rdr, .sm, .ic, .spill, .ev, .out] s y.2 := ?_; ?_; unfold y) | skip)
    | split

theorem icWrite_frame (f : Sys2Proof.Fn) (o : Nat) (v : Sys2Proof.Word) (s : State) :
    Frame [.ic] s (icWrite f o v s) := by
  unfold icWrite
  repeat' first
    | with_reducible exact Frame.refl _ _
    | with_reducible refine (pendWordWrite_frame _ _ _ _).comp ?_ (by decide)
    | with_reducible refine (maskWordWrite_frame _ _ _ _).comp ?_ (by decide)
    | with_reducible refine (setIcFn_frame _ _ _).comp ?_ (by decide)
    | with_reducible refine (srcCfgWrite_frame _ _ _).comp ?_ (by decide)
    | with_reducible refine (eoiGroup_frame _ _ _).comp ?_ (by decide)
    | with_reducible refine Frame.ite ?_ ?_
    | (simp only [Frame.spelled]; (with_reducible apply FrameMk.upd); (with_reducible (intro b hb; cases b <;> first | exact absurd (by decide) hb | (dsimp only [Region.same] <;> rfl) | exact refs_id rfl)); (dsimp only; first | with_reducible exact List.suffix_refl _ | with_reducible exact List.suffix_cons _ _))
    | (extract_lets +onlyGivenNames y; first | (refine have hy : Frame [.ic] s y := ?_; ?_; unfold y) | (refine have hy : Frame [.ic] s y.2 := ?_; ?_; unfold y) | skip)
    | split

theorem lkWrite_frame (o : Nat) (v : Sys2Proof.Word) (s : State) :
    Frame [.lk] s (lkWrite o v s) := by
  unfold lkWrite
  repeat' first
    | with_reducible exact Frame.refl _ _
    | (simp only [Frame.spelled]; (with_reducible apply FrameMk.upd); (with_reducible (intro b hb; cases b <;> first | exact absurd (by decide) hb | (dsimp only [Region.same] <;> rfl) | exact refs_id rfl)); (dsimp only; first | with_reducible exact List.suffix_refl _ | with_reducible exact List.suffix_cons _ _))
    | (extract_lets +onlyGivenNames y; first | (refine have hy : Frame [.lk] s y := ?_; ?_; unfold y) | (refine have hy : Frame [.lk] s y.2 := ?_; ?_; unfold y) | skip)
    | split

theorem miWrite_frame (o : Nat) (v : Sys2Proof.Word) (s : State) :
    Frame [.mi] s (miWrite o v s) := by
  unfold miWrite
  repeat' first
    | with_reducible exact Frame.refl _ _
    | with_reducible refine (setInject_frame _ _ _).comp ?_ (by decide)
    | with_reducible refine (flipAddr_frame _ _ _ _).comp ?_ (by decide)
    | with_reducible refine Frame.ite ?_ ?_
    | (simp only [Frame.spelled]; (with_reducible apply FrameMk.upd); (with_reducible (intro b hb; cases b <;> first | exact absurd (by decide) hb | (dsimp only [Region.same] <;> rfl) | exact refs_id rfl)); (dsimp only; first | with_reducible exact List.suffix_refl _ | with_reducible exact List.suffix_cons _ _))

theorem msixWrite_frame (f : Sys2Proof.Fn) (o : Nat) (v : Sys2Proof.Word) (s : State) :
    Frame [.ic, .out] s (msixWrite f o v s) := by
  unfold msixWrite
  repeat' first
    | with_reducible exact Frame.refl _ _
    | with_reducible refine (messageHeld_frame _ _ _).comp ?_ (by decide)
    | with_reducible refine (setMsixWord_frame _ _ _ _ _).comp ?_ (by decide)
    | with_reducible refine Frame.ite ?_ ?_

theorem spillWrite_frame (q : Nat) (o : Nat) (v : Sys2Proof.Word) (s : State) :
    Frame [.spill, .ev, .out] s (spillWrite q o v s) := by
  unfold spillWrite
  repeat' first
    | with_reducible exact Frame.refl _ _
    | with_reducible assumption
    | with_reducible refine (setSpill_frame _ _ _).comp ?_ (by decide)
    | with_reducible refine (spillEnable_frame _ _).comp ?_ (by decide)
    | with_reducible refine (spillDisable_frame _ _).comp ?_ (by decide)
    | with_reducible refine (flushRequest_frame _ _ _).comp ?_ (by decide)
    | with_reducible refine (headWrite_frame _ _ _).comp ?_ (by decide)
    | with_reducible refine Frame.ite ?_ ?_
    | (extract_lets +onlyGivenNames y; first | (refine have hy : Frame [.spill, .ev, .out] s y := ?_; ?_; unfold y) | (refine have hy : Frame [.spill, .ev, .out] s y.2 := ?_; ?_; unfold y) | skip)
    | split

theorem svWrite_frame (o : Nat) (v : Sys2Proof.Word) (s : State) :
    Frame [.sv] s (svWrite o v s) := by
  unfold svWrite
  repeat' first
    | with_reducible exact Frame.refl _ _
    | with_reducible refine (azkTaken_frame _ _).comp ?_ (by decide)
    | with_reducible refine Frame.ite ?_ ?_
    | (simp only [Frame.spelled]; (with_reducible apply FrameMk.upd); (with_reducible (intro b hb; cases b <;> first | exact absurd (by decide) hb | (dsimp only [Region.same] <;> rfl) | exact refs_id rfl)); (dsimp only; first | with_reducible exact List.suffix_refl _ | with_reducible exact List.suffix_cons _ _))
    | (extract_lets +onlyGivenNames y; first | (refine have hy : Frame [.sv] s y := ?_; ?_; unfold y) | (refine have hy : Frame [.sv] s y.2 := ?_; ?_; unfold y) | skip)
    | split

theorem sheetCtl_frame (v : Sys2Proof.Word) (s : State) :
    Frame [.gl, .crew, .hq, .eng, .cy, .vol, .wr, .rdr, .sm, .sv, .ce, .sp, .ic, .spill, .ev, .out] s (sheetCtl v s) := by
  unfold sheetCtl
  repeat' first
    | with_reducible exact Frame.refl _ _
    | with_reducible refine (sheetDown_frame _).comp ?_ (by decide)
    | with_reducible refine (linksNote_frame _).comp ?_ (by decide)
    | with_reducible refine Frame.ite ?_ ?_
    | (simp only [Frame.spelled]; (with_reducible apply FrameMk.upd); (with_reducible (intro b hb; cases b <;> first | exact absurd (by decide) hb | (dsimp only [Region.same] <;> rfl) | exact refs_id rfl)); (dsimp only; first | with_reducible exact List.suffix_refl _ | with_reducible exact List.suffix_cons _ _))

theorem spWrite_frame (o : Nat) (v : Sys2Proof.Word) (s : State) :
    Frame [.gl, .crew, .hq, .eng, .cy, .vol, .wr, .rdr, .sm, .sv, .ce, .sp, .ic, .spill, .ev, .out] s (spWrite o v s) := by
  unfold spWrite
  repeat' first
    | with_reducible exact Frame.refl _ _
    | with_reducible refine (sheetCtl_frame _ _).comp ?_ (by decide)
    | with_reducible refine (setEnc_frame _ _ _).comp ?_ (by decide)
    | with_reducible refine Frame.ite ?_ ?_
    | (simp only [Frame.spelled]; (with_reducible apply FrameMk.upd); (with_reducible (intro b hb; cases b <;> first | exact absurd (by decide) hb | (dsimp only [Region.same] <;> rfl) | exact refs_id rfl)); (dsimp only; first | with_reducible exact List.suffix_refl _ | with_reducible exact List.suffix_cons _ _))
    | (extract_lets +onlyGivenNames y; first | (refine have hy : Frame [.gl, .crew, .hq, .eng, .cy, .vol, .wr, .rdr, .sm, .sv, .ce, .sp, .ic, .spill, .ev, .out] s y := ?_; ?_; unfold y) | (refine have hy : Frame [.gl, .crew, .hq, .eng, .cy, .vol, .wr, .rdr, .sm, .sv, .ce, .sp, .ic, .spill, .ev, .out] s y.2 := ?_; ?_; unfold y) | skip)
    | split

theorem ttWrite_frame (o : Nat) (v : Sys2Proof.Word) (s : State) :
    Frame [.tt] s (ttWrite o v s) := by
  unfold ttWrite
  repeat' first
    | with_reducible exact Frame.refl _ _
    | with_reducible refine (setGen_frame _ _ _).comp ?_ (by decide)
    | with_reducible refine Frame.ite ?_ ?_
    | (simp only [Frame.spelled]; (with_reducible apply FrameMk.upd); (with_reducible (intro b hb; cases b <;> first | exact absurd (by decide) hb | (dsimp only [Region.same] <;> rfl) | exact refs_id rfl)); (dsimp only; first | with_reducible exact List.suffix_refl _ | with_reducible exact List.suffix_cons _ _))
    | (extract_lets +onlyGivenNames y; first | (refine have hy : Frame [.tt] s y := ?_; ?_; unfold y) | (refine have hy : Frame [.tt] s y.2 := ?_; ?_; unfold y) | skip)
    | split

theorem pfWrite_frame (o : Nat) (v : Sys2Proof.Word) (s : State) :
    Frame [.gl, .life, .crew, .hq, .task, .eng, .cy, .vol, .wr, .fm, .rch, .rdr, .sm, .sv, .ce, .tt, .lk, .sp, .ic, .spill, .ev, .mi, .se, .out, .fresh] s (pfWrite o v s) := by
  unfold pfWrite
  repeat' first
    | with_reducible exact Frame.refl _ _
    | with_reducible refine (icWrite_frame _ _ _ _).comp ?_ (by decide)
    | with_reducible refine (hqWrite_frame _ _ _ _).comp ?_ (by decide)
    | with_reducible refine (allotWrite_frame _ _ _ _).comp ?_ (by decide)
    | with_reducible refine (spillWrite_frame _ _ _ _).comp ?_ (by decide)
    | with_reducible refine (fastWrite_frame _ _ _).comp ?_ (by decide)
    | with_reducible refine (miWrite_frame _ _ _).comp ?_ (by decide)
    | with_reducible refine (ceWrite_frame _ _ _).comp ?_ (by decide)
    | with_reducible refine (apertureWrite_frame _ _ _).comp ?_ (by decide)
    | with_reducible refine (svWrite_frame _ _ _).comp ?_ (by decide)
    | with_reducible refine (lkWrite_frame _ _ _).comp ?_ (by decide)
    | with_reducible refine (spWrite_frame _ _ _).comp ?_ (by decide)
    | with_reducible refine (ttWrite_frame _ _ _).comp ?_ (by decide)
    | with_reducible refine (fmWrite_frame _ _ _).comp ?_ (by decide)
    | with_reducible refine (taskWrite_frame _ _ _ _).comp ?_ (by decide)
    | with_reducible refine Frame.ite ?_ ?_

theorem vfWrite_frame (f : Sys2Proof.Fn) (o : Nat) (v : Sys2Proof.Word) (s : State) :
    Frame [.hq, .eng, .cy, .vol, .rdr, .sm, .ic, .spill, .ev, .out] s (vfWrite f o v s) := by
  unfold vfWrite
  repeat' first
    | with_reducible exact Frame.refl _ _
    | with_reducible refine (icWrite_frame _ _ _ _).comp ?_ (by decide)
    | with_reducible refine (hqWrite_frame _ _ _ _).comp ?_ (by decide)
    | with_reducible refine (spillWrite_frame _ _ _ _).comp ?_ (by decide)
    | with_reducible refine Frame.ite ?_ ?_

theorem regWrite_frame (f : Sys2Proof.Fn) (o : Nat) (v : Sys2Proof.Word) (s : State) :
    Frame [.gl, .life, .crew, .hq, .task, .eng, .cy, .vol, .wr, .fm, .rch, .rdr, .sm, .sv, .ce, .tt, .lk, .sp, .ic, .spill, .ev, .mi, .se, .out, .fresh] s (regWrite f o v s) := by
  unfold regWrite
  repeat' first
    | with_reducible exact Frame.refl _ _
    | with_reducible refine (resetWrite_frame _ _).comp ?_ (by decide)
    | with_reducible refine (pfWrite_frame _ _ _).comp ?_ (by decide)
    | with_reducible refine (vfWrite_frame _ _ _ _).comp ?_ (by decide)
    | with_reducible refine Frame.ite ?_ ?_

end Sys2Proof.Machine
end

