-- ==== Sys2Proof/Laws/FrameVolumes.lean ====
section
/-!
SUPPORT. The frames of the operations of Machine/Volumes.lean: which parts of the state each may change.
-/

namespace Sys2Proof.Machine

theorem giveUp_frame (s : State) :
    Frame [.hq, .eng, .cy, .wr, .rdr, .sm] s (giveUp s) := by
  unfold giveUp
  repeat' first
    | with_reducible exact Frame.refl _ _
    | with_reducible refine (grantPass_frame _).comp ?_ (by decide)
    | (simp only [Frame.spelled]; (with_reducible apply FrameMk.upd); (with_reducible (intro b hb; cases b <;> first | exact absurd (by decide) hb | (dsimp only [Region.same] <;> rfl) | exact refs_id rfl | exact refs_filter _ rfl | (refine refs_map _ rfl ?_; intro d; split <;> simp_all))); (dsimp only; first | with_reducible exact List.suffix_refl _ | with_reducible exact List.suffix_cons _ _))

theorem blankVolume_frame (s : State) :
    Frame [.hq, .eng, .cy, .vol, .wr, .rdr, .sm, .out] s (blankVolume s) := by
  unfold blankVolume
  repeat' first
    | with_reducible exact Frame.refl _ _
    | with_reducible refine (giveUp_frame _).comp ?_ (by decide)
    | with_reducible refine (writeHousekeeping_frame _).comp ?_ (by decide)
    | (simp only [Frame.spelled]; (with_reducible apply FrameMk.upd); (with_reducible (intro b hb; cases b <;> first | exact absurd (by decide) hb | (dsimp only [Region.same] <;> rfl) | exact refs_id rfl)); (dsimp only; first | with_reducible exact List.suffix_refl _ | with_reducible exact List.suffix_cons _ _))

theorem deltaCollect_frame (s : State) :
    Frame [.vol, .rch] s (deltaCollect s) := by
  unfold deltaCollect
  repeat' first
    | with_reducible exact Frame.refl _ _
    | with_reducible refine Frame.ite ?_ ?_
    | (simp only [Frame.spelled]; (with_reducible apply FrameMk.upd); (with_reducible (intro b hb; cases b <;> first | exact absurd (by decide) hb | (dsimp only [Region.same] <;> rfl) | exact refs_id rfl)); (dsimp only; first | with_reducible exact List.suffix_refl _ | with_reducible exact List.suffix_cons _ _))

theorem dropVolume_frame (s : State) :
    Frame [.vol, .wr, .rdr, .sm] s (dropVolume s) := by
  unfold dropVolume
  repeat' first
    | with_reducible exact Frame.refl _ _
    | (simp only [Frame.spelled]; (with_reducible apply FrameMk.upd); (with_reducible (intro b hb; cases b <;> first | exact absurd (by decide) hb | (dsimp only [Region.same] <;> rfl) | exact refs_id rfl)); (dsimp only; first | with_reducible exact List.suffix_refl _ | with_reducible exact List.suffix_cons _ _))

theorem eraseWhole_frame (kind : Nat) (sanitise : Bool) (ref : CmdRef) (finished : Bool) (bad : Bool) (s : State) :
    Frame [.gl, .crew, .hq, .eng, .cy, .vol, .wr, .rdr, .sm, .ce, .ic, .spill, .ev, .out] s (eraseWhole kind sanitise ref finished bad s) := by
  unfold eraseWhole
  repeat' first
    | with_reducible exact Frame.refl _ _
    | with_reducible assumption
    | with_reducible refine (setMode_frame _ _).comp ?_ (by decide)
    | with_reducible refine (emit_frame _ _).comp ?_ (by decide)
    | with_reducible refine (giveUp_frame _).comp ?_ (by decide)
    | with_reducible refine (endSessions_frame _).comp ?_ (by decide)
    | with_reducible refine (setCmd_frame _ _).comp ?_ (by decide)
    | with_reducible refine (tapeRest_frame _).comp ?_ (by decide)
    | with_reducible refine (tidy_frame _).comp ?_ (by decide)
    | with_reducible refine (complete_frame _ _ _ _ _ _).comp ?_ (by decide)
    | with_reducible refine (blankVolume_frame _).comp ?_ (by decide)
    | with_reducible refine Frame.ite ?_ ?_
    | (extract_lets +onlyGivenNames y; first | (refine have hy : Frame [.gl, .crew, .hq, .eng, .cy, .vol, .wr, .rdr, .sm, .ce, .ic, .spill, .ev, .out] s y := ?_; ?_; unfold y) | (refine have hy : Frame [.gl, .crew, .hq, .eng, .cy, .vol, .wr, .rdr, .sm, .ce, .ic, .spill, .ev, .out] s y.2 := ?_; ?_; unfold y) | skip)
    | split

theorem loadBlank_frame (s : State) :
    Frame [.vol, .fresh] s (loadBlank s) := by
  unfold loadBlank
  repeat' first
    | with_reducible exact Frame.refl _ _
    | with_reducible refine (openNat_frame _).comp ?_ (by decide)
    | (simp only [Frame.spelled]; (with_reducible apply FrameMk.upd); (with_reducible (intro b hb; cases b <;> first | exact absurd (by decide) hb | (dsimp only [Region.same] <;> rfl) | exact refs_id rfl)); (dsimp only; first | with_reducible exact List.suffix_refl _ | with_reducible exact List.suffix_cons _ _))

theorem loadEnds_frame (r : CmdRef) (s : State) :
    Frame [.gl, .crew, .hq, .eng, .cy, .vol, .rdr, .sm, .ce, .ic, .spill, .ev, .out] s (loadEnds r s) := by
  unfold loadEnds
  repeat' first
    | with_reducible exact Frame.refl _ _
    | with_reducible refine (tapeRest_frame _).comp ?_ (by decide)
    | with_reducible refine (tidy_frame _).comp ?_ (by decide)
    | with_reducible refine (complete_frame _ _ _ _ _ _).comp ?_ (by decide)

theorem loadVolume_frame (gen : Nat) (psa : Nat) (payload : List Sys2Proof.Byte) (found : List (List Sys2Proof.FoundSet)) (s : State) :
    Frame [.vol, .spill, .ev, .out] s (loadVolume gen psa payload found s) := by
  unfold loadVolume
  repeat' first
    | with_reducible exact Frame.refl _ _
    | with_reducible refine (event_frame _ _ _ _ _).comp ?_ (by decide)
    | with_reducible refine Frame.ite ?_ ?_
    | (simp only [Frame.spelled]; (with_reducible apply FrameMk.upd); (with_reducible (intro b hb; cases b <;> first | exact absurd (by decide) hb | (dsimp only [Region.same] <;> rfl) | exact refs_id rfl)); (dsimp only; first | with_reducible exact List.suffix_refl _ | with_reducible exact List.suffix_cons _ _))

theorem newTable_frame (ranges : List (Nat × Nat)) (s : State) :
    Frame [.vol] s (newTable ranges s) := by
  unfold newTable
  repeat' first
    | with_reducible exact Frame.refl _ _
    | (simp only [Frame.spelled]; (with_reducible apply FrameMk.upd); (with_reducible (intro b hb; cases b <;> first | exact absurd (by decide) hb | (dsimp only [Region.same] <;> rfl) | exact refs_id rfl)); (dsimp only; first | with_reducible exact List.suffix_refl _ | with_reducible exact List.suffix_cons _ _))

theorem threadMeasures_frame (scan : Sys2Proof.LoadScan) (s : State) :
    Frame [.sv] s (threadMeasures scan s) := by
  unfold threadMeasures
  repeat' first
    | with_reducible exact Frame.refl _ _
    | (simp only [Frame.spelled]; (with_reducible apply FrameMk.upd); (with_reducible (intro b hb; cases b <;> first | exact absurd (by decide) hb | (dsimp only [Region.same] <;> rfl) | exact refs_id rfl)); (dsimp only; first | with_reducible exact List.suffix_refl _ | with_reducible exact List.suffix_cons _ _))

end Sys2Proof.Machine
end

