-- ==== Sys2Proof/Laws/Modes.lean ====
section
/-!
SUPPORT. What a mode change and an entry to HOLD do to the mode registers, and what the end of FILL leaves.
-/

namespace Sys2Proof.Machine

/-- A change to a mode that is not the present one (R19): CUR, PREV and GL_MODE_TS, and nothing else of the block. -/
theorem setMode_gl {m : Mode} {s : State} (h : s.gl.cur ≠ m) :
    (setMode m s).gl = { s.gl with prev := s.gl.cur, cur := m, modeTs := s.tb } := by
  unfold setMode
  rw [if_neg h]
  exact ((senseFast_frame 0 _).gl_eq.trans ((pulseInternal_frame 80 _).gl_eq.trans ((modeLoops_frame m _).gl_eq.trans
    (stopCustom_frame m _).gl_eq)))

theorem setMode_same {m : Mode} {s : State} (h : s.gl.cur = m) : setMode m s = s := by unfold setMode; rw [if_pos h]

@[simp] theorem setMode_cur (m : Mode) (s : State) : (setMode m s).gl.cur = m := by
  by_cases h : s.gl.cur = m
  · rw [setMode_same h]; exact h
  · rw [setMode_gl h]

/-- Entry to HOLD from another mode (R29, R30): the mode registers alone of the block. -/
theorem enterHold_gl {s : State} (h : s.gl.cur ≠ .hold) :
    (enterHold s).gl = { s.gl with prev := s.gl.cur, cur := .hold, modeTs := s.tb } := by
  unfold enterHold
  extract_lets s₁ s₂ s₃ s₄ q s₅
  have h₃ : s₃.gl = s₂.gl := by unfold s₃; clear_value s₂; exact (event_frame 0 0 0x19 _ s₂).gl_eq
  have h₄ : s₄.gl = s₃.gl := by clear h₃; unfold s₄; clear_value s₃; exact (closeGates_frame s₃).gl_eq
  have h₆ : (holdCommands s₅).gl = s₄.gl := by
    clear h₃ h₄; unfold s₅ q; clear_value s₄; exact (holdCommands_frame _).gl_eq
  rw [h₆, h₄, h₃]
  clear h₃ h₄ h₆
  unfold s₂
  have a : s₁.gl = s.gl := by
    unfold s₁; exact (endSessions_frame _).gl_eq.trans (dropBurst_frame _).gl_eq
  have b : s₁.tb = s.tb := by
    unfold s₁; exact (endSessions_frame _).tb_eq.trans (dropBurst_frame _).tb_eq
  clear_value s₁
  rw [setMode_gl (by rw [a]; exact h), a, b]

/-- A HOLD cause sets its LATCHED bit, and outside RESET, FILL and HOLD the device enters HOLD (R22, R28, R29). -/
theorem holdCause_gl (b : Nat) {s : State} (h : s.gl.cur ≠ .reset ∧ s.gl.cur ≠ .fill ∧ s.gl.cur ≠ .hold) :
    (holdCause b s).gl = { s.gl with
      latched := s.gl.latched ||| BitVec.ofNat 7 (2 ^ b), prev := s.gl.cur, cur := .hold, modeTs := s.tb } := by
  unfold holdCause
  simp only [h.1, h.2.1, h.2.2, or_self, if_false]
  rw [enterHold_gl (by exact h.2.2)]

theorem holdCause_gl_stay (b : Nat) {s : State} (h : s.gl.cur = .reset ∨ s.gl.cur = .fill ∨ s.gl.cur = .hold) :
    holdCause b s = { s with gl := { s.gl with latched := s.gl.latched ||| BitVec.ofNat 7 (2 ^ b) } } := by
  unfold holdCause
  simp only [h, if_true]

end Sys2Proof.Machine
end

