-- ==== Sys2Proof/Laws/Queues.lean ====
section
/-!
SUPPORT. What the end of a command leaves of the host interface: every submission queue, the registers of every function,
the allotment, and of every completion queue all but its tail and its phase.
-/

namespace Sys2Proof.Machine

/-- The host interface but for the commands in flight, the flushes and what a committed entry moves on. -/
structure HostKept (s u : State) : Prop where
  sqs : u.hq.sqs = s.hq.sqs
  fns : u.hq.fns = s.hq.fns
  allot : u.hq.allot = s.hq.allot
  vf : u.hq.vfEnable = s.hq.vfEnable
  act : u.hq.act = s.hq.act
  lost : u.hq.lost = s.hq.lost
  cqs : ∀ k, (tabGet cqNone u.hq.cqs k).unit = (tabGet cqNone s.hq.cqs k).unit
    ∧ (tabGet cqNone u.hq.cqs k).base = (tabGet cqNone s.hq.cqs k).base
    ∧ (tabGet cqNone u.hq.cqs k).depth = (tabGet cqNone s.hq.cqs k).depth
    ∧ (tabGet cqNone u.hq.cqs k).head = (tabGet cqNone s.hq.cqs k).head

theorem HostKept.of_hq {s u : State} (h : u.hq = s.hq) : HostKept s u :=
  ⟨by rw [h], by rw [h], by rw [h], by rw [h], by rw [h], by rw [h], fun k => by rw [h]; exact ⟨rfl, rfl, rfl, rfl⟩⟩

theorem HostKept.refl (s : State) : HostKept s s := .of_hq rfl

theorem HostKept.trans {s x u : State} (h : HostKept s x) (k : HostKept x u) : HostKept s u :=
  ⟨k.sqs.trans h.sqs, k.fns.trans h.fns, k.allot.trans h.allot, k.vf.trans h.vf, k.act.trans h.act, k.lost.trans h.lost,
    fun i => ⟨(k.cqs i).1.trans (h.cqs i).1, (k.cqs i).2.1.trans (h.cqs i).2.1, (k.cqs i).2.2.1.trans (h.cqs i).2.2.1,
      (k.cqs i).2.2.2.trans (h.cqs i).2.2.2⟩⟩

theorem HostKept.forEach {α : Type} (l : List α) (op : α → State → State) (h : ∀ a x, HostKept x (op a x)) (s : State) :
    HostKept s (forEach l op s) := by
  induction l generalizing s with
  | nil => exact .refl s
  | cons a r ih => exact (h a s).trans (ih _)

theorem HostKept.setCmd (c : InFlight) (s : State) : HostKept s (Machine.setCmd c s) :=
  ⟨rfl, rfl, rfl, rfl, rfl, rfl, fun _ => ⟨rfl, rfl, rfl, rfl⟩⟩

theorem HostKept.grantList (l : List InFlight) (s : State) : HostKept s (Machine.grantList l s) := by
  induction l generalizing s with
  | nil => exact .refl s
  | cons c r ih =>
    unfold Machine.grantList
    split
    · exact ih s
    · split
      · refine HostKept.trans ?_ (ih _)
        unfold Machine.grantTo
        extract_lets g g' s'
        have h : HostKept s s' := ⟨rfl, rfl, rfl, rfl, rfl, rfl, fun _ => ⟨rfl, rfl, rfl, rfl⟩⟩
        clear_value s'
        exact (h.trans (.of_hq (trimCache_frame _ s').hq_eq)).trans (.of_hq (startRuns_frame _ _).hq_eq)
      · exact .refl s

theorem HostKept.releaseStaging (r : CmdRef) (s : State) : HostKept s (Machine.releaseStaging r s) := by
  unfold Machine.releaseStaging Machine.grantPass
  refine HostKept.trans ?_ (HostKept.grantList _ _)
  exact .of_hq rfl

theorem HostKept.retire (c : InFlight) (st : Nat) (s : State) : HostKept s (Machine.retire c st s) := by
  unfold Machine.retire
  extract_lets q s₁ s₂ v s₃ s₄
  have h₁ : HostKept s s₁ := ⟨rfl, rfl, rfl, rfl, rfl, rfl, fun _ => ⟨rfl, rfl, rfl, rfl⟩⟩
  have h₂ : HostKept s₁ s₂ := .of_hq (dropWork_frame c.ref s₁).hq_eq
  have h₃ : HostKept s₂ s₃ := by unfold s₃; split <;> exact .of_hq rfl
  have h := h₁.trans (h₂.trans h₃)
  clear_value s₃
  split
  · have h₄ : HostKept s₃ s₄ := by
      unfold s₄
      split
      · exact .of_hq (voidBlocks_frame _ _ _ _).hq_eq
      · exact .refl _
    exact h.trans (h₄.trans (HostKept.releaseStaging _ _))
  · exact h

theorem HostKept.postEntry (c : InFlight) (st a b : Nat) (m : Bool) (s : State) :
    HostKept s (Machine.postEntry c st a b m s) := by
  unfold Machine.postEntry
  split
  · exact .refl s
  · extract_lets f sq cq bytes wrap cq'
    refine ⟨rfl, rfl, rfl, rfl, rfl, rfl, fun k => ?_⟩
    show (tabGet cqNone (tabSet cqNone s.hq.cqs (queueKey f sq.cqid) cq') k).unit = _ ∧ (tabGet cqNone (tabSet cqNone s.hq.cqs (queueKey f sq.cqid) cq') k).base = _
      ∧ (tabGet cqNone (tabSet cqNone s.hq.cqs (queueKey f sq.cqid) cq') k).depth = _
      ∧ (tabGet cqNone (tabSet cqNone s.hq.cqs (queueKey f sq.cqid) cq') k).head = _
    rw [tabGet_tabSet]
    split
    · rename_i e; subst e; exact ⟨rfl, rfl, rfl, rfl⟩
    · exact ⟨rfl, rfl, rfl, rfl⟩

theorem HostKept.abortsDone (c : InFlight) (s : State) : HostKept s (Machine.abortsDone c s) := by
  unfold Machine.abortsDone
  exact HostKept.forEach _ _ (fun a x => (HostKept.retire a _ x).trans (HostKept.postEntry a _ _ _ _ _)) s

theorem fnSettle_running {f : Fn} {s : State} (h : (hqFn s f).unit.st ≠ .stopping) : fnSettle f s = s := by
  unfold fnSettle
  extract_lets k
  split
  · rename_i e; exact absurd e h
  · rfl

/-- The end of a command of a function that is not stopping leaves the queues as they were. -/
theorem HostKept.complete (r : CmdRef) (st a b : Nat) (m : Bool) (s : State) (h : (hqFn s r.fn).unit.st ≠ .stopping) :
    HostKept s (Machine.complete r st a b m s) := by
  unfold Machine.complete
  split
  · exact .refl s
  · rename_i c hc
    have k := ((HostKept.postEntry c st a b m s).trans (HostKept.retire c st _)).trans (HostKept.abortsDone c _)
    rw [fnSettle_running]
    · exact k
    · unfold hqFn at h ⊢; rw [k.fns]; exact h

theorem HostKept.failCmd (r : CmdRef) (st : Nat) (s : State) (h : (hqFn s r.fn).unit.st ≠ .stopping) :
    HostKept s (Machine.failCmd r st s) := by
  unfold Machine.failCmd
  split
  · exact .refl s
  · exact HostKept.complete _ _ _ _ _ _ h

theorem HostKept.cqOf {s u : State} (h : HostKept s u) (f : Fn) (q : Nat) :
    (Machine.cqOf u f q).unit = (Machine.cqOf s f q).unit ∧ (Machine.cqOf u f q).base = (Machine.cqOf s f q).base
      ∧ (Machine.cqOf u f q).depth = (Machine.cqOf s f q).depth ∧ (Machine.cqOf u f q).head = (Machine.cqOf s f q).head :=
  h.cqs (queueKey f q)

theorem HostKept.sqOf {s u : State} (h : HostKept s u) (f : Fn) (q : Nat) : Machine.sqOf u f q = Machine.sqOf s f q := by
  unfold Machine.sqOf; rw [h.sqs]

theorem HostKept.hqFn {s u : State} (h : HostKept s u) (f : Fn) : Machine.hqFn u f = Machine.hqFn s f := by
  unfold Machine.hqFn; rw [h.fns]

theorem HostKept.allotOf {s u : State} (h : HostKept s u) (f : Fn) : Machine.allotOf u f = Machine.allotOf s f := by
  unfold Machine.allotOf; rw [h.allot]

end Sys2Proof.Machine
end

