-- ==== Sys2Proof/Laws/Units.lean ====
section
/-!
SUPPORT. What a change of STATE of some roster units does to the roster: the units named take it, the others and the
channel dies keep theirs.
-/

namespace Sys2Proof.Machine

theorem crewOf_congr {s u : State} (h : u.crew.roster = s.crew.roster) (i : Nat) : crewOf u i = crewOf s i := by
  unfold crewOf; rw [h]

theorem forEach_nil {α : Type} (op : α → State → State) (s : State) : forEach [] op s = s := rfl

theorem forEach_cons {α : Type} (a : α) (l : List α) (op : α → State → State) (s : State) :
    forEach (a :: l) op s = forEach l op (op a s) := rfl

/-- A field that every step of a loop keeps is kept by the loop. -/
theorem forEach_keeps {α β : Type} (p : State → β) (l : List α) (op : α → State → State)
    (h : ∀ a x, p (op a x) = p x) (s : State) : p (forEach l op s) = p s := by
  induction l generalizing s with
  | nil => rfl
  | cons a r ih => rw [forEach_cons, ih, h]

/-- New epochs leave every STATE and the dies as they were (R44). -/
theorem bumpEpochs_keeps (units : List Nat) (s : State) :
    (∀ i, (crewOf (bumpEpochs units s) i).st = (crewOf s i).st) ∧ (bumpEpochs units s).crew.dies = s.crew.dies := by
  unfold bumpEpochs
  extract_lets x c y
  have hx : (∀ i, (crewOf x i).st = (crewOf s i).st) ∧ x.crew.dies = s.crew.dies := by
    refine ⟨fun i => ?_, ?_⟩
    · exact forEach_keeps (fun z => (crewOf z i).st) units _ (fun a z => by
        by_cases k : i = a
        · subst k; simp
        · simp [crewOf_setCrew_other _ _ _ k]) s
    · refine forEach_keeps (fun z => z.crew.dies) units _ ?_ s
      intro a z; rfl
  have hy : y.crew.roster = x.crew.roster ∧ y.crew.dies = x.crew.dies := ⟨rfl, rfl⟩
  clear_value x y
  have hf : Frame [.lk, .out] y (forEach (List.filterMap laneOfUnit units).eraseDups sessionAdvance y) :=
    Frame.forEach _ _ (fun a z h => (sessionAdvance_frame _ _).comp h (by decide)) (Frame.refl _ _)
  refine ⟨fun i => ?_, by rw [hf.crew_eq, hy.2, hx.2]⟩
  rw [crewOf_congr (s := x) (by rw [hf.crew_eq, hy.1]), hx.1]

/-- A change of STATE leaves the dies as they were. -/
theorem unitsChange_dies (changes : List (Nat × CrewSt)) (cause : Nat) (bump : List Nat) (s : State) :
    (unitsChange changes cause bump s).crew.dies = s.crew.dies := by
  unfold unitsChange
  extract_lets ch olds x y
  have hx : x.crew.dies = s.crew.dies := by
    refine forEach_keeps (fun z => z.crew.dies) ch _ ?_ s
    intro a z; rfl
  have hy : y.crew.dies = x.crew.dies := (bumpEpochs_keeps _ x).2
  clear_value x y
  have hf : ∀ l : List (Nat × CrewSt × CrewSt), Frame [.ic, .spill, .ev, .out] y (forEach l (fun (i, old, st) s =>
    let c := crewOf s i
    pulseInternal 214 (event 0 0 0x10
      [BitVec.ofNat 64 (i + crewCode old * 2 ^ 16 + crewCode st * 2 ^ 18 + c.cause.toNat * 2 ^ 20 + c.epoch.toNat * 2 ^ 32)] s)) y) :=
    fun l => Frame.forEach _ _ (fun a z h => (pulseInternal_frame _ _).comp ((event_frame _ _ _ _ _).comp h (by decide)) (by decide)) (Frame.refl _ _)
  rw [(hf olds).crew_eq, hy, hx]

@[simp] theorem dieOf_unitsChange (changes : List (Nat × CrewSt)) (cause : Nat) (bump : List Nat) (s : State) (d : Nat) :
    dieOf (unitsChange changes cause bump s) d = dieOf s d := by unfold dieOf; rw [unitsChange_dies]

/-- The units named take the STATE, and every other unit keeps its own (R43). -/
theorem setUnitsState_st (units : List Nat) (st : CrewSt) (cause : Nat) (s : State) (i : Nat) :
    (crewOf (setUnitsState units st cause s) i).st = if i ∈ units then st else (crewOf s i).st := by
  unfold setUnitsState unitsChange
  extract_lets ch olds x y
  have loop : ∀ (l : List (Nat × CrewSt)) (z : State), (∀ p ∈ l, p.2 = st) →
      (crewOf (forEach l (fun (i, st) s =>
        let c := crewOf s i
        let c' : Crew :=
          { c with
            st := st, slept := if st = .sleeping then c.st else .active,
            cause := if st = .benched then BitVec.ofNat 4 cause else 0 }
        let s := setCrew i c' s
        { s with crew := { s.crew with stored := tabSet crewZero s.crew.stored i (storedCrew c') } }) z) i).st
        = if (∃ p ∈ l, p.1 = i) then st else (crewOf z i).st := by
    intro l
    induction l with
    | nil => intro z _; simp [forEach_nil]
    | cons a r ih =>
      intro z h
      rw [forEach_cons, ih _ (fun p hp => h p (List.mem_cons_of_mem _ hp))]
      obtain ⟨j, t⟩ := a
      have ht : t = st := h (j, t) (List.mem_cons_self ..)
      subst ht
      by_cases k : j = i
      · subst k
        have : (∃ p ∈ (j, t) :: r, p.1 = j) := ⟨(j, t), List.mem_cons_self .., rfl⟩
        rw [if_pos this]
        split
        · rfl
        · show (tabGet crewZero (tabSet crewZero z.crew.roster j _) j).st = _
          rw [tabGet_tabSet_same]
      · have : (∃ p ∈ (j, t) :: r, p.1 = i) ↔ ∃ p ∈ r, p.1 = i := by simp [k]
        simp only [this]
        show (if _ then _ else (tabGet crewZero (tabSet crewZero z.crew.roster j _) i).st) = _
        rw [tabGet_tabSet_other _ _ _ (fun e => k e.symm)]
        rfl
  have hx := loop ch s (fun p hp => by
    obtain ⟨hp, -⟩ := List.mem_filter.1 hp
    obtain ⟨j, -, rfl⟩ := List.mem_map.1 hp
    rfl)
  have hx : (crewOf x i).st = if (∃ p ∈ ch, p.1 = i) then st else (crewOf s i).st := hx
  have hc : (∃ p ∈ ch, p.1 = i) ↔ i ∈ units ∧ (crewOf s i).st ≠ st := by
    constructor
    · rintro ⟨⟨j, t⟩, hp, rfl⟩
      obtain ⟨hp, k⟩ := List.mem_filter.1 hp
      obtain ⟨j', hj, e⟩ := List.mem_map.1 hp
      cases e
      exact ⟨hj, by simpa using k⟩
    · rintro ⟨hu, k⟩
      exact ⟨(i, st), List.mem_filter.2 ⟨List.mem_map_of_mem hu, by simpa using k⟩, rfl⟩
  have hy : (crewOf y i).st = (crewOf x i).st := (bumpEpochs_keeps _ x).1 i
  clear_value x y
  have hf : ∀ l : List (Nat × CrewSt × CrewSt), Frame [.ic, .spill, .ev, .out] y (forEach l (fun (i, old, st) s =>
    let c := crewOf s i
    pulseInternal 214 (event 0 0 0x10
      [BitVec.ofNat 64 (i + crewCode old * 2 ^ 16 + crewCode st * 2 ^ 18 + c.cause.toNat * 2 ^ 20 + c.epoch.toNat * 2 ^ 32)] s)) y) :=
    fun l => Frame.forEach _ _ (fun a z h => (pulseInternal_frame _ _).comp ((event_frame _ _ _ _ _).comp h (by decide)) (by decide)) (Frame.refl _ _)
  rw [crewOf_congr (s := y) (by rw [(hf olds).crew_eq]), hy, hx]
  simp only [hc]
  by_cases h1 : i ∈ units <;> by_cases h2 : (crewOf s i).st = st <;> simp [h1, h2]

end Sys2Proof.Machine
end

