-- ==== Sys2Proof/Laws/Volume.lean ====
section
/-!
SUPPORT. What the end of a command, the passes after it and a change of mode keep of the volume and of the mode's other
state; a tape command's work before its end.
-/

namespace Sys2Proof.Machine

/-- What the end of a command and the passes after it keep: all of the volume but its partitions' data sets and the
UNLOAD acceptance, every partition's next block and session, the key slots and keys, all of the reader but the cache, and
all of the pace but the staging grants. -/
structure EndKept (s u : State) : Prop where
  vol : u.vol = { s.vol with parts := u.vol.parts, unloadAt := u.vol.unloadAt }
  part : ∀ p, (partOf u p).next = (partOf s p).next ∧ (partOf u p).session = (partOf s p).session
  cy : u.cy = { s.cy with waiting := u.cy.waiting, busy := u.cy.busy, idleSaid := u.cy.idleSaid }
  rdr : u.rdr = { s.rdr with cache := u.rdr.cache }
  sm : u.sm = { s.sm with grants := u.sm.grants }

theorem EndKept.of_parts {s u : State} (h : u.vol = { s.vol with parts := u.vol.parts, unloadAt := u.vol.unloadAt })
    (k : u.vol.parts = s.vol.parts) (c : u.cy = s.cy) (r : u.rdr = s.rdr) (m : u.sm = s.sm) : EndKept s u :=
  ⟨h, fun p => by unfold partOf; rw [k]; exact ⟨rfl, rfl⟩, by rw [c], by rw [r], by rw [m]⟩

theorem EndKept.of_eq {s u : State} (h : u.vol = s.vol) (c : u.cy = s.cy) (r : u.rdr = s.rdr) (m : u.sm = s.sm) :
    EndKept s u := .of_parts (by rw [h]) (by rw [h]) c r m

theorem EndKept.of_frame {l : List Region} {s u : State} (h : Frame l s u) (a : l.contains .vol = false := by decide)
    (b : l.contains .cy = false := by decide) (c : l.contains .rdr = false := by decide)
    (d : l.contains .sm = false := by decide) : EndKept s u := .of_eq (h.vol_eq a) (h.cy_eq b) (h.rdr_eq c) (h.sm_eq d)

theorem EndKept.refl (s : State) : EndKept s s := .of_eq rfl rfl rfl rfl

theorem EndKept.trans {s x u : State} (h : EndKept s x) (k : EndKept x u) : EndKept s u :=
  ⟨by rw [k.vol, h.vol], fun p => ⟨(k.part p).1.trans (h.part p).1, (k.part p).2.trans (h.part p).2⟩, by rw [k.cy, h.cy],
    by rw [k.rdr, h.rdr], by rw [k.sm, h.sm]⟩

theorem EndKept.forEach {α : Type} (l : List α) (op : α → State → State) (h : ∀ a x, EndKept x (op a x)) (s : State) :
    EndKept s (forEach l op s) := by
  induction l generalizing s with
  | nil => exact .refl s
  | cons a r ih => rw [forEach_cons]; exact (h a s).trans (ih _)

theorem EndKept.setPart (p : Nat) (v : Part) (s : State) (h : v.next = (Machine.partOf s p).next)
    (k : v.session = (Machine.partOf s p).session) : EndKept s (Machine.setPart p v s) :=
  ⟨rfl, fun q => by
    by_cases e : q = p
    · subst e; rw [partOf_setPart]; exact ⟨h, k⟩
    · rw [partOf_setPart_other _ _ _ e]; exact ⟨rfl, rfl⟩, rfl, rfl, rfl⟩

theorem EndKept.voidBlocks (p a n : Nat) (s : State) : EndKept s (Machine.voidBlocks p a n s) := .setPart _ _ _ rfl rfl

theorem EndKept.trimCache (n : Nat) (s : State) : EndKept s (Machine.trimCache n s) := by
  induction n generalizing s with
  | zero => exact .refl s
  | succ n ih =>
    unfold Machine.trimCache
    extract_lets size oldest
    split
    · exact .refl s
    · refine EndKept.trans ?_ (ih _)
      exact ⟨rfl, fun _ => ⟨rfl, rfl⟩, rfl, rfl, rfl⟩

theorem EndKept.grantTo (c : InFlight) (s : State) : EndKept s (Machine.grantTo c s) := by
  unfold Machine.grantTo
  extract_lets g q s₁
  have h₁ : EndKept s s₁ := ⟨rfl, fun _ => ⟨rfl, rfl⟩, rfl, rfl, rfl⟩
  clear_value s₁
  refine (h₁.trans (EndKept.trimCache s₁.rdr.cache.length s₁)).trans ?_
  have h := startRuns_frame c (Machine.trimCache s₁.rdr.cache.length s₁)
  exact .of_eq h.vol_eq h.cy_eq h.rdr_eq h.sm_eq

theorem EndKept.grantList (l : List InFlight) (s : State) : EndKept s (Machine.grantList l s) := by
  induction l generalizing s with
  | nil => exact .refl s
  | cons c r ih =>
    unfold Machine.grantList
    split
    · exact ih s
    · split
      · exact (EndKept.grantTo c s).trans (ih _)
      · exact .refl s

theorem EndKept.releaseStaging (r : CmdRef) (s : State) : EndKept s (Machine.releaseStaging r s) := by
  unfold Machine.releaseStaging Machine.grantPass
  refine EndKept.trans ?_ (.grantList _ _)
  exact ⟨rfl, fun _ => ⟨rfl, rfl⟩, rfl, rfl, rfl⟩

theorem EndKept.dropWork (r : CmdRef) (s : State) : EndKept s (Machine.dropWork r s) := by
  unfold Machine.dropWork
  exact ⟨rfl, fun _ => ⟨rfl, rfl⟩, rfl, rfl, rfl⟩

theorem EndKept.retire (c : InFlight) (st : Nat) (s : State) : EndKept s (Machine.retire c st s) := by
  unfold Machine.retire
  extract_lets q s₁ s₂ v s₃ s₄
  have h₂ : EndKept s s₂ := (EndKept.of_eq (s := s) (u := s₁) rfl rfl rfl rfl).trans (.dropWork c.ref s₁)
  have h₃ : EndKept s₂ s₃ := by unfold s₃; split <;> exact .of_parts rfl rfl rfl rfl rfl
  have h := h₂.trans h₃
  split
  · refine h.trans (EndKept.trans ?_ (.releaseStaging _ _))
    unfold s₄; split
    · exact .voidBlocks _ _ _ _
    · exact .refl _
  · exact h

theorem EndKept.postEntry (c : InFlight) (st a b : Nat) (m : Bool) (s : State) : EndKept s (Machine.postEntry c st a b m s) :=
  .of_frame (postEntry_frame c st a b m s)

theorem EndKept.abortsDone (c : InFlight) (s : State) : EndKept s (Machine.abortsDone c s) := by
  unfold Machine.abortsDone
  exact EndKept.forEach _ _ (fun a x => (EndKept.retire a _ x).trans (EndKept.postEntry a _ _ _ _ _)) s

theorem EndKept.complete (r : CmdRef) (st a b : Nat) (m : Bool) (s : State) : EndKept s (Machine.complete r st a b m s) := by
  unfold Machine.complete
  split
  · exact .refl s
  · rename_i c _
    exact (((EndKept.postEntry c st a b m s).trans (.retire c st _)).trans (.abortsDone c _)).trans
      (.of_frame (fnSettle_frame r.fn _))

theorem EndKept.failCmd (r : CmdRef) (st : Nat) (s : State) : EndKept s (Machine.failCmd r st s) := by
  unfold Machine.failCmd
  split
  · exact .refl s
  · exact .complete _ _ _ _ _ _

theorem EndKept.completeFlush (r : CmdRef) (a b : Nat) (s : State) : EndKept s (Machine.completeFlush r a b s) := by
  unfold Machine.completeFlush
  split
  · exact .refl s
  · rename_i c _
    extract_lets own old
    unfold flushReport
    split
    · exact .complete _ _ _ _ _ _
    · rename_i x l rest _
      extract_lets status q s₁ s₂
      have h : EndKept s s₂ := by
        unfold s₂; split
        · exact .of_eq rfl rfl rfl rfl
        · exact (EndKept.of_eq (s := s) (u := s₁) rfl rfl rfl rfl).trans (.of_frame (event_frame ..))
      exact h.trans (.complete _ _ _ _ _ _)

theorem EndKept.event {s x : State} (h : EndKept s x) (f g : Fn) (code : Nat) (p : List DWord) :
    EndKept s (Machine.event f g code p x) := h.trans (.of_frame (event_frame f g code p x))

theorem EndKept.poolPass (s : State) : EndKept s (Machine.poolPass s) := by
  unfold Machine.poolPass
  extract_lets w o e₁ s₁ w' o' c₁
  have h : EndKept s s₁ := by
    unfold s₁
    split
    · refine EndKept.event ?_ _ _ _ _
      exact ⟨rfl, fun _ => ⟨rfl, rfl⟩, rfl, rfl, rfl⟩
    · split
      · refine EndKept.event ?_ _ _ _ _
        exact ⟨rfl, fun _ => ⟨rfl, rfl⟩, rfl, rfl, rfl⟩
      · exact .refl s
  refine h.trans ?_
  clear h
  unfold w' o' c₁
  clear_value s₁
  split
  · refine EndKept.event ?_ _ _ _ _
    exact ⟨rfl, fun _ => ⟨rfl, rfl⟩, rfl, rfl, rfl⟩
  · split
    · refine EndKept.event ?_ _ _ _ _
      exact ⟨rfl, fun _ => ⟨rfl, rfl⟩, rfl, rfl, rfl⟩
    · exact .refl s₁

theorem EndKept.tidy (s : State) : EndKept s (Machine.tidy s) := by
  unfold Machine.tidy
  have h₁ : EndKept s (releaseHeld s) := by
    unfold releaseHeld
    refine EndKept.forEach _ _ (fun c x => ?_) s
    split
    · exact .refl _
    · split
      · exact .failCmd _ _ _
      · exact .of_eq rfl rfl rfl rfl
  have h₂ : EndKept (releaseHeld s) (flushPass (releaseHeld s)) := by
    unfold flushPass
    refine EndKept.forEach _ _ (fun w x => ?_) _
    split
    · exact .refl _
    · split
      · exact .completeFlush _ _ _ _
      · exact .refl _
  exact (h₁.trans h₂).trans (.poolPass _)

theorem EndKept.tapeRest (s : State) : EndKept s (Machine.tapeRest s) := .of_frame (tapeRest_frame s)

/-- The end of tape use leaves the mode as it is or goes to IDLE. -/
theorem tapeRest_gl (s : State) :
    (tapeRest s).gl = s.gl ∨ (tapeRest s).gl = { s.gl with prev := s.gl.cur, cur := .idle, modeTs := s.tb } := by
  unfold tapeRest
  extract_lets busy work telltale
  split
  · exact .inl rfl
  · split
    · by_cases h : s.gl.cur = .idle
      · exact .inl (by rw [setMode_same h])
      · exact .inr (setMode_gl h)
    · exact .inl rfl

theorem tapeRest_cart (s : State) : (tapeRest s).gl.cart = s.gl.cart := by
  rcases tapeRest_gl s with h | h <;> rw [h]

/-- A tape command ends, and what its end lets go on goes on. -/
theorem ends_rest {s x : State} {r : CmdRef} {st a b : Nat} (h : Ends s x r st a b) : Ends s (tapeRest (tidy x)) r st a b :=
  (h.frame (tidy_frame x)).frame (tapeRest_frame _)

theorem endKept_rest (x : State) : EndKept x (tapeRest (tidy x)) := (EndKept.tidy x).trans (.tapeRest _)

end Sys2Proof.Machine
end

