-- ==== Sys2Proof/Tests/Slice0.lean ====
section
/-!
SUPPORT. Tests: ill-formed commands that WellFormed refuses, small steps, and states that meet the hypotheses of the
statements.
-/

namespace Sys2Proof.Machine

set_option Elab.async false

/-- A device in IDLE after a cold start, with nothing loaded. -/
def live : State :=
  { State.reset with
    gl := { Global.reset with cur := .idle, prev := .fill, phase := 4, locked := true }
    pins := { Pins.reset with perstN := true, outputs := true } }

/-- The same device in another mode. -/
def inMode (m : Mode) : State := { live with gl := { live.gl with cur := m } }

/-- A command in flight. -/
def flying (ref : CmdRef) (entry : BitVec 512) (st : Stage) : InFlight :=
  { ref := ref, slot := 0, entry := entry, order := 1, tb := 0, stage := st, first := 0, count := 0, bytes := 0, recs := [],
    segs := [], body := none, busy := false, stop := none, mark := 0 }

/-- Tag 7 of the PF's admin queue. -/
def ref0 : CmdRef := { fn := 0, sq := 0, tag := 7 }

/-- The state with one command in flight. -/
def withCmd (entry : BitVec 512) (st : Stage) (s : State) : State :=
  { s with hq := { s.hq with inflight := [flying ref0 entry st] } }

/-- An entry with an opcode, a data pointer and the words of bytes 24 to 31. -/
def mkEntry (op addr len b24 : Nat) : BitVec 512 := BitVec.ofNat 512 (op + addr * 2 ^ 64 + len * 2 ^ 128 + b24 * 2 ^ 192)

theorem witness_StepRunsFront : State.reset.pending = [] := by decide

theorem witness_ResetState : resetColumn.length = 20 := by decide

theorem witness_StepKeepsCanonicalForm : tabWf 0 State.reset.mi.units = true ∧ step State.reset = .next State.reset :=
  ⟨rfl, rfl⟩

theorem witness_RollbackFusesNeverFall : step State.reset = .next State.reset := rfl

theorem witness_CommandFrames : exec (.commandAged 5 { fn := 0, sq := 0, tag := 0 }) State.reset = .next State.reset := rfl

theorem witness_TimeNeverRunsBack : (∀ t env, Instr.stagingGrant 7 ≠ .rootPllLock t env)
    ∧ (∃ u, exec (.stagingGrant 7) { State.reset with gl := { Global.reset with locked := true } } = .next u ∧ u.tb = 7)
    ∧ ∃ u, exec (.stagingGrant 7) State.reset = .next u ∧ u.tb = 0 :=
  ⟨fun _ _ h => (by cases h), ⟨_, rfl, rfl⟩, ⟨_, rfl, rfl⟩⟩

theorem witness_ExecLeavesTheQueue : ∃ u, step { State.reset with pending := [.stagingGrant 7] } = .next u ∧ u.pending = [] :=
  ⟨_, rfl, rfl⟩

theorem witness_TagsStayDistinct : TagsDistinct State.reset ∧ TagsDistinct (withCmd 0 .ready live) := by decide

theorem witness_ColdResetCommands : live.pins.perstN = true ∧ live.gl.locked = true ∧ live.pins.supply = false
    ∧ live.pins.thermal = false ∧ ∃ x ∈ [0#16, 2000#16], (2000 : Int) ≤ x.toInt := by
  exact ⟨rfl, rfl, rfl, rfl, ⟨2000#16, List.mem_cons_of_mem _ (List.mem_cons_self ..), by decide⟩⟩

theorem witness_PinAndTemperatureReports : State.reset.pins.perstN = false
    ∧ (∀ x ∈ [1999#16], x.toInt < (2000 : Int)) ∧ (∃ x ∈ [1840#16], (1840 : Int) ≤ x.toInt)
    ∧ (∀ x ∈ [1759#16], x.toInt < (1760 : Int)) ∧ (∀ x ∈ [1839#16], x.toInt < (1840 : Int))
    ∧ ∃ x ∈ [1839#16], (1760 : Int) ≤ x.toInt := by
  refine ⟨rfl, fun x h => ?_, ⟨1840#16, List.mem_cons_self .., by decide⟩, fun x h => ?_, fun x h => ?_,
    ⟨1839#16, List.mem_cons_self .., by decide⟩⟩ <;> rw [List.mem_singleton.mp h] <;> decide

theorem witness_StopPinsEnterHold : live.pins.holdInN = true ∧ live.pins.pwrWarnN = true
    ∧ (live.gl.cur ≠ .reset ∧ live.gl.cur ≠ .fill ∧ live.gl.cur ≠ .hold) ∧ (inMode .hold).gl.cur = .hold
    ∧ State.reset.pins.pwrWarnN = true ∧ State.reset.gl.cur = .reset ∧ linkEnabled live 0 = true ∧ linkEnabled live 23 = true :=
  ⟨rfl, rfl, by decide, rfl, rfl, rfl, rfl, rfl⟩

theorem witness_WarmResetRequests : live.gl.cur ≠ .reset ∧ live.gl.cur ≠ .fill ∧ live.gl.resetWait = none
    ∧ bits (0x35A : Word) 0 8 = 0x5A ∧ bits (0x400 : Word) 0 8 ≠ 0x5A ∧ bits (0x400 : Word) 8 3 < 5
    ∧ 5 ≤ bits (0x500 : Word) 8 3 ∧ live.gl.moving = false
    ∧ ({ live with gl := { live.gl with resetWait := some { cause := 1, again := none } } } : State).gl.lcPending = none := by
  decide
theorem witness_WarmResetRequests_moving : ({ live with gl := { live.gl with moving := true } } : State).gl.moving = true := rfl

/-- A device in RESET with PERST_N high. -/
def released : State := { State.reset with pins := { Pins.reset with perstN := true, holdInN := false } }
theorem witness_StartUp : released.pins.perstN = true ∧ released.gl.locked = false ∧ released.pins.pllLost = false
    ∧ released.pins.supply = false ∧ released.pins.thermal = false ∧ released.gl.cur = .reset
    ∧ released.pins.holdInN = false := by decide

/-- A device whose warm reset waits with the tape at rest and a FLUSH in flight. -/
def resetting : State :=
  withCmd (BitVec.ofNat 512 4) .ready { live with gl := { live.gl with resetWait := some { cause := 1, again := none } } }
theorem witness_WarmResetRuns : resetting.gl.resetWait = some { cause := 1, again := none } ∧ resetting.gl.moving = false
    ∧ (∃ c ∈ resetting.hq.inflight, c.ref.sq < 8192) ∧ resetting.gl.lcPending = none := by decide

/-- A device whose gate delay runs, with die 0 running, die 1 stopping with a latched wake and die 2 starting. -/
def gating : State :=
  { live with crew := { live.crew with
    gateAt := some 9
    dies := [(0, { st := .running, latch := none }), (1, { st := .stopping, latch := some true }), (2, { st := .starting, latch := none })] } }
theorem witness_DieGating : gating.gl.cur = .idle ∧ gating.crew.gateAt.isSome = true ∧ (dieOf gating 1).st = .stopping
    ∧ (dieOf gating 1).latch = some true ∧ (dieOf gating 2).st = .starting ∧ (crewOf gating 1192).st ≠ .benched := by decide

/-- A device whose function runs with the admin queue, and I/O queue 1 with two committed entries. -/
def queued : State :=
  setCq 0 1 { cqNew 0x20000 8 with tail := 2 } (setSq 0 1 (sqNew 0x10000 8 1 1)
    (setCq 0 0 (cqNew 0x2000 8) (setSq 0 0 (sqNew 0x1000 8 0 1)
      (setHqFn 0 { hqFnDefault with en := true, unit := { st := .running, latch := none } } live))))
theorem witness_Doorbells : bellLive queued 0 = true ∧ (sqOf queued 0 1).unit.st = .running
    ∧ bits (7 : DWord) 0 32 < (sqOf queued 0 1).depth ∧ (sqOf queued 0 1).depth ≤ bits (8 : DWord) 0 32
    ∧ (cqOf queued 0 1).unit.st = .running ∧ bits (2 : DWord) 0 32 < (cqOf queued 0 1).depth
    ∧ (bits (2 : DWord) 0 32 + (cqOf queued 0 1).depth - (cqOf queued 0 1).head) % (cqOf queued 0 1).depth
        ≤ ((cqOf queued 0 1).tail + (cqOf queued 0 1).depth - (cqOf queued 0 1).head) % (cqOf queued 0 1).depth
    ∧ ((cqOf queued 0 1).tail + (cqOf queued 0 1).depth - (cqOf queued 0 1).head) % (cqOf queued 0 1).depth
        < (bits (3 : DWord) 0 32 + (cqOf queued 0 1).depth - (cqOf queued 0 1).head) % (cqOf queued 0 1).depth := by decide

/-- The device of `queued` with an entry submitted on I/O queue 1. -/
def submitted : State := setSq 0 1 { sqNew 0x10000 8 1 1 with tail := 1 } queued
/-- The same with an ORDERED wait: a READ in flight ahead of the entry. -/
def ordered : State :=
  { submitted with hq := { submitted.hq with inflight := [flying { fn := 0, sq := 1, tag := 9 } 2 .ready] } }
theorem witness_CommandFetch : fetching submitted = true ∧ fetchStopped submitted = false
    ∧ (pickSq submitted).map (fun x => (x.1, x.2.1)) = some (0, 1)
    ∧ orderedWaits submitted { fn := 0, sq := 1, tag := eTag 2 } 2 = false ∧ opcodeCheck 1 2 = none ∧ opcodeCheck 1 0x10 = some 1 := by
  decide +kernel
theorem witness_CommandFetch_ordered : fetching ordered = true ∧ fetchStopped ordered = false
    ∧ (pickSq ordered).map (fun x => (x.1, x.2.1)) = some (0, 1)
    ∧ orderedWaits ordered { fn := 0, sq := 1, tag := eTag (2 + 2 ^ 8) } (2 + 2 ^ 8) = true := by
  decide +kernel

/-- A live device with queue registers that R71 accepts. -/
def bootable : State := setHqFn 0 { hqFnDefault with aqSize := 0x00070007, asqBase := 0x1000, acqBase := 0x2000 } live
theorem witness_FunctionStartAndStop : fnLive bootable 0 = true ∧ (hqFn bootable 0).unit.st = .stopped ∧ aqOk bootable 0 = true
    ∧ bindFits bootable 0 (bits (hqFn bootable 0).aqVec 0 11) = true ∧ aqOk live 0 = false ∧ (hqFn live 0).unit.st = .stopped
    ∧ (hqFn queued 0).unit.st = .running ∧ queued.hq.inflight = [] ∧ regsLive live = true
    ∧ allotBroken live 0 (allotWord (allotOf live 0) 0 100) = 0 ∧ allotBroken live 1 (allotWord (allotOf live 1) 0 1) = 1 := by
  decide +kernel

/-- A CREATE_CQ of CQ 2 and a CREATE_SQ of SQ 2 on CQ 1, each with 8 entries. -/
def creatingCq : State := withCmd (mkEntry 0x10 0x30000 256 (2 + 7 * 2 ^ 16)) .ready queued
def creatingSq : State := withCmd (mkEntry 0x12 0x30000 512 (2 + 7 * 2 ^ 16 + 2 ^ 32)) .ready queued
theorem witness_QueueAdminCommands :
    (∃ c, Ready creatingCq 0x10 ref0 c ∧ eField c.entry 24 2 = 2 ∧ ringOk c 32 = true ∧ eField c.entry 28 2 = 0)
    ∧ (∃ c, Ready creatingSq 0x12 ref0 c ∧ eField c.entry 24 2 = 2 ∧ ringOk c 64 = true ∧ eField c.entry 28 2 = 1) := by
  refine ⟨⟨flying ref0 (mkEntry 0x10 0x30000 256 (2 + 7 * 2 ^ 16)) .ready, ⟨by decide +kernel, rfl, by decide +kernel, by decide⟩, by decide +kernel⟩,
    ⟨flying ref0 (mkEntry 0x12 0x30000 512 (2 + 7 * 2 ^ 16 + 2 ^ 32)) .ready, ⟨by decide +kernel, rfl, by decide +kernel, by decide⟩, by decide +kernel⟩⟩
theorem witness_QueueAdminCommands_state :
    (hqFn queued 0).unit.st ≠ .stopping ∧ (allotOf queued 0).qcount = 8192 ∧ (allotOf queued 0).vectors = 2048
    ∧ (cqOf creatingCq 0 2).unit.st = .stopped ∧ bindFits creatingCq 0 0 = true ∧ (sqOf creatingSq 0 2).unit.st = .stopped
    ∧ (cqOf creatingSq 0 1).unit.st = .running ∧ (∀ k, k ∈ sqIds queued 0 → (sqOf queued 0 k).cqid ≠ 2)
    ∧ (∃ k, k ∈ sqIds queued 0 ∧ (sqOf queued 0 k).cqid = 1) ∧ (sqOf queued 0 1).unit.st = .running
    ∧ (sqOf queued 0 1).head < 65536 := by
  refine ⟨by decide +kernel, by decide +kernel, by decide +kernel, by decide +kernel, by decide +kernel, by decide +kernel,
    by decide +kernel, by decide +kernel, ⟨1, by decide +kernel⟩, by decide +kernel⟩

/-- The device of `queued` with VF Enable set. -/
def virtual : State := { queued with hq := { queued.hq with vfEnable := true } }
theorem witness_FunctionReset : bellLive virtual 5 = true ∧ (5 : Fn) ≠ 0 ∧ fetching virtual = true ∧ virtual.pins.perstN = true
    ∧ virtual.hq.vfEnable = true ∧ queued.hq.vfEnable = false ∧ queued.pins.perstN = true ∧ (hqFn virtual 0).unit.st ≠ .stopping := by
  decide

/-- An ABORT of tag 9 on SQ 1, with a READ of that tag in flight, ready or past its checks' end. -/
def aborting (st : Stage) : State :=
  { queued with hq := { queued.hq with inflight := [flying ref0 (mkEntry 0x14 0 0 (1 + 9 * 2 ^ 16)) .ready,
    flying { fn := 0, sq := 1, tag := 9 } 2 st] } }
theorem witness_AbortOutcomes : (∃ c, Ready (aborting .ready) 0x14 ref0 c ∧ eField c.entry 24 2 = 1 ∧ eField c.entry 26 2 = 9)
    ∧ (findCmd (aborting .ready) { fn := 0, sq := 1, tag := 9 }).isSome = true ∧ TagsDistinct (aborting .ready)
    ∧ pastPonr (flying { fn := 0, sq := 1, tag := 9 } 2 .ready) = false
    ∧ failR0 (flying { fn := 0, sq := 1, tag := 9 } 2 .ready) < 2 ^ 64
    ∧ failR1 (flying { fn := 0, sq := 1, tag := 9 } 2 .ready) < 2 ^ 32
    ∧ pastPonr (flying { fn := 0, sq := 1, tag := 9 } 2 .running) = true := by
  refine ⟨⟨flying ref0 (mkEntry 0x14 0 0 (1 + 9 * 2 ^ 16)) .ready, ⟨by decide +kernel, rfl, by decide +kernel, by decide⟩, by decide +kernel, by decide +kernel⟩,
    by decide +kernel, by decide +kernel, by decide +kernel, by decide +kernel, by decide +kernel, by decide +kernel⟩
/-- The same ABORT with its target submitted on SQ 1 and not fetched. -/
def abortAhead : State := withCmd (mkEntry 0x14 0 0 (1 + 9 * 2 ^ 16)) .ready submitted
theorem witness_AbortOutcomes_submitted : (∃ c, Ready abortAhead 0x14 ref0 c ∧ eField c.entry 24 2 = 1)
    ∧ (∀ d ∈ abortAhead.hq.inflight, d.ref = ref0) ∧ (sqOf abortAhead 0 1).unit.st = .running ∧ (sqOf abortAhead 0 1).halted = false
    ∧ (sqOf abortAhead 0 1).depth = 8 ∧ ([9#16].take ((1 + 8 - 0) % 8)).findIdx? (· == 9#16) = some 0 ∧ 9#16 ∉ [8#16] := by
  refine ⟨⟨flying ref0 (mkEntry 0x14 0 0 (1 + 9 * 2 ^ 16)) .ready, ⟨by decide +kernel, rfl, by decide +kernel, by decide⟩, by decide +kernel⟩,
    by decide +kernel⟩

/-- A READ in flight from SQ 1. -/
def reading1 : State := { queued with hq := { queued.hq with inflight := [flying { fn := 0, sq := 1, tag := 9 } 2 .ready] } }
theorem witness_ChannelHalts : (sqOf reading1 0 1).unit.st ≠ .stopped ∧ (hqFn reading1 0).unit.st ≠ .stopping
    ∧ dataLeft (flying { fn := 0, sq := 1, tag := 9 } 2 .ready) = true ∧ (sqOf reading1 0 5).unit.st = .stopped := by
  decide +kernel

/-- Commands chosen from the tape queue: LOAD, UNLOAD, PARTITION with one size, truncating, long and sanitising ERASE. -/
def chosenLoad : State := withCmd (mkEntry 0x20 0 0 0) .chosen (inMode .thread)
theorem witness_LoadOutcomes :
    chosenCmd 0x20 ref0 chosenLoad = some (flying ref0 (mkEntry 0x20 0 0 0) .chosen) ∧ ref0.sq < 8192 ∧ chosenLoad.vol.loaded = false
    ∧ newestGen [(2 ^ 24 - 1, 0, []), (3, 8, []), (1, 4, [])] = some (3, 8, ([] : List Byte)) ∧ newestGen [] = none := by
  decide +kernel
theorem witness_LoadOutcomes_loaded : let s := { chosenLoad with vol := { chosenLoad.vol with loaded := true } }
    chosenCmd 0x20 ref0 s = some (flying ref0 (mkEntry 0x20 0 0 0) .chosen) ∧ s.vol.loaded = true ∧ s.vol.count < 2 ^ 32 := by
  decide +kernel

def chosenUnload : State := withCmd (mkEntry 0x21 0 0 0) .chosen (inMode .idle)
def runningUnload : State :=
  let s := withCmd (mkEntry 0x21 0 0 0) .running (inMode .idle)
  { s with hq := { s.hq with flushes := [{ ref := ref0, point := 0, losses := [] }] } }
theorem witness_UnloadAndPartition :
    (∃ c, chosenCmd 0x21 ref0 chosenUnload = some c) ∧ ref0.sq < 8192 ∧ chosenUnload.vol.loaded = false
    ∧ (∃ c, findCmd runningUnload ref0 = some c ∧ eOpcode c.entry = 0x21 ∧ c.stage = .running)
    ∧ (runningUnload.hq.flushes.find? fun x => x.ref == ref0) = some { ref := ref0, point := 0, losses := [] }
    ∧ offTape runningUnload 0 = false ∧ runningUnload.wr.part = none ∧ writeDue runningUnload = false
    ∧ (∀ l, l ∈ runningUnload.hq.lost → l.fn ≠ ref0.fn) := by
  refine ⟨⟨flying ref0 (mkEntry 0x21 0 0 0) .chosen, by decide +kernel⟩, by decide, by decide +kernel,
    ⟨flying ref0 (mkEntry 0x21 0 0 0) .running, by decide +kernel, by decide +kernel, rfl⟩, by decide +kernel, by decide +kernel,
    by decide +kernel, by decide +kernel, by decide +kernel⟩
/-- A PARTITION with FORCE and one size word, for a volume with block 0 recorded. -/
def chosenPartition : State :=
  let s := withCmd (mkEntry (0x22 + 1 * 2 ^ 40) 0x4000 4 1) .chosen (inMode .idle)
  { s with vol := { s.vol with loaded := true, parts := [(0, { partWhole with next := 1 })] } }
theorem witness_UnloadAndPartition_table :
    let c := flying ref0 (mkEntry (0x22 + 1 * 2 ^ 40) 0x4000 4 1) .chosen
    chosenCmd 0x22 ref0 chosenPartition = some c ∧ (dataIs c [] (4 * eField c.entry 24 1)).isSome = true ∧ eField c.entry 24 1 = 1
    ∧ layout 1024 [1] = some [(1024, 2048)] ∧ layout 1024 [0xFFFFFFFF] = none ∧ (eOpt c.entry).testBit 0 = true
    ∧ readersBefore chosenPartition c.order = false ∧ (∃ x, x ∈ chosenPartition.vol.parts ∧ 0 < x.2.next) := by
  refine ⟨by decide +kernel, by decide +kernel, by decide +kernel, by decide +kernel, by decide +kernel, by decide +kernel,
    by decide +kernel, ⟨(0, { partWhole with next := 1 }), by decide +kernel, by decide⟩⟩
theorem witness_UnloadAndPartition_plain : let c := flying ref0 (mkEntry 0x22 0x4000 4 1) .chosen
    (eOpt c.entry).testBit 0 = false ∧ (dataIs c [] (4 * eField c.entry 24 1)).isSome = true := by
  decide +kernel

/-- An ERASE (KIND in byte 5) to block 3 of partition 0 with four blocks recorded. -/
def erasing (kind : Nat) (st : Stage) : State :=
  let s := withCmd (mkEntry (0x23 + kind * 2 ^ 40) 0 0 3) st (inMode .idle)
  { s with vol := { s.vol with loaded := true, parts := [(0, { partWhole with next := 4 })] } }
theorem witness_EraseCommands :
    let c := flying ref0 (mkEntry 0x23 0 0 3) .chosen
    findCmd (erasing 0 .chosen) ref0 = some c ∧ eOpcode c.entry = 0x23 ∧ eOpt c.entry % 4 = 0 ∧ ref0.sq < 8192
    ∧ eBlock c.entry < (partOf (erasing 0 .chosen) (ePart c.entry)).next ∧ c.count = 0
    ∧ eBlock (mkEntry 0x23 0 0 5) = 5 ∧ (erasing 0 .running).wr.part = none ∧ (erasing 0 .running).wr.images = []
    ∧ (erasing 0 .running).wr.again = [] ∧ (erasing 0 .running).hq.flushes = [] ∧ (erasing 0 .running).hq.lost = []
    ∧ eOpt (mkEntry (0x23 + 1 * 2 ^ 40) 0 0 3) % 4 = 1 ∧ eOpt (mkEntry (0x23 + 2 * 2 ^ 40) 0 0 3) % 4 = 2
    ∧ readersBefore (erasing 1 .chosen) 1 = false := by
  decide +kernel
/-- The same truncation after its flush. -/
def truncating : State :=
  let s := erasing 0 .chosen
  { s with hq := { s.hq with inflight := s.hq.inflight.map fun c => { c with count := 1 }, flushes := [{ ref := ref0, point := 0, losses := [] }] } }
theorem witness_EraseCommands_plan : offTape truncating 0 = false ∧ truncating.wr.part = none
    ∧ (∃ p, truncPlan truncating 0 3 = .inr p) := by
  refine ⟨by decide +kernel, by decide +kernel, ⟨_, rfl⟩⟩

/-- An APPEND of one record of 3 bytes. -/
def appending (st : Stage) : State := withCmd (mkEntry 1 0x5000 3 1) st (inMode .idle)
theorem witness_AppendTakesStaging :
    let c := flying ref0 (mkEntry 1 0x5000 3 1) .ready
    (findCmd (appending .ready) ref0 = some c ∧ eOpcode c.entry = 1) ∧ dataPieces c.entry [] = some [(0x5000, 3)]
    ∧ lensOk c (recordLens c [] 3) 3 = true ∧ lensOk c (recordLens c [] 3) 4 = false
    ∧ quotaAdmits (appending .ready) 0 (reservation [3]) = true
    ∧ stagingUsed (appending .ready) + reservation [3] ≤ stagingLimit (appending .ready)
    ∧ (∀ d, d ∈ (appending .ready).hq.inflight → d.stage ≠ .waiting) ∧ TagsDistinct (appending .ready) := by
  decide +kernel
theorem witness_AppendTakesStaging_bad : dataPieces (mkEntry (1 + 4 * 2 ^ 8 + 0) 0x5000 3 1) [] ≠ none ∧ stagingLimit live < 2 ^ 40 := by
  decide +kernel
theorem witness_AppendTakesStaging_waiting : let c := flying ref0 (mkEntry 1 0x5000 3 1) .waiting
    atStage (appending .waiting) .waiting = [c] ∧ quotaAdmits (appending .waiting) c.ref.fn c.bytes = true
    ∧ stagingUsed (appending .waiting) + c.bytes ≤ stagingLimit (appending .waiting) := by
  decide +kernel

/-- A device with a volume of one partition loaded, and a calibration that is valid. -/
def loaded (s : State) : State :=
  { s with vol := { s.vol with loaded := true, nextSess := 5, hwm := 4, parts := [(0, { partWhole with session := some 4, next := 9 })] } }
/-- The APPEND above in staging, not compressed, with its one frame done. -/
def acceptable : State :=
  let s := loaded (appending .staged)
  { s with
    hq := { s.hq with inflight := s.hq.inflight.map fun c => { c with recs := [[1, 2, 3]], bytes := 2097152 } }
    eng := { s.eng with frames := [(ref0, 0, 0, runFrame false [1, 2, 3])] } }
theorem witness_AcceptanceAndMarks :
    let c := { flying ref0 (mkEntry 1 0x5000 3 1) .staged with recs := [[1, 2, 3]], bytes := 2097152 }
    fetching acceptable = true ∧ acceptanceHeld acceptable = false ∧ (atStage acceptable .staged).find? (framesDone acceptable) = some c
    ∧ findCmd acceptable ref0 = some c ∧ eOpcode c.entry = 1 ∧ streamCheck acceptable (ePart c.entry) = none
    ∧ appendFits c acceptable = true ∧ (eOpt c.entry).testBit 1 = false
    ∧ (c.recs.zipIdx.map fun x => 32 + (framesOf acceptable ref0 x.2).flatten.length).sum = 51 := by
  decide +kernel
def marking : State := loaded (withCmd (mkEntry 5 0 0 0x1234) .ready (inMode .idle))
theorem witness_AcceptanceAndMarks_mark :
    let c := flying ref0 (mkEntry 5 0 0 0x1234) .ready
    let v := partOf marking 0
    findCmd marking ref0 = some c ∧ eOpcode c.entry = 5 ∧ acceptanceHeld marking = false ∧ streamCheck marking (ePart c.entry) = none
    ∧ fits marking 0 { v with elems := v.elems ++ [markElement 0 0x1234 0 v], next := v.next + 1 } = true ∧ v.next < 2 ^ 58
    ∧ streamCheck live 0 = some 0x0105 := by
  decide +kernel
/-- A partition with no room left. -/
theorem witness_AcceptanceAndMarks_full :
    let v := { partWhole with end_ := 1024 }
    fits (setPart 0 v marking) 0 { v with elems := [markElement 0 0x1234 0 v], next := 1 } = false := by
  decide +kernel

/-- A FLUSH that covers nothing off tape. -/
def flushing : State :=
  let s := withCmd (mkEntry 4 0 0 0) .ready (inMode .idle)
  { s with hq := { s.hq with flushes := [{ ref := ref0, point := 0, losses := [] }] } }
theorem witness_FlushAndQueries :
    (findCmd flushing ref0 = some (flying ref0 (mkEntry 4 0 0 0) .ready) ∧ eOpcode (mkEntry 4 0 0 0) = 4)
    ∧ (flushing.hq.flushes.find? fun x => x.ref == ref0) = some { ref := ref0, point := 0, losses := [] }
    ∧ offTape flushing 0 = false ∧ (∀ l, l ∈ flushing.hq.lost → l.fn ≠ ref0.fn)
    ∧ offTape (setPart 0 { partWhole with elems := [markElement 0 1 0 partWhole] } flushing) 1 = true := by
  decide +kernel
theorem witness_FlushAndQueries_position :
    findCmd (withCmd (mkEntry 6 0x7000 64 0) .ready live) ref0 = some (flying ref0 (mkEntry 6 0x7000 64 0) .ready)
    ∧ eOpcode (mkEntry 6 0x7000 64 0) = 6 ∧ dataPieces (mkEntry 6 0x7000 64 0) [] = some [(0x7000, 64)]
    ∧ dataPieces (mkEntry 6 0x7000 63 0) [] = some [(0x7000, 63)] := by
  decide +kernel
theorem witness_FlushAndQueries_order :
    findCmd (withCmd (mkEntry 7 0x7000 32 2) .ready live) ref0 = some (flying ref0 (mkEntry 7 0x7000 32 2) .ready)
    ∧ eOpcode (mkEntry 7 0x7000 32 2) = 7 ∧ (dataIs (flying ref0 (mkEntry 7 0x7000 32 2) .ready) [] 32).isSome = true
    ∧ eField (mkEntry 7 0x7000 32 2) 24 2 = 2 := by
  decide +kernel

/-- Block 9 as a record of 3 bytes, unassembled. -/
def recordBytes : List Byte := recordHeader false false 0 9 3 (runFrame false [1, 2, 3]).length 4 ++ runFrame false [1, 2, 3]
def readEntry : BitVec 512 := BitVec.ofNat 512 (2 + 0xFFFF * 2 ^ 48 + 0x9000 * 2 ^ 64 + 100 * 2 ^ 128 + 9 * 2 ^ 192 + 2 ^ 256)
def verifyEntry : BitVec 512 := BitVec.ofNat 512 (3 + 0xFFFF * 2 ^ 48 + 9 * 2 ^ 192 + 2 ^ 256)
def reading2 (e : BitVec 512) : State :=
  let s := withCmd e .ready (inMode .idle)
  { s with
    hq := { s.hq with inflight := s.hq.inflight.map fun c => { c with first := 9 } }
    vol := { s.vol with loaded := true, parts := [(0, { partWhole with
      next := 10, elems := [{ markElement 0 0 0 { partWhole with next := 9 } with kind := .record, bytes := recordBytes, size := recordBytes.length }] })] } }
theorem witness_ReadAndVerify :
    let c := { flying ref0 readEntry .ready with first := 9 }
    (findCmd (reading2 readEntry) ref0 = some c ∧ eOpcode c.entry = 2) ∧ dataPieces c.entry [] = some [(0x9000, 100)]
    ∧ eBlock c.entry = 9 ∧ eCount c.entry = 1 ∧ blockAt (reading2 readEntry) (ePart c.entry) 9 = .record recordBytes
    ∧ headerOk (recordBytes.take 32) = true ∧ hdrEncrypted (recordBytes.take 32) = false ∧ hdrLen (recordBytes.take 32) = 3
    ∧ cutRuns (runCount 3) 3 (recordBytes.drop 32) = some [runFrame false [1, 2, 3]] ∧ frameRaw (runFrame false [1, 2, 3]) = true
    ∧ framePlain (hdrCompressed (recordBytes.take 32)) 3 0 (runFrame false [1, 2, 3]) = some [1, 2, 3] := by
  decide +kernel
theorem witness_ReadAndVerify_verify :
    let c := { flying ref0 verifyEntry .ready with first := 9 }
    (findCmd (reading2 verifyEntry) ref0 = some c ∧ eOpcode c.entry = 3) ∧ toEod c = false ∧ eCount c.entry = 1
    ∧ eKey c.entry = 65535 ∧ blockAt (reading2 verifyEntry) (ePart c.entry) 9 = .record recordBytes
    ∧ toEod (flying ref0 (BitVec.ofNat 512 (3 + 2 ^ 40)) .ready) = true ∧ readDone c = false := by
  decide +kernel
/-- Blocks not assigned, lost, blank, and a mark. -/
theorem witness_ReadAndVerify_stops :
    blockAt (reading2 readEntry) 0 10 = .unassigned ∧ blockAt (reading2 readEntry) 0 8 = .blank
    ∧ blockAt (setPart 0 { partWhole with next := 10, gone := [(9, 1)] } (reading2 readEntry)) 0 9 = .lost
    ∧ blockAt (setPart 0 { partWhole with next := 10, elems := [markElement 0 7 0 { partWhole with next := 9 }] } (reading2 readEntry)) 0 9
      = .mark 7 := by
  decide +kernel

/-- A LOCATE (OPTIONS 2: to the partition's beginning) at a stage, with all channel dies running. -/
def locating (op : Nat) (st : Stage) (m : Mode) : State :=
  let s := loaded (withCmd (mkEntry (op + 2 * 2 ^ 40) 0 0 0) st (inMode m))
  forEach (List.range 4) (fun d s => setDie d { st := .running, latch := none } s) { s with
    vol := { s.vol with parts := [(0, partWhole)] } }
theorem witness_TapeQueue :
    fetching (locating 0x20 .queued .idle) = true ∧ (locating 0x20 .queued .idle).gl.cur ≠ .hold
    ∧ tapeTaken (locating 0x20 .queued .idle) = false ∧ (locating 0x20 .queued .idle).gl.moving = false
    ∧ pickTape (advance 5 (locating 0x20 .queued .idle)) = some (flying ref0 (mkEntry (0x20 + 2 * 2 ^ 40) 0 0 0) .queued)
    ∧ serviceLasts (locating 0x20 .queued .idle) = false ∧ (locating 0x20 .queued .idle).wr.part = none
    ∧ anySession (locating 0x20 .queued .idle) = false ∧ writeDue (locating 0x20 .queued .idle) = false
    ∧ diesRun (locating 0x20 .queued .idle) = true
    ∧ atWork (advance 5 (locating 0x20 .queued .idle)) (flying ref0 (mkEntry (0x20 + 2 * 2 ^ 40) 0 0 0) .queued) = true
    ∧ atWork (advance 5 (locating 2 .queued .idle)) (flying ref0 (mkEntry (2 + 2 * 2 ^ 40) 0 0 0) .queued) = false := by
  decide +kernel
theorem witness_TapeQueue_locate :
    let c := flying ref0 (mkEntry (8 + 2 * 2 ^ 40) 0 0 0) .chosen
    findCmd (locating 8 .chosen .locate) ref0 = some c ∧ eOpcode c.entry = 8 ∧ (locating 8 .chosen .locate).rdr.locate = none
    ∧ (locateTarget (locating 8 .chosen .locate) c).2 < 2 ^ 64
    ∧ headAt (advance 5 (locating 8 .chosen .locate)) (locateTarget (locating 8 .chosen .locate) c).1 = false := by
  decide +kernel
def arrived (op : Nat) : State := let s := locating op .chosen .locate
  { s with rdr := { s.rdr with locate := some (1024 * slotLen, 1) } }
theorem witness_TapeQueue_reached :
    ((arrived 8).hq.inflight.find? fun c => c.order == 1 && (decide (c.stage = .chosen) || decide (c.stage = .running)))
      = some (flying ref0 (mkEntry (8 + 2 * 2 ^ 40) 0 0 0) .chosen)
    ∧ (arrived 2).rdr.locate = some (1024 * slotLen, 1) ∧ (arrived 2).gl.cur = .locate := by
  decide +kernel

/-- GET_PARAM and SET_PARAM of SPAN_PARITY with PERSIST, and GET_LOG 5. -/
def paramEntry (op v : Nat) : BitVec 512 := BitVec.ofNat 512 (op + 2 ^ 40 + 7 * 2 ^ 192 + v * 2 ^ 256)
def secureLive : State := { live with gl := { live.gl with lc := 2 } }
theorem witness_ParametersAndLogs :
    (findCmd (withCmd (paramEntry 0x16 1) .ready secureLive) ref0 = some (flying ref0 (paramEntry 0x16 1) .ready))
    ∧ eOpcode (paramEntry 0x16 1) = 0x16 ∧ eOpcode (paramEntry 0x15 1) = 0x15 ∧ eField (paramEntry 0x16 1) 24 2 = 7
    ∧ secureLive.gl.lc = 2 ∧ eField (paramEntry 0x16 1) 32 8 < param secureLive 7 0
    ∧ param secureLive 7 0 ≤ eField (paramEntry 0x16 3) 32 8 ∧ (eOpt (paramEntry 0x16 3)).testBit 0 = true
    ∧ eOpcode (mkEntry 0x17 0x4000 100 5) = 0x17 ∧ dataPieces (mkEntry 0x17 0x4000 100 5) [] = some [(0x4000, 100)]
    ∧ (logBytes live 0 5).length = 64 := by
  decide +kernel

/-- A function with a KEK, and key commands of each form: byte 5 and the words of bytes 24 to 31. -/
def kekHeld (op len opt b24 : Nat) : State :=
  let s := withCmd (mkEntry (op + opt * 2 ^ 40) 0x4000 len b24) .ready live
  { s with cy := { s.cy with keks := [(0, List.replicate 32 7)] } }
theorem witness_KeyCommands :
    let e := mkEntry (0x18 + 1 * 2 ^ 40) 0x4000 40 3
    findCmd (kekHeld 0x18 40 1 3) ref0 = some (flying ref0 e .ready) ∧ eOpcode e = 0x18 ∧ (eOpt e).testBit 0 = true
    ∧ (dataIs (flying ref0 e .ready) [] 40).isSome = true ∧ kekOf (kekHeld 0x18 40 1 3) 0 ≠ [] ∧ kekOf live 0 = []
    ∧ keyUnwrap (List.replicate 32 7) [] = none ∧ (eOpt (mkEntry 0x18 0x4000 384 0)).testBit 0 = false
    ∧ (dataIs (flying ref0 (mkEntry 0x18 0x4000 384 0) .ready) [] 384).isSome = true
    ∧ dataIs (flying ref0 (mkEntry 0x18 0x4000 383 0) .ready) [] 384 = none ∧ live.se.rsa = none ∧ live.se.rsaWait = [] := by
  decide +kernel
theorem witness_KeyCommands_erase :
    let e := mkEntry (0x19 + 1 * 2 ^ 40) 0x4000 0 (3 + 2 * 2 ^ 16)
    findCmd (kekHeld 0x19 0 1 (3 + 2 * 2 ^ 16)) ref0 = some (flying ref0 e .ready) ∧ eOpcode e = 0x19 ∧ eOpt e % 4 = 1
    ∧ TagsDistinct (kekHeld 0x19 0 1 (3 + 2 * 2 ^ 16)) ∧ (kekHeld 0x19 0 1 (3 + 2 * 2 ^ 16)).cy.busy = []
    ∧ eraseRange live (flying ref0 e .ready) = [3, 4] ∧ eOpt (mkEntry 0x19 0 0 3) % 4 = 0
    ∧ (eOpt (mkEntry (0x19 + 2 * 2 ^ 40) 0 0 3)).testBit 1 = true := by
  decide +kernel

theorem witness_RandomGenerator : fetching live = true ∧ { live with cy := { live.cy with health := true } }.cy.health = true := by
  decide

/-- A SERVICE command in SERVICE, and a CALIBRATE in CALIBRATE. -/
def serving (op b24 : Nat) : State := withCmd (mkEntry (0x25 + op * 2 ^ 40) 0 0 b24) .chosen (inMode .service)
def calibrating (b24 len : Nat) : State := withCmd (mkEntry 0x24 0x4000 len b24) .chosen (inMode .calibrate)
def noOutcome : CalOutcome :=
  { passed := 0, zoned := 0, entries := [], failed := [], adc := [], azk := [], reelK := 0, radii := (0, 0), loops := [], records := [] }
theorem witness_CalibrateAndService :
    findCmd (calibrating 0 0) ref0 = some (flying ref0 (mkEntry 0x24 0x4000 0 0) .chosen) ∧ eOpcode (mkEntry 0x24 0x4000 0 0) = 0x24
    ∧ eField (mkEntry 0x24 0x4000 0 0) 30 2 = 0 ∧ calMask (flying ref0 (mkEntry 0x24 0x4000 0 0) .chosen) = 0
    ∧ calMask (flying ref0 (mkEntry 0x24 0x4000 0 1) .chosen) &&& 0x44 = 0 ∧ calMask (flying ref0 (mkEntry 0x24 0x4000 0 1) .chosen) ≠ 0
    ∧ (calibrating 0 0).gl.cart = false ∧ calMask (flying ref0 (mkEntry 0x24 0x4000 2 (64 + 2 ^ 48)) .chosen) = 64
    ∧ eField (mkEntry 0x24 0x4000 2 (64 + 2 ^ 48)) 30 2 = 1
    ∧ (dataIs (flying ref0 (mkEntry 0x24 0x4000 2 (64 + 2 ^ 48)) .chosen) [] 2).isSome = true
    ∧ (crewOf (setUnitState 1152 .benched 7 (calibrating 0 0)) 1152).st = .benched := by
  decide +kernel
theorem witness_CalibrateAndService_service :
    (∀ op, op ∈ [1, 2, 3, 4] → (serviceCmd op ref0 (serving op 1152)).isSome = true)
    ∧ dieBusy (setDie 0 { st := .stopping, latch := none } live) 1220 = true ∧ dieBusy live 1152 = false
    ∧ (crewOf (setUnitState 1152 .benched 7 live) 1152).st = .benched ∧ (crewOf live 1152).st ≠ .benched
    ∧ (crewOf live 1152).st ≠ .spare ∧ live.tt.unit.st = .stopped ∧ live.gl.moving = false
    ∧ { live with tt := { live.tt with unit := { st := .running, latch := none } } }.tt.unit.st = .running
    ∧ (slotOf live 0).unit.st = .stopped := by
  decide +kernel
theorem witness_CalibrateAndService_full : spareLeft (forEach (List.range' 124 4) (fun i s => setUnitState i .benched 7 s) live) 0 = false := by
  decide +kernel

theorem witness_HoldByCommand :
    findCmd (withCmd (mkEntry 0x26 0 0 0) .ready live) ref0 = some (flying ref0 (mkEntry 0x26 0 0 0) .ready)
    ∧ eOpcode (mkEntry 0x26 0 0 0) = 0x26 ∧ eOpcode (mkEntry 0x27 0 0 0) = 0x27 ∧ TagsDistinct (withCmd (mkEntry 0x26 0 0 0) .ready live)
    ∧ live.gl.cur = .idle ∧ (inMode .hold).gl.cur = .hold ∧ (inMode .hold).gl.moving = false ∧ liveBits (inMode .hold) = 0
    ∧ (∀ d, d ∈ (withCmd (mkEntry 0x27 0 0 0) .ready (inMode .hold)).hq.inflight → d.stage ≠ .paused) := by
  decide +kernel

/-- An LC_CHANGE from USER to a state, without authorisation data. -/
def lcChanging (target : Nat) : State := withCmd (mkEntry 0x28 0 0 target) .ready { live with gl := { live.gl with lc := 1, lcMram := 1 } }
theorem witness_LifeCycleChange :
    findCmd (lcChanging 2) ref0 = some (flying ref0 (mkEntry 0x28 0 0 2) .ready) ∧ eOpcode (mkEntry 0x28 0 0 2) = 0x28
    ∧ eField (mkEntry 0x28 0 0 2) 8 12 = 0 ∧ lcReady (lcChanging 2) = true ∧ lcReady (inMode .hold) = false ∧ (lcChanging 2).gl.lc = 1
    ∧ lcAuth 1 2 = 0 ∧ lcAuth 1 3 = 1 ∧ lcAuth 3 1 = 2 ∧ lcAuth 1 0 = 3 ∧ lcConfirms live 3 [] = false := by
  decide +kernel
def armedLive : State := { live with gl := { live.gl with armed := some { target := 3, auth := [], at_ := 0 } } }
theorem witness_LifeCycleChange_armed : armedLive.gl.armed = some { target := 3, auth := [], at_ := 0 }
    ∧ lcConfirms (advance 5 armedLive) 3 [] = true ∧ (0 : Time).toNat + tenSeconds ≤ (advance 16000000000 armedLive).tb.toNat
    ∧ (advance 5 armedLive).tb.toNat < (0 : Time).toNat + tenSeconds := by
  decide +kernel
/-- RETURN with an RSA engine that is free, and engines that run a KEY_LOAD and a bundle. -/
def returned : State := { live with gl := { live.gl with lc := 3 } }
def rsaRuns (op : Nat) (j : RsaJob) : State :=
  let s := withCmd (mkEntry op 0 0 0) .running live
  { s with se := { s.se with rsa := some j } }
theorem witness_LifeCycleChange_rsa : returned.gl.lc = 3 ∧ barResponds returned = true ∧ returned.se.rsa = none
    ∧ returned.se.rsaWait = [] ∧ findCmd (rsaRuns 0x18 (.kek ref0 [])) ref0 = some (flying ref0 (mkEntry 0x18 0 0 0) .running)
    ∧ (rsaRuns 0x18 (.kek ref0 [])).se.rsa = some (.kek ref0 []) ∧ eOpcode (mkEntry 0x18 0 0 0) = 0x18
    ∧ (rsaRuns 0x29 (.bundle ref0 [])).se.rsa = some (.bundle ref0 []) ∧ eOpcode (mkEntry 0x29 0 0 0) = 0x29
    ∧ (rsaRuns 0x29 (.bundle ref0 [])).se.rsaWait = [] := by
  decide +kernel
/-- A signed change in RETURN, with authorisation data that a pointer names. -/
theorem witness_LifeCycleChange_signed :
    (if eField (mkEntry 0x28 0x4000 848 1) 8 12 = 0 then some [] else dataPieces (mkEntry 0x28 0x4000 848 1) []) = some [(0x4000, 848)]
    ∧ hostBytes (piecesLen [((0x4000 : DWord), 848)]) [] ≠ [] ∧ lcReady returned = true := by
  decide +kernel

/-- A first piece of 4,096 bytes, a last one besides, and an activation that waits. -/
theorem witness_PatchAndActivation :
    let e := mkEntry (0x29 + 1 * 2 ^ 40) 0x4000 4096 0
    findCmd (withCmd e .ready live) ref0 = some (flying ref0 e .ready) ∧ eOpcode e = 0x29 ∧ dataPieces e [] = some [(0x4000, 4096)]
    ∧ (eOpt e).testBit 0 = true ∧ (eOpt e).testBit 1 = false ∧ eField e 24 4 = 0 ∧ piecesLen [((0x4000 : DWord), 4096)] % 4096 = 0
    ∧ (eOpt (mkEntry (0x29 + 3 * 2 ^ 40) 0x4000 4096 0)).testBit 1 = true ∧ eField (mkEntry (0x29 + 1 * 2 ^ 40) 0x4000 4096 4) 24 4 ≠ 0
    ∧ live.se.rsa = none ∧ live.se.rsaWait = [] := by
  decide +kernel
def activating : State :=
  let s := withCmd (mkEntry 0x2A 0 0 0) .running live
  { s with hq := { s.hq with act := some { ref := ref0, since := 0, swapAt := none } } }
theorem witness_PatchAndActivation_swap :
    findCmd (withCmd (mkEntry 0x2A 0 0 0) .ready live) ref0 = some (flying ref0 (mkEntry 0x2A 0 0 0) .ready)
    ∧ eOpcode (mkEntry 0x2A 0 0 0) = 0x2A
    ∧ activating.hq.act = some { ref := ref0, since := 0, swapAt := none } ∧ activating.task.held = false
    ∧ swapReady (advance 5 activating) { ref := ref0, since := 0, swapAt := none } = true
    ∧ swapReady (advance 16000000000 activating) { ref := ref0, since := 0, swapAt := none } = false
    ∧ (0 : Time).toNat + tenSeconds ≤ (advance 16000000000 activating).tb.toNat
    ∧ (advance 5 activating).tb.toNat < (0 : Time).toNat + tenSeconds := by
  decide +kernel

/-- A device in USER with the task registers at given arguments. -/
def tasked (args : List (Nat × Word)) : State :=
  { live with gl := { live.gl with lc := 1, lcMram := 1 }, task := { live.task with args := args } }
theorem witness_TaskCommands :
    taskLive .i3c (tasked []) = true ∧ (tasked []).task.busy = false ∧ (tasked []).gl.lc ≠ 4 ∧ (tasked []).gl.lc ≠ 2
    ∧ (tasked []).hq.act = none ∧ (taskArg (tasked [(0, 5)]) 0).toNat = 5 ∧ (taskArg (tasked []) 0).toNat = 0
    ∧ (taskArg (tasked []) 1).toNat ≤ 4096 ∧ lcReady (tasked [(0, 2)]) = true
    ∧ lcAuth (tasked [(0, 2)]).gl.lc.toNat ((taskArg (tasked [(0, 2)]) 0).setWidth 3 : BitVec 3).toNat = 0 ∧ (tasked []).gl.lc ≠ 0
    ∧ (hqFn (tasked []) 0).unit.st = .stopped ∧ bits (taskArg (tasked [(0, 0x5A)]) 0) 0 8 = 0x5A
    ∧ bits (taskArg (tasked []) 0) 0 8 ≠ 0x5A ∧ (tasked []).gl.resetWait = none ∧ (tasked []).gl.cur ≠ .reset ∧ (tasked []).gl.cur ≠ .fill := by
  decide +kernel
theorem witness_TaskCommands_other :
    (hqFn queued 0).unit.st = .running ∧ taskLive .pcie queued = true ∧ queued.task.busy = false ∧ queued.gl.lc ≠ 4
    ∧ lcReady (inMode .hold) = false
    ∧ { live with gl := { live.gl with lc := 4 } }.gl.lc = 4
    ∧ taskBytes { live with task := { live.task with data := [(0, 0x10), (1, 0x84)] } } 4 = [0x10#8, 0x84#8, 0#8, 0#8]
    ∧ (let s := tasked [(0, 0x1000), (2, 0x2000), (4, 0x00070007)]
       let x := setHqFn 0 { hqFn s 0 with asqBase := 0x1000, acqBase := 0x2000, aqSize := taskArg s 4 &&& 0x0FFF0FFF#32 } s
       aqOk x 0 = true ∧ bindFits x 0 (bits (hqFn x 0).aqVec 0 11) = true) := by
  decide +kernel

def busyTask : State := { live with task := { live.task with busy := true } }
theorem witness_TaskRegistersBusy : taskLive .pcie busyTask = true ∧ busyTask.task.busy = true ∧ busyTask.gl.lc ≠ 4
    ∧ busyTask.gl.cur ≠ .reset ∧ busyTask.gl.cur ≠ .fill ∧ taskLive .i3c live = true ∧ live.task.busy = false
    ∧ ((0x1000 : Nat) ≤ 0x1FFC ∧ (0x1FFC : Nat) < 0x2000) ∧ ((0x10 : Nat) ≤ 0x4C ∧ (0x4C : Nat) < 0x50) ∧ bits (1 : Word) 0 8 ≠ 6 := by
  decide

def connected (st : Nat) : State :=
  { live with
    se := { live.se with doe := { spdmInitial with st := st }, chain := true, idKey := true, doeResp := some [1] }
    cy := { live.cy with seeded := true } }
def spdmCaps : List Byte := [0x12#8, 0xE1#8, 0#8, 0#8] ++ natLe 8 0 ++ natLe 4 4096 ++ natLe 4 4096
def spdmAlgs : List Byte := [0x12#8, 0xE3#8, 0#8, 0#8] ++ natLe 2 32 ++ natLe 2 1 ++ natLe 4 4 ++ natLe 4 1 ++ natLe 16 0
theorem witness_BoardBusAndSpdm :
    fetching (connected 3) = true ∧ boardAddress (connected 3) = 0x5C ∧ (connected 3).task.smbus ≠ some true
    ∧ (connected 3).task.smbus ≠ some false ∧ (connected 3).task.busy = false ∧ (0 : Byte) ≠ boardPec 0x5C [0x10#8, 0#8]
    ∧ (spdmOf (connected 3) .doe).wait = none ∧ (spdmOf (connected 3) .doe).limit = 4096 ∧ (spdmOf (connected 1) .doe).st = 1
    ∧ spdmCode [0x10#8, 0x84#8, 0#8, 0#8] = 0x84 ∧ spdmCode spdmCaps = 0xE1 ∧ spdmCaps.length = 20
    ∧ fieldLe spdmCaps 12 4 = 4096 ∧ fieldLe spdmCaps 16 4 = 4096 ∧ spdmCode spdmAlgs = 0xE3 ∧ fieldLe spdmAlgs 4 2 = spdmAlgs.length
    ∧ (fieldLe spdmAlgs 8 4).testBit 2 = true ∧ (fieldLe spdmAlgs 12 4).testBit 0 = true ∧ (spdmOf (connected 2) .doe).st = 2
    ∧ (spdmOf (connected 3) .doe).st = 3 := by
  decide +kernel
theorem witness_BoardBusAndSpdm_three :
    (connected 3).se.chain = true ∧ (connected 3).se.idKey = true ∧ (connected 3).cy.seeded = true ∧ (connected 3).se.rsa = none
    ∧ (connected 3).se.rsaWait = [] ∧ (connected 3).se.doeResp = some [1]
    ∧ (let m : List Byte := [0x12#8, 0x82#8, 0#8, 0#8, 0#8, 0#8, 4#8, 0#8]
       spdmCode m = 0x82 ∧ fieldLe m 2 1 = 0 ∧ fieldLe m 4 2 = 0 ∧ fieldLe m 6 2 = 4)
    ∧ (let m : List Byte := [0x12#8, 0x83#8, 0#8, 0#8] ++ natLe 32 0
       spdmCode m = 0x83 ∧ m.length = 36 ∧ fieldLe m 2 1 = 0 ∧ fieldLe m 3 1 = 0) := by
  decide +kernel

theorem witness_SourceSensing : srcExists live 0 8256 = true ∧ fnLive live 0 = true ∧ (258 : Nat) < icWords 0 ∧ regsLive live = true ∧ accessOk 0 0xF000 8 = true
    ∧ srcExists (setIcFn 0 { icFnDefault with sel := 8256 } live) 0 (icFn (setIcFn 0 { icFnDefault with sel := 8256 } live) 0).sel = true
    ∧ fnLive (setIcFn 0 { icFnDefault with sel := 8256 } live) 0 = true := by
  decide +kernel
/-- Both kinds of source at each clause: a level one, an edge one whose line has risen, and mode 5. -/
theorem witness_SourceSensing_modes : (srcOf live 0 8256).sense = 0 ∧ (fastOf live 0).sense = 2 ∧ (fastOf live 0).line = false
    ∧ fastLine (inMode .hold) 0 = true ∧ { fastDefault with sense := 5 }.sense = 5 ∧ { fastDefault with sense := 1 }.sense = 1
    ∧ (srcOf live 0 8272).sense = 2 := by
  decide +kernel

/-- The GPI 0 source level-sensed on PF vector 0, unmasked, its line active, and the normal class enabled. -/
def ringing : State :=
  let s := setIcFn 0 { icFnDefault with en := true } live
  setSrc 0 8704 { srcDefault 8704 with masked := false, line := true } { s with sp := { s.sp with gpi := 1 } }
theorem witness_InterruptDelivery : nextGroup (advance 5 ringing) = some (0, 0) ∧ (sourcesOf ringing 0).Nodup
    ∧ groupPending (advance 5 ringing) 0 0 = [8704] ∧ msixMasked ringing 0 0 = true
    ∧ msixMasked (setMsixWord 0 0 3 0 ringing) 0 0 = false ∧ nextGroup (advance 5 live) = none := by
  decide +kernel
theorem witness_InterruptDelivery_service :
    let s := setSrc 0 8704 (claim (srcOf ringing 0 8704)) ringing
    fnLive s 0 = true ∧ 8704 ∈ groupSources s 0 0 ∧ (srcOf s 0 8704).insvc = true ∧ (272 : Nat) < icWords 0 ∧ srcExists s 0 8704 = true
    ∧ holding (advance 5 s) 0 0 = false ∧ s.ic.fHoldEnd ≤ (advance 5 s).tb.toNat := by
  decide +kernel
/-- The fast class with HOLD pending, a hold-off that is open, and messages in the PBA. -/
def alarmed : State :=
  let s := setFast 0 { fastDefault with count := 1, line := true } (inMode .hold)
  { s with ic := { s.ic with fastEn := true, holdEnd := [(3, 1000)], pba := [(0, true)], fmask := [(0, true)] } }
theorem witness_InterruptDelivery_fast : fastReady (advance 5 alarmed) = true ∧ fastReady (advance 5 live) = false
    ∧ fastPending (advance 5 alarmed) = [0] ∧ holding (advance 5 alarmed) 0 3 = true ∧ tabGet false alarmed.ic.pba (vecKey 0 0) = true
    ∧ tabGet false alarmed.ic.fmask 0 = true ∧ tabGet false live.ic.fmask 0 = false
    ∧ (msixWord (setMsixWord 0 0 3 0 alarmed) 0 0 3).getLsbD 0 = false ∧ (msixWord alarmed 0 0 3).getLsbD 0 = true := by
  decide +kernel

/-- Log queue 0 with one item, its consumer running. -/
def oneItem : Item := { kind := .data, words := [1, 2], at_ := 0 }
def logging (v : Spill) : State := setSpill 0 v live
def drained : Spill := { spillDefault with unit := { st := .running, latch := none }, queue := [oneItem] }
theorem witness_SpillQueues :
    (spillOf live 0).part = none ∧ (spillOf live 0).flush = none ∧ (spillOf live 0).gapHeld = none ∧ (spillOf live 0).unit.st ≠ .running
    ∧ spillUsed (spillOf live 0) + [(1 : DWord), 2].length + 1 ≤ spillCapacity ∧ (spillOf live 0).gapOpen = false ∧ regsLive live = true
    ∧ (spillOf live 0).queue = [] ∧ (spillOf live 0).unit.st = .stopped
    ∧ (spillOf (logging drained) 0).unit.st = .running ∧ canBatch (spillOf (logging drained) 0) = true
    ∧ (spillOf (logging drained) 0).queue = [oneItem] ∧ oneItem.words.length ≤ batchWords ∧ (spillOf (logging drained) 0).pushing = false
    ∧ idleDue (advance 1000000 (logging drained)) (spillOf (logging drained) 0) = true
    ∧ (spillOf (logging { spillDefault with part := some [1] }) 0).part = some [1]
    ∧ (spillOf (logging { spillDefault with flush := some (1, false), queue := [oneItem] }) 0).flush = some (1, false) := by
  decide +kernel
/-- A full queue: an item that stands for 2,097,215 of its words, and one for all of them. -/
def fullItem (n : Nat) : Spill := { spillDefault with queue := [{ kind := .data, words := List.replicate n 0, at_ := 0 }] }
theorem witness_SpillQueues_full (n : Nat) (h : n = spillCapacity - 1 ∨ n = spillCapacity) :
    spillUsed (spillOf (logging (fullItem n)) 0) = n ∧ spillCapacity < n + [(0 : DWord)].length + 1
    ∧ (spillOf (logging (fullItem n)) 0).gapOpen = false ∧ (spillOf (logging (fullItem n)) 0).unit.st ≠ .running := by
  have e : spillOf (logging (fullItem n)) 0 = fullItem n := by
    simp only [spillOf, logging, setSpill, tabGet_tabSet_same]
  rw [e]
  refine ⟨by simp [spillUsed, fullItem, spillDefault], ?_, rfl, by simp [fullItem, spillDefault, unitStopped]⟩
  simp only [spillCapacity, List.length_cons, List.length_nil] at h ⊢
  omega
theorem witness_SpillQueues_head : let v := { spillDefault with size := 3, tail := 2 }
    bits (1 : Word) 0 16 ≤ v.size ∧ (bits (1 : Word) 0 16 + (v.size + 1) - v.head) % (v.size + 1) ≤ unreleased v
    ∧ unreleased v < (bits (3 : Word) 0 16 + (v.size + 1) - v.head) % (v.size + 1) := by
  decide

/-- A slot that runs at every boundary, and states with slot 3 so. -/
def runner : Slot := { slotDefault with unit := { st := .running, latch := none }, regs := { slotDefault.regs with ctl := 1, out := 0x85 } }
def cascade (v : Slot) : State := setSlot 3 v live
theorem witness_StrokeSchedule : (cascade runner).gl.locked = true ∧ (cascade runner).ce.swap = none
    ∧ ((cascade runner).ce.slots.map Prod.fst).Nodup ∧ (cascade runner).tt.unit.st ≠ .stopping ∧ (cascade runner).gl.cur ≠ .hold
    ∧ slotDue ((cascade runner).ce.cnt + 1).toNat (slotOf (cascade runner) 3) = true ∧ slotOpen (cascade runner) 3 = false
    ∧ slotSkips { advance 9 (cascade runner) with ce := { (cascade runner).ce with holdOn := false } } 3 = false
    ∧ slotDue ((cascade runner).ce.cnt + 1).toNat (slotOf (cascade runner) 4) = false
    ∧ State.reset.gl.locked = false := by
  decide +kernel
/-- No slot of that state is critical. -/
theorem witness_StrokeSchedule_crit (k : Nat) : slotCrit (slotOf (cascade runner) k) = false := by
  by_cases h : k = 3
  · subst h; decide +kernel
  · have e : slotOf (cascade runner) k = slotDefault :=
      show tabGet slotDefault (tabSet slotDefault live.ce.slots 3 runner) k = _ by rw [tabGet_tabSet_other _ _ _ h]; rfl
    rw [e]; decide +kernel
/-- A STOPPING slot, one whose computation is open, one with FREEZE, and a critical one that has overrun twice. -/
theorem witness_StrokeSchedule_cases :
    let stopped := cascade { runner with unit := { st := .stopping, latch := none } }
    let open_ := { cascade runner with ce := { (cascade runner).ce with ready := [3] } }
    let frozen := cascade { runner with regs := { runner.regs with ctl := 3 } }
    let crit := { cascade { runner with regs := { runner.regs with ctl := 5 }, ovrRun := 2 } with
      ce := { (cascade { runner with regs := { runner.regs with ctl := 5 }, ovrRun := 2 }).ce with ready := [3] } }
    (slotDue 1 (slotOf stopped 3) = true ∧ slotOpen stopped 3 = false ∧ (slotOf stopped 3).unit.st = .stopping
      ∧ (slotOf stopped 3).regs.out.getLsbD 7 = true ∧ bits (slotOf stopped 3).regs.out 0 7 < 96)
    ∧ (slotDue 1 (slotOf open_ 3) = true ∧ slotOpen open_ 3 = true ∧ (slotOf open_ 3).unit.st ≠ .stopping ∧ open_.ce.ready = [3])
    ∧ (slotDue 1 (slotOf frozen 3) = true ∧ slotSkips { advance 9 frozen with ce := { frozen.ce with holdOn := false } } 3 = true)
    ∧ (slotCrit (slotOf crit 3) = true ∧ slotDue 1 (slotOf crit 3) = true ∧ slotOpen crit 3 = true ∧ (slotOf crit 3).ovrRun = 2)
    ∧ (1#64 : DWord) = live.ce.cnt + 1 := by
  decide +kernel
/-- No computation of that state is open. -/
theorem witness_StrokeSchedule_open (k : Nat) : slotOpen (cascade runner) k = false := by
  by_cases h : k = 3
  · subst h; decide +kernel
  · have e : slotOf (cascade runner) k = slotDefault :=
      show tabGet slotDefault (tabSet slotDefault live.ce.slots 3 runner) k = _ by rw [tabGet_tabSet_other _ _ _ h]; rfl
    simp only [slotOpen, e]; rfl
/-- A slot with HOLD_ACT 1 in HOLD, and an armed exchange. -/
theorem witness_StrokeSchedule_hold :
    let held := { cascade { runner with regs := { runner.regs with ctl := 0x10000001 } } with gl := { live.gl with cur := .hold } }
    let armed := { cascade runner with ce := { (cascade runner).ce with swap := some (3, 24, false) } }
    (held.gl.locked = true ∧ held.gl.cur = .hold ∧ held.ce.swap = none ∧ bits (slotOf held 3).regs.ctl 28 2 = 1) ∧ armed.ce.swap = some (3, 24, false) := by
  decide +kernel

/-- Slot 3 with a computation under way. -/
def computing : State := cascade { runner with run := some (slotLatch (cascade runner) 3) }
theorem witness_SlotComputation : ∃ l, (slotOf computing (3#6 : BitVec 6).toNat).run = some l ∧ computing.tt.unit.st ≠ .stopping
    ∧ (∀ g ∈ l.regs.sects, g.en = false) ∧ l.bin = none ∧ l.regs.out.getLsbD 7 = true ∧ bits l.regs.out 0 7 < 96 ∧ l.quiet = true :=
  ⟨slotLatch (cascade runner) 3, by decide +kernel⟩
theorem witness_SlotComputation_quiet :
    let s := { computing with tt := { computing.tt with unit := { st := .stopping, latch := none }, left := [3] } }
    s.tt.unit.st = .stopping ∧ s.tt.unit.latch = none ∧ (∀ k ∈ s.tt.left, k = (3#6 : BitVec 6).toNat) := by
  decide +kernel
theorem witness_SlotComputation_loops :
    (inMode .service).gl.cur = .service ∧ (slotOf (inMode .service) 30).unit.st = .stopped
    ∧ bits (0x01000001#32 : Word) 24 4 ≤ 8 ∧ bits (0x01000001#32 : Word) 28 2 ≠ 3
    ∧ (slotOf (setSlot 3 runner (inMode .service)) 3).unit.st = .running
    ∧ live.gl.cur ≠ .service ∧ live.gl.cur ≠ .calibrate ∧ live.gl.cur ≠ .reset ∧ live.gl.cur ≠ .fill ∧ regsLive live = true
    ∧ (0x80001803#32 : Word).getLsbD 31 = true := by
  decide +kernel

/-- A lane that is UP under session 0, its units under epoch 0, with losses counted; its module's units active. -/
def laneLive (st : LaneSt) (losses : Nat) : State :=
  setCrew 0 { crewZero with st := .active } (setCrew 1188 { crewZero with st := .active }
    (setCrew 1204 { crewZero with st := .active } (setLane 0 { laneDefault with st := st, losses := losses, hist := [(0, [(0, 0), (1188, 0), (1204, 0)])] }
      { live with gl := { live.gl with cur := .read, cart := true } })))
theorem witness_LanesAndCells : (laneOf live 3).st ≠ .up ∧ (laneOf (laneLive .up 0) 0).st = .up
    ∧ (∀ h ∈ (laneOf (laneLive .up 0) 0).hist, h.1 ≠ (5 : BitVec 12))
    ∧ tagOf (laneLive .up 0) 0 0 1188 = some 0 ∧ cellType (BitVec.ofNat 512 (3 * 2 ^ 508)) = 3
    ∧ itemAccepted (laneLive .up 0) 1188 0 = true ∧ tagOf (laneLive .up 0) 0 0 0 = some 0
    ∧ cellType (BitVec.ofNat 512 (2 ^ 508)) = 1 ∧ 64 * 0 + cellField (BitVec.ofNat 512 (2 ^ 508)) 22 6 = 0
    ∧ itemAccepted (laneLive .up 0) 0 0 = true ∧ (crewOf (laneLive .up 0) 0).st = .active ∧ frontRuns (laneLive .up 0) = true
    ∧ itemAccepted (laneLive .up 0) 0 1 = false
    ∧ (laneOf (laneLive .up 0) 0).losses + 1 ≤ bits (laneLive .up 0).lk.ctl 0 4
    ∧ bits (laneLive .up 15).lk.ctl 0 4 < (laneOf (laneLive .up 15) 0).losses + 1
    ∧ (laneOf (laneLive .training 0) 0).st = .training := by
  decide +kernel

/-- Both readers of module 0 active, under a LOCATE, the tape moving by encoder 0; module 0 and reader 0 as given. -/
def moves (r : ServoRd) (v : ServoMod) : State :=
  let s := setCrew 1205 { crewZero with st := .active } (laneLive .up 0)
  let s := { s with
    gl := { s.gl with cur := .locate }, tb := 3200000
    sv := { s.sv with speedAt := some 0, rad0 := 40000000 }
    sp := { s.sp with encs := [(0, { encDefault with edges := [(3200000, 2000), (0, 0)] })] } }
  setServoMod 0 v (setServoRd 0 r s)
/-- A reader whose burst C window is over, with bursts A and B taken. -/
def inBurst (cross : List Nat) : ServoRd :=
  { servoRdDefault with st := .track, nextB := 2, winFrom := 1000, winTo := 2000, ival := 96000, cross := cross, ctl := 0x00080410
                        bursts := [(1, some [200, 210, 220, 230, 240, 250], 1), (0, some [100, 110, 120, 130, 140, 150], 1)]
                        giveAB := some (some 5) }
theorem witness_ServoSamples : let s := moves (inBurst [1100, 1200, 1300]) servoModDefault
    let q := servoSpeed (advance 0 s)
    (laneOf s 0).st = .up ∧ tagOf s 0 0 1204 = some 0 ∧ cellType (BitVec.ofNat 512 (2 * 2 ^ 508)) = 2 ∧ itemAccepted s 1204 0 = true
    ∧ (servoRd q 0).st = .track ∧ (servoRd q 0).winTo ≤ 4 * q.tb.toNat ∧ (servoRd q 0).dir = false ∧ (servoRd q 0).nextB = 2
    ∧ (servoRd q 0).bursts.length = 2
    ∧ ((servoRd q 0).cross.filter fun x => decide ((servoRd q 0).winFrom ≤ x) && decide (x < (servoRd q 0).winTo)).length = 3
    ∧ (servoRd (servoSpeed (advance 0 (moves (inBurst [1100]) servoModDefault))) 0).st = .track
    ∧ readerTracks s 0 = true ∧ readerTracks s 1 = false ∧ hasServo s 0 = true := by
  decide +kernel
/-- A module that may write again, and one that has been off track three times. -/
theorem witness_ServoSamples_gate :
    let s := moves (inBurst []) { servoModDefault with good := [0, 0, 0, 0], wi := 64, limit := 0x00960640, off := 3 }
    let q := servoSpeed (advance 0 s)
    let v := servoMod s 0
    v.gate = false ∧ s.gl.cur ≠ .hold ∧ hasServo s 0 = true ∧ v.err.natAbs < bits v.wi 0 16
    ∧ v.m.natAbs < 256 * bits v.limit 16 16 ∧ v.good.length = 4 ∧ (∀ e ∈ v.good, 2 * e < bits v.wi 0 16)
    ∧ v.closing ≠ some (advance 0 s).tb
    ∧ lateralMode q = true ∧ q.sv.speedAt = some 0 ∧ 3 ≤ (servoMod q (0#3 : BitVec 3).toNat).off ∧ ServoLoss.offTrack 0 ∉ q.sv.bad := by
  decide +kernel
/-- The two readers of module 0 in TRACK, with what they have given. -/
def pair (a b : Option (Option Int)) : State :=
  setServoRd 1 { inBurst [] with giveAB := b } (moves { inBurst [] with giveAB := a } servoModDefault)
theorem witness_ServoSamples_module :
    (∀ n, n = 0 ∨ n = 1 → readerTracks (pair (some (some 3)) (some (some 5))) n = true
      ∧ (servoRd (pair (some (some 3)) (some (some 5))) n).giveAB ≠ none ∧ (servoRd (pair (some (some 3)) (some none)) n).giveAB ≠ none
      ∧ (servoRd (pair (some none) (some (some 5))) n).giveAB ≠ none ∧ (servoRd (pair (some none) (some none)) n).giveAB ≠ none)
    ∧ (servoRd (pair none (some none)) 0).giveAB = none ∧ readerTracks (pair none (some none)) 0 = true := by
  refine ⟨?_, by decide +kernel⟩
  intro n h
  rcases h with rfl | rfl <;> decide +kernel

/-- Link 3 in sync and enabled, with what the encoders hold. -/
def linked (v : Enc) : State :=
  { live with sp := { live.sp with sync := 0x000008, allUp := some 0, encs := [(0, v)] } }
theorem witness_SheetPortLinks : linkInSync (linked encDefault) 4 = false ∧ linkInSync (linked encDefault) 3 = true
    ∧ linkEnabled (linked encDefault) 3 = true ∧ (3#5 : BitVec 5).toNat < 24 ∧ (linked encDefault).gl.locked = true
    ∧ linkEnabled { linked encDefault with sp := { (linked encDefault).sp with ctl := 0 } } 3 = false
    ∧ linksUp { linked encDefault with sp := { (linked encDefault).sp with ctl := 8 } } = true
    ∧ 0 + 1600000 ≤ (advance 1600000 (linked encDefault)).tb.toNat
    ∧ (linked encDefault).gl.cur ≠ .reset ∧ (linked encDefault).gl.cur ≠ .fill
    ∧ tapeRests (advance 0 (linked encDefault)) = true
    ∧ tapeRests (advance 0 (linked { encDefault with edges := [(0, 9)] })) = false
    ∧ (encOf (linked { encDefault with idx := true, count := 5 }) 0).count.toNat % 65536 ≠ 0
    ∧ 2 * ((encOf (linked { encDefault with idx := true, count := 5 }) 0).count.toNat % 65536) < 65536
    ∧ State.reset.gl.cur = .reset := by
  decide +kernel

/-- An end-of-data set, and a device that writes partition 0 with `w` in its writer. -/
def endSet : DataSet :=
  { part := 0, dsn := 7, kind := 3, session := 4, first := 0, next := 0, contLen := 0, close := 0, spanP := 0, spanAt := 0, payload := [],
    owned := [], carried := [] }
def writes (w : Writer) : State :=
  let s := loaded (inMode .write)
  { s with
    wr := w, gl := { s.gl with cart := true }
    lk := { s.lk with lanes := (List.range 16).map fun l => (l, { laneDefault with st := .up }) }
    crew := { s.crew with dies := (List.range 4).map fun d => (d, { st := .running, latch := none }) } }
def blockOf (rows : Nat) : Block :=
  { ord := 0, set := { endSet with dsn := 3, kind := 0 }, attempt := 0, rows := rows, sep := false, map := List.range 992,
    limits := limitsNow live, at_ := 1024 * slotLen }
def bursting (rows : Nat) : Writer :=
  { Writer.reset with part := some 0, block := some (blockOf rows), again := [(0, endSet)] }
theorem witness_WritingRows :
    (writes (bursting 3)).wr.part = some 0 ∧ (writes (bursting 3)).gl.cur = .write ∧ (writes (bursting 3)).sm.hitch = .none
    ∧ (writes (bursting 3)).wr.block = some (blockOf 3) ∧ (blockOf 3).rows < 8
    ∧ (writes (bursting 8)).wr.block = some (blockOf 8) ∧ 8 ≤ (blockOf 8).rows ∧ (blockOf 8).sep = false
    ∧ (writes (bursting 8)).wr.queue = [] ∧ goesOn (advance 0 (writes (bursting 8))) 0 = true
    ∧ live.wr.part = none := by
  decide +kernel
def requeue : Rewrite := { tb := 0, dsn := 3, cw := 5, track := 5, lane := false }
def rewriting : State :=
  setCrew 0 { crewZero with st := .active } (writes { bursting 8 with
    queue := [requeue], sets := [{ set := (blockOf 8).set, attempt := 0, at_ := 0, rewrites := 0, passed := [], failed := false }] })
theorem witness_WritingRows_rewrite : (blockOf 8).rows < 64 ∧ rewriting.wr.queue = [requeue] ∧ eligible (advance 9 rewriting) (blockOf 8) requeue = true
    ∧ (∀ r ∈ rewriting.wr.sets, r.rewrites < 248) ∧ rowFits rewriting (blockOf 8) = true ∧ trackAvoided rewriting 0 = false
    ∧ (0 : Nat) ≠ requeue.track := by
  decide +kernel
theorem witness_WritingRows_next :
    let s := writes { bursting 8 with block := none }
    s.wr.block = none ∧ lanesUp s = true ∧ (takeNext 0 (advance 0 s)).isSome = true
    ∧ (beginAt (partOf s 0) 25 (partOf s 0).at_).isSome = true := by
  decide +kernel
theorem witness_WritingRows_start :
    let s := { writes { Writer.reset with again := [(0, endSet)] } with gl := { (writes Writer.reset).gl with cur := .idle } }
    s.gl.cur ≠ .reset ∧ s.gl.cur ≠ .fill ∧ s.gl.cur ≠ .hold ∧ (s.gl.cur = .idle → s.gl.moving = false) ∧ s.wr.part = none
    ∧ freeToWrite s = true ∧ calReq s = false ∧ serviceLasts s = false ∧ writeNext (advance 0 s) = some 0 ∧ diesRun s = true
    ∧ (if s.wr.images.isEmpty then packSession (partOf s 0) else 0) ≤ s.vol.hwm ∧ diesRun live = false := by
  decide +kernel

theorem witness_TapePacing :
    let s := { writes { bursting 8 with again := [] } with sm := { (writes (bursting 8)).sm with hitch := .waiting, laneStop := true } }
    s.sm.hitch = .waiting ∧ s.wr.part = some 0 ∧ lanesUp s = true ∧ s.sm.laneStop = true ∧ s.gl.cart = true
    ∧ { s with sm := { s.sm with laneStop := false } }.wr.again = [] ∧ s.wr.images = []
    ∧ closePending (partOf s 0) = false ∧ finishDue (partOf s 0) = false ∧ backlog (partOf s 0) < bits s.sm.resume 0 12
    ∧ s.vol.loaded = true ∧ (s.vol.parts.map Prod.fst).Nodup ∧ s.gl.cur ≠ .reset ∧ s.gl.cur ≠ .fill := by
  decide +kernel
/-- A READ under way while write data waits, and a READ that has waited. -/
theorem witness_TapePacing_reads :
    let w := (writes { bursting 8 with part := none, images := [endSet] })
    let s := { w with gl := { w.gl with cur := .read }, hq := (withCmd (mkEntry 2 0 0 0) .chosen w).hq }
    let r := { w with hq := (withCmd (mkEntry 2 0 0 0) .queued w).hq }
    s.gl.cur = .read ∧ writeDue s = true ∧ findCmd s ref0 = some (flying ref0 (mkEntry 2 0 0 0) .chosen)
    ∧ readOverdue (advance (BitVec.ofNat 64 (10 ^ 14)) r) = true ∧ anySession r = true ∧ r.gl.cur ≠ .read ∧ r.gl.cur ≠ .verify
    ∧ readBacklog s < bits s.sm.resume 16 12 ∧ bits { s.sm with resume := 0 }.resume 16 12 ≤ readBacklog s
    ∧ (setSlot 0 { slotDefault with regs := { slotRegsDefault with ctl := 1 } } s).ce.slots.length = 1 := by
  decide +kernel

/-- Copy 5 of codeword 9 of data set 3, on channel 0, under verify. -/
def copyAt (elem : Nat) : Copy :=
  { id := 5, dsn := 3, cw := 9, block := 3, row := 0, track := 9, elem := elem, first := 1000, window := 5000, counts := true, doomed := false,
    lane := false, last := 2000, gated := false, limits := { weakLlr := 0, weakMax := 96, failRun := 1, failWin := 0 } }
def verifying (n : Nat) : State :=
  setCrew 0 { crewZero with st := .active } { live with wr := { Writer.reset with
    copies := [copyAt 0]
    sets := [{ set := (blockOf 8).set, attempt := 0, at_ := 0, rewrites := 0, passed := (List.range n).map fun k => 10 + k, failed := false }] } }
theorem witness_VerifyOutcomes : (∀ c ∈ live.wr.copies, c.id ≠ 5)
    ∧ ((verifying 2).wr.copies.find? fun x => x.id == 5) = some (copyAt 0) ∧ (copyAt 0).cw ≠ fillerCw
    ∧ (∃ r, runOf (verifying 2) 3 = some r ∧ (copyAt 0).cw ∉ r.passed ∧ r.passed.length + 1 ≠ 7936)
    ∧ (copyAt 0).first.toNat ≤ (advance 3000 (verifying 2)).tb.toNat
    ∧ (advance 3000 (verifying 2)).tb.toNat < (copyAt 0).first.toNat + (copyAt 0).window
    ∧ (copyAt 0).first.toNat + (copyAt 0).window ≤ (advance 9000 (verifying 2)).tb.toNat
    ∧ (copyAt 0).limits.failRun ≤ (elemOf (verifying 2) 0).run + 1 ∧ (crewOf (verifying 2) 0).st = .active
    ∧ (elemOf (verifying 2) 0).degraded = false ∧ (copyAt 0).block ≠ (copyAt 0).dsn + 7 := by
  refine ⟨by decide +kernel, by decide +kernel, by decide +kernel, ⟨_, rfl, by decide +kernel⟩, ?_⟩
  decide +kernel
/-- The last codeword but one has passed. -/
theorem witness_VerifyOutcomes_last : ∃ r, runOf (verifying 7935) 3 = some r ∧ r.passed.length + 1 = 7936 ∧ (copyAt 0).cw ∉ r.passed := by
  refine ⟨_, rfl, by simp, ?_⟩
  simp only [copyAt, List.mem_map, List.mem_range, not_exists, not_and]
  intro k _
  omega

/-- A frame with no alignment left, one that verifies writing, and the die 0 with one of them. -/
def frameJob (v : Option Nat) : FrameJob :=
  { channel := 3, tb := 5, verify := v, zone := 0, entry := [], taps := [], trials := [], found := true, sums := noSums, epoch := 0, ecc := 0,
    synd := 0, cut := false }
def decoding (st : Mode) (queue : List FrameJob) (busy : List (Nat × FrameJob)) : State :=
  setCrew 1024 { crewZero with st := .active } { inMode st with rch := { live.rch with queues := [(0, queue)], engines := busy } }
theorem witness_DecodeEngines : dieQueue live 0 = [] ∧ dieQueue (decoding .read [frameJob none] []) 0 = [frameJob none]
    ∧ (crewOf (decoding .read [frameJob none] []) (decodeUnit 0)).st = .active ∧ (∀ x ∈ (decoding .read [frameJob none] []).rch.engines, x.1 ≠ 0)
    ∧ ((decoding .read [] [(0, frameJob none)]).rch.engines.find? fun x => x.1 == 0) = some (0, frameJob none)
    ∧ itemAccepted (decoding .read [] [(0, frameJob none)]) (decodeUnit 0) 0 = true
    ∧ itemAccepted (decoding .read [] [(0, frameJob none)]) (decodeUnit 0) 1 = false
    ∧ decodeJob (frameJob none) [] = none ∧ (frameJob (some 3)).verify.isSome = true
    ∧ frontRuns (decoding .read [] []) = true := by
  decide +kernel
/-- The head 1 m into wrap 0, past the last header. -/
theorem witness_DecodeEngines_blank : let s := moves { servoRdDefault with st := .track, known := true, lpos := 100000000, tm := 0 } servoModDefault
    frontRuns s = true ∧ s.gl.cur ≠ .write ∧ s.gl.cur ≠ .calibrate ∧ s.rdr.blankAt ≠ some s.rdr.lastHdr
    ∧ s.rdr.lastHdr + 2 * slotLen ≤ headPath (advance 0 s) ∧ frontRuns live = false := by
  decide +kernel

/-- A compression run of the APPEND above, waiting or on engine 0. -/
def packRun (tried : List Nat) : Run :=
  { ref := ref0, order := 1, recNo := 0, run := 0, decomp := false, input := [1, 2, 3], tape := false, epoch := 0, tried := tried, live := true }
def packing (waiting : List Run) (busy : List (Nat × Run)) : State :=
  setCrew 1152 { crewZero with st := .active } { appending .staged with eng := { live.eng with waiting := waiting, busy := busy } }
theorem witness_EnginesAndPairs : (∃ b ∈ (packing [] [(0, packRun [])]).eng.busy, b.1 = 0) ∧ fetching (packing [packRun []] []) = true
    ∧ (crewOf (packing [packRun []] []) (engineUnit 0)).st = .active ∧ engineMay (packing [packRun []] []) 0 (packRun []) = true
    ∧ (∀ b ∈ (packing [packRun []] []).eng.busy, b.1 ≠ 0)
    ∧ ((packing [] [(0, packRun [])]).eng.busy.find? fun b => b.1 == 0) = some (0, packRun [])
    ∧ findCmd (packing [] [(0, packRun [])]) (packRun []).ref = some (flying ref0 (mkEntry 1 0x5000 3 1) .staged)
    ∧ TagsDistinct (packing [] [(0, packRun [])]) ∧ eOpcode (mkEntry 1 0x5000 3 1) = 1 ∧ ref0.sq < 8192
    ∧ itemAccepted (packing [] [(0, packRun [])]) (engineUnit 0) (packRun []).epoch = true
    ∧ itemAccepted (packing [] [(0, packRun [])]) (engineUnit 0) 1 = false := by
  decide +kernel
/-- A record of the APPEND above, accepted, waiting or on pair 0. -/
def sealRec (first : Option Nat) : CipherRec :=
  { ref := ref0, part := 0, block := 9, sealing := true, header := List.replicate 32 0, body := [1], tag := [], slot := 0, key := [],
    epoch := 0, first := first }
def ciphers (seeded : Bool) (waiting : List CipherRec) (busy : List (Nat × CipherRec)) : State :=
  setCrew 1184 { crewZero with st := .active }
    { appending .accepted with cy := { live.cy with seeded := seeded, waiting := waiting, busy := busy } }
theorem witness_EnginesAndPairs_cipher :
    fetching (ciphers true [sealRec none] []) = true ∧ (crewOf (ciphers true [sealRec none] []) (pairUnit 0)).st = .active
    ∧ (∀ b ∈ (ciphers true [sealRec none] []).cy.busy, b.1 ≠ 0) ∧ pickRecord (ciphers true [sealRec none] []) 0 = some (sealRec none)
    ∧ findCmd (ciphers true [sealRec none] []) (sealRec none).ref = some (flying ref0 (mkEntry 1 0x5000 3 1) .accepted)
    ∧ TagsDistinct (ciphers true [sealRec none] []) ∧ (keySlot (ciphers true [sealRec none] []) 0).st = .never
    ∧ ((ciphers true [] [(0, sealRec none)]).cy.busy.find? fun b => b.1 == 0) = some (0, sealRec none)
    ∧ itemAccepted (ciphers true [] [(0, sealRec none)]) (pairUnit 0) 0 = true
    ∧ itemAccepted (ciphers true [] [(0, sealRec none)]) (pairUnit 0) 1 = false
    ∧ (∀ x ∈ (ciphers true [] [(0, sealRec none)]).cy.busy, x.1 ≠ 0 → x.2.ref ≠ (sealRec none).ref)
    ∧ (flying ref0 (mkEntry 1 0x5000 3 1) .accepted).first < 2 ^ 64
    ∧ (keySlot { live with cy := { live.cy with slots := [(0, { slotNever with st := .loaded, key := [1] })] } } 0).st = .loaded
    ∧ (sealRec (some 1)).first ≠ none := by
  decide +kernel

theorem witness_MemoryIntegrity :
    let s := { live with mi := { live.mi with inj := [(2, { mask := 5, addr := 64, addrHi := 0, armed := true })] } }
    fetching s = true ∧ unitExists 2 (unitBase 2 (64#40 : BitVec 40).toNat) = true ∧ injects s 2 (unitBase 2 64) = true
    ∧ injects s 2 (unitBase 2 96) = false ∧ unitExists 2 (unitBase 2 (2 ^ 26)) = false ∧ regsLive s = true
    ∧ live.mi.ctl.getLsbD 1 = true ∧ ((2#2 : BitVec 2).toNat < 3) ∧ (tabGet 0 live.mi.pos 2) + 32 < classBytes 2
    ∧ classBytes 2 ≤ tabGet 0 [(2, 2 ^ 26 - 32)] 2 + 32 ∧ live.gl.patched = false ∧ fetching State.reset = false := by
  decide +kernel
/-- A unit at rest reads clean, with one bit upset corrected, and with ten bytes upset not. -/
theorem witness_MemoryIntegrity_reads : (readUnit 1 0).1 = .clean ∧ (readUnit 1 1).1 = .corrected 0 ∧ (readUnit 1 3).1 = .uncorrectable := by
  decide +kernel

theorem witness_RegisterAccess : fetching live = true ∧ fnPresent live 0 = true ∧ accessBad 0 0x12 4 = true ∧ regsLive live = true
    ∧ tabGet none live.latch 0x48 = none ∧ pfPair 0x38 = true ∧ live.gl.cur ≠ .service ∧ accessOk 0 0x28400 8 = true
    ∧ fetching State.reset = false := by
  decide +kernel

theorem witness_CodewordPlaces :
    (List.replicate payloadBytes (0 : Byte)).length = payloadBytes ∧ (224 : Nat) < 248
    ∧ groupMember 4894 = (18, 152) ∧ memberCw 18 152 = 4894 ∧ (5000000 / 1024 % 32, 5000000 / 1024 / 32) = (18, 152)
    ∧ memberCw 31 247 = 7932 ∧ memberCw 0 0 = 0 ∧ payloadBytes - 1 + 1 = payloadBytes ∧ fillerCw ≠ 4894 := by
  refine ⟨List.length_replicate, ?_⟩
  decide +kernel

theorem witness_ZonesOfAWrap :
    (let s := { live with gl := { live.gl with cart := true } }; s.gl.cart = true ∧ (23 : Nat) < 24)
    ∧ zoneAt 83749999 = 0 ∧ zoneAt 83750000 = 1 ∧ zoneAt 1189999999 = 15 ∧ zoneAt 9999999 = 0
    ∧ wrapLen / wrapLen = (2 * wrapLen - 1) / wrapLen ∧ wrapLen / wrapLen % 2 = 1 ∧ 5 / wrapLen % 2 = 0 := by
  decide +kernel

/-! ### Commands that WellFormed refuses, one for each of its checks -/

theorem test_ill_queueOk :
    WellFormed (.sqTailDoorbell 0 0 8192 4 0) = false ∧ WellFormed (.sqTailDoorbell 0 3 512 4 0) = false
    ∧ WellFormed (.dmaChannelHalt 0 0 8192) = false ∧ WellFormed (.sqTailDoorbell 0 3 511 4 0) = true := by decide
theorem test_ill_widthOk : WellFormed (.cqHeadDoorbell 0 0 0 3 0) = false := by decide
theorem test_ill_refOk :
    WellFormed (.flush 0 { fn := 3, sq := 512, tag := 0 }) = false
    ∧ WellFormed (.flush 0 { fn := 3, sq := 8192, tag := 0 }) = true := by decide
theorem test_ill_accessOk :
    WellFormed (.registerWrite 0 0 0 0x102 4 0) = false ∧ WellFormed (.registerWrite 0 0 0 0x104 8 0) = false
    ∧ WellFormed (.rocRead 0 0 0x100 2) = false ∧ WellFormed (.lowHalfRead 0 3 65536) = false := by decide
theorem test_ill_accessBad : WellFormed (.bar0AccessReject 0 0 false 0x104 4) = false := by decide
theorem test_ill_spillOk : WellFormed (.spillFlush 0 80) = false := by decide
theorem test_ill_sourceOk :
    WellFormed (.sourceLineChange 0 0 false 8736) = false ∧ WellFormed (.sourceLineChange 0 1 false 513) = false
    ∧ WellFormed (.sourceLineChange 0 1 true 0) = false := by decide
theorem test_ill_vectorOk :
    WellFormed (.holdoffExpiry 0 0 false 2048) = false ∧ WellFormed (.msixUnmask 0 2 (some 128)) = false := by decide
theorem test_ill_icWords :
    WellFormed (.icActiveRead 0 0 false 280) = false ∧ WellFormed (.icActiveRead 0 0 true 1) = false
    ∧ WellFormed (.icPendWrite 0 1 false 17 0) = false := by decide
theorem test_ill_tempsOk : WellFormed (.tempUpdate 0 [0]) = false := by decide
theorem test_ill_bringUpOk :
    WellFormed (.rootPllLock 0 { heads := [], sheetSync := 0, entropyOk := true }) = false
    ∧ WellFormed (.warmResetStart 0 { heads := [], sheetSync := 0, entropyOk := true }) = false := by decide
theorem test_ill_wrap : WellFormed (.wrapChange 0 24) = false := by decide
theorem test_ill_segsOk :
    segsOk [{ addr := 0, elems := List.replicate 4097 { addr := 0, len := 0, type := 0, rsv := 0 } }] = false := by decide +kernel
theorem test_ill_blobs :
    WellFormed (.keyLoadKek 0 ref0 [] []) = false ∧ WellFormed (.keyLoadRecordKey 0 ref0 [] []) = false := by decide
theorem test_ill_sizes : WellFormed (.partition 0 ref0 [] (List.replicate 65 0) { ok := true }) = false := by decide
theorem test_ill_units : (decide ((List.replicate 1225 (0 : BitVec 16)).length ≤ 1224)) = false := by decide +kernel
theorem test_ill_taskOffset : WellFormed (.taskWriteWhileBusy 0 .pcie 8192 0) = false := by decide
theorem test_ill_words : WellFormed (.itemOffer 0 0 .whole (List.replicate 17 0)) = false := by decide
theorem test_ill_records : WellFormed (.laneTrainingDone 0 0 true [0] []) = false := by decide
theorem test_ill_class :
    WellFormed (.injectedWrite 0 3 0 0) = false ∧ WellFormed (.miFlipaddrWrite 0 0 false 2 0) = false := by decide
theorem test_ill_links :
    WellFormed (.sheetLinkSync 0 24) = false ∧ WellFormed (.sheetPacketReceive 0 0 5 0 0 true) = false := by decide

/-! ### The manual's worked examples -/

/-- R146: CRC-32C of "123456789". -/
theorem test_crc32c : crc32c [0x31, 0x32, 0x33, 0x34, 0x35, 0x36, 0x37, 0x38, 0x39] = 0xE3069283 := by decide +kernel

/-- Chapter 8: the frame header of the codeword with payload byte 5,000,000. -/
theorem test_header :
    headerInfo { kind := 0, part := 5, dsn := 40117, attempt := 0, cw := 4894, row := 4, lag := 0, elem := 58, dir := 0 }
      = 0x05009CB5263C2074 := by decide +kernel

/-- Chapter 6: the 21-byte run, 0x61 to 0x68, 0x5A and 0x51 for its letters. -/
theorem test_klz :
    klzTokens [0x62, 0x63, 0x64, 0x65, 0x66, 0x67, 0x68, 0x51, 0x61, 0x62, 0x63, 0x64, 0x5A, 0x61, 0x62, 0x63, 0x64, 0x65, 0x66,
        0x67, 0x68]
      = [0xE3, 0x62, 0x63, 0x64, 0x65, 0x66, 0x67, 0x68, 0x51, 0x61, 0x62, 0x63, 0x64, 0x5A, 0x61, 0x0D, 0x00] := by
  decide +kernel

/-- Chapter 6: with 16-bit codes cut to 15 bits, 0x03 moves from 14 to 15 and the step ends. -/
theorem test_limit :
    (fun l => (tabGet 0 l 3, tabGet 0 l 4, kraftSum l))
      (limitLens [(0, 1), (1, 1), (2, 2), (3, 3), (4, 5)] 64 ([(0, 15), (1, 15), (2, 15), (3, 14), (4, 13)]
        ++ (List.range 12).map fun i => (i + 5, 12 - i))) = (15, 13, 32768) := by decide +kernel

/-- Chapter 7: the IV of block 71,205. -/
theorem test_iv : recordIv 0xA2F 5 71205 = [0, 0, 0x0A, 0x2F, 0x14, 0, 0, 0, 0, 1, 0x16, 0x25] := by decide +kernel

/-- Chapter 12: the position sample on module 3, lower reader. -/
theorem test_lateral : lateral 140199 288000 0x0127F505 = 511969 := by decide +kernel

/-- Chapter 13: the tension loop's first computation. -/
theorem test_terms :
    term { value := BitVec.ofNat 32 1717986918, shift := 23 } 16384 = 3355443
    ∧ iterm { value := BitVec.ofNat 32 1407374884, shift := 28 } 16384 = 5629499536
    ∧ rne 5629499536 16 = 85899 := by decide +kernel

/-- Chapter 13: the profile limits of the reels as ramp registers. -/
theorem test_profiles :
    slewWord State.reset 10000 = 5497558 ∧ slewWord State.reset 8000 = 4398047 ∧ jerkWord State.reset 500000 = 9007199
    ∧ jerkWord State.reset 400000 = 7205759 := by decide +kernel

/-- Chapter 8: three partitions of sizes 1, 4,000 and 0, and the room of the last. -/
theorem test_layout :
    layout 1024 [1, 4000, 0] = some [(1024, 2048), (2048, 4098048), (4098048, 8986584)]
    ∧ dataRoom { partNone with start := 4098048, end_ := 8986584, at_ := 4098048 * slotLen } 2 = 4565013 := by decide +kernel

/-- Chapter 12: the centreline reads 0. -/
theorem test_centreline : lateral 144000 288000 0x0127F505 = 0 := by decide +kernel

end Sys2Proof.Machine
end

section
/-!
Where the codewords of a data set lie (R190, R191): the laws of `groupMember`, `memberCw` and `infoBlock`, and the
statement O58 that they make up.
-/

namespace Sys2Proof.Machine

/-! ### Codewords by row and track (R190) -/

theorem groupMember_row_track {row t : Nat} (ht : t < 992) :
    groupMember (992 * row + t) = ((t + 5 * row) % 32, 31 * row + t / 32) := by
  have hrow : (992 * row + t) / 992 = row := by omega
  have htrack : (992 * row + t) % 992 = t := by omega
  simp only [groupMember, hrow, htrack]

theorem memberCw_row_track {row t : Nat} (hrow : row < 8) (ht : t < 992) :
    memberCw ((t + 5 * row) % 32) (31 * row + t / 32) = 992 * row + t := by
  have hdiv : (31 * row + t / 32) / 31 = row := by omega
  have hmod : (31 * row + t / 32) % 31 = t / 32 := by omega
  simp only [memberCw, hdiv, hmod]
  omega

/-! ### Row and track of a member (R190) -/

@[simp] theorem memberCw_div (g m : Nat) : memberCw g m / 992 = m / 31 := by
  simp only [memberCw]
  omega

@[simp] theorem memberCw_mod (g m : Nat) :
    memberCw g m % 992 = 32 * (m % 31) + (g + 8 * 32 - 5 * (m / 31)) % 32 := by
  simp only [memberCw]
  omega

theorem memberCw_lt {g m : Nat} (hm : m < 248) : memberCw g m < 7936 := by
  have hrow := memberCw_div g m
  omega

theorem memberCw_mod_int {g m : Nat} (hm : m < 248) :
    ((memberCw g m % 992 : Nat) : Int) = 32 * (m % 31 : Nat) + ((g : Int) - 5 * (m / 31 : Nat)) % 32 := by
  rw [memberCw_mod]
  omega

theorem groupMember_memberCw {g m : Nat} (hg : g < 32) (hm : m < 248) : groupMember (memberCw g m) = (g, m) := by
  simp only [groupMember, memberCw_div, memberCw_mod, Prod.mk.injEq]
  omega

/-- The residue modulo 32 of a group's tracks tells the row: 5 is invertible modulo 32. -/
theorem track_residue_inj {g r r' : Nat} (hr : r < 8) (hr' : r' < 8) :
    (g + 8 * 32 - 5 * r) % 32 = (g + 8 * 32 - 5 * r') % 32 ↔ r = r' := by
  omega

theorem memberCw_row_eq_iff_residue_eq {g m m' : Nat} (hm : m < 248) (hm' : m' < 248) :
    memberCw g m / 992 = memberCw g m' / 992 ↔ memberCw g m % 992 % 32 = memberCw g m' % 992 % 32 := by
  have hres := track_residue_inj (g := g) (r := m / 31) (r' := m' / 31) (by omega) (by omega)
  simp only [memberCw_div, memberCw_mod, Nat.mul_add_mod_self_left, Nat.mod_mod]
  exact hres.symm

theorem memberCw_track_inj {g m m' : Nat} (hm : m < 248) (hm' : m' < 248)
    (h : memberCw g m % 992 = memberCw g m' % 992) : m = m' := by
  have hrow : m / 31 = m' / 31 := by
    simpa using (memberCw_row_eq_iff_residue_eq hm hm').mpr (by rw [h])
  have hcol : m % 31 = m' % 31 := by
    simp only [memberCw_mod] at h
    omega
  rw [← Nat.div_add_mod m 31, ← Nat.div_add_mod m' 31, hrow, hcol]

theorem members_in_row_length {row : Nat} (g : Nat) (hrow : row < 8) :
    ((List.range 248).filter fun m => memberCw g m / 992 == row).length = 31 := by
  simp only [memberCw_div]
  revert row
  decide

/-! ### Information blocks of the members (R190, R191, R207) -/

theorem dataBlock_getD (payload : List Byte) (g m : Nat) {j : Nat} (hj : j < 1024) :
    (dataBlock payload g m).getD j 0 = payload.getD (1024 * (32 * m + g) + j) 0 := by
  simp [dataBlock, slice, List.getD_eq_getElem?_getD, hj]

theorem dataBlock_length {payload : List Byte} (hlen : payload.length = payloadBytes) {g m : Nat} (hg : g < 32)
    (hm : m < 224) : (dataBlock payload g m).length = 1024 := by
  simp only [dataBlock, slice, List.length_take, List.length_drop, hlen, payloadBytes]
  omega

theorem infoBlock_data (payload : List Byte) {g m : Nat} (hg : g < 32) (hm : m < 224) :
    infoBlock payload (memberCw g m) = dataBlock payload g m := by
  simp [infoBlock, groupMember_memberCw hg (by omega : m < 248), hm]

theorem infoBlock_parity (payload : List Byte) {g m : Nat} (hg : g < 32) (hm : m < 248) (hpar : 224 ≤ m) :
    infoBlock payload (memberCw g m) = (List.range 1024).map fun j => (groupParity payload g j).getD (m - 224) 0 := by
  simp [infoBlock, groupMember_memberCw hg hm, Nat.not_lt.mpr hpar]

theorem infoBlock_length {payload : List Byte} (hlen : payload.length = payloadBytes) {g m : Nat} (hg : g < 32)
    (hm : m < 248) : (infoBlock payload (memberCw g m)).length = 1024 := by
  by_cases hdata : m < 224
  · rw [infoBlock_data payload hg hdata, dataBlock_length hlen hg hdata]
  · rw [infoBlock_parity payload hg hm (by omega), List.length_map, List.length_range]

theorem infoBlock_data_getD (payload : List Byte) {g m j : Nat} (hg : g < 32) (hm : m < 224) (hj : j < 1024) :
    (infoBlock payload (memberCw g m)).getD j 0 = payload.getD (1024 * (32 * m + g) + j) 0 := by
  rw [infoBlock_data payload hg hm, dataBlock_getD payload g m hj]

theorem infoBlock_payload_byte (payload : List Byte) {b : Nat} (hb : b < payloadBytes) :
    (infoBlock payload (memberCw (b / 1024 % 32) (b / 1024 / 32))).getD (b % 1024) 0 = payload.getD b 0 := by
  unfold payloadBytes at hb
  rw [infoBlock_data_getD payload (by omega) (by omega) (by omega)]
  congr 1
  omega

/-- Byte `j` of the 224 data members of group `g`: the data bytes of its C2 codeword `j` (R207). -/
def groupData (payload : List Byte) (g j : Nat) : List Byte :=
  (List.range 224).map fun k => (infoBlock payload (memberCw g k)).getD j 0

theorem groupData_length (payload : List Byte) (g j : Nat) : (groupData payload g j).length = 224 := by
  simp [groupData]

theorem groupParity_eq_c2Parity (payload : List Byte) {g j : Nat} (hg : g < 32) (hj : j < 1024) :
    groupParity payload g j = c2Parity (groupData payload g j) := by
  refine congrArg c2Parity (List.map_congr_left fun k hk => ?_)
  exact (infoBlock_data_getD payload hg (List.mem_range.mp hk) hj).symm

theorem groupData_getD (payload : List Byte) (g j : Nat) {m : Nat} (hm : m < 224) :
    (groupData payload g j).getD m 0 = (infoBlock payload (memberCw g m)).getD j 0 := by
  simp only [groupData, List.getD_eq_getElem?_getD, List.getElem?_map, List.getElem?_range hm, Option.map_some,
    Option.getD_some]

theorem infoBlock_parity_getD (payload : List Byte) {g m j : Nat} (hg : g < 32) (hm : m < 248) (hpar : 224 ≤ m)
    (hj : j < 1024) :
    (infoBlock payload (memberCw g m)).getD j 0 = (c2Parity (groupData payload g j)).getD (m - 224) 0 := by
  rw [infoBlock_parity payload hg hm hpar, ← groupParity_eq_c2Parity payload hg hj]
  simp only [List.getD_eq_getElem?_getD, List.getElem?_map, List.getElem?_range hj, Option.map_some, Option.getD_some]

theorem infoBlock_getD_eq_c2_symbol (payload : List Byte) {g m j : Nat} (hg : g < 32) (hm : m < 248) (hj : j < 1024) :
    (infoBlock payload (memberCw g m)).getD j 0
      = (groupData payload g j ++ c2Parity (groupData payload g j)).getD m 0 := by
  have hlen := groupData_length payload g j
  rw [List.getD_eq_getElem?_getD (l := _ ++ _)]
  by_cases hdata : m < 224
  · rw [List.getElem?_append_left (by omega), ← List.getD_eq_getElem?_getD, groupData_getD payload g j hdata]
  · rw [List.getElem?_append_right (by omega), hlen, ← List.getD_eq_getElem?_getD,
      infoBlock_parity_getD payload hg hm (by omega) hj]

/-! ### Frames of a row (R185, R188) -/

theorem rowFrameBits_codeword (b : Block) (row : Nat) {f : RowFrame} (hcw : f.cw ≠ fillerCw) :
    ∃ h : Header, h.cw = f.cw ∧ h.row = row ∧ h.dsn = f.set.dsn
      ∧ (rowFrameBits b row f).2 = frameBits h (c1Encode (infoBlock f.set.payload f.cw)) := by
  have hfill : (f.cw == fillerCw) = false := beq_false_of_ne hcw
  simp only [rowFrameBits, hfill, Bool.false_eq_true, if_false]
  exact ⟨_, rfl, rfl, rfl, rfl⟩

/-- Settles O58: the two maps are read off by division with remainder, and a C2 symbol off the member's block. -/
theorem codewordPlaces : Obligations.CodewordPlaces := by
  unfold Obligations.CodewordPlaces
  refine ⟨fun row t hrow ht => ?place, fun g m hg hm => ?member, fun g m m' _ hm hm' => ?tracks,
    fun g row _ hrow => members_in_row_length g hrow, fun g m _ hm => ?lastRow, fun payload hlen => ?bytes,
    fun b row _ hcw => rowFrameBits_codeword b row hcw⟩
  case place =>
    rw [groupMember_row_track ht]
    exact ⟨rfl, by omega, by omega, memberCw_row_track hrow ht⟩
  case member =>
    exact ⟨memberCw_lt hm, groupMember_memberCw hg hm, memberCw_div g m, memberCw_mod_int hm⟩
  case tracks =>
    exact ⟨memberCw_track_inj hm hm', memberCw_row_eq_iff_residue_eq hm hm'⟩
  case lastRow =>
    rw [memberCw_div]
    omega
  case bytes =>
    refine ⟨fun b hb => infoBlock_payload_byte payload hb, fun b _ => by omega, fun g m j hg hm hj => ?_⟩
    exact ⟨infoBlock_length hlen hg hm, infoBlock_getD_eq_c2_symbol payload hg hm hj⟩

end Sys2Proof.Machine
end

section
/-!
The longitudinal zones of a wrap (R227, R231): the laws of `zoneAt` along the path of a wrap, what a wrap change leaves in
the working copies, and the statement O59 that they make up.
-/

namespace Sys2Proof.Machine

/-! ### Zones by LPOS (R227) -/

theorem zoneAt_mono {a b : Nat} (h : a ≤ b) : zoneAt a ≤ zoneAt b := by
  simp only [zoneAt]
  omega

theorem zoneAt_eq_of_mem_range {lpos z : Nat} (hz : z < 16) (hlo : 10000000 + 73750000 * z ≤ lpos)
    (hhi : lpos < 10000000 + 73750000 * (z + 1)) : zoneAt lpos = z := by
  simp only [zoneAt]
  omega

theorem zoneAt_eq_zero {lpos : Nat} (h : lpos < 83750000) : zoneAt lpos = 0 := by
  simp only [zoneAt]
  omega

theorem zoneAt_eq_fifteen {lpos : Nat} (h : 1116250000 ≤ lpos) : zoneAt lpos = 15 := by
  simp only [zoneAt]
  omega

/-! ### LPOS along the path of a wrap (R176, R177) -/

theorem wrapLen_eq : wrapLen = 117999838976 := rfl

theorem pathLpos_forward {x : Nat} (h : x / wrapLen % 2 = 0) : pathLpos x = 10000000 + x % wrapLen / 100 := by
  simp only [pathLpos, h, if_true]

theorem pathLpos_reverse {x : Nat} (h : x / wrapLen % 2 = 1) : pathLpos x = 1190000000 - x % wrapLen / 100 := by
  simp only [pathLpos, h, Nat.one_ne_zero, if_false]

theorem mod_wrapLen_mono {x y : Nat} (hxy : x ≤ y) (hwrap : x / wrapLen = y / wrapLen) : x % wrapLen ≤ y % wrapLen := by
  rw [wrapLen_eq] at hwrap ⊢
  omega

theorem pathLpos_mono_forward {x y : Nat} (hxy : x ≤ y) (hwrap : x / wrapLen = y / wrapLen) (hfwd : x / wrapLen % 2 = 0) :
    pathLpos x ≤ pathLpos y := by
  have hmod := mod_wrapLen_mono hxy hwrap
  rw [pathLpos_forward hfwd, pathLpos_forward (hwrap ▸ hfwd)]
  omega

theorem pathLpos_antitone_reverse {x y : Nat} (hxy : x ≤ y) (hwrap : x / wrapLen = y / wrapLen)
    (hrev : x / wrapLen % 2 = 1) : pathLpos y ≤ pathLpos x := by
  have hmod := mod_wrapLen_mono hxy hwrap
  rw [pathLpos_reverse hrev, pathLpos_reverse (hwrap ▸ hrev)]
  omega

/-- A position on wrap `w` by its offset from the start of the wrap. -/
theorem wrap_offset {o : Nat} (w : Nat) (ho : o < wrapLen) :
    (w * wrapLen + o) / wrapLen = w ∧ (w * wrapLen + o) % wrapLen = o := by
  rw [wrapLen_eq] at ho ⊢
  omega

theorem pathLpos_offset_forward {w o : Nat} (hfwd : w % 2 = 0) (ho : o < wrapLen) :
    pathLpos (w * wrapLen + o) = 10000000 + o / 100 := by
  obtain ⟨hdiv, hmod⟩ := wrap_offset w ho
  rw [pathLpos_forward (by rw [hdiv, hfwd]), hmod]

theorem pathLpos_offset_reverse {w o : Nat} (hrev : w % 2 = 1) (ho : o < wrapLen) :
    pathLpos (w * wrapLen + o) = 1190000000 - o / 100 := by
  obtain ⟨hdiv, hmod⟩ := wrap_offset w ho
  rw [pathLpos_reverse (by rw [hdiv, hrev]), hmod]

theorem wrap_start_pathLpos (w : Nat) :
    (w % 2 = 0 → pathLpos (w * wrapLen) = 10000000) ∧ (w % 2 = 1 → pathLpos (w * wrapLen) = 1190000000) := by
  have hpos : 0 < wrapLen := by rw [wrapLen_eq]; omega
  exact ⟨fun h => by simpa using pathLpos_offset_forward h hpos, fun h => by simpa using pathLpos_offset_reverse h hpos⟩

theorem wrap_end_pathLpos (w : Nat) :
    (w % 2 = 0 → pathLpos (w * wrapLen + (wrapLen - 1)) = 1189998389)
    ∧ (w % 2 = 1 → pathLpos (w * wrapLen + (wrapLen - 1)) = 10001611) := by
  have hlast : wrapLen - 1 < wrapLen ∧ (wrapLen - 1) / 100 = 1179998389 := by rw [wrapLen_eq]; omega
  obtain ⟨hlt, hdiv⟩ := hlast
  exact ⟨fun h => by rw [pathLpos_offset_forward h hlt, hdiv], fun h => by rw [pathLpos_offset_reverse h hlt, hdiv]⟩

theorem zoneAt_wrap_ends_forward {w : Nat} (hfwd : w % 2 = 0) :
    zoneAt (pathLpos (w * wrapLen)) = 0 ∧ zoneAt (pathLpos (w * wrapLen + (wrapLen - 1))) = 15 := by
  rw [(wrap_start_pathLpos w).1 hfwd, (wrap_end_pathLpos w).1 hfwd]
  exact ⟨zoneAt_eq_zero (by omega), zoneAt_eq_fifteen (by omega)⟩

theorem zoneAt_wrap_ends_reverse {w : Nat} (hrev : w % 2 = 1) :
    zoneAt (pathLpos (w * wrapLen)) = 15 ∧ zoneAt (pathLpos (w * wrapLen + (wrapLen - 1))) = 0 := by
  rw [(wrap_start_pathLpos w).2 hrev, (wrap_end_pathLpos w).2 hrev]
  exact ⟨zoneAt_eq_fifteen (by omega), zoneAt_eq_zero (by omega)⟩

/-! ### Working entries at a wrap change (R230, R231) -/

/-- What the working entries are read from: the wrap, the entries with a value of their own, head table and medium delta. -/
def zoneSource (s : State) : Nat × List (Nat × List Byte) × List (Nat × Byte) × List (Nat × Byte) :=
  (s.sv.wrap, s.rch.working, s.rch.head, s.vol.delta)

theorem headEntry_congr {s u : State} (h : u.rch.head = s.rch.head) (e z : Nat) : headEntry u e z = headEntry s e z := by
  simp only [headEntry, headByte, h]

theorem deltaEntry_congr {s u : State} (h : u.vol.delta = s.vol.delta) (e z : Nat) :
    deltaEntry u e z = deltaEntry s e z := by
  simp only [deltaEntry, h]

theorem effectiveEntry_congr {s u : State} (hhead : u.rch.head = s.rch.head) (hdelta : u.vol.delta = s.vol.delta)
    (e z : Nat) : effectiveEntry u e z = effectiveEntry s e z := by
  unfold effectiveEntry
  rw [headEntry_congr hhead, deltaEntry_congr hdelta]

theorem workingEntry_of_working_nil {s : State} (h : s.rch.working = []) (e z : Nat) :
    workingEntry s e z = effectiveEntry s e (16 * s.sv.wrap + z) := by
  simp only [workingEntry, h, List.find?_nil]

theorem fineTargets_zoneSource (w : Nat) (s : State) : zoneSource (fineTargets w s) = zoneSource s := by
  have hframe := fineTargets_frame w s
  have hsv : (fineTargets w s).sv = s.sv := hframe.same .sv (by decide)
  have hrch : (fineTargets w s).rch = s.rch := hframe.same .rch (by decide)
  have hvol : (fineTargets w s).vol = s.vol := hframe.same .vol (by decide)
  simp only [zoneSource, hsv, hrch, hvol]

/-- The step of a wrap change by which the counts of every lane start again (R283, R323). -/
def lanesCountAnew (s : State) : State :=
  forEach (List.range 16) (fun l s =>
    setServoRd l { servoRd s l with lostN := 0 } (setLane l { laneOf s l with losses := 0 } s)) s

theorem setServoRd_zoneSource (n : Nat) (v : ServoRd) (s : State) : zoneSource (setServoRd n v s) = zoneSource s := rfl

theorem setLane_zoneSource (l : Nat) (v : Lane) (s : State) : zoneSource (setLane l v s) = zoneSource s := rfl

theorem lanesCountAnew_zoneSource (s : State) : zoneSource (lanesCountAnew s) = zoneSource s := by
  unfold lanesCountAnew
  refine forEach_keeps zoneSource _ _ (fun l x => ?_) s
  rw [setServoRd_zoneSource, setLane_zoneSource]

/-- The step of a wrap change by which the front ends start anew (R236, R238). -/
def frontsAnew (s : State) : State :=
  { s with rch := { s.rch with fronts := [], votes := [], tuple := [], tupleIn := [], held := [] } }

theorem exec_wrapChange (t : Time) {wrap : Nat} {s : State} (hwrap : wrap < 24) (hcart : s.gl.cart = true) :
    exec (.wrapChange t wrap) s = .next (fineTargets wrap (reloadZones (frontsAnew (lanesCountAnew
      { advance t s with sv := { (advance t s).sv with wrap := wrap } })))) := by
  have hgo : ¬(24 ≤ wrap ∨ (!(advance t s).gl.cart) = true) := by simp [hwrap, hcart]
  exact if_neg hgo

theorem reloadZones_frontsAnew_zoneSource {s : State} {wrap : Nat} {own : List (Nat × List Byte)}
    {head delta : List (Nat × Byte)} (h : zoneSource s = (wrap, own, head, delta)) :
    zoneSource (reloadZones (frontsAnew s)) = (wrap, [], head, delta) := by
  obtain ⟨hwrap, -, hhead, hdelta⟩ := by simpa only [zoneSource, Prod.mk.injEq] using h
  simp only [zoneSource, reloadZones, frontsAnew, hwrap, hhead, hdelta]

/-- After a wrap change the copies hold no entry of the wrap before it, and head table and delta are as they were (R231). -/
theorem wrapChange_zoneSource (t : Time) {wrap : Nat} {s : State} (hwrap : wrap < 24) (hcart : s.gl.cart = true) :
    ∃ u, exec (.wrapChange t wrap) s = .next u ∧ zoneSource u = (wrap, [], s.rch.head, s.vol.delta) := by
  refine ⟨_, exec_wrapChange t hwrap hcart, ?_⟩
  rw [fineTargets_zoneSource]
  apply reloadZones_frontsAnew_zoneSource (own := s.rch.working)
  rw [lanesCountAnew_zoneSource]
  simp only [zoneSource, advance_rch, advance_vol]

theorem wrapChange_workingEntry (t : Time) {wrap : Nat} {s : State} (hwrap : wrap < 24) (hcart : s.gl.cart = true) :
    ∃ u, exec (.wrapChange t wrap) s = .next u ∧ ∀ e z, workingEntry u e z = effectiveEntry s e (16 * wrap + z) := by
  obtain ⟨u, hexec, hsource⟩ := wrapChange_zoneSource t hwrap hcart
  obtain ⟨hw, hworking, hhead, hdelta⟩ := by simpa only [zoneSource, Prod.mk.injEq] using hsource
  refine ⟨u, hexec, fun e z => ?_⟩
  rw [workingEntry_of_working_nil hworking, hw, effectiveEntry_congr hhead hdelta]

/-- Settles O59: zones rise with LPOS, LPOS rises along a forward wrap and falls along a reverse one, and a wrap change
empties the working copies, so that each entry is the effective one of its zone (R227, R231). -/
theorem zonesOfAWrap : Obligations.ZonesOfAWrap := by
  unfold Obligations.ZonesOfAWrap
  refine ⟨fun lpos z => zoneAt_eq_of_mem_range, fun lpos h => zoneAt_eq_zero (by omega),
    fun lpos h => zoneAt_eq_fifteen (by omega), fun x y hxy hwrap => ⟨fun hfwd => ?rises, fun hrev => ?falls⟩,
    fun w => ⟨zoneAt_wrap_ends_forward, zoneAt_wrap_ends_reverse⟩, fun s e => ⟨rfl, rfl⟩,
    fun t wrap s hwrap hcart => wrapChange_workingEntry t hwrap hcart⟩
  case rises => exact zoneAt_mono (pathLpos_mono_forward hxy hwrap hfwd)
  case falls => exact zoneAt_mono (pathLpos_antitone_reverse hxy hwrap hrev)

end Sys2Proof.Machine
end

section
/-!
How an interrupt source senses its line (R341, R342): the laws of `senseLine`, `pendWrite` and `senseWrite`, what a loop over
a bank writes into each source, that no register write of the controller's banks touches EDGE_COUNT, and the statement O43
that they make up.
-/

namespace Sys2Proof.Machine

/-! ### One source senses a level (R341, R342) -/

/-- The SENSE code of `v` counts the edge at which its line takes `level`. -/
def EdgeCounts (v : Src) (level : Bool) : Prop :=
  v.line ≠ level ∧ ((v.sense = 2 ∧ level = true) ∨ (v.sense = 3 ∧ level = false) ∨ v.sense = 4 ∨ v.sense = 5)

/-- The greatest pending count of a SENSE code: 2 in mode 5, 1 in modes 2 to 4. -/
def countCap (sense : Nat) : Nat := if sense = 5 then 2 else 1

/-- Source `v` has sensed `level` and become `w`. -/
def Sensed (level : Bool) (v w : Src) : Prop :=
  w.line = level ∧ w.sense = v.sense ∧ w.insvc = v.insvc
    ∧ (EdgeCounts v level → w.count = min (countCap v.sense) (v.count + 1) ∧ w.edges = v.edges + 1)
    ∧ (¬EdgeCounts v level → w.count = v.count ∧ w.edges = v.edges)

theorem senseLine_of_edgeCounts {v : Src} {level : Bool} (h : EdgeCounts v level) :
    senseLine level v = srcEdge (countCap v.sense) { v with line := level } := by
  obtain ⟨hline, hmode⟩ := h
  have hmove : (v.line == level) = false := beq_false_of_ne hline
  rcases hmode with ⟨hs, rfl⟩ | ⟨hs, rfl⟩ | hs | hs <;> simp [senseLine, hmove, hs, countCap]

theorem senseLine_of_not_edgeCounts {v : Src} {level : Bool} (h : ¬EdgeCounts v level) :
    senseLine level v = { v with line := level } := by
  unfold senseLine
  by_cases hline : v.line = level
  · simp [← hline]
  · have hmode : ¬((v.sense = 2 ∧ level = true) ∨ (v.sense = 3 ∧ level = false) ∨ v.sense = 4 ∨ v.sense = 5) :=
      fun hm => h ⟨hline, hm⟩
    rw [if_neg (by simpa using hline)]
    split
    next hs => exact if_neg fun hrise => hmode (.inl ⟨hs, hrise⟩)
    next hs => exact if_pos (eq_true_of_ne_false fun hfall => hmode (.inr (.inl ⟨hs, hfall⟩)))
    next hs => exact absurd (.inr (.inr (.inl hs))) hmode
    next hs => exact absurd (.inr (.inr (.inr hs))) hmode
    next => rfl

theorem senseLine_sensed (level : Bool) (v : Src) : Sensed level v (senseLine level v) := by
  by_cases h : EdgeCounts v level
  · rw [senseLine_of_edgeCounts h]
    exact ⟨rfl, rfl, rfl, fun _ => ⟨rfl, rfl⟩, fun hn => absurd h hn⟩
  · rw [senseLine_of_not_edgeCounts h]
    exact ⟨rfl, rfl, rfl, fun hc => absurd hc h, fun _ => ⟨rfl, rfl⟩⟩

/-- Mode 5 counts the rise and the fall of a pulse. -/
theorem sensePulse_both_edges {v : Src} (hs : v.sense = 5) (hline : v.line = false) :
    sensePulse v = srcEdge 2 (srcEdge 2 v) := by
  have hcap : countCap v.sense = 2 := by simp [countCap, hs]
  have hrise : EdgeCounts v true := ⟨by simp [hline], by simp [hs]⟩
  have hfall : EdgeCounts (srcEdge 2 { v with line := true }) false := ⟨by simp [srcEdge], by simp [srcEdge, hs]⟩
  unfold sensePulse
  rw [senseLine_of_edgeCounts hrise, hcap, senseLine_of_edgeCounts hfall]
  simp [srcEdge, countCap, hs, hline]

/-! ### Writes of PEND and SENSE to one source (R341) -/

theorem pendWrite_level {v : Src} (b : Bool) (h : v.sense < 2) : pendWrite b v = v := if_pos h

theorem pendWrite_edge {v : Src} (b : Bool) (h : 2 ≤ v.sense) :
    pendWrite b v = { v with count := if b then max 1 v.count else 0 } := if_neg (Nat.not_lt.mpr h)

@[simp] theorem pendWrite_edges (b : Bool) (v : Src) : (pendWrite b v).edges = v.edges := by
  unfold pendWrite; split <;> rfl

theorem senseWrite_reserved {c : Nat} (v : Src) (h : 6 ≤ c) : senseWrite c v = v := if_pos (.inl h)

theorem senseWrite_same {c : Nat} {v : Src} (h : c = v.sense) : senseWrite c v = v := if_pos (.inr h)

theorem senseWrite_change {c : Nat} {v : Src} (hc : c < 6) (h : c ≠ v.sense) :
    senseWrite c v = { v with sense := c, count := 0 } := if_neg (by omega)

@[simp] theorem senseWrite_edges (c : Nat) (v : Src) : (senseWrite c v).edges = v.edges := by
  unfold senseWrite; split <;> rfl

@[simp] theorem senseWrite_insvc (c : Nat) (v : Src) : (senseWrite c v).insvc = v.insvc := by
  unfold senseWrite; split <;> rfl

@[simp] theorem eoiSrc_edges (line : Bool) (v : Src) : (eoiSrc line v).edges = v.edges := rfl

/-! ### What is read of the sources -/

theorem srcKey_inj (f : Fn) {m n : Nat} : srcKey f m = srcKey f n ↔ m = n := Nat.add_left_cancel_iff

theorem srcOf_congr_key {f g : Fn} {m n : Nat} (s : State) (h : srcKey g m = srcKey f n) : srcOf s g m = srcOf s f n := by
  unfold srcOf; rw [h]

/-- Another entry reads as before whatever its own default is: the defaults of the source table differ by key (R341). -/
theorem tabGet_tabSet_other_default {α : Type} [DecidableEq α] (d d' : α) (t : List (Nat × α)) {i j : Nat} (v : α)
    (h : j ≠ i) : tabGet d' (tabSet d t i v) j = tabGet d' t j := by
  unfold tabSet
  by_cases hv : v = d
  · rw [if_pos hv, tabGet_filter_ne d' t h]
  · rw [if_neg hv, tabGet_tabPut _ _ _ _ _ (fun p hp => by simpa using (List.mem_filter.mp hp).2), if_neg h,
      tabGet_filter_ne d' t h]

theorem srcOf_setSrc_other {f g : Fn} {m n : Nat} (v : Src) (s : State) (h : srcKey g m ≠ srcKey f n) :
    srcOf (setSrc f n v s) g m = srcOf s g m :=
  tabGet_tabSet_other_default _ _ _ v h

@[simp] theorem srcOf_advance (t : Time) (s : State) (f : Fn) (n : Nat) : srcOf (advance t s) f n = srcOf s f n := by
  simp only [srcOf, advance_ic]

@[simp] theorem fastOf_advance (t : Time) (s : State) (n : Nat) : fastOf (advance t s) n = fastOf s n := by
  simp only [fastOf, advance_ic]

@[simp] theorem icFn_advance (t : Time) (s : State) (f : Fn) : icFn (advance t s) f = icFn s f := by
  simp only [icFn, advance_ic]

@[simp] theorem srcExists_advance (t : Time) (s : State) (f : Fn) (n : Nat) :
    srcExists (advance t s) f n = srcExists s f n := by
  unfold advance; split <;> rfl

@[simp] theorem fnLive_advance (t : Time) (s : State) (f : Fn) : fnLive (advance t s) f = fnLive s f := by
  simp only [fnLive, regsLive, fetching, advance_gl, advance_hq]

theorem fnLive_zero (s : State) : fnLive s 0 = regsLive s := by simp [fnLive]

/-! ### Pending (R341) -/

theorem pendingNow_high_level {s : State} {f : Fn} {n : Nat} (h : (srcOf s f n).sense = 0) :
    pendingNow s f n = true ↔ srcLine s f n = true ∧ (srcOf s f n).insvc = false := by
  simp [pendingNow, h, lineActive]

theorem pendingNow_low_level {s : State} {f : Fn} {n : Nat} (h : (srcOf s f n).sense = 1) :
    pendingNow s f n = true ↔ srcLine s f n = false ∧ (srcOf s f n).insvc = false := by
  simp [pendingNow, h, lineActive]

theorem pendingNow_edge {s : State} {f : Fn} {n : Nat} (h : 2 ≤ (srcOf s f n).sense) :
    pendingNow s f n = true ↔ (srcOf s f n).count ≠ 0 := by
  simp [pendingNow, Nat.not_lt.mpr h, Nat.pos_iff_ne_zero]

/-! ### A loop over the sources of a bank -/

/-- A loop that gives each source of a list a value made from its own changes those sources and no other of the function. -/
theorem srcOf_forEach_setSrc (f : Fn) (op : Nat → Src → Src) {l : List Nat} (hl : l.Nodup) (s : State) (n : Nat) :
    srcOf (forEach l (fun m x => setSrc f m (op m (srcOf x f m)) x) s) f n
      = if n ∈ l then op n (srcOf s f n) else srcOf s f n := by
  induction l generalizing s with
  | nil => simp [forEach_nil]
  | cons m r ih =>
    obtain ⟨hm, hr⟩ := List.nodup_cons.mp hl
    rw [forEach_cons, ih hr]
    by_cases hn : n = m
    · subst hn
      simp [hm]
    · simp [hn, srcOf_setSrc_other _ s (mt (srcKey_inj f).mp hn)]

theorem fastOf_forEach_setFast (op : Nat → Src → Src) {l : List Nat} (hl : l.Nodup) (s : State) (n : Nat) :
    fastOf (forEach l (fun m x => setFast m (op m (fastOf x m)) x) s) n
      = if n ∈ l then op n (fastOf s n) else fastOf s n := by
  induction l generalizing s with
  | nil => simp [forEach_nil]
  | cons m r ih =>
    obtain ⟨hm, hr⟩ := List.nodup_cons.mp hl
    rw [forEach_cons, ih hr]
    by_cases hn : n = m
    · subst hn
      simp [hm]
    · simp [hn, fastOf_setFast_other m _ s hn]

/-! ### The writes of PEND and IC_SRC_CFG (R341, R343) -/

theorem mem_sources_of_word {s : State} {f : Fn} {w n : Nat} :
    n ∈ (List.range' (32 * w) 32).filter (srcExists s f) ↔ n / 32 = w ∧ srcExists s f n = true := by
  rw [List.mem_filter, List.mem_range'_1]
  refine and_congr_left fun _ => ?_
  omega

theorem srcOf_pendWordWrite (f : Fn) (w : Nat) (value : Word) (s : State) (n : Nat) :
    srcOf (pendWordWrite f w value s) f n = if n / 32 = w ∧ srcExists s f n = true ∧ 2 ≤ (srcOf s f n).sense
      then { srcOf s f n with count := if value.getLsbD (n % 32) then max 1 (srcOf s f n).count else 0 }
      else srcOf s f n := by
  have hloop := srcOf_forEach_setSrc f (fun m => pendWrite (value.getLsbD (m % 32)))
    (List.Pairwise.filter (srcExists s f) (List.nodup_range' (s := 32 * w) (n := 32))) s n
  refine hloop.trans ?_
  by_cases hs : 2 ≤ (srcOf s f n).sense
  · simp only [mem_sources_of_word, pendWrite_edge _ hs, hs, and_true]
  · simp only [pendWrite_level _ (Nat.lt_of_not_le hs), ite_self, hs, and_false, if_false]

theorem fastOf_pendWrites (value : Word) (s : State) {n : Nat} (hn : n < 32) :
    fastOf (forEach (List.range 32) (fun m x => setFast m (pendWrite (value.getLsbD m) (fastOf x m)) x) s) n
      = if 2 ≤ (fastOf s n).sense
        then { fastOf s n with count := if value.getLsbD n then max 1 (fastOf s n).count else 0 } else fastOf s n := by
  rw [fastOf_forEach_setFast (fun m => pendWrite (value.getLsbD m)) List.nodup_range, if_pos (List.mem_range.mpr hn)]
  by_cases hs : 2 ≤ (fastOf s n).sense
  · rw [pendWrite_edge _ hs, if_pos hs]
  · rw [pendWrite_level _ (Nat.lt_of_not_le hs), if_neg hs]

/-- A write of IC_SRC_CFG gives the selected source its SENSE code and, at most, a vector (R341, R343). -/
theorem srcOf_srcCfgWrite {f : Fn} {s : State} (value : Word) (h : srcExists s f (icFn s f).sel = true) :
    ∃ vector, srcOf (srcCfgWrite f value s) f (icFn s f).sel
      = { senseWrite (bits value 0 3) (srcOf s f (icFn s f).sel) with vector := vector } := by
  unfold srcCfgWrite
  extract_lets n s₁ v isCq old s₂
  have hs₁ : srcOf s₁ f n = senseWrite (bits value 0 3) (srcOf s f n) := srcOf_setSrc f n _ s
  have hs₂ : srcOf s₂ f n = { srcOf s₁ f n with vector := v } := srcOf_setSrc f n _ s₁
  rw [if_neg (by simpa using h)]
  split
  · exact ⟨_, hs₁⟩
  · split
    · exact ⟨v, by rw [hs₂, hs₁]⟩
    · exact ⟨_, hs₁⟩

/-! ### EDGE_COUNT (R342) -/

/-- EDGE_COUNT of every normal source and of every fast source. -/
def edgeCounts (s : State) : (Fn → Nat → Word) × (Nat → Word) :=
  (fun g n => (srcOf s g n).edges, fun n => (fastOf s n).edges)

theorem edgeCounts_setSrc {f : Fn} {n : Nat} {v : Src} {s : State} (h : v.edges = (srcOf s f n).edges) :
    edgeCounts (setSrc f n v s) = edgeCounts s := by
  refine Prod.ext (funext fun g => funext fun m => ?_) rfl
  change (srcOf (setSrc f n v s) g m).edges = (srcOf s g m).edges
  by_cases hk : srcKey g m = srcKey f n
  · rw [srcOf_congr_key _ hk, srcOf_congr_key _ hk, srcOf_setSrc, h]
  · rw [srcOf_setSrc_other v s hk]

theorem edgeCounts_setFast {n : Nat} {v : Src} {s : State} (h : v.edges = (fastOf s n).edges) :
    edgeCounts (setFast n v s) = edgeCounts s := by
  refine Prod.ext rfl (funext fun m => ?_)
  change (fastOf (setFast n v s) m).edges = (fastOf s m).edges
  by_cases hm : m = n
  · rw [hm, fastOf_setFast, h]
  · rw [fastOf_setFast_other n v s hm]

@[simp] theorem edgeCounts_advance (t : Time) (s : State) : edgeCounts (advance t s) = edgeCounts s := by
  simp only [edgeCounts, srcOf_advance, fastOf_advance]

theorem edgeCounts_pendWordWrite (f : Fn) (w : Nat) (v : Word) (s : State) :
    edgeCounts (pendWordWrite f w v s) = edgeCounts s :=
  forEach_keeps edgeCounts _ _ (fun _ _ => edgeCounts_setSrc (pendWrite_edges _ _)) s

theorem edgeCounts_maskWordWrite (f : Fn) (w : Nat) (v : Word) (s : State) :
    edgeCounts (maskWordWrite f w v s) = edgeCounts s :=
  forEach_keeps edgeCounts _ _ (fun n x => edgeCounts_setSrc (v := { srcOf x f n with masked := v.getLsbD (n % 32) }) rfl) s

theorem edgeCounts_eoiGroup (f : Fn) (v : Nat) (s : State) : edgeCounts (eoiGroup f v s) = edgeCounts s :=
  forEach_keeps edgeCounts _ _ (fun _ _ => edgeCounts_setSrc (eoiSrc_edges _ _)) s

theorem edgeCounts_eoiFast (s : State) : edgeCounts (eoiFast s) = edgeCounts s :=
  forEach_keeps edgeCounts _ _ (fun _ _ => edgeCounts_setFast (eoiSrc_edges _ _)) s

theorem edgeCounts_setIcFn (f : Fn) (v : IcFn) (s : State) : edgeCounts (setIcFn f v s) = edgeCounts s := rfl

theorem edgeCounts_srcCfgWrite (f : Fn) (value : Word) (s : State) :
    edgeCounts (srcCfgWrite f value s) = edgeCounts s := by
  unfold srcCfgWrite
  extract_lets n s₁ v isCq old s₂
  have hs₁ : edgeCounts s₁ = edgeCounts s := edgeCounts_setSrc (senseWrite_edges _ _)
  have hs₂ : edgeCounts s₂ = edgeCounts s := (edgeCounts_setSrc (v := { old with vector := v }) rfl).trans hs₁
  split
  · rfl
  · split
    · exact hs₁
    · split
      · exact hs₂
      · exact hs₁

theorem edgeCounts_icWrite (f : Fn) (o : Nat) (v : Word) (s : State) : edgeCounts (icWrite f o v s) = edgeCounts s := by
  unfold icWrite
  extract_lets c w
  split
  · exact edgeCounts_pendWordWrite f _ v s
  · split
    · exact edgeCounts_maskWordWrite f _ v s
    · split
      · exact edgeCounts_setIcFn f _ s
      · exact edgeCounts_setIcFn f _ s
      · exact edgeCounts_srcCfgWrite f v s
      · exact edgeCounts_setIcFn f _ s
      · rfl
      · exact edgeCounts_eoiGroup f _ s
      · rfl

theorem edgeCounts_forEach_setFast (l : List Nat) (place : Nat → Nat) {op : Nat → Src → Src}
    (hop : ∀ i x, (op i x).edges = x.edges) (s : State) :
    edgeCounts (forEach l (fun i x => setFast (place i) (op i (fastOf x (place i))) x) s) = edgeCounts s :=
  forEach_keeps edgeCounts _ _ (fun _ _ => edgeCounts_setFast (hop _ _)) s

theorem edgeCounts_fastWrite (o : Nat) (v : Word) (s : State) : edgeCounts (fastWrite o v s) = edgeCounts s := by
  unfold fastWrite
  extract_lets each
  split
  · exact edgeCounts_forEach_setFast _ (fun i => 8 * ((o - 0x20) / 4) + i) (fun _ _ => senseWrite_edges _ _) s
  · split
    · rfl
    · exact edgeCounts_forEach_setFast _ id (fun _ _ => pendWrite_edges _ _) s
    · exact edgeCounts_forEach_setFast _ id (op := fun n x => { x with masked := v.getLsbD n }) (fun _ _ => rfl) s
    · split
      · exact edgeCounts_eoiFast s
      · rfl
    · rfl
    · rfl

/-! ### The controller's banks in BAR0 (R404) -/

/-- Offset `o` lies in the normal bank of function `f`, or in the fast bank, which is the PF's alone. -/
def InIcBanks (f : Fn) (o : Nat) : Prop := (0x1000 ≤ o ∧ o < 0x2000) ∨ (f = 0 ∧ 0xF000 ≤ o ∧ o < 0x10000)

theorem pfWrite_normal_bank {o : Nat} (v : Word) (s : State) (hlo : 0x1000 ≤ o) (hhi : o < 0x2000) :
    pfWrite o v s = icWrite 0 (o - 0x1000) v s := by
  simp [pfWrite, hlo, hhi]

theorem pfWrite_fast_bank {o : Nat} (v : Word) (s : State) (hlo : 0xF000 ≤ o) (hhi : o < 0x10000) :
    pfWrite o v s = fastWrite (o - 0xF000) v s := by
  have hnormal : ¬o < 0x2000 := by omega
  have hhq : ¬o < 0x4048 := by omega
  have hallot : ¬o < 0x5400 := by omega
  have hspill : ¬o < 0xD000 := by omega
  simp [pfWrite, hlo, hhi, hnormal, hhq, hallot, hspill]

theorem vfWrite_normal_bank {f : Fn} {o : Nat} (v : Word) (s : State) (hlo : 0x1000 ≤ o) (hhi : o < 0x2000) :
    vfWrite f o v s = icWrite f (o - 0x1000) v s := by
  simp [vfWrite, hlo, hhi]

theorem edgeCounts_regWrite {f : Fn} {o : Nat} (h : InIcBanks f o) (v : Word) (s : State) :
    edgeCounts (regWrite f o v s) = edgeCounts s := by
  have hreset : ¬(f = 0 ∧ o = 0x28) := by unfold InIcBanks at h; omega
  unfold regWrite
  rw [if_neg hreset]
  split
  · split
    next hf =>
      obtain ⟨hlo, hhi⟩ | ⟨-, hlo, hhi⟩ := h
      · rw [pfWrite_normal_bank v s hlo hhi, edgeCounts_icWrite]
      · rw [pfWrite_fast_bank v s hlo hhi, edgeCounts_fastWrite]
    next hf =>
      obtain ⟨hlo, hhi⟩ | ⟨hpf, -⟩ := h
      · rw [vfWrite_normal_bank v s hlo hhi, edgeCounts_icWrite]
      · exact absurd hpf hf
  · rfl

/-- An aligned access of 8 bytes that starts in a bank ends in it. -/
theorem InIcBanks.high_word {f : Fn} {o : Nat} (h : InIcBanks f o) (hok : accessOk f o 8 = true) : InIcBanks f (o + 4) := by
  have halign : o % 8 = 0 := by
    simp only [accessOk, Bool.and_eq_true, beq_iff_eq] at hok
    exact hok.1.2
  obtain ⟨hlo, hhi⟩ | ⟨hpf, hlo, hhi⟩ := h
  · exact .inl ⟨by omega, by omega⟩
  · exact .inr ⟨hpf, by omega, by omega⟩

/-- What time and the one or two word writes of a BAR0 access keep, the access keeps (R396). -/
theorem registerWrite_keeps {β : Type} (p : State → β) (t : Time) {f : Fn} {offset width : Nat} (value : DWord) (s : State)
    (hok : accessOk f offset width = true) (htime : ∀ x, p (advance t x) = p x)
    (hlow : ∀ v x, p (regWrite f offset v x) = p x)
    (hhigh : width = 8 → ∀ v x, p (regWrite f (offset + 4) v x) = p x) :
    ∃ u, exec (.registerWrite t f 0 offset width value) s = .next u ∧ p u = p s := by
  change ∃ u, execRegisterWrite t f 0 offset width value s = .next u ∧ p u = p s
  unfold execRegisterWrite
  extract_lets s₁ put
  have hput : p (put (regWrite f)) = p s := by
    simp only [put]
    split
    next hw => rw [hhigh hw, hlow, htime]
    next => rw [hlow, htime]
  split
  · exact ⟨s₁, rfl, htime s⟩
  · rw [if_pos ⟨rfl, hok⟩]
    exact ⟨_, rfl, hput⟩

theorem registerWrite_edgeCounts (t : Time) {f : Fn} {offset width : Nat} (value : DWord) (s : State)
    (hok : accessOk f offset width = true) (hbank : InIcBanks f offset) :
    ∃ u, exec (.registerWrite t f 0 offset width value) s = .next u ∧ edgeCounts u = edgeCounts s :=
  registerWrite_keeps edgeCounts t value s hok (edgeCounts_advance t) (edgeCounts_regWrite hbank) fun hw =>
    edgeCounts_regWrite (hbank.high_word (hw ▸ hok))

/-! ### The commands -/

theorem exec_sourceLineChange_normal (t : Time) {f : Fn} {n : Nat} {s : State} (h : srcExists s f n = true) :
    exec (.sourceLineChange t f false n) s
      = .next (setSrc f n (senseLine (srcLine (advance t s) f n) (srcOf s f n)) (advance t s)) := by
  change Host.Outcome.next (senseSrc f n (advance t s)) = _
  rw [senseSrc, if_pos (by rwa [srcExists_advance]), srcOf_advance]

theorem exec_sourceLineChange_fast (t : Time) {n : Nat} (s : State) (h : n ≠ 7) :
    exec (.sourceLineChange t 0 true n) s
      = .next (setFast n (senseLine (fastLine (advance t s) n) (fastOf s n)) (advance t s)) := by
  change Host.Outcome.next (if n = 7 then advance t s else senseFast n (advance t s)) = _
  rw [if_neg h, senseFast, fastOf_advance]

theorem exec_icPendWrite_normal (t : Time) {f : Fn} {word : Nat} (value : Word) {s : State} (hlive : fnLive s f = true)
    (hword : word < icWords f) :
    exec (.icPendWrite t f false word value) s = .next (pendWordWrite f word value (advance t s)) := by
  change execIcPendWrite t f false word value s = _
  simp [execIcPendWrite, hlive, Nat.not_le.mpr hword]

theorem exec_icPendWrite_fast (t : Time) (value : Word) {s : State} (hlive : regsLive s = true) :
    exec (.icPendWrite t 0 true 0 value) s = .next (forEach (List.range 32)
      (fun n x => setFast n (pendWrite (value.getLsbD n) (fastOf x n)) x) (advance t s)) := by
  change execIcPendWrite t 0 true 0 value s = _
  have hfn : fnLive (advance t s) 0 = true := by rw [fnLive_advance, fnLive_zero, hlive]
  unfold execIcPendWrite
  rw [if_neg (by rw [hfn]; decide), if_pos rfl, if_pos rfl]

theorem exec_icSrcCfgWrite (t : Time) {f : Fn} (value : Word) {s : State} (hlive : fnLive s f = true) :
    exec (.icSrcCfgWrite t f value) s = .next (srcCfgWrite f value (advance t s)) := by
  change execIcSrcCfgWrite t f value s = _
  simp [execIcSrcCfgWrite, hlive]

/-! ### SENSE at reset (R341) -/

theorem srcKey_pulse_iff (f : Fn) {n : Nat} (hn : n < 8736) :
    pulseSrc (srcKey f n) = true ↔ f = 0 ∧ (n = 8272 ∨ n = 8405 ∨ n = 8406) := by
  have hf : f = 0 ↔ f.toNat = 0 := BitVec.toNat_inj (y := 0#6) |>.symm
  simp only [pulseSrc, internalSrc, srcKey, Bool.or_eq_true, beq_iff_eq, hf]
  omega

theorem srcOf_reset (f : Fn) (n : Nat) : srcOf State.reset f n = srcDefault (srcKey f n) := rfl

/-- Settles O43: an edge counts exactly where the SENSE code counts it, up to the cap of the code; PEND and SENSE writes
reach the sources named and no EDGE_COUNT (R341, R342). -/
theorem sourceSensing : Obligations.SourceSensing := by
  unfold Obligations.SourceSensing
  refine ⟨fun t s => ⟨fun f n hex => ?line, fun n hn => ?fastLine, fun f n => ?pending,
      fun f word value hlive hword => ?pend, fun value hlive => ?fastPend, fun f value hlive hex => ?sense⟩,
    fun t s f offset width value hok hbank => ?counts, fun v hs hline => ?pulse, fun f n hn => ?reset, fun n => rfl⟩
  case line =>
    refine ⟨_, exec_sourceLineChange_normal t hex, ?_⟩
    rw [srcOf_setSrc]
    exact senseLine_sensed _ _
  case fastLine =>
    refine ⟨_, exec_sourceLineChange_fast t s hn, ?_⟩
    rw [fastOf_setFast]
    exact senseLine_sensed _ _
  case pending =>
    exact ⟨pendingNow_high_level, pendingNow_low_level, pendingNow_edge⟩
  case pend =>
    refine ⟨_, exec_icPendWrite_normal t value hlive hword, fun n => ?_⟩
    rw [srcOf_pendWordWrite, srcExists_advance, srcOf_advance]
  case fastPend =>
    refine ⟨_, exec_icPendWrite_fast t value hlive, fun n hn => ?_⟩
    rw [fastOf_pendWrites value _ hn, fastOf_advance]
  case sense =>
    refine ⟨_, exec_icSrcCfgWrite t value hlive, ?_⟩
    obtain ⟨vector, hsrc⟩ := srcOf_srcCfgWrite (s := advance t s) value (by simpa using hex)
    rw [icFn_advance, srcOf_advance] at hsrc
    rw [hsrc]
    refine ⟨senseWrite_insvc _ _, senseWrite_edges _ _, fun hc => ?_, fun hc => ?_⟩
    · simp only [senseWrite_reserved _ hc, and_self]
    · by_cases hsame : bits value 0 3 = (srcOf s f (icFn s f).sel).sense
      · simp only [senseWrite_same hsame]
        exact ⟨hsame.symm, fun hne => absurd hsame hne, fun _ => trivial⟩
      · simp only [senseWrite_change hc hsame]
        exact ⟨trivial, fun _ => trivial, fun heq => absurd heq hsame⟩
  case counts =>
    obtain ⟨u, hexec, hedges⟩ := registerWrite_edgeCounts t value s hok hbank
    obtain ⟨hsrc, hfast⟩ := Prod.mk.inj hedges
    exact ⟨u, hexec, fun g => congrFun (congrFun hsrc g), congrFun hfast⟩
  case pulse =>
    rw [sensePulse_both_edges hs hline]
    refine ⟨?_, fun hcount => ?_⟩
    · exact BitVec.add_assoc v.edges 1 1
    · simp [srcEdge, hcount]
  case reset =>
    simp only [srcOf_reset, srcDefault, srcKey_pulse_iff f hn]

end Sys2Proof.Machine
end

section
/-!
What each command may change: for every command of the table its meaning answers a next state, within the frame that
`footprint` gives it. One lemma for each command, built from the frames of the operations it is made of.
-/

namespace Sys2Proof.Machine

set_option Elab.async false

/-- A frame holds for every list that names its parts. -/
theorem Frame.widen {l₁ l : List Region} {s u : State} (h : Frame l₁ s u)
    (hs : l₁.all l.contains = true := by decide) : Frame l s u := h.comp (Frame.refl l s) hs

/-- The outcome is a next state, and only the parts listed may differ in it from `s`. -/
def Moves (l : List Region) (s : State) (o : Host.Outcome State Fault Refusal) : Prop := ∃ u, o = .next u ∧ Frame l s u

theorem Moves.next {l : List Region} {s u : State} (h : Frame l s u) : Moves l s (.next u) := ⟨u, rfl, h⟩

theorem Moves.ite {l : List Region} {s : State} {a b : Host.Outcome State Fault Refusal} {c : Prop} [Decidable c]
    (ha : Moves l s a) (hb : Moves l s b) : Moves l s (if c then a else b) := by
  split <;> assumption

/-- Without the lock of the PLL the state does not move to the command's instant: only TB tells the two apart. -/
theorem advance_undo (t : Time) (s : State) : Frame [.tb] (advance t s) s := by
  unfold advance
  split
  · exact ⟨fun b hb => by cases b <;> first | exact absurd (by decide) hb | exact refs_id rfl | rfl, List.suffix_refl _⟩
  · exact Frame.refl _ s

/-! ### The commands of Machine/Interrupts.lean -/

theorem execSourceLineChange_moves (t : Time) (f : Fn) (fast : Bool) (src : Nat) (s : State) :
    Moves [.ic] (advance t s) (execSourceLineChange t f fast src s) := by
  unfold execSourceLineChange
  repeat' first
    | with_reducible refine Moves.next ?_
    | with_reducible exact Frame.refl _ _
    | with_reducible refine (senseFast_frame _ _).comp ?_ (by decide)
    | with_reducible refine (senseSrc_frame _ _ _).comp ?_ (by decide)
    | with_reducible refine Frame.ite ?_ ?_

theorem execInterruptDelivery_moves (t : Time) (s : State) :
    Moves [.ic, .out] (advance t s) (execInterruptDelivery t s) := by
  unfold execInterruptDelivery
  repeat' first
    | with_reducible refine Moves.next ?_
    | with_reducible exact Frame.refl _ _
    | with_reducible refine (deliverGroup_frame _ _ _).comp ?_ (by decide)
    | extract_lets
    | split

theorem execFastDelivery_moves (t : Time) (s : State) :
    Moves [.ic, .out] (advance t s) (execFastDelivery t s) := by
  unfold execFastDelivery
  repeat' first
    | with_reducible refine Moves.next ?_
    | with_reducible exact Frame.refl _ _
    | with_reducible refine (deliverFast_frame _).comp ?_ (by decide)
    | with_reducible refine Frame.ite ?_ ?_

theorem execHoldoffExpiry_moves (t : Time) (f : Fn) (fast : Bool) (vec : Nat) (s : State) :
    Moves [.ic] (advance t s) (execHoldoffExpiry t f fast vec s) := by
  unfold execHoldoffExpiry
  repeat' first
    | with_reducible refine Moves.next ?_
    | with_reducible refine Moves.ite ?_ ?_
    | with_reducible exact Frame.refl _ _
    | with_reducible refine Frame.ite ?_ ?_
    | (simp only [Frame.spelled]; (with_reducible apply FrameMk.upd);
        (with_reducible (intro b hb; cases b <;> first | exact absurd (by decide) hb | (dsimp only [Region.same] <;> rfl) | exact refs_id rfl));
        with_reducible exact List.suffix_refl _)

theorem execMsixUnmask_moves (t : Time) (f : Fn) (vec : Option Nat) (s : State) :
    Moves [.ic, .out] (advance t s) (execMsixUnmask t f vec s) := by
  unfold execMsixUnmask
  repeat' first
    | with_reducible refine Moves.next ?_
    | with_reducible exact Frame.refl _ _
    | with_reducible assumption
    | with_reducible refine (messageHeld_frame _ _ _).comp ?_ (by decide)
    | with_reducible refine (setMsixWord_frame _ _ _ _ _).comp ?_ (by decide)
    | with_reducible refine Frame.forEach _ _ ?_ ?_
    | (simp only [Frame.spelled]; (with_reducible apply FrameMk.upd);
        (with_reducible (intro b hb; cases b <;> first | exact absurd (by decide) hb | (dsimp only [Region.same] <;> rfl) | exact refs_id rfl));
        with_reducible exact List.suffix_refl _)
    | intro _
    | split

theorem execIcEoi_moves (t : Time) (f : Fn) (value : Word) (s : State) :
    Moves [.ic] (advance t s) (execIcEoi t f value s) := by
  unfold execIcEoi
  repeat' first
    | with_reducible refine Moves.next ?_
    | with_reducible exact Frame.refl _ _
    | with_reducible refine (eoiGroup_frame _ _ _).comp ?_ (by decide)
    | with_reducible refine Frame.ite ?_ ?_

theorem execIcFEoi_moves (t : Time) (value : Word) (s : State) :
    Moves [.ic] (advance t s) (execIcFEoi t value s) := by
  unfold execIcFEoi
  repeat' first
    | with_reducible refine Moves.next ?_
    | with_reducible exact Frame.refl _ _
    | with_reducible refine (eoiFast_frame _).comp ?_ (by decide)
    | with_reducible refine Frame.ite ?_ ?_

theorem execIcActiveRead_moves (t : Time) (f : Fn) (fast : Bool) (word : Nat) (s : State) :
    Moves [.ic, .out] (advance t s) (execIcActiveRead t f fast word s) := by
  unfold execIcActiveRead
  repeat' first
    | with_reducible refine Moves.next ?_
    | with_reducible refine Moves.ite ?_ ?_
    | with_reducible exact Frame.refl _ _
    | with_reducible refine (emit_frame _ _).comp ?_ (by decide)
    | with_reducible refine (lookFast_frame _).comp ?_ (by decide)
    | with_reducible refine (lookWord_frame _ _ _).comp ?_ (by decide)
    | with_reducible refine Frame.ite ?_ ?_

theorem execIcPendWrite_moves (t : Time) (f : Fn) (fast : Bool) (word : Nat) (value : Word) (s : State) :
    Moves [.ic] (advance t s) (execIcPendWrite t f fast word value s) := by
  unfold execIcPendWrite
  repeat' first
    | with_reducible refine Moves.next ?_
    | with_reducible refine Moves.ite ?_ ?_
    | with_reducible exact Frame.refl _ _
    | with_reducible assumption
    | with_reducible refine (setFast_frame _ _ _).comp ?_ (by decide)
    | with_reducible refine (pendWordWrite_frame _ _ _ _).comp ?_ (by decide)
    | with_reducible refine Frame.forEach _ _ ?_ ?_
    | with_reducible refine Frame.ite ?_ ?_
    | intro _

theorem execIcSrcCfgWrite_moves (t : Time) (f : Fn) (value : Word) (s : State) :
    Moves [.ic] (advance t s) (execIcSrcCfgWrite t f value s) := by
  unfold execIcSrcCfgWrite
  repeat' first
    | with_reducible refine Moves.next ?_
    | with_reducible exact Frame.refl _ _
    | with_reducible refine (srcCfgWrite_frame _ _ _).comp ?_ (by decide)
    | with_reducible refine Frame.ite ?_ ?_

/-! ### The commands of Machine/Keys.lean -/

theorem execKeyLoadKek_moves (t : Time) (ref : CmdRef) (segs : List SgSeg) (blob : List Byte) (s : State) :
    Moves [.hq, .eng, .cy, .vol, .rdr, .sm, .ic, .se, .out] (advance t s) (execKeyLoadKek t ref segs blob s) := by
  unfold execKeyLoadKek
  repeat' first
    | with_reducible refine Moves.next ?_
    | with_reducible exact Frame.refl _ _
    | with_reducible refine (failCmd_frame _ _ _).comp ?_ (by decide)
    | with_reducible refine (rsaSubmit_frame _ _).comp ?_ (by decide)
    | with_reducible refine (setCmd_frame _ _).comp ?_ (by decide)
    | extract_lets
    | split

theorem execKeyLoadRecordKey_moves (t : Time) (ref : CmdRef) (segs : List SgSeg) (blob : List Byte) (s : State) :
    Moves [.hq, .eng, .cy, .vol, .rdr, .sm, .ic, .out] (advance t s) (execKeyLoadRecordKey t ref segs blob s) := by
  unfold execKeyLoadRecordKey
  repeat' first
    | with_reducible refine Moves.next ?_
    | with_reducible exact Frame.refl _ _
    | with_reducible refine (failCmd_frame _ _ _).comp ?_ (by decide)
    | with_reducible refine (complete_frame _ _ _ _ _ _).comp ?_ (by decide)
    | with_reducible refine (slotLoad_frame _ _ _).comp ?_ (by decide)
    | extract_lets
    | split

theorem execKeyErase_moves (t : Time) (ref : CmdRef) (s : State) :
    Moves [.hq, .eng, .cy, .vol, .rdr, .sm, .ic, .out] (advance t s) (execKeyErase t ref s) := by
  unfold execKeyErase
  repeat' first
    | with_reducible refine Moves.next ?_
    | with_reducible exact Frame.refl _ _
    | with_reducible assumption
    | with_reducible refine (complete_frame _ _ _ _ _ _).comp ?_ (by decide)
    | with_reducible refine (slotErase_frame _ _).comp ?_ (by decide)
    | with_reducible refine Frame.forEach _ _ ?_ ?_
    | intro _
    | extract_lets
    | split

theorem execKeyEraseImmediate_moves (t : Time) (ref : CmdRef) (s : State) :
    Moves [.hq, .eng, .cy, .vol, .rdr, .sm, .ic, .out] (advance t s) (execKeyEraseImmediate t ref s) := by
  unfold execKeyEraseImmediate
  repeat' first
    | with_reducible refine Moves.next ?_
    | with_reducible exact Frame.refl _ _
    | with_reducible assumption
    | with_reducible refine (complete_frame _ _ _ _ _ _).comp ?_ (by decide)
    | with_reducible refine (purgeSlots_frame _ _).comp ?_ (by decide)
    | with_reducible refine (slotErase_frame _ _).comp ?_ (by decide)
    | with_reducible refine Frame.forEach _ _ ?_ ?_
    | intro _
    | extract_lets
    | split

theorem execKeyEraseKek_moves (t : Time) (ref : CmdRef) (s : State) :
    Moves [.hq, .eng, .cy, .vol, .rdr, .sm, .ic, .out] (advance t s) (execKeyEraseKek t ref s) := by
  unfold execKeyEraseKek
  repeat' first
    | with_reducible refine Moves.next ?_
    | with_reducible exact Frame.refl _ _
    | with_reducible refine (complete_frame _ _ _ _ _ _).comp ?_ (by decide)
    | with_reducible refine (setKek_frame _ _ _).comp ?_ (by decide)
    | extract_lets
    | split

theorem execDrbgReseed_moves (t : Time) (entropyOk : Bool) (s : State) :
    Moves [.cy, .ic, .spill, .ev, .out] (advance t s) (execDrbgReseed t entropyOk s) := by
  unfold execDrbgReseed
  repeat' first
    | with_reducible refine Moves.next ?_
    | with_reducible refine Moves.ite ?_ ?_
    | with_reducible exact Frame.refl _ _
    | with_reducible refine (senseFast_frame _ _).comp ?_ (by decide)
    | with_reducible refine (healthFail_frame _).comp ?_ (by decide)
    | (simp only [Frame.spelled]; (with_reducible apply FrameMk.upd);
        (with_reducible (intro b hb; cases b <;> first | exact absurd (by decide) hb | (dsimp only [Region.same] <;> rfl) | exact refs_id rfl));
        with_reducible exact List.suffix_refl _)

theorem execEntropyHealthFail_moves (t : Time) (s : State) :
    Moves [.cy, .ic, .spill, .ev, .out] (advance t s) (execEntropyHealthFail t s) := by
  unfold execEntropyHealthFail
  repeat' first
    | with_reducible refine Moves.next ?_
    | with_reducible exact Frame.refl _ _
    | with_reducible refine (healthFail_frame _).comp ?_ (by decide)
    | with_reducible refine Frame.ite ?_ ?_

/-! ### The commands of Machine/Spills.lean -/

theorem execItemOffer_moves (t : Time) (q : Nat) (part : ItemPart) (words : List DWord) (s : State) :
    Moves [.spill, .ev, .out] (advance t s) (execItemOffer t q part words s) := by
  unfold execItemOffer
  repeat' first
    | with_reducible refine Moves.next ?_
    | with_reducible exact Frame.refl _ _
    | with_reducible refine (itemEnd_frame _ _ _).comp ?_ (by decide)
    | with_reducible refine (setSpill_frame _ _ _).comp ?_ (by decide)
    | extract_lets
    | split

theorem execBatchIdleTimeout_moves (t : Time) (q : Nat) (s : State) :
    Moves [.spill, .out] (advance t s) (execBatchIdleTimeout t q s) := by
  unfold execBatchIdleTimeout
  repeat' first
    | with_reducible refine Moves.next ?_
    | with_reducible exact Frame.refl _ _
    | with_reducible refine (pumpAll_frame _ _).comp ?_ (by decide)

theorem execSpillHeadWrite_moves (t : Time) (q : Nat) (value : Word) (s : State) :
    Moves [.spill, .out] (advance t s) (execSpillHeadWrite t q value s) := by
  unfold execSpillHeadWrite
  repeat' first
    | with_reducible refine Moves.next ?_
    | with_reducible exact Frame.refl _ _
    | with_reducible refine (headWrite_frame _ _ _).comp ?_ (by decide)
    | with_reducible refine Frame.ite ?_ ?_

theorem execSpillFlush_moves (t : Time) (q : Nat) (s : State) :
    Moves [.spill, .ev, .out] (advance t s) (execSpillFlush t q s) := by
  unfold execSpillFlush
  repeat' first
    | with_reducible refine Moves.next ?_
    | with_reducible exact Frame.refl _ _
    | with_reducible refine (flushRequest_frame _ _ _).comp ?_ (by decide)
    | with_reducible refine Frame.ite ?_ ?_

theorem execSpillFlushEffect_moves (t : Time) (q : Nat) (s : State) :
    Moves [.spill, .ev, .out] (advance t s) (execSpillFlushEffect t q s) := by
  unfold execSpillFlushEffect
  repeat' first
    | with_reducible refine Moves.next ?_
    | with_reducible exact Frame.refl _ _
    | with_reducible refine (flushRun_frame _ _).comp ?_ (by decide)
    | with_reducible refine Frame.ite ?_ ?_

theorem execSpillStart_moves (t : Time) (q : Nat) (s : State) :
    Moves [.spill, .out] (advance t s) (execSpillStart t q s) := by
  unfold execSpillStart
  repeat' first
    | with_reducible refine Moves.next ?_
    | with_reducible exact Frame.refl _ _
    | with_reducible refine (spillEnable_frame _ _).comp ?_ (by decide)
    | with_reducible refine Frame.ite ?_ ?_

theorem execSpillStop_moves (t : Time) (q : Nat) (s : State) :
    Moves [.spill] (advance t s) (execSpillStop t q s) := by
  unfold execSpillStop
  repeat' first
    | with_reducible refine Moves.next ?_
    | with_reducible exact Frame.refl _ _
    | with_reducible refine (spillDisable_frame _ _).comp ?_ (by decide)
    | with_reducible refine Frame.ite ?_ ?_

theorem execSpillConsumerHalt_moves (t : Time) (q : Nat) (s : State) :
    Moves [.spill] (advance t s) (execSpillConsumerHalt t q s) := by
  unfold execSpillConsumerHalt
  repeat' first
    | with_reducible refine Moves.next ?_
    | with_reducible exact Frame.refl _ _
    | with_reducible refine (setSpill_frame _ _ _).comp ?_ (by decide)
    | extract_lets
    | split

/-! ### The commands of Machine/Queues.lean -/

theorem execSqTailDoorbell_moves (t : Time) (f : Fn) (q : Nat) (width : Nat) (value : DWord) (s : State) :
    Moves [.hq] (advance t s) (execSqTailDoorbell t f q width value s) := by
  unfold execSqTailDoorbell
  repeat' first
    | with_reducible refine Moves.next ?_
    | with_reducible refine Moves.ite ?_ ?_
    | with_reducible exact Frame.refl _ _
    | with_reducible refine (setSq_frame _ _ _ _).comp ?_ (by decide)
    | with_reducible refine (doorbellError_frame _ _ _).comp ?_ (by decide)

theorem execCqHeadDoorbell_moves (t : Time) (f : Fn) (q : Nat) (width : Nat) (value : DWord) (s : State) :
    Moves [.hq] (advance t s) (execCqHeadDoorbell t f q width value s) := by
  unfold execCqHeadDoorbell
  repeat' first
    | with_reducible refine Moves.next ?_
    | with_reducible refine Moves.ite ?_ ?_
    | with_reducible exact Frame.refl _ _
    | with_reducible refine (setCq_frame _ _ _ _).comp ?_ (by decide)
    | with_reducible refine (doorbellError_frame _ _ _).comp ?_ (by decide)

theorem execHqAllotWrite_moves (t : Time) (g : Fn) (word : BitVec 2) (value : Word) (s : State) :
    Moves [.hq, .cy] (advance t s) (execHqAllotWrite t g word value s) := by
  unfold execHqAllotWrite
  repeat' first
    | with_reducible refine Moves.next ?_
    | with_reducible exact Frame.refl _ _
    | with_reducible refine (allotWrite_frame _ _ _ _).comp ?_ (by decide)
    | with_reducible refine Frame.ite ?_ ?_

theorem execHqEnable_moves (t : Time) (f : Fn) (s : State) :
    Moves [.hq, .ic] (advance t s) (execHqEnable t f s) := by
  unfold execHqEnable
  repeat' first
    | with_reducible refine Moves.next ?_
    | with_reducible exact Frame.refl _ _
    | with_reducible refine (fnEnable_frame _ _).comp ?_ (by decide)
    | with_reducible refine Frame.ite ?_ ?_

theorem execHqDisable_moves (t : Time) (f : Fn) (s : State) :
    Moves [.hq, .eng, .cy, .vol, .rdr, .sm, .ic, .spill, .ev, .out] (advance t s) (execHqDisable t f s) := by
  unfold execHqDisable
  repeat' first
    | with_reducible refine Moves.next ?_
    | with_reducible exact Frame.refl _ _
    | with_reducible refine (fnDisable_frame _ _).comp ?_ (by decide)
    | with_reducible refine Frame.ite ?_ ?_

theorem execCreateCq_moves (t : Time) (ref : CmdRef) (s : State) :
    Moves [.hq, .eng, .cy, .vol, .rdr, .sm, .ic, .out] (advance t s) (execCreateCq t ref s) := by
  unfold execCreateCq
  repeat' first
    | with_reducible refine Moves.next ?_
    | with_reducible exact Frame.refl _ _
    | with_reducible refine (failCmd_frame _ _ _).comp ?_ (by decide)
    | with_reducible refine (setCq_frame _ _ _ _).comp ?_ (by decide)
    | with_reducible refine (complete_frame _ _ _ _ _ _).comp ?_ (by decide)
    | with_reducible refine (bindCq_frame _ _ _ _ _).comp ?_ (by decide)
    | extract_lets
    | split

theorem execDeleteCq_moves (t : Time) (ref : CmdRef) (s : State) :
    Moves [.hq, .eng, .cy, .vol, .rdr, .sm, .ic, .out] (advance t s) (execDeleteCq t ref s) := by
  unfold execDeleteCq
  repeat' first
    | with_reducible refine Moves.next ?_
    | with_reducible exact Frame.refl _ _
    | with_reducible refine (failCmd_frame _ _ _).comp ?_ (by decide)
    | with_reducible refine (complete_frame _ _ _ _ _ _).comp ?_ (by decide)
    | with_reducible refine (cqDelete_frame _ _ _).comp ?_ (by decide)
    | extract_lets
    | split

theorem execCreateSq_moves (t : Time) (ref : CmdRef) (s : State) :
    Moves [.hq, .eng, .cy, .vol, .rdr, .sm, .ic, .out] (advance t s) (execCreateSq t ref s) := by
  unfold execCreateSq
  repeat' first
    | with_reducible refine Moves.next ?_
    | with_reducible exact Frame.refl _ _
    | with_reducible refine (failCmd_frame _ _ _).comp ?_ (by decide)
    | with_reducible refine (complete_frame _ _ _ _ _ _).comp ?_ (by decide)
    | with_reducible refine (setSq_frame _ _ _ _).comp ?_ (by decide)
    | extract_lets
    | split

theorem execDeleteSq_moves (t : Time) (ref : CmdRef) (s : State) :
    Moves [.hq, .eng, .cy, .vol, .rdr, .sm, .ic, .spill, .ev, .out] (advance t s) (execDeleteSq t ref s) := by
  unfold execDeleteSq
  repeat' first
    | with_reducible refine Moves.next ?_
    | with_reducible exact Frame.refl _ _
    | with_reducible refine (failCmd_frame _ _ _).comp ?_ (by decide)
    | with_reducible refine (tidy_frame _).comp ?_ (by decide)
    | with_reducible refine (complete_frame _ _ _ _ _ _).comp ?_ (by decide)
    | with_reducible refine (sqDelete_frame _ _ _).comp ?_ (by decide)
    | with_reducible refine (setCmd_frame _ _).comp ?_ (by decide)
    | extract_lets
    | split

theorem execFlr_moves (t : Time) (f : Fn) (s : State) :
    Moves [.hq, .eng, .cy, .vol, .rdr, .sm, .tt, .ic, .spill, .ev, .mi, .se, .out, .refs] (advance t s) (execFlr t f
      s) := by
  unfold execFlr
  repeat' first
    | with_reducible refine Moves.next ?_
    | with_reducible refine Moves.ite ?_ ?_
    | with_reducible exact Frame.refl _ _
    | with_reducible assumption
    | with_reducible refine (flrOne_frame _ _).comp ?_ (by decide)
    | with_reducible refine (tidy_frame _).comp ?_ (by decide)
    | with_reducible refine Frame.forEach _ _ ?_ ?_
    | (simp only [Frame.spelled]; (with_reducible apply FrameMk.upd);
        (with_reducible (intro b hb; cases b <;> first | exact absurd (by decide) hb | (dsimp only [Region.same] <;> rfl) | exact refs_id rfl));
        with_reducible exact List.suffix_refl _)
    | intro _

theorem execVfEnableWrite_moves (t : Time) (on : Bool) (s : State) :
    Moves [.hq, .eng, .cy, .vol, .rdr, .sm, .tt, .ic, .spill, .ev, .mi, .se, .out, .refs] (advance t s)
      (execVfEnableWrite t on s) := by
  unfold execVfEnableWrite
  repeat' first
    | with_reducible refine Moves.next ?_
    | with_reducible refine Moves.ite ?_ ?_
    | with_reducible exact Frame.refl _ _
    | with_reducible assumption
    | with_reducible refine (flrOne_frame _ _).comp ?_ (by decide)
    | with_reducible refine (tidy_frame _).comp ?_ (by decide)
    | with_reducible refine Frame.forEach _ _ ?_ ?_
    | with_reducible refine Frame.ite ?_ ?_
    | (simp only [Frame.spelled]; (with_reducible apply FrameMk.upd);
        (with_reducible (intro b hb; cases b <;> first | exact absurd (by decide) hb | (dsimp only [Region.same] <;> rfl) | exact refs_id rfl));
        with_reducible exact List.suffix_refl _)
    | intro _

theorem execAbort_moves (t : Time) (ref : CmdRef) (ahead : List (BitVec 16)) (s : State) :
    Moves [.hq, .eng, .cy, .vol, .rdr, .sm, .ic, .spill, .ev, .out] (advance t s) (execAbort t ref ahead s) := by
  unfold execAbort
  repeat' first
    | with_reducible refine Moves.next ?_
    | with_reducible exact Frame.refl _ _
    | with_reducible refine (setCmd_frame _ _).comp ?_ (by decide)
    | with_reducible refine (tidy_frame _).comp ?_ (by decide)
    | with_reducible refine (complete_frame _ _ _ _ _ _).comp ?_ (by decide)
    | with_reducible refine (failCmd_frame _ _ _).comp ?_ (by decide)
    | with_reducible refine (undefineOutput_frame _ _).comp ?_ (by decide)
    | extract_lets
    | split

theorem execDmaChannelHalt_moves (t : Time) (f : Fn) (q : Nat) (s : State) :
    Moves [.hq, .eng, .cy, .vol, .rdr, .sm, .ic, .spill, .ev, .out] (advance t s) (execDmaChannelHalt t f q s) := by
  unfold execDmaChannelHalt
  repeat' first
    | with_reducible refine Moves.next ?_
    | with_reducible exact Frame.refl _ _
    | with_reducible refine (channelHalt_frame _ _ _).comp ?_ (by decide)

theorem execCompletionTimeout_moves (t : Time) (f : Fn) (q : Nat) (s : State) :
    Moves [.hq, .eng, .cy, .vol, .rdr, .sm, .ic, .spill, .ev, .out] (advance t s) (execCompletionTimeout t f q s) :=
      by
  unfold execCompletionTimeout
  repeat' first
    | with_reducible refine Moves.next ?_
    | with_reducible exact Frame.refl _ _
    | with_reducible refine (channelHalt_frame _ _ _).comp ?_ (by decide)

theorem execCommandAged_moves (t : Time) (_ref : CmdRef) (s : State) :
    Moves [] (advance t s) (execCommandAged t _ref s) := by
  unfold execCommandAged
  repeat' first
    | with_reducible refine Moves.next ?_
    | with_reducible exact Frame.refl _ _

/-! ### The commands of Machine/Fetch.lean -/

theorem execCommandFetch_moves (t : Time) (entry : BitVec 512) (s : State) :
    Moves [.hq, .eng, .cy, .vol, .rdr, .sm, .ic, .out, .refs] (advance t s) (execCommandFetch t entry s) := by
  unfold execCommandFetch
  repeat' first
    | with_reducible refine Moves.next ?_
    | with_reducible refine Moves.ite ?_ ?_
    | with_reducible exact Frame.refl _ _
    | with_reducible refine (fetchEntry_frame _ _ _ _).comp ?_ (by decide)
    | (simp only [Frame.spelled]; (with_reducible apply FrameMk.upd);
        (with_reducible (intro b hb; cases b <;> first | exact absurd (by decide) hb | (dsimp only [Region.same] <;> rfl) | exact refs_id rfl));
        with_reducible exact List.suffix_refl _)
    | split

/-! ### The commands of Machine/Stream.lean -/

theorem execAppend_moves (t : Time) (ref : CmdRef) (rlist : List Nat) (segs : List SgSeg) (data : List Byte) (s :
    State) :
    Moves [.hq, .eng, .cy, .vol, .rdr, .sm, .ic, .out] (advance t s) (execAppend t ref rlist segs data s) := by
  unfold execAppend
  repeat' first
    | with_reducible refine Moves.next ?_
    | with_reducible exact Frame.refl _ _
    | with_reducible refine (failCmd_frame _ _ _).comp ?_ (by decide)
    | with_reducible refine (grantPass_frame _).comp ?_ (by decide)
    | with_reducible refine (setCmd_frame _ _).comp ?_ (by decide)
    | extract_lets
    | split

theorem execStagingGrant_moves (t : Time) (s : State) :
    Moves [.hq, .eng, .rdr, .sm] (advance t s) (execStagingGrant t s) := by
  unfold execStagingGrant
  repeat' first
    | with_reducible refine Moves.next ?_
    | with_reducible exact Frame.refl _ _
    | with_reducible refine (grantPass_frame _).comp ?_ (by decide)

theorem execAcceptancePoint_moves (t : Time) (s : State) :
    Moves [.hq, .eng, .cy, .vol, .rdr, .sm, .ic, .spill, .ev, .out] (advance t s) (execAcceptancePoint t s) := by
  unfold execAcceptancePoint
  repeat' first
    | with_reducible refine Moves.next ?_
    | with_reducible refine Moves.ite ?_ ?_
    | with_reducible exact Frame.refl _ _
    | with_reducible refine (tidy_frame _).comp ?_ (by decide)
    | with_reducible refine (failCmd_frame _ _ _).comp ?_ (by decide)
    | with_reducible refine (acceptAppend_frame _ _).comp ?_ (by decide)
    | split

theorem execWriteMark_moves (t : Time) (ref : CmdRef) (s : State) :
    Moves [.hq, .eng, .cy, .vol, .rdr, .sm, .ic, .spill, .ev, .out] (advance t s) (execWriteMark t ref s) := by
  unfold execWriteMark
  repeat' first
    | with_reducible refine Moves.next ?_
    | with_reducible exact Frame.refl _ _
    | with_reducible assumption
    | with_reducible refine (tidy_frame _).comp ?_ (by decide)
    | with_reducible refine (failCmd_frame _ _ _).comp ?_ (by decide)
    | with_reducible refine (addElems_frame _ _ _).comp ?_ (by decide)
    | with_reducible refine (openSession_frame _ _).comp ?_ (by decide)
    | with_reducible refine (complete_frame _ _ _ _ _ _).comp ?_ (by decide)
    | (simp only [Frame.spelled]; (with_reducible apply FrameMk.upd);
        (with_reducible (intro b hb; cases b <;> first | exact absurd (by decide) hb | (dsimp only [Region.same] <;> rfl) | exact refs_id rfl));
        with_reducible exact List.suffix_refl _)
    | (extract_lets +onlyGivenNames y;
        first | (refine have hy : Frame [.hq, .eng, .cy, .vol, .rdr, .sm, .ic, .spill, .ev, .out] (advance t s) y := ?_; ?_; unfold y) | skip)
    | split

theorem execFlush_moves (t : Time) (ref : CmdRef) (s : State) :
    Moves [.hq, .eng, .cy, .vol, .rdr, .sm, .ic, .spill, .ev, .out] (advance t s) (execFlush t ref s) := by
  unfold execFlush
  repeat' first
    | with_reducible refine Moves.next ?_
    | with_reducible exact Frame.refl _ _
    | with_reducible refine (tidy_frame _).comp ?_ (by decide)
    | with_reducible refine (completeFlush_frame _ _ _ _).comp ?_ (by decide)
    | extract_lets
    | split

theorem execReadPosition_moves (t : Time) (ref : CmdRef) (segs : List SgSeg) (s : State) :
    Moves [.hq, .eng, .cy, .vol, .rdr, .sm, .ic, .out] (advance t s) (execReadPosition t ref segs s) := by
  unfold execReadPosition
  repeat' first
    | with_reducible refine Moves.next ?_
    | with_reducible exact Frame.refl _ _
    | with_reducible refine (failCmd_frame _ _ _).comp ?_ (by decide)
    | with_reducible refine (complete_frame _ _ _ _ _ _).comp ?_ (by decide)
    | with_reducible refine (writeArea_frame _ _ _ _ _).comp ?_ (by decide)
    | extract_lets
    | split

/-! ### The commands of Machine/Engines.lean -/

theorem execRunDispatch_moves (t : Time) (engine : BitVec 5) (s : State) :
    Moves [.eng] (advance t s) (execRunDispatch t engine s) := by
  unfold execRunDispatch
  repeat' first
    | with_reducible refine Moves.next ?_
    | with_reducible refine Moves.ite ?_ ?_
    | with_reducible exact Frame.refl _ _
    | (simp only [Frame.spelled]; (with_reducible apply FrameMk.upd);
        (with_reducible (intro b hb; cases b <;> first | exact absurd (by decide) hb | (dsimp only [Region.same] <;> rfl) | exact refs_id rfl));
        with_reducible exact List.suffix_refl _)
    | split

theorem execRunComplete_moves (t : Time) (engine : BitVec 5) (agrees : Bool) (s : State) :
    Moves [.crew, .hq, .eng, .cy, .vol, .rdr, .sm, .lk, .ic, .spill, .ev, .out] (advance t s) (execRunComplete t
      engine agrees s) := by
  unfold execRunComplete
  repeat' first
    | with_reducible refine Moves.next ?_
    | with_reducible exact Frame.refl _ _
    | with_reducible assumption
    | with_reducible refine (countStale_frame _ _).comp ?_ (by decide)
    | with_reducible refine (tidy_frame _).comp ?_ (by decide)
    | with_reducible refine (runAgain_frame _ _).comp ?_ (by decide)
    | with_reducible refine (runFrameDone_frame _ _ _).comp ?_ (by decide)
    | with_reducible refine (benchFirst_frame _ _ _).comp ?_ (by decide)
    | with_reducible refine (recordBad_frame _ _).comp ?_ (by decide)
    | with_reducible refine (runFailed_frame _ _).comp ?_ (by decide)
    | (simp only [Frame.spelled]; (with_reducible apply FrameMk.upd);
        (with_reducible (intro b hb; cases b <;> first | exact absurd (by decide) hb | (dsimp only [Region.same] <;> rfl) | exact refs_id rfl));
        with_reducible exact List.suffix_refl _)
    | (extract_lets +onlyGivenNames y;
        first | (refine have hy : Frame [.crew, .hq, .eng, .cy, .vol, .rdr, .sm, .lk, .ic, .spill, .ev, .out] (advance t s) y := ?_; ?_; unfold y) | skip)
    | split

theorem execCipherRecordStart_moves (t : Time) (pair : BitVec 2) (s : State) :
    Moves [.hq, .eng, .cy, .vol, .rdr, .sm, .ic, .spill, .ev, .out] (advance t s) (execCipherRecordStart t pair s)
      := by
  unfold execCipherRecordStart
  repeat' first
    | with_reducible refine Moves.next ?_
    | with_reducible refine Moves.ite ?_ ?_
    | with_reducible exact Frame.refl _ _
    | with_reducible refine (tidy_frame _).comp ?_ (by decide)
    | with_reducible refine (recordStops_frame _ _ _).comp ?_ (by decide)
    | with_reducible refine (countFault_frame _ _ _ _).comp ?_ (by decide)
    | (simp only [Frame.spelled]; (with_reducible apply FrameMk.upd);
        (with_reducible (intro b hb; cases b <;> first | exact absurd (by decide) hb | (dsimp only [Region.same] <;> rfl) | exact refs_id rfl));
        with_reducible exact List.suffix_refl _)
    | split

theorem execCipherRecordEnd_moves (t : Time) (pair : BitVec 2) (agrees : Bool) (s : State) :
    Moves [.crew, .hq, .eng, .cy, .vol, .rdr, .sm, .lk, .ic, .spill, .ev, .out] (advance t s) (execCipherRecordEnd t
      pair agrees s) := by
  unfold execCipherRecordEnd
  repeat' first
    | with_reducible refine Moves.next ?_
    | with_reducible exact Frame.refl _ _
    | with_reducible assumption
    | with_reducible refine (tidy_frame _).comp ?_ (by decide)
    | with_reducible refine (recordAgain_frame _ _).comp ?_ (by decide)
    | with_reducible refine (countStale_frame _ _).comp ?_ (by decide)
    | with_reducible refine (countFault_frame _ _ _ _).comp ?_ (by decide)
    | with_reducible refine (recordFault_frame _ _).comp ?_ (by decide)
    | with_reducible refine (setUnitState_frame _ _ _ _).comp ?_ (by decide)
    | with_reducible refine (recordSealed_frame _ _).comp ?_ (by decide)
    | with_reducible refine (recordOpened_frame _ _).comp ?_ (by decide)
    | (simp only [Frame.spelled]; (with_reducible apply FrameMk.upd);
        (with_reducible (intro b hb; cases b <;> first | exact absurd (by decide) hb | (dsimp only [Region.same] <;> rfl) | exact refs_id rfl));
        with_reducible exact List.suffix_refl _)
    | (extract_lets +onlyGivenNames y;
        first | (refine have hy : Frame [.crew, .hq, .eng, .cy, .vol, .rdr, .sm, .lk, .ic, .spill, .ev, .out] (advance t s) y := ?_; ?_; unfold y) | skip)
    | split

/-! ### The commands of Machine/Modes.lean -/

theorem execPerstNFall_moves (t : Time) (s : State) :
    Moves [.gl, .life, .pins, .crew, .hq, .task, .par, .eng, .cy, .vol, .wr, .fm, .rch, .rdr, .sm, .sv, .ce, .tt,
      .lk, .sp, .ic, .spill, .ev, .mi, .units, .se, .latch, .fresh] (advance t s) (execPerstNFall t s) := by
  unfold execPerstNFall
  repeat' first
    | with_reducible refine Moves.next ?_
    | with_reducible refine Moves.ite ?_ ?_
    | with_reducible exact Frame.refl _ _
    | with_reducible refine (enterReset_frame _).comp ?_ (by decide)
    | (simp only [Frame.spelled]; (with_reducible apply FrameMk.upd);
        (with_reducible (intro b hb; cases b <;> first | exact absurd (by decide) hb | (dsimp only [Region.same] <;> rfl) | exact refs_id rfl));
        with_reducible exact List.suffix_refl _)

theorem execPerstNRise_moves (t : Time) (addrSel : BitVec 2) (temps : List (BitVec 16)) (s : State) :
    Moves [.pins] (advance t s) (execPerstNRise t addrSel temps s) := by
  unfold execPerstNRise
  repeat' first
    | with_reducible refine Moves.next ?_
    | with_reducible refine Moves.ite ?_ ?_
    | with_reducible exact Frame.refl _ _
    | (simp only [Frame.spelled]; (with_reducible apply FrameMk.upd);
        (with_reducible (intro b hb; cases b <;> first | exact absurd (by decide) hb | (dsimp only [Region.same] <;> rfl) | exact refs_id rfl));
        with_reducible exact List.suffix_refl _)

theorem execRootPllLock_moves (t : Time) (env : BringUp) (s : State) :
    Moves [.tb, .gl, .life, .pins, .crew, .hq, .par, .eng, .cy, .vol, .wr, .rch, .rdr, .sm, .sv, .ce, .lk, .sp, .ic,
      .spill, .ev, .se, .fuses, .logs, .out, .fresh] (advance t s) (execRootPllLock t env s) := by
  unfold execRootPllLock
  refine Moves.ite (.next (advance_undo t s).widen) (.next ((fillRun_frame false env _).comp ?_ (by decide)))
  refine Frame.upd (x := s) ⟨fun b hb => ?_, List.suffix_refl _⟩ (advance_undo t s).widen
  cases b <;> first | exact absurd (by decide) hb | exact refs_id rfl | rfl

theorem execRefClkLoss_moves (t : Time) (s : State) :
    Moves [.gl, .life, .pins, .crew, .hq, .task, .par, .eng, .cy, .vol, .wr, .fm, .rch, .rdr, .sm, .sv, .ce, .tt,
      .lk, .sp, .ic, .spill, .ev, .mi, .units, .se, .latch, .fresh] (advance t s) (execRefClkLoss t s) := by
  unfold execRefClkLoss
  repeat' first
    | with_reducible refine Moves.next ?_
    | with_reducible refine Moves.ite ?_ ?_
    | with_reducible exact Frame.refl _ _
    | with_reducible refine (enterReset_frame _).comp ?_ (by decide)
    | (simp only [Frame.spelled]; (with_reducible apply FrameMk.upd);
        (with_reducible (intro b hb; cases b <;> first | exact absurd (by decide) hb | (dsimp only [Region.same] <;> rfl) | exact refs_id rfl));
        with_reducible exact List.suffix_refl _)

theorem execSupplyMonitorTrip_moves (t : Time) (s : State) :
    Moves [.gl, .life, .pins, .crew, .hq, .task, .par, .eng, .cy, .vol, .wr, .fm, .rch, .rdr, .sm, .sv, .ce, .tt,
      .lk, .sp, .ic, .spill, .ev, .mi, .units, .se, .latch, .fresh] (advance t s) (execSupplyMonitorTrip t s) := by
  unfold execSupplyMonitorTrip
  repeat' first
    | with_reducible refine Moves.next ?_
    | with_reducible refine Moves.ite ?_ ?_
    | with_reducible exact Frame.refl _ _
    | with_reducible refine (enterReset_frame _).comp ?_ (by decide)
    | (simp only [Frame.spelled]; (with_reducible apply FrameMk.upd);
        (with_reducible (intro b hb; cases b <;> first | exact absurd (by decide) hb | (dsimp only [Region.same] <;> rfl) | exact refs_id rfl));
        with_reducible exact List.suffix_refl _)

theorem execTempUpdate_moves (t : Time) (temps : List (BitVec 16)) (s : State) :
    Moves [.gl, .life, .pins, .crew, .hq, .task, .par, .eng, .cy, .vol, .wr, .fm, .rch, .rdr, .sm, .sv, .ce, .tt,
      .lk, .sp, .ic, .spill, .ev, .mi, .units, .se, .latch, .fresh] (advance t s) (execTempUpdate t temps s) := by
  unfold execTempUpdate
  repeat' first
    | with_reducible refine Moves.next ?_
    | with_reducible refine Moves.ite ?_ ?_
    | with_reducible exact Frame.refl _ _
    | with_reducible refine (enterReset_frame _).comp ?_ (by decide)
    | (simp only [Frame.spelled]; (with_reducible apply FrameMk.upd);
        (with_reducible (intro b hb; cases b <;> first | exact absurd (by decide) hb | (dsimp only [Region.same] <;> rfl) | exact refs_id rfl));
        with_reducible exact List.suffix_refl _)

theorem execPwrWarnNFall_moves (t : Time) (s : State) :
    Moves [.gl, .pins, .crew, .hq, .eng, .cy, .vol, .wr, .rdr, .sm, .sv, .ce, .ic, .spill, .ev, .out] (advance t s)
      (execPwrWarnNFall t s) := by
  unfold execPwrWarnNFall
  repeat' first
    | with_reducible refine Moves.next ?_
    | with_reducible refine Moves.ite ?_ ?_
    | with_reducible exact Frame.refl _ _
    | with_reducible refine (senseFast_frame _ _).comp ?_ (by decide)
    | with_reducible refine (holdCause_frame _ _).comp ?_ (by decide)
    | with_reducible refine (stopArm_frame _ _).comp ?_ (by decide)
    | with_reducible refine (storeLoss_frame _ _ _).comp ?_ (by decide)
    | (simp only [Frame.spelled]; (with_reducible apply FrameMk.upd);
        (with_reducible (intro b hb; cases b <;> first | exact absurd (by decide) hb | (dsimp only [Region.same] <;> rfl) | exact refs_id rfl));
        with_reducible exact List.suffix_refl _)

theorem execPwrWarnNRise_moves (t : Time) (s : State) :
    Moves [.pins, .ic] (advance t s) (execPwrWarnNRise t s) := by
  unfold execPwrWarnNRise
  repeat' first
    | with_reducible refine Moves.next ?_
    | with_reducible exact Frame.refl _ _
    | with_reducible refine (senseFast_frame _ _).comp ?_ (by decide)
    | (simp only [Frame.spelled]; (with_reducible apply FrameMk.upd);
        (with_reducible (intro b hb; cases b <;> first | exact absurd (by decide) hb | (dsimp only [Region.same] <;> rfl) | exact refs_id rfl));
        with_reducible exact List.suffix_refl _)

theorem execHoldInNFall_moves (t : Time) (s : State) :
    Moves [.gl, .pins, .crew, .hq, .eng, .cy, .vol, .wr, .rdr, .sm, .sv, .ce, .ic, .spill, .ev, .out] (advance t s)
      (execHoldInNFall t s) := by
  unfold execHoldInNFall
  repeat' first
    | with_reducible refine Moves.next ?_
    | with_reducible refine Moves.ite ?_ ?_
    | with_reducible exact Frame.refl _ _
    | with_reducible refine (senseFast_frame _ _).comp ?_ (by decide)
    | with_reducible refine (holdCause_frame _ _).comp ?_ (by decide)
    | (simp only [Frame.spelled]; (with_reducible apply FrameMk.upd);
        (with_reducible (intro b hb; cases b <;> first | exact absurd (by decide) hb | (dsimp only [Region.same] <;> rfl) | exact refs_id rfl));
        with_reducible exact List.suffix_refl _)

theorem execHoldInNRise_moves (t : Time) (s : State) :
    Moves [.pins, .ic] (advance t s) (execHoldInNRise t s) := by
  unfold execHoldInNRise
  repeat' first
    | with_reducible refine Moves.next ?_
    | with_reducible exact Frame.refl _ _
    | with_reducible refine (senseFast_frame _ _).comp ?_ (by decide)
    | (simp only [Frame.spelled]; (with_reducible apply FrameMk.upd);
        (with_reducible (intro b hb; cases b <;> first | exact absurd (by decide) hb | (dsimp only [Region.same] <;> rfl) | exact refs_id rfl));
        with_reducible exact List.suffix_refl _)

theorem execWarmResetRequest_moves (t : Time) (value : Word) (s : State) :
    Moves [.gl, .crew, .hq, .eng, .cy, .vol, .wr, .rdr, .sm, .sv, .ce, .ic, .spill, .ev, .out] (advance t s)
      (execWarmResetRequest t value s) := by
  unfold execWarmResetRequest
  repeat' first
    | with_reducible refine Moves.next ?_
    | with_reducible exact Frame.refl _ _
    | with_reducible refine (resetWrite_frame _ _).comp ?_ (by decide)

theorem execWarmResetStart_moves (t : Time) (env : BringUp) (s : State) :
    Moves [.gl, .life, .pins, .crew, .hq, .task, .par, .eng, .cy, .vol, .wr, .fm, .rch, .rdr, .sm, .sv, .ce, .tt,
      .lk, .sp, .ic, .spill, .ev, .mi, .units, .se, .fuses, .logs, .latch, .out, .fresh] (advance t s)
      (execWarmResetStart t env s) := by
  unfold execWarmResetStart
  repeat' first
    | with_reducible refine Moves.next ?_
    | with_reducible exact Frame.refl _ _
    | with_reducible refine (setMode_frame _ _).comp ?_ (by decide)
    | with_reducible refine (abortAll_frame _).comp ?_ (by decide)
    | with_reducible refine (warmState_frame _ _).comp ?_ (by decide)
    | with_reducible refine (lcWipe_frame _ _).comp ?_ (by decide)
    | with_reducible refine (fillRun_frame _ _ _).comp ?_ (by decide)
    | with_reducible refine (requestReset_frame _ _).comp ?_ (by decide)
    | (simp only [Frame.spelled]; (with_reducible apply FrameMk.upd);
        (with_reducible (intro b hb; cases b <;> first | exact absurd (by decide) hb | (dsimp only [Region.same] <;> rfl) | exact refs_id rfl));
        with_reducible exact List.suffix_refl _)
    | (extract_lets +onlyGivenNames y;
        refine have hy : Frame [.gl, .life, .pins, .crew, .hq, .task, .par, .eng, .cy, .vol, .wr, .fm, .rch, .rdr, .sm, .sv, .ce, .tt, .lk, .sp, .ic, .spill, .ev, .mi, .units, .se, .fuses, .logs, .latch, .out, .fresh] (advance t s) y := ?_; ?_; unfold y)
    | split

theorem execGateDelayExpiry_moves (t : Time) (s : State) :
    Moves [.crew] (advance t s) (execGateDelayExpiry t s) := by
  unfold execGateDelayExpiry
  repeat' first
    | with_reducible refine Moves.next ?_
    | with_reducible refine Moves.ite ?_ ?_
    | with_reducible exact Frame.refl _ _
    | with_reducible assumption
    | with_reducible refine (setDie_frame _ _ _).comp ?_ (by decide)
    | with_reducible refine Frame.forEach _ _ ?_ ?_
    | (simp only [Frame.spelled]; (with_reducible apply FrameMk.upd);
        (with_reducible (intro b hb; cases b <;> first | exact absurd (by decide) hb | (dsimp only [Region.same] <;> rfl) | exact refs_id rfl));
        with_reducible exact List.suffix_refl _)
    | intro _

theorem execDieShutdownDone_moves (t : Time) (die : BitVec 2) (s : State) :
    Moves [.crew, .sv, .lk, .ic, .spill, .ev, .out] (advance t s) (execDieShutdownDone t die s) := by
  unfold execDieShutdownDone
  repeat' first
    | with_reducible refine Moves.next ?_
    | with_reducible exact Frame.refl _ _
    | with_reducible assumption
    | with_reducible refine (dieSleep_frame _ _).comp ?_ (by decide)
    | with_reducible refine (setDie_frame _ _ _).comp ?_ (by decide)
    | with_reducible refine (laneTrain_frame _ _).comp ?_ (by decide)
    | with_reducible refine Frame.forEach _ _ ?_ ?_
    | intro _
    | extract_lets
    | split

theorem execDieWakeDone_moves (t : Time) (die : BitVec 2) (s : State) :
    Moves [.crew, .rch, .lk, .ic, .spill, .ev, .out] (advance t s) (execDieWakeDone t die s) := by
  unfold execDieWakeDone
  repeat' first
    | with_reducible refine Moves.next ?_
    | with_reducible exact Frame.refl _ _
    | with_reducible refine (reloadZones_frame _).comp ?_ (by decide)
    | with_reducible refine (dieAwake_frame _ _).comp ?_ (by decide)
    | with_reducible refine (setDie_frame _ _ _).comp ?_ (by decide)
    | extract_lets
    | split

/-! ### The commands of Machine/Reading.lean -/

theorem execRead_moves (t : Time) (ref : CmdRef) (segs : List SgSeg) (s : State) :
    Moves [.gl, .crew, .hq, .eng, .cy, .vol, .rdr, .sm, .ce, .ic, .spill, .ev, .out] (advance t s) (execRead t ref
      segs s) := by
  unfold execRead
  repeat' first
    | with_reducible refine Moves.next ?_
    | with_reducible exact Frame.refl _ _
    | with_reducible refine (failCmd_frame _ _ _).comp ?_ (by decide)
    | with_reducible refine (readAheadGo_frame _).comp ?_ (by decide)
    | with_reducible refine (tapeRest_frame _).comp ?_ (by decide)
    | with_reducible refine (tidy_frame _).comp ?_ (by decide)
    | with_reducible refine (readRun_frame _ _ _).comp ?_ (by decide)
    | with_reducible refine (setCmd_frame _ _).comp ?_ (by decide)
    | extract_lets
    | split

theorem execVerify_moves (t : Time) (ref : CmdRef) (s : State) :
    Moves [.gl, .crew, .hq, .eng, .cy, .vol, .rdr, .sm, .ce, .ic, .spill, .ev, .out] (advance t s) (execVerify t ref
      s) := by
  unfold execVerify
  repeat' first
    | with_reducible refine Moves.next ?_
    | with_reducible exact Frame.refl _ _
    | with_reducible refine (readAheadGo_frame _).comp ?_ (by decide)
    | with_reducible refine (tapeRest_frame _).comp ?_ (by decide)
    | with_reducible refine (tidy_frame _).comp ?_ (by decide)
    | with_reducible refine (readRun_frame _ _ _).comp ?_ (by decide)
    | extract_lets
    | split

theorem execOrderQuery_moves (t : Time) (ref : CmdRef) (segs : List SgSeg) (list : List (Byte × BitVec 56 × DWord))
    (s : State) :
    Moves [.hq, .eng, .cy, .vol, .rdr, .sm, .ic, .spill, .ev, .out] (advance t s) (execOrderQuery t ref segs list s)
      := by
  unfold execOrderQuery
  repeat' first
    | with_reducible refine Moves.next ?_
    | with_reducible exact Frame.refl _ _
    | with_reducible refine (failCmd_frame _ _ _).comp ?_ (by decide)
    | with_reducible refine (emit_frame _ _).comp ?_ (by decide)
    | with_reducible refine (tidy_frame _).comp ?_ (by decide)
    | with_reducible refine (complete_frame _ _ _ _ _ _).comp ?_ (by decide)
    | extract_lets
    | split

/-! ### The commands of Machine/Pace.lean -/

theorem execTapeResume_moves (t : Time) (s : State) :
    Moves [.sm] (advance t s) (execTapeResume t s) := by
  unfold execTapeResume
  repeat' first
    | with_reducible refine Moves.next ?_
    | with_reducible exact Frame.refl _ _
    | (simp only [Frame.spelled]; (with_reducible apply FrameMk.upd);
        (with_reducible (intro b hb; cases b <;> first | exact absurd (by decide) hb | (dsimp only [Region.same] <;> rfl) | exact refs_id rfl));
        with_reducible exact List.suffix_refl _)
    | extract_lets
    | split

theorem execReadAheadStop_moves (t : Time) (s : State) :
    Moves [.sm] (advance t s) (execReadAheadStop t s) := by
  unfold execReadAheadStop
  repeat' first
    | with_reducible refine Moves.next ?_
    | with_reducible refine Moves.ite ?_ ?_
    | with_reducible exact Frame.refl _ _
    | (simp only [Frame.spelled]; (with_reducible apply FrameMk.upd);
        (with_reducible (intro b hb; cases b <;> first | exact absurd (by decide) hb | (dsimp only [Region.same] <;> rfl) | exact refs_id rfl));
        with_reducible exact List.suffix_refl _)

theorem execDemandUpdate_moves (t : Time) (s : State) :
    Moves [.sm] (advance t s) (execDemandUpdate t s) := by
  unfold execDemandUpdate
  repeat' first
    | with_reducible refine Moves.next ?_
    | with_reducible refine Moves.ite ?_ ?_
    | with_reducible exact Frame.refl _ _
    | with_reducible refine Frame.forEach _ _ ?_ ?_
    | (simp only [Frame.spelled]; (with_reducible apply FrameMk.upd);
        (with_reducible (intro b hb; cases b <;> first | exact absurd (by decide) hb | (dsimp only [Region.same] <;> rfl) | exact refs_id rfl));
        with_reducible exact List.suffix_refl _)
    | intro _

theorem execReefRampDone_moves (t : Time) (s : State) :
    Moves [.sm] (advance t s) (execReefRampDone t s) := by
  unfold execReefRampDone
  repeat' first
    | with_reducible refine Moves.next ?_
    | with_reducible exact Frame.refl _ _
    | (simp only [Frame.spelled]; (with_reducible apply FrameMk.upd);
        (with_reducible (intro b hb; cases b <;> first | exact absurd (by decide) hb | (dsimp only [Region.same] <;> rfl) | exact refs_id rfl));
        with_reducible exact List.suffix_refl _)

/-! ### The commands of Machine/Sheet.lean -/

theorem execSheetPacketReceive_moves (t : Time) (link : BitVec 5) (code : BitVec 3) (data : BitVec 32) (crc : Byte)
    (intact : Bool) (s : State) :
    Moves [.sp, .spill, .ev, .out] (advance t s) (execSheetPacketReceive t link code data crc intact s) := by
  unfold execSheetPacketReceive
  repeat' first
    | with_reducible refine Moves.next ?_
    | with_reducible refine Moves.ite ?_ ?_
    | with_reducible exact Frame.refl _ _
    | with_reducible refine (sheetError_frame _ _ _).comp ?_ (by decide)
    | with_reducible refine (event_frame _ _ _ _ _).comp ?_ (by decide)
    | (simp only [Frame.spelled]; (with_reducible apply FrameMk.upd);
        (with_reducible (intro b hb; cases b <;> first | exact absurd (by decide) hb | (dsimp only [Region.same] <;> rfl) | exact refs_id rfl));
        with_reducible exact List.suffix_refl _)

theorem execSheetRefresh_moves (t : Time) (s : State) :
    Moves [.out] (advance t s) (execSheetRefresh t s) := by
  unfold execSheetRefresh
  repeat' first
    | with_reducible refine Moves.next ?_
    | with_reducible refine Moves.ite ?_ ?_
    | with_reducible exact Frame.refl _ _
    | with_reducible assumption
    | with_reducible refine (emit_frame _ _).comp ?_ (by decide)
    | with_reducible refine Frame.forEach _ _ ?_ ?_
    | intro _

theorem execSheetLinkSync_moves (t : Time) (link : BitVec 5) (s : State) :
    Moves [.sp] (advance t s) (execSheetLinkSync t link s) := by
  unfold execSheetLinkSync
  repeat' first
    | with_reducible refine Moves.next ?_
    | with_reducible refine Moves.ite ?_ ?_
    | with_reducible exact Frame.refl _ _
    | with_reducible refine (linksNote_frame _).comp ?_ (by decide)
    | (simp only [Frame.spelled]; (with_reducible apply FrameMk.upd);
        (with_reducible (intro b hb; cases b <;> first | exact absurd (by decide) hb | (dsimp only [Region.same] <;> rfl) | exact refs_id rfl));
        with_reducible exact List.suffix_refl _)

theorem execSheetLinkLoss_moves (t : Time) (link : BitVec 5) (s : State) :
    Moves [.gl, .crew, .hq, .eng, .cy, .vol, .wr, .rdr, .sm, .sv, .ce, .sp, .ic, .spill, .ev, .out] (advance t s)
      (execSheetLinkLoss t link s) := by
  unfold execSheetLinkLoss
  repeat' first
    | with_reducible refine Moves.next ?_
    | with_reducible refine Moves.ite ?_ ?_
    | with_reducible exact Frame.refl _ _
    | with_reducible refine (sheetDown_frame _).comp ?_ (by decide)
    | with_reducible refine (sheetError_frame _ _ _).comp ?_ (by decide)
    | (simp only [Frame.spelled]; (with_reducible apply FrameMk.upd);
        (with_reducible (intro b hb; cases b <;> first | exact absurd (by decide) hb | (dsimp only [Region.same] <;> rfl) | exact refs_id rfl));
        with_reducible exact List.suffix_refl _)

theorem execSheetLinkStable_moves (t : Time) (s : State) :
    Moves [.gl, .ic] (advance t s) (execSheetLinkStable t s) := by
  unfold execSheetLinkStable
  repeat' first
    | with_reducible refine Moves.next ?_
    | with_reducible exact Frame.refl _ _
    | with_reducible refine (senseFast_frame _ _).comp ?_ (by decide)
    | (simp only [Frame.spelled]; (with_reducible apply FrameMk.upd);
        (with_reducible (intro b hb; cases b <;> first | exact absurd (by decide) hb | (dsimp only [Region.same] <;> rfl) | exact refs_id rfl));
        with_reducible exact List.suffix_refl _)
    | extract_lets
    | split

theorem execGpiEdge_moves (t : Time) (pin : BitVec 5) (level : Bool) (s : State) :
    Moves [.sp, .ic] (advance t s) (execGpiEdge t pin level s) := by
  unfold execGpiEdge
  repeat' first
    | with_reducible refine Moves.next ?_
    | with_reducible refine Moves.ite ?_ ?_
    | with_reducible exact Frame.refl _ _
    | with_reducible refine (senseSrc_frame _ _ _).comp ?_ (by decide)
    | (simp only [Frame.spelled]; (with_reducible apply FrameMk.upd);
        (with_reducible (intro b hb; cases b <;> first | exact absurd (by decide) hb | (dsimp only [Region.same] <;> rfl) | exact refs_id rfl));
        with_reducible exact List.suffix_refl _)

theorem execEncoderIndex_moves (t : Time) (enc : BitVec 1) (s : State) :
    Moves [.sv, .sp, .fresh] (advance t s) (execEncoderIndex t enc s) := by
  unfold execEncoderIndex
  repeat' first
    | with_reducible refine Moves.next ?_
    | with_reducible exact Frame.refl _ _
    | with_reducible refine (radiiUpdate_frame _).comp ?_ (by decide)
    | with_reducible refine (encTurn_frame _ _).comp ?_ (by decide)
    | with_reducible refine Frame.ite ?_ ?_

/-! ### The commands of Machine/Servo.lean -/

theorem execServoSampleCell_moves (t : Time) (lane : BitVec 4) (session : BitVec 12) (cell : BitVec 512) (s : State) :
    Moves [.crew, .wr, .sv, .ce, .lk, .ic, .spill, .ev, .out] (advance t s) (execServoSampleCell t lane session cell
      s) := by
  unfold execServoSampleCell
  repeat' first
    | with_reducible refine Moves.next ?_
    | with_reducible exact Frame.refl _ _
    | with_reducible assumption
    | with_reducible refine (laneStale_frame _ _).comp ?_ (by decide)
    | with_reducible refine (strayCell_frame _ _ _).comp ?_ (by decide)
    | with_reducible refine (countStaleN_frame _ _ _).comp ?_ (by decide)
    | with_reducible refine (servoSpeed_frame _).comp ?_ (by decide)
    | with_reducible refine (servoSample_frame _ _ _ _ _).comp ?_ (by decide)
    | with_reducible refine Frame.forEach _ _ ?_ ?_
    | intro _
    | extract_lets
    | split

theorem execBurstWindowClose_moves (t : Time) (reader : BitVec 4) (s : State) :
    Moves [.crew, .wr, .sv, .ce, .lk, .ic, .spill, .ev, .out] (advance t s) (execBurstWindowClose t reader s) := by
  unfold execBurstWindowClose
  repeat' first
    | with_reducible refine Moves.next ?_
    | with_reducible refine Moves.ite ?_ ?_
    | with_reducible exact Frame.refl _ _
    | with_reducible refine (servoSpeed_frame _).comp ?_ (by decide)
    | with_reducible refine (burstDone_frame _ _ _ _).comp ?_ (by decide)
    | with_reducible refine (setServoRd_frame _ _ _).comp ?_ (by decide)
    | with_reducible refine Frame.ite ?_ ?_

theorem execModuleSample_moves (t : Time) (m : BitVec 3) (kind : SampleKind) (s : State) :
    Moves [.wr, .sv, .ic, .out] (advance t s) (execModuleSample t m kind s) := by
  unfold execModuleSample
  repeat' first
    | with_reducible refine Moves.next ?_
    | with_reducible exact Frame.refl _ _
    | with_reducible refine (moduleSample_frame _ _ _).comp ?_ (by decide)

theorem execWriteGateOpen_moves (t : Time) (m : BitVec 3) (bit : BitVec 20) (s : State) :
    Moves [.wr, .sv, .out] (advance t s) (execWriteGateOpen t m bit s) := by
  unfold execWriteGateOpen
  repeat' first
    | with_reducible refine Moves.next ?_
    | with_reducible refine Moves.ite ?_ ?_
    | with_reducible exact Frame.refl _ _
    | with_reducible refine (setServoMod_frame _ _ _).comp ?_ (by decide)
    | with_reducible refine (emit_frame _ _).comp ?_ (by decide)
    | (simp only [Frame.spelled]; (with_reducible apply FrameMk.upd);
        (with_reducible (intro b hb; cases b <;> first | exact absurd (by decide) hb | (dsimp only [Region.same] <;> rfl) | exact refs_id rfl));
        with_reducible exact List.suffix_refl _)

theorem execServoLossLimit_moves (t : Time) (cond : ServoLoss) (s : State) :
    Moves [.gl, .crew, .hq, .eng, .cy, .vol, .wr, .rdr, .sm, .sv, .ce, .ic, .spill, .ev, .out] (advance t s)
      (execServoLossLimit t cond s) := by
  unfold execServoLossLimit
  repeat' first
    | with_reducible refine Moves.next ?_
    | with_reducible refine Moves.ite ?_ ?_
    | with_reducible exact Frame.refl _ _
    | with_reducible refine (servoSpeed_frame _).comp ?_ (by decide)
    | with_reducible refine (senseFast_frame _ _).comp ?_ (by decide)
    | with_reducible refine (holdCause_frame _ _).comp ?_ (by decide)
    | (simp only [Frame.spelled]; (with_reducible apply FrameMk.upd);
        (with_reducible (intro b hb; cases b <;> first | exact absurd (by decide) hb | (dsimp only [Region.same] <;> rfl) | exact refs_id rfl));
        with_reducible exact List.suffix_refl _)

theorem execEncoderEdge_moves (t : Time) (enc : BitVec 1) (a : Bool) (b : Bool) (s : State) :
    Moves [.gl, .wr, .sv, .sp, .ic, .out] (advance t s) (execEncoderEdge t enc a b s) := by
  unfold execEncoderEdge
  repeat' first
    | with_reducible refine Moves.next ?_
    | with_reducible refine Moves.ite ?_ ?_
    | with_reducible exact Frame.refl _ _
    | with_reducible refine (encMove_frame _ _ _ _).comp ?_ (by decide)
    | with_reducible refine (senseFast_frame _ _).comp ?_ (by decide)
    | with_reducible refine (servoSpeed_frame _).comp ?_ (by decide)
    | with_reducible refine Frame.ite ?_ ?_
    | (simp only [Frame.spelled]; (with_reducible apply FrameMk.upd);
        (with_reducible (intro b hb; cases b <;> first | exact absurd (by decide) hb | (dsimp only [Region.same] <;> rfl) | exact refs_id rfl));
        with_reducible exact List.suffix_refl _)

/-! ### The commands of Machine/Tape.lean -/

theorem execTapeCommandChoose_moves (t : Time) (s : State) :
    Moves [.gl, .crew, .hq, .vol, .wr, .rdr, .sm, .ce, .lk, .ic] (advance t s) (execTapeCommandChoose t s) := by
  unfold execTapeCommandChoose
  repeat' first
    | with_reducible refine Moves.next ?_
    | with_reducible refine Moves.ite ?_ ?_
    | with_reducible exact Frame.refl _ _
    | with_reducible refine (tapeRest_frame _).comp ?_ (by decide)
    | with_reducible refine (stopWriting_frame _).comp ?_ (by decide)
    | with_reducible refine (wakeDies_frame _).comp ?_ (by decide)
    | with_reducible refine (goToWork_frame _ _).comp ?_ (by decide)
    | with_reducible refine (setCmd_frame _ _).comp ?_ (by decide)
    | split

theorem execLocate_moves (t : Time) (ref : CmdRef) (s : State) :
    Moves [.gl, .crew, .hq, .eng, .cy, .vol, .rdr, .sm, .ce, .ic, .spill, .ev, .out] (advance t s) (execLocate t ref
      s) := by
  unfold execLocate
  repeat' first
    | with_reducible refine Moves.next ?_
    | with_reducible exact Frame.refl _ _
    | with_reducible refine (locateLeaves_frame _ _).comp ?_ (by decide)
    | with_reducible refine (locateEnds_frame _ _).comp ?_ (by decide)
    | with_reducible refine (setMode_frame _ _).comp ?_ (by decide)
    | (simp only [Frame.spelled]; (with_reducible apply FrameMk.upd);
        (with_reducible (intro b hb; cases b <;> first | exact absurd (by decide) hb | (dsimp only [Region.same] <;> rfl) | exact refs_id rfl));
        with_reducible exact List.suffix_refl _)
    | extract_lets
    | split

theorem execLocateTargetReached_moves (t : Time) (s : State) :
    Moves [.gl, .crew, .hq, .eng, .cy, .vol, .rdr, .sm, .ce, .ic, .spill, .ev, .out] (advance t s)
      (execLocateTargetReached t s) := by
  unfold execLocateTargetReached
  repeat' first
    | with_reducible refine Moves.next ?_
    | with_reducible exact Frame.refl _ _
    | with_reducible refine (pathBegins_frame _).comp ?_ (by decide)
    | with_reducible refine (setMode_frame _ _).comp ?_ (by decide)
    | with_reducible refine (tapeRest_frame _).comp ?_ (by decide)
    | with_reducible refine (locateEnds_frame _ _).comp ?_ (by decide)
    | with_reducible refine (readBegins_frame _).comp ?_ (by decide)
    | (simp only [Frame.spelled]; (with_reducible apply FrameMk.upd);
        (with_reducible (intro b hb; cases b <;> first | exact absurd (by decide) hb | (dsimp only [Region.same] <;> rfl) | exact refs_id rfl));
        with_reducible exact List.suffix_refl _)
    | extract_lets
    | split

theorem execWriteSessionStart_moves (t : Time) (hk : HkWrite) (s : State) :
    Moves [.gl, .crew, .hq, .eng, .cy, .vol, .wr, .rdr, .sm, .ce, .lk, .ic, .spill, .ev, .out] (advance t s)
      (execWriteSessionStart t hk s) := by
  unfold execWriteSessionStart
  generalize advance t s = s
  refine Moves.ite (.next (Frame.refl _ _)) ?_
  split
  · exact .next (Frame.refl _ _)
  · rename_i p _
    refine Moves.ite (.next (wakeDies_frame _).widen) ?_
    extract_lets v
    have hc : Frame [.gl, .crew, .hq, .eng, .cy, .vol, .wr, .rdr, .sm, .ce, .lk, .ic, .spill, .ev, .out] s _ :=
      (coverSession_frame (if s.wr.images.isEmpty then packSession v else 0) hk s).widen
    generalize coverSession _ hk s = g at hc ⊢
    obtain ⟨ok, x⟩ := g
    refine Moves.ite (.next ((failStream_frame _ _).comp hc (by decide))) (Moves.ite ?_ ?_)
    all_goals
      refine Moves.next ((setMode_frame _ _).comp (Frame.upd (x := x) ⟨fun b hb => ?_, List.suffix_refl _⟩ hc) (by decide))
      cases b <;> first | exact absurd (by decide) hb | exact refs_id rfl | rfl

theorem execReadWaitExpiry_moves (t : Time) (s : State) :
    Moves [.hq, .vol, .wr] (advance t s) (execReadWaitExpiry t s) := by
  unfold execReadWaitExpiry
  generalize advance t s = s
  refine Moves.ite (.next ?_) (Moves.ite (.next (stopWriting_frame _).widen) (.next (Frame.refl _ _)))
  refine ⟨fun b hb => ?_, List.suffix_refl _⟩
  cases b
  case refs => exact refs_map _ rfl fun d => by split <;> rfl
  all_goals first | exact absurd (by decide) hb | rfl

theorem execWrapChange_moves (t : Time) (wrap : Nat) (s : State) :
    Moves [.rch, .sv, .ce, .lk] (advance t s) (execWrapChange t wrap s) := by
  unfold execWrapChange
  repeat' first
    | with_reducible refine Moves.next ?_
    | with_reducible refine Moves.ite ?_ ?_
    | with_reducible exact Frame.refl _ _
    | with_reducible assumption
    | with_reducible refine (setServoRd_frame _ _ _).comp ?_ (by decide)
    | with_reducible refine (setLane_frame _ _ _).comp ?_ (by decide)
    | with_reducible refine (fineTargets_frame _ _).comp ?_ (by decide)
    | with_reducible refine (reloadZones_frame _).comp ?_ (by decide)
    | with_reducible refine Frame.forEach _ _ ?_ ?_
    | (simp only [Frame.spelled]; (with_reducible apply FrameMk.upd);
        (with_reducible (intro b hb; cases b <;> first | exact absurd (by decide) hb | (dsimp only [Region.same] <;> rfl) | exact refs_id rfl));
        with_reducible exact List.suffix_refl _)
    | intro _

theorem execTapeAtRest_moves (t : Time) (s : State) :
    Moves [.gl, .wr, .sm, .sv, .ic, .out] (advance t s) (execTapeAtRest t s) := by
  unfold execTapeAtRest
  repeat' first
    | with_reducible refine Moves.next ?_
    | with_reducible refine Moves.ite ?_ ?_
    | with_reducible exact Frame.refl _ _
    | with_reducible refine (senseFast_frame _ _).comp ?_ (by decide)
    | with_reducible refine (servoSpeed_frame _).comp ?_ (by decide)
    | (simp only [Frame.spelled]; (with_reducible apply FrameMk.upd);
        (with_reducible (intro b hb; cases b <;> first | exact absurd (by decide) hb | (dsimp only [Region.same] <;> rfl) | exact refs_id rfl));
        with_reducible exact List.suffix_refl _)

/-! ### The commands of Machine/Writer.lean -/

theorem execRowDispatch_moves (t : Time) (s : State) :
    Moves [.gl, .crew, .hq, .eng, .cy, .vol, .wr, .fm, .rdr, .sm, .ce, .lk, .ic, .spill, .ev, .out] (advance t s)
      (execRowDispatch t s) := by
  unfold execRowDispatch
  repeat' first
    | with_reducible refine Moves.next ?_
    | with_reducible exact Frame.refl _ _
    | with_reducible refine (rowZero_frame _ _).comp ?_ (by decide)
    | with_reducible refine (nominalRow_frame _ _).comp ?_ (by decide)
    | with_reducible refine (attemptsFail_frame _ _).comp ?_ (by decide)
    | with_reducible refine (afterRows_frame _ _ _).comp ?_ (by decide)
    | extract_lets
    | split

theorem execVerifyResult_moves (t : Time) (copy : Nat) (obs : VerifyObs) (s : State) :
    Moves [.crew, .hq, .eng, .cy, .vol, .wr, .fm, .rdr, .sm, .lk, .ic, .spill, .ev, .out] (advance t s)
      (execVerifyResult t copy obs s) := by
  unfold execVerifyResult
  repeat' first
    | with_reducible refine Moves.next ?_
    | with_reducible exact Frame.refl _ _
    | with_reducible refine (verifyFails_frame _ _ _).comp ?_ (by decide)
    | with_reducible refine (verifyPasses_frame _ _).comp ?_ (by decide)
    | extract_lets
    | split

theorem execVerifyDeadline_moves (t : Time) (copy : Nat) (s : State) :
    Moves [.crew, .hq, .eng, .cy, .vol, .wr, .fm, .rdr, .sm, .lk, .ic, .spill, .ev, .out] (advance t s)
      (execVerifyDeadline t copy s) := by
  unfold execVerifyDeadline
  repeat' first
    | with_reducible refine Moves.next ?_
    | with_reducible exact Frame.refl _ _
    | with_reducible refine (verifyFails_frame _ _ _).comp ?_ (by decide)
    | extract_lets
    | split

/-! ### The commands of Machine/Front.lean -/

theorem execReadSampleCell_moves (t : Time) (lane : BitVec 4) (session : BitVec 12) (cell : BitVec 512) (s : State) :
    Moves [.crew, .hq, .eng, .cy, .vol, .wr, .fm, .rch, .rdr, .sm, .lk, .ic, .spill, .ev, .out, .fresh] (advance t
      s) (execReadSampleCell t lane session cell s) := by
  unfold execReadSampleCell
  repeat' first
    | with_reducible refine Moves.next ?_
    | with_reducible refine Moves.ite ?_ ?_
    | with_reducible exact Frame.refl _ _
    | with_reducible refine (laneStale_frame _ _).comp ?_ (by decide)
    | with_reducible refine (strayCell_frame _ _ _).comp ?_ (by decide)
    | with_reducible refine (dropFront_frame _ _).comp ?_ (by decide)
    | with_reducible refine (countStaleN_frame _ _ _).comp ?_ (by decide)
    | with_reducible refine (frontCell_frame _ _ _ _).comp ?_ (by decide)
    | split

theorem execFrameDecodeStart_moves (t : Time) (die : BitVec 2) (engine : BitVec 5) (s : State) :
    Moves [.rch] (advance t s) (execFrameDecodeStart t die engine s) := by
  unfold execFrameDecodeStart
  repeat' first
    | with_reducible refine Moves.next ?_
    | with_reducible refine Moves.ite ?_ ?_
    | with_reducible exact Frame.refl _ _
    | with_reducible refine (cutPass_frame _ _).comp ?_ (by decide)
    | with_reducible refine (setQueue_frame _ _ _).comp ?_ (by decide)
    | (simp only [Frame.spelled]; (with_reducible apply FrameMk.upd);
        (with_reducible (intro b hb; cases b <;> first | exact absurd (by decide) hb | (dsimp only [Region.same] <;> rfl) | exact refs_id rfl));
        with_reducible exact List.suffix_refl _)
    | extract_lets
    | split

theorem execFrameDecodeDone_moves (t : Time) (die : BitVec 2) (engine : BitVec 5) (s : State) :
    Moves [.crew, .fm, .rch, .rdr, .sm, .fresh] (advance t s) (execFrameDecodeDone t die engine s) := by
  unfold execFrameDecodeDone
  repeat' first
    | with_reducible refine Moves.next ?_
    | with_reducible exact Frame.refl _ _
    | with_reducible assumption
    | with_reducible refine (countStale_frame _ _).comp ?_ (by decide)
    | with_reducible refine (refinePass_frame _ _).comp ?_ (by decide)
    | with_reducible refine (decodeEnds_frame _ _).comp ?_ (by decide)
    | (simp only [Frame.spelled]; (with_reducible apply FrameMk.upd);
        (with_reducible (intro b hb; cases b <;> first | exact absurd (by decide) hb | (dsimp only [Region.same] <;> rfl) | exact refs_id rfl));
        with_reducible exact List.suffix_refl _)
    | (extract_lets +onlyGivenNames y;
        first | (refine have hy : Frame [.crew, .fm, .rch, .rdr, .sm, .fresh] (advance t s) y := ?_; ?_; unfold y) | skip)
    | split

theorem execBlankDetect_moves (t : Time) (s : State) :
    Moves [.gl, .crew, .hq, .eng, .cy, .vol, .fm, .rdr, .sm, .ce, .ic, .spill, .ev, .out] (advance t s)
      (execBlankDetect t s) := by
  unfold execBlankDetect
  repeat' first
    | with_reducible refine Moves.next ?_
    | with_reducible refine Moves.ite ?_ ?_
    | with_reducible exact Frame.refl _ _
    | with_reducible assumption
    | with_reducible refine (passEnds_frame _ _ _).comp ?_ (by decide)
    | with_reducible refine (tapeRest_frame _).comp ?_ (by decide)
    | with_reducible refine (blankReads_frame _ _).comp ?_ (by decide)
    | with_reducible refine (spansGoOn_frame _).comp ?_ (by decide)
    | with_reducible refine Frame.forEach _ _ ?_ ?_
    | (simp only [Frame.spelled]; (with_reducible apply FrameMk.upd);
        (with_reducible (intro b hb; cases b <;> first | exact absurd (by decide) hb | (dsimp only [Region.same] <;> rfl) | exact refs_id rfl));
        with_reducible exact List.suffix_refl _)
    | intro _

/-! ### The commands of Machine/Params.lean -/

theorem execGetParam_moves (t : Time) (ref : CmdRef) (s : State) :
    Moves [.hq, .eng, .cy, .vol, .rdr, .sm, .ic, .out] (advance t s) (execGetParam t ref s) := by
  unfold execGetParam
  repeat' first
    | with_reducible refine Moves.next ?_
    | with_reducible exact Frame.refl _ _
    | with_reducible refine (complete_frame _ _ _ _ _ _).comp ?_ (by decide)
    | extract_lets
    | split

theorem execSetParam_moves (t : Time) (ref : CmdRef) (s : State) :
    Moves [.hq, .par, .eng, .cy, .vol, .rdr, .sm, .ce, .ic, .out] (advance t s) (execSetParam t ref s) := by
  unfold execSetParam
  repeat' first
    | with_reducible refine Moves.next ?_
    | with_reducible exact Frame.refl _ _
    | with_reducible refine (failCmd_frame _ _ _).comp ?_ (by decide)
    | with_reducible refine (complete_frame _ _ _ _ _ _).comp ?_ (by decide)
    | with_reducible refine (paramPut_frame _ _ _ _ _).comp ?_ (by decide)
    | extract_lets
    | split

theorem execGetLog_moves (t : Time) (ref : CmdRef) (segs : List SgSeg) (s : State) :
    Moves [.hq, .eng, .cy, .vol, .rdr, .sm, .ic, .out] (advance t s) (execGetLog t ref segs s) := by
  unfold execGetLog
  repeat' first
    | with_reducible refine Moves.next ?_
    | with_reducible exact Frame.refl _ _
    | with_reducible refine (failCmd_frame _ _ _).comp ?_ (by decide)
    | with_reducible refine (complete_frame _ _ _ _ _ _).comp ?_ (by decide)
    | with_reducible refine (writeArea_frame _ _ _ _ _).comp ?_ (by decide)
    | extract_lets
    | split

/-! ### The commands of Machine/Life.lean -/

theorem execLcChange_moves (t : Time) (ref : CmdRef) (segs : List SgSeg) (auth : List Byte) (s : State) :
    Moves [.gl, .life, .crew, .hq, .eng, .cy, .vol, .wr, .rdr, .sm, .sv, .ce, .ic, .spill, .ev, .se, .out] (advance
      t s) (execLcChange t ref segs auth s) := by
  unfold execLcChange
  repeat' first
    | with_reducible refine Moves.next ?_
    | with_reducible exact Frame.refl _ _
    | with_reducible refine (failCmd_frame _ _ _).comp ?_ (by decide)
    | with_reducible refine (lcArm_frame _ _ _).comp ?_ (by decide)
    | with_reducible refine (lcPerform_frame _ _).comp ?_ (by decide)
    | with_reducible refine (complete_frame _ _ _ _ _ _).comp ?_ (by decide)
    | with_reducible refine (rsaSubmit_frame _ _).comp ?_ (by decide)
    | with_reducible refine (setCmd_frame _ _).comp ?_ (by decide)
    | extract_lets
    | split

theorem execLcArmExpiry_moves (t : Time) (s : State) :
    Moves [.gl] (advance t s) (execLcArmExpiry t s) := by
  unfold execLcArmExpiry
  repeat' first
    | with_reducible refine Moves.next ?_
    | with_reducible exact Frame.refl _ _
    | (simp only [Frame.spelled]; (with_reducible apply FrameMk.upd);
        (with_reducible (intro b hb; cases b <;> first | exact absurd (by decide) hb | (dsimp only [Region.same] <;> rfl) | exact refs_id rfl));
        with_reducible exact List.suffix_refl _)
    | extract_lets
    | split

theorem execUnlock_moves (t : Time) (auth : List Byte) (s : State) :
    Moves [.se] (advance t s) (execUnlock t auth s) := by
  unfold execUnlock
  repeat' first
    | with_reducible refine Moves.next ?_
    | with_reducible refine Moves.ite ?_ ?_
    | with_reducible exact Frame.refl _ _
    | with_reducible refine (rsaSubmit_frame _ _).comp ?_ (by decide)

theorem execPatchDownload_moves (t : Time) (ref : CmdRef) (segs : List SgSeg) (data : List Byte) (s : State) :
    Moves [.hq, .eng, .cy, .vol, .rdr, .sm, .ic, .se, .out] (advance t s) (execPatchDownload t ref segs data s) := by
  unfold execPatchDownload
  repeat' first
    | with_reducible refine Moves.next ?_
    | with_reducible exact Frame.refl _ _
    | with_reducible refine (failCmd_frame _ _ _).comp ?_ (by decide)
    | with_reducible refine (rsaSubmit_frame _ _).comp ?_ (by decide)
    | with_reducible refine (setCmd_frame _ _).comp ?_ (by decide)
    | with_reducible refine (complete_frame _ _ _ _ _ _).comp ?_ (by decide)
    | (simp only [Frame.spelled]; (with_reducible apply FrameMk.upd);
        (with_reducible (intro b hb; cases b <;> first | exact absurd (by decide) hb | (dsimp only [Region.same] <;> rfl) | exact refs_id rfl));
        with_reducible exact List.suffix_refl _)
    | extract_lets
    | split

theorem execFwActivate_moves (t : Time) (ref : CmdRef) (s : State) :
    Moves [.hq, .eng, .cy, .vol, .rdr, .sm, .ic, .spill, .ev, .out] (advance t s) (execFwActivate t ref s) := by
  unfold execFwActivate
  repeat' first
    | with_reducible refine Moves.next ?_
    | with_reducible exact Frame.refl _ _
    | with_reducible refine (tidy_frame _).comp ?_ (by decide)
    | with_reducible refine (failCmd_frame _ _ _).comp ?_ (by decide)
    | with_reducible refine (setCmd_frame _ _).comp ?_ (by decide)
    | (simp only [Frame.spelled]; (with_reducible apply FrameMk.upd);
        (with_reducible (intro b hb; cases b <;> first | exact absurd (by decide) hb | (dsimp only [Region.same] <;> rfl) | exact refs_id rfl));
        with_reducible exact List.suffix_refl _)
    | extract_lets
    | split

theorem execRsaOperationDone_moves (t : Time) (s : State) :
    Moves [.gl, .life, .crew, .hq, .task, .eng, .cy, .vol, .wr, .rdr, .sm, .sv, .ce, .ic, .spill, .ev, .se, .out,
      .fresh] (advance t s) (execRsaOperationDone t s) := by
  unfold execRsaOperationDone
  repeat' first
    | with_reducible refine Moves.next ?_
    | with_reducible exact Frame.refl _ _
    | with_reducible refine (rsaEnds_frame _ _).comp ?_ (by decide)
    | with_reducible refine (tidy_frame _).comp ?_ (by decide)
    | with_reducible refine (rsaNext_frame _).comp ?_ (by decide)
    | (simp only [Frame.spelled]; (with_reducible apply FrameMk.upd);
        (with_reducible (intro b hb; cases b <;> first | exact absurd (by decide) hb | (dsimp only [Region.same] <;> rfl) | exact refs_id rfl));
        with_reducible exact List.suffix_refl _)
    | extract_lets
    | split

/-! ### The commands of Machine/Shroud.lean -/

theorem execLaneLoss_moves (t : Time) (lane : BitVec 4) (s : State) :
    Moves [.crew, .wr, .lk, .ic, .spill, .ev, .out] (advance t s) (execLaneLoss t lane s) := by
  unfold execLaneLoss
  repeat' first
    | with_reducible refine Moves.next ?_
    | with_reducible refine Moves.ite ?_ ?_
    | with_reducible exact Frame.refl _ _
    | with_reducible refine (setLane_frame _ _ _).comp ?_ (by decide)
    | with_reducible refine (laneDooms_frame _ _).comp ?_ (by decide)
    | with_reducible refine (laneBench_frame _ _).comp ?_ (by decide)
    | with_reducible refine (laneTrain_frame _ _).comp ?_ (by decide)
    | with_reducible refine (setUnitState_frame _ _ _ _).comp ?_ (by decide)

theorem execLaneTrainingDone_moves (t : Time) (lane : BitVec 4) (ok : Bool) (lower : List Byte) (upper : List Byte)
    (s : State) :
    Moves [.crew, .wr, .rch, .sv, .lk, .ic, .spill, .ev, .out] (advance t s) (execLaneTrainingDone t lane ok lower
      upper s) := by
  unfold execLaneTrainingDone
  repeat' first
    | with_reducible refine Moves.next ?_
    | with_reducible refine Moves.ite ?_ ?_
    | with_reducible exact Frame.refl _ _
    | with_reducible refine (laneBench_frame _ _).comp ?_ (by decide)
    | with_reducible refine (headFound_frame _ _ _).comp ?_ (by decide)
    | with_reducible refine (readerFresh_frame _ _).comp ?_ (by decide)
    | with_reducible refine (laneUp_frame _ _).comp ?_ (by decide)
    | with_reducible refine Frame.ite ?_ ?_

theorem execHeadStatusCell_moves (t : Time) (lane : BitVec 4) (session : BitVec 12) (cell : BitVec 512) (s : State) :
    Moves [.crew, .lk] (advance t s) (execHeadStatusCell t lane session cell s) := by
  unfold execHeadStatusCell
  repeat' first
    | with_reducible refine Moves.next ?_
    | with_reducible refine Moves.ite ?_ ?_
    | with_reducible exact Frame.refl _ _
    | with_reducible assumption
    | with_reducible refine (laneStale_frame _ _).comp ?_ (by decide)
    | with_reducible refine (strayCell_frame _ _ _).comp ?_ (by decide)
    | with_reducible refine (countStale_frame _ _).comp ?_ (by decide)
    | with_reducible refine Frame.forEach _ _ ?_ ?_
    | (simp only [Frame.spelled]; (with_reducible apply FrameMk.upd);
        (with_reducible (intro b hb; cases b <;> first | exact absurd (by decide) hb | (dsimp only [Region.same] <;> rfl) | exact refs_id rfl));
        with_reducible exact List.suffix_refl _)
    | intro _
    | split

/-! ### The commands of Machine/Trim.lean -/

theorem execStrokeBoundary_moves (t : Time) (s : State) :
    Moves [.gl, .crew, .hq, .eng, .cy, .vol, .wr, .rdr, .sm, .sv, .ce, .tt, .sp, .ic, .spill, .ev, .out, .fresh]
      (advance t s) (execStrokeBoundary t s) := by
  unfold execStrokeBoundary
  repeat' first
    | with_reducible refine Moves.next ?_
    | with_reducible refine Moves.ite ?_ ?_
    | with_reducible exact Frame.refl _ _
    | with_reducible refine (dueSlots_frame _).comp ?_ (by decide)
    | with_reducible refine (rateCells_frame _).comp ?_ (by decide)
    | with_reducible refine (holdSlots_frame _).comp ?_ (by decide)
    | with_reducible refine (swapSlots_frame _).comp ?_ (by decide)
    | (simp only [Frame.spelled]; (with_reducible apply FrameMk.upd);
        (with_reducible (intro b hb; cases b <;> first | exact absurd (by decide) hb | (dsimp only [Region.same] <;> rfl) | exact refs_id rfl));
        with_reducible exact List.suffix_refl _)

theorem execSlotStart_moves (t : Time) (s : State) :
    Moves [.ce] (advance t s) (execSlotStart t s) := by
  unfold execSlotStart
  repeat' first
    | with_reducible refine Moves.next ?_
    | with_reducible exact Frame.refl _ _
    | with_reducible refine (setSlot_frame _ _ _).comp ?_ (by decide)
    | (simp only [Frame.spelled]; (with_reducible apply FrameMk.upd);
        (with_reducible (intro b hb; cases b <;> first | exact absurd (by decide) hb | (dsimp only [Region.same] <;> rfl) | exact refs_id rfl));
        with_reducible exact List.suffix_refl _)
    | extract_lets
    | split

theorem execSlotComplete_moves (t : Time) (slot : BitVec 6) (s : State) :
    Moves [.gl, .crew, .hq, .eng, .cy, .vol, .rdr, .sm, .ce, .tt, .sp, .ic, .spill, .ev, .out] (advance t s)
      (execSlotComplete t slot s) := by
  unfold execSlotComplete
  repeat' first
    | with_reducible refine Moves.next ?_
    | with_reducible exact Frame.refl _ _
    | with_reducible refine (slotFinish_frame _ _ _).comp ?_ (by decide)
    | extract_lets
    | split

theorem execLoopStart_moves (t : Time) (slot : BitVec 6) (value : Word) (s : State) :
    Moves [.ce, .ic] (advance t s) (execLoopStart t slot value s) := by
  unfold execLoopStart
  repeat' first
    | with_reducible refine Moves.next ?_
    | with_reducible exact Frame.refl _ _
    | with_reducible refine (slotCtlWrite_frame _ _ _).comp ?_ (by decide)

theorem execLoopStop_moves (t : Time) (slot : BitVec 6) (value : Word) (s : State) :
    Moves [.ce, .ic] (advance t s) (execLoopStop t slot value s) := by
  unfold execLoopStop
  repeat' first
    | with_reducible refine Moves.next ?_
    | with_reducible exact Frame.refl _ _
    | with_reducible refine (slotCtlWrite_frame _ _ _).comp ?_ (by decide)

theorem execCeSwapWrite_moves (t : Time) (value : Word) (s : State) :
    Moves [.ce] (advance t s) (execCeSwapWrite t value s) := by
  unfold execCeSwapWrite
  repeat' first
    | with_reducible refine Moves.next ?_
    | with_reducible exact Frame.refl _ _
    | with_reducible refine (ceSwap_frame _ _).comp ?_ (by decide)
    | with_reducible refine Frame.ite ?_ ?_

theorem execRcDataAccess_moves (t : Time) (slot : BitVec 6) (write : Option Word) (s : State) :
    Moves [.ce, .out] (advance t s) (execRcDataAccess t slot write s) := by
  unfold execRcDataAccess
  repeat' first
    | with_reducible refine Moves.next ?_
    | with_reducible refine Moves.ite ?_ ?_
    | with_reducible exact Frame.refl _ _
    | with_reducible refine Frame.comp (rcData_frame _ _ _) ?_ (by decide)
    | with_reducible refine (emit_frame _ _).comp ?_ (by decide)
    | split

theorem execTelltaleStart_moves (t : Time) (ref : CmdRef) (s : State) :
    Moves [.gl, .crew, .hq, .eng, .cy, .vol, .rdr, .sm, .ce, .tt, .ic, .spill, .ev, .out] (advance t s)
      (execTelltaleStart t ref s) := by
  unfold execTelltaleStart
  repeat' first
    | with_reducible refine Moves.next ?_
    | with_reducible exact Frame.refl _ _
    | with_reducible assumption
    | with_reducible refine (serviceEnds_frame _ _ _ _).comp ?_ (by decide)
    | with_reducible refine (setGen_frame _ _ _).comp ?_ (by decide)
    | with_reducible refine Frame.forEach _ _ ?_ ?_
    | (simp only [Frame.spelled]; (with_reducible apply FrameMk.upd);
        (with_reducible (intro b hb; cases b <;> first | exact absurd (by decide) hb | (dsimp only [Region.same] <;> rfl) | exact refs_id rfl));
        with_reducible exact List.suffix_refl _)
    | intro _
    | extract_lets
    | split

theorem execTelltaleStop_moves (t : Time) (ref : CmdRef) (s : State) :
    Moves [.gl, .crew, .hq, .eng, .cy, .vol, .rdr, .sm, .ce, .tt, .ic, .spill, .ev, .out] (advance t s)
      (execTelltaleStop t ref s) := by
  unfold execTelltaleStop
  repeat' first
    | with_reducible refine Moves.next ?_
    | with_reducible exact Frame.refl _ _
    | with_reducible refine (serviceEnds_frame _ _ _ _).comp ?_ (by decide)
    | with_reducible refine (setCmd_frame _ _).comp ?_ (by decide)
    | with_reducible refine (telltaleSettle_frame _).comp ?_ (by decide)
    | (simp only [Frame.spelled]; (with_reducible apply FrameMk.upd);
        (with_reducible (intro b hb; cases b <;> first | exact absurd (by decide) hb | (dsimp only [Region.same] <;> rfl) | exact refs_id rfl));
        with_reducible exact List.suffix_refl _)
    | extract_lets
    | split

/-! ### The commands of Machine/Service.lean -/

theorem execBench_moves (t : Time) (ref : CmdRef) (s : State) :
    Moves [.gl, .crew, .hq, .eng, .cy, .vol, .wr, .rch, .rdr, .sm, .sv, .ce, .lk, .ic, .spill, .ev, .out] (advance t
      s) (execBench t ref s) := by
  unfold execBench
  repeat' first
    | with_reducible refine Moves.next ?_
    | with_reducible exact Frame.refl _ _
    | with_reducible refine (serviceEnds_frame _ _ _ _).comp ?_ (by decide)
    | with_reducible refine (benchUnit_frame _ _ _).comp ?_ (by decide)
    | extract_lets
    | split

theorem execSelfTest_moves (t : Time) (ref : CmdRef) (code : DWord) (s : State) :
    Moves [.gl, .crew, .hq, .eng, .cy, .vol, .rdr, .sm, .ce, .ic, .spill, .ev, .out] (advance t s) (execSelfTest t
      ref code s) := by
  unfold execSelfTest
  repeat' first
    | with_reducible refine Moves.next ?_
    | with_reducible exact Frame.refl _ _
    | with_reducible refine (serviceEnds_frame _ _ _ _).comp ?_ (by decide)
    | extract_lets
    | split

theorem execCalibrate_moves (t : Time) (ref : CmdRef) (segs : List SgSeg) (units : List (BitVec 16)) (out :
    CalOutcome) (s : State) :
    Moves [.gl, .crew, .hq, .eng, .cy, .vol, .wr, .rch, .rdr, .sm, .sv, .ce, .lk, .sp, .ic, .spill, .ev, .se, .logs,
      .out, .fresh] (advance t s) (execCalibrate t ref segs units out s) := by
  unfold execCalibrate
  repeat' first
    | with_reducible refine Moves.next ?_
    | with_reducible exact Frame.refl _ _
    | with_reducible refine (tapeRest_frame _).comp ?_ (by decide)
    | with_reducible refine (tidy_frame _).comp ?_ (by decide)
    | with_reducible refine (failCmd_frame _ _ _).comp ?_ (by decide)
    | with_reducible refine (calRun_frame _ _ _ _).comp ?_ (by decide)
    | extract_lets
    | split

theorem execHoldEnter_moves (t : Time) (ref : CmdRef) (s : State) :
    Moves [.gl, .crew, .hq, .eng, .cy, .vol, .wr, .rdr, .sm, .sv, .ce, .ic, .spill, .ev, .out] (advance t s)
      (execHoldEnter t ref s) := by
  unfold execHoldEnter
  repeat' first
    | with_reducible refine Moves.next ?_
    | with_reducible exact Frame.refl _ _
    | with_reducible refine (senseFastAll_frame _).comp ?_ (by decide)
    | with_reducible refine (holdCause_frame _ _).comp ?_ (by decide)
    | with_reducible refine (tidy_frame _).comp ?_ (by decide)
    | with_reducible refine (complete_frame _ _ _ _ _ _).comp ?_ (by decide)
    | extract_lets
    | split

theorem execHoldRelease_moves (t : Time) (ref : CmdRef) (s : State) :
    Moves [.gl, .crew, .hq, .eng, .cy, .vol, .rdr, .sm, .ce, .ic, .spill, .ev, .out] (advance t s) (execHoldRelease
      t ref s) := by
  unfold execHoldRelease
  repeat' first
    | with_reducible refine Moves.next ?_
    | with_reducible exact Frame.refl _ _
    | with_reducible refine (tidy_frame _).comp ?_ (by decide)
    | with_reducible refine (complete_frame _ _ _ _ _ _).comp ?_ (by decide)
    | with_reducible refine (holdEnds_frame _).comp ?_ (by decide)
    | extract_lets
    | split

/-! ### The commands of Machine/Spdm.lean -/

theorem execGetVersion_moves (t : Time) (conn : SpdmConn) (msg : List Byte) (s : State) :
    Moves [.task, .se, .out, .fresh] (advance t s) (execGetVersion t conn msg s) := by
  unfold execGetVersion
  repeat' first
    | with_reducible refine Moves.next ?_
    | with_reducible exact Frame.refl _ _
    | with_reducible refine (spdmRow_frame _ _ _ _).comp ?_ (by decide)

theorem execGetCapabilities_moves (t : Time) (conn : SpdmConn) (msg : List Byte) (s : State) :
    Moves [.task, .se, .out, .fresh] (advance t s) (execGetCapabilities t conn msg s) := by
  unfold execGetCapabilities
  repeat' first
    | with_reducible refine Moves.next ?_
    | with_reducible exact Frame.refl _ _
    | with_reducible refine (spdmRow_frame _ _ _ _).comp ?_ (by decide)

theorem execNegotiateAlgorithms_moves (t : Time) (conn : SpdmConn) (msg : List Byte) (s : State) :
    Moves [.task, .se, .out, .fresh] (advance t s) (execNegotiateAlgorithms t conn msg s) := by
  unfold execNegotiateAlgorithms
  repeat' first
    | with_reducible refine Moves.next ?_
    | with_reducible exact Frame.refl _ _
    | with_reducible refine (spdmRow_frame _ _ _ _).comp ?_ (by decide)

theorem execGetDigests_moves (t : Time) (conn : SpdmConn) (msg : List Byte) (s : State) :
    Moves [.task, .se, .out, .fresh] (advance t s) (execGetDigests t conn msg s) := by
  unfold execGetDigests
  repeat' first
    | with_reducible refine Moves.next ?_
    | with_reducible exact Frame.refl _ _
    | with_reducible refine (spdmRow_frame _ _ _ _).comp ?_ (by decide)

theorem execGetCertificate_moves (t : Time) (conn : SpdmConn) (msg : List Byte) (s : State) :
    Moves [.task, .se, .out, .fresh] (advance t s) (execGetCertificate t conn msg s) := by
  unfold execGetCertificate
  repeat' first
    | with_reducible refine Moves.next ?_
    | with_reducible exact Frame.refl _ _
    | with_reducible refine (spdmRow_frame _ _ _ _).comp ?_ (by decide)

theorem execChallenge_moves (t : Time) (conn : SpdmConn) (msg : List Byte) (s : State) :
    Moves [.task, .se, .out, .fresh] (advance t s) (execChallenge t conn msg s) := by
  unfold execChallenge
  repeat' first
    | with_reducible refine Moves.next ?_
    | with_reducible exact Frame.refl _ _
    | with_reducible refine (spdmRow_frame _ _ _ _).comp ?_ (by decide)

theorem execGetMeasurements_moves (t : Time) (conn : SpdmConn) (msg : List Byte) (s : State) :
    Moves [.task, .se, .out, .fresh] (advance t s) (execGetMeasurements t conn msg s) := by
  unfold execGetMeasurements
  repeat' first
    | with_reducible refine Moves.next ?_
    | with_reducible exact Frame.refl _ _
    | with_reducible refine (spdmRow_frame _ _ _ _).comp ?_ (by decide)

theorem execDoeDiscovery_moves (t : Time) (index : Byte) (s : State) :
    Moves [.se] (advance t s) (execDoeDiscovery t index s) := by
  unfold execDoeDiscovery
  repeat' first
    | with_reducible refine Moves.next ?_
    | with_reducible refine Moves.ite ?_ ?_
    | with_reducible exact Frame.refl _ _
    | (simp only [Frame.spelled]; (with_reducible apply FrameMk.upd);
        (with_reducible (intro b hb; cases b <;> first | exact absurd (by decide) hb | (dsimp only [Region.same] <;> rfl) | exact refs_id rfl));
        with_reducible exact List.suffix_refl _)

theorem execDoeAbort_moves (t : Time) (s : State) :
    Moves [.se] (advance t s) (execDoeAbort t s) := by
  unfold execDoeAbort
  repeat' first
    | with_reducible refine Moves.next ?_
    | with_reducible refine Moves.ite ?_ ?_
    | with_reducible exact Frame.refl _ _
    | (simp only [Frame.spelled]; (with_reducible apply FrameMk.upd);
        (with_reducible (intro b hb; cases b <;> first | exact absurd (by decide) hb | (dsimp only [Region.same] <;> rfl) | exact refs_id rfl));
        with_reducible exact List.suffix_refl _)

theorem execDoeResponseRead_moves (t : Time) (s : State) :
    Moves [.se, .out] (advance t s) (execDoeResponseRead t s) := by
  unfold execDoeResponseRead
  repeat' first
    | with_reducible refine Moves.next ?_
    | with_reducible exact Frame.refl _ _
    | with_reducible refine (emit_frame _ _).comp ?_ (by decide)
    | (simp only [Frame.spelled]; (with_reducible apply FrameMk.upd);
        (with_reducible (intro b hb; cases b <;> first | exact absurd (by decide) hb | (dsimp only [Region.same] <;> rfl) | exact refs_id rfl));
        with_reducible exact List.suffix_refl _)
    | extract_lets
    | split

/-! ### The commands of Machine/TaskRegs.lean -/

theorem execHealth_moves (t : Time) (src : BusSource) (s : State) :
    Moves [.gl, .life, .crew, .hq, .task, .eng, .cy, .vol, .wr, .rdr, .sm, .sv, .ce, .ic, .spill, .ev, .se, .out,
      .fresh] (advance t s) (execHealth t src s) := by
  unfold execHealth
  repeat' first
    | with_reducible refine Moves.next ?_
    | with_reducible exact Frame.refl _ _
    | with_reducible refine (taskCommand_frame _ _ _).comp ?_ (by decide)

theorem execLogRead_moves (t : Time) (src : BusSource) (s : State) :
    Moves [.gl, .life, .crew, .hq, .task, .eng, .cy, .vol, .wr, .rdr, .sm, .sv, .ce, .ic, .spill, .ev, .se, .out,
      .fresh] (advance t s) (execLogRead t src s) := by
  unfold execLogRead
  repeat' first
    | with_reducible refine Moves.next ?_
    | with_reducible exact Frame.refl _ _
    | with_reducible refine (taskCommand_frame _ _ _).comp ?_ (by decide)

theorem execTaskLcChange_moves (t : Time) (src : BusSource) (s : State) :
    Moves [.gl, .life, .crew, .hq, .task, .eng, .cy, .vol, .wr, .rdr, .sm, .sv, .ce, .ic, .spill, .ev, .se, .out,
      .fresh] (advance t s) (execTaskLcChange t src s) := by
  unfold execTaskLcChange
  repeat' first
    | with_reducible refine Moves.next ?_
    | with_reducible exact Frame.refl _ _
    | with_reducible refine (taskCommand_frame _ _ _).comp ?_ (by decide)

theorem execAttest_moves (t : Time) (src : BusSource) (s : State) :
    Moves [.gl, .life, .crew, .hq, .task, .eng, .cy, .vol, .wr, .rdr, .sm, .sv, .ce, .ic, .spill, .ev, .se, .out,
      .fresh] (advance t s) (execAttest t src s) := by
  unfold execAttest
  repeat' first
    | with_reducible refine Moves.next ?_
    | with_reducible exact Frame.refl _ _
    | with_reducible refine (taskCommand_frame _ _ _).comp ?_ (by decide)

theorem execQueueSetup_moves (t : Time) (src : BusSource) (s : State) :
    Moves [.gl, .life, .crew, .hq, .task, .eng, .cy, .vol, .wr, .rdr, .sm, .sv, .ce, .ic, .spill, .ev, .se, .out,
      .fresh] (advance t s) (execQueueSetup t src s) := by
  unfold execQueueSetup
  repeat' first
    | with_reducible refine Moves.next ?_
    | with_reducible exact Frame.refl _ _
    | with_reducible refine (taskCommand_frame _ _ _).comp ?_ (by decide)

theorem execEmergencyHold_moves (t : Time) (src : BusSource) (s : State) :
    Moves [.gl, .life, .crew, .hq, .task, .eng, .cy, .vol, .wr, .rdr, .sm, .sv, .ce, .ic, .spill, .ev, .se, .out,
      .fresh] (advance t s) (execEmergencyHold t src s) := by
  unfold execEmergencyHold
  repeat' first
    | with_reducible refine Moves.next ?_
    | with_reducible exact Frame.refl _ _
    | with_reducible refine (taskCommand_frame _ _ _).comp ?_ (by decide)

theorem execWarmReset_moves (t : Time) (src : BusSource) (s : State) :
    Moves [.gl, .life, .crew, .hq, .task, .eng, .cy, .vol, .wr, .rdr, .sm, .sv, .ce, .ic, .spill, .ev, .se, .out,
      .fresh] (advance t s) (execWarmReset t src s) := by
  unfold execWarmReset
  repeat' first
    | with_reducible refine Moves.next ?_
    | with_reducible exact Frame.refl _ _
    | with_reducible refine (taskCommand_frame _ _ _).comp ?_ (by decide)

theorem execTaskWriteWhileBusy_moves (t : Time) (src : BusSource) (offset : Nat) (value : Word) (s : State) :
    Moves [.gl, .life, .crew, .hq, .task, .eng, .cy, .vol, .wr, .rdr, .sm, .sv, .ce, .ic, .spill, .ev, .se, .out,
      .fresh] (advance t s) (execTaskWriteWhileBusy t src offset value s) := by
  unfold execTaskWriteWhileBusy
  repeat' first
    | with_reducible refine Moves.next ?_
    | with_reducible exact Frame.refl _ _
    | with_reducible refine (taskWrite_frame _ _ _ _).comp ?_ (by decide)
    | with_reducible refine Frame.ite ?_ ?_

theorem execBoardBusWrite_moves (t : Time) (src : BusSource) (address : BitVec 7) (bytes : List Byte) (s : State) :
    Moves [.gl, .life, .crew, .hq, .task, .eng, .cy, .vol, .wr, .rdr, .sm, .sv, .ce, .ic, .spill, .ev, .se, .out,
      .fresh] (advance t s) (execBoardBusWrite t src address bytes s) := by
  unfold execBoardBusWrite
  repeat' first
    | with_reducible refine Moves.next ?_
    | with_reducible refine Moves.ite ?_ ?_
    | with_reducible exact Frame.refl _ _
    | with_reducible refine (boardTake_frame _ _ _).comp ?_ (by decide)
    | (simp only [Frame.spelled]; (with_reducible apply FrameMk.upd);
        (with_reducible (intro b hb; cases b <;> first | exact absurd (by decide) hb | (dsimp only [Region.same] <;> rfl) | exact refs_id rfl));
        with_reducible exact List.suffix_refl _)

theorem execSmbusTimeout_moves (t : Time) (s : State) :
    Moves [] (advance t s) (execSmbusTimeout t s) := by
  unfold execSmbusTimeout
  repeat' first
    | with_reducible refine Moves.next ?_
    | with_reducible exact Frame.refl _ _

theorem execSetdasaOrEntdaa_moves (t : Time) (address : BitVec 7) (s : State) :
    Moves [.task] (advance t s) (execSetdasaOrEntdaa t address s) := by
  unfold execSetdasaOrEntdaa
  repeat' first
    | with_reducible refine Moves.next ?_
    | with_reducible refine Moves.ite ?_ ?_
    | with_reducible exact Frame.refl _ _
    | (simp only [Frame.spelled]; (with_reducible apply FrameMk.upd);
        (with_reducible (intro b hb; cases b <;> first | exact absurd (by decide) hb | (dsimp only [Region.same] <;> rfl) | exact refs_id rfl));
        with_reducible exact List.suffix_refl _)

theorem execFwActivateSwap_moves (t : Time) (s : State) :
    Moves [.gl, .life, .crew, .hq, .task, .eng, .cy, .vol, .wr, .rdr, .sm, .sv, .ce, .ic, .spill, .ev, .se, .fuses,
      .out, .fresh] (advance t s) (execFwActivateSwap t s) := by
  unfold execFwActivateSwap
  repeat' first
    | with_reducible refine Moves.next ?_
    | with_reducible exact Frame.refl _ _
    | with_reducible refine (bundleRun_frame _ _).comp ?_ (by decide)
    | with_reducible refine (taskResume_frame _).comp ?_ (by decide)
    | with_reducible refine (tidy_frame _).comp ?_ (by decide)
    | with_reducible refine (complete_frame _ _ _ _ _ _).comp ?_ (by decide)
    | (simp only [Frame.spelled]; (with_reducible apply FrameMk.upd);
        (with_reducible (intro b hb; cases b <;> first | exact absurd (by decide) hb | (dsimp only [Region.same] <;> rfl) | exact refs_id rfl));
        with_reducible exact List.suffix_refl _)
    | extract_lets
    | split

theorem execFwActivateTimeout_moves (t : Time) (s : State) :
    Moves [.gl, .life, .crew, .hq, .task, .eng, .cy, .vol, .wr, .rdr, .sm, .sv, .ce, .ic, .spill, .ev, .se, .out,
      .fresh] (advance t s) (execFwActivateTimeout t s) := by
  unfold execFwActivateTimeout
  repeat' first
    | with_reducible refine Moves.next ?_
    | with_reducible exact Frame.refl _ _
    | with_reducible refine (taskResume_frame _).comp ?_ (by decide)
    | with_reducible refine (tidy_frame _).comp ?_ (by decide)
    | with_reducible refine (failCmd_frame _ _ _).comp ?_ (by decide)
    | (simp only [Frame.spelled]; (with_reducible apply FrameMk.upd);
        (with_reducible (intro b hb; cases b <;> first | exact absurd (by decide) hb | (dsimp only [Region.same] <;> rfl) | exact refs_id rfl));
        with_reducible exact List.suffix_refl _)
    | extract_lets
    | split

/-! ### The commands of Machine/Memory.lean -/

theorem execScrubRead_moves (t : Time) (cls : BitVec 2) (obs : ScrubObs) (s : State) :
    Moves [.crew, .hq, .eng, .cy, .vol, .wr, .rch, .rdr, .sm, .sv, .lk, .ic, .spill, .ev, .mi, .units, .se, .out]
      (advance t s) (execScrubRead t cls obs s) := by
  unfold execScrubRead
  repeat' first
    | with_reducible refine Moves.next ?_
    | with_reducible refine Moves.ite ?_ ?_
    | with_reducible exact Frame.refl _ _
    | with_reducible refine (setUnitBits_frame _ _ _ _).comp ?_ (by decide)
    | with_reducible refine (scrubCorrected_frame _ _ _ _ _ _).comp ?_ (by decide)
    | with_reducible refine (scrubPoisoned_frame _ _ _ _).comp ?_ (by decide)
    | with_reducible refine (scrubUncorrectable_frame _ _ _ _ _).comp ?_ (by decide)
    | with_reducible refine (tidy_frame _).comp ?_ (by decide)
    | with_reducible refine (scrubMoves_frame _ _ _ _).comp ?_ (by decide)
    | split

theorem execMiFlipaddrWrite_moves (t : Time) (cls : BitVec 2) (high : Bool) (width : Nat) (value : DWord) (s :
    State) :
    Moves [.mi] (advance t s) (execMiFlipaddrWrite t cls high width value s) := by
  unfold execMiFlipaddrWrite
  repeat' first
    | with_reducible refine Moves.next ?_
    | with_reducible refine Moves.ite ?_ ?_
    | with_reducible exact Frame.refl _ _
    | with_reducible refine (flipAddr_frame _ _ _ _).comp ?_ (by decide)

theorem execInjectedWrite_moves (t : Time) (cls : BitVec 2) (addr : BitVec 40) (data : BitVec 256) (s : State) :
    Moves [.mi, .units] (advance t s) (execInjectedWrite t cls addr data s) := by
  unfold execInjectedWrite
  repeat' first
    | with_reducible refine Moves.next ?_
    | with_reducible refine Moves.ite ?_ ?_
    | with_reducible exact Frame.refl _ _
    | with_reducible refine (storeUnit_frame _ _ _ _).comp ?_ (by decide)

theorem execInstructionFetchTrap_moves (t : Time) (fault : FetchFault) (s : State) :
    Moves [.gl, .crew, .hq, .eng, .cy, .vol, .wr, .rdr, .sm, .sv, .ce, .ic, .spill, .ev, .mi, .se, .out] (advance t
      s) (execInstructionFetchTrap t fault s) := by
  unfold execInstructionFetchTrap
  repeat' first
    | with_reducible refine Moves.next ?_
    | with_reducible refine Moves.ite ?_ ?_
    | with_reducible exact Frame.refl _ _
    | with_reducible refine (fetchFinding_frame _ _).comp ?_ (by decide)
    | with_reducible refine (senseFastAll_frame _).comp ?_ (by decide)
    | with_reducible refine (holdCause_frame _ _).comp ?_ (by decide)
    | with_reducible refine Frame.ite ?_ ?_
    | (simp only [Frame.spelled]; (with_reducible apply FrameMk.upd);
        (with_reducible (intro b hb; cases b <;> first | exact absurd (by decide) hb | (dsimp only [Region.same] <;> rfl) | exact refs_id rfl));
        with_reducible exact List.suffix_refl _)

/-! ### The commands of Machine/Registers.lean -/

theorem execBar0AccessReject_moves (t : Time) (f : Fn) (isWrite : Bool) (offset : Nat) (width : Nat) (s : State) :
    Moves [.gl, .out] (advance t s) (execBar0AccessReject t f isWrite offset width s) := by
  unfold execBar0AccessReject
  repeat' first
    | with_reducible refine Moves.next ?_
    | with_reducible refine Moves.ite ?_ ?_
    | with_reducible exact Frame.refl _ _
    | with_reducible refine (emit_frame _ _).comp ?_ (by decide)
    | with_reducible refine Frame.ite ?_ ?_
    | (simp only [Frame.spelled]; (with_reducible apply FrameMk.upd);
        (with_reducible (intro b hb; cases b <;> first | exact absurd (by decide) hb | (dsimp only [Region.same] <;> rfl) | exact refs_id rfl));
        with_reducible exact List.suffix_refl _)

theorem execRocRead_moves (t : Time) (f : Fn) (offset : Nat) (width : Nat) (s : State) :
    Moves [.gl, .crew, .hq, .task, .cy, .fm, .rch, .sm, .sv, .ce, .lk, .sp, .ic, .spill, .mi, .se, .latch, .out]
      (advance t s) (execRocRead t f offset width s) := by
  unfold execRocRead
  repeat' first
    | with_reducible refine Moves.next ?_
    | with_reducible refine Moves.ite ?_ ?_
    | with_reducible exact Frame.refl _ _
    | with_reducible refine Frame.comp (barRead_frame _ _ _ _) ?_ (by decide)
    | with_reducible refine (emit_frame _ _).comp ?_ (by decide)

theorem execLowHalfRead_moves (t : Time) (f : Fn) (offset : Nat) (s : State) :
    Moves [.gl, .crew, .hq, .task, .cy, .fm, .rch, .sm, .sv, .ce, .lk, .sp, .ic, .spill, .mi, .se, .latch, .out]
      (advance t s) (execLowHalfRead t f offset s) := by
  unfold execLowHalfRead
  repeat' first
    | with_reducible refine Moves.next ?_
    | with_reducible refine Moves.ite ?_ ?_
    | with_reducible exact Frame.refl _ _
    | with_reducible refine Frame.comp (barRead_frame _ _ _ _) ?_ (by decide)
    | with_reducible refine (emit_frame _ _).comp ?_ (by decide)

theorem execRegisterWrite_moves (t : Time) (f : Fn) (bar : BitVec 3) (offset : Nat) (width : Nat) (value : DWord) (s
    : State) :
    Moves [.gl, .life, .crew, .hq, .task, .eng, .cy, .vol, .wr, .fm, .rch, .rdr, .sm, .sv, .ce, .tt, .lk, .sp, .ic,
      .spill, .ev, .mi, .se, .out, .fresh] (advance t s) (execRegisterWrite t f bar offset width value s) := by
  unfold execRegisterWrite
  repeat' first
    | with_reducible refine Moves.next ?_
    | with_reducible refine Moves.ite ?_ ?_
    | with_reducible exact Frame.refl _ _
    | with_reducible refine (regWrite_frame _ _ _ _).comp ?_ (by decide)
    | with_reducible refine (msixWrite_frame _ _ _ _).comp ?_ (by decide)
    | with_reducible refine Frame.ite ?_ ?_

/-! ### The commands of Machine/Volumes.lean -/

theorem execLoad_moves (t : Time) (ref : CmdRef) (scan : LoadScan) (s : State) :
    Moves [.gl, .crew, .hq, .eng, .cy, .vol, .rch, .rdr, .sm, .sv, .ce, .ic, .spill, .ev, .out, .fresh] (advance t
      s) (execLoad t ref scan s) := by
  unfold execLoad
  repeat' first
    | with_reducible refine Moves.next ?_
    | with_reducible exact Frame.refl _ _
    | with_reducible refine (loadEnds_frame _ _).comp ?_ (by decide)
    | with_reducible refine (tapeRest_frame _).comp ?_ (by decide)
    | with_reducible refine (tidy_frame _).comp ?_ (by decide)
    | with_reducible refine (failCmd_frame _ _ _).comp ?_ (by decide)
    | with_reducible refine (threadMeasures_frame _ _).comp ?_ (by decide)
    | with_reducible refine (reloadZones_frame _).comp ?_ (by decide)
    | with_reducible refine (loadVolume_frame _ _ _ _ _).comp ?_ (by decide)
    | with_reducible refine (loadBlank_frame _).comp ?_ (by decide)
    | (simp only [Frame.spelled]; (with_reducible apply FrameMk.upd);
        (with_reducible (intro b hb; cases b <;> first | exact absurd (by decide) hb | (dsimp only [Region.same] <;> rfl) | exact refs_id rfl));
        with_reducible exact List.suffix_refl _)
    | extract_lets
    | split

theorem execUnload_moves (t : Time) (ref : CmdRef) (present : Bool) (hk : HkWrite) (s : State) :
    Moves [.gl, .crew, .hq, .eng, .cy, .vol, .wr, .rch, .rdr, .sm, .ce, .ic, .spill, .ev, .out] (advance t s)
      (execUnload t ref present hk s) := by
  unfold execUnload
  repeat' first
    | with_reducible refine Moves.next ?_
    | with_reducible exact Frame.refl _ _
    | with_reducible refine (tapeRest_frame _).comp ?_ (by decide)
    | with_reducible refine (tidy_frame _).comp ?_ (by decide)
    | with_reducible refine (failCmd_frame _ _ _).comp ?_ (by decide)
    | with_reducible refine (complete_frame _ _ _ _ _ _).comp ?_ (by decide)
    | with_reducible refine (setCmd_frame _ _).comp ?_ (by decide)
    | with_reducible refine (beginFlush_frame _ _).comp ?_ (by decide)
    | with_reducible refine (stopWriting_frame _).comp ?_ (by decide)
    | with_reducible refine (writeHousekeeping_frame _).comp ?_ (by decide)
    | with_reducible refine (deltaCollect_frame _).comp ?_ (by decide)
    | with_reducible refine (dropVolume_frame _).comp ?_ (by decide)
    | with_reducible refine (completeFlush_frame _ _ _ _).comp ?_ (by decide)
    | with_reducible refine Frame.ite ?_ ?_
    | (simp only [Frame.spelled]; (with_reducible apply FrameMk.upd);
        (with_reducible (intro b hb; cases b <;> first | exact absurd (by decide) hb | (dsimp only [Region.same] <;> rfl) | exact refs_id rfl));
        with_reducible exact List.suffix_refl _)
    | extract_lets
    | split

theorem execPartition_moves (t : Time) (ref : CmdRef) (segs : List SgSeg) (sizes : List Word) (hk : HkWrite) (s :
    State) :
    Moves [.gl, .crew, .hq, .eng, .cy, .vol, .wr, .rdr, .sm, .ce, .ic, .spill, .ev, .out] (advance t s)
      (execPartition t ref segs sizes hk s) := by
  unfold execPartition
  repeat' first
    | with_reducible refine Moves.next ?_
    | with_reducible exact Frame.refl _ _
    | with_reducible refine (tapeRest_frame _).comp ?_ (by decide)
    | with_reducible refine (tidy_frame _).comp ?_ (by decide)
    | with_reducible refine (failCmd_frame _ _ _).comp ?_ (by decide)
    | with_reducible refine (complete_frame _ _ _ _ _ _).comp ?_ (by decide)
    | with_reducible refine (completeFlush_frame _ _ _ _).comp ?_ (by decide)
    | with_reducible refine (writeHousekeeping_frame _).comp ?_ (by decide)
    | with_reducible refine (newTable_frame _ _).comp ?_ (by decide)
    | with_reducible refine (giveUp_frame _).comp ?_ (by decide)
    | with_reducible refine (endSessions_frame _).comp ?_ (by decide)
    | extract_lets
    | split

theorem execEraseTruncate_moves (t : Time) (ref : CmdRef) (s : State) :
    Moves [.gl, .crew, .hq, .eng, .cy, .vol, .wr, .rdr, .sm, .ce, .ic, .spill, .ev, .out] (advance t s)
      (execEraseTruncate t ref s) := by
  unfold execEraseTruncate
  repeat' first
    | with_reducible refine Moves.next ?_
    | with_reducible exact Frame.refl _ _
    | with_reducible refine (tapeRest_frame _).comp ?_ (by decide)
    | with_reducible refine (tidy_frame _).comp ?_ (by decide)
    | with_reducible refine (completeFlush_frame _ _ _ _).comp ?_ (by decide)
    | with_reducible refine (failCmd_frame _ _ _).comp ?_ (by decide)
    | with_reducible refine (beginFlush_frame _ _).comp ?_ (by decide)
    | with_reducible refine (endSession_frame _ _).comp ?_ (by decide)
    | with_reducible refine (setCmd_frame _ _).comp ?_ (by decide)
    | with_reducible refine (setMode_frame _ _).comp ?_ (by decide)
    | with_reducible refine (setPart_frame _ _ _).comp ?_ (by decide)
    | (simp only [Frame.spelled]; (with_reducible apply FrameMk.upd);
        (with_reducible (intro b hb; cases b <;> first | exact absurd (by decide) hb | (dsimp only [Region.same] <;> rfl) | exact refs_id rfl));
        with_reducible exact List.suffix_refl _)
    | extract_lets
    | split

theorem execEraseLong_moves (t : Time) (ref : CmdRef) (finished : Bool) (s : State) :
    Moves [.gl, .crew, .hq, .eng, .cy, .vol, .wr, .rdr, .sm, .ce, .ic, .spill, .ev, .out] (advance t s)
      (execEraseLong t ref finished s) := by
  unfold execEraseLong
  repeat' first
    | with_reducible refine Moves.next ?_
    | with_reducible exact Frame.refl _ _
    | with_reducible refine (eraseWhole_frame _ _ _ _ _ _).comp ?_ (by decide)

theorem execEraseSanitise_moves (t : Time) (ref : CmdRef) (finished : Bool) (headersFound : Bool) (s : State) :
    Moves [.gl, .crew, .hq, .eng, .cy, .vol, .wr, .rdr, .sm, .ce, .ic, .spill, .ev, .out] (advance t s)
      (execEraseSanitise t ref finished headersFound s) := by
  unfold execEraseSanitise
  repeat' first
    | with_reducible refine Moves.next ?_
    | with_reducible exact Frame.refl _ _
    | with_reducible refine (eraseWhole_frame _ _ _ _ _ _).comp ?_ (by decide)

/-! ### Every command -/

/-- Every command answers a next state within its footprint. -/
theorem exec_moves (c : Instr) (s : State) : Moves (footprint c) (advance (instant c) s) (exec c s) := by
  cases c with
  | perstNFall t => exact execPerstNFall_moves t s
  | perstNRise t addrSel temps => exact execPerstNRise_moves t addrSel temps s
  | rootPllLock t env => exact execRootPllLock_moves t env s
  | refClkLoss t => exact execRefClkLoss_moves t s
  | supplyMonitorTrip t => exact execSupplyMonitorTrip_moves t s
  | tempUpdate t temps => exact execTempUpdate_moves t temps s
  | pwrWarnNFall t => exact execPwrWarnNFall_moves t s
  | holdInNFall t => exact execHoldInNFall_moves t s
  | tapeAtRest t => exact execTapeAtRest_moves t s
  | warmResetRequest t value => exact execWarmResetRequest_moves t value s
  | warmResetStart t env => exact execWarmResetStart_moves t env s
  | flr t f => exact execFlr_moves t f s
  | gateDelayExpiry t => exact execGateDelayExpiry_moves t s
  | dieShutdownDone t die => exact execDieShutdownDone_moves t die s
  | dieWakeDone t die => exact execDieWakeDone_moves t die s
  | readWaitExpiry t => exact execReadWaitExpiry_moves t s
  | writeSessionStart t hk => exact execWriteSessionStart_moves t hk s
  | commandAged t ref => exact execCommandAged_moves t ref s
  | tapeCommandChoose t => exact execTapeCommandChoose_moves t s
  | locateTargetReached t => exact execLocateTargetReached_moves t s
  | wrapChange t wrap => exact execWrapChange_moves t wrap s
  | sqTailDoorbell t f q width value => exact execSqTailDoorbell_moves t f q width value s
  | cqHeadDoorbell t f q width value => exact execCqHeadDoorbell_moves t f q width value s
  | commandFetch t entry => exact execCommandFetch_moves t entry s
  | hqEnable t f => exact execHqEnable_moves t f s
  | hqDisable t f => exact execHqDisable_moves t f s
  | hqAllotWrite t g word value => exact execHqAllotWrite_moves t g word value s
  | append t ref rlist segs data => exact execAppend_moves t ref rlist segs data s
  | stagingGrant t => exact execStagingGrant_moves t s
  | acceptancePoint t => exact execAcceptancePoint_moves t s
  | read t ref segs => exact execRead_moves t ref segs s
  | verify t ref => exact execVerify_moves t ref s
  | flush t ref => exact execFlush_moves t ref s
  | writeMark t ref => exact execWriteMark_moves t ref s
  | readPosition t ref segs => exact execReadPosition_moves t ref segs s
  | orderQuery t ref segs list => exact execOrderQuery_moves t ref segs list s
  | locate t ref => exact execLocate_moves t ref s
  | createCq t ref => exact execCreateCq_moves t ref s
  | deleteCq t ref => exact execDeleteCq_moves t ref s
  | createSq t ref => exact execCreateSq_moves t ref s
  | deleteSq t ref => exact execDeleteSq_moves t ref s
  | abort t ref ahead => exact execAbort_moves t ref ahead s
  | getParam t ref => exact execGetParam_moves t ref s
  | setParam t ref => exact execSetParam_moves t ref s
  | getLog t ref segs => exact execGetLog_moves t ref segs s
  | keyLoadKek t ref segs blob => exact execKeyLoadKek_moves t ref segs blob s
  | keyLoadRecordKey t ref segs blob => exact execKeyLoadRecordKey_moves t ref segs blob s
  | keyErase t ref => exact execKeyErase_moves t ref s
  | keyEraseImmediate t ref => exact execKeyEraseImmediate_moves t ref s
  | keyEraseKek t ref => exact execKeyEraseKek_moves t ref s
  | load t ref scan => exact execLoad_moves t ref scan s
  | unload t ref present hk => exact execUnload_moves t ref present hk s
  | partition t ref segs sizes hk => exact execPartition_moves t ref segs sizes hk s
  | eraseTruncate t ref => exact execEraseTruncate_moves t ref s
  | eraseLong t ref finished => exact execEraseLong_moves t ref finished s
  | eraseSanitise t ref finished headersFound => exact execEraseSanitise_moves t ref finished headersFound s
  | calibrate t ref segs units out => exact execCalibrate_moves t ref segs units out s
  | telltaleStart t ref => exact execTelltaleStart_moves t ref s
  | telltaleStop t ref => exact execTelltaleStop_moves t ref s
  | bench t ref => exact execBench_moves t ref s
  | selfTest t ref code => exact execSelfTest_moves t ref code s
  | holdEnter t ref => exact execHoldEnter_moves t ref s
  | holdRelease t ref => exact execHoldRelease_moves t ref s
  | lcChange t ref segs auth => exact execLcChange_moves t ref segs auth s
  | lcArmExpiry t => exact execLcArmExpiry_moves t s
  | patchDownload t ref segs data => exact execPatchDownload_moves t ref segs data s
  | fwActivate t ref => exact execFwActivate_moves t ref s
  | fwActivateSwap t => exact execFwActivateSwap_moves t s
  | fwActivateTimeout t => exact execFwActivateTimeout_moves t s
  | health t src => exact execHealth_moves t src s
  | logRead t src => exact execLogRead_moves t src s
  | taskLcChange t src => exact execTaskLcChange_moves t src s
  | attest t src => exact execAttest_moves t src s
  | queueSetup t src => exact execQueueSetup_moves t src s
  | emergencyHold t src => exact execEmergencyHold_moves t src s
  | warmReset t src => exact execWarmReset_moves t src s
  | taskWriteWhileBusy t src offset value => exact execTaskWriteWhileBusy_moves t src offset value s
  | boardBusWrite t src address bytes => exact execBoardBusWrite_moves t src address bytes s
  | smbusTimeout t => exact execSmbusTimeout_moves t s
  | getVersion t conn msg => exact execGetVersion_moves t conn msg s
  | getCapabilities t conn msg => exact execGetCapabilities_moves t conn msg s
  | negotiateAlgorithms t conn msg => exact execNegotiateAlgorithms_moves t conn msg s
  | getDigests t conn msg => exact execGetDigests_moves t conn msg s
  | getCertificate t conn msg => exact execGetCertificate_moves t conn msg s
  | challenge t conn msg => exact execChallenge_moves t conn msg s
  | getMeasurements t conn msg => exact execGetMeasurements_moves t conn msg s
  | doeDiscovery t index => exact execDoeDiscovery_moves t index s
  | doeAbort t => exact execDoeAbort_moves t s
  | unlock t auth => exact execUnlock_moves t auth s
  | sourceLineChange t f fast src => exact execSourceLineChange_moves t f fast src s
  | interruptDelivery t => exact execInterruptDelivery_moves t s
  | fastDelivery t => exact execFastDelivery_moves t s
  | holdoffExpiry t f fast vec => exact execHoldoffExpiry_moves t f fast vec s
  | msixUnmask t f vec => exact execMsixUnmask_moves t f vec s
  | icEoi t f value => exact execIcEoi_moves t f value s
  | icFEoi t value => exact execIcFEoi_moves t value s
  | icActiveRead t f fast word => exact execIcActiveRead_moves t f fast word s
  | icPendWrite t f fast word value => exact execIcPendWrite_moves t f fast word value s
  | icSrcCfgWrite t f value => exact execIcSrcCfgWrite_moves t f value s
  | itemOffer t q part words => exact execItemOffer_moves t q part words s
  | batchIdleTimeout t q => exact execBatchIdleTimeout_moves t q s
  | spillHeadWrite t q value => exact execSpillHeadWrite_moves t q value s
  | spillFlush t q => exact execSpillFlush_moves t q s
  | spillFlushEffect t q => exact execSpillFlushEffect_moves t q s
  | spillStart t q => exact execSpillStart_moves t q s
  | spillStop t q => exact execSpillStop_moves t q s
  | strokeBoundary t => exact execStrokeBoundary_moves t s
  | slotStart t => exact execSlotStart_moves t s
  | slotComplete t slot => exact execSlotComplete_moves t slot s
  | loopStart t slot value => exact execLoopStart_moves t slot value s
  | loopStop t slot value => exact execLoopStop_moves t slot value s
  | ceSwapWrite t value => exact execCeSwapWrite_moves t value s
  | rcDataAccess t slot write => exact execRcDataAccess_moves t slot write s
  | readSampleCell t lane session cell => exact execReadSampleCell_moves t lane session cell s
  | servoSampleCell t lane session cell => exact execServoSampleCell_moves t lane session cell s
  | headStatusCell t lane session cell => exact execHeadStatusCell_moves t lane session cell s
  | laneLoss t lane => exact execLaneLoss_moves t lane s
  | laneTrainingDone t lane ok lower upper => exact execLaneTrainingDone_moves t lane ok lower upper s
  | burstWindowClose t reader => exact execBurstWindowClose_moves t reader s
  | moduleSample t m kind => exact execModuleSample_moves t m kind s
  | writeGateOpen t m bit => exact execWriteGateOpen_moves t m bit s
  | servoLossLimit t cond => exact execServoLossLimit_moves t cond s
  | sheetPacketReceive t link code data crc intact => exact execSheetPacketReceive_moves t link code data crc intact s
  | sheetLinkSync t link => exact execSheetLinkSync_moves t link s
  | sheetLinkLoss t link => exact execSheetLinkLoss_moves t link s
  | sheetLinkStable t => exact execSheetLinkStable_moves t s
  | sheetRefresh t => exact execSheetRefresh_moves t s
  | encoderEdge t enc a b => exact execEncoderEdge_moves t enc a b s
  | encoderIndex t enc => exact execEncoderIndex_moves t enc s
  | gpiEdge t pin level => exact execGpiEdge_moves t pin level s
  | rowDispatch t => exact execRowDispatch_moves t s
  | tapeResume t => exact execTapeResume_moves t s
  | readAheadStop t => exact execReadAheadStop_moves t s
  | demandUpdate t => exact execDemandUpdate_moves t s
  | reefRampDone t => exact execReefRampDone_moves t s
  | verifyResult t copy obs => exact execVerifyResult_moves t copy obs s
  | verifyDeadline t copy => exact execVerifyDeadline_moves t copy s
  | frameDecodeStart t die engine => exact execFrameDecodeStart_moves t die engine s
  | frameDecodeDone t die engine => exact execFrameDecodeDone_moves t die engine s
  | blankDetect t => exact execBlankDetect_moves t s
  | runDispatch t engine => exact execRunDispatch_moves t engine s
  | runComplete t engine agrees => exact execRunComplete_moves t engine agrees s
  | cipherRecordStart t pair => exact execCipherRecordStart_moves t pair s
  | cipherRecordEnd t pair agrees => exact execCipherRecordEnd_moves t pair agrees s
  | drbgReseed t entropyOk => exact execDrbgReseed_moves t entropyOk s
  | entropyHealthFail t => exact execEntropyHealthFail_moves t s
  | scrubRead t cls obs => exact execScrubRead_moves t cls obs s
  | instructionFetchTrap t fault => exact execInstructionFetchTrap_moves t fault s
  | dmaChannelHalt t f q => exact execDmaChannelHalt_moves t f q s
  | completionTimeout t f q => exact execCompletionTimeout_moves t f q s
  | miFlipaddrWrite t cls high width value => exact execMiFlipaddrWrite_moves t cls high width value s
  | injectedWrite t cls addr data => exact execInjectedWrite_moves t cls addr data s
  | bar0AccessReject t f isWrite offset width => exact execBar0AccessReject_moves t f isWrite offset width s
  | rocRead t f offset width => exact execRocRead_moves t f offset width s
  | registerWrite t f bar offset width value => exact execRegisterWrite_moves t f bar offset width value s
  | holdInNRise t => exact execHoldInNRise_moves t s
  | pwrWarnNRise t => exact execPwrWarnNRise_moves t s
  | lowHalfRead t f offset => exact execLowHalfRead_moves t f offset s
  | spillConsumerHalt t q => exact execSpillConsumerHalt_moves t q s
  | rsaOperationDone t => exact execRsaOperationDone_moves t s
  | doeResponseRead t => exact execDoeResponseRead_moves t s
  | vfEnableWrite t on => exact execVfEnableWrite_moves t on s
  | setdasaOrEntdaa t address => exact execSetdasaOrEntdaa_moves t address s

end Sys2Proof.Machine
end

section
/-!
What every step keeps: time, the waiting commands, the canonical form of the memory table, the rollback fuses, and the
distinctness of the commands in flight. Each follows from the footprints for the commands that do not name the part, and
from the meaning of the few that do.
-/

namespace Sys2Proof.Machine

set_option Elab.async false

/-! ### Steps and outcomes -/

theorem exec_frame {c : Instr} {s u : State} (h : exec c s = .next u) : Frame (footprint c) (advance (instant c) s) u := by
  obtain ⟨v, hv, hf⟩ := exec_moves c s
  rw [h] at hv
  cases hv
  exact hf

theorem step_cons {c : Instr} {rest : List Instr} {s : State} (h : s.pending = c :: rest) :
    step s = exec c { s with pending := rest } := by
  unfold step
  rw [h]

theorem step_nil {s : State} (h : s.pending = []) : step s = .next s := by
  unfold step
  rw [h]

/-- A step is idle or runs a command: what an idle step keeps and every command keeps, every step keeps. -/
theorem step_cases {s u : State} (h : step s = .next u) :
    u = s ∨ ∃ c rest, s.pending = c :: rest ∧ exec c { s with pending := rest } = .next u := by
  cases hp : s.pending with
  | nil => rw [step_nil hp] at h; cases h; exact .inl rfl
  | cons c rest => rw [step_cons hp] at h; exact .inr ⟨c, rest, rfl, h⟩

/-- Settles O1: the two cases of `step`. -/
theorem stepRunsFront : Obligations.StepRunsFront := by
  unfold Obligations.StepRunsFront
  exact ⟨fun c rest s => step_cons rfl, fun s h => step_nil h⟩

/-- Settles O2: every command moves the state within its footprint, so it answers a next state. -/
theorem everyCommandRuns : Obligations.EveryCommandRuns := by
  unfold Obligations.EveryCommandRuns
  intro c s
  obtain ⟨u, hu, -⟩ := exec_moves c s
  exact ⟨u, hu⟩

/-- Settles O7: the frames of the 163 commands. -/
theorem commandFrames : Obligations.CommandFrames := by
  unfold Obligations.CommandFrames
  exact fun c s u h => exec_frame h

/-- Whatever next state an outcome holds has the property. -/
def Leads (P : State → Prop) (o : Host.Outcome State Fault Refusal) : Prop := ∀ u, o = .next u → P u

theorem Leads.next {P : State → Prop} {u : State} (h : P u) : Leads P (.next u) := fun v hv => by cases hv; exact h

theorem Leads.ite {P : State → Prop} {a b : Host.Outcome State Fault Refusal} {c : Prop} [Decidable c] (ha : Leads P a)
    (hb : Leads P b) : Leads P (if c then a else b) := by
  split <;> assumption

/-! ### The waiting commands and time -/

theorem pending_not_in_footprint (c : Instr) : (footprint c).contains .pending = false := by
  cases c <;> rfl

/-- Settles O9: no footprint names the queue of waiting commands. -/
theorem execLeavesTheQueue : Obligations.ExecLeavesTheQueue := by
  unfold Obligations.ExecLeavesTheQueue
  intro c rest s u hp h
  rw [step_cons hp] at h
  rw [(exec_frame h).pending_eq (pending_not_in_footprint c), advance_pending]

theorem tb_not_in_footprint {c : Instr} (h : ∀ t env, c ≠ .rootPllLock t env) : (footprint c).contains .tb = false := by
  cases c
  case rootPllLock t env => exact absurd rfl (h t env)
  all_goals rfl

/-- Settles O8: only the lock of the root PLL names TB, and `advance` takes the later instant while the PLL is locked. -/
theorem timeNeverRunsBack : Obligations.TimeNeverRunsBack := by
  unfold Obligations.TimeNeverRunsBack
  intro c s u hc h
  have htb : u.tb = (advance (instant c) s).tb := (exec_frame h).tb_eq (tb_not_in_footprint hc)
  rw [htb, advance_tb]
  cases hl : s.gl.locked
  · simp
  · by_cases hlt : s.tb.toNat < (instant c).toNat
    · simp [hlt, Nat.le_of_lt hlt]
    · simp [hlt, Nat.max_eq_left (Nat.le_of_not_lt hlt)]

/-! ### The state after a device reset -/

theorem Frame.units_eq {l : List Region} {s u : State} (h : Frame l s u) (hl : l.contains .units = false := by decide) :
    u.mi.units = s.mi.units := h.same .units (not_mem_of_contains hl)

theorem Frame.rollback_eq {l : List Region} {s u : State} (h : Frame l s u) (hl : l.contains .fuses = false := by decide) :
    u.se.rollback = s.se.rollback := h.same .fuses (not_mem_of_contains hl)

theorem Frame.refs_sublist {l : List Region} {s u : State} (h : Frame l s u) (hl : l.contains .refs = false := by decide) :
    (u.hq.inflight.map fun c => c.ref).Sublist (s.hq.inflight.map fun c => c.ref) := h.same .refs (not_mem_of_contains hl)

/-- RESET is entered from the state itself, or, with a life-cycle change under way, from one that differs from it in the
life-cycle state, its wipe mark and the free value alone (R42). -/
theorem enterReset_cases (s : State) :
    enterReset s = coldState s ∨ enterReset s = coldState { s with fresh := s.fresh + 1 }
      ∨ ∃ tgt, s.gl.lcPending = some tgt
        ∧ enterReset s = coldState { s with fresh := s.fresh + 1, gl := { s.gl with lcMram := tgt, wipeDue := true } } := by
  unfold enterReset
  split
  · exact .inl rfl
  · rename_i tgt htgt
    dsimp only [openNat]
    split
    · exact .inr (.inl rfl)
    · exact .inr (.inr ⟨tgt, htgt, rfl⟩)

theorem execRootPllLock_cases (t : Time) (env : BringUp) (s : State) :
    execRootPllLock t env s = .next s
      ∨ execRootPllLock t env s = .next (fillRun false env { s with tb := t, gl := { s.gl with locked := true } }) := by
  unfold execRootPllLock
  split
  · exact .inl rfl
  · exact .inr rfl

/-- What a warm reset does up to FILL: every outstanding command is aborted, and a life-cycle change takes its place in
MRAM with its wipes. -/
def warmWiped (w : ResetWait) (s : State) : State :=
  let x := warmState w.cause (setMode .reset (abortAll s))
  match x.gl.lcPending with
  | none => x
  | some tgt => lcWipe tgt.toNat { x with gl := { x.gl with lcMram := tgt } }

/-- What a warm reset does after FILL: an accepted unlock opens the port, and a request that waited follows. -/
def warmEnd (w : ResetWait) (s : State) : State :=
  let x := if w.cause = 4 then { s with se := { s.se with jtagOpen := true } } else s
  match w.again with
  | none => x
  | some c => requestReset c x

theorem execWarmResetStart_eq {t : Time} {env : BringUp} {s : State} {w : ResetWait} (hw : s.gl.resetWait = some w)
    (hm : s.gl.moving = false) :
    execWarmResetStart t env s = .next (warmEnd w (fillRun true env (warmWiped w (advance t s)))) := by
  unfold execWarmResetStart
  extract_lets x
  have hxw : x.gl.resetWait = some w := by unfold x; rw [advance_gl, hw]
  have hxm : ¬x.gl.moving = true := by unfold x; simp [hm]
  have hx : advance t s = x := rfl
  rw [hxw, hx]
  clear_value x
  dsimp -zeta only
  rw [if_neg hxm]
  extract_lets y _ a b _ z
  have ha : a = warmWiped w x := rfl
  have hz : warmEnd w b = match w.again with | none => z | some c => requestReset c z := rfl
  rw [← ha, hz]
  cases w.again <;> rfl

/-- A warm reset runs, or it has nothing to wait for. -/
theorem execWarmResetStart_cases (t : Time) (env : BringUp) (s : State) :
    execWarmResetStart t env s = .next (advance t s)
      ∨ ∃ w, s.gl.resetWait = some w
        ∧ execWarmResetStart t env s = .next (warmEnd w (fillRun true env (warmWiped w (advance t s)))) := by
  cases hw : s.gl.resetWait with
  | none => left; unfold execWarmResetStart; simp only [advance_gl, hw]
  | some w =>
    cases hm : s.gl.moving with
    | true => left; unfold execWarmResetStart; simp only [advance_gl, hw, hm, if_true]
    | false => exact .inr ⟨w, rfl, execWarmResetStart_eq hw hm⟩

theorem warmEnd_frame (w : ResetWait) (s : State) :
    Frame [.gl, .crew, .hq, .eng, .cy, .vol, .wr, .rdr, .sm, .sv, .ce, .ic, .spill, .ev, .se, .out] s (warmEnd w s) := by
  have hx : Frame [.se] s (if w.cause = 4 then { s with se := { s.se with jtagOpen := true } } else s) := by
    refine Frame.ite ⟨fun b hb => ?_, List.suffix_refl _⟩ (Frame.refl _ _)
    cases b <;> first | exact absurd (by decide) hb | exact refs_id rfl | rfl
  unfold warmEnd
  extract_lets x
  split
  · exact hx.widen
  · exact (requestReset_frame _ _).comp hx.widen (by decide)

/-- Of the memory units a warm reset keeps those of MRAM (R34, R37). -/
theorem warmWiped_units (w : ResetWait) (s : State) :
    (warmWiped w s).mi.units = s.mi.units.filter fun p => decide (2 * 2 ^ 40 ≤ p.1) := by
  have hx : (warmState w.cause (setMode .reset (abortAll s))).mi.units
      = s.mi.units.filter fun p => decide (2 * 2 ^ 40 ≤ p.1) := by
    rw [← ((setMode_frame .reset _).comp (abortAll_frame s).widen (by decide) : Frame [.gl, .crew, .hq, .eng, .cy, .vol,
      .rdr, .sm, .ce, .ic, .spill, .ev, .out] s _).units_eq]
    rfl
  unfold warmWiped
  extract_lets x
  split
  · exact hx
  · rw [(lcWipe_frame _ _).units_eq]
    exact hx

/-! ### The canonical form of the memory table -/

theorem MemoryOk.of_units {s u : State} (h : MemoryOk s) (hu : u.mi.units = s.mi.units) : MemoryOk u := by
  unfold MemoryOk at h ⊢
  rwa [hu]

theorem Frame.memoryOk {l : List Region} {s u : State} (hf : Frame l s u) (h : MemoryOk s)
    (hl : l.contains .units = false := by decide) : MemoryOk u := h.of_units (hf.units_eq hl)

theorem MemoryOk.kept_mram {s u : State} (h : MemoryOk s)
    (hu : u.mi.units = s.mi.units.filter fun p => decide (2 * 2 ^ 40 ≤ p.1)) : MemoryOk u := by
  unfold MemoryOk at h ⊢
  rw [hu]
  exact tabWf_filter _ h

theorem MemoryOk.setUnitBits {s : State} (h : MemoryOk s) (c a : Nat) (w : BitVec 288) :
    MemoryOk (Machine.setUnitBits c a w s) := tabWf_tabSet h _ _

theorem MemoryOk.storeUnit {s : State} (h : MemoryOk s) (c a : Nat) (w : BitVec 288) :
    MemoryOk (Machine.storeUnit c a w s) := by
  unfold Machine.storeUnit
  extract_lets hit w' _ s₁ k s₂
  have h₁ : MemoryOk s₁ := by
    unfold s₁
    split
    · exact (setInject_frame _ _ _).memoryOk h
    · exact h
  exact (h₁.setUnitBits c a w').of_units rfl

theorem MemoryOk.remap {s : State} (h : MemoryOk s) (c a owner flags : Nat) (bank : BitVec 6) :
    MemoryOk (Machine.remap c a owner flags bank s) := by
  have loop : ∀ (l : List Nat) (x : State), MemoryOk x →
      MemoryOk (forEach l (fun u s => Machine.storeUnit c u (readUnit c (unitBits s c u)).2 s) x) := by
    intro l
    induction l with
    | nil => exact fun x hx => hx
    | cons a r ih => exact fun x hx => ih _ (hx.storeUnit _ _ _)
  unfold Machine.remap
  extract_lets b line s₁ units s₂
  split
  · exact (loop units s₁ ((logEntry_frame _ _).memoryOk h)).of_units rfl
  · split
    · exact h
    · exact (logEntry_frame _ _).memoryOk (h.of_units rfl)

theorem MemoryOk.handleOwner {s : State} (h : MemoryOk s) (c a owner : Nat) (u : UnitUse) (rm : Bool) (e : DWord × DWord) :
    MemoryOk (Machine.handleOwner c a owner u rm e s) := by
  unfold Machine.handleOwner
  extract_lets k f _ s₁
  split
  · exact h
  · have h₁ : MemoryOk s₁ := (event_frame ..).memoryOk (h.of_units rfl)
    unfold ownerAction
    split
    · exact h₁.storeUnit _ _ _
    · exact (loseStaged_frame ..).memoryOk h₁
    · split
      · exact h₁
      · exact (failCmd_frame ..).memoryOk h₁
    · split
      case h_2 => exact (failCmd_frame ..).memoryOk h₁
      case h_3 => exact (functionFault_frame ..).memoryOk h₁
      case h_5 => exact (dropItems_frame ..).memoryOk h₁
      case h_6 => exact (slotErase_frame ..).memoryOk h₁
      case h_7 => exact (setKek_frame ..).memoryOk h₁
      case h_8 => exact (unitHurt_frame ..).memoryOk h₁
      case h_9 => exact (setHeadEntry_frame ..).memoryOk h₁
      all_goals exact h₁.of_units rfl

theorem MemoryOk.scrubCorrected {s : State} (h : MemoryOk s) (c a d : Nat) (fixed : BitVec 288) (obs : ScrubObs) :
    MemoryOk (Machine.scrubCorrected c a d fixed obs s) := by
  unfold Machine.scrubCorrected
  extract_lets owner _ s₁ _ s₂ again _ s₃
  have h₁ : MemoryOk s₁ := (logEntry_frame _ _).memoryOk (h.of_units rfl)
  have h₂ : MemoryOk s₂ := by
    unfold s₂
    split
    · exact (logEntry_frame _ _).memoryOk (h₁.of_units rfl)
    · exact h₁.storeUnit _ _ _
  have h₃ : MemoryOk s₃ := h₂.of_units rfl
  split
  · exact h₃.remap _ _ _ _ _
  · exact h₃

theorem MemoryOk.scrubUncorrectable {s : State} (h : MemoryOk s) (c a : Nat) (w : BitVec 288) (obs : ScrubObs) :
    MemoryOk (Machine.scrubUncorrectable c a w obs s) := by
  have hlog : ∀ e, MemoryOk (logEntry e { s with mi := { s.mi with unc := countMem s.mi.unc c } }) :=
    fun e => (logEntry_frame _ _).memoryOk (h.of_units rfl)
  have again : ∀ (o f : Nat) (x : State), MemoryOk x →
      MemoryOk (if remaps x c then Machine.remap c a o f obs.bank x else x) := by
    intro o f x hx
    split
    · exact hx.remap _ _ _ _ _
    · exact hx
  unfold Machine.scrubUncorrectable
  extract_lets owner _ s₁
  split
  · exact again _ _ _ ((hlog _).storeUnit _ _ _)
  · exact (again _ _ _ ((hlog _).storeUnit _ _ _)).handleOwner _ _ _ _ _ _

theorem MemoryOk.scrubRead {s : State} (h : MemoryOk s) (t : Time) (cls : BitVec 2) (obs : ScrubObs) :
    Leads MemoryOk (execScrubRead t cls obs s) := by
  unfold execScrubRead
  extract_lets x c a w s₁ s₂
  have h₀ : MemoryOk x := (advance_frame t s).memoryOk h
  clear_value x
  have h₁ : MemoryOk s₁ := h₀.setUnitBits _ _ _
  have h₂ : MemoryOk s₂ := by
    unfold s₂
    clear_value s₁ w
    split
    · exact h₁
    · exact h₁.scrubCorrected _ _ _ _ _
    · refine MemoryOk.handleOwner ((logEntry_frame _ _).memoryOk ?_) _ _ _ _ _ _
      exact h₁.of_units rfl
    · exact h₁.scrubUncorrectable _ _ _ _
  clear_value s₂
  exact Leads.ite (.next h₀) (.next ((tidy_frame _).memoryOk ((scrubMoves_frame ..).memoryOk h₂)))

theorem MemoryOk.enterReset {s : State} (h : MemoryOk s) : MemoryOk (Machine.enterReset s) := by
  obtain he | he | ⟨tgt, -, he⟩ := enterReset_cases s <;> rw [he] <;> exact h.kept_mram rfl

theorem MemoryOk.warmResetStart {s : State} (h : MemoryOk s) (t : Time) (env : BringUp) :
    Leads MemoryOk (execWarmResetStart t env s) := by
  have h₀ : MemoryOk (advance t s) := (advance_frame t s).memoryOk h
  obtain he | ⟨w, -, he⟩ := execWarmResetStart_cases t env s <;> rw [he]
  · exact .next h₀
  · exact .next ((warmEnd_frame _ _).memoryOk ((fillRun_frame ..).memoryOk (h₀.kept_mram (warmWiped_units w _))))

/-- A cold reset, with a change of pins and of GL around it: PERST_N, REF_CLK, the supply and the temperatures. -/
theorem MemoryOk.coldCommands {s : State} (h : MemoryOk s) (t : Time) (temps : List (BitVec 16)) :
    Leads MemoryOk (execPerstNFall t s) ∧ Leads MemoryOk (execRefClkLoss t s)
      ∧ Leads MemoryOk (execSupplyMonitorTrip t s) ∧ Leads MemoryOk (execTempUpdate t temps s) := by
  have h₀ : MemoryOk (advance t s) := (advance_frame t s).memoryOk h
  unfold execPerstNFall execRefClkLoss execSupplyMonitorTrip execTempUpdate
  generalize advance t s = x at h₀ ⊢
  refine ⟨.ite (.next h₀) (.next (h₀.enterReset.of_units rfl)), .ite (.next h₀) (.next (h₀.enterReset.of_units rfl)),
    .ite (.next h₀) (.next (h₀.enterReset.of_units rfl)), ?_⟩
  extract_lets _ hot _ y
  have hy : MemoryOk y := h₀.of_units rfl
  clear_value y
  exact .ite (.next (hy.enterReset.of_units rfl)) (.next hy)

theorem MemoryOk.injectedWrite {s : State} (h : MemoryOk s) (t : Time) (cls : BitVec 2) (addr : BitVec 40)
    (data : BitVec 256) : Leads MemoryOk (execInjectedWrite t cls addr data s) := by
  have h₀ : MemoryOk (advance t s) := (advance_frame t s).memoryOk h
  exact .ite (.next h₀) (.next (h₀.storeUnit _ _ _))

theorem MemoryOk.exec {c : Instr} {s u : State} (h : MemoryOk s) (hu : Machine.exec c s = .next u) : MemoryOk u := by
  by_cases hc : (footprint c).contains .units = false
  · exact (exec_frame hu).memoryOk ((advance_frame _ s).memoryOk h) hc
  · cases c
    case perstNFall t => exact (h.coldCommands t []).1 u hu
    case refClkLoss t => exact (h.coldCommands t []).2.1 u hu
    case supplyMonitorTrip t => exact (h.coldCommands t []).2.2.1 u hu
    case tempUpdate t temps => exact (h.coldCommands t temps).2.2.2 u hu
    case warmResetStart t env => exact h.warmResetStart t env u hu
    case scrubRead t cls obs => exact h.scrubRead t cls obs u hu
    case injectedWrite t cls addr data => exact h.injectedWrite t cls addr data u hu
    all_goals exact absurd rfl hc

/-- Settles O4: the table of State.reset is empty. -/
theorem resetKeepsCanonicalForm : Obligations.ResetKeepsCanonicalForm := by
  unfold Obligations.ResetKeepsCanonicalForm MemoryOk
  rfl

/-- Settles O5: the table changes by a write of a unit, which `tabSet` keeps canonical, or by a device reset, which keeps
the units of MRAM. -/
theorem stepKeepsCanonicalForm : Obligations.StepKeepsCanonicalForm := by
  unfold Obligations.StepKeepsCanonicalForm
  intro s u h hstep
  obtain rfl | ⟨c, rest, -, hu⟩ := step_cases hstep
  · exact h
  · exact (h.of_units (u := { s with pending := rest }) rfl).exec hu

/-! ### The rollback fuses -/

theorem patchCheck_rollback (s : State) : s.se.rollback ≤ (patchCheck s).se.rollback := by
  unfold patchCheck
  extract_lets cause
  split
  · exact Nat.le_refl _
  · split
    · exact Nat.le_max_left _ _
    · exact Nat.le_of_eq (bundleReject_frame _ _).rollback_eq.symm

/-- FILL burns the fuses up to the SVN of the active bundle at most, and never below what they hold (R35, R391). -/
theorem fillRun_rollback (warm : Bool) (env : BringUp) (s : State) : s.se.rollback ≤ (fillRun warm env s).se.rollback := by
  unfold fillRun
  extract_lets s₁ s₂ _ _ s₃ s₄ latched _ s₅
  have h₂ : s.se.rollback ≤ s₂.se.rollback := by
    have hb : (fillBoot s₁).se.rollback = s.se.rollback :=
      (fillBoot_frame s₁).rollback_eq.trans (setMode_frame .fill s).rollback_eq
    rw [← hb]
    exact Nat.le_trans (patchCheck_rollback _) (Nat.le_of_eq (fillLinks_frame warm env _).rollback_eq.symm)
  have h₅ : s₅.se.rollback = s₂.se.rollback := (setMode_frame .idle s₃).rollback_eq
  refine Nat.le_trans h₂ (Nat.le_of_eq ?_)
  rw [(senseFastAll_frame _).rollback_eq, ← h₅]
  split
  · rfl
  · exact (enterHold_frame _).rollback_eq.symm

theorem warmWiped_rollback (w : ResetWait) (s : State) : (warmWiped w s).se.rollback = s.se.rollback := by
  have hx : (warmState w.cause (setMode .reset (abortAll s))).se.rollback = s.se.rollback :=
    (setMode_frame .reset _).rollback_eq.trans (abortAll_frame s).rollback_eq
  unfold warmWiped
  extract_lets x
  split
  · exact hx
  · exact (lcWipe_frame _ _).rollback_eq.trans hx

theorem fwActivateSwap_rollback (t : Time) (s : State) :
    Leads (fun u => s.se.rollback ≤ u.se.rollback) (execFwActivateSwap t s) := by
  have h₀ : (advance t s).se.rollback = s.se.rollback := by rw [advance_se]
  unfold execFwActivateSwap
  extract_lets x
  split
  · exact .next (Nat.le_of_eq h₀.symm)
  · refine .ite (.next (Nat.le_of_eq h₀.symm)) (.next ?_)
    rw [(taskResume_frame _).rollback_eq, (tidy_frame _).rollback_eq, (complete_frame ..).rollback_eq, ← h₀]
    exact Nat.le_max_left _ _

theorem exec_rollback {c : Instr} {s u : State} (hu : exec c s = .next u) : s.se.rollback ≤ u.se.rollback := by
  have h₀ : ∀ t, (advance t s).se.rollback = s.se.rollback := fun t => by rw [advance_se]
  by_cases hc : (footprint c).contains .fuses = false
  · exact Nat.le_of_eq (((exec_frame hu).rollback_eq hc).trans (h₀ _)).symm
  · cases c
    case rootPllLock t env =>
      change execRootPllLock t env s = .next u at hu
      obtain he | he := execRootPllLock_cases t env s <;> rw [he] at hu <;> cases hu
      · exact Nat.le_refl _
      · refine Nat.le_trans ?_ (fillRun_rollback false env _)
        exact Nat.le_refl _
    case warmResetStart t env =>
      change execWarmResetStart t env s = .next u at hu
      obtain he | ⟨w, -, he⟩ := execWarmResetStart_cases t env s <;> rw [he] at hu <;> cases hu
      · exact Nat.le_of_eq (h₀ t).symm
      · rw [(warmEnd_frame _ _).rollback_eq, ← h₀ t, ← warmWiped_rollback w]
        exact fillRun_rollback true env _
    case fwActivateSwap t => exact fwActivateSwap_rollback t s u hu
    all_goals exact absurd rfl hc

/-- Settles O6: the fuses change when a bundle runs, at a swap or in FILL, and then to the larger of what they hold and its
SVN. -/
theorem rollbackFusesNeverFall : Obligations.RollbackFusesNeverFall := by
  unfold Obligations.RollbackFusesNeverFall
  intro s u hstep
  obtain rfl | ⟨c, rest, -, hu⟩ := step_cases hstep
  · exact Nat.le_refl _
  · exact exec_rollback (s := { s with pending := rest }) hu

/-! ### Distinct commands in flight -/

theorem Frame.tagsDistinct {l : List Region} {s u : State} (hf : Frame l s u) (h : TagsDistinct s)
    (hl : l.contains .refs = false := by decide) : TagsDistinct u := (hf.refs_sublist hl).nodup h

theorem TagsDistinct.of_inflight {s u : State} (h : TagsDistinct s) (hu : u.hq.inflight = s.hq.inflight) :
    TagsDistinct u := by
  unfold TagsDistinct at h ⊢
  rwa [hu]

theorem foldl_max_ge (l : List Nat) (a : Nat) : a ≤ l.foldl max a ∧ ∀ x ∈ l, x ≤ l.foldl max a := by
  induction l generalizing a with
  | nil => simp
  | cons b r ih =>
    obtain ⟨hb, hr⟩ := ih (max a b)
    refine ⟨Nat.le_trans (Nat.le_max_left a b) hb, fun x hx => ?_⟩
    obtain rfl | hx := List.mem_cons.mp hx
    · exact Nat.le_trans (Nat.le_max_right a x) hb
    · exact hr x hx

theorem nodup_filter {α : Type} (p : α → Bool) {l : List α} (h : l.Nodup) : (l.filter p).Nodup :=
  List.Nodup.sublist List.filter_sublist h

theorem nodup_map_on {α β : Type} {f : α → β} {l : List α} (hf : ∀ x ∈ l, ∀ y ∈ l, f x = f y → x = y)
    (h : l.Nodup) : (l.map f).Nodup := by
  rw [List.nodup_iff_pairwise_ne, List.pairwise_map]
  exact (List.nodup_iff_pairwise_ne.mp h).imp_of_mem fun hx hy hne he => hne (hf _ hx _ hy he)

theorem eq_of_nodup_map {α β : Type} {f : α → β} {l : List α} (h : (l.map f).Nodup) {x y : α} (hx : x ∈ l) (hy : y ∈ l)
    (he : f x = f y) : x = y := by
  induction l with
  | nil => cases hx
  | cons a r ih =>
    obtain ⟨ha, hr⟩ := List.nodup_cons.mp (List.map_cons ▸ h)
    obtain rfl | hxr := List.mem_cons.mp hx <;> obtain rfl | hyr := List.mem_cons.mp hy
    · rfl
    · exact absurd (he ▸ List.mem_map_of_mem hyr) ha
    · exact absurd (he ▸ List.mem_map_of_mem hxr) ha
    · exact ih hr hxr hyr

/-- The number of an orphaned command is that of no command in flight. -/
theorem orphanRef_fresh (c : InFlight) (s : State) : ∀ d ∈ s.hq.inflight, d.ref ≠ orphanRef c s := by
  intro d hd he
  have hle := (foldl_max_ge (s.hq.inflight.map fun d => d.ref.sq) 8191).2 _ (List.mem_map_of_mem hd)
  rw [he] at hle
  simp only [orphanRef] at hle
  omega

theorem TagsDistinct.renameCmd {s : State} (h : TagsDistinct s) (old : CmdRef) {new : CmdRef}
    (hnew : ∀ d ∈ s.hq.inflight, d.ref ≠ new) : TagsDistinct (Machine.renameCmd old new s) := by
  have e : ((Machine.renameCmd old new s).hq.inflight.map fun c => c.ref)
      = (s.hq.inflight.map fun c => c.ref).map fun x => if x = old then new else x := by
    simp only [Machine.renameCmd, List.map_map]
    rfl
  unfold TagsDistinct
  rw [e]
  refine nodup_map_on (fun x hx y hy hxy => ?_) h
  have notNew : ∀ z ∈ s.hq.inflight.map fun c => c.ref, z ≠ new := by
    intro z hz
    obtain ⟨d, hd, rfl⟩ := List.mem_map.mp hz
    exact hnew d hd
  by_cases hxo : x = old <;> by_cases hyo : y = old
  · rw [hxo, hyo]
  · rw [if_pos hxo, if_neg hyo] at hxy
    exact absurd hxy.symm (notNew y hy)
  · rw [if_neg hxo, if_pos hyo] at hxy
    exact absurd hxy (notNew x hx)
  · rwa [if_neg hxo, if_neg hyo] at hxy

theorem TagsDistinct.forEach {α : Type} {l : List α} {op : α → State → State} {s : State} (h : TagsDistinct s)
    (hop : ∀ a x, TagsDistinct x → TagsDistinct (op a x)) : TagsDistinct (forEach l op s) := by
  induction l generalizing s with
  | nil => exact h
  | cons a r ih => exact ih (hop a s h)

theorem TagsDistinct.flrOne {s : State} (h : TagsDistinct s) (f : Fn) : TagsDistinct (Machine.flrOne f s) := by
  unfold Machine.flrOne
  extract_lets all keep ends voided s₁ s₂ _ s₃ s₄ s₅ s₆ _ s₇ _ s₈
  have h₁ : TagsDistinct s₁ := h.forEach fun c x hx => (retire_frame c _ x).tagsDistinct hx
  have h₂ : TagsDistinct s₂ := h₁.forEach fun c x hx => hx.renameCmd _ (orphanRef_fresh c x)
  have h₄ : TagsDistinct s₄ := (setHqFn_frame ..).tagsDistinct (h₂.of_inflight (u := s₃) rfl)
  have h₅ : TagsDistinct s₅ := ((setKek_frame ..).tagsDistinct h₄).forEach fun k x hx => (slotErase_frame k x).tagsDistinct hx
  have h₆ : TagsDistinct s₆ := (icReset_frame ..).tagsDistinct h₅
  exact (logReset_frame ..).tagsDistinct (h₆.of_inflight (u := s₈) rfl)

theorem TagsDistinct.fetchEntry {s : State} (h : TagsDistinct s) (f : Fn) (q : Nat) (e : BitVec 512) :
    TagsDistinct (Machine.fetchEntry f q e s) := by
  unfold Machine.fetchEntry
  extract_lets r x slot s₁ _ s₂ held c hooks
  have h₂ : TagsDistinct s₂ := h.of_inflight rfl
  clear_value s₂
  split
  · exact ((postEntry_frame ..).tagsDistinct h₂).forEach fun a y hy => (complete_frame ..).tagsDistinct hy
  · split
    · exact (postEntry_frame ..).tagsDistinct h₂
    · rename_i hchecks
      have hnew : r ∉ s₂.hq.inflight.map fun d => d.ref := by
        intro hr
        obtain ⟨d, hd, hdr⟩ := List.mem_map.mp hr
        have hdup : (s₂.hq.inflight.any fun d => d.ref == r) = true :=
          List.any_eq_true.mpr ⟨d, hd, by simpa using hdr⟩
        have hfield : fieldCheck s₂ r e ≠ none := by
          unfold fieldCheck
          split <;> simp [hdup]
        unfold fetchChecks at hchecks
        split at hchecks
        · cases hchecks
        · split at hchecks
          · cases hchecks
          · contradiction
      have hjoined : TagsDistinct { s₂ with hq := { s₂.hq with inflight := s₂.hq.inflight ++ [c] } } := by
        unfold TagsDistinct at h₂ ⊢
        rw [List.map_append, List.map_singleton]
        exact List.perm_append_comm.nodup_iff.mp (List.nodup_cons.mpr ⟨hnew, h₂⟩)
      exact (fetchEffect_frame c _).tagsDistinct hjoined

theorem TagsDistinct.commandFetch {s : State} (h : TagsDistinct s) (t : Time) (e : BitVec 512) :
    Leads TagsDistinct (execCommandFetch t e s) := by
  unfold execCommandFetch
  extract_lets x
  have h₀ : TagsDistinct x := (advance_frame t s).tagsDistinct h
  clear_value x
  refine .ite (.next h₀) ?_
  split
  · exact .next h₀
  · refine .ite (.next ?_) (.next (TagsDistinct.fetchEntry ?_ _ _ _)) <;> exact h₀.of_inflight rfl

theorem TagsDistinct.flr {s : State} (h : TagsDistinct s) (t : Time) (f : Fn) : Leads TagsDistinct (execFlr t f s) := by
  unfold execFlr
  extract_lets x fns y
  have h₀ : TagsDistinct x := (advance_frame t s).tagsDistinct h
  clear_value x
  have hy : TagsDistinct y := h₀.forEach fun f x hx => hx.flrOne f
  refine .ite (.next h₀) (.ite (.next ((tidy_frame _).tagsDistinct ?_)) (.next ((tidy_frame _).tagsDistinct (h₀.flrOne f))))
  exact hy.of_inflight rfl

theorem TagsDistinct.vfEnableWrite {s : State} (h : TagsDistinct s) (t : Time) (on : Bool) :
    Leads TagsDistinct (execVfEnableWrite t on s) := by
  unfold execVfEnableWrite
  extract_lets x y
  have h₀ : TagsDistinct x := (advance_frame t s).tagsDistinct h
  clear_value x
  have hy : TagsDistinct y := by
    unfold y
    split
    · exact h₀.forEach fun f x hx => hx.flrOne f
    · exact h₀
  exact .ite (.next h₀) (.next ((tidy_frame _).tagsDistinct (hy.of_inflight rfl)))

/-- Settles O10: a step takes commands out of flight, but for a fetch, whose check of step 2 keeps a tag in flight out, and
a function level reset, which renames to a number that no command has. -/
theorem tagsStayDistinct : Obligations.TagsStayDistinct := by
  unfold Obligations.TagsStayDistinct
  intro s u h hstep
  obtain rfl | ⟨c, rest, -, hu⟩ := step_cases hstep
  · exact h
  · have h₀ : TagsDistinct { s with pending := rest } := h.of_inflight rfl
    by_cases hc : (footprint c).contains .refs = false
    · exact (exec_frame hu).tagsDistinct ((advance_frame _ _).tagsDistinct h₀) hc
    · cases c
      case commandFetch t e => exact h₀.commandFetch t e u hu
      case flr t f => exact h₀.flr t f u hu
      case vfEnableWrite t on => exact h₀.vfEnableWrite t on u hu
      all_goals exact absurd rfl hc

/-- Settles O3: the fields of State.reset and the words that its BAR0 map answers, each by evaluation. -/
theorem resetState : Obligations.ResetState := by
  unfold Obligations.ResetState
  refine ⟨rfl, rfl, rfl, rfl, rfl, rfl, rfl, rfl, rfl, ?_⟩
  decide +kernel

end Sys2Proof.Machine
end

section
/-!
Device resets: what a cold reset, a warm reset and the FILL behind them leave, and what makes them start.
-/

namespace Sys2Proof.Machine

set_option Elab.async false

/-! ### Small facts about frames and passes -/

theorem Frame.life_eq {l : List Region} {s u : State} (h : Frame l s u) (hl : l.contains .life = false := by decide) :
    u.gl.lc = s.gl.lc ∧ u.gl.lcMram = s.gl.lcMram ∧ u.gl.lcPending = s.gl.lcPending := by
  have e : (u.gl.lc, u.gl.lcMram, u.gl.lcPending) = (s.gl.lc, s.gl.lcMram, s.gl.lcPending) :=
    h.same .life (not_mem_of_contains hl)
  simpa using e

/-- The front command of a list in flight, or one that stays: a pass that ends each command of a list says so of each. -/
theorem failCmd_said {s : State} {r : CmdRef} (hr : (findCmd s r).isSome = true) (hq : r.sq < 8192) {st : Nat}
    (h : st < 65536) :
    ∃ cq slot bytes, Sent s (failCmd r st s) (.completion r.fn cq slot bytes) ∧ fieldLe bytes 16 2 = r.tag.toNat
      ∧ fieldLe bytes 20 2 = st := by
  obtain ⟨c, hc⟩ := Option.isSome_iff_exists.mp hr
  have he : c.ref = r := findCmd_ref hc
  obtain ⟨cq, slot, bytes, hs, hb⟩ := postEntry_said c st (failR0 c) (failR1 c) false s (by rw [he]; exact hq) h
  rw [he] at hs hb
  refine ⟨cq, slot, bytes, ?_, hb⟩
  unfold failCmd complete
  simp only [hc]
  exact ((hs.frame (retire_frame c st _)).frame (abortsDone_frame _ _)).frame (fnSettle_frame _ _)

theorem failEach_frame (l : List InFlight) (st : Nat) (s : State) :
    Frame [.hq, .eng, .cy, .vol, .rdr, .sm, .ic, .out] s (forEach l (fun c x => failCmd c.ref st x) s) :=
  Frame.forEach l _ (fun c x hx => (failCmd_frame c.ref st x).comp hx (by decide)) (Frame.refl _ s)

theorem failEach_said {l : List InFlight} {st : Nat} (hst : st < 65536) {s : State}
    (ha : ∀ d ∈ s.hq.inflight, d.stage ≠ .abortOwn) {c : InFlight} (hc : c ∈ l) (hq : c.ref.sq < 8192)
    (hf : (findCmd s c.ref).isSome = true) :
    ∃ cq slot bytes, Sent s (forEach l (fun c x => failCmd c.ref st x) s) (.completion c.ref.fn cq slot bytes)
      ∧ fieldLe bytes 16 2 = c.ref.tag.toNat ∧ fieldLe bytes 20 2 = st := by
  induction l generalizing s with
  | nil => cases hc
  | cons a r ih =>
    rw [forEach_cons]
    by_cases har : a.ref = c.ref
    · obtain ⟨cq, slot, bytes, hs, hb⟩ := failCmd_said hf hq hst
      rw [har]
      exact ⟨cq, slot, bytes, hs.frame (failEach_frame r st _), hb⟩
    · have hcr : c ∈ r := by
        obtain rfl | h := List.mem_cons.mp hc
        · exact absurd rfl har
        · exact h
      have hk := Stays.failCmd a.ref st s ha
      obtain ⟨d, hd, hdr⟩ := findCmd_isSome.mp hf
      obtain ⟨e, he, her⟩ := hk.flying d hd (by rw [hdr]; exact fun h => har h.symm)
      obtain ⟨cq, slot, bytes, hs, hb⟩ := ih (hk.aborts ha) hcr (findCmd_isSome.mpr ⟨e, he, her.trans hdr⟩)
      exact ⟨cq, slot, bytes, Sent.after (failCmd_frame a.ref st s) hs, hb⟩

/-! ### What the end of a command leaves of VF Enable -/

theorem fnStart_vf (f : Fn) (s : State) : (fnStart f s).hq.vfEnable = s.hq.vfEnable := by
  unfold fnStart
  extract_lets h v r x y
  split
  · rfl
  · split
    · rfl
    · rw [(bindCq_frame _ _ _ _ _).hq_eq]; rfl

theorem fnSettle_vf (f : Fn) (s : State) : (fnSettle f s).hq.vfEnable = s.hq.vfEnable := by
  unfold fnSettle
  extract_lets h x u y
  have hy : y.hq.vfEnable = s.hq.vfEnable := by
    show x.hq.vfEnable = _
    unfold x
    rw [(unbindCq_frame _ _ _).hq_eq]; rfl
  clear_value y
  split
  · split
    · rfl
    · split
      · rw [fnStart_vf, hy]
      · exact hy
  · rfl

theorem failCmd_vf (r : CmdRef) (st : Nat) (s : State) : (failCmd r st s).hq.vfEnable = s.hq.vfEnable := by
  unfold failCmd
  split
  · rfl
  · rename_i c hc
    unfold complete
    simp only [hc]
    rw [fnSettle_vf]
    exact (((HostKept.postEntry c st _ _ _ s).trans (HostKept.retire c st _)).trans (HostKept.abortsDone c _)).vf

/-! ### Every outstanding command is aborted -/

theorem not_or_or {p q r : Prop} (h : ¬(p ∨ q ∨ r)) : ¬p ∧ ¬q ∧ ¬r :=
  ⟨fun k => h (.inl k), fun k => h (.inr (.inl k)), fun k => h (.inr (.inr k))⟩

theorem mem_insertBy {α : Type} (before : α → α → Bool) (x y : α) (l : List α) :
    y ∈ insertBy before x l ↔ y = x ∨ y ∈ l := by
  induction l with
  | nil => simp [insertBy]
  | cons a r ih =>
    unfold insertBy
    split
    · simp
    · simp only [List.mem_cons, ih]; exact or_left_comm

theorem mem_sortBy {α : Type} (before : α → α → Bool) (y : α) (l : List α) : y ∈ sortBy before l ↔ y ∈ l := by
  have loop : ∀ acc : List α, y ∈ l.foldl (fun acc x => insertBy before x acc) acc ↔ y ∈ l ∨ y ∈ acc := by
    induction l with
    | nil => simp
    | cons a r ih =>
      intro acc
      rw [List.foldl_cons, ih, mem_insertBy, List.mem_cons, or_left_comm, or_assoc]
  unfold sortBy
  simp [loop]

/-- The state in which no ABORT waits for its target any more. -/
def abortsLet (s : State) : State :=
  { s with hq := { s.hq with
    inflight := s.hq.inflight.map fun c => if c.stage = .abortOwn then { c with stage := .abortWait } else c } }

theorem abortAll_eq (s : State) : abortAll s
    = forEach (sortBy (fun a b => decide (a.order < b.order)) (abortsLet s).hq.inflight) (fun c x => failCmd c.ref 0x0006 x)
      (abortsLet s) := rfl

theorem abortAll_vf (s : State) : (abortAll s).hq.vfEnable = s.hq.vfEnable := by
  rw [abortAll_eq]
  exact forEach_keeps (fun x => x.hq.vfEnable) _ _ (fun c x => failCmd_vf _ _ _) _

theorem abortAll_said {s : State} {c : InFlight} (hc : c ∈ s.hq.inflight) (hq : c.ref.sq < 8192) :
    ∃ cq slot bytes, Sent s (abortAll s) (.completion c.ref.fn cq slot bytes) ∧ fieldLe bytes 16 2 = c.ref.tag.toNat
      ∧ fieldLe bytes 20 2 = 0x0006 := by
  have ha : ∀ d ∈ (abortsLet s).hq.inflight, d.stage ≠ .abortOwn := by
    intro d hd
    obtain ⟨e, -, rfl⟩ := List.mem_map.mp hd
    split
    · simp
    · assumption
  obtain ⟨d, hd, hdr⟩ : ∃ d ∈ (abortsLet s).hq.inflight, d.ref = c.ref :=
    ⟨_, List.mem_map_of_mem hc, by split <;> rfl⟩
  rw [abortAll_eq, ← hdr]
  exact failEach_said (s := abortsLet s) (by omega) ha ((mem_sortBy _ _ _).mpr hd) (by rw [hdr]; exact hq)
    (findCmd_isSome.mpr ⟨d, hd, rfl⟩)

/-! ### FILL -/

/-- Phases 0 to 3 of FILL. -/
def fillLinked (warm : Bool) (env : BringUp) (s : State) : State :=
  fillLinks warm env (patchCheck (fillBoot (setMode .fill s)))

/-- The end of FILL: PHASE 4, the outputs on, and IDLE. -/
def fillIdle (s : State) : State :=
  setMode .idle { s with
    gl := { s.gl with phase := 4, resetWait := none, lcPending := none, wipeDue := false }
    pins := { s.pins with outputs := true } }

/-- What follows FILL: a cause that holds is latched. -/
def fillLatched (s : State) : State := { s with gl := { s.gl with latched := s.gl.latched ||| (liveBits s).setWidth 7 } }

theorem fillRun_eq (warm : Bool) (env : BringUp) (s : State) :
    fillRun warm env s
      = senseFastAll (if (fillLatched (fillIdle (fillLinked warm env s))).gl.latched = 0
          then fillLatched (fillIdle (fillLinked warm env s)) else enterHold (fillLatched (fillIdle (fillLinked warm env s)))) :=
  rfl

theorem setMode_gl_any (m : Mode) (s : State) :
    ∃ p t, (setMode m s).gl = { s.gl with prev := p, cur := m, modeTs := t } := by
  by_cases h : s.gl.cur = m
  · exact ⟨s.gl.prev, s.gl.modeTs, by rw [setMode_same h, ← h]⟩
  · exact ⟨_, _, setMode_gl h⟩

theorem lcWipe_gl (tgt : Nat) (s : State) : (lcWipe tgt s).gl = { s.gl with lossRec := none, wipeDue := false } := by
  unfold lcWipe
  extract_lets _ x _ _ y
  split
  · rw [forEach_keeps (fun z => z.gl) _ _ (fun m z => (setHead_frame m _ z).gl_eq)]
  · rfl

theorem fillBoot_gl (s : State) :
    (fillBoot s).gl.latched = s.gl.latched ∧ (fillBoot s).gl.moving = s.gl.moving ∧ (fillBoot s).gl.locked = s.gl.locked
      ∧ (fillBoot s).gl.lc = s.gl.lcMram ∧ (fillBoot s).gl.lcMram = s.gl.lcMram := by
  unfold fillBoot
  extract_lets x vals
  obtain ⟨hl, hm, hk, hc⟩ : x.gl.latched = s.gl.latched ∧ x.gl.moving = s.gl.moving ∧ x.gl.locked = s.gl.locked
      ∧ x.gl.lcMram = s.gl.lcMram := by
    unfold x
    split
    · rw [lcWipe_gl]; exact ⟨rfl, rfl, rfl, rfl⟩
    · exact ⟨rfl, rfl, rfl, rfl⟩
  exact ⟨hl, hm, hk, hc, hc⟩

theorem patchCheck_gl (s : State) : ∃ p, (patchCheck s).gl = { s.gl with patched := p } := by
  unfold patchCheck
  extract_lets cause
  split
  · exact ⟨s.gl.patched, rfl⟩
  · split
    · exact ⟨true, rfl⟩
    · exact ⟨s.gl.patched, by rw [(bundleReject_frame _ _).gl_eq]⟩

/-- Bring-up writes SEEDED and HEALTH_FAIL of the cipher block and, at a cold start, the links of the Sheet Port. -/
theorem fillLinks_parts (warm : Bool) (env : BringUp) (s : State) :
    (fillLinks warm env s).cy = { s.cy with seeded := env.entropyOk, health := !env.entropyOk }
      ∧ (∃ v, (fillLinks warm env s).gl = { s.gl with liveSheet := v })
      ∧ (warm = true → (fillLinks warm env s).sp = s.sp) := by
  unfold fillLinks
  extract_lets lanes x₁ x₂ x₃ x₄ _ x₅ x₆ y₁ _ y₂
  have h₁ : Frame [.crew, .wr, .rch, .sv, .lk, .ic, .spill, .ev, .out] s x₁ :=
    Frame.forEach _ _ (fun l y hy => (sessionAdvance_frame _ _).comp ((laneTrain_frame _ _).comp hy (by decide)) (by decide))
      (Frame.refl _ _)
  have h₂ : Frame [.crew, .wr, .rch, .sv, .lk, .ic, .spill, .ev, .out] s x₂ :=
    Frame.forEach _ _ (fun d y hy => (setDie_frame _ _ _).comp hy (by decide)) h₁
  have h₃ : Frame [.crew, .wr, .rch, .sv, .lk, .ic, .spill, .ev, .out] s x₃ := by
    refine Frame.forEach _ _ (fun p y hy => ?_) h₂
    have hf : ∀ r, Frame [.crew, .wr, .rch, .sv, .lk, .ic, .spill, .ev, .out] s (headFound p.2 r y) :=
      fun r => (headFound_frame _ _ _).comp hy (by decide)
    exact Frame.ite hy
      (Frame.ite (Frame.forEach _ _ (fun l z hz => (setLane_frame _ _ _).comp hz (by decide)) (hf _)) (hf _))
  have h₄ : Frame [.crew, .wr, .rch, .sv, .lk, .ic, .spill, .ev, .out] s x₄ := (bumpEpochs_frame _ _).comp h₃ (by decide)
  clear_value x₄
  have hn : Frame [.se, .fresh] x₅ x₆ := freshNonce_frame x₅
  have hcy : x₆.cy = { s.cy with seeded := env.entropyOk, health := !env.entropyOk } := by
    rw [hn.cy_eq, ← h₄.cy_eq]
  have hgl : x₆.gl = s.gl := hn.gl_eq.trans h₄.gl_eq
  have hsp : x₆.sp = s.sp := hn.sp_eq.trans h₄.sp_eq
  have hy : Frame [.sv, .ce, .sp] x₆ y₁ := fillLoads_frame x₆
  clear_value x₆ y₁
  cases warm with
  | true => exact ⟨hcy, ⟨s.gl.liveSheet, hgl⟩, fun _ => hsp⟩
  | false =>
    have key : ∀ v, ({ y₂.gl with liveSheet := v } : Global) = { s.gl with liveSheet := v } := fun v => by
      rw [show y₂.gl = s.gl from hy.gl_eq.trans hgl]
    exact ⟨hy.cy_eq.trans hcy, ⟨_, key _⟩, nofun⟩

/-- What phases 0 to 3 of FILL leave of the parts that its end and the resets speak of. -/
structure FillLinked (warm : Bool) (env : BringUp) (s u : State) : Prop where
  tb : u.tb = s.tb
  latched : u.gl.latched = s.gl.latched
  moving : u.gl.moving = s.gl.moving
  locked : u.gl.locked = s.gl.locked
  lc : u.gl.lc = s.gl.lcMram ∧ u.gl.lcMram = s.gl.lcMram
  pins : u.pins = s.pins
  hq : u.hq = s.hq
  cy : u.cy = { s.cy with seeded := env.entropyOk, health := !env.entropyOk }
  sp : warm = true → u.sp = s.sp

theorem fillLinked_parts (warm : Bool) (env : BringUp) (s : State) : FillLinked warm env s (fillLinked warm env s) := by
  unfold fillLinked
  obtain ⟨m, t, hm⟩ := setMode_gl_any .fill s
  have fm := setMode_frame .fill s
  generalize setMode .fill s = a at hm fm ⊢
  have hb := fillBoot_gl a
  have fb := fillBoot_frame a
  generalize fillBoot a = b at hb fb ⊢
  obtain ⟨p, hp⟩ := patchCheck_gl b
  have fp := patchCheck_frame b
  generalize patchCheck b = c at hp fp ⊢
  obtain ⟨hcy, ⟨v, hgl⟩, hsp⟩ := fillLinks_parts warm env c
  have fl := fillLinks_frame warm env c
  generalize fillLinks warm env c = d at hcy hgl hsp fl ⊢
  obtain ⟨b1, b2, b3, b4, b5⟩ := hb
  rw [hm] at b1 b2 b3 b4 b5
  refine ⟨?_, ?_, ?_, ?_, ?_, ?_, ?_, ?_, fun hw => ?_⟩
  · rw [fl.tb_eq, fp.tb_eq, fb.tb_eq, fm.tb_eq]
  · rw [hgl, hp]; exact b1
  · rw [hgl, hp]; exact b2
  · rw [hgl, hp]; exact b3
  · rw [hgl, hp]; exact ⟨b4, b5⟩
  · rw [fl.pins_eq, fp.pins_eq, fb.pins_eq, fm.pins_eq]
  · rw [fl.hq_eq, fp.hq_eq, fb.hq_eq, fm.hq_eq]
  · rw [hcy, fp.cy_eq, fb.cy_eq, fm.cy_eq]
  · rw [hsp hw, fp.sp_eq, fb.sp_eq, fm.sp_eq]

theorem liveBits_pins (s : State) :
    (s.pins.holdInN = false → (liveBits s).getLsbD 1 = true) ∧ (s.pins.pwrWarnN = false → (liveBits s).getLsbD 2 = true) := by
  unfold liveBits
  generalize liveCrit s = a
  generalize s.gl.liveSheet = d
  generalize liveServo s = e
  generalize s.gl.liveFetch = f
  refine ⟨fun h => ?_, fun h => ?_⟩
  · rw [h]
    generalize s.pins.pwrWarnN = c
    revert a c d e f; decide
  · rw [h]
    generalize s.pins.holdInN = c
    revert a c d e f; decide

/-- With no command in flight the passes of R30 over the commands have nothing to end. -/
theorem holdCommands_idle {s : State} (h : s.hq.inflight = []) : holdCommands s = s := by
  have hs : { s with hq := { s.hq with inflight := [] } } = s := by rw [← h]
  unfold holdCommands
  extract_lets _ x ends y fl
  have hx : x = s := by unfold x; rw [h]; exact hs
  have hy : y = s := by
    have he : ends = [] := by unfold ends; rw [hx, h]; rfl
    unfold y; rw [he]; exact hx
  have hf : fl = [] := by
    unfold fl
    rw [hy, List.filter_eq_nil_iff]
    intro w _
    unfold findCmd
    rw [h]
    simp
  rw [hf]
  exact hy

/-- With no command in flight an entry to HOLD touches no queue and no key. -/
theorem enterHold_idle_frame {s : State} (h : s.hq.inflight = []) :
    Frame [.gl, .crew, .vol, .wr, .sm, .sv, .ce, .ic, .spill, .ev, .out] s (enterHold s) := by
  unfold enterHold
  extract_lets a b c d _ e
  have ha : Frame [.gl, .crew, .vol, .wr, .sm, .sv, .ce, .ic, .spill, .ev, .out] s a :=
    (endSessions_frame _).comp (dropBurst_frame s).widen (by decide)
  have hb : Frame [.gl, .crew, .vol, .wr, .sm, .sv, .ce, .ic, .spill, .ev, .out] s b := (setMode_frame _ _).comp ha (by decide)
  have hc : Frame [.gl, .crew, .vol, .wr, .sm, .sv, .ce, .ic, .spill, .ev, .out] s c := (event_frame ..).comp hb (by decide)
  have hd : Frame [.gl, .crew, .vol, .wr, .sm, .sv, .ce, .ic, .spill, .ev, .out] s d := (closeGates_frame _).comp hc (by decide)
  clear_value d
  have he : Frame [.sm] d e := by
    refine ⟨fun b hb => ?_, List.suffix_refl _⟩
    cases b <;> first | exact absurd (by decide) hb | exact refs_id rfl | rfl
  have hh : e.hq.inflight = [] := by rw [(he.comp hd (by decide)).hq_eq, h]
  rw [holdCommands_idle hh]
  exact he.comp hd (by decide)

/-- What FILL leaves of the parts that the resets speak of. -/
structure FillRan (warm : Bool) (env : BringUp) (s u : State) : Prop where
  tb : u.tb = s.tb
  phase : u.gl.phase = 4
  outputs : u.pins.outputs = true
  lc : u.gl.lc = s.gl.lcMram ∧ u.gl.lcMram = s.gl.lcMram
  none : u.gl.lcPending = none ∧ u.gl.resetWait = none
  moving : u.gl.moving = s.gl.moving
  locked : u.gl.locked = s.gl.locked
  cur : u.gl.cur = if u.gl.latched = 0 then .idle else .hold
  latched : ∀ b, s.gl.latched.getLsbD b = true → u.gl.latched.getLsbD b = true
  holdIn : s.pins.holdInN = false → u.gl.latched.getLsbD 1 = true
  pwrWarn : s.pins.pwrWarnN = false → u.gl.latched.getLsbD 2 = true
  seeded : u.gl.cur = .idle → u.cy.seeded = env.entropyOk
  idle : s.hq.inflight = [] → u.hq = s.hq ∧ u.cy = { s.cy with seeded := env.entropyOk, health := !env.entropyOk }
  sp : warm = true → u.sp = s.sp

theorem fillIdle_frame (s : State) : Frame [.gl, .life, .pins, .crew, .ce, .ic] s (fillIdle s) := by
  refine (setMode_frame _ _).comp ?_ (by decide)
  refine ⟨fun b hb => ?_, List.suffix_refl _⟩
  cases b <;> first | exact absurd (by decide) hb | exact refs_id rfl | rfl

theorem fillIdle_gl (s : State) : ∃ p t, (fillIdle s).gl
    = { s.gl with prev := p, cur := .idle, modeTs := t, phase := 4, resetWait := none, lcPending := none, wipeDue := false } :=
  setMode_gl_any .idle _

theorem fillIdle_pins (s : State) : (fillIdle s).pins = { s.pins with outputs := true } := (setMode_frame .idle _).pins_eq

/-- A latched cause sends the device to HOLD behind FILL (R22). -/
def fillHold (s : State) : State := senseFastAll (if s.gl.latched = 0 then s else enterHold s)

theorem fillHold_gl {s : State} (h : s.gl.cur = .idle) :
    ∃ p t, (fillHold s).gl = { s.gl with prev := p, cur := if s.gl.latched = 0 then .idle else .hold, modeTs := t } := by
  unfold fillHold
  rw [(senseFastAll_frame _).gl_eq]
  split
  · exact ⟨s.gl.prev, s.gl.modeTs, by rw [← h]⟩
  · exact ⟨_, _, enterHold_gl (by rw [h]; decide)⟩

theorem fillHold_frame (s : State) :
    Frame [.gl, .crew, .hq, .eng, .cy, .vol, .wr, .rdr, .sm, .sv, .ce, .ic, .spill, .ev, .out] s (fillHold s) :=
  (senseFastAll_frame _).comp (Frame.ite (Frame.refl _ _) (enterHold_frame s)) (by decide)

theorem fillHold_idle {s : State} (h : s.gl.latched = 0) : (fillHold s).cy = s.cy := by
  unfold fillHold
  rw [if_pos h, (senseFastAll_frame s).cy_eq]

theorem fillHold_alone {s : State} (h : s.hq.inflight = []) : (fillHold s).hq = s.hq ∧ (fillHold s).cy = s.cy := by
  have f : Frame [.gl, .crew, .vol, .wr, .sm, .sv, .ce, .ic, .spill, .ev, .out] s (fillHold s) :=
    (senseFastAll_frame _).comp (Frame.ite (Frame.refl _ _) (enterHold_idle_frame h)) (by decide)
  exact ⟨f.hq_eq, f.cy_eq⟩

theorem fillRun_parts (warm : Bool) (env : BringUp) (s : State) : FillRan warm env s (fillRun warm env s) := by
  rw [show fillRun warm env s = fillHold (fillLatched (fillIdle (fillLinked warm env s))) from fillRun_eq warm env s]
  have hk := fillLinked_parts warm env s
  generalize fillLinked warm env s = k at hk ⊢
  obtain ⟨p, t, hi⟩ := fillIdle_gl k
  have hp := fillIdle_pins k
  have hf := fillIdle_frame k
  generalize fillIdle k = i at hi hp hf ⊢
  have hl := liveBits_pins i
  have hg : (fillLatched i).gl = { i.gl with latched := i.gl.latched ||| (liveBits i).setWidth 7 } := rfl
  have hz : Frame [.gl] i (fillLatched i) := by
    refine ⟨fun b hb => ?_, List.suffix_refl _⟩
    cases b <;> first | exact absurd (by decide) hb | exact refs_id rfl | rfl
  generalize liveBits i = live at hl hg
  generalize fillLatched i = z at hg hz ⊢
  have hzc : z.gl.cur = .idle := by rw [hg, hi]
  obtain ⟨q, t', hu⟩ := fillHold_gl hzc
  have fu := fillHold_frame z
  have f : Frame [.gl, .life, .pins, .crew, .hq, .eng, .cy, .vol, .wr, .rdr, .sm, .sv, .ce, .ic, .spill, .ev, .out] k (fillHold z) :=
    fu.comp (hz.comp hf.widen (by decide)) (by decide)
  have hc := fillHold_idle (s := z)
  have ha := fillHold_alone (s := z)
  generalize fillHold z = u at hu fu f hc ha ⊢
  have hul : u.gl.latched = s.gl.latched ||| live.setWidth 7 := by rw [hu, hg, hi]; exact congrArg (· ||| _) hk.latched
  have hzl : z.gl.latched = u.gl.latched := by rw [hu]
  have hpins : u.pins = { s.pins with outputs := true } := by rw [fu.pins_eq, hz.pins_eq, hp, hk.pins]
  have hzcy : z.cy = { s.cy with seeded := env.entropyOk, health := !env.entropyOk } := by
    rw [hz.cy_eq, hf.cy_eq, hk.cy]
  rw [hp, hk.pins] at hl
  refine ⟨?_, ?_, ?_, ?_, ?_, ?_, ?_, ?_, fun b hb => ?_, fun h => ?_, fun h => ?_, fun h => ?_, fun h => ?_, fun h => ?_⟩
  · rw [f.tb_eq, hk.tb]
  · rw [hu, hg, hi]
  · rw [hpins]
  · rw [hu, hg, hi]; exact hk.lc
  · rw [hu, hg, hi]; exact ⟨rfl, rfl⟩
  · rw [hu, hg, hi]; exact hk.moving
  · rw [hu, hg, hi]; exact hk.locked
  · rw [hu]
  · rw [hul, BitVec.getLsbD_or, hb]; rfl
  · rw [hul, BitVec.getLsbD_or, BitVec.getLsbD_setWidth, hl.1 h]; simp
  · rw [hul, BitVec.getLsbD_or, BitVec.getLsbD_setWidth, hl.2 h]; simp
  · have h0 : z.gl.latched = 0 := by
      have h' : (if z.gl.latched = 0 then Mode.idle else .hold) = .idle := by rw [hu] at h; exact h
      refine Classical.byContradiction fun hne => ?_
      rw [if_neg hne] at h'
      cases h'
    rw [hc h0, hzcy]
  · have hin : z.hq = s.hq := by rw [hz.hq_eq, hf.hq_eq, hk.hq]
    obtain ⟨hhq, hcy⟩ := ha (by rw [hin]; exact h)
    exact ⟨hhq.trans hin, hcy.trans hzcy⟩
  · rw [f.sp_eq, hk.sp h]

/-- Settles O15: what FILL leaves, read off its phases and the entry to HOLD behind it. -/
theorem startUp : Obligations.StartUp := by
  unfold Obligations.StartUp
  intro t env s hpin hlock hpll hsup hth hcur
  have he : exec (.rootPllLock t env) s = .next (fillRun false env { s with tb := t, gl := { s.gl with locked := true } }) := by
    change execRootPllLock t env s = _
    unfold execRootPllLock
    rw [if_neg (by simp [hpin, hlock, hpll, hsup, hth, hcur])]
  have hr := fillRun_parts false env { s with tb := t, gl := { s.gl with locked := true } }
  generalize fillRun false env _ = u at he hr
  exact ⟨u, he, hr.tb, hr.locked, hr.phase, hr.outputs, hr.lc.1.trans hr.lc.2.symm, hr.lc.2, hr.none.1, hr.none.2, hr.cur,
    hr.latched, hr.holdIn, hr.pwrWarn, hr.seeded⟩

/-- What a request made during the reset does behind it, with no other waiting and the tape at rest. -/
theorem warmEnd_parts (w : ResetWait) {s : State} (hr : s.gl.resetWait = none) (hm : s.gl.moving = false) :
    Frame [.gl, .se] s (warmEnd w s)
      ∧ ∃ r c, (warmEnd w s).gl = { s.gl with resetWait := r, resetCause := c } := by
  have hx : Frame [.se] s (if w.cause = 4 then { s with se := { s.se with jtagOpen := true } } else s) := by
    refine Frame.ite ⟨fun b hb => ?_, List.suffix_refl _⟩ (Frame.refl _ _)
    cases b <;> first | exact absurd (by decide) hb | exact refs_id rfl | rfl
  unfold warmEnd
  extract_lets _ x
  have hg : x.gl = s.gl := hx.gl_eq
  change Frame [.se] s x at hx
  clear_value x
  split
  · exact ⟨hx.widen, s.gl.resetWait, s.gl.resetCause, hg⟩
  · rename_i c hc
    have he : requestReset c x = { x with gl := { x.gl with resetWait := some { cause := c, again := none }, resetCause := c } } := by
      unfold requestReset
      rw [hg, hr]
      simp only [hm, Bool.false_eq_true, if_false]
    rw [he]
    have hx' : Frame [.gl, .se] s x := hx.widen
    have f : Frame [.gl] x { x with gl := { x.gl with resetWait := some { cause := c, again := none }, resetCause := c } } := by
      refine ⟨fun b hb => ?_, List.suffix_refl _⟩
      cases b <;> first | exact absurd (by decide) hb | exact refs_id rfl | rfl
    exact ⟨f.comp hx' (by decide), _, _, by rw [hg]⟩


/-- What a warm reset leaves up to FILL: the reset of the host interface but VF Enable and of the cipher block, the Sheet
Port, and in MRAM the life-cycle state that was pending. -/
structure WarmWiped (s u : State) : Prop where
  hq : u.hq = { Hq.reset with vfEnable := s.hq.vfEnable }
  cy : u.cy = Cipher.reset
  sp : u.sp = s.sp
  moving : u.gl.moving = s.gl.moving
  done : ∀ tgt, s.gl.lcPending = some tgt → u.gl.lcMram = tgt
  kept : s.gl.lcPending = none → u.gl.lcMram = s.gl.lcMram
  out : u.out = (abortAll s).out

theorem warmWiped_parts (w : ResetWait) (s : State) : WarmWiped s (warmWiped w s) := by
  have fa := abortAll_frame s
  have hv := abortAll_vf s
  obtain ⟨q, t, hm⟩ := setMode_gl_any .reset (abortAll s)
  have fm := setMode_frame .reset (abortAll s)
  unfold warmWiped
  generalize ha : abortAll s = a at fa hv hm fm ⊢
  generalize setMode .reset a = m at hm fm ⊢
  have hg : m.gl.moving = s.gl.moving ∧ m.gl.lcMram = s.gl.lcMram ∧ m.gl.lcPending = s.gl.lcPending := by
    have e : a.gl.moving = s.gl.moving := congrArg Global.moving fa.gl_eq
    rw [hm]; exact ⟨e, fa.life_eq.2.1, fa.life_eq.2.2⟩
  have hhq : (warmState w.cause m).hq = { Hq.reset with vfEnable := s.hq.vfEnable } := by
    rw [← hv, ← fm.hq_eq]; rfl
  have hsp : (warmState w.cause m).sp = s.sp := by rw [← fa.sp_eq, ← fm.sp_eq]; rfl
  have hcy : (warmState w.cause m).cy = Cipher.reset := rfl
  have hgl : (warmState w.cause m).gl.moving = s.gl.moving ∧ (warmState w.cause m).gl.lcMram = s.gl.lcMram
      ∧ (warmState w.cause m).gl.lcPending = s.gl.lcPending := hg
  have hout : (warmState w.cause m).out = (abortAll s).out := by rw [ha]; exact fm.out_eq
  generalize warmState w.cause m = x at hhq hsp hcy hgl hout ⊢
  obtain ⟨hmv, hlm, hlp⟩ := hgl
  dsimp only
  split
  · rename_i hn
    have hn' : s.gl.lcPending = none := hlp.symm.trans hn
    exact ⟨hhq, hcy, hsp, hmv, fun tgt h => (by rw [hn'] at h; cases h), fun _ => hlm, hout⟩
  · rename_i tgt hp
    have hp' : s.gl.lcPending = some tgt := hlp.symm.trans hp
    have f := lcWipe_frame tgt.toNat { x with gl := { x.gl with lcMram := tgt } }
    refine ⟨f.hq_eq.trans hhq, f.cy_eq.trans hcy, f.sp_eq.trans hsp, ?_, fun t ht => ?_, fun h => ?_, f.out_eq.trans hout⟩
    · rw [lcWipe_gl]; exact hmv
    · rw [hp'] at ht; cases ht; rw [lcWipe_gl]
    · rw [hp'] at h; cases h

/-- Settles O16: every command in flight ends in the pass of R38, the reset leaves no queue and no key, and FILL runs with
no command in flight, so that it leaves both as they are. -/
theorem warmResetRuns : Obligations.WarmResetRuns := by
  unfold Obligations.WarmResetRuns
  intro t env s w hw hm
  have hsaid : ∀ c ∈ (advance t s).hq.inflight, c.ref.sq < 8192 → _ := fun c hc hq => abortAll_said hc hq
  refine ⟨_, execWarmResetStart_eq hw hm, ?_⟩
  have hx := warmWiped_parts w (advance t s)
  generalize warmWiped w (advance t s) = x at hx ⊢
  have hr := fillRun_parts true env x
  have fr := fillRun_frame true env x
  generalize fillRun true env x = y at hr fr ⊢
  obtain ⟨hhq, hcy⟩ := hr.idle (by rw [hx.hq]; rfl)
  rw [hx.hq, advance_hq] at hhq
  rw [hx.cy] at hcy
  obtain ⟨fe, r, c, hgl⟩ := warmEnd_parts w hr.none.2 (by rw [hr.moving, hx.moving, advance_gl, hm])
  generalize warmEnd w y = u at fe hgl ⊢
  have hu : u.hq = { Hq.reset with vfEnable := s.hq.vfEnable } := fe.hq_eq.trans hhq
  have hk : u.cy.slots = [] ∧ u.cy.keks = [] := by rw [fe.cy_eq, hcy]; exact ⟨rfl, rfl⟩
  have hlc : u.gl.lc = x.gl.lcMram ∧ u.gl.lcMram = x.gl.lcMram := by rw [hgl]; exact hr.lc
  refine ⟨fun c hc hq => ?_, fun r => ?_, by rw [hu]; rfl, by rw [hu]; rfl, by rw [hu]; rfl, hk.1, hk.2, ?_, ?_, ?_,
    fun tgt ht => ?_, fun hn => ?_, by rw [hu], ?_⟩
  · obtain ⟨cq, slot, bytes, hs, hb⟩ := hsaid c (by rw [advance_hq]; exact hc) hq
    refine ⟨cq, slot, bytes, ((Sent.after (advance_frame t s) ?_).frame fr).frame fe, hb⟩
    unfold Sent at hs ⊢
    rwa [hx.out]
  · unfold findCmd; rw [hu]; rfl
  · rw [hgl]; exact hr.phase
  · rw [hgl]; exact hr.cur
  · rw [hgl]; exact hr.none.1
  · have h := hx.done tgt (by rw [advance_gl]; exact ht)
    exact ⟨hlc.1.trans h, hlc.2.trans h⟩
  · rw [hlc.2, hx.kept (by rw [advance_gl]; exact hn), advance_gl]
  · rw [fe.sp_eq, hr.sp rfl, hx.sp, advance_sp]

/-! ### Cold resets -/

theorem enterReset_cold (s : State) : ColdReset s (enterReset s) := by
  obtain he | he | ⟨tgt, ht, he⟩ := enterReset_cases s <;> rw [he]
  · exact ⟨⟨rfl, rfl, rfl, rfl⟩, rfl, rfl, ⟨rfl, rfl, rfl, rfl, rfl⟩, ⟨rfl, rfl, rfl, rfl, rfl⟩, ⟨rfl, rfl, rfl, rfl, rfl⟩,
      rfl, ⟨rfl, rfl, rfl, rfl⟩, ⟨rfl, rfl, rfl⟩, .inl rfl⟩
  · exact ⟨⟨rfl, rfl, rfl, rfl⟩, rfl, rfl, ⟨rfl, rfl, rfl, rfl, rfl⟩, ⟨rfl, rfl, rfl, rfl, rfl⟩, ⟨rfl, rfl, rfl, rfl, rfl⟩,
      rfl, ⟨rfl, rfl, rfl, rfl⟩, ⟨rfl, rfl, rfl⟩, .inl rfl⟩
  · exact ⟨⟨rfl, rfl, rfl, rfl⟩, rfl, rfl, ⟨rfl, rfl, rfl, rfl, rfl⟩, ⟨rfl, rfl, rfl, rfl, rfl⟩, ⟨rfl, rfl, rfl, rfl, rfl⟩,
      rfl, ⟨rfl, rfl, rfl, rfl⟩, ⟨rfl, rfl, rfl⟩, .inr ht⟩

theorem enterReset_pins (s : State) : (enterReset s).pins = { s.pins with outputs := false } := by
  obtain he | he | ⟨tgt, -, he⟩ := enterReset_cases s <;> rw [he] <;> rfl

/-- The pins that are sensed and the lock of the PLL are no part of what a cold reset resets. -/
theorem ColdReset.repin {s u : State} (h : ColdReset s u) {p : Pins} (hp : p.outputs = false) (k : Bool) :
    ColdReset s { u with pins := p, gl := { u.gl with locked := k } } :=
  ⟨h.mode, hp, h.out, h.host, h.data, h.motion, h.mem, h.patch, h.kept, h.life⟩

theorem ColdReset.of_same {s x u : State} (h : ColdReset x u) (hg : x.gl = s.gl) (f : Frame [.tb, .pins] s x) : ColdReset s u := by
  refine ⟨h.mode, h.outputs, h.out.trans f.out_eq, h.host, h.data, h.motion, ?_, ?_, ?_, ?_⟩
  · rw [h.mem, f.mi_eq]
  · rw [← f.se_eq]; exact h.patch
  · rw [← f.crew_eq, ← f.par_eq, ← f.logs_eq]; exact h.kept
  · rw [← hg]; exact h.life

theorem advance_tb_frame (t : Time) (s : State) : Frame [.tb, .pins] s (advance t s) := (advance_frame t s).widen

/-- Settles O11: each of the four enters RESET and then sets the pin, or the fault, that made it. -/
theorem coldResetCommands : Obligations.ColdResetCommands := by
  unfold Obligations.ColdResetCommands
  refine ⟨fun t s hp => ?_, fun t s hl => ?_, fun t s hp hs => ?_, fun t temps s hp ht hot => ?_⟩
  · have hc := (enterReset_cold (advance t s)).of_same (advance_gl t s) (advance_tb_frame t s)
    have e : exec (.perstNFall t) s = .next { enterReset (advance t s) with
        pins := { (enterReset (advance t s)).pins with perstN := false, supply := false }
        gl := { (enterReset (advance t s)).gl with locked := false } } := if_neg (by simp [hp])
    exact ⟨_, e, hc.repin (p := { (enterReset (advance t s)).pins with perstN := false, supply := false }) hc.outputs false, rfl⟩
  · have hc := (enterReset_cold (advance t s)).of_same (advance_gl t s) (advance_tb_frame t s)
    have e : exec (.refClkLoss t) s = .next { enterReset (advance t s) with
        pins := { (enterReset (advance t s)).pins with pllLost := true }
        gl := { (enterReset (advance t s)).gl with locked := false } } := if_neg (by simp [hl])
    exact ⟨_, e, hc.repin (p := { (enterReset (advance t s)).pins with pllLost := true }) hc.outputs false, rfl, rfl⟩
  · have hc := (enterReset_cold (advance t s)).of_same (advance_gl t s) (advance_tb_frame t s)
    have e : exec (.supplyMonitorTrip t) s = .next { enterReset (advance t s) with
        pins := { (enterReset (advance t s)).pins with supply := true }
        gl := { (enterReset (advance t s)).gl with locked := false } } := if_neg (by simp [hp, hs])
    refine ⟨_, e, hc.repin (p := { (enterReset (advance t s)).pins with supply := true }) hc.outputs false, rfl, ?_⟩
    have hpin : (enterReset (advance t s)).pins.perstN = true := by rw [enterReset_pins, advance_pins]; exact hp
    simp [faultLow, hpin]
  · obtain ⟨p, hpp⟩ : ∃ p : Pins, p = { (advance t s).pins with
        temps := temps, hot := anyAtLeast temps 1840 || ((advance t s).pins.hot && !allBelow temps 1760) } := ⟨_, rfl⟩
    have hc : ColdReset s (enterReset { advance t s with pins := p }) := by
      refine (enterReset_cold _).of_same (advance_gl t s) (Frame.upd ?_ (advance_tb_frame t s))
      refine ⟨fun b hb => ?_, List.suffix_refl _⟩
      cases b <;> first | exact absurd (by decide) hb | exact refs_id rfl | rfl
    have hany : anyAtLeast temps 2000 = true := by
      obtain ⟨x, hx, h⟩ := hot
      exact List.any_eq_true.mpr ⟨x, hx, decide_eq_true h⟩
    have e : exec (.tempUpdate t temps) s = .next { enterReset { advance t s with pins := p } with
        pins := { (enterReset { advance t s with pins := p }).pins with thermal := true } } := by
      rw [hpp]
      exact if_pos (by simp [hany, hp, ht])
    clear hpp
    exact ⟨_, e, hc.repin (p := { (enterReset { advance t s with pins := p }).pins with thermal := true }) hc.outputs
      (enterReset { advance t s with pins := p }).gl.locked, rfl, by simp [faultLow]⟩

/-! ### The stop pins -/

/-- What a HOLD cause leaves of the mode registers: its LATCHED bit, and HOLD outside RESET, FILL and HOLD (R22, R28). -/
theorem holdCause_modes (b : Nat) (s : State) :
    (holdCause b s).gl.latched = s.gl.latched ||| BitVec.ofNat 7 (2 ^ b)
      ∧ (s.gl.cur ≠ .reset ∧ s.gl.cur ≠ .fill ∧ s.gl.cur ≠ .hold → (holdCause b s).gl.cur = .hold ∧ (holdCause b s).gl.prev = s.gl.cur)
      ∧ (s.gl.cur = .reset ∨ s.gl.cur = .fill ∨ s.gl.cur = .hold →
        (holdCause b s).gl.cur = s.gl.cur ∧ (holdCause b s).gl.prev = s.gl.prev)
      ∧ ((holdCause b s).gl.lossCount = s.gl.lossCount ∧ (holdCause b s).gl.moving = s.gl.moving
        ∧ (holdCause b s).gl.resetWait = s.gl.resetWait ∧ (holdCause b s).gl.resetCause = s.gl.resetCause) := by
  by_cases h : s.gl.cur = .reset ∨ s.gl.cur = .fill ∨ s.gl.cur = .hold
  · rw [holdCause_gl_stay b h]
    refine ⟨rfl, fun k => ?_, fun _ => ⟨rfl, rfl⟩, rfl, rfl, rfl, rfl⟩
    obtain ⟨k1, k2, k3⟩ := k
    rcases h with h | h | h <;> contradiction
  · have h' : s.gl.cur ≠ .reset ∧ s.gl.cur ≠ .fill ∧ s.gl.cur ≠ .hold := not_or_or h
    rw [holdCause_gl b h']
    exact ⟨rfl, fun _ => ⟨rfl, rfl⟩, fun k => absurd k h, rfl, rfl, rfl, rfl⟩

theorem stopArm_sent {s : State} {n : Nat} (data : Nat) (hn : n < 24) (he : linkEnabled s n = true) :
    Sent s (stopArm data s) (.packet n 4 (BitVec.ofNat 32 (2 + data * 256))) := by
  have loop : ∀ (l : List Nat) (x : State), n ∈ l →
      Sent x (forEach l (fun n s => emit (.packet n 4 (BitVec.ofNat 32 (2 + data * 256))) s) x)
        (.packet n 4 (BitVec.ofNat 32 (2 + data * 256))) := by
    intro l
    induction l with
    | nil => exact fun x h => absurd h (List.not_mem_nil)
    | cons a r ih =>
      intro x h
      rw [forEach_cons]
      obtain rfl | hr := List.mem_cons.mp h
      · exact (Sent.emit _ x).frame
          (Frame.forEach (l := [.out]) r _ (fun m y hy => (emit_frame _ _).comp hy (by decide)) (Frame.refl _ _))
      · exact Sent.after (emit_frame _ x) (ih _ hr)
  exact loop _ s (List.mem_filter.mpr ⟨List.mem_range.mpr hn, he⟩)

/-- The record of R32: the instants, the mode, the count and the roster digest. -/
theorem storeLoss_stored (mode : Nat) (o : Bool) (s : State) :
    (storeLoss mode o s).gl.lossCount = s.gl.lossCount + 1
      ∧ ∃ r, (storeLoss mode o s).gl.lossRec = some r ∧ r.mode = BitVec.ofNat 8 mode ∧ r.tbWarn = s.tb ∧ r.tbStored = s.tb
        ∧ r.count = s.gl.lossCount + 1 ∧ r.roster = sha256 (rosterBytes s) :=
  ⟨rfl, _, rfl, rfl, rfl, rfl, rfl, rfl⟩

theorem rosterBytes_congr {s u : State} (h : u.crew.roster = s.crew.roster) : rosterBytes u = rosterBytes s := by
  unfold rosterBytes
  simp only [crewOf_congr h]

theorem modeCode_lt (m : Mode) : modeCode m < 256 := by cases m <;> decide

/-- Settles O13: the pin's fall is a HOLD cause, and what PWR_WARN_N stores and sends follows it. -/
theorem stopPinsEnterHold : Obligations.StopPinsEnterHold := by
  unfold Obligations.StopPinsEnterHold
  refine ⟨fun t s hp => ?_, fun t s hp => ?_⟩
  · let x : State := { advance t s with pins := { (advance t s).pins with holdInN := false } }
    have e : exec (.holdInNFall t) s = .next (senseFast 1 (holdCause 1 x)) := if_neg (by simp [hp])
    have hx : x.gl = s.gl := advance_gl t s
    have hpins : x.pins.holdInN = false := rfl
    have f : Frame _ x (senseFast 1 (holdCause 1 x)) := (senseFast_frame 1 _).comp (holdCause_frame 1 x) (by decide)
    have hg : (senseFast 1 (holdCause 1 x)).gl = (holdCause 1 x).gl := (senseFast_frame 1 _).gl_eq
    obtain ⟨hl, hh, hs, -⟩ := holdCause_modes 1 x
    rw [← hg, hx] at hl hh hs
    clear_value x
    exact ⟨_, e, by rw [f.pins_eq, hpins], hl, hh, hs⟩
  · let x : State := { advance t s with pins := { (advance t s).pins with pwrWarnN := false } }
    let y : State := senseFast 2 (holdCause 2 x)
    have e : exec (.pwrWarnNFall t) s = .next (if y.gl.cur = .reset then y
        else stopArm 1 (storeLoss (modeCode s.gl.cur) (anySession (advance t s)) y)) := by
      rw [apply_ite Host.Outcome.next, ← advance_gl t s]
      exact if_neg (by simp [hp])
    have hx : x.gl = s.gl := advance_gl t s
    have hsp : x.sp = s.sp := advance_sp t s
    have ho : x.out = s.out := advance_out t s
    have hpins : x.pins.pwrWarnN = false := rfl
    have f : Frame _ x y := (senseFast_frame 2 _).comp (holdCause_frame 2 x) (by decide)
    have hg : y.gl = (holdCause 2 x).gl := (senseFast_frame 2 _).gl_eq
    obtain ⟨hl, hh, hs, hc, -⟩ := holdCause_modes 2 x
    rw [← hg, hx] at hl hh hs hc
    generalize anySession (advance t s) = o at e
    clear_value x y
    have hreset : y.gl.cur = .reset ↔ s.gl.cur = .reset := by
      by_cases h : s.gl.cur = .reset ∨ s.gl.cur = .fill ∨ s.gl.cur = .hold
      · rw [(hs h).1]
      · have h' : s.gl.cur ≠ .reset ∧ s.gl.cur ≠ .fill ∧ s.gl.cur ≠ .hold := not_or_or h
        simp [(hh h').1, h'.1]
    by_cases hr : s.gl.cur = .reset
    · rw [if_pos (hreset.mpr hr)] at e
      exact ⟨y, e, by rw [f.pins_eq, hpins], hl, hh, hs, fun h => absurd hr h⟩
    · rw [if_neg (fun h => hr (hreset.mp h))] at e
      obtain ⟨hcount, r, hrec, hm, htw, hts, hrc, hro⟩ := storeLoss_stored (modeCode s.gl.cur) o y
      have fz : Frame [.gl] y (storeLoss (modeCode s.gl.cur) o y) := storeLoss_frame _ _ _
      have hz : (storeLoss (modeCode s.gl.cur) o y).gl.cur = y.gl.cur ∧ (storeLoss (modeCode s.gl.cur) o y).gl.prev = y.gl.prev
          ∧ (storeLoss (modeCode s.gl.cur) o y).gl.latched = y.gl.latched := ⟨rfl, rfl, rfl⟩
      generalize storeLoss (modeCode s.gl.cur) o y = z at e hcount hrec fz hz
      obtain ⟨hzc, hzp, hzl⟩ := hz
      have hsent : ∀ n, n < 24 → linkEnabled s n = true → Sent z (stopArm 1 z) (.packet n 4 258) := by
        intro n hn he
        exact stopArm_sent 1 hn (by unfold linkEnabled at he ⊢; rwa [fz.sp_eq, f.sp_eq, hsp])
      have fu := stopArm_frame 1 z
      generalize stopArm 1 z = u at e fu hsent
      refine ⟨u, e, by rw [fu.pins_eq, fz.pins_eq, f.pins_eq, hpins], ?_, fun h => ?_, fun h => ?_, fun _ => ⟨?_, ⟨r, ?_, ?_, ?_, ?_,
        ?_, ?_⟩, fun n hn he => ?_⟩⟩
      · rw [fu.gl_eq, hzl, hl]; rfl
      · rw [fu.gl_eq, hzc, hzp]; exact hh h
      · rw [fu.gl_eq, hzc, hzp]; exact hs h
      · rw [fu.gl_eq, hcount, hc]
      · rw [fu.gl_eq, hrec]
      · rw [hm, BitVec.toNat_ofNat, Nat.mod_eq_of_lt (modeCode_lt _)]
      · rw [htw, fu.tb_eq, fz.tb_eq]
      · rw [hts, fu.tb_eq, fz.tb_eq]
      · rw [hrc, fu.gl_eq, hcount]
      · rw [hro, rosterBytes_congr (by rw [fu.crew_eq, fz.crew_eq])]
      · obtain ⟨a, ha⟩ := (f.out : _ <:+ _)
        have hso : Sent y u (.packet n 4 258) := Sent.after fz (hsent n hn he)
        unfold Sent at hso ⊢
        obtain ⟨l, hl', hm'⟩ := hso
        exact ⟨l ++ a, by rw [hl', ← ha, ho, List.append_assoc], List.mem_append_left _ hm'⟩

/-! ### Requests of a warm reset -/

theorem requestReset_none (cause : BitVec 3) {s : State} (h : s.gl.resetWait = none) :
    (requestReset cause s).gl.resetWait = some { cause := cause, again := none } ∧ (requestReset cause s).gl.resetCause = cause
      ∧ (s.gl.moving = false → (requestReset cause s).gl.cur = s.gl.cur ∧ (requestReset cause s).gl.latched = s.gl.latched)
      ∧ (s.gl.moving = true → s.gl.cur ≠ .reset → s.gl.cur ≠ .fill →
        (requestReset cause s).gl.cur = .hold ∧ (requestReset cause s).gl.latched = s.gl.latched ||| 64) := by
  unfold requestReset
  rw [h]
  dsimp only
  cases hm : s.gl.moving with
  | false => exact ⟨rfl, rfl, fun _ => ⟨rfl, rfl⟩, nofun⟩
  | true =>
    rw [if_pos rfl, (senseFastAll_frame _).gl_eq]
    have hx : ∀ x : State, x.gl = { s.gl with resetWait := some { cause := cause, again := none }, resetCause := cause } →
        (holdCause 6 x).gl.resetWait = some { cause := cause, again := none } ∧ (holdCause 6 x).gl.resetCause = cause
          ∧ (true = false → (holdCause 6 x).gl.cur = s.gl.cur ∧ (holdCause 6 x).gl.latched = s.gl.latched)
          ∧ (true = true → s.gl.cur ≠ .reset → s.gl.cur ≠ .fill →
            (holdCause 6 x).gl.cur = .hold ∧ (holdCause 6 x).gl.latched = s.gl.latched ||| 64) := by
      intro x hx
      obtain ⟨hl, hh, hs, -, -, hw, hc⟩ := holdCause_modes 6 x
      rw [hx] at hl hh hs hw hc
      refine ⟨hw, hc, nofun, fun _ h1 h2 => ⟨?_, hl⟩⟩
      by_cases h3 : s.gl.cur = .hold
      · exact (hs (.inr (.inr h3))).1.trans h3
      · exact (hh ⟨h1, h2, h3⟩).1
    exact hx _ (by rw [← hm])

theorem resetWrite_none {v : Word} {s : State} (h1 : s.gl.cur ≠ .reset) (h2 : s.gl.cur ≠ .fill) (hw : s.gl.resetWait = none) :
    ∃ x : State, x.gl = { s.gl with resetCause := if bits v 8 3 < 5 then BitVec.ofNat 3 (bits v 8 3) else s.gl.resetCause }
      ∧ resetWrite v s = if bits v 0 8 = 0x5A then requestReset 1 x else x := by
  refine ⟨if bits v 8 3 < 5 && s.gl.resetWait.isNone then
    { s with gl := { s.gl with resetCause := BitVec.ofNat 3 (bits v 8 3) } } else s, ?_, ?_⟩
  · rw [hw]
    by_cases h : bits v 8 3 < 5 <;> simp [h]
  · unfold resetWrite
    rw [if_neg (by simp [barResponds, h1, h2, hw])]

/-- Settles O14: the two fields of the word that GL_RESET takes, and the request behind KEY 0x5A. -/
theorem warmResetRequests : Obligations.WarmResetRequests := by
  unfold Obligations.WarmResetRequests
  refine ⟨fun t v s h1 h2 hw hk => ?_, fun t v s h1 h2 hw hk => ?_, fun t v s w hw hp => ?_⟩
  · obtain ⟨x, hx, he⟩ := resetWrite_none (v := v) (s := advance t s) (by simpa using h1) (by simpa using h2) (by simpa using hw)
    rw [advance_gl] at hx
    obtain ⟨hr, hc, hm, hmv⟩ := requestReset_none 1 (s := x) (by rw [hx]; exact hw)
    refine ⟨requestReset 1 x, congrArg Host.Outcome.next (he.trans (if_pos hk)), hr, hc, fun h => ?_, fun h => ?_⟩
    · rw [hx] at hm; exact hm h
    · rw [hx] at hmv; exact hmv h h1 h2
  · obtain ⟨x, hx, he⟩ := resetWrite_none (v := v) (s := advance t s) (by simpa using h1) (by simpa using h2) (by simpa using hw)
    rw [advance_gl] at hx
    refine ⟨x, congrArg Host.Outcome.next (he.trans (if_neg hk)), by rw [hx]; exact hw, by rw [hx], fun h => ?_, fun h => ?_⟩
    · rw [hx, if_pos h, BitVec.toNat_ofNat, Nat.mod_eq_of_lt (by omega)]
    · rw [hx, if_neg (by omega)]
  · refine congrArg Host.Outcome.next (if_pos ?_)
    simp [hw, hp]

/-! ### The random generator -/

theorem healthFail_cy (s : State) : (healthFail s).cy = { s.cy with health := true } := by
  unfold healthFail
  split
  · rename_i h; rw [← h]
  · rw [(senseFast_frame 8 _).cy_eq, (event_frame ..).cy_eq]

/-- Settles O35: the cases of the reseed and of the health test. -/
theorem randomGenerator : Obligations.RandomGenerator := by
  unfold Obligations.RandomGenerator
  intro t s hf
  have hf' : fetching (advance t s) = true := by unfold fetching at hf ⊢; rwa [advance_gl]
  have hcy := advance_cy t s
  refine ⟨⟨_, (if_neg (by simp [hf'])).trans (if_pos rfl), ?_⟩, ⟨_, (if_neg (by simp [hf'])).trans (if_neg nofun), ?_⟩,
    ⟨_, congrArg Host.Outcome.next (if_pos hf'), ?_⟩, fun h => ?_⟩
  · rw [(senseFast_frame 8 _).cy_eq, ← hcy]; exact ⟨rfl, rfl, rfl, rfl⟩
  · rw [healthFail_cy, ← hcy]; exact ⟨rfl, rfl, rfl⟩
  · rw [healthFail_cy, ← hcy]; exact ⟨rfl, rfl, rfl⟩
  · refine congrArg Host.Outcome.next ((if_pos hf').trans (if_pos ?_))
    rw [hcy]; exact h

/-! ### Channel dies -/

theorem dieOf_congr {s u : State} (h : u.crew.dies = s.crew.dies) (d : Nat) : dieOf u d = dieOf s d := by
  unfold dieOf; rw [h]

@[simp] theorem dieOf_advance (t : Time) (s : State) (d : Nat) : dieOf (advance t s) d = dieOf s d :=
  dieOf_congr (by rw [advance_crew]) d

/-- A request that a pass makes of each die of a list is made once of a die that stands in it once. -/
theorem disableEach_die (l : List Nat) (hl : l.Nodup) (s : State) (d : Nat) :
    dieOf (forEach l (fun d x => setDie d (unitDisable (dieOf x d)) x) s) d
      = if d ∈ l then unitDisable (dieOf s d) else dieOf s d := by
  induction l generalizing s with
  | nil => simp [forEach_nil]
  | cons a r ih =>
    obtain ⟨har, hr⟩ := List.nodup_cons.mp hl
    rw [forEach_cons, ih hr]
    by_cases hd : d = a
    · subst hd; simp [har]
    · rw [dieOf_setDie_other _ _ _ hd]
      simp [hd]

theorem dieSleep_die (d e : Nat) (s : State) : dieOf (dieSleep d s) e = dieOf s e := by
  unfold dieSleep setUnitsState
  extract_lets a b
  have hb : Frame [.sv, .lk] s b :=
    Frame.forEach _ _ (fun n y hy => (readerReload_frame _ _).comp hy (by decide))
      (Frame.forEach _ _ (fun l y hy => (setLane_frame _ _ _).comp hy (by decide)) (Frame.refl _ _))
  rw [dieOf_unitsChange]
  exact dieOf_congr (by rw [hb.crew_eq]) e

/-- A gated die leaves no unit of it in use (R24). -/
theorem dieSleep_st (d : Nat) (s : State) {i : Nat} (hi : i ∈ dieUnits d) :
    (crewOf (dieSleep d s) i).st ≠ .active ∧ (crewOf (dieSleep d s) i).st ≠ .spare := by
  unfold dieSleep
  extract_lets a b
  rw [setUnitsState_st]
  by_cases hu : (crewOf b i).st = .active ∨ (crewOf b i).st = .spare
  · rw [if_pos (List.mem_filter.mpr ⟨hi, by simpa using hu⟩)]
    decide
  · rw [if_neg (by rw [List.mem_filter]; simpa [hi] using hu)]
    exact not_or.mp hu

theorem laneTrain_st (l k : Nat) (s : State) :
    (laneOf (laneTrain l s) k).st = if k = l then .training else (laneOf s k).st := by
  unfold laneTrain
  by_cases h : k = l
  · subst h; simp
  · rw [laneOf_setLane_other _ _ _ h, if_neg h]

theorem trainEach_st (ls : List Nat) (k : Nat) (s : State) :
    (laneOf (forEach ls laneTrain s) k).st = if k ∈ ls then .training else (laneOf s k).st := by
  induction ls generalizing s with
  | nil => simp [forEach_nil]
  | cons a r ih =>
    rw [forEach_cons, ih, laneTrain_st]
    by_cases hk : k = a <;> by_cases hr : k ∈ r <;> simp [hk, hr]

theorem mem_dieLanes {s : State} {d l : Nat} (hl : l / 4 = d) (hb : (crewOf s (1188 + l)).st ≠ .benched) : l ∈ dieLanes s d := by
  unfold dieLanes
  rw [List.mem_filter]
  refine ⟨?_, by simpa using hb⟩
  rw [List.mem_range'_1]
  omega

theorem unitDone_stopping {u : Unit_} (h : u.st = .stopping) :
    (unitDone u).st = if u.latch = some true then .starting else .stopped := by
  unfold unitDone
  rw [h]
  dsimp only
  split <;> rfl

theorem execDieShutdownDone_eq (t : Time) {die : BitVec 2} {s : State} (h : (dieOf s die.toNat).st = .stopping) :
    ∃ y z, y = dieSleep die.toNat (advance t s) ∧ z = setDie die.toNat (unitDone (dieOf y die.toNat)) y
      ∧ exec (.dieShutdownDone t die) s
        = .next (if (dieOf z die.toNat).st = .starting then forEach (dieLanes z die.toNat) laneTrain z else z) := by
  have h' : (dieOf (advance t s) die.toNat).st = .stopping := by rw [dieOf_advance]; exact h
  generalize he : exec (.dieShutdownDone t die) s = o
  change execDieShutdownDone t die s = o at he
  unfold execDieShutdownDone at he
  extract_lets x d y z at he
  refine ⟨y, z, rfl, rfl, he.symm.trans ?_⟩
  rw [h']
  clear_value z
  dsimp only
  change (match (dieOf z d).st with
    | .starting => Host.Outcome.next (forEach (dieLanes z d) laneTrain z) | _ => Host.Outcome.next z)
      = Host.Outcome.next (if (dieOf z d).st = .starting then forEach (dieLanes z d) laneTrain z else z)
  cases hz : (dieOf z d).st <;> rfl

theorem execDieWakeDone_eq (t : Time) {die : BitVec 2} {s : State} (h : (dieOf s die.toNat).st = .starting) :
    exec (.dieWakeDone t die) s
      = .next (reloadZones (dieAwake die.toNat
          (setDie die.toNat (unitDone (dieOf (advance t s) die.toNat)) (advance t s)))) := by
  have h' : (dieOf (advance t s) die.toNat).st = .starting := by rw [dieOf_advance]; exact h
  change execDieWakeDone t die s = _
  unfold execDieWakeDone
  extract_lets x d
  rw [h']

/-- Settles O17: each command changes the dies by the rule of R49, and a die that has shut down has put its units to sleep. -/
theorem dieGating : Obligations.DieGating := by
  unfold Obligations.DieGating
  refine ⟨fun t s hc hg => ?_, fun t die s hd => ?_, fun t die s hd => ?_⟩
  · let x : State := { advance t s with crew := { (advance t s).crew with gateAt := none } }
    have e : exec (.gateDelayExpiry t) s
        = .next (forEach (List.range 4) (fun d y => setDie d (unitDisable (dieOf y d)) y) x) := if_pos (by simp [hc, hg])
    have hx : ∀ d, dieOf x d = dieOf s d := dieOf_congr (by show (advance t s).crew.dies = _; rw [advance_crew])
    have hxg : x.crew.gateAt = none := rfl
    clear_value x
    refine ⟨_, e, ?_, fun d h4 => ?_⟩
    · rw [← hxg]
      exact forEach_keeps (fun y => y.crew.gateAt) _ (fun d y => setDie d (unitDisable (dieOf y d)) y) (fun d y => rfl) x
    · rw [disableEach_die _ (List.nodup_range) x d, if_pos (List.mem_range.mpr h4), hx]
  · obtain ⟨y, z, hy', hz', e⟩ := execDieShutdownDone_eq t hd
    have hy : ∀ d, dieOf y d = dieOf s d := fun d => by rw [hy', dieSleep_die, dieOf_advance]
    have hz : dieOf z die.toNat = unitDone (dieOf s die.toNat) := by rw [hz', dieOf_setDie, hy]
    have hzo : ∀ d, d ≠ die.toNat → dieOf z d = dieOf s d := fun d h => by rw [hz', dieOf_setDie_other _ _ _ h, hy]
    have hzs : ∀ i ∈ dieUnits die.toNat, (crewOf z i).st ≠ .active ∧ (crewOf z i).st ≠ .spare := fun i hi => by
      have hc : crewOf z i = crewOf y i := crewOf_congr (by rw [hz']; rfl) i
      rw [hc, hy']
      exact dieSleep_st _ _ hi
    have ft : Frame [.lk] z (forEach (dieLanes z die.toNat) laneTrain z) :=
      Frame.forEach _ _ (fun l y hy => (laneTrain_frame _ _).comp hy (by decide)) (Frame.refl _ _)
    have hl := trainEach_st (dieLanes z die.toNat) (s := z)
    rw [hz, unitDone_stopping hd] at e
    by_cases hw : (dieOf s die.toNat).latch = some true
    · rw [if_pos hw, if_pos rfl] at e
      generalize forEach (dieLanes z die.toNat) laneTrain z = u at e ft hl
      have hcrew : ∀ i, crewOf u i = crewOf z i := crewOf_congr (by rw [ft.crew_eq])
      have hdie : ∀ d, dieOf u d = dieOf z d := dieOf_congr (by rw [ft.crew_eq])
      refine ⟨u, e, by rw [hdie, hz], fun d h => by rw [hdie, hzo d h], fun i hi => by rw [hcrew]; exact hzs i hi,
        fun _ l h4 hb => ?_⟩
      rw [hl, if_pos (mem_dieLanes h4 (by rw [hcrew] at hb; exact hb))]
    · rw [if_neg hw, if_neg nofun] at e
      exact ⟨z, e, hz, hzo, hzs, fun h => absurd h hw⟩
  · have e := execDieWakeDone_eq t hd
    have hu : ∀ d x, dieOf (reloadZones (dieAwake die.toNat x)) d = dieOf x d := fun d x => dieOf_unitsChange _ _ _ _ d
    refine ⟨_, e, ?_, fun d h => ?_⟩
    · rw [hu, dieOf_setDie, dieOf_advance]
    · rw [hu, dieOf_setDie_other _ _ _ h, dieOf_advance]

/-! ### Doorbells -/

theorem bellLive_advance (t : Time) (s : State) (f : Fn) : bellLive (advance t s) f = bellLive s f := by
  unfold bellLive fetching; rw [advance_gl, advance_hq]

theorem sqOf_congr {s u : State} (h : u.hq.sqs = s.hq.sqs) (f : Fn) (q : Nat) : sqOf u f q = sqOf s f q := by
  unfold sqOf; rw [h]

theorem cqOf_congr {s u : State} (h : u.hq.cqs = s.hq.cqs) (f : Fn) (q : Nat) : cqOf u f q = cqOf s f q := by
  unfold cqOf; rw [h]

theorem hqFn_congr {s u : State} (h : u.hq.fns = s.hq.fns) (f : Fn) : hqFn u f = hqFn s f := by
  unfold hqFn; rw [h]

theorem bell_taken {w : Nat} {s : State} {f : Fn} (hb : bellLive s f = true) (hw : w = 4 ∨ w = 8) (t : Time) :
    ¬(!bellLive (advance t s) f || (w != 4 && w != 8)) = true := by
  rw [bellLive_advance, hb]
  rcases hw with rfl | rfl <;> decide

theorem doorbellError_parts (t : Time) (f : Fn) (q : Nat) (s : State) :
    (doorbellError f q (advance t s)).hq.sqs = s.hq.sqs ∧ (doorbellError f q (advance t s)).hq.cqs = s.hq.cqs
      ∧ (hqFn (doorbellError f q (advance t s)) f).dbErrs = satInc (hqFn s f).dbErrs
      ∧ (hqFn (doorbellError f q (advance t s)) f).dbErrId = BitVec.ofNat 16 q := by
  have h : hqFn (advance t s) f = hqFn s f := hqFn_congr (by rw [advance_hq]) f
  unfold doorbellError
  rw [hqFn_setHqFn, h]
  refine ⟨?_, ?_, rfl, rfl⟩ <;> simp [setHqFn]

/-- Settles O18: the test of R67 to R69 passes or it does not. -/
theorem doorbells : Obligations.Doorbells := by
  unfold Obligations.Doorbells
  have hsq : ∀ t s f q, sqOf (advance t s) f q = sqOf s f q := fun t s => sqOf_congr (by rw [advance_hq])
  have hcq : ∀ t s f q, cqOf (advance t s) f q = cqOf s f q := fun t s => cqOf_congr (by rw [advance_hq])
  refine ⟨fun t f q w v s hb hw hr hv => ?_, fun t f q w v s hb hw hr hv hc => ?_, fun t f q w v s hb hw hn => ?_,
    fun t f q w v s hb hw hn => ?_⟩
  · refine ⟨_, (if_neg (bell_taken hb hw t)).trans (if_pos (by rw [hsq]; exact ⟨hr, hv⟩)), ?_, fun g k h => ?_,
      by simp [setSq], by simp [setSq]⟩
    · rw [sqOf_setSq, hsq]
    · rw [sqOf_setSq_other _ _ h, hsq]
  · refine ⟨_, (if_neg (bell_taken hb hw t)).trans (if_pos (by rw [hcq]; exact ⟨hr, hv, hc⟩)), ?_, fun g k h => ?_,
      by simp [setCq], by simp [setCq]⟩
    · rw [cqOf_setCq, hcq]
    · rw [cqOf_setCq_other _ _ h, hcq]
  · exact ⟨_, (if_neg (bell_taken hb hw t)).trans (if_neg (by rw [hsq]; rintro ⟨h1, h2⟩; exact hn.elim (absurd h1) (Nat.not_le.mpr h2))),
      doorbellError_parts t f q s⟩
  · exact ⟨_, (if_neg (bell_taken hb hw t)).trans (if_neg (by
      rw [hcq]; rintro ⟨h1, h2, h3⟩; exact hn.elim (absurd h1) fun h => h.elim (Nat.not_le.mpr h2) (Nat.not_lt.mpr h3))),
      doorbellError_parts t f q s⟩

end Sys2Proof.Machine
end

section
/-!
The task registers (R78 to R80): what a TK_CMD write does while BUSY is 0 and while it is 1.
-/

namespace Sys2Proof.Machine

set_option Elab.async false

/-! ### An accepted command -/

theorem taskLive_advance (src : BusSource) (t : Time) (s : State) : taskLive src (advance t s) = taskLive src s := by
  unfold taskLive regsLive fetching
  rw [advance_gl]

/-- The state in which an accepted command begins (R78). -/
def taskBegun (op : Nat) (src : BusSource) (s : State) : State :=
  { s with task := { s.task with cmd := BitVec.ofNat 8 op, busy := true, source := sourceCode src, seq := s.task.seq + 1 } }

theorem taskCommand_idle (op : Nat) {src : BusSource} {s : State} (hl : taskLive src s = true) (hb : s.task.busy = false) :
    taskCommand op src s = taskGo op (taskBegun op src s) := by
  unfold taskCommand
  rw [if_neg (by simp [hl]), if_neg (by simp [hb])]
  rfl

/-- Outside SECURE and END the life cycle forbids no command. -/
theorem taskForbidden_none {s : State} (h4 : s.gl.lc ≠ 4) (h2 : s.gl.lc ≠ 2) (op : Nat) (board : Bool) :
    taskForbidden op board s = 0 := by
  unfold taskForbidden lcEnd
  split
  · rfl
  · rw [if_neg (fun h => h4 (beq_iff_eq.mp h.1)), if_neg (fun h => h2 h.1)]

theorem taskGo_run {op : Nat} {s : State} (h : taskForbidden op (s.task.source != 0) s = 0)
    (ha : s.hq.act = none ∨ op = 6) : taskGo op s = taskRun op s := by
  unfold taskGo
  extract_lets no
  rw [if_neg (by simpa [no] using h), if_neg]
  rcases ha with ha | ha <;> simp [ha]

/-- In END the commands that change something are refused (R39). -/
theorem taskGo_end {op : Nat} {s : State} (h : s.gl.lc = 4) (ho : op = 3 ∨ op = 5 ∨ op = 6 ∨ op = 7) :
    taskGo op s = taskEnds 7 0 s := by
  have hf : taskForbidden op (s.task.source != 0) s = 7 := by
    unfold taskForbidden lcEnd
    rcases ho with rfl | rfl | rfl | rfl <;> simp [h]
  unfold taskGo
  extract_lets no
  have hn : no = 7 := hf
  rw [hn, if_pos (by decide)]

/-- The task registers while an accepted command runs: what it was given, and who issued it. -/
structure Begun (src : BusSource) (s x : State) : Prop where
  busy : x.task.busy = true
  seq : x.task.seq = s.task.seq + 1
  source : x.task.source = sourceCode src
  args : x.task.args = s.task.args
  data : x.task.data = s.task.data

theorem taskBegun_begun (op : Nat) (src : BusSource) (t : Time) (s : State) :
    Begun src s (taskBegun op src (advance t s)) := by
  refine ⟨rfl, ?_, rfl, ?_, ?_⟩ <;> simp [taskBegun]

theorem Begun.of_task {src : BusSource} {s x y : State} (h : Begun src s x) (he : y.task = x.task) : Begun src s y := by
  obtain ⟨a, b, c, d, e⟩ := h
  exact ⟨he ▸ a, he ▸ b, he ▸ c, he ▸ d, he ▸ e⟩

theorem Begun.arg {src : BusSource} {s x : State} (h : Begun src s x) (n : Nat) : taskArg x n = taskArg s n := by
  unfold taskArg; rw [h.args]

theorem Begun.bytes {src : BusSource} {s x : State} (h : Begun src s x) (n : Nat) : taskBytes x n = taskBytes s n := by
  unfold taskBytes; rw [h.data]

/-- What an accepted command leaves when it ends. -/
structure Told (src : BusSource) (s u : State) (result : Word) : Prop where
  told : u.task.busy = false ∧ u.task.seq = s.task.seq + 1 ∧ u.task.source = sourceCode src
  result : u.task.result = result

theorem Begun.ends {src : BusSource} {s x : State} (h : Begun src s x) (status len : Nat) :
    Told src s (taskEnds status len x) (BitVec.ofNat 32 (status + len * 65536)) :=
  ⟨⟨rfl, h.seq, h.source⟩, rfl⟩

theorem Told.of_task {src : BusSource} {s x u : State} {r : Word} (h : Told src s x r) (he : u.task = x.task) :
    Told src s u r := by
  obtain ⟨h1, h2⟩ := h
  exact ⟨he ▸ h1, he ▸ h2⟩

/-! ### Bytes written to TK_DATA and words to TK_ARG -/

theorem tabGet_writeBytes (l : List Byte) (k : Nat) (d : List (Nat × Byte)) (i : Nat) :
    tabGet 0 ((l.zipIdx k).foldl (fun d (p : Byte × Nat) => tabSet 0 d p.2 p.1) d) i
      = if h : k ≤ i ∧ i < k + l.length then l[i - k] else tabGet 0 d i := by
  induction l generalizing k d with
  | nil =>
    have hno : ¬(k ≤ i ∧ i < k + ([] : List Byte).length) := by rw [List.length_nil]; omega
    rw [dif_neg hno, List.zipIdx_nil, List.foldl_nil]
  | cons a r ih =>
    rw [List.zipIdx_cons, List.foldl_cons, ih]
    by_cases hi : i = k
    · subst hi
      rw [dif_neg (by omega), dif_pos ⟨Nat.le_refl _, by rw [List.length_cons]; omega⟩, tabGet_tabSet_same]
      simp only [Nat.sub_self, List.getElem_cons_zero]
    · by_cases hr : k + 1 ≤ i ∧ i < k + 1 + r.length
      · rw [dif_pos hr, dif_pos ⟨by omega, by simp only [List.length_cons]; omega⟩, List.getElem_cons, dif_neg (by omega)]
        congr 1
      · rw [dif_neg hr, dif_neg (by simp only [List.length_cons]; omega), tabGet_tabSet_other _ _ _ hi]

theorem taskBytes_output {l : List Byte} (hl : l.length ≤ 4096) (s : State) : taskBytes (taskOutput l s) l.length = l := by
  unfold taskBytes taskOutput
  dsimp only
  rw [List.take_of_length_le hl]
  refine List.ext_getElem (by simp) fun i h1 h2 => ?_
  rw [List.getElem_map, List.getElem_range, tabGet_writeBytes l 0 _ i, dif_pos (by omega)]
  rfl

theorem setTaskArg_task (n : Nat) (v : Word) (s : State) :
    (setTaskArg n v s).task = { s.task with args := tabSet 0 s.task.args n v } := rfl

theorem setArgs_task (l : List (Word × Nat)) (s : State) :
    ∃ a, (forEach l (fun (v, n) s => setTaskArg n v s) s).task = { s.task with args := a } := by
  induction l generalizing s with
  | nil => exact ⟨s.task.args, rfl⟩
  | cons p r ih =>
    rw [forEach_cons]
    obtain ⟨a, ha⟩ := ih (setTaskArg p.2 p.1 s)
    exact ⟨a, ha⟩

theorem taskArg_setArgs (l : List Word) (k : Nat) (s : State) (i : Nat) :
    taskArg (forEach (l.zipIdx k) (fun (v, n) s => setTaskArg n v s) s) i
      = if h : k ≤ i ∧ i < k + l.length then l[i - k] else taskArg s i := by
  induction l generalizing k s with
  | nil =>
    have hno : ¬(k ≤ i ∧ i < k + ([] : List Word).length) := by rw [List.length_nil]; omega
    rw [dif_neg hno, List.zipIdx_nil, forEach_nil]
  | cons a r ih =>
    rw [List.zipIdx_cons, forEach_cons, ih]
    unfold taskArg
    by_cases hi : i = k
    · subst hi
      rw [dif_neg (by omega), dif_pos ⟨Nat.le_refl _, by rw [List.length_cons]; omega⟩, setTaskArg_task, tabGet_tabSet_same]
      simp only [Nat.sub_self, List.getElem_cons_zero]
    · by_cases hr : k + 1 ≤ i ∧ i < k + 1 + r.length
      · rw [dif_pos hr, dif_pos ⟨by omega, by simp only [List.length_cons]; omega⟩, List.getElem_cons, dif_neg (by omega)]
        congr 1
      · rw [dif_neg hr, dif_neg (by simp only [List.length_cons]; omega), setTaskArg_task, tabGet_tabSet_other _ _ _ hi]


/-! ### A command that is accepted while BUSY is 0 -/

section
variable {t : Time} {src : BusSource} {s : State}

theorem exec_task {op : Nat} (hl : taskLive src s = true) (hb : s.task.busy = false) (h4 : s.gl.lc ≠ 4) (h2 : s.gl.lc ≠ 2)
    (ha : s.hq.act = none) : taskCommand op src (advance t s) = taskRun op (taskBegun op src (advance t s)) := by
  rw [taskCommand_idle op (by rw [taskLive_advance]; exact hl) (by rw [advance_task]; exact hb)]
  refine taskGo_run (taskForbidden_none ?_ ?_ _ _) (.inl ?_)
  · show (advance t s).gl.lc ≠ 4; rw [advance_gl]; exact h4
  · show (advance t s).gl.lc ≠ 2; rw [advance_gl]; exact h2
  · show (advance t s).hq.act = none; rw [advance_hq]; exact ha

theorem taskHealth_told {x : State} (hx : Begun src s x) :
    Told src s (taskHealth x) 0 ∧ taskArg (taskHealth x) 0 = modeWord x ∧ taskArg (taskHealth x) 1 = holdWord x := by
  unfold taskHealth
  extract_lets out
  obtain ⟨a, ha⟩ := setArgs_task out.zipIdx x
  have h0 := taskArg_setArgs out 0 x
  have hlen : 2 ≤ out.length := by simp [out]
  generalize forEach out.zipIdx (fun (v, n) s => setTaskArg n v s) x = y at ha h0
  refine ⟨⟨⟨rfl, ?_, ?_⟩, rfl⟩, (h0 0).trans ?_, (h0 1).trans ?_⟩
  · show y.task.seq = _; rw [ha]; exact hx.seq
  · show y.task.source = _; rw [ha]; exact hx.source
  · rw [dif_pos (by omega)]; rfl
  · rw [dif_pos (by omega)]; rfl

theorem taskLogRead_told {x : State} (hx : Begun src s x) (h1 : 1 ≤ (taskArg s 0).toNat) (h7 : (taskArg s 0).toNat ≤ 7) :
    let out := slice (logBytes x 0 (taskArg s 0).toNat) (4096 * (taskArg s 1).toNat) 4096
    Told src s (taskLogRead x) (BitVec.ofNat 32 (out.length * 65536)) ∧ taskBytes (taskLogRead x) out.length = out := by
  intro out
  have hlen : out.length ≤ 4096 := List.length_take_le 4096 _
  unfold taskLogRead
  extract_lets id out'
  have hid : id = (taskArg s 0).toNat := by unfold id; rw [hx.arg]
  have ho : out' = out := by unfold out' out; rw [hid, hx.arg]
  clear_value out
  rw [if_neg (by omega), ho]
  refine ⟨⟨⟨rfl, hx.seq, hx.source⟩, ?_⟩, taskBytes_output hlen x⟩
  simp [taskEnds]

theorem taskLogRead_unknown {x : State} (hx : Begun src s x) (h0 : (taskArg s 0).toNat = 0) :
    Told src s (taskLogRead x) 2 := by
  unfold taskLogRead
  extract_lets id out
  have hid : id = 0 := by unfold id; rw [hx.arg, h0]
  rw [if_pos (by omega)]
  exact hx.ends 2 0

theorem lcArm_task (target : BitVec 3) (a : List Byte) (x : State) :
    (lcArm target a x).task = x.task ∧ (lcArm target a x).gl.lcPending = x.gl.lcPending := by
  unfold lcArm
  extract_lets v
  split <;> exact ⟨rfl, rfl⟩

theorem taskLc_refused {x : State} (hx : Begun src s x) (hr : lcReady x = false) (hn : (taskArg s 1).toNat ≤ 4096) :
    Told src s (taskLc x) 7 ∧ (taskLc x).gl.lcPending = x.gl.lcPending := by
  unfold taskLc
  extract_lets n a target v y
  have hv : v = 4 := by unfold v lcVerdict; simp [hr]
  have hn' : n = (taskArg s 1).toNat := by unfold n; rw [hx.arg]
  obtain ⟨ht, hp⟩ : y.task = x.task ∧ y.gl.lcPending = x.gl.lcPending := lcArm_task target a x
  clear_value y
  rw [if_neg (by omega), hv]
  exact ⟨(hx.of_task ht).ends 7 0, hp⟩

theorem lcPerform_parts (target : BitVec 3) (x : State) :
    (lcPerform target x).task = x.task ∧ (lcPerform target x).gl.lcPending = some target :=
  ⟨(requestReset_frame 3 x).task_eq, rfl⟩

theorem taskLc_performed {x : State} (hx : Begun src s x) (hr : lcReady x = true)
    (ha : lcAuth x.gl.lc.toNat ((taskArg s 0).setWidth 3 : BitVec 3).toNat = 0) (h0 : x.gl.lc ≠ 0)
    (hn : (taskArg s 1).toNat ≤ 4096) :
    Told src s (taskLc x) 0 ∧ (taskLc x).gl.lcPending = some ((taskArg s 0).setWidth 3) := by
  unfold taskLc
  extract_lets n a target v y
  have htg : target = (taskArg s 0).setWidth 3 := by unfold target; rw [hx.arg]
  have hv : v = 0 := by
    unfold v lcVerdict
    extract_lets kind
    have hk : kind = 0 := by unfold kind; rw [htg]; exact ha
    rw [if_neg (by simp [hr]), if_pos hk, if_neg]
    simp only [Bool.and_eq_true, decide_eq_true_eq]
    exact fun h => h0 h.1
  have hn' : n = (taskArg s 1).toNat := by unfold n; rw [hx.arg]
  obtain ⟨ht, -⟩ : y.task = x.task ∧ y.gl.lcPending = x.gl.lcPending := lcArm_task target a x
  clear_value y target
  rw [if_neg (by omega), hv, if_pos rfl, ← htg]
  obtain ⟨hp, hl⟩ := lcPerform_parts target (taskEnds 0 0 y)
  exact ⟨((hx.of_task ht).ends 0 0).of_task hp, hl⟩

theorem spdmSend_task {x : State} (h : x.task.busy = true) (resp : List Byte) :
    spdmSend .task resp x = taskEnds 0 resp.length (taskOutput resp (emit (.spdm .task resp) x)) := by
  unfold spdmSend
  exact if_pos h

/-- The VERSION response: version 1.2 alone. -/
def versionResp : List Byte := [0x10#8, 0x04#8, 0#8, 0#8, 0#8, 1#8, 0x00#8, 0x12#8]

/-- The connection behind GET_VERSION. -/
def versioned (m : List Byte) : Spdm := { spdmInitial with st := 1, vca := m ++ versionResp }

/-- GET_VERSION begins anew on its connection and is answered at once. -/
theorem spdmAnswer_version (c : SpdmConn) (x : State) :
    spdmAnswer c [0x10#8, 0x84#8, 0#8, 0#8] x
      = spdmSend c versionResp (setSpdm c (versioned [0x10#8, 0x84#8, 0#8, 0#8]) x) := rfl

theorem taskAttest_version {x : State} (hx : Begun src s x) (hn : (taskArg s 0).toNat = 4)
    (hm : taskBytes s 4 = [0x10#8, 0x84#8, 0#8, 0#8]) :
    Told src s (taskAttest x) (BitVec.ofNat 32 (8 * 65536)) ∧ (taskAttest x).se.task.st = 1
      ∧ taskBytes (taskAttest x) 8 = [0x10#8, 0x04#8, 0#8, 0#8, 0#8, 1#8, 0x00#8, 0x12#8]
      ∧ (taskAttest x).se.doe = x.se.doe := by
  have e : taskAttest x = spdmSend .task versionResp (setSpdm .task (versioned [0x10#8, 0x84#8, 0#8, 0#8]) x) := by
    unfold taskAttest
    rw [hx.arg, hn]
    dsimp only
    rw [hx.bytes, hm, if_neg (by decide), spdmAnswer_version]
  have hy : (setSpdm .task (versioned [0x10#8, 0x84#8, 0#8, 0#8]) x).task = x.task := rfl
  have hst : (setSpdm .task (versioned [0x10#8, 0x84#8, 0#8, 0#8]) x).se.task.st = 1 := rfl
  have hd : (setSpdm .task (versioned [0x10#8, 0x84#8, 0#8, 0#8]) x).se.doe = x.se.doe := rfl
  generalize setSpdm .task (versioned [0x10#8, 0x84#8, 0#8, 0#8]) x = y at e hy hst hd
  rw [e, spdmSend_task (by rw [hy]; exact hx.busy)]
  have hb := hx.of_task hy
  exact ⟨⟨⟨rfl, hb.seq, hb.source⟩, rfl⟩, hst, taskBytes_output (l := versionResp) (by decide) _, hd⟩

/-! QUEUE_SETUP -/

/-- A start runs the function or refuses it, by the two tests of R71 and R343. -/
theorem fnStart_fn (f : Fn) (y : State) :
    let good := aqOk y f && bindFits y f (bits (hqFn y f).aqVec 0 11)
    (hqFn (fnStart f y) f).unit.st = (if good then .running else .stopped)
      ∧ (hqFn (fnStart f y) f).err = !good ∧ (hqFn (fnStart f y) f).asqBase = (hqFn y f).asqBase := by
  intro good
  unfold fnStart
  extract_lets h v refuse i x z
  have hr : ∀ w, hqFn w f = hqFn y f → (hqFn (refuse w) f).unit.st = .stopped ∧ (hqFn (refuse w) f).err = true
      ∧ (hqFn (refuse w) f).asqBase = (hqFn y f).asqBase := by
    intro w hw
    unfold refuse
    rw [hqFn_setHqFn, hw]
    exact ⟨rfl, rfl, rfl⟩
  cases h1 : aqOk y f with
  | false =>
    have hg : good = false := by unfold good; rw [h1]; rfl
    rw [Bool.not_false, if_pos rfl, hg]
    exact hr y rfl
  | true =>
    cases h2 : bindFits y f v with
    | false =>
      have hg : good = false := by unfold good; rw [h1]; exact h2
      rw [Bool.not_true, if_neg nofun, Bool.not_false, if_pos rfl, hg]
      exact hr _ rfl
    | true =>
      have hz : hqFn z f = { h with en := true, err := false, unit := { st := .running, latch := none } } := by
        show hqFn x f = _
        exact hqFn_setHqFn _ _ _
      have hb : ∀ a b c, hqFn (bindCq f 0 a b (setCq f 0 c z)) f = hqFn z f := fun a b c =>
        hqFn_congr (by rw [(bindCq_frame ..).hq_eq]; rfl) f
      have hg : good = true := by unfold good; rw [h1]; exact h2
      rw [if_neg nofun, if_neg nofun, hg, hb, hz]
      exact ⟨rfl, rfl, rfl⟩

/-- The registers that QUEUE_SETUP gives the PF before it starts. -/
def setupFn (s x : State) : HqFn :=
  { hqFn x 0 with
    asqBase := BitVec.ofNat 64 ((taskArg s 0).toNat + (taskArg s 1).toNat * 2 ^ 32)
    acqBase := BitVec.ofNat 64 ((taskArg s 2).toNat + (taskArg s 3).toNat * 2 ^ 32)
    aqSize := taskArg s 4 &&& 0x0FFF0FFF#32
    aqVec := taskArg s 5 &&& 0x000107FF#32 }

theorem taskQueues_stopped {x : State} (hx : Begun src s x) (hst : (hqFn x 0).unit.st = .stopped) :
    let y := setHqFn 0 (setupFn s x) x
    let good := aqOk y 0 && bindFits y 0 (bits (hqFn y 0).aqVec 0 11)
    Told src s (taskQueues x) (if good then 0 else 2)
      ∧ (hqFn (taskQueues x) 0).unit.st = (if good then .running else .stopped)
      ∧ (hqFn (taskQueues x) 0).asqBase = (setupFn s x).asqBase := by
  intro y good
  have ht : (fnStart 0 y).task = x.task := (fnStart_frame 0 y).task_eq
  obtain ⟨hu, he, hb⟩ := fnStart_fn 0 y
  have hasq : (hqFn y 0).asqBase = (setupFn s x).asqBase := by unfold y; rw [hqFn_setHqFn]
  have e : taskQueues x = if (hqFn (fnStart 0 y) 0).err then taskEnds 2 0 (fnStart 0 y) else taskEnds 0 0 (fnStart 0 y) := by
    unfold taskQueues
    extract_lets h pair y' z
    have hy : y' = y := by unfold y' y setupFn pair h; simp only [hx.arg]
    have hz : z = fnStart 0 y := by unfold z; rw [hy]
    have hst' : h.unit.st = .stopped := hst
    rw [hst', hz]
  change (hqFn (fnStart 0 y) 0).err = !good at he
  change (hqFn (fnStart 0 y) 0).unit.st = (if good then .running else .stopped) at hu
  rw [e, he]
  rw [hasq] at hb
  clear_value good y
  generalize fnStart 0 y = z at ht hu he hb
  cases good
  · exact ⟨(hx.of_task ht).ends 2 0, hu, hb⟩
  · exact ⟨(hx.of_task ht).ends 0 0, hu, hb⟩

theorem taskQueues_running {x : State} (hx : Begun src s x) (hst : (hqFn x 0).unit.st = .running) :
    Told src s (taskQueues x) 2 ∧ hqFn (taskQueues x) 0 = hqFn x 0 := by
  have e : taskQueues x = taskEnds 2 0 x := by
    unfold taskQueues
    extract_lets h pair y z
    have hst' : h.unit.st = .running := hst
    rw [hst']
  rw [e]
  exact ⟨hx.ends 2 0, rfl⟩

/-! EMERGENCY_HOLD and WARM_RESET -/

theorem takeHold_task (x : State) : (takeHold x).task = { x.task with ehold := true } := by
  unfold takeHold
  rw [(senseFastAll_frame _).task_eq, (holdCause_frame _ _).task_eq]

theorem takeHold_gl {x : State} (h1 : x.gl.cur ≠ .reset) (h2 : x.gl.cur ≠ .fill) :
    (takeHold x).gl.cur = .hold ∧ (takeHold x).gl.latched.getLsbD 6 = true := by
  unfold takeHold
  extract_lets _ y
  have hy : y.gl = x.gl := rfl
  obtain ⟨hl, hh, hs, -⟩ := holdCause_modes 6 y
  rw [(senseFastAll_frame _).gl_eq]
  clear_value y
  rw [hy] at hl hh hs
  refine ⟨?_, by rw [hl, BitVec.getLsbD_or]; simp⟩
  by_cases h3 : x.gl.cur = .hold
  · exact (hs (.inr (.inr h3))).1.trans h3
  · exact (hh ⟨h1, h2, h3⟩).1

theorem taskHold_told {x : State} (hx : Begun src s x) (h1 : x.gl.cur ≠ .reset) (h2 : x.gl.cur ≠ .fill) :
    Told src s (taskRun 6 x) 0 ∧ (taskRun 6 x).task.ehold = true ∧ (taskRun 6 x).gl.cur = .hold
      ∧ (taskRun 6 x).gl.latched.getLsbD 6 = true := by
  have e : taskRun 6 x = taskEnds 0 0 (takeHold x) := rfl
  have ht := takeHold_task x
  obtain ⟨hc, hl⟩ := takeHold_gl h1 h2
  rw [e]
  generalize takeHold x = y at ht hc hl
  refine ⟨⟨⟨rfl, ?_, ?_⟩, rfl⟩, ?_, hc, hl⟩
  · show y.task.seq = _; rw [ht]; exact hx.seq
  · show y.task.source = _; rw [ht]; exact hx.source
  · show y.task.ehold = _; rw [ht]

theorem taskReset_key {x : State} (hx : Begun src s x) (hk : bits (taskArg s 0) 0 8 = 0x5A) (hw : x.gl.resetWait = none) :
    Told src s (taskReset x) 0 ∧ (taskReset x).gl.resetWait = some { cause := 2, again := none }
      ∧ (taskReset x).gl.resetCause = 2 := by
  unfold taskReset
  rw [hx.arg, if_pos hk]
  obtain ⟨hr, hc, -⟩ := requestReset_none 2 (s := taskEnds 0 0 x) hw
  exact ⟨(hx.ends 0 0).of_task (requestReset_frame 2 _).task_eq, hr, hc⟩

theorem taskReset_other {x : State} (hx : Begun src s x) (hk : bits (taskArg s 0) 0 8 ≠ 0x5A) :
    Told src s (taskReset x) 2 ∧ (taskReset x).gl.resetWait = x.gl.resetWait := by
  unfold taskReset
  rw [hx.arg, if_neg hk]
  exact ⟨hx.ends 2 0, rfl⟩

end


theorem Told.and {src : BusSource} {s u : State} {r : Word} (h : Told src s u r) {p : Prop} (hp : p) :
    (u.task.busy = false ∧ u.task.seq = s.task.seq + 1 ∧ u.task.source = sourceCode src) ∧ u.task.result = r ∧ p :=
  ⟨h.told, h.result, hp⟩

/-- Settles O40: an accepted command runs at once, and each of the seven ends as R80 states. -/
theorem taskCommands : Obligations.TaskCommands := by
  unfold Obligations.TaskCommands
  intro t src s hl hb
  refine ⟨fun h4 h2 ha => ?_, fun h4 => ?_⟩
  · have run : ∀ op, taskCommand op src (advance t s) = taskRun op (taskBegun op src (advance t s)) := fun op =>
      exec_task hl hb h4 h2 ha
    have hx : ∀ op, Begun src s (taskBegun op src (advance t s)) := fun op => taskBegun_begun op src t s
    have hgl : ∀ op, (taskBegun op src (advance t s)).gl = s.gl := fun op => advance_gl t s
    have hhq : ∀ op, (taskBegun op src (advance t s)).hq = s.hq := fun op => advance_hq t s
    have hse : ∀ op, (taskBegun op src (advance t s)).se = s.se := fun op => advance_se t s
    have hready : ∀ op, lcReady (taskBegun op src (advance t s)) = lcReady s := fun op => by unfold lcReady; rw [hgl]
    have hlog : ∀ op id, logBytes (taskBegun op src (advance t s)) 0 id = logBytes (advance t s) 0 id := fun op id => rfl
    have hmode : ∀ op, modeWord (taskBegun op src (advance t s)) = modeWord (advance t s) := fun op => rfl
    have hhold : ∀ op, holdWord (taskBegun op src (advance t s)) = holdWord (advance t s) := fun op => rfl
    have hfn : ∀ op, hqFn (taskBegun op src (advance t s)) 0 = hqFn s 0 := fun op => hqFn_congr (by rw [hhq]) 0
    have haq : ∀ op v, aqOk (setHqFn 0 v (taskBegun op src (advance t s))) 0 = aqOk (setHqFn 0 v s) 0 := fun op v => by
      unfold advance; split <;> rfl
    have hbf : ∀ op v n, bindFits (setHqFn 0 v (taskBegun op src (advance t s))) 0 n = bindFits (setHqFn 0 v s) 0 n :=
      fun op v n => by unfold advance; split <;> rfl
    intro told
    refine ⟨?_, fun h1 h7 => ?_, fun h0 => ?_, fun hr hn => ?_, fun hr hau h0 hn => ?_, fun hn hm => ?_, fun hst => ?_,
      fun hst => ?_, fun h1 h2 => ?_, fun hk hw => ?_, fun hk => ?_⟩
    · obtain ⟨hh, h0, h1⟩ := taskHealth_told (hx 1)
      exact ⟨_, congrArg Host.Outcome.next (run 1), hh.and ⟨h0.trans (hmode 1), h1.trans (hhold 1)⟩⟩
    · intro out
      have h := taskLogRead_told (hx 2) h1 h7
      rw [hlog 2] at h
      exact ⟨_, congrArg Host.Outcome.next (run 2), h.1.and h.2⟩
    · have h := taskLogRead_unknown (hx 2) h0
      exact ⟨_, congrArg Host.Outcome.next (run 2), h.told, h.result⟩
    · obtain ⟨h, hp⟩ := taskLc_refused (hx 3) (by rw [hready]; exact hr) hn
      exact ⟨_, congrArg Host.Outcome.next (run 3), h.and (hp.trans (by rw [hgl]))⟩
    · obtain ⟨h, hp⟩ := taskLc_performed (hx 3) (by rw [hready]; exact hr) (by rw [hgl]; exact hau) (by rw [hgl]; exact h0) hn
      exact ⟨_, congrArg Host.Outcome.next (run 3), h.and hp⟩
    · obtain ⟨h, hst, hby, hd⟩ := taskAttest_version (hx 4) hn hm
      exact ⟨_, congrArg Host.Outcome.next (run 4), h.and ⟨hst, hby, hd.trans (by rw [hse])⟩⟩
    · intro pair y good
      have hq := taskQueues_stopped (hx 5) (by rw [hfn]; exact hst)
      have hv : setupFn s (taskBegun 5 src (advance t s))
          = { hqFn s 0 with asqBase := pair 0, acqBase := pair 2, aqSize := taskArg s 4 &&& 0x0FFF0FFF#32,
                            aqVec := taskArg s 5 &&& 0x000107FF#32 } := by unfold setupFn; rw [hfn]
      rw [hv] at hq
      simp only [haq, hqFn_setHqFn, hbf] at hq
      have hg : good = (aqOk y 0 && bindFits y 0 (bits (taskArg s 5 &&& 0x000107FF#32) 0 11)) := by
        unfold good; rw [hqFn_setHqFn]
      change Told src s _ (if (aqOk y 0 && bindFits y 0 (bits (taskArg s 5 &&& 0x000107FF#32) 0 11)) = true then 0 else 2) ∧ _ at hq
      obtain ⟨h, hu, hbase⟩ := hq
      rw [hg]
      exact ⟨_, congrArg Host.Outcome.next (run 5), h.and ⟨hu, hbase⟩⟩
    · obtain ⟨h, hq⟩ := taskQueues_running (hx 5) (by rw [hfn]; exact hst)
      exact ⟨_, congrArg Host.Outcome.next (run 5), h.and (hq.trans (hfn 5))⟩
    · obtain ⟨h, hh⟩ := taskHold_told (hx 6) (by rw [hgl]; exact h1) (by rw [hgl]; exact h2)
      exact ⟨_, congrArg Host.Outcome.next (run 6), h.and hh⟩
    · obtain ⟨h, hr, hc⟩ := taskReset_key (hx 7) hk (by rw [hgl]; exact hw)
      exact ⟨_, congrArg Host.Outcome.next (run 7), h.and ⟨hr, hc⟩⟩
    · obtain ⟨h, hr⟩ := taskReset_other (hx 7) hk
      exact ⟨_, congrArg Host.Outcome.next (run 7), h.and (hr.trans (by rw [hgl]))⟩
  · have refuse : ∀ op, op = 3 ∨ op = 5 ∨ op = 6 ∨ op = 7 →
        taskCommand op src (advance t s) = taskEnds 7 0 (taskBegun op src (advance t s)) := fun op ho => by
      rw [taskCommand_idle op (by rw [taskLive_advance]; exact hl) (by rw [advance_task]; exact hb)]
      exact taskGo_end (by show (advance t s).gl.lc = 4; rw [advance_gl]; exact h4) ho
    have hgl : ∀ op, (taskEnds 7 0 (taskBegun op src (advance t s))).gl = s.gl := fun op => advance_gl t s
    have hhq : ∀ op, (taskEnds 7 0 (taskBegun op src (advance t s))).hq = s.hq := fun op => advance_hq t s
    exact ⟨⟨_, congrArg Host.Outcome.next (refuse 3 (by decide)), rfl, hgl 3⟩,
      ⟨_, congrArg Host.Outcome.next (refuse 5 (by decide)), rfl, hhq 5⟩,
      ⟨_, congrArg Host.Outcome.next (refuse 6 (by decide)), rfl, hgl 6⟩,
      ⟨_, congrArg Host.Outcome.next (refuse 7 (by decide)), rfl, hgl 7⟩⟩

/-! ### While BUSY is 1 -/

theorem taskCommand_busy_other {op : Nat} {src : BusSource} {s : State} (hl : taskLive src s = true) (hb : s.task.busy = true)
    (ho : op ≠ 6) : taskCommand op src s = { s with task := { s.task with overrun := true } } := by
  unfold taskCommand
  rw [if_neg (by simp [hl]), if_pos hb, if_neg (fun h => ho h.1)]

theorem taskCommand_busy_hold {src : BusSource} {s : State} (hl : taskLive src s = true) (hb : s.task.busy = true)
    (h4 : s.gl.lc ≠ 4) : taskCommand 6 src s = takeHold s := by
  unfold taskCommand
  rw [if_neg (by simp [hl]), if_pos hb]
  exact if_pos ⟨rfl, by simpa [lcEnd] using h4⟩

/-- Settles O41: each kind of write, by the cases of `taskCommand` and `taskWrite`. -/
theorem taskRegistersBusy : Obligations.TaskRegistersBusy := by
  unfold Obligations.TaskRegistersBusy
  intro t src s hl
  have hl' : taskLive src (advance t s) = true := by rw [taskLive_advance]; exact hl
  have htask := advance_task t s
  have hgl := advance_gl t s
  generalize hx : advance t s = x at hl' htask hgl
  refine ⟨fun hb => ?_, fun hb h4 h1 h2 => ?_⟩
  · have hb' : x.task.busy = true := by rw [htask]; exact hb
    have hold : s.gl.lc ≠ 4 → s.gl.cur ≠ .reset → s.gl.cur ≠ .fill →
        taskCommand 6 src x = takeHold x ∧ (takeHold x).task = { s.task with ehold := true } ∧ (takeHold x).gl.cur = .hold := by
      intro h4 h1 h2
      rw [takeHold_task, htask]
      exact ⟨taskCommand_busy_hold hl' hb' (by rw [hgl]; exact h4), rfl,
        (takeHold_gl (by rw [hgl]; exact h1) (by rw [hgl]; exact h2)).1⟩
    have write : ∀ o v, exec (.taskWriteWhileBusy t src o v) s = .next (taskWrite src o v x) := fun o v => by
      refine congrArg Host.Outcome.next ?_
      rw [hx]
      exact if_pos hb'
    have hover : ({ x with task := { x.task with overrun := true } } : State).task = { s.task with overrun := true }
        ∧ ({ x with task := { x.task with overrun := true } } : State).gl = s.gl := ⟨by rw [htask], hgl⟩
    refine ⟨fun o v ho => ⟨_, (write o v).trans (congrArg Host.Outcome.next ?_), hover⟩, fun h4 h1 h2 => ?_, fun h4 h1 h2 => ?_⟩
    · unfold taskWrite
      rw [if_neg (by simp [hl'])]
      by_cases h0 : o = 0
      · rw [if_pos h0]
        refine taskCommand_busy_other hl' hb' ?_
        rcases ho with ho | ho | ho <;> omega
      · rw [if_neg h0, if_pos (by omega), if_pos hb']
    · obtain ⟨he, ht, hc⟩ := hold h4 h1 h2
      refine ⟨_, (write 0 6).trans (congrArg Host.Outcome.next ?_), ht, hc⟩
      unfold taskWrite
      rw [if_neg (by simp [hl']), if_pos rfl]
      exact he
    · obtain ⟨he, ht, hc⟩ := hold h4 h1 h2
      exact ⟨_, congrArg Host.Outcome.next (by rw [hx]; exact he), ht, hc⟩
  · have hb' : x.task.busy = false := by rw [htask]; exact hb
    have hforbid : taskForbidden 6 ((taskBegun 6 src x).task.source != 0) (taskBegun 6 src x) = 0 := by
      have h4' : (taskBegun 6 src x).gl.lc ≠ 4 := by show x.gl.lc ≠ 4; rw [hgl]; exact h4
      unfold taskForbidden lcEnd
      rw [if_neg (by decide), if_neg (fun h => h4' (beq_iff_eq.mp h.1)), if_neg (fun h => by simp at h)]
    have he : taskCommand 6 src x = taskRun 6 (taskBegun 6 src x) := by
      rw [taskCommand_idle 6 hl' hb', taskGo_run hforbid (.inr rfl)]
    obtain ⟨h, hh, hc, -⟩ := taskHold_told (x := taskBegun 6 src x) (hx ▸ taskBegun_begun 6 src t s)
      (by show x.gl.cur ≠ _; rw [hgl]; exact h1) (by show x.gl.cur ≠ _; rw [hgl]; exact h2)
    exact ⟨_, congrArg Host.Outcome.next (by rw [hx]; exact he), h.told.2.1, hh, hc⟩

end Sys2Proof.Machine
end

section
/-!
The commands in flight: what the end of one of them leaves of the queues of the other functions and of the other commands.
-/

namespace Sys2Proof.Machine

set_option Elab.async false

/-! ### A command that stays while others end -/

/-- Some command in flight has the reference, and each that has it has the opcode and is no ABORT that waits for its
target. -/
structure Stands (r : CmdRef) (op : Nat) (s : State) : Prop where
  flying : ∃ e ∈ s.hq.inflight, e.ref = r
  kind : ∀ e ∈ s.hq.inflight, e.ref = r → e.stage ≠ .abortOwn ∧ eOpcode e.entry = op

section
variable {r : CmdRef} {op : Nat} {s u : State}

theorem Stands.of_inflight (h : Stands r op s) (he : u.hq.inflight = s.hq.inflight) : Stands r op u := by
  obtain ⟨a, b⟩ := h
  exact ⟨he ▸ a, he ▸ b⟩

theorem Stands.of_hq {l : List Region} (h : Stands r op s) (f : Frame l s u) (hl : l.contains .hq = false := by decide) :
    Stands r op u := h.of_inflight (by rw [f.hq_eq hl])

theorem Stands.isSome (h : Stands r op s) : (findCmd s r).isSome = true := findCmd_isSome.mpr h.flying

theorem Stands.setCmd (h : Stands r op s) (c : InFlight) (hc : c.ref = r → c.stage ≠ .abortOwn ∧ eOpcode c.entry = op) :
    Stands r op (Machine.setCmd c s) := by
  obtain ⟨⟨e, he, hr⟩, hn⟩ := h
  refine ⟨⟨if e.ref = c.ref then c else e, List.mem_map_of_mem he, ?_⟩, fun d hd hdr => ?_⟩
  · split
    · rename_i k; exact k.symm.trans hr
    · exact hr
  · obtain ⟨e', he', rfl⟩ := List.mem_map.mp hd
    by_cases k : e'.ref = c.ref
    · rw [if_pos k] at hdr ⊢; exact hc hdr
    · rw [if_neg k] at hdr ⊢; exact hn e' he' hdr

theorem Stands.grantTo (h : Stands r op s) (c : InFlight) (hc : c.ref = r → eOpcode c.entry = op) :
    Stands r op (Machine.grantTo c s) := by
  unfold Machine.grantTo
  extract_lets g _ x
  have hx : Stands r op x :=
    (h.of_inflight (u := { s with sm := { s.sm with grants := s.sm.grants ++ [g] } }) rfl).setCmd _ fun k =>
      ⟨by simp, hc k⟩
  exact (hx.of_hq (trimCache_frame _ x)).of_hq (startRuns_frame _ _)

theorem Stands.grantList (h : Stands r op s) (l : List InFlight) (hl : ∀ c ∈ l, c.ref = r → eOpcode c.entry = op) :
    Stands r op (Machine.grantList l s) := by
  induction l generalizing s with
  | nil => exact h
  | cons c t ih =>
    have ht : ∀ c ∈ t, c.ref = r → eOpcode c.entry = op := fun a ha => hl a (List.mem_cons_of_mem _ ha)
    unfold Machine.grantList
    split
    · exact ih h ht
    · split
      · exact ih (h.grantTo c (hl c (List.mem_cons_self ..))) ht
      · exact h

theorem Stands.grantPass (h : Stands r op s) : Stands r op (Machine.grantPass s) := by
  refine h.grantList _ fun c hc k => ?_
  obtain ⟨hm, -⟩ := List.mem_filter.mp ((mem_sortBy _ _ _).mp hc)
  exact (h.kind c hm k).2

theorem Stands.retire (h : Stands r op s) {c : InFlight} (hc : c.ref ≠ r) (st : Nat) : Stands r op (Machine.retire c st s) := by
  unfold Machine.retire
  extract_lets _ a b _ d e
  have ha : Stands r op a := by
    obtain ⟨⟨x, hx, hr⟩, hn⟩ := h
    refine ⟨⟨x, List.mem_filter.mpr ⟨hx, ?_⟩, hr⟩, fun y hy => hn y (List.mem_filter.mp hy).1⟩
    rw [hr]
    simpa using fun k : r = c.ref => hc k.symm
  have hb : Stands r op b := ha.of_hq (dropWork_frame c.ref a)
  have hd : Stands r op d := by unfold d; split <;> exact hb.of_inflight rfl
  clear_value d
  split
  · have he : Stands r op e := by
      unfold e
      split
      · exact hd.of_hq (voidBlocks_frame ..)
      · exact hd
    unfold releaseStaging
    refine Stands.grantPass ?_
    exact he.of_inflight rfl
  · exact hd

theorem Stands.postEntry (h : Stands r op s) (c : InFlight) (st a b : Nat) (m : Bool) :
    Stands r op (Machine.postEntry c st a b m s) := h.of_inflight (postEntry_inflight c st a b m s).1

theorem Stands.abortsDone (h : Stands r op s) (c : InFlight) : Stands r op (Machine.abortsDone c s) := by
  unfold Machine.abortsDone
  extract_lets w
  have hw : ∀ a ∈ w, a.ref ≠ r := fun a ha k => by
    obtain ⟨hm, hs⟩ := List.mem_filter.mp ha
    simp only [Bool.and_eq_true, decide_eq_true_eq] at hs
    exact (h.kind a hm k).1 hs.1.1.1
  clear_value w
  induction w generalizing s with
  | nil => exact h
  | cons a t ih =>
    rw [forEach_cons]
    exact ih ((h.retire (hw a (List.mem_cons_self ..)) _).postEntry a _ _ _ _) fun b hb => hw b (List.mem_cons_of_mem _ hb)

/-- The end of one command leaves another in flight, unless it is an ABORT that waits for it. -/
theorem Stands.failCmd (h : Stands r op s) {q : CmdRef} (hq : q ≠ r) (st : Nat) : Stands r op (Machine.failCmd q st s) := by
  unfold Machine.failCmd
  split
  · exact h
  · rename_i c hc
    unfold complete
    simp only [hc]
    have hr : c.ref ≠ r := by rw [findCmd_ref hc]; exact hq
    exact (((h.postEntry c _ _ _ _).retire hr _).abortsDone c).of_inflight (fnSettle_inflight _ _)

theorem Stands.failEach (h : Stands r op s) {α : Type} (l : List α) (g : α → CmdRef) (hl : ∀ a ∈ l, g a ≠ r) (st : Nat) :
    Stands r op (forEach l (fun a x => Machine.failCmd (g a) st x) s) := by
  induction l generalizing s with
  | nil => exact h
  | cons a t ih =>
    rw [forEach_cons]
    exact ih (h.failCmd (hl a (List.mem_cons_self ..)) st) fun b hb => hl b (List.mem_cons_of_mem _ hb)

end

/-- With distinct tags the command that is found is the only one with its reference. -/
theorem TagsDistinct.unique {s : State} (h : TagsDistinct s) {c d : InFlight} (hc : findCmd s c.ref = some c)
    (hd : d ∈ s.hq.inflight) (he : d.ref = c.ref) : d = c :=
  eq_of_nodup_map h hd (List.mem_of_find?_eq_some hc) he

theorem TagsDistinct.stands {s : State} (h : TagsDistinct s) {op : Nat} {r : CmdRef} {c : InFlight} (hc : Ready s op r c) :
    Stands r op s := by
  have hr := findCmd_ref hc.found
  subst hr
  refine ⟨⟨c, List.mem_of_find?_eq_some hc.found, rfl⟩, fun e he k => ?_⟩
  rw [h.unique hc.found he k]
  exact ⟨by rw [hc.stage]; decide, hc.op⟩

/-! ### ABORT -/

theorem readyCmd_eq {s : State} {op : Nat} {r : CmdRef} {c : InFlight} (h : Ready s op r c) : readyCmd op r s = some c := by
  unfold readyCmd
  rw [h.found]
  exact if_pos ⟨h.op, h.stage⟩

theorem Ready.advance {s : State} {op : Nat} {r : CmdRef} {c : InFlight} (h : Ready s op r c) (t : Time) :
    Ready (Machine.advance t s) op r c := ⟨by rw [findCmd_advance]; exact h.found, h.stage, h.op, h.queue⟩


theorem findCmd_setCmd_same {s : State} {c d : InFlight} (h : findCmd s c.ref = some d) : findCmd (setCmd c s) c.ref = some c := by
  unfold findCmd setCmd at *
  dsimp only
  generalize s.hq.inflight = l at h ⊢
  induction l with
  | nil => cases h
  | cons a t ih =>
    rw [List.map_cons]
    by_cases k : a.ref = c.ref
    · rw [if_pos k, List.find?_cons_of_pos (by simp)]
    · have k' : (a.ref == c.ref) = false := by simpa using k
      simp only [List.find?_cons, k'] at h
      simp only [if_neg k, List.find?_cons, k']
      exact ih h

theorem findCmd_setCmd_other {s : State} {c : InFlight} {r : CmdRef} (h : r ≠ c.ref) : findCmd (setCmd c s) r = findCmd s r := by
  unfold findCmd setCmd
  dsimp only
  induction s.hq.inflight with
  | nil => rfl
  | cons a t ih =>
    rw [List.map_cons]
    by_cases k : a.ref = c.ref
    · have ha : ¬a.ref = r := fun e => h (e.symm.trans k)
      rw [if_pos k, List.find?_cons_of_neg (by simpa using fun e : c.ref = r => h e.symm),
        List.find?_cons_of_neg (by simpa using ha), ih]
    · rw [if_neg k]
      by_cases ha : a.ref = r
      · rw [List.find?_cons_of_pos (by simpa using ha), List.find?_cons_of_pos (by simpa using ha)]
      · rw [List.find?_cons_of_neg (by simpa using ha), List.find?_cons_of_neg (by simpa using ha), ih]

/-- The command that an ABORT names: another one of its function, on the queue and with the tag of its entry. -/
def abortTarget (ref : CmdRef) (q : Nat) (tag : BitVec 16) (d : InFlight) : Bool :=
  d.ref.fn == ref.fn && d.ref.sq == q && decide (q < 8192) && d.ref.tag == tag && d.ref != ref

theorem abortTarget_iff {ref : CmdRef} {q : Nat} {tag : BitVec 16} (hq : q < 8192) (hne : (⟨ref.fn, q, tag⟩ : CmdRef) ≠ ref)
    (d : InFlight) : abortTarget ref q tag d = (d.ref == ⟨ref.fn, q, tag⟩) := by
  rw [Bool.eq_iff_iff]
  unfold abortTarget
  simp only [Bool.and_eq_true, beq_iff_eq, decide_eq_true_eq, bne_iff_ne]
  constructor
  · rintro ⟨⟨⟨⟨h1, h2⟩, -⟩, h3⟩, -⟩
    rw [← h1, ← h2, ← h3]
  · intro h
    rw [h]
    exact ⟨⟨⟨⟨rfl, rfl⟩, hq⟩, rfl⟩, hne⟩

theorem execAbort_eq (t : Time) {ref : CmdRef} (ahead : List (BitVec 16)) {s : State} {c : InFlight} (h : Ready s 0x14 ref c) :
    exec (.abort t ref ahead) s =
      match s.hq.inflight.find? (abortTarget ref (eField c.entry 24 2) (BitVec.ofNat 16 (eField c.entry 26 2))) with
      | some d =>
        if pastPonr d then .next (setCmd { c with stage := .abortOwn } (advance t s))
        else .next (tidy (complete ref 0 0 0 false (failCmd d.ref 0x0003 (undefineOutput d (advance t s)))))
      | none =>
        let x := sqOf s ref.fn (eField c.entry 24 2)
        match (ahead.take (if x.depth = 0 then 0 else (x.tail + x.depth - x.head) % x.depth)).findIdx?
          (fun g => g == BitVec.ofNat 16 (eField c.entry 26 2)) with
        | some k =>
          if x.unit.st = .running ∧ !x.halted then
            .next (setCmd { c with stage := .abortWait, first := (x.head + k) % x.depth } (advance t s))
          else .next (complete ref 0x0101 0 0 false (advance t s))
        | none => .next (complete ref 0x0101 0 0 false (advance t s)) := by
  have hx := readyCmd_eq (h.advance t)
  have hsq : ∀ q, sqOf (advance t s) ref.fn q = sqOf s ref.fn q := sqOf_congr (by rw [advance_hq]) ref.fn
  change execAbort t ref ahead s = _
  unfold execAbort
  extract_lets x
  have hi : x.hq.inflight = s.hq.inflight := by unfold x; rw [advance_hq]
  rw [hx]
  dsimp only
  rw [hi, hsq]
  rfl

/-- Settles O23: the target is looked up among the commands in flight, then among the submitted entries. -/
theorem abortOutcomes : Obligations.AbortOutcomes := by
  unfold Obligations.AbortOutcomes
  refine ⟨fun t ref ahead s c d hr _ hq hd hne hfd hdist => ?_, fun t ref ahead s c x hr hx hnone => ?_⟩
  · have hfind : s.hq.inflight.find? (abortTarget ref (eField c.entry 24 2) (BitVec.ofNat 16 (eField c.entry 26 2))) = some d := by
      rw [funext (abortTarget_iff hq (by rw [← hd]; exact hne)), ← hd]
      exact hfd
    have e := execAbort_eq t ahead hr
    rw [hfind] at e
    dsimp only at e
    refine ⟨fun hp h0 h1 => ?_, fun hp => ?_⟩
    · rw [hp, if_neg nofun] at e
      let x : State := undefineOutput d (advance t s)
      have fx : Frame [.tb, .out] s x := (undefineOutput_frame d _).comp (advance_frame t s).widen (by decide)
      have hxi : x.hq.inflight = s.hq.inflight := by rw [fx.hq_eq]
      have e' : exec (.abort t ref ahead) s = .next (tidy (complete ref 0 0 0 false (failCmd d.ref 3 x))) := e
      clear_value x
      have hdx : findCmd x d.ref = some d := (findCmd_of_hq hxi _).trans hfd
      have hdq : d.ref.sq < 8192 := by rw [hd]; exact hq
      have h1' : Ends s (failCmd d.ref 3 x) d.ref 3 (failR0 d) (failR1 d) :=
        (failCmd_ends hdx hdq (by decide) h0 h1).after fx
      have fy : Frame [.tb, .hq, .eng, .cy, .vol, .rdr, .sm, .ic, .out] s (failCmd d.ref 3 x) :=
        (failCmd_frame d.ref 3 x).comp fx.widen (by decide)
      have hst : Stands ref 0x14 (failCmd d.ref 3 x) := ((hdist.stands hr).of_inflight hxi).failCmd hne 3
      obtain ⟨c', hc'⟩ := Option.isSome_iff_exists.mp hst.isSome
      generalize failCmd d.ref 3 x = y at e' h1' fy hst hc'
      exact ⟨_, e', (h1'.frame (complete_frame ..)).frame (tidy_frame _),
        ((complete_ends hc' hr.queue false (by decide) (by decide) (by decide)).after fy).frame (tidy_frame _)⟩
    · rw [hp, if_pos rfl] at e
      have hcr : c.ref = ref := findCmd_ref hr.found
      refine ⟨_, e, ?_, ?_⟩
      · rw [findCmd_setCmd_other (by show d.ref ≠ c.ref; rw [hcr]; exact hne), findCmd_advance]
        exact hfd
      · rw [← hcr]
        exact findCmd_setCmd_same (c := { c with stage := .abortOwn }) (d := c) (by
          show findCmd _ c.ref = _; rw [findCmd_advance, hcr]; exact hr.found)
  · have hfind : s.hq.inflight.find? (abortTarget ref (eField c.entry 24 2) (BitVec.ofNat 16 (eField c.entry 26 2))) = none := by
      rw [List.find?_eq_none]
      intro d hd hp
      unfold abortTarget at hp
      simp only [Bool.and_eq_true, beq_iff_eq, decide_eq_true_eq, bne_iff_ne] at hp
      obtain ⟨⟨⟨⟨h1, h2⟩, -⟩, h3⟩, h4⟩ := hp
      exact hnone d hd h4 (by rw [← h1, ← h2, ← h3])
    have e := execAbort_eq t ahead hr
    rw [hfind] at e
    dsimp only at e
    rw [← hx] at e
    have hcr : c.ref = ref := findCmd_ref hr.found
    have hends : Ends s (complete ref 0x0101 0 0 false (advance t s)) ref 0x0101 0 0 :=
      (complete_ends (hr.advance t).found hr.queue false (by decide) (by decide) (by decide)).after (advance_frame t s)
    refine ⟨fun k hrun hhalt hdepth hk => ?_, fun hno => ?_⟩
    · rw [if_neg hdepth, hk] at e
      dsimp only at e
      rw [if_pos ⟨hrun, by rw [hhalt]; rfl⟩] at e
      refine ⟨_, e, ?_⟩
      rw [← hcr]
      exact findCmd_setCmd_same (c := { c with stage := .abortWait, first := (x.head + k) % x.depth }) (d := c) (by
        show findCmd _ c.ref = _; rw [findCmd_advance, hcr]; exact hr.found)
    · refine ⟨_, e.trans ?_, hends⟩
      split
      · rename_i k hk
        rw [if_neg]
        rintro ⟨hrun, hhalt⟩
        rcases hno with h | h | h
        · rw [h] at hrun; cases hrun
        · rw [h] at hhalt; cases hhalt
        · obtain ⟨hlt, hp, -⟩ := List.findIdx?_eq_some_iff_getElem.mp hk
          exact h (by simpa using List.mem_of_mem_take (beq_iff_eq.mp hp ▸ List.getElem_mem hlt))
      · rfl

/-! ### HOLD_ENTER and HOLD_RELEASE -/

theorem Stands.holdCommands {r : CmdRef} {op : Nat} {s : State} (h : Stands r op s) (h4 : op ≠ 4)
    (hs : ∀ e ∈ s.hq.inflight, e.ref = r → e.stage = .ready) : Stands r op (Machine.holdCommands s) := by
  unfold Machine.holdCommands
  extract_lets _ x ends y fl
  have hready : ∀ e ∈ x.hq.inflight, e.ref = r → e.stage = .ready ∧ eOpcode e.entry = op := by
    intro e he k
    obtain ⟨e', he', rfl⟩ := List.mem_map.mp he
    have k' : e'.ref = r := by split at k <;> exact k
    have hl : isLongErase e' = false := by unfold isLongErase; rw [hs e' he' k']; simp
    rw [hl, if_neg nofun]
    exact ⟨hs e' he' k', (h.kind e' he' k').2⟩
  have hx : Stands r op x := by
    obtain ⟨e, he, hr⟩ := h.flying
    refine ⟨⟨_, List.mem_map_of_mem he, by split <;> exact hr⟩, fun e he k => ?_⟩
    obtain ⟨h1, h2⟩ := hready e he k
    exact ⟨by rw [h1]; decide, h2⟩
  have hends : ∀ c ∈ ends, c.ref ≠ r := by
    intro c hc k
    obtain ⟨hm, hp⟩ := List.mem_filter.mp hc
    obtain ⟨h1, -⟩ := hready c hm k
    simp [isTape, h1] at hp
  have hy : Stands r op y := hx.failEach ends (fun c => c.ref) hends 7
  refine hy.failEach fl (fun w => w.ref) (fun w hw k => ?_) 7
  obtain ⟨-, hp⟩ := List.mem_filter.mp hw
  rw [Bool.and_eq_true] at hp
  obtain ⟨hp, -⟩ := hp
  cases hf : findCmd y w.ref with
  | none => rw [hf] at hp; cases hp
  | some c =>
    rw [hf] at hp
    have hc := (hy.kind c (List.mem_of_find?_eq_some hf) ((findCmd_ref hf).trans k)).2
    exact h4 (hc.symm.trans (by simpa using hp))

theorem Stands.enterHold {r : CmdRef} {op : Nat} {s : State} (h : Stands r op s) (h4 : op ≠ 4)
    (hs : ∀ e ∈ s.hq.inflight, e.ref = r → e.stage = .ready) : Stands r op (Machine.enterHold s) := by
  unfold Machine.enterHold
  extract_lets a b c d _ e
  have fa : Frame [.gl, .crew, .vol, .wr, .sv, .ce, .ic, .spill, .ev, .out] s a :=
    (endSessions_frame _).comp (dropBurst_frame s).widen (by decide)
  have fb : Frame [.gl, .crew, .vol, .wr, .sv, .ce, .ic, .spill, .ev, .out] s b := (setMode_frame _ _).comp fa (by decide)
  have fc : Frame [.gl, .crew, .vol, .wr, .sv, .ce, .ic, .spill, .ev, .out] s c := (event_frame ..).comp fb (by decide)
  have fd : Frame [.gl, .crew, .vol, .wr, .sv, .ce, .ic, .spill, .ev, .out] s d := (closeGates_frame _).comp fc (by decide)
  clear_value d
  have he : e.hq.inflight = s.hq.inflight := by show d.hq.inflight = _; rw [fd.hq_eq]
  clear_value e
  exact (h.of_inflight he).holdCommands h4 (by rw [he]; exact hs)

theorem Stands.holdCause {r : CmdRef} {op : Nat} {s : State} (h : Stands r op s) (h4 : op ≠ 4)
    (hs : ∀ e ∈ s.hq.inflight, e.ref = r → e.stage = .ready) (b : Nat) : Stands r op (Machine.holdCause b s) := by
  unfold Machine.holdCause
  extract_lets _ x
  have hx : x.hq.inflight = s.hq.inflight := rfl
  split
  · exact h.of_inflight hx
  · exact (h.of_inflight hx).enterHold h4 (by rw [hx]; exact hs)

theorem holdCause_modeTs (b : Nat) (s : State) : (holdCause b s).gl.modeTs
    = if s.gl.cur = .reset ∨ s.gl.cur = .fill ∨ s.gl.cur = .hold then s.gl.modeTs else s.tb := by
  split
  · rename_i h; rw [holdCause_gl_stay b h]
  · rename_i h; rw [holdCause_gl b (not_or_or h)]

theorem liveBits_advance (t : Time) (s : State) : liveBits (advance t s) = liveBits s := by
  unfold liveBits liveCrit liveServo
  rw [advance_gl, advance_pins, advance_ce, advance_sv]

/-- HOLD ends in IDLE, and with no ERASE paused no command is touched. -/
theorem holdEnds_parts {s : State} (h : ∀ d ∈ s.hq.inflight, d.stage ≠ .paused) :
    (holdEnds s).gl.cur = .idle ∧ (holdEnds s).gl.latched = 0 ∧ Frame [.gl, .crew, .ce, .ic, .out] s (holdEnds s) := by
  unfold holdEnds
  have fx : Frame [.gl] s { s with gl := { s.gl with latched := 0 } } := by
    refine ⟨fun b hb => ?_, List.suffix_refl _⟩
    cases b <;> first | exact absurd (by decide) hb | exact refs_id rfl | rfl
  have hl : ({ s with gl := { s.gl with latched := 0 } } : State).gl.latched = 0 := rfl
  generalize ({ s with gl := { s.gl with latched := 0 } } : State) = x at fx hl ⊢
  have fy : Frame [.gl, .crew, .ce, .ic] x (setMode .idle x) := setMode_frame .idle x
  obtain ⟨p, t, hg⟩ := setMode_gl_any .idle x
  generalize setMode .idle x = y at fy hg ⊢
  have fz : Frame [.out] y (stopArm 0 y) := stopArm_frame 0 y
  generalize stopArm 0 y = z at fz ⊢
  have f : Frame [.gl, .crew, .ce, .ic, .out] s z := fz.comp (fy.comp fx.widen (by decide)) (by decide)
  have he : eraseResumes z = z := by
    unfold eraseResumes
    have hn : (z.hq.inflight.find? fun c => decide (c.stage = .paused)) = none := by
      rw [List.find?_eq_none, f.hq_eq]
      intro d hd hp
      exact h d hd (by simpa using hp)
    rw [hn]
  rw [he, (senseFastAll_frame z).gl_eq, fz.gl_eq, hg]
  exact ⟨rfl, hl, (senseFastAll_frame z).comp f (by decide)⟩

/-- Settles O37: the HOLD cause leaves HOLD_ENTER in flight, and HOLD_RELEASE ends HOLD where its test passes. -/
theorem holdByCommand : Obligations.HoldByCommand := by
  unfold Obligations.HoldByCommand
  refine ⟨fun t ref s c hr hdist => ?_, fun t ref s c hr => ?_⟩
  · have e : exec (.holdEnter t ref) s = .next (tidy (complete ref 0
        (senseFastAll (holdCause 6 (advance t s))).gl.modeTs.toNat 0 false (senseFastAll (holdCause 6 (advance t s))))) := by
      change execHoldEnter t ref s = _
      unfold execHoldEnter
      extract_lets x
      rw [readyCmd_eq (hr.advance t)]
    have hgl := advance_gl t s
    have f0 := advance_frame t s
    have hst : Stands ref 0x26 (advance t s) := ((f0.tagsDistinct hdist).stands (hr.advance t))
    have hready : ∀ e ∈ (advance t s).hq.inflight, e.ref = ref → e.stage = .ready := fun e he k => by
      have hcr := findCmd_ref hr.found
      rw [(f0.tagsDistinct hdist).unique (c := c) (by rw [hcr]; exact (hr.advance t).found) he (k.trans hcr.symm)]
      exact hr.stage
    generalize advance t s = x at e hgl f0 hst hready ⊢
    have fy : Frame _ x (senseFastAll (holdCause 6 x)) := (senseFastAll_frame _).comp (holdCause_frame 6 x) (by decide)
    have hy : Stands ref 0x26 (senseFastAll (holdCause 6 x)) :=
      (hst.holdCause (by decide) hready 6).of_hq (senseFastAll_frame _)
    obtain ⟨hl, hh, hs, -⟩ := holdCause_modes 6 x
    have hts := holdCause_modeTs 6 x
    have hg : (senseFastAll (holdCause 6 x)).gl = (holdCause 6 x).gl := (senseFastAll_frame _).gl_eq
    rw [← hg, hgl] at hl hh hs hts
    generalize senseFastAll (holdCause 6 x) = y at e fy hy hl hh hs hts
    obtain ⟨d, hd⟩ := Option.isSome_iff_exists.mp hy.isSome
    have hends : Ends s (tidy (complete ref 0 y.gl.modeTs.toNat 0 false y)) ref 0 y.gl.modeTs.toNat 0 :=
      (((complete_ends hd hr.queue false (by decide) y.gl.modeTs.isLt (by decide)).after fy).after f0).frame (tidy_frame _)
    have hu : (tidy (complete ref 0 y.gl.modeTs.toNat 0 false y)).gl = y.gl :=
      (tidy_frame _).gl_eq.trans (complete_frame ..).gl_eq
    have h6 : (tidy (complete ref 0 y.gl.modeTs.toNat 0 false y)).gl.latched.getLsbD 6 = true := by
      rw [hu, hl, BitVec.getLsbD_or]; simp
    refine ⟨fun h1 h2 h3 => ⟨_, e, by rw [hu]; exact (hh ⟨h1, h2, h3⟩).1, h6, ?_⟩, fun h3 =>
      ⟨_, e, by rw [hu]; exact (hs (.inr (.inr h3))).1.trans h3, h6, ?_⟩⟩
    · rw [if_neg fun k => k.elim h1 fun k => k.elim h2 h3] at hts
      rw [← hts]; exact hends
    · rw [if_pos (.inr (.inr h3))] at hts
      rw [← hts]; exact hends
  · have hx := hr.advance t
    have hrel : holdReleasable (advance t s) = holdReleasable s := by
      unfold holdReleasable; rw [advance_gl, liveBits_advance]
    have e : exec (.holdRelease t ref) s = .next (if holdReleasable s then tidy (complete ref 0 0 0 false (holdEnds (advance t s)))
        else tidy (complete ref 0x0007 0 0 false (advance t s))) := by
      change execHoldRelease t ref s = _
      unfold execHoldRelease
      extract_lets x
      rw [readyCmd_eq hx, apply_ite Host.Outcome.next, ← hrel]
    refine ⟨fun h1 h2 h3 h4 => ?_, fun h => ?_⟩
    · rw [if_pos (by unfold holdReleasable; rw [h1, h2, h3]; rfl)] at e
      obtain ⟨hc, hl, hf⟩ := holdEnds_parts (s := advance t s) (by rw [advance_hq]; exact h4)
      generalize holdEnds (advance t s) = y at e hc hl hf
      have hu : (tidy (complete ref 0 0 0 false y)).gl = y.gl := (tidy_frame _).gl_eq.trans (complete_frame ..).gl_eq
      refine ⟨_, e, Ends.frame ?_ (tidy_frame _), by rw [hu, hc], by rw [hu, hl]⟩
      exact ((complete_ends ((findCmd_of_hq (by rw [hf.hq_eq]) _).trans hx.found) hr.queue false (by decide) (by decide)
        (by decide)).after hf).after (advance_frame t s)
    · rw [if_neg] at e
      · refine ⟨_, e, Ends.frame ?_ (tidy_frame _), ?_, ?_⟩
        · exact (complete_ends hx.found hr.queue false (by decide) (by decide) (by decide)).after (advance_frame t s)
        · rw [(tidy_frame _).gl_eq, (complete_frame ..).gl_eq, advance_gl]
        · rw [(tidy_frame _).pins_eq, (complete_frame ..).pins_eq, advance_pins]
      · unfold holdReleasable
        intro k
        simp only [Bool.and_eq_true, decide_eq_true_eq, Bool.not_eq_true', beq_iff_eq] at k
        obtain ⟨⟨h1, h2⟩, h3⟩ := k
        rcases h with h | h | h
        · exact h h1
        · rw [h2] at h; cases h
        · exact h h3

/-! ### COMMAND_FETCH -/

/-- A check answers nothing, or a status other than SUCCESS. -/
def Check (o : Option Nat) : Prop := ∀ st, o = some st → st ≠ 0 ∧ st < 65536

theorem Check.none : Check none := fun _ h => by cases h

theorem Check.some {st : Nat} (h : st ≠ 0 ∧ st < 65536) : Check (some st) := fun _ k => by cases k; exact h

theorem Check.ite {a b : Option Nat} {p : Prop} [Decidable p] (ha : Check a) (hb : Check b) : Check (if p then a else b) := by
  split <;> assumption

theorem opcodeCheck_check (q : Nat) (e : BitVec 512) : Check (opcodeCheck q e) := by
  unfold opcodeCheck
  split
  · exact .some (by decide)
  · exact .ite .none (.some (by decide))

theorem fieldCheck_check (s : State) (r : CmdRef) (e : BitVec 512) : Check (fieldCheck s r e) := by
  unfold fieldCheck
  split
  · exact .some (by decide)
  · exact .ite .none (.some (by decide))

theorem keyCheck_check (s : State) (f : Fn) (e : BitVec 512) : Check (keyCheck s f e) := by
  unfold keyCheck
  refine .ite ?_ .none
  unfold slotStatus
  split
  · exact .some (by decide)
  · exact .none
  · exact .some (by decide)

theorem volumeCheck_check (s : State) (e : BitVec 512) : Check (volumeCheck s e) :=
  .ite (.some (by decide)) (.ite (.some (by decide)) (.ite (.some (by decide)) .none))

/-- Each check of R83 that fails names a status other than SUCCESS. -/
theorem fetchChecks_check (s : State) (r : CmdRef) (e : BitVec 512) (held : Bool) : Check (fetchChecks s r e held) := by
  have access : Check (accessCheck s r.fn e) := .ite (.some (by decide)) .none
  have mode : Check (modeCheck s e) := .ite (.some (by decide)) .none
  have volume : Check (if held then none else volumeCheck s e) := .ite .none (volumeCheck_check s e)
  have cal : Check (calCheck s e) := .ite (.some (by decide)) .none
  intro st h
  unfold fetchChecks at h
  split at h
  · rename_i k hk; cases h; exact opcodeCheck_check _ _ _ hk
  · split at h
    · rename_i k hk; cases h; exact fieldCheck_check _ _ _ _ hk
    · split at h
      · rename_i k hk; cases h; exact access _ hk
      · split at h
        · rename_i k hk; cases h; exact mode _ hk
        · split at h
          · rename_i k hk; cases h; exact volume _ hk
          · split at h
            · rename_i k hk; cases h; exact cal _ hk
            · exact keyCheck_check _ _ _ _ h

theorem fetchChecks_opcode {s : State} {r : CmdRef} {e : BitVec 512} {held : Bool} {st : Nat}
    (h : opcodeCheck r.sq e = some st) : fetchChecks s r e held = some st := by
  unfold fetchChecks
  rw [h]

/-- What the fetch of a command fixes leaves the commands in flight, the queues and the fetch order. -/
theorem fetchEffect_hq (c : InFlight) (s : State) : ∃ l, (fetchEffect c s).hq = { s.hq with flushes := l } := by
  unfold fetchEffect
  split
  · exact ⟨_, rfl⟩
  · split
    · exact ⟨_, rfl⟩
    · split <;> exact ⟨s.hq.flushes, rfl⟩

theorem postEntry_hq (c : InFlight) (st a b : Nat) (m : Bool) (s : State) :
    ∃ l, (postEntry c st a b m s).hq = { s.hq with cqs := l } := by
  unfold postEntry
  split
  · exact ⟨s.hq.cqs, rfl⟩
  · exact ⟨_, rfl⟩

/-- The command of a fetched entry. -/
def Fetched (c : InFlight) (r : CmdRef) (e : BitVec 512) (n : Nat) : Prop := c.ref = r ∧ c.entry = e ∧ c.order = n

/-- With no ABORT waiting for a submitted entry a fetch posts the failed check or joins the command to those in flight. -/
theorem fetchEntry_cases (f : Fn) (q : Nat) (e : BitVec 512) {s : State} (ha : ∀ a ∈ s.hq.inflight, a.stage ≠ .abortWait) :
    ∃ x c, x.hq = { (setSq f q { sqOf s f q with head := ((sqOf s f q).head + 1) % (sqOf s f q).depth } s).hq with
                      fetched := s.hq.fetched + 1 }
      ∧ Fetched c ⟨f, q, eTag e⟩ e (s.hq.fetched + 1) ∧ x.out = s.out
      ∧ ((∃ st, st ≠ 0 ∧ st < 65536 ∧ (opcodeCheck q e = some 1 → st = 1)
            ∧ fetchEntry f q e s = postEntry c st (failR0 c) (failR1 c) false x)
        ∨ (opcodeCheck q e = none ∧ fetchEntry f q e s = fetchEffect c { x with hq := { x.hq with inflight := x.hq.inflight ++ [c] } })) := by
  generalize hu : fetchEntry f q e s = u
  unfold fetchEntry at hu
  extract_lets r x slot y _ z held c hooks at hu
  have hz : z.hq = { (setSq f q { x with head := (x.head + 1) % x.depth } s).hq with fetched := s.hq.fetched + 1 } := rfl
  have hzo : z.out = s.out := rfl
  have hzi : z.hq.inflight = s.hq.inflight := rfl
  have hh : hooks = [] := by
    unfold hooks
    rw [hzi, List.filter_eq_nil_iff]
    intro a hm
    simp [ha a hm]
  have hc : Fetched c r e (s.hq.fetched + 1) := ⟨rfl, rfl, rfl⟩
  rw [hh] at hu
  refine ⟨z, c, hz, hc, hzo, ?_⟩
  clear_value z c
  cases hk : fetchChecks z r e held with
  | some st =>
    rw [hk] at hu
    obtain ⟨h0, h1⟩ := fetchChecks_check z r e held st hk
    refine .inl ⟨st, h0, h1, fun ho => ?_, hu.symm⟩
    rw [fetchChecks_opcode (r := r) ho] at hk
    exact (Option.some.inj hk).symm
  | none =>
    rw [hk] at hu
    refine .inr ⟨?_, hu.symm⟩
    cases ho : opcodeCheck q e with
    | none => rfl
    | some st => rw [fetchChecks_opcode (r := r) ho] at hk; cases hk

theorem fetching_advance (t : Time) (s : State) : fetching (advance t s) = fetching s := by
  unfold fetching; rw [advance_gl]

theorem fetchStopped_advance (t : Time) (s : State) : fetchStopped (advance t s) = fetchStopped s := by
  unfold fetchStopped; rw [advance_gl, advance_hq]

theorem pickSq_advance (t : Time) (s : State) : pickSq (advance t s) = pickSq s := by
  unfold advance; split <;> rfl

theorem orderedWaits_advance (t : Time) (s : State) (r : CmdRef) (e : BitVec 512) :
    orderedWaits (advance t s) r e = orderedWaits s r e := by
  unfold orderedWaits; rw [advance_hq]

/-- Settles O19: the entry is fetched from the queue whose turn it is, and the checks decide. -/
theorem commandFetch : Obligations.CommandFetch := by
  unfold Obligations.CommandFetch
  refine ⟨fun t e s f q turn hf hs hp ha hq ho => ?_, fun t e s f q turn hf hs hp ho => ?_, fun t ref s => rfl⟩
  · have hx : ∀ f q, sqOf (advance t s) f q = sqOf s f q := sqOf_congr (by rw [advance_hq])
    have hqs := advance_hq t s
    have hos := advance_out t s
    have e0 : exec (.commandFetch t e) s = .next (fetchEntry f q e { advance t s with hq := { (advance t s).hq with turn := turn } }) := by
      refine (if_neg ?_).trans ?_
      · rw [fetching_advance, fetchStopped_advance, hf, hs]; nofun
      · rw [pickSq_advance, hp]
        exact if_neg (by rw [orderedWaits_advance, ho]; nofun)
    obtain ⟨y, hy⟩ : ∃ y : State, y = { advance t s with hq := { (advance t s).hq with turn := turn } } := ⟨_, rfl⟩
    have hyq : y.hq = { s.hq with turn := turn } := by rw [hy, ← hqs]
    have hyo : y.out = s.out := by rw [hy]; exact hos
    rw [← hy] at e0
    clear hy
    have hsq : sqOf y f q = sqOf s f q := sqOf_congr (by rw [hyq]) f q
    obtain ⟨x, c, hxq, ⟨hcr, hce, hco⟩, hxo, hcases⟩ := fetchEntry_cases f q e (s := y) (by rw [hyq]; exact ha)
    rw [hsq] at hxq
    have hhead : ∀ u : State, u.hq.sqs = x.hq.sqs → (sqOf u f q).head = ((sqOf s f q).head + 1) % (sqOf s f q).depth := by
      intro u hu
      have hsu : sqOf u f q = sqOf (setSq f q { sqOf s f q with head := ((sqOf s f q).head + 1) % (sqOf s f q).depth } y) f q :=
        sqOf_congr (by rw [hu, hxq]) f q
      rw [hsu, sqOf_setSq]
    have hfetched : x.hq.fetched = s.hq.fetched + 1 := by rw [hxq, hyq]
    have hin : x.hq.inflight = s.hq.inflight := by
      rw [hxq]; show y.hq.inflight = _; rw [hyq]
    rw [hyq] at hco
    refine ⟨_, e0, ?_⟩
    rcases hcases with ⟨st, h0, h1, hop, hu⟩ | ⟨hop, hu⟩
    · obtain ⟨l, hl⟩ := postEntry_hq c st (failR0 c) (failR1 c) false x
      obtain ⟨cq, slot, bytes, hsent, htag, hst⟩ := postEntry_said c st (failR0 c) (failR1 c) false x (by rw [hcr]; exact hq) h1
      rw [hu]
      rw [hcr] at hsent htag
      have hs' : Sent s (postEntry c st (failR0 c) (failR1 c) false x) (.completion f cq slot bytes) := by
        unfold Sent at hsent ⊢
        rwa [hxo, hyo] at hsent
      have hini : (postEntry c st (failR0 c) (failR1 c) false x).hq.inflight = s.hq.inflight := by rw [hl]; exact hin
      refine ⟨hhead _ (by rw [hl]), by rw [hl]; exact hfetched, fun ho => ⟨hini, cq, slot, bytes, hs', htag, hst.trans (hop ho)⟩,
        .inl ⟨hini, cq, slot, bytes, hs', htag, by rw [hst]; exact h0⟩⟩
    · obtain ⟨l, hl⟩ := fetchEffect_hq c { x with hq := { x.hq with inflight := x.hq.inflight ++ [c] } }
      rw [hu]
      exact ⟨hhead _ (by rw [hl]), by rw [hl]; exact hfetched, fun ho => (by rw [hop] at ho; cases ho),
        .inr ⟨c, by rw [hl, ← hin], hcr, hce, hco⟩⟩
  · have e0 : exec (.commandFetch t e) s
        = .next { advance t s with hq := { (advance t s).hq with turn := { turn with sqLeft := 0 } } } := by
      refine (if_neg ?_).trans ?_
      · rw [fetching_advance, fetchStopped_advance, hf, hs]; nofun
      · rw [pickSq_advance, hp]
        exact if_pos (by rw [orderedWaits_advance, ho])
    exact ⟨_, e0, by show (advance t s).hq.sqs = _; rw [advance_hq], by show (advance t s).hq.inflight = _; rw [advance_hq]⟩

end Sys2Proof.Machine
end

section
/-! ## The reset of functions -/
namespace Sys2Proof.Machine
set_option Elab.async false

/-! ### What the end of commands leaves of the functions that are not stopping -/

/-- The references of the commands in flight. -/
def refs (s : State) : List CmdRef := s.hq.inflight.map fun c => c.ref

theorem sublist_of_eq {α : Type} {l m : List α} (h : l = m) : l.Sublist m := h ▸ List.Sublist.refl l

/-- What the ends of commands and the passes behind them keep: the allotment, VF Enable, the activation and the key-encryption keys; of a
function that is not stopping its registers and submission queues, and its completion queues where none of its commands
is of a queue. -/
structure HostStays (s u : State) : Prop where
  refs : (refs u).Sublist (refs s)
  allot : u.hq.allot = s.hq.allot
  vf : u.hq.vfEnable = s.hq.vfEnable
  act : u.hq.act = s.hq.act
  keks : u.cy.keks = s.cy.keks
  fns : ∀ g, (hqFn s g).unit.st ≠ .stopping → hqFn u g = hqFn s g
  sqs : ∀ g, (hqFn s g).unit.st ≠ .stopping → ∀ q, sqOf u g q = sqOf s g q
  cqs : ∀ g, (hqFn s g).unit.st ≠ .stopping → (∀ r ∈ Machine.refs s, r.fn = g → 8192 ≤ r.sq) → ∀ q, cqOf u g q = cqOf s g q

section
variable {s x u : State}

theorem HostStays.refl (s : State) : HostStays s s :=
  ⟨List.Sublist.refl _, rfl, rfl, rfl, rfl, fun _ _ => rfl, fun _ _ _ => rfl, fun _ _ _ _ => rfl⟩

theorem HostStays.trans (h : HostStays s x) (k : HostStays x u) : HostStays s u := by
  have hst : ∀ g, (hqFn s g).unit.st ≠ .stopping → (hqFn x g).unit.st ≠ .stopping := fun g hg => by rw [h.fns g hg]; exact hg
  refine ⟨k.refs.trans h.refs, k.allot.trans h.allot, k.vf.trans h.vf, k.act.trans h.act, k.keks.trans h.keks,
    fun g hg => ?_, fun g hg q => ?_, fun g hg hr q => ?_⟩
  · rw [k.fns g (hst g hg), h.fns g hg]
  · rw [k.sqs g (hst g hg), h.sqs g hg]
  · rw [k.cqs g (hst g hg) (fun r hm => hr r (h.refs.subset hm)), h.cqs g hg hr]

theorem HostStays.of_tables (hr : (Machine.refs u).Sublist (Machine.refs s)) (ha : u.hq.allot = s.hq.allot)
    (hv : u.hq.vfEnable = s.hq.vfEnable) (he : u.hq.act = s.hq.act) (hk : u.cy.keks = s.cy.keks) (hf : u.hq.fns = s.hq.fns) (hs : u.hq.sqs = s.hq.sqs)
    (hc : u.hq.cqs = s.hq.cqs) : HostStays s u :=
  ⟨hr, ha, hv, he, hk, fun g _ => hqFn_congr hf g, fun g _ => sqOf_congr hs g, fun g _ _ => cqOf_congr hc g⟩

theorem refs_of_hq (hq : u.hq = s.hq) : Machine.refs u = Machine.refs s := by
  unfold Machine.refs
  rw [hq]

theorem HostStays.of_hq (hq : u.hq = s.hq) (hk : u.cy.keks = s.cy.keks) : HostStays s u :=
  .of_tables (sublist_of_eq (refs_of_hq hq)) (by rw [hq]) (by rw [hq]) (by rw [hq]) hk (by rw [hq]) (by rw [hq]) (by rw [hq])

theorem HostStays.setCmd (c : InFlight) (s : State) : HostStays s (Machine.setCmd c s) := by
  refine .of_tables ?_ rfl rfl rfl rfl rfl rfl rfl
  have e : Machine.refs (Machine.setCmd c s) = Machine.refs s := by
    unfold Machine.refs Machine.setCmd
    rw [List.map_map]
    refine List.map_congr_left fun d _ => ?_
    show (if d.ref = c.ref then c else d).ref = d.ref
    split
    · rename_i k; exact k.symm
    · rfl
  exact sublist_of_eq e

theorem HostStays.forEach {α : Type} (l : List α) (op : α → State → State) (h : ∀ a x, HostStays x (op a x)) (s : State) :
    HostStays s (forEach l op s) := by
  induction l generalizing s with
  | nil => exact .refl s
  | cons a r ih => rw [forEach_cons]; exact (h a s).trans (ih _)

theorem HostStays.grantTo (c : InFlight) (s : State) : HostStays s (Machine.grantTo c s) := by
  unfold Machine.grantTo
  extract_lets g _ x
  have hx : HostStays s x := by
    refine HostStays.trans ?_ (.setCmd _ _)
    exact .of_hq rfl rfl
  have h1 := trimCache_frame x.rdr.cache.length x
  have h2 := startRuns_frame c (trimCache x.rdr.cache.length x)
  exact hx.trans (.of_hq (h2.hq_eq.trans h1.hq_eq) (by rw [h2.cy_eq, h1.cy_eq]))

theorem HostStays.grantList (l : List InFlight) (s : State) : HostStays s (Machine.grantList l s) := by
  induction l generalizing s with
  | nil => exact .refl s
  | cons c r ih =>
    unfold Machine.grantList
    split
    · exact ih s
    · split
      · exact (HostStays.grantTo c s).trans (ih _)
      · exact .refl s

theorem HostStays.retire (c : InFlight) (st : Nat) (s : State) : HostStays s (Machine.retire c st s) := by
  unfold Machine.retire
  extract_lets _ a b _ d e
  have ha : HostStays s a := .of_tables (List.Sublist.map _ List.filter_sublist) rfl rfl rfl rfl rfl rfl rfl
  have hb : HostStays a b := .of_hq (dropWork_frame c.ref a).hq_eq (by unfold b dropWork; rfl)
  have hd : HostStays b d := by unfold d; split <;> exact .of_hq rfl rfl
  have h := ha.trans (hb.trans hd)
  clear_value d
  split
  · have he : HostStays d e := by
      unfold e
      split
      · exact .of_hq (voidBlocks_frame ..).hq_eq (by rw [(voidBlocks_frame ..).cy_eq])
      · exact .refl d
    unfold releaseStaging grantPass
    refine (h.trans he).trans (HostStays.trans ?_ (.grantList _ _))
    exact .of_hq rfl rfl
  · exact h

/-- A completion entry of a command that was in flight goes to a completion queue of its function. -/
theorem HostStays.postEntry (h : HostStays s x) {c : InFlight} (hc : c.ref ∈ Machine.refs s) (st a b : Nat) (m : Bool) :
    HostStays s (Machine.postEntry c st a b m x) := by
  unfold Machine.postEntry
  split
  · exact h
  · extract_lets f sq cq bytes wrap cq'
    refine ⟨h.refs, h.allot, h.vf, h.act, h.keks, h.fns, h.sqs, fun g hg hr q => ?_⟩
    have hfg : g ≠ f := fun e => by
      have := hr c.ref hc e.symm
      omega
    exact (cqOf_setCq_other cq' x (fun k => hfg k.1)).trans (h.cqs g hg hr q)

theorem HostStays.abortsDone (h : HostStays s x) (c : InFlight) : HostStays s (Machine.abortsDone c x) := by
  unfold Machine.abortsDone
  extract_lets w
  have hw : ∀ a ∈ w, a.ref ∈ Machine.refs s := fun a ha =>
    h.refs.subset (List.mem_map_of_mem (List.mem_filter.mp ha).1)
  clear_value w
  induction w generalizing x with
  | nil => exact h
  | cons a t ih =>
    rw [forEach_cons]
    exact ih ((h.trans (.retire a _ x)).postEntry (hw a (List.mem_cons_self ..)) _ _ _ _)
      fun b hb => hw b (List.mem_cons_of_mem _ hb)

theorem HostStays.fnStart (f : Fn) (s : State) :
    (∀ g, g ≠ f → hqFn (Machine.fnStart f s) g = hqFn s g ∧ (∀ q, sqOf (Machine.fnStart f s) g q = sqOf s g q)
      ∧ ∀ q, cqOf (Machine.fnStart f s) g q = cqOf s g q) ∧ (Machine.fnStart f s).hq.allot = s.hq.allot
      ∧ Machine.refs (Machine.fnStart f s) = Machine.refs s ∧ (Machine.fnStart f s).hq.act = s.hq.act := by
  unfold Machine.fnStart
  extract_lets h v refuse i y z
  have hr : ∀ w : State, w.hq = s.hq → (∀ g, g ≠ f → hqFn (refuse w) g = hqFn s g ∧ (∀ q, sqOf (refuse w) g q = sqOf s g q)
      ∧ ∀ q, cqOf (refuse w) g q = cqOf s g q) ∧ (refuse w).hq.allot = s.hq.allot ∧ Machine.refs (refuse w) = Machine.refs s
      ∧ (refuse w).hq.act = s.hq.act := by
    intro w hw
    refine ⟨fun g hg => ⟨?_, fun q => ?_, fun q => ?_⟩, ?_, ?_, ?_⟩
    · exact (hqFn_setHqFn_other _ _ hg).trans (hqFn_congr (by rw [hw]) g)
    · exact sqOf_congr (s := s) (by show w.hq.sqs = _; rw [hw]) g q
    · exact cqOf_congr (s := s) (by show w.hq.cqs = _; rw [hw]) g q
    · show w.hq.allot = _; rw [hw]
    · show w.hq.inflight.map _ = _; rw [hw]; rfl
    · show w.hq.act = _; rw [hw]
  split
  · exact hr s rfl
  · split
    · exact hr _ rfl
    · have hb : ∀ a b c, (bindCq f 0 a b (setCq f 0 c z)).hq = (setCq f 0 c z).hq := fun a b c => (bindCq_frame ..).hq_eq
      refine ⟨fun g hg => ⟨?_, fun q => ?_, fun q => ?_⟩, ?_, ?_, ?_⟩
      · rw [hqFn_congr (s := y) (by rw [hb]; rfl) g]
        exact hqFn_setHqFn_other _ _ hg
      · rw [sqOf_congr (s := z) (by rw [hb]; rfl) g q]
        exact (sqOf_setSq_other _ y (fun k => hg k.1)).trans rfl
      · rw [cqOf_congr (s := setCq f 0 (cqNew h.acqBase (bits h.aqSize 16 12 + 1)) z) (by rw [hb]) g q]
        exact (cqOf_setCq_other _ z (fun k => hg k.1)).trans rfl
      · rw [hb]; rfl
      · unfold Machine.refs; rw [hb]; rfl
      · rw [hb]; rfl

theorem HostStays.fnSettle (f : Fn) (s : State) : HostStays s (Machine.fnSettle f s) := by
  by_cases hst : (hqFn s f).unit.st = .stopping
  · unfold Machine.fnSettle
    extract_lets h x v y
    have hh : h.unit.st = .stopping := hst
    rw [hh]
    dsimp -zeta only
    split
    · exact .refl s
    · have hxq : x.hq = (setCq f 0 cqNone (setSq f 0 sqNone s)).hq := (unbindCq_frame ..).hq_eq
      have hy : (∀ g, g ≠ f → hqFn y g = hqFn s g ∧ (∀ q, sqOf y g q = sqOf s g q) ∧ ∀ q, cqOf y g q = cqOf s g q)
          ∧ y.hq.allot = s.hq.allot ∧ Machine.refs y = Machine.refs s ∧ y.hq.vfEnable = s.hq.vfEnable
          ∧ y.hq.act = s.hq.act ∧ y.cy.keks = s.cy.keks := by
        refine ⟨fun g hg => ⟨?_, fun q => ?_, fun q => ?_⟩, ?_, ?_, ?_, ?_, ?_⟩
        · exact (hqFn_setHqFn_other _ _ hg).trans (hqFn_congr (by rw [hxq]; rfl) g)
        · rw [sqOf_congr (s := setSq f 0 sqNone s) (by show x.hq.sqs = _; rw [hxq]; rfl) g q]
          exact sqOf_setSq_other _ s (fun k => hg k.1)
        · rw [cqOf_congr (s := setCq f 0 cqNone (setSq f 0 sqNone s)) (by show x.hq.cqs = _; rw [hxq]) g q]
          exact (cqOf_setCq_other _ _ (fun k => hg k.1)).trans rfl
        · show x.hq.allot = _; rw [hxq]; rfl
        · show x.hq.inflight.map _ = _; rw [hxq]; rfl
        · show x.hq.vfEnable = _; rw [hxq]; rfl
        · show x.hq.act = _; rw [hxq]; rfl
        · show x.cy.keks = _; rw [(unbindCq_frame ..).cy_eq]; rfl
      clear_value y
      obtain ⟨hg, ha, hr, hv, he, hk⟩ := hy
      have of : ∀ z : State, (∀ g, g ≠ f → hqFn z g = hqFn y g ∧ (∀ q, sqOf z g q = sqOf y g q) ∧ ∀ q, cqOf z g q = cqOf y g q) →
          z.hq.allot = y.hq.allot → Machine.refs z = Machine.refs y → z.hq.vfEnable = y.hq.vfEnable → z.hq.act = y.hq.act →
          z.cy.keks = y.cy.keks → HostStays s z := by
        intro z hz hza hzr hzv hze hzk
        have ne : ∀ g, (hqFn s g).unit.st ≠ .stopping → g ≠ f := fun g h e => h (by rw [e]; exact hst)
        refine ⟨sublist_of_eq (hzr.trans hr), hza.trans ha, hzv.trans hv, hze.trans he, hzk.trans hk, fun g h => ?_, fun g h q => ?_, fun g h _ q => ?_⟩
        · exact (hz g (ne g h)).1.trans (hg g (ne g h)).1
        · exact ((hz g (ne g h)).2.1 q).trans ((hg g (ne g h)).2.1 q)
        · exact ((hz g (ne g h)).2.2 q).trans ((hg g (ne g h)).2.2 q)
      split
      · obtain ⟨h1, h2, h3, h4⟩ := HostStays.fnStart f y
        exact of _ h1 h2 h3 (fnStart_vf f y) h4 (by rw [(fnStart_frame f y).cy_eq])
      · exact of y (fun g _ => ⟨rfl, fun _ => rfl, fun _ => rfl⟩) rfl rfl rfl rfl rfl
  · rw [fnSettle_running hst]; exact .refl s

theorem HostStays.complete (r : CmdRef) (st a b : Nat) (m : Bool) (s : State) :
    HostStays s (Machine.complete r st a b m s) := by
  unfold Machine.complete
  split
  · exact .refl s
  · rename_i c hc
    have hm : c.ref ∈ Machine.refs s := List.mem_map_of_mem (List.mem_of_find?_eq_some hc)
    exact ((((HostStays.refl s).postEntry hm st a b m).trans (.retire c st _)).abortsDone c).trans (.fnSettle r.fn _)

theorem HostStays.failCmd (r : CmdRef) (st : Nat) (s : State) : HostStays s (Machine.failCmd r st s) := by
  unfold Machine.failCmd
  split
  · exact .refl s
  · exact .complete _ _ _ _ _ _

theorem HostStays.completeFlush (r : CmdRef) (a b : Nat) (s : State) : HostStays s (Machine.completeFlush r a b s) := by
  unfold Machine.completeFlush
  split
  · exact .refl s
  · rename_i c _
    extract_lets own old
    unfold flushReport
    split
    · exact .complete _ _ _ _ _ _
    · rename_i x l rest _
      extract_lets status q s₁ s₂
      have h₁ : HostStays s s₁ := .of_tables (List.Sublist.refl _) rfl rfl rfl rfl rfl rfl rfl
      have h₂ : HostStays s₁ s₂ := by
        unfold s₂
        split
        · exact .refl s₁
        · exact .of_hq (event_frame ..).hq_eq (by rw [(event_frame ..).cy_eq])
      exact (h₁.trans h₂).trans (.complete _ _ _ _ _ _)

theorem HostStays.tidy (s : State) : HostStays s (Machine.tidy s) := by
  unfold Machine.tidy
  have h₁ : HostStays s (releaseHeld s) := by
    unfold releaseHeld
    refine HostStays.forEach _ _ (fun c x => ?_) s
    split
    · exact .refl _
    · split
      · exact .failCmd _ _ _
      · exact .setCmd _ _
  have h₂ : HostStays (releaseHeld s) (flushPass (releaseHeld s)) := by
    unfold flushPass
    refine HostStays.forEach _ _ (fun w x => ?_) _
    split
    · exact .refl _
    · split
      · exact .completeFlush _ _ _ _
      · exact .refl _
  have h₃ := poolPass_frame (flushPass (releaseHeld s))
  exact (h₁.trans h₂).trans (.of_hq h₃.hq_eq (by rw [(EndKept.poolPass _).cy]))

end

/-! ### A function after its reset -/

/-- Nothing of the function is left: no command of a queue in flight, no queue, its registers at reset, no KEK. -/
structure FnClear (f : Fn) (s : State) : Prop where
  refs : ∀ r ∈ refs s, r.fn = f → 8192 ≤ r.sq
  queues : ∀ q, q < 8192 → sqOf s f q = sqNone ∧ cqOf s f q = cqNone
  fn : hqFn s f = hqFnDefault
  kek : kekOf s f = []

theorem FnClear.findCmd_none {f : Fn} {s : State} (h : FnClear f s) {r : CmdRef} (hf : r.fn = f) (hq : r.sq < 8192) :
    findCmd s r = none := by
  unfold findCmd
  rw [List.find?_eq_none]
  intro d hd hr
  have he : d.ref = r := by simpa using hr
  have := h.refs d.ref (List.mem_map_of_mem hd) (by rw [he]; exact hf)
  rw [he] at this
  omega

theorem FnClear.stays {f : Fn} {s u : State} (h : FnClear f s) (k : HostStays s u) : FnClear f u := by
  have hst : (hqFn s f).unit.st ≠ .stopping := by rw [h.fn]; decide
  refine ⟨fun r hm => h.refs r (k.refs.subset hm), fun q hq => ?_, (k.fns f hst).trans h.fn, ?_⟩
  · rw [k.sqs f hst, k.cqs f hst h.refs]; exact h.queues q hq
  · unfold kekOf; rw [k.keks]; exact h.kek


theorem tabGet_filterKey {α : Type} (d : α) (t : List (Nat × α)) (p : Nat → Bool) (k : Nat) :
    tabGet d (t.filter fun e => p e.1) k = if p k then tabGet d t k else d := by
  induction t with
  | nil => simp [tabGet]
  | cons a r ih =>
    obtain ⟨j, v⟩ := a
    rw [List.filter_cons]
    by_cases hp : p j = true
    · rw [if_pos hp]
      unfold tabGet
      by_cases hk : k = j
      · subst hk; simp [hp]
      · simp [hk, ih]
    · rw [if_neg hp, ih]
      by_cases hk : k = j
      · subst hk; simp [hp]
      · simp [tabGet, hk]

/-- The references of a function's queues that stand in a list of commands are all that are in flight of them. -/
def OwnIn (f : Fn) (l : List InFlight) (s : State) : Prop :=
  ∀ r ∈ refs s, r.fn = f → r.sq < 8192 → ∃ c ∈ l, c.ref = r

theorem retireEach_gone (l : List InFlight) (st : Nat) (s : State) :
    HostStays s (forEach l (fun c x => retire c st x) s) ∧ ∀ c ∈ l, c.ref ∉ refs (forEach l (fun c x => retire c st x) s) := by
  induction l generalizing s with
  | nil => exact ⟨.refl s, fun c hc => absurd hc List.not_mem_nil⟩
  | cons a t ih =>
    rw [forEach_cons]
    obtain ⟨h, hn⟩ := ih (retire a st s)
    refine ⟨(HostStays.retire a st s).trans h, fun c hc hm => ?_⟩
    obtain rfl | hc := List.mem_cons.mp hc
    · obtain ⟨d, hd, hr⟩ := List.mem_map.mp (h.refs.subset hm)
      have := retire_gone c st s
      unfold findCmd at this
      rw [List.find?_eq_none] at this
      exact this d hd (by simpa using hr)
    · exact hn c hc hm

theorem orphanRef_sq (c : InFlight) (s : State) : 8192 ≤ (orphanRef c s).sq := by
  have := (foldl_max_ge (s.hq.inflight.map fun d => d.ref.sq) 8191).1
  simp only [orphanRef]
  omega

theorem refs_renameCmd (old new : CmdRef) (s : State) :
    refs (renameCmd old new s) = (refs s).map fun x => if x = old then new else x := by
  simp only [refs, renameCmd, List.map_map]
  rfl

/-- What a pass of renames keeps, and that it leaves none of the commands of its list under its name. -/
theorem renameEach_parts (f : Fn) (l : List InFlight) {s : State} (h : OwnIn f l s) :
    let u := forEach l (fun c x => renameCmd c.ref (orphanRef c x) x) s
    OwnIn f [] u ∧ (∀ r ∈ refs u, r ∈ refs s ∨ 8192 ≤ r.sq) ∧ u.hq.sqs = s.hq.sqs ∧ u.hq.cqs = s.hq.cqs
      ∧ u.hq.fns = s.hq.fns ∧ u.hq.allot = s.hq.allot ∧ u.hq.vfEnable = s.hq.vfEnable ∧ u.cy = s.cy := by
  induction l generalizing s with
  | nil => exact ⟨h, fun r hr => .inl hr, rfl, rfl, rfl, rfl, rfl, rfl⟩
  | cons c t ih =>
    intro u
    have hren : ∀ r ∈ refs (renameCmd c.ref (orphanRef c s) s), (r ∈ refs s ∧ r ≠ c.ref) ∨ 8192 ≤ r.sq := by
      intro r hr
      rw [refs_renameCmd] at hr
      obtain ⟨x, hx, rfl⟩ := List.mem_map.mp hr
      split
      · exact .inr (orphanRef_sq c s)
      · rename_i k; exact .inl ⟨hx, k⟩
    have hown : OwnIn f t (renameCmd c.ref (orphanRef c s) s) := by
      intro r hr hf hq
      rcases hren r hr with ⟨hm, hne⟩ | hge
      · obtain ⟨d, hd, rfl⟩ := h r hm hf hq
        obtain rfl | hd := List.mem_cons.mp hd
        · exact absurd rfl hne
        · exact ⟨d, hd, rfl⟩
      · omega
    obtain ⟨h1, h2, h3⟩ := ih hown
    exact ⟨h1, fun r hr => (h2 r hr).elim (fun k => (hren r k).imp (fun k => k.1) id) .inr, h3⟩

/-- The FLR of a function: nothing of it is left, and the others are as they were. -/
structure FlrDone (f : Fn) (s u : State) : Prop where
  clear : FnClear f u
  others : ∀ g, g ≠ f → FnClear g s → FnClear g u
  fns : ∀ g, g ≠ f → (hqFn s g).unit.st ≠ .stopping → hqFn u g = hqFn s g
  allot : u.hq.allot = s.hq.allot
  vf : u.hq.vfEnable = s.hq.vfEnable

theorem flrOne_done (f : Fn) (s : State) : FlrDone f s (flrOne f s) := by
  unfold flrOne
  extract_lets all keep ends voided s₁ s₂ _ s₃ s₄ s₅ s₆ _ s₇ _ s₈
  obtain ⟨h₁, hgone⟩ : HostStays s s₁ ∧ ∀ c ∈ ends, c.ref ∉ refs s₁ := retireEach_gone ends 5 s
  have hown : OwnIn f keep s₁ := by
    intro r hr hf hq
    obtain ⟨c, hc, rfl⟩ := List.mem_map.mp (h₁.refs.subset hr)
    have hall : c ∈ all := (mem_sortBy _ _ _).mpr (List.mem_filter.mpr ⟨hc, by simp [hf, hq]⟩)
    refine ⟨c, ?_, rfl⟩
    refine Classical.byContradiction fun hk => ?_
    refine hgone c (List.mem_filter.mpr ⟨hall, ?_⟩) hr
    have : ¬(pastPonr c && eOpcode c.entry != 0x14) = true := fun k => hk (List.mem_filter.mpr ⟨hall, k⟩)
    rw [Bool.not_eq_true] at this
    rw [this]
    rfl
  obtain ⟨k1, k2, k3, k4, k5, k6, k7, k8⟩ := renameEach_parts f keep hown
  change OwnIn f [] s₂ at k1
  change ∀ r ∈ refs s₂, _ at k2
  change s₂.hq.sqs = _ at k3
  change s₂.hq.cqs = _ at k4
  change s₂.hq.fns = _ at k5
  change s₂.hq.allot = _ at k6
  change s₂.hq.vfEnable = _ at k7
  change s₂.cy = _ at k8
  clear_value s₂
  have h₄ : s₄.hq = { s₂.hq with
      sqs := s₂.hq.sqs.filter fun p => p.1 / 8192 != f.toNat
      cqs := s₂.hq.cqs.filter fun p => p.1 / 8192 != f.toNat
      fns := tabSet hqFnDefault s₂.hq.fns f.toNat hqFnDefault } := rfl
  have f₅ : Frame [.cy] s₄ s₅ :=
    Frame.forEach _ _ (fun k y hy => (slotErase_frame k y).comp hy (by decide)) (setKek_frame f [] s₄).widen
  have hkek : s₅.cy.keks = tabSet [] s₂.cy.keks f.toNat [] :=
    (forEach_keeps (fun y => y.cy.keks) (slotsOf s₄ f) slotErase (fun k y => rfl) (setKek f [] s₄)).trans rfl
  have f₈ : s₈.hq = s₅.hq ∧ s₈.cy = s₅.cy := ⟨(icReset_frame f s₅).hq_eq, (icReset_frame f s₅).cy_eq⟩
  have fu := logReset_frame f ends.length voided s₈
  generalize logReset f ends.length voided s₈ = u at fu
  have hq : u.hq = s₄.hq := fu.hq_eq.trans (f₈.1.trans f₅.hq_eq)
  have hk : u.cy.keks = tabSet [] s₂.cy.keks f.toNat [] := by rw [fu.cy_eq, f₈.2, hkek]
  clear_value s₄ s₅ s₈
  rw [h₄] at hq
  have hrefs : refs u = refs s₂ := by unfold refs; rw [hq]
  have key : ∀ (g : Fn) (q : Nat), q < 8192 → (queueKey g q / 8192 != f.toNat) = decide (g ≠ f) := by
    intro g q hlt
    have hg : queueKey g q / 8192 = g.toNat := by unfold queueKey; rw [if_pos hlt]; omega
    rw [hg, Bool.eq_iff_iff]
    simp [BitVec.toNat_inj]
  have hsq : ∀ g q, q < 8192 → sqOf u g q = if g = f then sqNone else sqOf s₁ g q := by
    intro g q hlt
    unfold sqOf
    rw [hq]
    dsimp only
    rw [tabGet_filterKey _ _ (fun k => k / 8192 != f.toNat), key g q hlt, k3]
    by_cases h : g = f <;> simp [h]
  have hcq : ∀ g q, q < 8192 → cqOf u g q = if g = f then cqNone else cqOf s₁ g q := by
    intro g q hlt
    unfold cqOf
    rw [hq]
    dsimp only
    rw [tabGet_filterKey _ _ (fun k => k / 8192 != f.toNat), key g q hlt, k4]
    by_cases h : g = f <;> simp [h]
  have hfn : ∀ g, hqFn u g = if g = f then hqFnDefault else hqFn s₁ g := by
    intro g
    unfold hqFn
    rw [hq]
    dsimp only
    by_cases h : g = f
    · subst h; rw [tabGet_tabSet_same, if_pos rfl]
    · rw [tabGet_tabSet_other _ _ _ (fn_key h), k5, if_neg h]
  have hkf : ∀ g, kekOf u g = if g = f then [] else kekOf s₁ g := by
    intro g
    unfold kekOf
    rw [hk]
    by_cases h : g = f
    · subst h; rw [tabGet_tabSet_same, if_pos rfl]
    · rw [tabGet_tabSet_other _ _ _ (fn_key h), k8, if_neg h]
  refine ⟨⟨fun r hr hf => ?_, fun q h => ?_, ?_, ?_⟩, fun g hg hc => ⟨fun r hr hf => ?_, fun q h => ?_, ?_, ?_⟩, fun g hg hs => ?_,
    ?_, ?_⟩
  · rw [hrefs] at hr
    refine Classical.byContradiction fun hlt => ?_
    obtain ⟨c, hc, -⟩ := k1 r hr hf (by omega)
    exact absurd hc List.not_mem_nil
  · rw [hsq f q h, hcq f q h, if_pos rfl, if_pos rfl]; exact ⟨rfl, rfl⟩
  · rw [hfn, if_pos rfl]
  · rw [hkf, if_pos rfl]
  · rw [hrefs] at hr
    exact (k2 r hr).elim (fun k => (hc.stays h₁).refs r k hf) id
  · rw [hsq g q h, hcq g q h, if_neg hg, if_neg hg]; exact (hc.stays h₁).queues q h
  · rw [hfn, if_neg hg]; exact (hc.stays h₁).fn
  · rw [hkf, if_neg hg]; exact (hc.stays h₁).kek
  · rw [hfn, if_neg hg]; exact h₁.fns g hs
  · rw [hq]; exact k6.trans h₁.allot
  · rw [hq]; exact k7.trans h₁.vf


/-- A clear function stays clear while other functions are reset, and while it is reset again. -/
theorem FnClear.flrEach {a : Fn} (l : List Fn) : ∀ x : State, FnClear a x → FnClear a (forEach l flrOne x) := by
  induction l with
  | nil => exact fun x hx => hx
  | cons b r ih =>
    intro x hx
    rw [forEach_cons]
    refine ih _ ?_
    have hb := flrOne_done b x
    generalize flrOne b x = y at hb
    by_cases hab : a = b
    · rw [hab]; exact hb.clear
    · exact hb.others a hab hx

/-- The resets of some functions, one after another. -/
theorem flrEach_done (l : List Fn) : ∀ s : State, (∀ f ∈ l, FnClear f (forEach l flrOne s))
    ∧ (∀ g, g ∉ l → (hqFn s g).unit.st ≠ .stopping → hqFn (forEach l flrOne s) g = hqFn s g) := by
  induction l with
  | nil => exact fun s => ⟨fun f hf => absurd hf List.not_mem_nil, fun _ _ _ => rfl⟩
  | cons a t ih =>
    intro s
    rw [forEach_cons]
    have ha := flrOne_done a s
    generalize flrOne a s = y at ha
    obtain ⟨hc, hf⟩ := ih y
    refine ⟨fun f hm => ?_, fun g hg hs => ?_⟩
    · obtain hm | hm := List.mem_cons.mp hm
      · rw [hm]; exact ha.clear.flrEach t
      · exact hc f hm
    · have hne : g ≠ a := fun e => hg (by rw [e]; exact List.mem_cons_self ..)
      have e := ha.fns g hne hs
      exact (hf g (fun k => hg (List.mem_cons_of_mem _ k)) (by rw [e]; exact hs)).trans e

theorem mem_allFns (f : Fn) : f ∈ allFns := by
  unfold allFns
  rw [List.mem_map]
  exact ⟨f.toNat, List.mem_range.mpr f.isLt, by simp⟩

theorem FnClear.said {f : Fn} {s : State} (h : FnClear f s) : (∀ r : CmdRef, r.fn = f → r.sq < 8192 → findCmd s r = none)
    ∧ (∀ q, q < 8192 → sqOf s f q = sqNone ∧ cqOf s f q = cqNone) ∧ hqFn s f = hqFnDefault ∧ kekOf s f = [] :=
  ⟨fun _ hf hq => h.findCmd_none hf hq, h.queues, h.fn, h.kek⟩

theorem FnClear.of_tables {f : Fn} {s u : State} (h : FnClear f s) (hi : u.hq.inflight = s.hq.inflight)
    (hs : u.hq.sqs = s.hq.sqs) (hc : u.hq.cqs = s.hq.cqs) (hf : u.hq.fns = s.hq.fns) (hk : u.cy = s.cy) : FnClear f u := by
  refine ⟨?_, fun q hq => ?_, (hqFn_congr hf f).trans h.fn, ?_⟩
  · unfold Machine.refs; rw [hi]; exact h.refs
  · rw [sqOf_congr hs, cqOf_congr hc]; exact h.queues q hq
  · unfold kekOf; rw [hk]; exact h.kek

/-- Settles O22: the reset of each function leaves it clear, and the passes behind it leave it so. -/
theorem functionReset : Obligations.FunctionReset := by
  unfold Obligations.FunctionReset
  refine ⟨fun t f s hb hf => ?_, fun t s hf => ?_, fun t s hp hv => ?_, fun t s hp hv => ?_⟩
  · have e : exec (.flr t f) s = .next (tidy (flrOne f (advance t s))) := by
      refine (if_neg ?_).trans (if_neg hf)
      rw [bellLive_advance, hb]; nofun
    have hd := flrOne_done f (advance t s)
    have hk := HostStays.tidy (flrOne f (advance t s))
    have hfn : ∀ g, hqFn (advance t s) g = hqFn s g := hqFn_congr (by rw [advance_hq])
    obtain ⟨h1, h2, h3, h4⟩ := (hd.clear.stays hk).said
    refine ⟨_, e, h1, h2, h3, h4, fun g => ?_, ?_, fun g hg hs => ?_⟩
    · unfold allotOf; rw [hk.allot, hd.allot, advance_hq]
    · rw [hk.vf, hd.vf, advance_hq]
    · have eg := hd.fns g hg (by rw [hfn]; exact hs)
      rw [hk.fns g (by rw [eg, hfn]; exact hs), eg, hfn]
  · let l : List Fn := if s.hq.vfEnable then allFns else [0]
    have e : exec (.flr t 0) s = .next (tidy { forEach l flrOne (advance t s) with
        hq := { (forEach l flrOne (advance t s)).hq with vfEnable := false }
        se := { (forEach l flrOne (advance t s)).se with doe := spdmInitial, doeResp := none } }) := by
      refine (if_neg ?_).trans ((if_pos rfl).trans ?_)
      · rw [bellLive_advance]; simp [bellLive, hf]
      · unfold l; rw [← advance_hq t s]
    have hd := flrEach_done l (advance t s)
    generalize forEach l flrOne (advance t s) = x at e hd
    obtain ⟨y, hy⟩ : ∃ y : State, y = { x with
        hq := { x.hq with vfEnable := false }, se := { x.se with doe := spdmInitial, doeResp := none } } := ⟨_, rfl⟩
    rw [← hy] at e
    have hclear : ∀ f, FnClear f x → FnClear f y := fun f h => by
      rw [hy]; exact h.of_tables rfl rfl rfl rfl rfl
    have hyv : y.hq.vfEnable = false := by rw [hy]
    have hyd : y.se.doe = spdmInitial ∧ y.se.doeResp = none := by rw [hy]; exact ⟨rfl, rfl⟩
    have hk := HostStays.tidy y
    have hse : (tidy y).se = y.se := (tidy_frame y).se_eq
    refine ⟨_, e, by rw [hk.vf, hyv], by rw [hse]; exact hyd.1, by rw [hse]; exact hyd.2, fun f hfv => ?_⟩
    have hm : f ∈ l := by
      unfold l
      split
      · exact mem_allFns f
      · rename_i hn
        exact List.mem_singleton.mpr (hfv.resolve_right hn)
    exact ((hclear f (hd.1 f hm)).stays hk).said
  · have e : exec (.vfEnableWrite t true) s = .next (tidy { advance t s with hq := { (advance t s).hq with vfEnable := true } }) := by
      refine if_neg ?_
      rw [advance_pins, advance_hq, hp, hv]; decide
    exact ⟨_, e, (HostStays.tidy _).vf⟩
  · let x : State := if fetching s then forEach (allFns.filter fun f => f != 0) flrOne (advance t s) else advance t s
    have e : exec (.vfEnableWrite t false) s = .next (tidy { x with hq := { x.hq with vfEnable := false } }) := by
      refine (if_neg ?_).trans ?_
      · rw [advance_pins, advance_hq, hp, hv]; decide
      · unfold x; rw [← fetching_advance t s]; rfl
    have hfn : hqFn (advance t s) 0 = hqFn s 0 := hqFn_congr (by rw [advance_hq]) 0
    have hd := flrEach_done (allFns.filter fun f => f != 0) (advance t s)
    have hx0 : (hqFn s 0).unit.st ≠ .stopping → hqFn x 0 = hqFn s 0 := fun hs => by
      unfold x
      split
      · rw [hd.2 0 (by simp) (by rw [hfn]; exact hs), hfn]
      · exact hfn
    have hxc : fetching s = true → ∀ f, f ≠ 0 → FnClear f x := fun hf f h0 => by
      unfold x
      rw [if_pos hf]
      exact hd.1 f (List.mem_filter.mpr ⟨mem_allFns f, by simpa using h0⟩)
    clear_value x
    obtain ⟨y, hy⟩ : ∃ y : State, y = { x with hq := { x.hq with vfEnable := false } } := ⟨_, rfl⟩
    rw [← hy] at e
    have hyf : hqFn y 0 = hqFn x 0 := hqFn_congr (by rw [hy]) 0
    have hclear : ∀ f, FnClear f x → FnClear f y := fun f h => by rw [hy]; exact h.of_tables rfl rfl rfl rfl rfl
    have hyv : y.hq.vfEnable = false := by rw [hy]
    have hk := HostStays.tidy y
    refine ⟨_, e, hk.vf.trans hyv, fun hs => ?_, fun hf f h0 => ((hclear f (hxc hf f h0)).stays hk).said⟩
    have e0 : hqFn y 0 = hqFn s 0 := hyf.trans (hx0 hs)
    rw [hk.fns 0 (by rw [e0]; exact hs), e0]

/-! ### Parameters and logs -/

section
variable {s : State} {op : Nat} {ref : CmdRef} {c : InFlight}

/-- A ready command that is completed ends, whatever ran before it left it in flight. -/
theorem Ready.ends (h : Ready s op ref c) {l : List Region} {u : State} (hf : Frame l s u)
    (hr : u.hq.inflight = s.hq.inflight) (st r0 r1 : Nat) (hs : st < 65536 := by decide) (h0 : r0 < 2 ^ 64 := by decide)
    (h1 : r1 < 2 ^ 32 := by decide) : Ends s (complete ref st r0 r1 false u) ref st r0 r1 :=
  (complete_ends ((findCmd_of_hq hr ref).trans h.found) h.queue false hs h0 h1).after hf

/-- A command without results of its own, which is any but APPEND, READ and VERIFY, fails with its status and zeros. -/
theorem failCmd_complete (h : findCmd s ref = some c) (hop : 3 < eOpcode c.entry) (st : Nat) :
    failCmd ref st s = complete ref st 0 0 false s := by
  have hr : failR0 c = 0 ∧ failR1 c = 0 := by
    unfold failR0 failR1
    generalize eOpcode c.entry = n at hop
    obtain ⟨m, rfl⟩ : ∃ m, n = m + 4 := ⟨n - 4, by omega⟩
    exact ⟨rfl, rfl⟩
  unfold failCmd
  rw [h]
  dsimp only
  rw [hr.1, hr.2]

/-- A ready command without results of its own that fails ends with its status and zeros. -/
theorem Ready.fails (h : Ready s op ref c) (st : Nat) (hop : 3 < op := by decide) (hs : st < 65536 := by decide) :
    Ends s (failCmd ref st s) ref st 0 0 := by
  rw [failCmd_complete h.found (by rw [h.op]; exact hop)]
  exact h.ends (Frame.refl [] s) rfl st 0 0 hs

end

theorem execGetParam_eq {s : State} {ref : CmdRef} {c : InFlight} (h : Ready s 0x15 ref c) (t : Time) :
    execGetParam t ref s = .next (complete ref 0
      (param s (eField c.entry 24 2) (paramTarget ref.fn (eField c.entry 24 2) (eField c.entry 26 1 % 64)))
      (b2n (paramStored s (eField c.entry 24 2) (paramTarget ref.fn (eField c.entry 24 2) (eField c.entry 26 1 % 64))))
      false (advance t s)) := by
  unfold execGetParam
  extract_lets x
  rw [readyCmd_eq (h.advance t)]
  have hp : x.par = s.par := by unfold x; rw [advance_par]
  dsimp only
  unfold param paramStored
  rw [hp]

theorem param_setParamCur (s : State) (id g v id' g' : Nat) (hg : g < 64) (hg' : g' < 64) :
    param (setParamCur id g v s) id' g' = if id' = id ∧ g' = g then v else param s id' g' := by
  unfold param
  by_cases h : id' = id ∧ g' = g
  · obtain ⟨rfl, rfl⟩ := h
    rw [if_pos ⟨rfl, rfl⟩]
    exact tabGet_tabSet_same ..
  · rw [if_neg h]
    have hk : paramKey id' g' ≠ paramKey id g := by
      unfold paramKey
      intro k
      exact h (by omega)
    show tabGet _ (tabSet _ _ _ _) _ = _
    unfold tabSet
    dsimp only
    split
    · exact tabGet_filter_ne _ _ hk
    · rw [tabGet_tabPut _ _ _ _ _ (fun p hp => by simpa using (List.mem_filter.mp hp).2), if_neg hk]
      exact tabGet_filter_ne _ _ hk

/-- What a parameter's new value leaves of the parameters. -/
theorem paramPut_par (id g v : Nat) (persist : Bool) (s : State) :
    (paramPut id g v persist s).par = { (setParamCur id g v s).par with
      stored := if persist then tabSet none s.par.stored (paramKey id g) (some v) else s.par.stored } := by
  unfold paramPut
  extract_lets x _ y
  have hy : y.par = { x.par with
      stored := if persist then tabSet none s.par.stored (paramKey id g) (some v) else s.par.stored } := by
    unfold y
    cases persist <;> rfl
  split
  · rw [(profileWords_frame y).par_eq, hy]
  · exact hy

theorem paramTarget_lt (f : Fn) (id g : Nat) (h : g < 64) : paramTarget f id g < 64 := by
  unfold paramTarget
  have := f.isLt
  split
  · decide
  · split <;> omega

/-- Bytes that one piece holds go out as one write, unless there are none. -/
theorem writeArea_single (f : Fn) (a : DWord) (n : Nat) (bytes : List Byte) (s : State) (hn : bytes.length ≤ n) (h : bytes ≠ []) :
    writeArea f [(a, n)] 0 bytes s = emit (.hostWrite f a bytes) s := by
  have hl : 0 < bytes.length := List.length_pos_iff.mpr h
  have e : piecesAt [(a, n)] 0 bytes.length = [(a, bytes.length)] := by
    unfold piecesAt
    rw [if_neg (by omega), if_neg (by omega)]
    simp [piecesAt, Nat.min_eq_left hn]
  unfold writeArea
  rw [e]
  simp

theorem slice_length_le (all : List Byte) (o n : Nat) : (slice all o n).length ≤ n ∧ (slice all o n).length ≤ all.length := by
  unfold slice
  rw [List.length_take, List.length_drop]
  omega

/-- Settles O33: a parameter table entry is read back, and a log goes out piece by piece. -/
theorem parametersAndLogs : Obligations.ParametersAndLogs := by
  unfold Obligations.ParametersAndLogs
  refine ⟨fun t ref s c hr => ?_, fun t ref s c hr => ?_, fun t ref s segs c hr => ?_⟩
  · intro id g hv
    have hst : (if tabGet none s.par.stored (paramKey id g) = none then 0 else 1) = b2n (paramStored s id g) := by
      unfold paramStored
      cases tabGet none s.par.stored (paramKey id g) <;> rfl
    refine ⟨_, execGetParam_eq hr t, ?_, ?_⟩
    · rw [hst]
      exact hr.ends (advance_frame t s) (by rw [advance_hq]) 0 _ _ (by decide) hv (by unfold b2n; split <;> decide)
    · rw [(complete_frame ..).par_eq, advance_par]
  · intro id g v
    have hx := hr.advance t
    have hg : g < 64 := paramTarget_lt _ _ _ (Nat.mod_lt _ (by decide))
    have hp7 : param (advance t s) 7 0 = param s 7 0 := by unfold param; rw [advance_par]
    have e : exec (.setParam t ref) s = if s.gl.lc = 2 ∧ id = 7 ∧ v < param s 7 0 then .next (failCmd ref 0x0401 (advance t s))
        else .next (complete ref 0 0 0 false (paramPut id g v ((eOpt c.entry).testBit 0) (advance t s))) := by
      change execSetParam t ref s = _
      unfold execSetParam
      extract_lets x
      rw [readyCmd_eq hx, ← hp7, ← advance_gl t s]
    refine ⟨fun h1 h2 h3 => ?_, fun h => ?_⟩
    · rw [if_pos ⟨h1, h2, h3⟩] at e
      exact ⟨_, e, (hx.fails 0x0401).after (advance_frame t s), by rw [(failCmd_frame ..).par_eq, advance_par]⟩
    · rw [if_neg fun k => h.elim (absurd k.1) fun h => h.elim (absurd k.2.1) (Nat.not_le.mpr k.2.2)] at e
      have hf := (paramPut_frame id g v ((eOpt c.entry).testBit 0) (advance t s))
      have hpar := paramPut_par id g v ((eOpt c.entry).testBit 0) (advance t s)
      have hends := (hx.ends hf (by rw [hf.hq_eq]) 0 0 0).after (advance_frame t s)
      have hu := (complete_frame ref 0 0 0 false (paramPut id g v ((eOpt c.entry).testBit 0) (advance t s))).par_eq.trans hpar
      have hcur : ∀ id' g', g' < 64 → param (complete ref 0 0 0 false (paramPut id g v ((eOpt c.entry).testBit 0) (advance t s)))
          id' g' = if id' = id ∧ g' = g then v else param s id' g' := fun id' g' hg' => by
        have k := param_setParamCur (advance t s) id g v id' g' hg hg'
        unfold param at k ⊢
        rw [hu, ← advance_par t s]
        exact k
      refine ⟨_, e, hends, ?_, fun hb => ?_, fun hb => ?_, fun id' g' hg' hne => ?_⟩
      · rw [hcur id g hg, if_pos ⟨rfl, rfl⟩]
      · rw [hu, hb]; exact tabGet_tabSet_same none _ _ (some v)
      · rw [hu, hb, ← advance_par t s]; rfl
      · rw [hcur id' g' hg', if_neg fun k => hne.elim (absurd k.1) (absurd k.2)]
  · have hx := hr.advance t
    refine ⟨fun hd => ?_, fun a n hd => ?_⟩
    · have e : exec (.getLog t ref segs) s = .next (failCmd ref 2 (advance t s)) := by
        change execGetLog t ref segs s = _
        unfold execGetLog
        extract_lets x
        rw [readyCmd_eq hx]
        dsimp only
        rw [hd]
      exact ⟨_, e, (hx.fails 2).after (advance_frame t s)⟩
    · intro all out hall
      have e : exec (.getLog t ref segs) s =
          .next (complete ref 0 all.length out.length false (writeArea ref.fn [(a, n)] 0 out (advance t s))) := by
        change execGetLog t ref segs s = _
        unfold execGetLog
        extract_lets x
        rw [readyCmd_eq hx]
        dsimp only
        rw [hd]
        have hn : piecesLen [(a, n)] = n := by simp [piecesLen]
        dsimp only
        rw [hn]
      have hlen : out.length ≤ n ∧ out.length ≤ all.length := slice_length_le all _ n
      have hf := writeArea_frame ref.fn [(a, n)] 0 out (advance t s)
      refine ⟨_, e, (hx.ends hf (by rw [hf.hq_eq]) 0 _ _ (by decide) (by omega) (by omega)).after (advance_frame t s),
        fun hne => ?_⟩
      rw [writeArea_single _ _ _ _ _ hlen.1 hne]
      exact ((Sent.emit _ _).after (advance_frame t s)).frame (complete_frame ..)

/-! ### Frames of the update of one part -/

theorem Frame.upd_se (s : State) (v : Sec) (h : v.rollback = s.se.rollback) : Frame [.se] s { s with se := v } := by
  refine ⟨fun b hb => ?_, List.suffix_refl _⟩
  cases b <;> first | exact absurd (by decide) hb | exact refs_id rfl | exact h | rfl

/-! ### Life-cycle changes and the RSA engine -/

theorem rsaPick_single (j : RsaJob) : rsaPick [j] = some (j, []) := rfl

/-- A free engine takes the operation that arrives. -/
theorem rsaSubmit_free {s : State} (h : s.se.rsa = none) (hw : s.se.rsaWait = []) (j : RsaJob) :
    (rsaSubmit j s).se = { s.se with rsa := some j, rsaWait := [] } := by
  unfold rsaSubmit rsaNext
  dsimp only
  rw [h, hw, List.nil_append, rsaPick_single]

theorem rsaNext_empty {s : State} (hw : s.se.rsaWait = []) : rsaNext s = s := by
  unfold rsaNext
  split
  · rfl
  · rw [hw]; rfl

/-- A command that is set running while the RSA engine takes its operation is found so. -/
theorem findCmd_rsaSubmit {s x : State} {ref : CmdRef} {c d : InFlight} (hc : findCmd s ref = some c) (hd : d.ref = c.ref)
    (hx : x.hq.inflight = s.hq.inflight) (j : RsaJob) : findCmd (rsaSubmit j (setCmd d x)) ref = some d := by
  have hr : d.ref = ref := hd.trans (findCmd_ref hc)
  have k : findCmd (setCmd d x) d.ref = some d := findCmd_setCmd_same (d := c) (by rw [hr, findCmd_of_hq hx, hc])
  rw [findCmd_of_hq (s := setCmd d x) (by rw [(rsaSubmit_frame ..).hq_eq]), ← hr, k]

section
variable {x : State} {target : BitVec 3} {a : List Byte}

theorem lcVerdict_busy (h : lcReady x = false) : lcVerdict target a x = 4 := by
  unfold lcVerdict
  rw [h]
  rfl

theorem lcVerdict_ready (h : lcReady x = true) : lcVerdict target a x =
    (if lcAuth x.gl.lc.toNat target.toNat = 0 then (if x.gl.lc = 0 && !x.se.chain then 3 else 0)
    else if lcAuth x.gl.lc.toNat target.toNat = 1 then (if lcConfirms x target a then 0 else 1)
    else if lcAuth x.gl.lc.toNat target.toNat = 2 then (if a.isEmpty then 3 else 2)
    else 3) := by
  unfold lcVerdict
  rw [if_neg (by simp [h])]

theorem lcArm_gl (target : BitVec 3) (a : List Byte) (x : State) : (lcArm target a x).gl =
    (if lcVerdict target a x = 4 then x.gl else { x.gl with
      armed := if lcVerdict target a x = 1 then some { target := target, auth := a, at_ := x.tb } else none }) := by
  unfold lcArm
  extract_lets v
  split <;> rfl

/-- With the tape at rest and no reset waiting the change is under way with its reset. -/
theorem lcPerform_gl (hm : x.gl.moving = false) (hw : x.gl.resetWait = none) (target : BitVec 3) : (lcPerform target x).gl =
    { x.gl with resetWait := some { cause := 3, again := none }, resetCause := 3, lcPending := some target, armed := none } := by
  have e : requestReset 3 x = { x with gl := { x.gl with resetWait := some { cause := 3, again := none }, resetCause := 3 } } := by
    unfold requestReset
    rw [hw]
    exact if_neg (by rw [hm]; decide)
  unfold lcPerform
  extract_lets y
  show { y.gl with lcPending := some target, armed := none } = _
  unfold y
  rw [e]

theorem lcReady_parts (h : lcReady x = true) : x.gl.moving = false ∧ x.gl.resetWait = none ∧ x.gl.lcPending = none := by
  unfold lcReady at h
  simp only [Bool.and_eq_true, Bool.not_eq_true', Option.isNone_iff_eq_none] at h
  exact ⟨h.1.1.2, h.1.2, h.2⟩

end

/-- How LC_CHANGE goes on by its verdict. -/
theorem execLcChange_eq {s : State} {ref : CmdRef} {c : InFlight} (h : Ready s 0x28 ref c) (t : Time) (segs : List SgSeg)
    (auth : List Byte) {p : List (DWord × Nat)} (hp : (if eField c.entry 8 12 = 0 then some [] else dataPieces c.entry segs) = some p) :
    exec (.lcChange t ref segs auth) s =
      let a := hostBytes (piecesLen p) auth
      let target := BitVec.ofNat 3 (eField c.entry 24 1 % 8)
      let v := lcVerdict target a (advance t s)
      let y := lcArm target a (advance t s)
      if v = 0 then .next (lcPerform target (complete ref 0 0 0 false y))
      else if v = 1 then .next (complete ref 0 0 1 false y)
      else if v = 2 then .next (rsaSubmit (.auth (some ref) target a) (setCmd { c with stage := .running } y))
      else .next (failCmd ref (if v = 4 then 0x0007 else 0x0401) y) := by
  change execLcChange t ref segs auth s = _
  unfold execLcChange
  extract_lets x
  rw [readyCmd_eq (h.advance t)]
  dsimp only
  rw [hp]

theorem lcChange_outcomes (t : Time) (ref : CmdRef) (s : State) (segs : List SgSeg) (auth : List Byte) (c : InFlight)
    (p : List (DWord × Nat)) (hr : Ready s 0x28 ref c)
    (hp : (if eField c.entry 8 12 = 0 then some [] else dataPieces c.entry segs) = some p) :
      let a := hostBytes (piecesLen p) auth
      let target := BitVec.ofNat 3 (eField c.entry 24 1 % 8)
      let kind := lcAuth s.gl.lc.toNat target.toNat
      (lcReady s = false → ∃ u, exec (.lcChange t ref segs auth) s = .next u ∧ Ends s u ref 7 0 0 ∧ u.gl.armed = s.gl.armed
        ∧ u.gl.lcPending = s.gl.lcPending)
      ∧ (lcReady s = true →
        ((kind = 0 ∧ (s.gl.lc ≠ 0 ∨ s.se.chain = true)) ∨ (kind = 1 ∧ lcConfirms (advance t s) target a = true) →
          ∃ u, exec (.lcChange t ref segs auth) s = .next u ∧ Ends s u ref 0 0 0 ∧ u.gl.lcPending = some target
            ∧ u.gl.resetWait = some { cause := 3, again := none } ∧ u.gl.armed = none ∧ u.gl.lc = s.gl.lc)
        ∧ (kind = 1 → lcConfirms (advance t s) target a = false →
          ∃ u, exec (.lcChange t ref segs auth) s = .next u ∧ Ends s u ref 0 0 1
            ∧ u.gl.armed = some { target := target, auth := a, at_ := (advance t s).tb } ∧ u.gl.lcPending = none)
        ∧ (kind = 2 → a ≠ [] → s.se.rsa = none → s.se.rsaWait = [] →
          ∃ u, exec (.lcChange t ref segs auth) s = .next u ∧ u.se.rsa = some (.auth (some ref) target a)
            ∧ findCmd u ref = some { c with stage := .running } ∧ u.gl.armed = none)
        ∧ ((kind = 2 ∧ a = []) ∨ (3 ≤ kind) ∨ (kind = 0 ∧ s.gl.lc = 0 ∧ s.se.chain = false) →
          ∃ u, exec (.lcChange t ref segs auth) s = .next u ∧ Ends s u ref 0x0401 0 0 ∧ u.gl.armed = none)) := by
  intro a target kind
  have e := execLcChange_eq hr t segs auth hp
  have hx := hr.advance t
  have f0 := advance_frame t s
  have hgl := advance_gl t s
  have hse : (advance t s).se = s.se := advance_se t s
  have hlr : lcReady (advance t s) = lcReady s := by unfold lcReady; rw [hgl]
  generalize advance t s = x at e hx f0 hgl hse hlr ⊢
  change exec (.lcChange t ref segs auth) s = (if lcVerdict target a x = 0 then _ else _) at e
  have fa := lcArm_frame target a x
  have ga := lcArm_gl target a x
  generalize lcArm target a x = y at e fa ga
  have hy : Ready y 0x28 ref c := ⟨(findCmd_of_hq (by rw [fa.hq_eq]) ref).trans hx.found, hx.stage, hx.op, hx.queue⟩
  have after : ∀ {st r0 r1 : Nat} {u : State}, Ends y u ref st r0 r1 → Ends s u ref st r0 r1 :=
    fun h => (h.after fa).after f0
  have hkind : lcAuth x.gl.lc.toNat target.toNat = kind := by rw [hgl]
  refine ⟨fun h => ?_, fun h => ?_⟩
  · rw [lcVerdict_busy (hlr.trans h)] at e ga
    rw [if_pos rfl, hgl] at ga
    rw [if_neg (by decide), if_neg (by decide), if_neg (by decide), if_pos rfl] at e
    have g : (failCmd ref 7 y).gl = s.gl := (failCmd_frame ..).gl_eq.trans ga
    exact ⟨_, e, after (hy.fails 7), by rw [g], by rw [g]⟩
  · obtain ⟨hm, hw, hpend⟩ := lcReady_parts h
    have hv := lcVerdict_ready (target := target) (a := a) (hlr.trans h)
    rw [hkind, hgl, hse] at hv
    refine ⟨fun k => ?_, fun k hc => ?_, fun k ha h1 h2 => ?_, fun k => ?_⟩
    · have v0 : lcVerdict target a x = 0 := by
        rw [hv]
        obtain ⟨k, hl⟩ | ⟨k, hl⟩ := k
        · rw [if_pos k, if_neg]
          simp only [Bool.and_eq_true, decide_eq_true_eq, Bool.not_eq_true']
          rintro ⟨h1, h2⟩
          exact hl.elim (fun h => h h1) (fun h => by rw [h2] at h; cases h)
        · rw [if_neg (by omega), if_pos k, if_pos hl]
      rw [v0, if_pos rfl] at e
      rw [v0, if_neg (by decide), hgl] at ga
      have g : (complete ref 0 0 0 false y).gl = { s.gl with armed := none } := (complete_frame ..).gl_eq.trans ga
      have hu := lcPerform_gl (x := complete ref 0 0 0 false y) (by rw [g]; exact hm) (by rw [g]; exact hw) target
      rw [g] at hu
      refine ⟨_, e, after ((hy.ends (Frame.refl [] y) rfl 0 0 0).frame (lcPerform_frame ..)), ?_, ?_, ?_, ?_⟩ <;> rw [hu]
    · have v1 : lcVerdict target a x = 1 := by rw [hv, if_neg (by omega), if_pos k, hc]; rfl
      rw [v1] at e ga
      rw [if_neg (by decide), if_pos rfl] at e
      rw [if_neg (by decide), if_pos rfl, hgl] at ga
      have g := (complete_frame ref 0 0 1 false y).gl_eq.trans ga
      exact ⟨_, e, after (hy.ends (Frame.refl [] y) rfl 0 0 1), by rw [g], by rw [g]; exact hpend⟩
    · have v2 : lcVerdict target a x = 2 := by
        rw [hv, if_neg (by omega), if_neg (by omega), if_pos k, if_neg (by rw [List.isEmpty_iff]; exact ha)]
      rw [v2] at e ga
      rw [if_neg (by decide), if_neg (by decide), if_pos rfl] at e
      rw [if_neg (by decide), if_neg (by decide)] at ga
      have hye : y.se = s.se := fa.se_eq.trans hse
      have hs := rsaSubmit_free (s := setCmd { c with stage := .running } y) (by show y.se.rsa = _; rw [hye]; exact h1)
        (by show y.se.rsaWait = _; rw [hye]; exact h2) (.auth (some ref) target a)
      refine ⟨_, e, by rw [hs], findCmd_rsaSubmit (d := { c with stage := .running }) hy.found rfl rfl _, ?_⟩
      rw [(rsaSubmit_frame ..).gl_eq]
      show y.gl.armed = none
      rw [ga]
    · have v3 : lcVerdict target a x = 3 := by
        rw [hv]
        obtain ⟨k, ha⟩ | k | ⟨k, h1, h2⟩ := k
        · rw [if_neg (by omega), if_neg (by omega), if_pos k, ha]; rfl
        · rw [if_neg (by omega), if_neg (by omega), if_neg (by omega)]
        · rw [if_pos k, h1, h2]; rfl
      rw [v3] at e ga
      rw [if_neg (by decide), if_neg (by decide), if_neg (by decide)] at e
      rw [if_neg (by decide), if_neg (by decide)] at ga
      exact ⟨_, e, after (hy.fails 0x0401), by rw [(failCmd_frame ..).gl_eq, ga]⟩


theorem execRsaOperationDone_eq {s : State} {j : RsaJob} (t : Time) (h : s.se.rsa = some j) :
    exec (.rsaOperationDone t) s
      = .next (tidy (rsaNext (rsaEnds j { advance t s with se := { (advance t s).se with rsa := none } }))) := by
  change execRsaOperationDone t s = _
  unfold execRsaOperationDone
  extract_lets x
  have hx : x.se.rsa = some j := by unfold x; rw [advance_se, h]
  rw [hx]

/-- The end of a KEY_LOAD's operation (R159, R382). -/
theorem kekDone_ends {x : State} {ref : CmdRef} {c : InFlight} (hc : findCmd x ref = some c) (hop : eOpcode c.entry = 0x18)
    (hq : ref.sq < 8192) (blob : List Byte) :
      let label : List Byte := [0x4B#8, 0x45#8, 0x4B#8, BitVec.ofNat 8 ref.fn.toNat]
      let key := if x.se.xport then oaepDecrypt Config.transportModulus Config.transportExponent label (hostBytes 384 blob) else none
      let good := key.any fun k => k.length == 32
      Ends x (kekDone ref blob x) ref (if good then 0 else 0x0401) 0 0
        ∧ kekOf (kekDone ref blob x) ref.fn = (if good then key.getD [] else kekOf x ref.fn)
        ∧ (kekDone ref blob x).se = x.se := by
  intro label key good
  have hbad : good = false → kekDone ref blob x = failCmd ref 0x0401 x → Ends x (kekDone ref blob x) ref (if good then 0 else 0x0401) 0 0
      ∧ kekOf (kekDone ref blob x) ref.fn = (if good then key.getD [] else kekOf x ref.fn) ∧ (kekDone ref blob x).se = x.se := by
    intro hg e
    rw [e, hg]
    refine ⟨?_, ?_, (failCmd_frame ..).se_eq⟩
    · rw [failCmd_complete hc (by rw [hop]; decide)]
      exact complete_ends hc hq false (by decide) (by decide) (by decide)
    · unfold kekOf; rw [(HostStays.failCmd ..).keks]; rfl
  obtain ⟨n, hn⟩ : ∃ n, n = key := ⟨_, rfl⟩
  cases n with
  | none =>
    exact hbad (by unfold good; rw [← hn]; rfl) (by
      unfold kekDone
      extract_lets
      rw [show (if x.se.xport then oaepDecrypt Config.transportModulus Config.transportExponent label (hostBytes 384 blob) else none)
        = none from hn.symm])
  | some k =>
    have hdef : kekDone ref blob x = if k.length ≠ 32 then failCmd ref 0x0401 x
        else complete ref 0 0 0 false (if ref.sq < 8192 then setKek ref.fn k x else x) := by
      unfold kekDone
      extract_lets
      rw [show (if x.se.xport then oaepDecrypt Config.transportModulus Config.transportExponent label (hostBytes 384 blob) else none)
        = some k from hn.symm]
    by_cases hl : k.length = 32
    · have hg : good = true := by unfold good; rw [← hn]; simp [hl]
      have e : kekDone ref blob x = complete ref 0 0 0 false (setKek ref.fn k x) := by
        rw [hdef, if_neg (fun h => h hl), if_pos hq]
      rw [e, hg]
      refine ⟨?_, ?_, ((complete_frame ..).se_eq).trans rfl⟩
      · exact (complete_ends (s := setKek ref.fn k x) hc hq false (by decide) (by decide) (by decide)).after (setKek_frame ..)
      · unfold kekOf
        rw [(HostStays.complete ..).keks, if_pos rfl, ← hn]
        exact tabGet_tabSet_same [] _ _ k
    · exact hbad (by unfold good; rw [← hn]; simp [hl]) (by rw [hdef]; exact if_pos hl)

/-- The end of the check of a bundle (R390, R391). -/
theorem bundleDone_ends {x : State} {ref : CmdRef} {c : InFlight} (hc : findCmd x ref = some c) (hop : eOpcode c.entry = 0x29)
    (hq : ref.sq < 8192) (b : List Byte) :
      let good := bundleCause x.se.rollback b == 0
      Ends x (bundleDone ref b x) ref (if good then 0 else 0x0401) 0 0
        ∧ (bundleDone ref b x).se.pend = (if good then b else x.se.pend)
        ∧ (bundleDone ref b x).se.rsa = x.se.rsa ∧ (bundleDone ref b x).se.rsaWait = x.se.rsaWait := by
  intro good
  by_cases h : bundleCause x.se.rollback b = 0
  · obtain ⟨y, hy⟩ : ∃ y : State, y = { x with se := { x.se with pend := b } } := ⟨_, rfl⟩
    have e : bundleDone ref b x = complete ref 0 0 0 false y := by rw [hy]; exact if_pos h
    have hf : Frame [.se] x y := by rw [hy]; exact .upd_se x _ rfl
    have hc' : findCmd y ref = some c := (findCmd_of_hq (by rw [hy]) ref).trans hc
    have hs : y.se = { x.se with pend := b } := by rw [hy]
    have hg : good = true := by unfold good; rw [h]; rfl
    rw [e, hg, (complete_frame ..).se_eq, hs]
    exact ⟨(complete_ends hc' hq false (by decide) (by decide) (by decide)).after hf, rfl, rfl, rfl⟩
  · have e : bundleDone ref b x = failCmd ref 0x0401 (bundleReject (bundleCause x.se.rollback b) x) := if_neg h
    have hg : good = false := by unfold good; simpa using h
    have hs : (bundleReject (bundleCause x.se.rollback b) x).se.pend = x.se.pend
        ∧ (bundleReject (bundleCause x.se.rollback b) x).se.rsa = x.se.rsa
        ∧ (bundleReject (bundleCause x.se.rollback b) x).se.rsaWait = x.se.rsaWait := by
      unfold bundleReject
      rw [(event_frame ..).se_eq]
      exact ⟨rfl, rfl, rfl⟩
    have hf := bundleReject_frame (bundleCause x.se.rollback b) x
    generalize bundleReject (bundleCause x.se.rollback b) x = y at e hs hf
    have hy : findCmd y ref = some c := (findCmd_of_hq (by rw [hf.hq_eq]) ref).trans hc
    rw [e, hg, failCmd_complete hy (by rw [hop]; decide), (complete_frame ..).se_eq]
    exact ⟨(complete_ends hy hq false (by decide) (by decide) (by decide)).after hf, hs⟩


/-- Settles O38: each verdict on a change has its outcome, and the operations of the RSA engine end in their commands. -/
theorem lifeCycleChange : Obligations.LifeCycleChange := by
  unfold Obligations.LifeCycleChange
  refine ⟨lcChange_outcomes, fun t s a ha => ?_, fun t auth s => ?_, fun t s ref blob c hc hq hw => ?_⟩
  · have e : exec (.lcArmExpiry t) s = if a.at_.toNat + tenSeconds ≤ (advance t s).tb.toNat
        then .next { advance t s with gl := { (advance t s).gl with armed := none } } else .next (advance t s) := by
      change execLcArmExpiry t s = _
      unfold execLcArmExpiry
      extract_lets x
      have hx : x.gl.armed = some a := by unfold x; rw [advance_gl, ha]
      rw [hx]
    exact ⟨fun h => ⟨_, e.trans (if_pos h), rfl⟩,
      fun h => ⟨_, e.trans (if_neg (Nat.not_le.mpr h)), by rw [advance_gl, ha]⟩⟩
  · have hb : barResponds (advance t s) = barResponds s := by unfold barResponds; rw [advance_gl]
    refine ⟨fun h => if_pos (.inl (by rw [advance_gl]; exact h)), fun h hr h1 h2 => ?_⟩
    refine ⟨rsaSubmit (.unlock (hostBytes 848 auth)) (advance t s), if_neg ?_, ?_⟩
    · rw [advance_gl, hb, h, hr]; decide
    · rw [rsaSubmit_free (by rw [advance_se]; exact h1) (by rw [advance_se]; exact h2)]
  · obtain ⟨x, hx⟩ : ∃ x : State, x = { advance t s with se := { (advance t s).se with rsa := none } } := ⟨_, rfl⟩
    have f0 : Frame [.tb, .se] s x := by
      have fa : Frame [.tb, .se] s (advance t s) := (advance_frame t s).widen
      have fx : Frame [.se] (advance t s) x := by rw [hx]; exact .upd_se (advance t s) _ rfl
      exact fx.comp fa (by decide)
    have hse : x.se = { s.se with rsa := none } := by rw [hx, advance_se]
    have hcx : findCmd x ref = some c := (findCmd_of_hq (by rw [hx]; dsimp only; rw [advance_hq]) ref).trans hc
    have hkx : kekOf x ref.fn = kekOf s ref.fn := by unfold kekOf; rw [f0.cy_eq]
    refine ⟨fun hj hop => ?_, fun hj hop => ?_⟩
    · intro label key good
      have e : exec (.rsaOperationDone t) s = .next (tidy (rsaNext (kekDone ref blob x))) := by
        rw [execRsaOperationDone_eq t hj, hx]; rfl
      obtain ⟨h1, h2, h3⟩ := kekDone_ends hcx hop hq blob
      have hkey : (if x.se.xport then oaepDecrypt Config.transportModulus Config.transportExponent label (hostBytes 384 blob)
          else none) = key := by rw [hse]
      rw [hkey] at h1 h2
      rw [hkx] at h2
      generalize kekDone ref blob x = y at e h1 h2 h3
      rw [rsaNext_empty (by rw [h3, hse]; exact hw)] at e
      refine ⟨_, e, ?_, (h1.after f0).frame (tidy_frame y), ?_⟩
      · rw [(tidy_frame y).se_eq, h3, hse]
      · unfold kekOf; rw [(HostStays.tidy y).keks]; exact h2
    · intro good
      have e : exec (.rsaOperationDone t) s = .next (tidy (rsaNext (bundleDone ref blob x))) := by
        rw [execRsaOperationDone_eq t hj, hx]; rfl
      obtain ⟨h1, h2, h3, h4⟩ := bundleDone_ends hcx hop hq blob
      rw [hse] at h1 h2 h3 h4
      generalize bundleDone ref blob x = y at e h1 h2 h3 h4
      rw [rsaNext_empty (by rw [h4]; exact hw)] at e
      refine ⟨_, e, ?_, (h1.after f0).frame (tidy_frame y), ?_⟩
      · rw [(tidy_frame y).se_eq, h3]
      · rw [(tidy_frame y).se_eq, h2]

/-! ### Firmware patches -/

theorem Frame.upd_hq (s : State) (v : Hq) (h : v.inflight = s.hq.inflight) : Frame [.hq] s { s with hq := v } := by
  refine ⟨fun b hb => ?_, List.suffix_refl _⟩
  cases b <;> first | exact absurd (by decide) hb | exact refs_id h | rfl

theorem leNat_lt (l : List Byte) : leNat l < 256 ^ l.length := by
  induction l with
  | nil => decide
  | cons b r ih =>
    have hb := b.isLt
    rw [leNat, List.length_cons, Nat.pow_succ]
    omega

theorem bundleVersion_lt (b : List Byte) : bundleVersion b < 2 ^ 32 := by
  unfold bundleVersion fieldLe
  have hl : (slice b 8 4).length ≤ 4 := (slice_length_le b 8 4).1
  exact Nat.lt_of_lt_of_le (leNat_lt _) (Nat.pow_le_pow_right (by decide) hl)

theorem hostBytes_length (n : Nat) (l : List Byte) : (hostBytes n l).length = n := by
  unfold hostBytes padTo
  simp only [List.length_take, List.length_append, List.length_replicate]
  omega

/-- How a piece with FIRST goes on. -/
theorem execPatchDownload_first {s : State} {ref : CmdRef} {c : InFlight} (h : Ready s 0x29 ref c) (t : Time) (segs : List SgSeg)
    (data : List Byte) {p : List (DWord × Nat)} (hp : dataPieces c.entry segs = some p) (hf : (eOpt c.entry).testBit 0 = true) :
    exec (.patchDownload t ref segs data) s =
      if 262144 < piecesLen p ∨ eField c.entry 24 4 ≠ 0 ∨ (piecesLen p % 4096 ≠ 0 ∧ !(eOpt c.entry).testBit 1)
        ∨ 1048576 < eField c.entry 24 4 + piecesLen p then .next (failCmd ref 2 (advance t s))
      else if (eOpt c.entry).testBit 1 then
        .next (rsaSubmit (.bundle ref (hostBytes (piecesLen p) data)) (setCmd { c with stage := .running }
          { advance t s with se := { (advance t s).se with partial_ := none } }))
      else .next (complete ref 0 0 0 false
        { advance t s with se := { (advance t s).se with partial_ := some (hostBytes (piecesLen p) data) } }) := by
  change execPatchDownload t ref segs data s = _
  unfold execPatchDownload
  extract_lets x
  rw [readyCmd_eq (h.advance t)]
  dsimp only
  rw [hp, hf, if_pos rfl]
  rfl

theorem patchDownload_outcomes (t : Time) (ref : CmdRef) (s : State) (segs : List SgSeg) (data : List Byte) (c : InFlight)
    (p : List (DWord × Nat)) (hr : Ready s 0x29 ref c) (hp : dataPieces c.entry segs = some p)
    (hfirst : (eOpt c.entry).testBit 0 = true) :
      (eField c.entry 24 4 ≠ 0 → ∃ u, exec (.patchDownload t ref segs data) s = .next u ∧ Ends s u ref 2 0 0
        ∧ u.se.partial_ = s.se.partial_)
      ∧ (eField c.entry 24 4 = 0 → piecesLen p ≤ 262144 →
        ((eOpt c.entry).testBit 1 = false → piecesLen p % 4096 = 0 →
          ∃ u, exec (.patchDownload t ref segs data) s = .next u ∧ Ends s u ref 0 0 0
            ∧ u.se.partial_ = some (hostBytes (piecesLen p) data))
        ∧ ((eOpt c.entry).testBit 1 = true → s.se.rsa = none → s.se.rsaWait = [] →
          ∃ u, exec (.patchDownload t ref segs data) s = .next u ∧ u.se.partial_ = none
            ∧ u.se.rsa = some (.bundle ref (hostBytes (piecesLen p) data)) ∧ findCmd u ref = some { c with stage := .running })) := by
  have e := execPatchDownload_first hr t segs data hp hfirst
  have hx := hr.advance t
  have f0 := advance_frame t s
  have hse : (advance t s).se = s.se := advance_se t s
  generalize advance t s = x at e hx f0 hse
  refine ⟨fun h => ?_, fun h h' => ⟨fun hl hm => ?_, fun hl h1 h2 => ?_⟩⟩
  · rw [if_pos (.inr (.inl h))] at e
    exact ⟨_, e, (hx.fails 2).after f0, by rw [(failCmd_frame ..).se_eq, hse]⟩
  · rw [if_neg (by rw [hl, h, hm]; omega), if_neg (by rw [hl]; decide)] at e
    obtain ⟨y, hy⟩ : ∃ y : State, y = { x with se := { x.se with partial_ := some (hostBytes (piecesLen p) data) } } := ⟨_, rfl⟩
    rw [← hy] at e
    have hf : Frame [.se] x y := by rw [hy]; exact .upd_se x _ rfl
    exact ⟨_, e, (hx.ends hf (by rw [hy]) 0 0 0).after f0, by rw [(complete_frame ..).se_eq, hy]⟩
  · rw [if_neg (by rw [hl, h]; simp; omega), if_pos hl] at e
    obtain ⟨y, hy⟩ : ∃ y : State, y = { x with se := { x.se with partial_ := none } } := ⟨_, rfl⟩
    rw [← hy] at e
    have hye : y.se = { s.se with partial_ := none } := by rw [hy, hse]
    have hs := rsaSubmit_free (s := setCmd { c with stage := .running } y) (by show y.se.rsa = _; rw [hye]; exact h1)
      (by show y.se.rsaWait = _; rw [hye]; exact h2) (.bundle ref (hostBytes (piecesLen p) data))
    refine ⟨_, e, ?_, by rw [hs], findCmd_rsaSubmit (d := { c with stage := .running }) hx.found rfl (by rw [hy]) _⟩
    rw [hs]
    show y.se.partial_ = none
    rw [hye]

theorem fwActivate_outcomes (t : Time) (ref : CmdRef) (s : State) (c : InFlight) (hr : Ready s 0x2A ref c) :
    ∃ u, exec (.fwActivate t ref) s = .next u
      ∧ if activatable s then findCmd u ref = some { c with stage := .running }
          ∧ u.hq.act = some { ref := ref, since := c.tb, swapAt := none }
        else Ends s u ref 0x0107 0 0 ∧ u.hq.act = s.hq.act := by
  have hx := hr.advance t
  have f0 := advance_frame t s
  have ha : activatable (advance t s) = activatable s := by unfold activatable bundleValid; rw [advance_se]
  have hq : (advance t s).hq = s.hq := advance_hq t s
  have e : exec (.fwActivate t ref) s = if !activatable s then .next (tidy (failCmd ref 0x0107 (advance t s)))
      else .next { setCmd { c with stage := .running } (advance t s) with
        hq := { (setCmd { c with stage := .running } (advance t s)).hq with
          act := some { ref := ref, since := c.tb, swapAt := none } } } := by
    change execFwActivate t ref s = _
    unfold execFwActivate
    extract_lets x
    rw [readyCmd_eq hx, ← ha]
  generalize advance t s = x at e hx f0 hq
  cases h : activatable s with
  | true =>
    rw [h] at e
    refine ⟨_, e.trans (if_neg (by decide)), ?_⟩
    rw [if_pos rfl]
    refine ⟨?_, rfl⟩
    have hr' := findCmd_ref hx.found
    have k : findCmd (setCmd { c with stage := .running } x) c.ref = some { c with stage := .running } :=
      findCmd_setCmd_same (c := { c with stage := .running }) (d := c) (hr'.symm ▸ hx.found)
    rw [← hr', ← k]
    exact findCmd_of_hq rfl _
  | false =>
    rw [h] at e
    refine ⟨_, e.trans (if_pos rfl), ?_⟩
    rw [if_neg (by decide)]
    exact ⟨((hx.fails 0x0107).after f0).frame (tidy_frame _),
      by rw [(HostStays.tidy _).act, (HostStays.failCmd ..).act, hq]⟩

theorem taskResume_none {s : State} (h : s.task.held = false) : taskResume s = s := by
  unfold taskResume; rw [h]; rfl

/-- The swap, and the end of the 10 s that it has. -/
theorem activation_outcomes (t : Time) (s : State) (a : Activation) (c : InFlight) (ha : s.hq.act = some a)
    (hc : findCmd s a.ref = some c) (hq : a.ref.sq < 8192) (hop : eOpcode c.entry = 0x2A) (hh : s.task.held = false) :
      (swapReady (advance t s) a = true →
        ∃ u, exec (.fwActivateSwap t) s = .next u ∧ Ends s u a.ref 0 0 (bundleVersion s.se.pend) ∧ u.se.active = s.se.pend
          ∧ u.se.pend = [] ∧ u.gl.patched = true ∧ u.se.runVer = bundleVersion s.se.pend ∧ s.se.rollback ≤ u.se.rollback
          ∧ bundleSvn s.se.pend ≤ u.se.rollback ∧ u.hq.act = none)
      ∧ (swapReady (advance t s) a = false → exec (.fwActivateSwap t) s = .next (advance t s))
      ∧ (a.since.toNat + tenSeconds ≤ (advance t s).tb.toNat →
        ∃ u, exec (.fwActivateTimeout t) s = .next u ∧ Ends s u a.ref 7 0 0 ∧ u.hq.act = none ∧ u.se = s.se)
      ∧ ((advance t s).tb.toNat < a.since.toNat + tenSeconds → exec (.fwActivateTimeout t) s = .next (advance t s)) := by
  have hx : (advance t s).hq.act = some a := by rw [advance_hq, ha]
  have e : exec (.fwActivateSwap t) s = if !swapReady (advance t s) a then .next (advance t s)
      else .next (taskResume (tidy (complete a.ref 0 0 (bundleVersion (advance t s).se.pend) false
        (bundleRun (advance t s).se.pend { advance t s with
          se := { (advance t s).se with active := (advance t s).se.pend, pend := [] }
          hq := { (advance t s).hq with act := none } })))) := by
    change execFwActivateSwap t s = _
    unfold execFwActivateSwap
    extract_lets x
    rw [hx]
  have e' : exec (.fwActivateTimeout t) s = if a.since.toNat + tenSeconds ≤ (advance t s).tb.toNat
      then .next (taskResume (tidy (failCmd a.ref 0x0007 { advance t s with hq := { (advance t s).hq with act := none } })))
      else .next (advance t s) := by
    change execFwActivateTimeout t s = _
    unfold execFwActivateTimeout
    extract_lets x
    rw [hx]
  have f0 := advance_frame t s
  have hse : (advance t s).se = s.se := advance_se t s
  generalize advance t s = x at e e' f0 hse hx ⊢
  have hcx : findCmd x a.ref = some c := (findCmd_of_hq (by rw [f0.hq_eq]) _).trans hc
  have htask : x.task.held = false := by rw [f0.task_eq, hh]
  refine ⟨fun h => ?_, fun h => by rw [e, h]; rfl, fun h => ?_, fun h => by rw [e', if_neg (Nat.not_le.mpr h)]⟩
  · obtain ⟨y, hy⟩ : ∃ y : State, y = { x with se := { x.se with active := x.se.pend, pend := [] }, hq := { x.hq with act := none } } :=
      ⟨_, rfl⟩
    rw [← hy, h] at e
    replace e := e.trans (if_neg (by decide))
    have h1 := Frame.upd_se x { x.se with active := x.se.pend, pend := [] } rfl
    have fy : Frame [.se, .hq] x y := by
      rw [hy]; exact (Frame.upd_hq { x with se := { x.se with active := x.se.pend, pend := [] } }
        { x.hq with act := none } rfl).comp h1.widen (by decide)
    have hyse : y.se = { x.se with active := x.se.pend, pend := [] } := by rw [hy]
    have hyq : y.hq = { x.hq with act := none } := by rw [hy]
    have fz := bundleRun_frame x.se.pend y
    have hzg : (bundleRun x.se.pend y).gl.patched = true := rfl
    have hzs : (bundleRun x.se.pend y).se = { y.se with patchRam := slice x.se.pend 512 (bundleLen x.se.pend), runVer := bundleVersion x.se.pend
                                                        rollback := max y.se.rollback (bundleSvn x.se.pend) } := rfl
    rw [hyse, hse] at hzs
    rw [hse] at e
    rw [hse] at fz hzg
    generalize bundleRun s.se.pend y = z at e fz hzg hzs
    have hcz : findCmd z a.ref = some c :=
      (findCmd_of_hq (by rw [fz.hq_eq, hyq]) a.ref).trans hcx
    have hends := (((complete_ends hcz hq false (st := 0) (r0 := 0) (r1 := bundleVersion s.se.pend) (by decide) (by decide)
      (bundleVersion_lt _)).after fz).after fy).after f0
    have fw := complete_frame a.ref 0 0 (bundleVersion s.se.pend) false z
    have hact : (complete a.ref 0 0 (bundleVersion s.se.pend) false z).hq.act = none := by
      rw [(HostStays.complete ..).act, fz.hq_eq, hyq]
    generalize complete a.ref 0 0 (bundleVersion s.se.pend) false z = w at e hends fw hact
    rw [taskResume_none (by rw [(tidy_frame w).task_eq, fw.task_eq, fz.task_eq, fy.task_eq, htask])] at e
    have hu : (tidy w).se = z.se := (tidy_frame w).se_eq.trans fw.se_eq
    rw [hzs] at hu
    refine ⟨_, e, hends.frame (tidy_frame w), by rw [hu], by rw [hu], ?_, by rw [hu], ?_, ?_, ?_⟩
    · rw [(tidy_frame w).gl_eq, fw.gl_eq, hzg]
    · rw [hu]; exact Nat.le_max_left ..
    · rw [hu]; exact Nat.le_max_right ..
    · rw [(HostStays.tidy w).act, hact]
  · obtain ⟨y, hy⟩ : ∃ y : State, y = { x with hq := { x.hq with act := none } } := ⟨_, rfl⟩
    rw [← hy, if_pos h] at e'
    have fy : Frame [.hq] x y := by rw [hy]; exact .upd_hq x _ rfl
    have hcy : findCmd y a.ref = some c := (findCmd_of_hq (by rw [hy]) a.ref).trans hcx
    have hya : y.hq.act = none := by rw [hy]
    have hends : Ends s (failCmd a.ref 7 y) a.ref 7 0 0 := by
      rw [failCmd_complete hcy (by rw [hop]; decide)]
      exact ((complete_ends hcy hq false (by decide) (by decide) (by decide)).after fy).after f0
    rw [taskResume_none (by rw [(tidy_frame _).task_eq, (failCmd_frame ..).task_eq, fy.task_eq, htask])] at e'
    exact ⟨_, e', hends.frame (tidy_frame _), by rw [(HostStays.tidy _).act, (HostStays.failCmd ..).act, hya],
      by rw [(tidy_frame _).se_eq, (failCmd_frame ..).se_eq, fy.se_eq, hse]⟩

/-- Settles O39: a bundle is taken piece by piece, and the barrier of FW_ACTIVATE ends in the swap or after its 10 s. -/
theorem patchAndActivation : Obligations.PatchAndActivation := by
  unfold Obligations.PatchAndActivation
  exact ⟨patchDownload_outcomes, fwActivate_outcomes, activation_outcomes⟩

/-! ### LOAD -/

theorem chosenCmd_parts {op : Nat} {r : CmdRef} {s : State} {c : InFlight} (h : chosenCmd op r s = some c) :
    findCmd s r = some c ∧ eOpcode c.entry = op ∧ c.stage = .chosen := by
  unfold chosenCmd at h
  split at h
  · cases h
  · rename_i d hd
    split at h
    · rename_i k
      cases h
      exact ⟨hd, k⟩
    · cases h

theorem chosenCmd_advance (op : Nat) (r : CmdRef) (t : Time) (s : State) : chosenCmd op r (advance t s) = chosenCmd op r s := by
  unfold chosenCmd; rw [findCmd_advance]

/-- What LOAD says of the volume at its end. -/
structure LoadTold (s x u : State) (ref : CmdRef) : Prop where
  ends : Ends s u ref 0 x.vol.serial.toNat x.vol.count
  vol : u.vol = { x.vol with parts := u.vol.parts, unloadAt := u.vol.unloadAt }
  cart : u.gl.cart = x.gl.cart
  sv : u.sv = x.sv

theorem loadEnds_told {l : List Region} {s x : State} {ref : CmdRef} {c : InFlight} (f : Frame l s x) (hc : findCmd x ref = some c)
    (hq : ref.sq < 8192) (hn : x.vol.count < 2 ^ 32) : LoadTold s x (loadEnds ref x) ref := by
  unfold loadEnds
  have k := complete_ends hc hq (st := 0) (r0 := x.vol.serial.toNat) (r1 := x.vol.count) false (by decide) x.vol.serial.isLt hn
  have fk := complete_frame ref 0 x.vol.serial.toNat x.vol.count false x
  have ek := EndKept.complete ref 0 x.vol.serial.toNat x.vol.count false x
  generalize complete ref 0 x.vol.serial.toNat x.vol.count false x = y at k fk ek
  exact ⟨ends_rest (k.after f), (ek.trans (endKept_rest y)).vol, by rw [tapeRest_cart, (tidy_frame y).gl_eq, fk.gl_eq],
    by rw [(tapeRest_frame _).sv_eq, (tidy_frame y).sv_eq, fk.sv_eq]⟩

theorem reloaded_told {l : List Region} {s z : State} {ref : CmdRef} {c : InFlight} (f : Frame l s z)
    (hl : [Region.rch].all l.contains = true) (hc : findCmd z ref = some c) (hq : ref.sq < 8192) (hn : z.vol.count < 2 ^ 32) :
    LoadTold s z (loadEnds ref (reloadZones z)) ref := by
  have fw := reloadZones_frame z
  have hv : (reloadZones z).vol = z.vol := rfl
  have hw : findCmd (reloadZones z) ref = some c := hc
  generalize reloadZones z = w at fw hv hw
  obtain ⟨h1, h2, h3, h4⟩ := loadEnds_told (fw.comp f hl) hw hq (by rw [hv]; exact hn)
  rw [hv] at h1 h2
  exact ⟨h1, h2, h3.trans (by rw [fw.gl_eq]), h4.trans (by rw [fw.sv_eq])⟩

/-- The volume that a housekeeping generation describes. -/
theorem loadVolume_vol (g psa : Nat) (payload : List Byte) (found : List (List FoundSet)) (y : State) :
    let v := (loadVolume g psa payload found y).vol
    v.loaded = true ∧ v.serial = BitVec.ofNat 64 (fieldLe payload 64 8) ∧ v.hwm = fieldLe payload 72 4
      ∧ v.nextSess = fieldLe payload 72 4 + 1 ∧ v.count = min (fieldLe payload 76 1) 64 ∧ v.gen = g :=
  ⟨rfl, rfl, rfl, rfl, rfl, rfl⟩

/-- The state in which LOAD has threaded the cartridge. -/
def loadThreaded (scan : LoadScan) (s : State) : State :=
  threadMeasures scan { s with gl := { s.gl with cart := true }, rch := { s.rch with kept := [] }, sm := { s.sm with demand := [], inMs := [] } }

theorem loadThreaded_parts (scan : LoadScan) (s : State) : Frame [.gl, .rch, .sm, .sv] s (loadThreaded scan s)
    ∧ (loadThreaded scan s).gl.cart = true ∧ (loadThreaded scan s).sv.reelK = scan.reelK := by
  refine ⟨⟨fun b hb => ?_, List.suffix_refl _⟩, rfl, rfl⟩
  cases b <;> first | exact absurd (by decide) hb | exact refs_id rfl | rfl

theorem execLoad_eq {s : State} {ref : CmdRef} {c : InFlight} (h : chosenCmd 0x20 ref s = some c) (t : Time) (scan : LoadScan) :
    exec (.load t ref scan) s =
      if s.vol.loaded then .next (loadEnds ref (advance t s))
      else if !scan.present then .next (tapeRest (tidy (failCmd ref 0x0105 (advance t s))))
      else match newestGen scan.gens with
        | some (g, psa, payload) =>
          .next (loadEnds ref (reloadZones (loadVolume g psa payload scan.parts (loadThreaded scan (advance t s)))))
        | none =>
          if scan.blank then .next (loadEnds ref (reloadZones (loadBlank (loadThreaded scan (advance t s)))))
          else .next (tapeRest (tidy (failCmd ref 0x0204 (loadThreaded scan (advance t s))))) := by
  change execLoad t ref scan s = _
  unfold execLoad
  extract_lets x
  have hv : x.vol = s.vol := by unfold x; rw [advance_vol]
  rw [chosenCmd_advance, h, ← hv]
  rfl

/-- A chosen command without results of its own that fails ends with its status, and the volume stays as it was loaded. -/
theorem chosen_fails {l : List Region} {s x : State} {ref : CmdRef} {c : InFlight} (f : Frame l s x) (hc : findCmd x ref = some c)
    (hop : 3 < eOpcode c.entry) (hq : ref.sq < 8192) (st : Nat) (hs : st < 65536 := by decide) :
    Ends s (tapeRest (tidy (failCmd ref st x))) ref st 0 0 ∧ (tapeRest (tidy (failCmd ref st x))).vol.loaded = x.vol.loaded := by
  have k : Ends x (failCmd ref st x) ref st 0 0 := by
    rw [failCmd_complete hc hop]
    exact complete_ends hc hq false hs (by decide) (by decide)
  have e := ((EndKept.failCmd ref st x).trans (endKept_rest (failCmd ref st x))).vol
  exact ⟨ends_rest (k.after f), by rw [e]⟩

/-- Settles O25: LOAD by what its scan finds. -/
theorem loadOutcomes : Obligations.LoadOutcomes := by
  unfold Obligations.LoadOutcomes
  intro t ref s scan c hch hq
  have e := execLoad_eq hch t scan
  obtain ⟨hc, hop, -⟩ := chosenCmd_parts hch
  have f0 := advance_frame t s
  have hcx : findCmd (advance t s) ref = some c := by rw [findCmd_advance, hc]
  generalize advance t s = x at e f0 hcx
  have hvx : x.vol = s.vol := f0.vol_eq
  refine ⟨fun hl hn => ?_, fun hl hp => ?_, fun hl hp => ?_⟩
  · rw [hl, if_pos rfl] at e
    obtain ⟨h1, h2, -⟩ := loadEnds_told f0 hcx hq (by rw [hvx]; exact hn)
    rw [hvx] at h1 h2
    exact ⟨_, e, h1, by rw [h2]⟩
  · rw [hl, if_neg (by decide), hp, Bool.not_false, if_pos rfl] at e
    obtain ⟨h1, h2⟩ := chosen_fails f0 hcx (by rw [hop]; decide) hq 0x0105
    exact ⟨_, e, h1, by rw [h2, hvx, hl]⟩
  · rw [hl, if_neg (by decide), hp, if_neg (by decide)] at e
    obtain ⟨fy, hcart, hreel⟩ := loadThreaded_parts scan x
    generalize loadThreaded scan x = y at e fy hcart hreel
    have hcy : findCmd y ref = some c := (findCmd_of_hq (by rw [fy.hq_eq]) ref).trans hcx
    have fsy : Frame [.tb, .gl, .rch, .sm, .sv] s y := fy.comp f0.widen (by decide)
    refine ⟨fun g psa payload hg => ?_, fun hg hb => ?_, fun hg hb => ?_⟩
    · rw [hg] at e
      dsimp only at e
      have fz := loadVolume_frame g psa payload scan.parts y
      obtain ⟨v1, v2, v3, v4, v5, v6⟩ := loadVolume_vol g psa payload scan.parts y
      generalize loadVolume g psa payload scan.parts y = z at e fz v1 v2 v3 v4 v5 v6
      have fsz : Frame [.tb, .gl, .rch, .sm, .sv, .vol, .spill, .ev, .out] s z := fz.comp fsy.widen (by decide)
      obtain ⟨h1, h2, h3, h4⟩ := reloaded_told fsz (by decide) ((findCmd_of_hq (by rw [fz.hq_eq]) ref).trans hcy) hq
        (by rw [v5]; exact Nat.lt_of_le_of_lt (Nat.min_le_right ..) (by decide))
      rw [v2, v5] at h1
      refine ⟨_, e, h1, by rw [h2, ← v1], by rw [h2, ← v2], by rw [h2, ← v3], by rw [h2, ← v4], by rw [h2, ← v6], ?_, ?_⟩
      · rw [h3, fz.gl_eq, hcart]
      · rw [h4, fz.sv_eq, hreel]
    · rw [hg] at e
      dsimp only at e
      replace e := e.trans (if_pos hb)
      have fz := loadBlank_frame y
      have hz : (loadBlank y).vol.loaded = true ∧ (loadBlank y).vol.count = 0 ∧ (loadBlank y).vol.gen = 0
          ∧ (loadBlank y).vol.nextSess = 1 := ⟨rfl, rfl, rfl, rfl⟩
      generalize loadBlank y = z at e fz hz
      obtain ⟨v1, v2, v3, v4⟩ := hz
      have fsz : Frame [.tb, .gl, .rch, .sm, .sv, .vol, .fresh] s z := fz.comp fsy.widen (by decide)
      obtain ⟨h1, h2, h3, -⟩ := reloaded_told fsz (by decide) ((findCmd_of_hq (by rw [fz.hq_eq]) ref).trans hcy) hq
        (by rw [v2]; decide)
      rw [v2] at h1
      exact ⟨_, _, e, h1, by rw [h2, ← v1], by rw [h2, ← v2], by rw [h2, ← v3], by rw [h2, ← v4], by rw [h3, fz.gl_eq, hcart]⟩
    · rw [hg] at e
      dsimp only at e
      replace e := e.trans (if_neg (by rw [hb]; decide))
      obtain ⟨h1, h2⟩ := chosen_fails fsy hcy (by rw [hop]; decide) hq 0x0204
      exact ⟨_, e, h1, by rw [h2, fy.vol_eq, hvx, hl]⟩

end Sys2Proof.Machine
end

section
/-!
The record stream: its flushes and queries, the staging of APPEND, and the acceptance point.
-/

namespace Sys2Proof.Machine
set_option Elab.async false

/-! ### Sorting -/

theorem insertBy_perm {α : Type} (before : α → α → Bool) (x : α) (l : List α) : (insertBy before x l).Perm (x :: l) := by
  induction l with
  | nil => exact .refl _
  | cons y r ih =>
    unfold insertBy
    split
    · exact .refl _
    · exact (ih.cons y).trans (.swap x y r)

theorem sortBy_perm {α : Type} (before : α → α → Bool) (l : List α) : (sortBy before l).Perm l := by
  have loop : ∀ acc : List α, (l.foldl (fun acc x => insertBy before x acc) acc).Perm (l ++ acc) := by
    induction l with
    | nil => exact fun acc => .refl _
    | cons a r ih =>
      intro acc
      exact (ih _).trans (((insertBy_perm before a acc).append_left r).trans List.perm_middle)
  simpa [sortBy] using loop []

/-- A sorted list is in the order of a transitive relation that `before` decides between any two elements. -/
theorem sortBy_pairwise {α : Type} {before : α → α → Bool} {R : α → α → Prop} (hR : ∀ a b c, R a b → R b c → R a c)
    (h1 : ∀ a b, before a b = true → R a b) (h2 : ∀ a b, before a b = false → R b a) (l : List α) :
    (sortBy before l).Pairwise R := by
  have step : ∀ (x : α) (l : List α), l.Pairwise R → (insertBy before x l).Pairwise R := by
    intro x l
    induction l with
    | nil => exact fun _ => List.pairwise_singleton R x
    | cons y r ih =>
      intro h
      obtain ⟨hy, hr⟩ := List.pairwise_cons.mp h
      unfold insertBy
      split
      · rename_i hb
        exact List.pairwise_cons.mpr ⟨fun z hz => (List.mem_cons.mp hz).elim (fun e => e ▸ h1 x y hb)
          fun hz => hR x y z (h1 x y hb) (hy z hz), h⟩
      · rename_i hb
        refine List.pairwise_cons.mpr ⟨fun z hz => ?_, ih hr⟩
        obtain rfl | hz := (mem_insertBy before x z r).mp hz
        · exact h2 z y (by simpa using hb)
        · exact hy z hz
  unfold sortBy
  have loop : ∀ acc : List α, acc.Pairwise R → (l.foldl (fun acc x => insertBy before x acc) acc).Pairwise R := by
    induction l with
    | nil => exact fun acc h => h
    | cons a r ih => exact fun acc h => ih _ (step a acc h)
  exact loop [] List.Pairwise.nil

/-- A list with its indices is its range of indices with the elements read off. -/
theorem zipIdx_map_range {α β : Type} (l : List α) (d : α) (f : α → Nat → β) :
    (l.zipIdx.map fun x => f x.1 x.2) = (List.range l.length).map fun i => f (l.getD i d) i := by
  refine List.ext_getElem (by simp) fun i h1 h2 => ?_
  have hi : i < l.length := by simpa using h1
  simp [List.getD_eq_getElem?_getD, List.getElem?_eq_getElem hi]

/-! ### FLUSH, READ_POSITION and ORDER_QUERY -/

theorem eField_lt (e : BitVec 512) (o n : Nat) : eField e o n < 2 ^ (8 * n) := Nat.mod_lt _ (Nat.two_pow_pos _)

/-- The order in which ORDER_QUERY reports the first `n` indices, whose path positions `path` gives, seen from the head of
`x`; blocks at one position go by `blk`. -/
def queryKnown (x : State) (path : Nat → Option Nat) (blk : Nat → Nat) (n : Nat) : List (Nat × Nat × Nat) :=
  sortBy (fun a b => decide (a.1 < b.1) || (a.1 == b.1 && decide (a.2.1 < b.2.1)))
    ((List.range n).filterMap fun i => (path i).map fun y => (pathKey x y, blk i, i))

/-- The indices with a known position, and behind them the others. -/
def queryOrder (x : State) (path : Nat → Option Nat) (blk : Nat → Nat) (n : Nat) : List Nat :=
  (queryKnown x path blk n).map (fun k => k.2.2) ++ (List.range n).filter fun i => (path i).isNone

section
variable (x : State) (path : Nat → Option Nat) (blk : Nat → Nat) (n : Nat)

theorem queryKnown_perm : ((queryKnown x path blk n).map fun k => k.2.2).Perm ((List.range n).filter fun i => (path i).isSome) := by
  refine ((sortBy_perm _ _).map _).trans ?_
  have e : (((List.range n).filterMap fun i => (path i).map fun y => (pathKey x y, blk i, i)).map fun k => k.2.2)
      = (List.range n).filter fun i => (path i).isSome := by
    induction List.range n with
    | nil => rfl
    | cons a r ih => cases h : path a <;> simp [h, ih]
  rw [e]

theorem queryOrder_perm : (queryOrder x path blk n).Perm (List.range n) := by
  refine ((queryKnown_perm x path blk n).append_right _).trans ?_
  have h := List.filter_append_perm (fun i => (path i).isSome) (List.range n)
  have e : (fun i => !(path i).isSome) = fun i => (path i).isNone := by funext i; cases path i <;> rfl
  rw [e] at h
  exact h

theorem mem_queryKnown {k : Nat × Nat × Nat} (h : k ∈ queryKnown x path blk n) : ∃ y, path k.2.2 = some y ∧ k.1 = pathKey x y := by
  obtain ⟨i, -, hi⟩ := List.mem_filterMap.mp ((mem_sortBy _ k _).mp h)
  cases hp : path i with
  | none => rw [hp] at hi; cases hi
  | some y =>
    rw [hp] at hi
    obtain rfl := Option.some.inj hi
    exact ⟨y, hp, rfl⟩

/-- Of two indices in the order, the second is known only where the first is, and then it lies no nearer on the path. -/
theorem queryOrder_pairwise : (queryOrder x path blk n).Pairwise fun a b =>
    ((path b).isSome = true → (path a).isSome = true)
      ∧ ∀ y z, path a = some y → path b = some z → pathKey x y ≤ pathKey x z := by
  have hs : (queryKnown x path blk n).Pairwise fun a b => a.1 ≤ b.1 := by
    refine sortBy_pairwise (R := fun a b : Nat × Nat × Nat => a.1 ≤ b.1) (fun a b c h k => Nat.le_trans h k) (fun a b h => ?_) (fun a b h => ?_) _
    · simp only [Bool.or_eq_true, Bool.and_eq_true, decide_eq_true_eq, beq_iff_eq] at h
      omega
    · simp only [Bool.or_eq_false_iff, Bool.and_eq_false_iff, decide_eq_false_iff_not] at h
      omega
  have hn : ∀ a, ∀ b ∈ (List.range n).filter fun i => (path i).isNone, ((path b).isSome = true → (path a).isSome = true)
      ∧ ∀ y z, path a = some y → path b = some z → pathKey x y ≤ pathKey x z := by
    intro a b hb
    have hn := (List.mem_filter.mp hb).2
    rw [Option.isNone_iff_eq_none] at hn
    exact ⟨fun h => (by rw [hn] at h; cases h), fun y z _ hz => (by rw [hn] at hz; cases hz)⟩
  refine List.pairwise_append.mpr ⟨?_, List.pairwise_of_forall_mem_list fun a _ b hb => hn a b hb, fun a _ b hb => hn a b hb⟩
  rw [List.pairwise_map]
  refine hs.imp_of_mem fun {a b} ha hb hab => ?_
  obtain ⟨y, hy, ky⟩ := mem_queryKnown x path blk n ha
  obtain ⟨z, hz, kz⟩ := mem_queryKnown x path blk n hb
  refine ⟨fun _ => by rw [hy]; rfl, fun y' z' hy' hz' => ?_⟩
  rw [hy] at hy'
  rw [hz] at hz'
  cases hy'
  cases hz'
  rw [← ky, ← kz]
  exact hab

end

theorem positionBytes_parts (x : State) (p : Nat) (h : (partOf x p).next < 2 ^ 64) :
    (positionBytes x p).length = 64 ∧ fieldLe (positionBytes x p) 0 8 = (partOf x p).next := by
  unfold positionBytes
  extract_lets v rem
  refine ⟨by simp, ?_⟩
  unfold fieldLe slice
  simp only [List.append_assoc]
  rw [List.drop_zero, List.take_left' (by simp)]
  exact leNat_natLe _ _ (by unfold v; omega)

theorem execReadPosition_eq {s : State} {ref : CmdRef} {c : InFlight} (h : Ready s 6 ref c) (t : Time) (segs : List SgSeg)
    {a : DWord} {n : Nat} (hp : dataPieces c.entry segs = some [(a, n)]) :
    exec (.readPosition t ref segs) s = if n < 64 then .next (failCmd ref 2 (advance t s))
      else .next (complete ref 0 (partOf (advance t s) (ePart c.entry)).next 0 false
        (writeArea ref.fn [(a, n)] 0 (positionBytes (advance t s) (ePart c.entry)) (advance t s))) := by
  change execReadPosition t ref segs s = _
  unfold execReadPosition
  extract_lets x
  rw [readyCmd_eq (h.advance t)]
  dsimp only
  rw [hp]
  have hn : piecesLen [(a, n)] = n := by simp [piecesLen]
  dsimp only
  rw [hn]

theorem readPosition_outcomes (t : Time) (ref : CmdRef) (s : State) (segs : List SgSeg) (c : InFlight) (a : DWord) (n : Nat)
    (hr : Ready s 6 ref c) (hp : dataPieces c.entry segs = some [(a, n)]) (hn : (partOf s (ePart c.entry)).next < 2 ^ 64) :
      (64 ≤ n → ∃ u bytes, exec (.readPosition t ref segs) s = .next u ∧ Ends s u ref 0 (partOf s (ePart c.entry)).next 0
        ∧ Sent s u (.hostWrite ref.fn a bytes) ∧ bytes.length = 64 ∧ fieldLe bytes 0 8 = (partOf s (ePart c.entry)).next)
      ∧ (n < 64 → ∃ u, exec (.readPosition t ref segs) s = .next u ∧ Ends s u ref 2 0 0) := by
  have e := execReadPosition_eq hr t segs hp
  have hx := hr.advance t
  have f0 := advance_frame t s
  have hv : partOf (advance t s) (ePart c.entry) = partOf s (ePart c.entry) := by unfold partOf; rw [advance_vol]
  generalize advance t s = x at e hx f0 hv
  obtain ⟨hl, hb⟩ := positionBytes_parts x (ePart c.entry) (by rw [hv]; exact hn)
  rw [hv] at hb e
  generalize positionBytes x (ePart c.entry) = bytes at e hl hb
  refine ⟨fun h => ?_, fun h => ⟨_, e.trans (if_pos h), (hx.fails 2).after f0⟩⟩
  rw [if_neg (by omega), writeArea_single _ _ _ _ _ (by omega) (by intro k; rw [k] at hl; cases hl)] at e
  have fy := emit_frame (.hostWrite ref.fn a bytes) x
  exact ⟨_, bytes, e, (hx.ends fy rfl 0 _ 0 (by decide) hn).after f0, ((Sent.emit _ x).after f0).frame (complete_frame ..), hl, hb⟩

theorem execFlush_eq {s : State} {ref : CmdRef} {c : InFlight} {w : FlushRun} (h : Ready s 4 ref c) (t : Time)
    (hw : (s.hq.flushes.find? fun x => x.ref == ref) = some w) :
    exec (.flush t ref) s = if offTape s w.point then .next (advance t s)
      else .next (tidy (completeFlush ref 0 0 (advance t s))) := by
  have ho : offTape (advance t s) w.point = offTape s w.point := by unfold offTape; rw [advance_vol, advance_wr]
  change execFlush t ref s = _
  unfold execFlush
  extract_lets x
  have hx : (x.hq.flushes.find? fun y => y.ref == ref) = some w := by unfold x; rw [advance_hq, hw]
  rw [readyCmd_eq (h.advance t)]
  dsimp only
  rw [hx]
  dsimp only
  rw [ho]

/-- A flush of a function with no lost range to report reports those lost under it. -/
theorem completeFlush_eq {x : State} {ref : CmdRef} {c : InFlight} {w : FlushRun} (hc : findCmd x ref = some c)
    (hw : (x.hq.flushes.find? fun y => y.ref == ref) = some w) (hl : ∀ l, l ∈ x.hq.lost → l.fn ≠ ref.fn) (r0 r1 : Nat) :
    completeFlush ref r0 r1 x
      = flushReport ref c r0 r1 (sortBy (fun (a b : Bool × Lost) => lostBefore a.2 b.2) (w.losses.map fun l => (true, l))) x := by
  have hold : (x.hq.lost.filter fun l => l.fn == ref.fn) = [] := by
    rw [List.filter_eq_nil_iff]
    exact fun l h => by simpa using hl l h
  unfold completeFlush
  rw [hc]
  dsimp only
  rw [hw, hold]
  simp

theorem flush_outcomes (t : Time) (ref : CmdRef) (s : State) (c : InFlight) (w : FlushRun) (hr : Ready s 4 ref c)
    (hw : (s.hq.flushes.find? fun x => x.ref == ref) = some w) :
      (offTape s w.point = true → ∃ u, exec (.flush t ref) s = .next u ∧ findCmd u ref = some c)
      ∧ (offTape s w.point = false → (∀ l, l ∈ s.hq.lost → l.fn ≠ ref.fn) →
        (w.losses = [] → ∃ u, exec (.flush t ref) s = .next u ∧ Ends s u ref 0 0 0)
        ∧ ∀ l, w.losses = [l] → l.first < 2 ^ 64 → l.part < 64 →
          ∃ u, exec (.flush t ref) s = .next u
            ∧ Ends s u ref 0x0205 l.first (min l.count (2 ^ 26 - 1) + l.part * 2 ^ 26)) := by
  have e := execFlush_eq hr t hw
  have hx := hr.advance t
  have f0 := advance_frame t s
  have hwx : ((advance t s).hq.flushes.find? fun y => y.ref == ref) = some w := by rw [advance_hq, hw]
  have hlost : (advance t s).hq.lost = s.hq.lost := by rw [advance_hq]
  generalize advance t s = x at e hx f0 hwx hlost
  refine ⟨fun h => ⟨_, e.trans (if_pos h), hx.found⟩, fun h hl => ?_⟩
  rw [h, if_neg (by decide), completeFlush_eq hx.found hwx (by rw [hlost]; exact hl)] at e
  refine ⟨fun hn => ?_, fun l hn h1 h2 => ?_⟩
  · rw [hn] at e
    exact ⟨_, e, ((hx.ends (Frame.refl [] x) rfl 0 0 0).after f0).frame (tidy_frame _)⟩
  · rw [hn] at e
    obtain ⟨y, hy⟩ : ∃ y : State, y = { x with hq := { x.hq with lost := (x.hq.lost.filter fun z => z.fn != ref.fn) ++ [] } } := ⟨_, rfl⟩
    have e' : exec (.flush t ref) s
        = .next (tidy (complete ref 0x0205 l.first (min l.count (2 ^ 26 - 1) + l.part * 2 ^ 26) false y)) := by
      rw [e, hy]; rfl
    have fy : Frame [.hq] x y := by rw [hy]; exact .upd_hq x _ rfl
    exact ⟨_, e', ((hx.ends fy (by rw [hy]) 0x0205 _ _ (by decide) h1 (by omega)).after f0).frame (tidy_frame _)⟩


/-- ORDER_QUERY writes the order that `queryOrder` gives and ends with the number of known positions. -/
theorem execOrderQuery_eq {s : State} {ref : CmdRef} {c : InFlight} (h : Ready s 7 ref c) (t : Time) (segs : List SgSeg)
    (list : List (Byte × BitVec 56 × DWord)) (hd : (dataIs c segs (16 * eField c.entry 24 2)).isSome = true) :
    let path := fun i => blockPath s ref.fn ((list.getD i (0, 0, 0)).1.toNat % 64) (list.getD i (0, 0, 0)).2.2.toNat
    let blk := fun i => (list.getD i (0, 0, 0)).2.2.toNat
    exec (.orderQuery t ref segs list) s = .next (tidy (complete ref 0 (queryKnown (advance t s) path blk list.length).length 0 false
      (emit (.hostWrite ref.fn (BitVec.ofNat 64 (eField c.entry 32 8))
        ((queryOrder (advance t s) path blk list.length).flatMap (natLe 2))) (advance t s)))) := by
  intro path blk
  have hx := h.advance t
  have hb : ∀ p b, blockPath (advance t s) ref.fn p b = blockPath s ref.fn p b := fun p b => by
    unfold blockPath param partOf partCount; rw [advance_par, advance_vol]
  change execOrderQuery t ref segs list s = _
  unfold execOrderQuery
  generalize advance t s = x at hx hb
  extract_lets _ all known₀ known order
  rw [readyCmd_eq hx]
  obtain ⟨p, hp⟩ := Option.isSome_iff_exists.mp hd
  dsimp -zeta only
  rw [hp]
  have hall : all = (List.range list.length).map fun i => (i, blk i, path i) := by
    refine (zipIdx_map_range list (0, 0, 0) fun e i => (i, e.2.2.toNat, blockPath x ref.fn (e.1.toNat % 64) e.2.2.toNat)).trans ?_
    exact List.map_congr_left fun i _ => by rw [hb]
  have hk : known = queryKnown x path blk list.length := by
    unfold known known₀ queryKnown
    rw [hall, List.filterMap_map]
    rfl
  have ho : order = queryOrder x path blk list.length := by
    unfold order queryOrder
    rw [hk, hall, List.filter_map, List.map_map]
    congr 1
    exact List.map_id _
  rw [← hk, ← ho]

/-- Settles O30: a FLUSH by what is off tape, the position structure, and the order of the indices asked for. -/
theorem flushAndQueries : Obligations.FlushAndQueries := by
  unfold Obligations.FlushAndQueries
  refine ⟨flush_outcomes, readPosition_outcomes, fun t ref s segs list c hr hd hl => ?_⟩
  intro path
  have e := execOrderQuery_eq hr t segs list hd
  generalize hb : (fun i => (list.getD i (0, 0, 0)).2.2.toNat) = blk at e
  change exec _ _ = Host.Outcome.next (tidy (complete ref 0 (queryKnown (advance t s) path blk list.length).length 0 false
    (emit (.hostWrite ref.fn _ ((queryOrder (advance t s) path blk list.length).flatMap (natLe 2))) (advance t s)))) at e
  have hx := hr.advance t
  have f0 := advance_frame t s
  have hlen : (queryKnown (advance t s) path blk list.length).length
      = ((List.range list.length).filter fun i => (path i).isSome).length := by
    rw [← (queryKnown_perm (advance t s) path blk list.length).length_eq, List.length_map]
  have hn : ((List.range list.length).filter fun i => (path i).isSome).length < 2 ^ 64 := by
    have h1 := List.length_filter_le (fun i => (path i).isSome) (List.range list.length)
    have h2 := eField_lt c.entry 24 2
    rw [List.length_range] at h1
    omega
  rw [hlen] at e
  have hperm := queryOrder_perm (advance t s) path blk list.length
  have hpair := queryOrder_pairwise (advance t s) path blk list.length
  generalize queryOrder (advance t s) path blk list.length = order at e hperm hpair
  have hget := fun i j (h1 : i < j) (h2 : j < order.length) => List.pairwise_iff_getElem.mp hpair i j (by omega) h2 h1
  have hgd : ∀ i (h : i < order.length), order.getD i 0 = order[i] := fun i h => by
    rw [List.getD_eq_getElem?_getD, List.getElem?_eq_getElem h, Option.getD_some]
  refine ⟨_, order, e, ?_, ?_, hperm, fun i j h1 h2 => ?_, fun i j y z h1 h2 => ?_⟩
  · have fy := emit_frame (.hostWrite ref.fn (BitVec.ofNat 64 (eField c.entry 32 8)) (order.flatMap (natLe 2))) (advance t s)
    exact ((hx.ends fy rfl 0 _ 0 (by decide) hn).after f0).frame (tidy_frame _)
  · exact (((Sent.emit _ _).after f0).frame (complete_frame ..)).frame (tidy_frame _)
  · rw [hgd i (by omega), hgd j h2]; exact (hget i j h1 h2).1
  · rw [hgd i (by omega), hgd j h2]; exact (hget i j h1 h2).2 y z

/-! ### APPEND takes its staging -/

/-- What does not depend on TB is the same after the time of a command. -/
theorem read_advance {β : Type} (f : State → β) (hf : ∀ s b, f { s with tb := b } = f s) (t : Time) (s : State) :
    f (advance t s) = f s := by
  unfold advance
  split
  · exact hf s t
  · rfl

/-- With distinct references and no other waiting, a command that is set waiting is the only one. -/
theorem waiting_single {l : List InFlight} {c d : InFlight} (hn : (l.map fun e => e.ref).Nodup) (hc : c ∈ l)
    (hw : ∀ e ∈ l, e.stage ≠ .waiting) (hd : d.ref = c.ref) (hs : d.stage = .waiting) :
    ((l.map fun e => if e.ref = d.ref then d else e).filter fun e => decide (e.stage = .waiting)) = [d] := by
  induction l with
  | nil => exact absurd hc List.not_mem_nil
  | cons a r ih =>
    obtain ⟨ha, hr⟩ := List.nodup_cons.mp hn
    by_cases h : a.ref = d.ref
    · have hrest : ∀ e ∈ r, ((fun e => if e.ref = d.ref then d else e) e) = e := fun e he =>
        if_neg fun k => ha (List.mem_map.mpr ⟨e, he, k.trans h.symm⟩)
      have hnone : (r.filter fun e => decide (e.stage = .waiting)) = [] :=
        List.filter_eq_nil_iff.mpr fun e he => by simpa using hw e (List.mem_cons_of_mem _ he)
      rw [List.map_cons, if_pos h, List.filter_cons_of_pos (by simpa using hs), List.map_congr_left hrest, List.map_id', hnone]
    · have hcr : c ∈ r := (List.mem_cons.mp hc).resolve_left fun k => h (by rw [← k, hd])
      rw [List.map_cons, if_neg h, List.filter_cons_of_neg (by simpa using hw a (List.mem_cons_self ..))]
      exact ih hr hcr fun e he => hw e (List.mem_cons_of_mem _ he)

/-- The grant that a command takes. -/
def grantOf (c : InFlight) (s : State) : Grant :=
  { ref := c.ref, pages := freePages s (c.bytes / pageBytes), bytes := c.bytes, accepted := false, recs := [] }

theorem grantTo_parts {s : State} {c d : InFlight} (h : findCmd s c.ref = some d) :
    findCmd (grantTo c s) c.ref = some { c with stage := .staged } ∧ (grantTo c s).sm.grants = s.sm.grants ++ [grantOf c s] := by
  unfold grantTo
  extract_lets g _ x
  have hx : findCmd x c.ref = some { c with stage := .staged } :=
    findCmd_setCmd_same (c := { c with stage := .staged }) (s := { s with sm := { s.sm with grants := s.sm.grants ++ [g] } }) h
  have hg : x.sm.grants = s.sm.grants ++ [grantOf c s] := rfl
  clear_value x
  have h1 := trimCache_frame x.rdr.cache.length x
  have h2 := startRuns_frame c (trimCache x.rdr.cache.length x)
  exact ⟨(findCmd_of_hq (by rw [h2.hq_eq, h1.hq_eq]) _).trans hx, by rw [h2.sm_eq, h1.sm_eq, hg]⟩

/-- A grant pass with one command waiting: it takes its staging where quota and space allow it. -/
theorem grantPass_single {s : State} {c : InFlight} (h : atStage s .waiting = [c]) :
    grantPass s = if quotaAdmits s c.ref.fn c.bytes = true ∧ stagingUsed s + c.bytes ≤ stagingLimit s then grantTo c s else s := by
  unfold grantPass
  rw [h]
  unfold grantList
  cases hq : quotaAdmits s c.ref.fn c.bytes with
  | false => simp [grantList]
  | true =>
    by_cases hl : stagingUsed s + c.bytes ≤ stagingLimit s
    · simp [hl, grantList]
    · simp [hl]

theorem execAppend_eq {s : State} {ref : CmdRef} {c : InFlight} (h : Ready s 1 ref c) (t : Time) (rlist : List Nat)
    (segs : List SgSeg) (data : List Byte) : exec (.append t ref rlist segs data) s =
      match dataPieces c.entry segs with
      | none => .next (failCmd ref 2 (advance t s))
      | some p =>
        if !lensOk c (recordLens c rlist (piecesLen p)) (piecesLen p) then .next (failCmd ref 2 (advance t s))
        else .next (grantPass (setCmd { c with
          stage := .waiting, bytes := reservation (recordLens c rlist (piecesLen p)), segs := segs
          recs := cutBy (recordLens c rlist (piecesLen p)) (padTo (piecesLen p) data) } (advance t s))) := by
  change execAppend t ref rlist segs data s = _
  unfold execAppend
  extract_lets x
  rw [readyCmd_eq (h.advance t)]
  all_goals dsimp only
  all_goals (cases dataPieces c.entry segs <;> rfl)

/-- An APPEND that fails before its acceptance point reports no block. -/
theorem append_fails {s : State} {ref : CmdRef} {c : InFlight} (hc : findCmd s ref = some c) (hop : eOpcode c.entry = 1)
    (hs : c.stage ≠ .accepted) (hq : ref.sq < 8192) (st : Nat) (h : st < 65536 := by decide) :
    Ends s (failCmd ref st s) ref st ones64 0 := by
  have h0 : failR0 c = ones64 := by unfold failR0; rw [hop]; exact if_neg hs
  have h1 : failR1 c = 0 := by unfold failR1; rw [hop]; rfl
  have k := failCmd_ends hc hq h (by rw [h0]; decide) (by rw [h1]; decide)
  rwa [h0, h1] at k

theorem append_outcomes (t : Time) (ref : CmdRef) (rlist : List Nat) (segs : List SgSeg) (data : List Byte) (s : State)
    (c : InFlight) (hr : Ready s 1 ref c) :
      (dataPieces c.entry segs = none → ∃ u, exec (.append t ref rlist segs data) s = .next u ∧ Ends s u ref 2 ones64 0)
      ∧ ∀ p, dataPieces c.entry segs = some p →
        let lens := recordLens c rlist (piecesLen p)
        let c' := { c with bytes := reservation lens, recs := cutBy lens (padTo (piecesLen p) data), segs := segs }
        (lensOk c lens (piecesLen p) = false →
          ∃ u, exec (.append t ref rlist segs data) s = .next u ∧ Ends s u ref 2 ones64 0)
        ∧ (lensOk c lens (piecesLen p) = true → TagsDistinct s → (∀ d, d ∈ s.hq.inflight → d.stage ≠ .waiting) →
          (quotaAdmits s ref.fn (reservation lens) = true → stagingUsed s + reservation lens ≤ stagingLimit s →
            ∃ u g, exec (.append t ref rlist segs data) s = .next u ∧ findCmd u ref = some { c' with stage := .staged }
              ∧ u.sm.grants = s.sm.grants ++ [g] ∧ g.ref = ref ∧ g.bytes = reservation lens ∧ g.accepted = false)
          ∧ (quotaAdmits s ref.fn (reservation lens) = false ∨ stagingLimit s < stagingUsed s + reservation lens →
            ∃ u, exec (.append t ref rlist segs data) s = .next u ∧ findCmd u ref = some { c' with stage := .waiting }
              ∧ u.sm.grants = s.sm.grants)) := by
  obtain rfl := findCmd_ref hr.found
  have e := execAppend_eq hr t rlist segs data
  have hx := hr.advance t
  have f0 := advance_frame t s
  have hq : (advance t s).hq = s.hq := advance_hq t s
  have hsm : (advance t s).sm = s.sm := advance_sm t s
  generalize advance t s = x at e hx f0 hq hsm
  have hfail : Ends s (failCmd c.ref 2 x) c.ref 2 ones64 0 :=
    (append_fails hx.found hx.op (by rw [hx.stage]; decide) hx.queue 2).after f0
  refine ⟨fun hp => ?_, fun p hp => ?_⟩
  · rw [hp] at e; exact ⟨_, e, hfail⟩
  intro lens c'
  rw [hp] at e
  change _ = (if !lensOk c lens (piecesLen p) then Host.Outcome.next _
    else Host.Outcome.next (grantPass (setCmd { c' with stage := .waiting } x))) at e
  refine ⟨fun hl => ?_, fun hl hd hw => ?_⟩
  · rw [hl] at e; exact ⟨_, e, hfail⟩
  rw [hl, if_neg (by decide)] at e
  have hdr : ({ c' with stage := .waiting } : InFlight).ref = c.ref := rfl
  have hmem : c ∈ s.hq.inflight := List.mem_of_find?_eq_some hr.found
  have hfound : findCmd (setCmd { c' with stage := .waiting } x) c.ref = some { c' with stage := .waiting } :=
    findCmd_setCmd_same (c := { c' with stage := .waiting }) (s := x) (d := c) hx.found
  have hone : atStage (setCmd { c' with stage := .waiting } x) .waiting = [{ c' with stage := .waiting }] := by
    unfold atStage
    show sortBy _ (List.filter _ (x.hq.inflight.map fun e => if e.ref = _ then _ else e)) = _
    rw [hq, waiting_single hd hmem hw hdr rfl]
    rfl
  have hysm : (setCmd { c' with stage := .waiting } x).sm = s.sm := hsm
  have hpass := grantPass_single hone
  generalize setCmd { c' with stage := .waiting } x = y at e hfound hone hysm hpass
  have hqa : quotaAdmits y c.ref.fn (reservation lens) = quotaAdmits s c.ref.fn (reservation lens) := by
    unfold quotaAdmits quotaOf stagingOf; rw [hysm]
  have hsu : stagingUsed y = stagingUsed s := by unfold stagingUsed; rw [hysm]
  have hsl : stagingLimit y = stagingLimit s := by unfold stagingLimit; rw [hysm]
  change grantPass y = (if quotaAdmits y c.ref.fn (reservation lens) = true ∧ stagingUsed y + reservation lens ≤ stagingLimit y
    then _ else y) at hpass
  rw [hqa, hsu, hsl] at hpass
  refine ⟨fun h1 h2 => ?_, fun h => ?_⟩
  · rw [if_pos ⟨h1, h2⟩] at hpass
    rw [hpass] at e
    obtain ⟨k1, k2⟩ := grantTo_parts (s := y) (c := { c' with stage := .waiting }) (d := { c' with stage := .waiting }) hfound
    exact ⟨_, _, e, k1, by rw [k2, hysm], rfl, rfl, rfl⟩
  · rw [if_neg fun k => h.elim (fun h => Bool.false_ne_true (h.symm.trans k.1)) fun h => Nat.not_le.mpr h k.2] at hpass
    rw [hpass] at e
    exact ⟨_, e, hfound, by rw [hysm]⟩

/-- Settles O28: an APPEND takes or awaits its staging, and a grant pass gives it to one that waits. -/
theorem appendTakesStaging : Obligations.AppendTakesStaging := by
  unfold Obligations.AppendTakesStaging
  refine ⟨append_outcomes, fun t s c hc hq hl => ?_⟩
  have h1 : atStage (advance t s) .waiting = [c] := by unfold atStage; rw [advance_hq]; exact hc
  have h2 : quotaAdmits (advance t s) c.ref.fn c.bytes = true := by
    unfold quotaAdmits quotaOf stagingOf; rw [advance_sm]; exact hq
  have h3 : stagingUsed (advance t s) + c.bytes ≤ stagingLimit (advance t s) := by
    unfold stagingUsed stagingLimit; rw [advance_sm]; exact hl
  have hmem : c ∈ (advance t s).hq.inflight := by
    have k : c ∈ atStage (advance t s) .waiting := by rw [h1]; exact List.mem_singleton.mpr rfl
    exact (List.mem_filter.mp ((mem_sortBy _ _ _).mp k)).1
  obtain ⟨d, hd⟩ : ∃ d, findCmd (advance t s) c.ref = some d :=
    Option.isSome_iff_exists.mp (findCmd_isSome.mpr ⟨c, hmem, rfl⟩)
  obtain ⟨k1, k2⟩ := grantTo_parts hd
  refine ⟨_, _, ?_, k1, by rw [k2, advance_sm], rfl, rfl⟩
  show Host.Outcome.next (grantPass (advance t s)) = _
  rw [grantPass_single h1, if_pos ⟨h2, h3⟩]

/-! ### The acceptance point -/

theorem Frame.upd_vol (s : State) (v : Volume) : Frame [.vol] s { s with vol := v } := by
  refine ⟨fun b hb => ?_, List.suffix_refl _⟩
  cases b <;> first | exact absurd (by decide) hb | exact refs_id rfl | rfl

theorem streamCheck_check (s : State) (p : Nat) : Check (streamCheck s p) :=
  .ite (.some (by decide)) (.ite (.some (by decide)) (.ite (.some (by decide)) (.ite (.some (by decide)) .none)))

theorem partOf_openSession (p : Nat) (s : State) :
    partOf (openSession p s) p = { partOf s p with session := some ((partOf s p).session.getD s.vol.nextSess) } := by
  unfold openSession
  extract_lets v y
  have hv : partOf s p = v := rfl
  cases h : v.session with
  | some n => rw [hv, Option.getD_some, ← h]
  | none =>
    show tabGet partNone (tabSet partNone s.vol.parts p _) p = _
    rw [tabGet_tabSet_same]
    rfl

theorem openSession_parts (p : Nat) (s : State) : (∀ q, q ≠ p → partOf (openSession p s) q = partOf s q)
    ∧ (openSession p s).vol.accepted = s.vol.accepted ∧ Frame [.vol] s (openSession p s) := by
  refine ⟨fun q hq => ?_, ?_, openSession_frame p s⟩
  all_goals unfold openSession
  all_goals extract_lets v y
  all_goals split
  · rfl
  · exact partOf_setPart_other _ _ _ hq
  · rfl
  · rfl

/-- The elements of an APPEND: one for each record, of its header, its frames and the room of its tag. -/
theorem elementsOf_sizes (p n seq : Nat) (enc comp : Bool) (f : Fn) (pages : List Nat) (bodies : List (Nat × List Byte)) :
    ∀ b off, (elementsOf p n seq enc comp f pages b off bodies).map (fun e => e.size)
      = bodies.map fun x => 32 + x.2.length + 16 * b2n enc := by
  induction bodies with
  | nil => exact fun _ _ => rfl
  | cons a r ih =>
    intro b off
    obtain ⟨len, body⟩ := a
    unfold elementsOf
    extract_lets h size
    rw [List.map_cons, List.map_cons, ih]

theorem elementsOf_length (p n seq : Nat) (enc comp : Bool) (f : Fn) (pages : List Nat) (b off : Nat)
    (bodies : List (Nat × List Byte)) : (elementsOf p n seq enc comp f pages b off bodies).length = bodies.length := by
  rw [← List.length_map (f := fun e : Element => e.size), elementsOf_sizes, List.length_map]

theorem addElems_parts (p : Nat) (es : List Element) (s : State) :
    partOf (addElems p es s) p = { partOf s p with elems := (partOf s p).elems ++ es, next := (partOf s p).next + es.length }
      ∧ (∀ q, q ≠ p → partOf (addElems p es s) q = partOf s q) ∧ (addElems p es s).vol.accepted = s.vol.accepted :=
  ⟨partOf_setPart .., fun _ hq => partOf_setPart_other _ _ _ hq, rfl⟩


/-- A command that has been set stands, whatever it was before. -/
theorem Stands.of_setCmd {x : State} {c d : InFlight} (h : findCmd x c.ref = some d) (hs : c.stage ≠ .abortOwn) :
    Stands c.ref (eOpcode c.entry) (Machine.setCmd c x) := by
  obtain ⟨e, he, hr⟩ := findCmd_isSome.mp (by rw [h]; rfl)
  refine ⟨⟨c, List.mem_map.mpr ⟨e, he, if_pos hr⟩, rfl⟩, fun k hk hkr => ?_⟩
  obtain ⟨e', -, rfl⟩ := List.mem_map.mp hk
  by_cases q : e'.ref = c.ref
  · rw [if_pos q]; exact ⟨hs, rfl⟩
  · rw [if_neg q] at hkr; exact absurd hkr q

/-- What a state in which an APPEND has been accepted into partition `p` keeps of `s`: it numbers `n` blocks. -/
structure Accepted (p n : Nat) (s u : State) : Prop where
  next : (partOf u p).next = (partOf s p).next + n
  others : ∀ q, q ≠ p → (partOf u q).next = (partOf s q).next
  session : (partOf u p).session = some ((partOf s p).session.getD s.vol.nextSess)
  count : u.vol.accepted = s.vol.accepted + 1

theorem Accepted.kept {p n : Nat} {s x u : State} (h : Accepted p n s x) (k : EndKept x u) : Accepted p n s u := by
  refine ⟨(k.part p).1.trans h.next, fun q hq => (k.part q).1.trans (h.others q hq), (k.part p).2.trans h.session, ?_⟩
  rw [k.vol]
  exact h.count

theorem Accepted.of_vol {p n : Nat} {s x u : State} (h : Accepted p n s x) (k : u.vol = x.vol) : Accepted p n s u := by
  have hp : ∀ q, partOf u q = partOf x q := fun q => by unfold partOf; rw [k]
  exact ⟨by rw [hp, h.next], fun q hq => by rw [hp, h.others q hq], by rw [hp, h.session], by rw [k, h.count]⟩

/-- Elements that join an open session are numbered behind the others. -/
theorem Accepted.of_add (p : Nat) (es : List Element) (s : State) : Accepted p es.length s
    { addElems p es (openSession p s) with
      vol := { (addElems p es (openSession p s)).vol with accepted := (addElems p es (openSession p s)).vol.accepted + 1 } } := by
  obtain ⟨ho, ha, -⟩ := openSession_parts p s
  have hp := partOf_openSession p s
  obtain ⟨h1, h2, h3⟩ := addElems_parts p es (openSession p s)
  generalize addElems p es (openSession p s) = y at h1 h2 h3 ⊢
  have hy : ∀ q, partOf { y with vol := { y.vol with accepted := y.vol.accepted + 1 } } q = partOf y q := fun q => rfl
  refine ⟨by rw [hy, h1, hp], fun q hq => by rw [hy, h2 q hq, ho q hq], by rw [hy, h1, hp], ?_⟩
  show y.vol.accepted + 1 = _
  rw [h3, ha]

/-- The bytes that the records of an APPEND occupy in the stream when they are not encrypted. -/
def streamBytes (s : State) (c : InFlight) : Nat := (c.recs.zipIdx.map fun x => 32 + (framesOf s c.ref x.2).flatten.length).sum

theorem acceptAppend_parts {s : State} {c d : InFlight} (hc : findCmd s c.ref = some d) (hq : c.ref.sq < 8192)
    (hn : (partOf s (ePart c.entry)).next < 2 ^ 64) :
    Accepted (ePart c.entry) c.recs.length s (acceptAppend c s)
      ∧ ((eOpt c.entry).testBit 1 = false → streamBytes s c < 2 ^ 32 →
        Ends s (acceptAppend c s) c.ref 0 (partOf s (ePart c.entry)).next (streamBytes s c)) := by
  unfold acceptAppend
  extract_lets p enc x v pages bodies es total y _ _ _ z w slot recs
  have hlen : es.length = c.recs.length := by unfold es bodies; rw [elementsOf_length]; simp
  have hx : v.next = (partOf s p).next := by unfold v x; rw [partOf_openSession]
  have fx : Frame [.vol] s x := (openSession_parts p s).2.2
  have hz : Accepted p c.recs.length s z := by
    rw [← hlen]
    exact (Accepted.of_add p es s).of_vol rfl
  have hw : Accepted p c.recs.length s w := hz.of_vol rfl
  have fy : Frame [.vol] s y := (addElems_frame p es x).comp fx (by decide)
  have fz : Frame [.eng, .vol, .sm] y z := by
    refine ⟨fun b hb => ?_, List.suffix_refl _⟩
    cases b <;> first | exact absurd (by decide) hb | exact refs_id rfl | rfl
  have fz' : Frame [.hq, .eng, .vol, .sm] s z := fz.comp fy.widen (by decide)
  have fw : Frame [.hq, .eng, .vol, .sm] s w := (setCmd_frame _ z).comp fz' (by decide)
  have ht : (eOpt c.entry).testBit 1 = false → total = streamBytes s c := by
    intro he
    have hb : ∀ n, framesOf x c.ref n = framesOf s c.ref n := fun n => by unfold framesOf; rw [fx.eng_eq]
    unfold total es streamBytes
    rw [elementsOf_sizes]
    unfold bodies enc
    rw [he, List.map_map]
    congr 1
    refine List.map_congr_left fun a _ => ?_
    show 32 + (framesOf x c.ref a.2).flatten.length + 0 = _
    rw [hb, Nat.add_zero]
  have hst : Stands c.ref (eOpcode c.entry) w :=
    Stands.of_setCmd (c := { c with stage := .accepted, first := v.next, count := es.length, bytes := total, recs := [] })
      (x := z) (d := d) ((findCmd_of_hq (by rw [fz.hq_eq, fy.hq_eq]) c.ref).trans hc)
      (show Stage.accepted ≠ Stage.abortOwn by decide)
  clear_value w
  obtain ⟨e, he⟩ := Option.isSome_iff_exists.mp hst.grantPass.isSome
  have hg : EndKept w (grantPass w) := EndKept.grantList _ _
  refine ⟨hw.kept ?_, fun h hb => ?_⟩
  · split
    · have k : EndKept w { w with cy := { w.cy with waiting := w.cy.waiting ++ recs } } :=
        ⟨rfl, fun _ => ⟨rfl, rfl⟩, rfl, rfl, rfl⟩
      exact k.trans (EndKept.grantList _ _)
    · exact hg.trans (EndKept.complete ..)
  · rw [if_neg (by unfold enc; rw [h]; decide), hx, ht h]
    have k := complete_ends he hq (st := 0) (r0 := (partOf s p).next) (r1 := streamBytes s c) false (by decide) hn hb
    exact (k.after (grantPass_frame w)).after fw


theorem execAcceptancePoint_eq {s : State} {c : InFlight} (t : Time) (hf : fetching s = true) (hh : acceptanceHeld s = false)
    (hc : (atStage s .staged).find? (framesDone s) = some c) : exec (.acceptancePoint t) s =
      match streamCheck s (ePart c.entry) with
      | some st => .next (tidy (failCmd c.ref st (advance t s)))
      | none =>
        if appendFits c s then .next (tidy (acceptAppend c (advance t s))) else .next (tidy (failCmd c.ref 0x0207 (advance t s))) := by
  have h1 := read_advance (fun x => !fetching x || acceptanceHeld x) (fun _ _ => rfl) t s
  have h2 := read_advance (fun x => (atStage x .staged).find? (framesDone x)) (fun _ _ => rfl) t s
  have h3 := read_advance (fun x => streamCheck x (ePart c.entry)) (fun _ _ => rfl) t s
  have h4 := read_advance (fun x => appendFits c x) (fun _ _ => rfl) t s
  change execAcceptancePoint t s = _
  unfold execAcceptancePoint
  generalize advance t s = x at h1 h2 h3 h4
  extract_lets
  rw [h1, hf, hh, if_neg (by decide), h2, hc]
  dsimp only
  rw [h3, h4]
  all_goals (cases streamCheck s (ePart c.entry) <;> rfl)

theorem appendFits_next {c : InFlight} {s : State} (h : appendFits c s = true) : (partOf s (ePart c.entry)).next < 2 ^ 64 := by
  unfold appendFits at h
  extract_lets p enc v bodies es at h
  have k := of_decide_eq_true (Bool.and_eq_true_iff.mp h).1
  exact Nat.lt_of_le_of_lt (Nat.le_add_right _ _) (Nat.lt_of_le_of_lt k (by decide))

theorem acceptance_outcomes (t : Time) (s : State) (c : InFlight) (hf : fetching s = true) (hh : acceptanceHeld s = false)
    (hc : (atStage s .staged).find? (framesDone s) = some c) (hcs : findCmd s c.ref = some c) (hq : c.ref.sq < 8192)
    (hop : eOpcode c.entry = 1) :
      (streamCheck s (ePart c.entry) = none → appendFits c s = true →
        ∃ u, exec (.acceptancePoint t) s = .next u
          ∧ (partOf u (ePart c.entry)).next = (partOf s (ePart c.entry)).next + c.recs.length
          ∧ (∀ q, q ≠ ePart c.entry → (partOf u q).next = (partOf s q).next)
          ∧ (partOf u (ePart c.entry)).session = some ((partOf s (ePart c.entry)).session.getD s.vol.nextSess)
          ∧ u.vol.accepted = s.vol.accepted + 1
          ∧ let total := (c.recs.zipIdx.map fun x => 32 + (framesOf s c.ref x.2).flatten.length).sum
            ((eOpt c.entry).testBit 1 = false → total < 2 ^ 32 → Ends s u c.ref 0 (partOf s (ePart c.entry)).next total))
      ∧ (streamCheck s (ePart c.entry) = none → appendFits c s = false →
        ∃ u, exec (.acceptancePoint t) s = .next u ∧ Ends s u c.ref 0x0207 ones64 0)
      ∧ ∀ st, streamCheck s (ePart c.entry) = some st →
        ∃ u, exec (.acceptancePoint t) s = .next u ∧ Ends s u c.ref st ones64 0 := by
  have e := execAcceptancePoint_eq t hf hh hc
  have hstage : c.stage = .staged := by
    have k := List.mem_of_find?_eq_some hc
    simpa using (List.mem_filter.mp ((mem_sortBy _ _ _).mp k)).2
  have f0 := advance_frame t s
  have hv : (advance t s).vol = s.vol := advance_vol t s
  have hb : streamBytes (advance t s) c = streamBytes s c := read_advance (fun x => streamBytes x c) (fun _ _ => rfl) t s
  have hcx : findCmd (advance t s) c.ref = some c := by rw [findCmd_advance, hcs]
  generalize advance t s = x at e f0 hv hb hcx
  have hfail : ∀ st, st < 65536 → Ends s (tidy (failCmd c.ref st x)) c.ref st ones64 0 := fun st h =>
    ((append_fails hcx hop (by rw [hstage]; decide) hq st h).after f0).frame (tidy_frame _)
  refine ⟨fun h1 h2 => ?_, fun h1 h2 => ?_, fun st h1 => ?_⟩
  · rw [h1] at e
    replace e := e.trans (if_pos h2)
    have hp : ∀ q, partOf x q = partOf s q := fun q => by unfold partOf; rw [hv]
    obtain ⟨ha, hends⟩ := acceptAppend_parts hcx hq (by rw [hp]; exact appendFits_next h2)
    obtain ⟨k1, k2, k3, k4⟩ := ha.kept (EndKept.tidy _)
    rw [hb, hp] at hends
    rw [hp] at k1 k3
    rw [hv] at k3 k4
    exact ⟨_, e, k1, fun q hq => (k2 q hq).trans (by rw [hp]), k3, k4, fun he hl => ((hends he hl).after f0).frame (tidy_frame _)⟩
  · rw [h1] at e
    exact ⟨_, e.trans (if_neg (by rw [h2]; decide)), hfail _ (by decide)⟩
  · rw [h1] at e
    exact ⟨_, e, hfail st (streamCheck_check s _ st h1).2⟩

theorem execWriteMark_eq {s : State} {ref : CmdRef} {c : InFlight} (h : Ready s 5 ref c) (t : Time) (hh : acceptanceHeld s = false) :
    exec (.writeMark t ref) s =
      let v := partOf s (ePart c.entry)
      let e := markElement ref.fn (BitVec.ofNat 16 (eField c.entry 24 2)) s.vol.accepted v
      let y := addElems (ePart c.entry) [e] (openSession (ePart c.entry) (advance t s))
      match streamCheck s (ePart c.entry) with
      | some st => .next (tidy (failCmd ref st (advance t s)))
      | none =>
        if 2 ^ 58 ≤ v.next ∨ !fits s (ePart c.entry) { v with elems := v.elems ++ [e], next := v.next + 1 }
        then .next (tidy (failCmd ref 0x0207 (advance t s)))
        else .next (tidy (complete ref 0 v.next 0 false { y with vol := { y.vol with accepted := y.vol.accepted + 1 } })) := by
  have hx := h.advance t
  have h1 := read_advance acceptanceHeld (fun _ _ => rfl) t s
  have h2 := read_advance (fun x => partOf x (ePart c.entry)) (fun _ _ => rfl) t s
  have h3 := read_advance (fun x => streamCheck x (ePart c.entry)) (fun _ _ => rfl) t s
  have h4 := read_advance (fun x => fits x (ePart c.entry)) (fun _ _ => rfl) t s
  have h5 : (advance t s).vol = s.vol := advance_vol t s
  change execWriteMark t ref s = _
  unfold execWriteMark
  generalize advance t s = x at hx h1 h2 h3 h4 h5
  extract_lets
  rw [readyCmd_eq hx]
  dsimp only
  rw [h1, hh, if_neg (by decide), h2, h3, h4, h5]
  all_goals (cases streamCheck s (ePart c.entry) <;> rfl)

theorem writeMark_outcomes (t : Time) (ref : CmdRef) (s : State) (c : InFlight) (hr : Ready s 5 ref c)
    (hh : acceptanceHeld s = false) :
      (∀ st, streamCheck s (ePart c.entry) = some st → ∃ u, exec (.writeMark t ref) s = .next u ∧ Ends s u ref st 0 0)
      ∧ (streamCheck s (ePart c.entry) = none →
        let v := partOf s (ePart c.entry)
        let e := markElement ref.fn (BitVec.ofNat 16 (eField c.entry 24 2)) s.vol.accepted v
        (2 ^ 58 ≤ v.next ∨ fits s (ePart c.entry) { v with elems := v.elems ++ [e], next := v.next + 1 } = false →
          ∃ u, exec (.writeMark t ref) s = .next u ∧ Ends s u ref 0x0207 0 0)
        ∧ (v.next < 2 ^ 58 → fits s (ePart c.entry) { v with elems := v.elems ++ [e], next := v.next + 1 } = true →
          ∃ u, exec (.writeMark t ref) s = .next u ∧ Ends s u ref 0 v.next 0 ∧ (partOf u (ePart c.entry)).next = v.next + 1
            ∧ u.vol.accepted = s.vol.accepted + 1)) := by
  have ex := execWriteMark_eq hr t hh
  have hx := hr.advance t
  have f0 := advance_frame t s
  have hv : (advance t s).vol = s.vol := advance_vol t s
  generalize advance t s = x at ex hx f0 hv
  refine ⟨fun st h => ?_, fun h => ?_⟩
  · dsimp only at ex
    rw [h] at ex
    exact ⟨_, ex, ((hx.fails st (by decide) (streamCheck_check s _ st h).2).after f0).frame (tidy_frame _)⟩
  intro v e
  change exec _ _ = (match streamCheck s (ePart c.entry) with | some st => _ | none => _) at ex
  rw [h] at ex
  refine ⟨fun hb => ?_, fun h1 h2 => ?_⟩
  · refine ⟨_, ex.trans (if_pos ?_), ((hx.fails 0x0207).after f0).frame (tidy_frame _)⟩
    exact hb.imp id fun k => by rw [Bool.not_eq_true']; exact k
  · replace ex := ex.trans (if_neg (fun k => k.elim (Nat.not_le.mpr h1) fun k => by
      rw [Bool.not_eq_true'] at k; exact Bool.false_ne_true (k.symm.trans h2)))
    have ha := Accepted.of_add (ePart c.entry) [e] x
    have fy : Frame [.vol] x (addElems (ePart c.entry) [e] (openSession (ePart c.entry) x)) :=
      (addElems_frame ..).comp (openSession_frame ..) (by decide)
    generalize addElems (ePart c.entry) [e] (openSession (ePart c.entry) x) = y at ex ha fy
    have fz : Frame [.vol] x { y with vol := { y.vol with accepted := y.vol.accepted + 1 } } := (Frame.upd_vol y _).comp fy (by decide)
    generalize ({ y with vol := { y.vol with accepted := y.vol.accepted + 1 } } : State) = z at ex ha fz
    have hxv : (partOf x (ePart c.entry)).next = v.next := by unfold v partOf; rw [hv]
    obtain ⟨k1, -, -, k4⟩ := (ha.kept (EndKept.complete ref 0 v.next 0 false z)).kept (EndKept.tidy _)
    refine ⟨_, ex, ?_, by rw [k1, hxv]; rfl, by rw [k4, hv]⟩
    exact ((hx.ends fz (by rw [fz.hq_eq]) 0 v.next 0 (by decide) (Nat.lt_trans h1 (by decide))).after f0).frame (tidy_frame _)

/-- Settles O29: the acceptance point numbers the records of an APPEND, and WRITE_MARK its mark. -/
theorem acceptanceAndMarks : Obligations.AcceptanceAndMarks := by
  unfold Obligations.AcceptanceAndMarks
  exact ⟨acceptance_outcomes, writeMark_outcomes⟩

/-! ### ERASE -/

theorem refs_setCmd (c : InFlight) (s : State) : refs (setCmd c s) = refs s := by
  unfold refs setCmd
  rw [List.map_map]
  refine List.map_congr_left fun d _ => ?_
  show (if d.ref = c.ref then c else d).ref = d.ref
  split
  · rename_i k; exact k.symm
  · rfl

theorem refs_grantTo (c : InFlight) (s : State) : refs (grantTo c s) = refs s := by
  unfold grantTo
  extract_lets g _ x
  have hx : refs x = refs s := refs_setCmd _ _
  have h1 := trimCache_frame x.rdr.cache.length x
  have h2 := startRuns_frame c (trimCache x.rdr.cache.length x)
  rw [← hx]
  unfold refs
  rw [h2.hq_eq, h1.hq_eq]

/-- A grant pass changes no command's reference. -/
theorem refs_grantPass (s : State) : refs (grantPass s) = refs s := by
  unfold grantPass
  generalize atStage s .waiting = l
  induction l generalizing s with
  | nil => rfl
  | cons c r ih =>
    unfold grantList
    split
    · exact ih s
    · split
      · rw [ih, refs_grantTo]
      · rfl

theorem refs_giveUp (s : State) : refs (giveUp s) = refs s := by
  unfold giveUp
  rw [refs_grantPass]
  unfold refs
  dsimp only
  rw [List.map_map]
  refine List.map_congr_left fun d _ => ?_
  show (if d.stage = .accepted then { d with count := 0 } else d).ref = d.ref
  split <;> rfl

theorem findCmd_of_refs {s u : State} (h : refs u = refs s) {r : CmdRef} {c : InFlight} (hc : findCmd s r = some c) :
    ∃ d, findCmd u r = some d := by
  have hm : r ∈ refs u := by
    rw [h, ← findCmd_ref hc]
    exact List.mem_map_of_mem (List.mem_of_find?_eq_some hc)
  obtain ⟨d, hd, hr⟩ := List.mem_map.mp hm
  exact Option.isSome_iff_exists.mp (findCmd_isSome.mpr ⟨d, hd, hr⟩)

theorem finishSession_next (p n k : Nat) (w : Part) : (finishSession p n k w).2.next = w.next := by
  have h1 : (closeSpan p n w).2.next = w.next := by unfold closeSpan; split <;> rfl
  exact (show (eodSet p n k (closeSpan p n w).2).2.next = (closeSpan p n w).2.next from rfl).trans h1

/-- What a truncation leaves ends at its block. -/
theorem truncPlan_next {s : State} {p b : Nat} {sets : List DataSet} {v : Part} (h : truncPlan s p b = .inr (sets, v)) : v.next = b := by
  unfold truncPlan at h
  extract_lets v₀ trim at h
  split at h
  · rw [← (Prod.mk.inj (Sum.inr.inj h)).2]
    exact finishSession_next _ _ (spanParity s) _
  · split at h
    · exact absurd h Sum.inl_ne_inr
    · extract_lets dir whole before missing at h
      clear_value missing
      cases missing with
      | some n => exact absurd h Sum.inl_ne_inr
      | none =>
        rw [← (Prod.mk.inj (Sum.inr.inj h)).2]
        exact finishSession_next _ _ (spanParity s) _

theorem tabGet_map {α : Type} (d : α) (f : α → α) (l : List (Nat × α)) (i : Nat) :
    tabGet d (l.map fun x => (x.1, f x.2)) i = tabGet d l i ∨ tabGet d (l.map fun x => (x.1, f x.2)) i = f (tabGet d l i) := by
  induction l with
  | nil => exact .inl rfl
  | cons a r ih =>
    simp only [List.map_cons, tabGet]
    split
    · exact .inr rfl
    · exact ih

theorem beginFlush_session (r : CmdRef) (s : State) (p : Nat) : (partOf (beginFlush r s) p).session = (partOf s p).session := by
  unfold beginFlush partOf
  extract_lets point parts
  dsimp only
  have h := tabGet_map partNone (fun v => if (unpacked v).any (fun e => decide (e.seq < point)) then
    { v with closes := v.closes ++ [{ seq := point, code := 1, session := 0 }] } else v) s.vol.parts p
  rcases h with h | h
  · exact congrArg Part.session h
  · refine (congrArg Part.session h).trans ?_
    split <;> rfl

theorem endSession_parts (p : Nat) (s : State) : (partOf (endSession p s) p).session = none
    ∧ (endSession p s).vol.accepted = s.vol.accepted ∧ Frame [.vol] s (endSession p s) := by
  refine ⟨?_, ?_, endSession_frame p s⟩
  all_goals unfold endSession
  all_goals extract_lets v
  all_goals split
  · assumption
  · rw [partOf_setPart]
  · rfl
  · rfl

/-- The steps of a truncating ERASE. -/
theorem execEraseTruncate_eq {s : State} {ref : CmdRef} {c : InFlight} (hc : findCmd s ref = some c) (hop : eOpcode c.entry = 0x23)
    (hk : eOpt c.entry % 4 = 0) (t : Time) : exec (.eraseTruncate t ref) s =
      let x := advance t s
      let p := ePart c.entry
      let b := eBlock c.entry
      if c.stage = .running then
        if s.wr.part.isSome || !s.wr.images.isEmpty || s.wr.again.any (fun x => x.2.part == p) then .next x
        else .next (tapeRest (tidy (completeFlush ref b 0 x)))
      else if c.stage ≠ .chosen then .next x
      else if (partOf s p).next < b then .next (tapeRest (tidy (failCmd ref 0x0202 x)))
      else if c.count = 0 then .next (beginFlush ref (endSession p (setCmd { c with count := 1 } x)))
      else match s.hq.flushes.find? fun w => w.ref == ref with
        | none => .next x
        | some w =>
          if offTape s w.point || s.wr.part.isSome then .next x
          else if (partOf s p).next = b then .next (tapeRest (tidy (completeFlush ref b 0 x)))
          else match truncPlan s p b with
            | .inl _ => .next (setMode .read x)
            | .inr (sets, v) =>
              let y := setPart p v (setCmd { c with stage := .running } x)
              .next { y with
                wr := { y.wr with images := sets }
                rdr := { y.rdr with cache := y.rdr.cache.filter fun z =>
                  !(z.part == p && decide ((sets.headD (bareSet 0 0 0 0 0 0 0 [] [])).dsn ≤ z.dsn)) } } := by
  have h1 := read_advance (fun x => findCmd x ref) (fun _ _ => rfl) t s
  have h2 := read_advance (fun x => partOf x (ePart c.entry)) (fun _ _ => rfl) t s
  have h3 := read_advance (fun x => truncPlan x (ePart c.entry) (eBlock c.entry)) (fun _ _ => rfl) t s
  have h4 := read_advance offTape (fun _ _ => rfl) t s
  have h5 := advance_wr t s
  have h6 := advance_hq t s
  change execEraseTruncate t ref s = _
  unfold execEraseTruncate
  generalize advance t s = x at h1 h2 h3 h4 h5 h6
  extract_lets
  rw [h1, hc]
  dsimp only
  rw [hop, hk, if_neg (by decide), h2, h3, h4, h5, h6]
  all_goals rfl


/-- A flush with nothing to report completes its command as it stands. -/
theorem completeFlush_clean {x : State} {ref : CmdRef} {c : InFlight} (hc : findCmd x ref = some c)
    (hw : ∀ w, w ∈ x.hq.flushes → w.ref = ref → w.losses = []) (hl : ∀ l, l ∈ x.hq.lost → l.fn ≠ ref.fn) (r0 r1 : Nat) :
    completeFlush ref r0 r1 x = complete ref 0 r0 r1 false x := by
  have hold : (x.hq.lost.filter fun l => l.fn == ref.fn) = [] := by
    rw [List.filter_eq_nil_iff]
    exact fun l h => by simpa using hl l h
  have hown : ((x.hq.flushes.find? fun w => w.ref == ref).map fun w => w.losses).getD [] = [] := by
    cases h : x.hq.flushes.find? fun w => w.ref == ref with
    | none => rfl
    | some w => exact hw w (List.mem_of_find?_eq_some h) (by simpa using List.find?_some h)
  unfold completeFlush
  rw [hc]
  dsimp only
  rw [hown, hold]
  rfl

theorem eraseTruncate_outcomes (t : Time) (ref : CmdRef) (s : State) (c : InFlight) (hc : findCmd s ref = some c)
    (hop : eOpcode c.entry = 0x23) (hk : eOpt c.entry % 4 = 0) (hq : ref.sq < 8192) :
      (c.stage = .chosen → (partOf s (ePart c.entry)).next < eBlock c.entry →
        ∃ u, exec (.eraseTruncate t ref) s = .next u ∧ Ends s u ref 0x0202 0 0)
      ∧ (c.stage = .chosen → eBlock c.entry ≤ (partOf s (ePart c.entry)).next → c.count = 0 →
        ∃ u, exec (.eraseTruncate t ref) s = .next u ∧ findCmd u ref = some { c with count := 1 }
          ∧ u.hq.flushes = s.hq.flushes ++ [{ ref := ref, point := s.vol.accepted, losses := [] }]
          ∧ (partOf u (ePart c.entry)).session = none)
      ∧ (c.stage = .chosen → eBlock c.entry < (partOf s (ePart c.entry)).next → c.count ≠ 0 →
        ∀ w sets v, (s.hq.flushes.find? fun x => x.ref == ref) = some w → offTape s w.point = false → s.wr.part = none →
        truncPlan s (ePart c.entry) (eBlock c.entry) = .inr (sets, v) →
        ∃ u, exec (.eraseTruncate t ref) s = .next u ∧ findCmd u ref = some { c with stage := .running } ∧ u.wr.images = sets
          ∧ (partOf u (ePart c.entry)).next = eBlock c.entry)
      ∧ (c.stage = .running → s.wr.part = none → s.wr.images = [] → s.wr.again = [] →
        (∀ w, w ∈ s.hq.flushes → w.ref = ref → w.losses = []) → (∀ l, l ∈ s.hq.lost → l.fn ≠ ref.fn) →
        ∃ u, exec (.eraseTruncate t ref) s = .next u ∧ Ends s u ref 0 (eBlock c.entry) 0) := by
  have e := execEraseTruncate_eq hc hop hk t
  obtain rfl := findCmd_ref hc
  dsimp only at e
  have f0 := advance_frame t s
  have hxq : (advance t s).hq = s.hq := advance_hq t s
  have hxv : (advance t s).vol = s.vol := advance_vol t s
  have hcx : findCmd (advance t s) c.ref = some c := by rw [findCmd_advance, hc]
  generalize advance t s = x at e f0 hxq hxv hcx
  have chosen : c.stage = .chosen → ¬c.stage = .running := fun h k => by rw [h] at k; cases k
  refine ⟨fun h1 h2 => ?_, fun h1 h2 h3 => ?_, fun h1 h2 h3 w sets v hw ho hp hpl => ?_, fun h1 h2 h3 h4 hw hl => ?_⟩
  · rw [if_neg (chosen h1), if_neg (not_not_intro h1), if_pos h2] at e
    exact ⟨_, e, (chosen_fails f0 hcx (by rw [hop]; decide) hq 0x0202).1⟩
  · rw [if_neg (chosen h1), if_neg (not_not_intro h1), if_neg (Nat.not_lt.mpr h2), if_pos h3] at e
    have k := findCmd_setCmd_same (c := { c with count := 1 }) (s := x) (d := c) hcx
    have hyq : (setCmd { c with count := 1 } x).hq.flushes = s.hq.flushes := by rw [← hxq]; rfl
    have hyv : (setCmd { c with count := 1 } x).vol = s.vol := hxv
    generalize setCmd { c with count := 1 } x = y at e k hyq hyv
    obtain ⟨g1, g2, g3⟩ := endSession_parts (ePart c.entry) y
    generalize endSession (ePart c.entry) y = z at e g1 g2 g3
    refine ⟨_, e, (findCmd_of_hq (s := y) (by show z.hq.inflight = _; rw [g3.hq_eq]) _).trans k, ?_, ?_⟩
    · show z.hq.flushes ++ [_] = _
      rw [g2, g3.hq_eq, hyq, hyv]
    · rw [beginFlush_session, g1]
  · rw [if_neg (chosen h1), if_neg (not_not_intro h1), if_neg (by omega), if_neg h3, hw] at e
    dsimp only at e
    rw [ho, hp, if_neg (by decide), if_neg (by omega), hpl] at e
    dsimp only at e
    have k := findCmd_setCmd_same (c := { c with stage := .running }) (s := x) (d := c) hcx
    generalize setCmd { c with stage := .running } x = y at e k
    refine ⟨_, e, (findCmd_of_hq (s := y) rfl _).trans k, rfl, ?_⟩
    rw [← truncPlan_next hpl]
    exact congrArg Part.next (partOf_setPart (ePart c.entry) v y)
  · rw [if_pos h1, h2, h3, h4, if_neg (by simp), completeFlush_clean hcx (by rw [hxq]; exact hw) (by rw [hxq]; exact hl)] at e
    exact ⟨_, e, ends_rest ((complete_ends hcx hq false (by decide) (eField_lt c.entry 24 8) (by decide)).after f0)⟩

/-! ### Long and sanitising ERASE -/

/-- The first step of a chosen ERASE of the whole volume. -/
def eraseBegun (sanitise : Bool) (c : InFlight) (s : State) : State :=
  setMode .erase (emit (.erased sanitise) (giveUp (endSessions (setCmd { c with stage := .running } s))))

theorem eraseWhole_begun {kind : Nat} {sanitise : Bool} {ref : CmdRef} {x : State} {c : InFlight} (hc : findCmd x ref = some c)
    (hop : eOpcode c.entry = 0x23) (hk : eOpt c.entry % 4 = kind) (hs : c.stage = .chosen) (hr : readersBefore x c.order = false) :
    (eraseWhole kind sanitise ref false false x).gl.cur = .erase
      ∧ Sent x (eraseWhole kind sanitise ref false false x) (.erased sanitise) := by
  have e : eraseWhole kind sanitise ref false false x = eraseBegun sanitise c x := by
    unfold eraseWhole
    rw [hc]
    dsimp only
    rw [if_neg (by omega), hs, hr]
    show (match findCmd (eraseBegun sanitise c x) ref with | none => _ | some c => _) = _
    cases findCmd (eraseBegun sanitise c x) ref with
    | none => rfl
    | some d => exact if_neg (by rw [Bool.and_false]; decide)
  rw [e]
  refine ⟨setMode_cur _ _, ?_⟩
  unfold eraseBegun
  have f1 := setCmd_frame { c with stage := .running } x
  generalize setCmd { c with stage := .running } x = y at f1
  exact ((((Sent.emit _ _).after (giveUp_frame _)).after (endSessions_frame y)).after f1).frame (setMode_frame _ _)

theorem blankVolume_vol (s : State) : (blankVolume s).vol.count = 0 ∧ (blankVolume s).vol.gen = 1
    ∧ (blankVolume s).vol.serial = s.vol.serial := by
  have h := (giveUp_frame s).vol_eq
  unfold blankVolume writeHousekeeping
  refine ⟨rfl, rfl, ?_⟩
  show (giveUp s).vol.serial = _
  rw [h]

theorem refs_blankVolume (s : State) : refs (blankVolume s) = refs s :=
  (show refs (blankVolume s) = refs (giveUp s) from rfl).trans (refs_giveUp s)

theorem eraseWhole_done {kind : Nat} {sanitise : Bool} {ref : CmdRef} {s x : State} {l : List Region} {c : InFlight}
    (f : Frame l s x) (hv : x.vol = s.vol) (hc : findCmd x ref = some c)
    (hop : eOpcode c.entry = 0x23) (hk : eOpt c.entry % 4 = kind) (hs : c.stage = .running) (hq : ref.sq < 8192) (bad : Bool) :
    let u := eraseWhole kind sanitise ref true bad x
    Ends s u ref (if bad then 0x0205 else 0) 0 0 ∧ u.vol.count = 0 ∧ u.vol.gen = 1 ∧ u.vol.serial = s.vol.serial := by
  intro u
  have e : u = tapeRest (tidy (complete ref (if bad then 0x0205 else 0) 0 0 false (blankVolume x))) := by
    unfold u eraseWhole
    rw [hc]
    dsimp only
    rw [if_neg (by omega), hs]
    rw [if_neg (by simp), hc]
    dsimp only
    rw [hs, if_pos (by decide)]
  clear_value u
  rw [e]
  obtain ⟨d, hd⟩ := findCmd_of_refs (refs_blankVolume x) hc
  obtain ⟨h1, h2, h3⟩ := blankVolume_vol x
  have fb := blankVolume_frame x
  generalize blankVolume x = y at hd h1 h2 h3 fb
  have k := ((EndKept.complete ref (if bad then 0x0205 else 0) 0 0 false y).trans (endKept_rest _)).vol
  refine ⟨ends_rest (((complete_ends hd hq false (by cases bad <;> decide) (by decide) (by decide)).after fb).after f), ?_, ?_, ?_⟩
  · rw [k]; exact h1
  · rw [k]; exact h2
  · rw [k]; exact h3.trans (by rw [hv])

/-- Settles O27: the steps of a truncating ERASE, and the begin and end of one of the whole volume. -/
theorem eraseCommands : Obligations.EraseCommands := by
  unfold Obligations.EraseCommands
  refine ⟨eraseTruncate_outcomes, fun t ref s c hc hop hq => ?_⟩
  have f0 := advance_frame t s
  have hcx : findCmd (advance t s) ref = some c := by rw [findCmd_advance, hc]
  have hv : (advance t s).vol = s.vol := advance_vol t s
  have hr : readersBefore (advance t s) c.order = readersBefore s c.order := by unfold readersBefore; rw [advance_hq]
  have e1 : ∀ b, exec (.eraseLong t ref b) s = .next (eraseWhole 1 false ref b false (advance t s)) := fun _ => rfl
  have e2 : ∀ b bad, exec (.eraseSanitise t ref b bad) s = .next (eraseWhole 2 true ref b bad (advance t s)) := fun _ _ => rfl
  generalize advance t s = x at f0 hcx hv hr e1 e2
  refine ⟨fun h1 h2 => ⟨fun hk => ?_, fun hk => ?_⟩, fun h1 => ⟨fun hk => ?_, fun hk bad => ?_⟩⟩
  · obtain ⟨k1, k2⟩ := eraseWhole_begun (sanitise := false) hcx hop hk h1 (hr.trans h2)
    exact ⟨_, e1 false, k1, k2.after f0⟩
  · obtain ⟨k1, k2⟩ := eraseWhole_begun (sanitise := true) hcx hop hk h1 (hr.trans h2)
    exact ⟨_, e2 false false, k1, k2.after f0⟩
  · exact ⟨_, e1 true, eraseWhole_done f0 hv hcx hop hk h1 hq false⟩
  · exact ⟨_, e2 true bad, eraseWhole_done f0 hv hcx hop hk h1 hq bad⟩

end Sys2Proof.Machine
end

section
/-!
The tape queue (O32)
-/

namespace Sys2Proof.Machine
set_option Elab.async false

/-! ### The tape queue

A path that begins forgets from where on the tape was found blank (`pathBegins`), and a data set that is read by its span
has its place at the span's next member that is not blank (`spanMissing`). So the head may be at the place of a command
before its path begins, and away from it afterwards; the model looks afterwards. -/

/-- The directory of data set 1, the second of a span of two data data sets and one parity data set. -/
def spanDirectory : List Byte :=
  directoryBytes { kind := 0, part := 0, spanP := 1, close := 0, dsn := 1, spanAt := 0, session := 0, stream := 0, cont := 0, entries := 0,
                   first := 5, next := 10 } []

/-- A data set of five blocks on tape. -/
def spanMember (dsn kind at_ first : Nat) : Placed :=
  { dsn := dsn, at_ := at_, kind := kind, session := 0, first := first, next := first + 5, contLen := 0 }

/-- A partition with one span: two data data sets at the head, and the parity data set far away. -/
def spanPart : Part :=
  { partNone with next := 10, placed := [spanMember 0 0 0 0, spanMember 1 0 1000 5, spanMember 2 1 1000000000000 10] }

/-- A READ of block 0, queued for the tape. -/
def readQueued : InFlight :=
  { ref := { fn := 0, sq := 0, tag := 0 }, slot := 0, entry := 2, order := 0, tb := 0, stage := .queued, first := 0, count := 0,
    bytes := 0, recs := [], segs := [], body := none, busy := false, stop := none, mark := 0 }

/-- The head is at data set 0, whose span is being read: data set 1 is in the cache, and the tape was found blank from the
head on. -/
def spanRead : State :=
  { State.reset with
    gl := { Global.reset with cur := .idle }
    crew := { State.reset.crew with dies := (List.range 4).map fun d => (d, { st := .running, latch := none }) }
    hq := { Hq.reset with inflight := [readQueued] }
    vol := { Volume.reset with loaded := true, count := 1, parts := [(0, spanPart)] }
    rdr := { Reader.reset with
      blankAt := some 0
      gathers := [{ part := 0, dsn := 0, kind := 0, cws := [], reread := 0, seen := false, span := true }]
      cache := [{ part := 0, dsn := 1, kind := 0, payload := spanDirectory.map some, used := 0, given := false }] } }

/-- The same READ once it is chosen. -/
def readChosen : InFlight := { readQueued with stage := .chosen, mark := spanRead.tb }

theorem spanRead_waits : (fetching spanRead = true ∧ spanRead.gl.cur ≠ .hold ∧ tapeTaken spanRead = false ∧ spanRead.gl.moving = false)
    ∧ pickTape spanRead = some readQueued ∧ serviceLasts spanRead = false ∧ spanRead.wr.part = none ∧ anySession spanRead = false
    ∧ writeDue spanRead = false ∧ diesRun spanRead = true := by
  decide +kernel

theorem readQueued_work : eOpcode readQueued.entry ≠ 8 ∧ workMode readQueued = .read := by decide +kernel

theorem spanRead_atWork : atWork spanRead readQueued = true := by decide +kernel

theorem spanRead_leaves : atWork (pathBegins (setCmd readChosen spanRead)) readQueued = false := by decide +kernel


/-- The READ is chosen, its path begins, and the head is not at its place any more: the device goes to LOCATE. -/
theorem spanRead_chosen : exec (.tapeCommandChoose 0) spanRead = .next (goToWork readQueued (setCmd readChosen spanRead)) := by
  obtain ⟨⟨h1, h2, h3, h4⟩, h5, h6, h7, h8, h9, h10⟩ := spanRead_waits
  have h0 : advance 0 spanRead = spanRead := rfl
  change execTapeCommandChoose 0 spanRead = _
  unfold execTapeCommandChoose
  rw [h0]
  extract_lets x
  have hx : x = spanRead := rfl
  clear_value x
  subst hx
  rw [h1, h3, h4, if_neg (by simp [h2]), h5]
  dsimp only
  rw [h6, h7, h8, h9, h10]
  rw [if_neg (by simp), if_neg (by simp), if_neg (by simp), if_neg (by simp), if_neg (by simp)]
  all_goals rfl

theorem goToWork_away {c : InFlight} {s : State} (h8 : eOpcode c.entry ≠ 8) (h : atWork (pathBegins s) c = false) :
    (goToWork c s).gl.cur = .locate := by
  unfold goToWork
  extract_lets x y
  rw [if_neg h8, if_neg (by rw [h]; decide)]
  exact setMode_cur ..

/-- Refutes O32: whether the head is at the place of a chosen command is looked at after its path has begun, which may move
that place. -/
theorem not_tapeQueue : ¬ Obligations.TapeQueue := by
  unfold Obligations.TapeQueue
  rintro ⟨h, -⟩
  obtain ⟨⟨h1, h2, h3, h4⟩, h5, h6, h7, h8, h9, h10⟩ := spanRead_waits
  obtain ⟨u, hu, -, hwork, -⟩ := h 0 spanRead readQueued h1 h2 h3 (fun _ => h4) h5 h6 h7 h8 h9 h10
  have hmode := hwork readQueued_work.1 spanRead_atWork
  rw [spanRead_chosen] at hu
  rw [← Host.Outcome.next.inj hu, goToWork_away (c := readQueued) readQueued_work.1 spanRead_leaves, readQueued_work.2] at hmode
  cases hmode

end Sys2Proof.Machine
end

section
/-!
CALIBRATE and SERVICE (O36)
-/

namespace Sys2Proof.Machine
set_option Elab.async false

/-! ## CALIBRATE and SERVICE (O36) -/

theorem setUnitState_st_same (i : Nat) (st : CrewSt) (cause : Nat) (s : State) :
    (crewOf (setUnitState i st cause s) i).st = st := by
  unfold setUnitState; rw [setUnitsState_st]; simp

/-- A mode change touches the gate delay of the crew alone. -/
theorem setMode_roster (m : Mode) (s : State) : (setMode m s).crew.roster = s.crew.roster := by
  unfold setMode
  split
  · rfl
  · rw [(senseFast_frame _ _).crew_eq, (pulseInternal_frame _ _).crew_eq, (modeLoops_frame _ _).crew_eq,
      (stopCustom_frame _ _).crew_eq]

theorem tapeRest_roster (s : State) : (tapeRest s).crew.roster = s.crew.roster := by
  unfold tapeRest
  extract_lets busy work telltale
  split
  · rfl
  · split
    · exact setMode_roster _ _
    · rfl

theorem rest_crewOf (s : State) (i : Nat) : crewOf (tapeRest (tidy s)) i = crewOf s i :=
  crewOf_congr (by rw [tapeRest_roster, (tidy_frame s).crew_eq]) i

/-- A mask built bit by bit is at most the mask of all bits. -/
theorem foldl_pow_filter_le (p : Nat → Bool) (l : List Nat) {a b : Nat} (h : a ≤ b) :
    (l.filter p).foldl (fun a k => a + 2 ^ k) a ≤ l.foldl (fun a k => a + 2 ^ k) b := by
  induction l generalizing a b with
  | nil => exact h
  | cons k r ih =>
    rw [List.filter_cons]
    split
    · exact ih (Nat.add_le_add_right h _)
    · exact ih (Nat.le_add_right_of_le h)

theorem calPassed_le (c : InFlight) (s : State) (out : CalOutcome) (failed : Nat) : calPassed c s out failed ≤ 127 :=
  foldl_pow_filter_le _ (List.range 7) (Nat.le_refl 0)

/-- Of a mask of READMIT alone, READMIT passed. -/
theorem calPassed_readmit {c : InFlight} (h : calMask c = 64) (s : State) (out : CalOutcome) : calPassed c s out 0 = 64 := by
  have e : ∀ k, calRuns c s k = (Nat.testBit 64 k && (s.gl.cart || k == 2 || k == 6)) := fun k => by unfold calRuns; rw [h]
  unfold calPassed
  simp [e, List.range_succ, List.filter_cons, Nat.testBit, Nat.shiftRight_eq_div_pow]

/-- What the end of a tape command that reports its results leaves. -/
theorem complete_rest {l : List Region} {s x : State} {c : InFlight} {ref : CmdRef} (f : Frame l s x) (hl : l.contains .hq = false)
    (hc : findCmd s ref = some c) (hq : ref.sq < 8192) (st : Nat) {r0 r1 : Nat} (hs : st < 65536) (h0 : r0 < 2 ^ 64)
    (h1 : r1 < 2 ^ 32) :
    let u := tapeRest (tidy (complete ref st r0 r1 false x))
    Ends s u ref st r0 r1 ∧ (∀ i, crewOf u i = crewOf x i) ∧ u.se = x.se ∧ u.tt = x.tt := by
  have hf : findCmd x ref = some c := by
    rw [← hc]; exact findCmd_of_hq (by rw [show x.hq = s.hq from f.same .hq (not_mem_of_contains hl)]) _
  refine ⟨ends_rest ((complete_ends hf hq false hs h0 h1).after f), fun i => ?_, ?_, ?_⟩
  · rw [rest_crewOf]; exact crewOf_congr (by rw [(complete_frame _ _ _ _ _ _).crew_eq]) i
  · rw [(tapeRest_frame _).se_eq, (tidy_frame _).se_eq, (complete_frame _ _ _ _ _ _).se_eq]
  · rw [(tapeRest_frame _).tt_eq, (tidy_frame _).tt_eq, (complete_frame _ _ _ _ _ _).tt_eq]

/-- CALIBRATE of a command that runs in CALIBRATE. -/
theorem execCalibrate_eq {s : State} {ref : CmdRef} {c : InFlight} (hc : findCmd s ref = some c) (hop : eOpcode c.entry = 0x24)
    (hst : c.stage = .chosen) (hcur : s.gl.cur = .calibrate) (t : Time) (segs : List SgSeg) (units : List (BitVec 16))
    (out : CalOutcome) :
    exec (.calibrate t ref segs units out) s =
      if eField c.entry 30 2 ≠ 0 ∧ (dataIs c segs (2 * eField c.entry 30 2)).isNone
          ∨ ((units.take (eField c.entry 30 2)).map fun u => u.toNat).length < eField c.entry 30 2
          ∨ !listOk (advance t s) ((units.take (eField c.entry 30 2)).map fun u => u.toNat) then
        .next (tapeRest (tidy (failCmd ref 0x0002 (advance t s))))
      else if !s.gl.cart ∧ calMask c ≠ 0 ∧ calMask c &&& 0x44 = 0 then
        .next (tapeRest (tidy (failCmd ref 0x0007 (advance t s))))
      else .next (calRun c ((units.take (eField c.entry 30 2)).map fun u => u.toNat) out (advance t s)) := by
  change execCalibrate t ref segs units out s = _
  unfold execCalibrate
  extract_lets x
  rw [show findCmd x ref = some c from (findCmd_advance t s ref).trans hc]
  dsimp only
  rw [show x.gl = s.gl from advance_gl t s, if_neg (by simp [hop, hst, hcur])]

theorem serviceCmd_parts {op : Nat} {r : CmdRef} {s : State} {c : InFlight} (h : serviceCmd op r s = some c) :
    findCmd s r = some c ∧ eOpcode c.entry = 0x25 ∧ c.stage = .chosen ∧ s.gl.cur = .service := by
  unfold serviceCmd at h
  cases hc : findCmd s r with
  | none => rw [hc] at h; cases h
  | some d =>
    rw [hc] at h
    dsimp only at h
    split at h
    · obtain rfl := Option.some.inj h
      rename_i k
      exact ⟨rfl, k.1, k.2.2.1, k.2.2.2⟩
    · cases h

theorem serviceCmd_advance (op : Nat) (r : CmdRef) (t : Time) (s : State) : serviceCmd op r (advance t s) = serviceCmd op r s :=
  read_advance (serviceCmd op r) (fun _ _ => rfl) t s

/-- SERVICE BENCH of a command that runs in SERVICE. -/
theorem execBench_eq {s : State} {ref : CmdRef} {c : InFlight} (h : serviceCmd 3 ref s = some c) (t : Time) :
    exec (.bench t ref) s =
      if dieBusy s (eField c.entry 24 2) then .next (serviceEnds ref 8 0 (advance t s))
      else if eField c.entry 24 2 < 1024 ∧ !spareLeft s (eField c.entry 24 2 / 128) then .next (serviceEnds ref 2 0 (advance t s))
      else if (crewOf s (eField c.entry 24 2)).st = .benched then .next (serviceEnds ref 0 0 (advance t s))
      else .next (serviceEnds ref 0 0 (benchUnit (eField c.entry 24 2) 7 (advance t s))) := by
  change execBench t ref s = _
  unfold execBench
  extract_lets x
  rw [show serviceCmd 3 ref x = some c from (serviceCmd_advance 3 ref t s).trans h]
  dsimp only
  rw [show dieBusy x = dieBusy s from read_advance dieBusy (fun _ _ => rfl) t s,
    show spareLeft x = spareLeft s from read_advance spareLeft (fun _ _ => rfl) t s,
    show crewOf x = crewOf s from read_advance crewOf (fun _ _ => rfl) t s]

/-- SERVICE SELF_TEST of a command that runs in SERVICE. -/
theorem execSelfTest_eq {s : State} {ref : CmdRef} {c : InFlight} (h : serviceCmd 4 ref s = some c) (t : Time) (code : DWord) :
    exec (.selfTest t ref code) s =
      if dieBusy s (eField c.entry 24 2) then .next (serviceEnds ref 8 0 (advance t s))
      else if (crewOf s (eField c.entry 24 2)).st ≠ .benched ∧ (crewOf s (eField c.entry 24 2)).st ≠ .spare then
        .next (serviceEnds ref 2 0 (advance t s))
      else .next (serviceEnds ref 0 code.toNat (advance t s)) := by
  change execSelfTest t ref code s = _
  unfold execSelfTest
  extract_lets x
  rw [show serviceCmd 4 ref x = some c from (serviceCmd_advance 4 ref t s).trans h]
  dsimp only
  rw [show dieBusy x = dieBusy s from read_advance dieBusy (fun _ _ => rfl) t s,
    show crewOf x = crewOf s from read_advance crewOf (fun _ _ => rfl) t s]

theorem dieBusy_unit {s : State} {i : Nat} (h : i < 1220) : dieBusy s i = false := by
  unfold dieBusy; rw [decide_eq_false (by omega), Bool.false_and]

/-- An engine, decode engine or pair that is benched is BENCHED. -/
theorem benchUnit_st {i : Nat} (h : 1024 ≤ i) (k : i < 1188) (cause : Nat) (s : State) :
    (crewOf (benchUnit i cause s) i).st = .benched := by
  unfold benchUnit
  rw [if_neg (by omega)]
  split
  · rw [crewOf_congr (s := setUnitState i .benched cause s) (by rw [(frameBack_frame _ _).crew_eq])]; exact setUnitState_st_same _ _ _ _
  · rw [if_neg (by omega), if_neg (by omega)]; exact setUnitState_st_same _ _ _ _

/-- The Telltale keeps the device in SERVICE. -/
theorem tapeRest_service {s : State} (h : s.tt.unit.st ≠ .stopped) (hc : s.gl.cur = .service) : tapeRest s = s := by
  unfold tapeRest
  extract_lets busy work telltale
  rw [if_pos (by simp [telltale, h, hc])]

/-- A generator as TELLTALE_START starts it (R308). -/
def genStarted (v : Gen) : Gen :=
  { v with phase := 0, freqNow := v.freq, lfsr := BitVec.ofNat 31 v.seed.toNat, held := 0, done := false }

/-- The four generators start from their registers. -/
def gensStarted (s : State) : State := forEach (List.range 4) (fun g s => setGen g (genStarted (genOf s g)) s) s

/-- The generators started, the Telltale RUNNING. -/
def telltaleStarted (s : State) : State :=
  { gensStarted s with tt := { (gensStarted s).tt with unit := unitDone (unitEnable (gensStarted s).tt.unit), left := [] } }

theorem gensStarted_frame (s : State) : Frame [.tt] s (gensStarted s) :=
  Frame.forEach _ _ (fun _ _ h => (setGen_frame _ _ _).comp h (by decide)) (Frame.refl _ _)

theorem gensStarted_gen (s : State) {g : Nat} (h : g < 4) : genOf (gensStarted s) g = genStarted (genOf s g) := by
  unfold gensStarted
  simp only [show List.range 4 = [0, 1, 2, 3] from rfl, forEach_cons, forEach_nil]
  obtain rfl | rfl | rfl | rfl : g = 0 ∨ g = 1 ∨ g = 2 ∨ g = 3 := by omega
  all_goals simp [genOf_setGen_other]

theorem gensStarted_unit (s : State) : (gensStarted s).tt.unit = s.tt.unit := by
  unfold gensStarted
  exact forEach_keeps (fun z : State => z.tt.unit) _ (fun g s => setGen g (genStarted (genOf s g)) s) (fun _ _ => rfl) s

theorem Frame.upd_tt (s : State) (v : Telltale) : Frame [.tt] s { s with tt := v } := by
  refine ⟨fun b hb => ?_, List.suffix_refl _⟩
  cases b <;> first | exact absurd (by decide) hb | exact refs_id rfl | rfl

theorem telltaleStarted_frame (s : State) : Frame [.tt] s (telltaleStarted s) :=
  (Frame.upd_tt _ _).comp (gensStarted_frame s) (by decide)

theorem telltaleStarted_gen (s : State) {g : Nat} (h : g < 4) : genOf (telltaleStarted s) g = genStarted (genOf s g) := by
  rw [← gensStarted_gen s h]
  unfold telltaleStarted
  generalize gensStarted s = y
  rfl

theorem telltaleStarted_unit {s : State} (h : s.tt.unit.st = .stopped) : (telltaleStarted s).tt.unit.st = .running := by
  unfold telltaleStarted
  dsimp only
  rw [gensStarted_unit]
  simp [unitEnable, unitDone, h]

/-- SERVICE TELLTALE_START of a command that runs in SERVICE. -/
theorem execTelltaleStart_eq {s : State} {ref : CmdRef} {c : InFlight} (h : serviceCmd 1 ref s = some c) (t : Time) :
    exec (.telltaleStart t ref) s =
      if s.gl.lc = 2 ∧ s.gl.moving then .next (serviceEnds ref 0x0401 0 (advance t s))
      else if s.tt.unit.st = .stopping ∨ s.tt.unit.st = .starting then .next (serviceEnds ref 0x0008 0 (advance t s))
      else if s.tt.unit.st = .running then .next (serviceEnds ref 0 0 (advance t s))
      else .next (serviceEnds ref 0 0 (telltaleStarted (advance t s))) := by
  change execTelltaleStart t ref s = _
  unfold execTelltaleStart
  extract_lets x
  rw [show serviceCmd 1 ref x = some c from (serviceCmd_advance 1 ref t s).trans h]
  dsimp only
  rw [show x.gl = s.gl from advance_gl t s, show x.tt.unit = s.tt.unit by rw [advance_tt]]
  rfl

/-- The injected slots that owe a boundary when the Telltale stops (R308). -/
def injectedSlots (s : State) : List Nat :=
  (List.range 64).filter fun i => decide ((slotOf s i).unit.st ≠ .stopped) && !(gensOf s i).isEmpty

theorem injectedSlots_nil {s : State} :
    injectedSlots s = [] ↔ ∀ i, i < 64 → (slotOf s i).unit.st = .stopped ∨ gensOf s i = [] := by
  simp [injectedSlots, List.filter_eq_nil_iff, Decidable.or_iff_not_imp_left]

/-- The Telltale on its way to a stop that command `c` asked for. -/
def telltaleStopping (c : InFlight) (s : State) : State :=
  let x := setCmd { c with stage := .running } s
  { x with tt := { x.tt with unit := unitDisable x.tt.unit, left := injectedSlots s, stop := some c.ref } }

/-- SERVICE TELLTALE_STOP of a command that runs in SERVICE, with the Telltale RUNNING. -/
theorem execTelltaleStop_eq {s : State} {ref : CmdRef} {c : InFlight} (h : serviceCmd 2 ref s = some c) (t : Time)
    (hr : s.tt.unit.st = .running) : exec (.telltaleStop t ref) s = .next (telltaleSettle (telltaleStopping c (advance t s))) := by
  obtain rfl := findCmd_ref (serviceCmd_parts h).1
  change execTelltaleStop t c.ref s = _
  unfold execTelltaleStop
  extract_lets x
  rw [show serviceCmd 2 c.ref x = some c from (serviceCmd_advance 2 c.ref t s).trans h]
  dsimp only
  have hx : x.tt.unit.st = .running := by rw [advance_tt]; exact hr
  rw [if_neg (by rw [hx]; decide), if_neg (by rw [hx]; decide)]
  rfl

/-- What a stop of the Telltale that command `c` asks for sets. -/
theorem telltaleStopping_parts {s : State} {c : InFlight} (hr : s.tt.unit.st = .running) (hc : findCmd s c.ref = some c) :
    Frame [.tt, .hq] s (telltaleStopping c s)
      ∧ (telltaleStopping c s).tt.unit = { st := .stopping, latch := none }
      ∧ (telltaleStopping c s).tt.left = injectedSlots s ∧ (telltaleStopping c s).tt.stop = some c.ref
      ∧ findCmd (telltaleStopping c s) c.ref = some { c with stage := .running } := by
  refine ⟨(Frame.upd_tt _ _).comp ((setCmd_frame _ _).widen (by decide)) (by decide), ?_, rfl, rfl, ?_⟩
  · exact (congrArg unitDisable (congrArg Telltale.unit (setCmd_frame { c with stage := .running } s).tt_eq)).trans
      (by simp [unitDisable, hr])
  · exact findCmd_setCmd_same (c := { c with stage := .running }) hc

theorem telltaleSettle_owes {s : State} (h : s.tt.left ≠ []) : telltaleSettle s = s := by
  unfold telltaleSettle
  rw [if_neg (fun k => h k.2)]

/-- The Telltale stops when no slot owes a boundary, and the command that stopped it completes. -/
theorem telltaleSettle_stops {s : State} {ref : CmdRef} {c : InFlight} (h : s.tt.unit = { st := .stopping, latch := none })
    (hl : s.tt.left = []) (hr : s.tt.stop = some ref) (hc : findCmd s ref = some c) (hq : ref.sq < 8192) :
    Ends s (telltaleSettle s) ref 0 0 0 ∧ (telltaleSettle s).tt.unit.st = .stopped := by
  unfold telltaleSettle
  rw [if_pos ⟨by rw [h], hl⟩]
  extract_lets streams _ x y
  have f0 : Frame [.tt] s x := Frame.upd_tt _ _
  have hx : x.tt.unit.st = .stopped ∧ x.tt.stop = some ref := ⟨by simp only [x, h]; rfl, hr⟩
  have fy : Frame [.spill, .ev, .out] x y :=
    Frame.forEach _ _ (fun _ _ k => (flushRequest_frame _ _ _).comp k (by decide)) (Frame.refl _ _)
  have f1 : Frame [.tt, .spill, .ev, .out] s { y with tt := { y.tt with stop := none } } :=
    (Frame.upd_tt _ _).comp (fy.comp (f0.widen (by decide)) (by decide)) (by decide)
  clear_value y
  rw [show y.tt.stop = some ref by rw [fy.tt_eq]; exact hx.2]
  obtain ⟨he, -, -, ht⟩ := complete_rest f1 (by decide) hc hq 0 (r0 := 0) (r1 := 0) (by decide) (by decide) (by decide)
  exact ⟨he, by rw [ht]; exact (congrArg (fun u => u.unit.st) fy.tt_eq).trans hx.1⟩

/-- The one listed unit of a READMIT that is no lane is re-admitted. -/
theorem readmit_st {i : Nat} (h : 1152 ≤ i) (k : i < 1188) (out : CalOutcome) (s : State) :
    (crewOf (readmit out i s) i).st = .active := by
  unfold readmit
  rw [if_neg (by omega), if_neg (by omega), if_neg (by omega)]
  exact setUnitState_st_same _ _ _ _

/-- What a CALIBRATE run does once its units are re-admitted, before it completes. -/
def calDone (s : State) : State := poolPass (calLog { s with se := { s.se with calWrites := s.se.calWrites + 1 } })

theorem calDone_frame (s : State) : Frame [.se, .logs, .fresh, .eng, .cy, .spill, .ev, .out] s (calDone s) :=
  (poolPass_frame _).comp ((calLog_frame _).comp
    ((Frame.upd_se s { s.se with calWrites := s.se.calWrites + 1 } rfl).widen
      (l := [.se, .logs, .fresh, .eng, .cy, .spill, .ev, .out]) (by decide)) (by decide)) (by decide)

theorem calDone_writes (s : State) : (calDone s).se.calWrites = s.se.calWrites + 1 := by
  unfold calDone; rw [(poolPass_frame _).se_eq, (calLog_frame _).se_eq]

theorem calRun_none (c : InFlight) (out : CalOutcome) (s : State) :
    calRun c [] out s = tapeRest (tidy (complete c.ref (if calPassed c s out 0 = calMask c then 0 else 0x0108)
      (calPassed c s out 0) 0 false (calDone (calProcs c out s)))) := by
  unfold calRun
  extract_lets s0 x good bad y passed _ z status
  have hg : good = [] := by simp [good]
  have hb : bad = 0 := by simp [bad]
  have hy : y = calProcs c out s := by simp only [y, hg, forEach_nil, x, s0]
  rw [show poolPass z = calDone y from rfl, hy]
  simp only [status, passed, hg, hb, s0, List.length_nil, Nat.zero_mul]

/-- READMIT alone, of one unit that passes its self-test. -/
theorem calRun_one {c : InFlight} (hm : calMask c = 64) {i : Nat} (out : CalOutcome) {s : State}
    (h : unitPasses out (calProcs c out s) i = true) :
    calRun c [i] out s = tapeRest (tidy (complete c.ref 0 64 1 false (calDone (readmit out i (calProcs c out s))))) := by
  have h6 : ∀ z, calRuns c z 6 = true := fun z => by simp [calRuns, hm]; decide
  unfold calRun
  extract_lets s0 x good bad y passed _ z status
  have hg : good = [i] := by simp only [good, h6, if_true]; simp [x, s0, h]
  have hb : bad = 0 := by simp [bad, hg]
  have hy : y = readmit out i (calProcs c out s) := by simp only [y, hg, forEach_cons, forEach_nil, x, s0]
  have hp : passed = 64 := by simp only [passed, hb, s0]; exact calPassed_readmit hm _ _
  rw [show poolPass z = calDone y from rfl, hy]
  simp only [status, hp, hm, hg, hb, List.length_singleton, Nat.zero_mul, if_true]

/-- The listed unit that READMIT may make active again. -/
theorem listOk_one {s : State} {i : Nat} (h : i < rosterSize) (hb : (crewOf s i).st = .benched) : listOk s [i] = true := by
  simp [listOk, readmittable, h, hb]

/-- Settles O36: a CALIBRATE without a list and a READMIT of one unit, and the four SERVICE operations by what the roster,
the life cycle and the Telltale allow. -/
theorem calibrateAndService : Obligations.CalibrateAndService := by
  unfold Obligations.CalibrateAndService
  refine ⟨fun t ref s out c hc hq hop hst hcur => ⟨fun hn => ⟨fun ht => ?_, fun hcart hm hk => ?_⟩,
    fun segs i hn hd hm hlo hhi hb ho => ?_⟩, fun t ref s c h hq => ?_, fun t ref s code c h hq hd => ⟨fun hst => ?_, fun h1 h2 => ?_⟩,
    fun t ref s c h hq => ⟨fun hlc hmv => ?_, fun hlc hst => ?_⟩, fun t ref s c h hq => ⟨fun hr hn => ?_, fun hr hn => ?_⟩⟩
  · obtain rfl := findCmd_ref hc
    have e := execCalibrate_eq hc hop hst hcur t [] [] out
    rw [hn, if_neg (by simp [listOk]), if_neg (by rintro ⟨h1, h2, h3⟩; simp_all)] at e
    simp only [List.take_nil, List.map_nil] at e
    rw [calRun_none, show calPassed c (advance t s) out 0 = calPassed c s out 0 from
      read_advance (fun z => calPassed c z out 0) (fun _ _ => rfl) t s] at e
    have f : Frame [.crew, .rch, .sv, .ce, .lk, .sp, .logs, .se, .fresh, .eng, .cy, .spill, .ev, .out, .tb] s
        (calDone (calProcs c out (advance t s))) :=
      (calDone_frame _).comp ((calProcs_frame _ _ _).comp ((advance_frame t s).widen (by decide)) (by decide)) (by decide)
    have hp := calPassed_le c s out 0
    obtain ⟨he, -, hse, -⟩ := complete_rest f (by decide) hc hq (if calPassed c s out 0 = calMask c then 0 else 0x0108)
      (r0 := calPassed c s out 0) (r1 := 0) (by split <;> decide) (by omega) (by decide)
    refine ⟨_, e, he, ?_⟩
    rw [hse, calDone_writes, (calProcs_frame _ _ _).se_eq, advance_se]
  · have e := execCalibrate_eq hc hop hst hcur t [] [] out
    rw [hn, if_neg (by simp [listOk]), if_pos ⟨by simp [hcart], hm, hk⟩] at e
    refine ⟨_, e, (chosen_fails (advance_frame t s) ((findCmd_advance t s ref).trans hc) (by omega) hq 7).1, ?_⟩
    rw [(tapeRest_frame _).se_eq, (tidy_frame _).se_eq, (failCmd_frame _ _ _).se_eq, advance_se]
  · obtain rfl := findCmd_ref hc
    obtain ⟨p, hp⟩ := Option.isSome_iff_exists.mp hd
    have hb' : (crewOf (advance t s) i.toNat).st = .benched := by
      rw [show crewOf (advance t s) = crewOf s from read_advance crewOf (fun _ _ => rfl) t s]; exact hb
    have e := execCalibrate_eq hc hop hst hcur t segs [i] out
    rw [hn, if_neg (by simp [hp, listOk_one (show i.toNat < rosterSize by unfold rosterSize; omega) hb']),
      if_neg (by rw [hm]; rintro ⟨-, -, h3⟩; revert h3; decide)] at e
    simp only [List.take_succ_cons, List.take_nil, List.map_cons, List.map_nil] at e
    have hu : unitPasses out (calProcs c out (advance t s)) i.toNat = true := by
      unfold unitPasses; rw [ho, if_neg (by omega)]; rfl
    rw [calRun_one hm out hu] at e
    have f : Frame [.crew, .rch, .sv, .ce, .lk, .sp, .logs, .se, .fresh, .eng, .cy, .spill, .ev, .out, .tb, .wr, .ic] s
        (calDone (readmit out i.toNat (calProcs c out (advance t s)))) :=
      (calDone_frame _).comp ((readmit_frame _ _ _).comp ((calProcs_frame _ _ _).comp ((advance_frame t s).widen (by decide))
        (by decide)) (by decide)) (by decide)
    obtain ⟨he, hcr, -, -⟩ := complete_rest f (by decide) hc hq 0 (r0 := 64) (r1 := 1) (by decide) (by decide) (by decide)
    refine ⟨_, e, he, ?_⟩
    rw [hcr, crewOf_congr (s := readmit out i.toNat (calProcs c out (advance t s))) (by rw [(calDone_frame _).crew_eq])]
    exact readmit_st hlo hhi _ _
  · obtain ⟨hc, -, -, hcur⟩ := serviceCmd_parts h
    have e := execBench_eq h t
    have hrest : ∀ st, st < 65536 → _ := fun st hs =>
      complete_rest (advance_frame t s) (by decide) hc hq st (r0 := 0) (r1 := 0) hs (by decide) (by decide)
    intro i
    refine ⟨fun hlo hhi => ?_, fun hd => ?_, fun hi hs => ?_⟩
    · rw [if_neg (by rw [dieBusy_unit (by omega)]; decide),
        if_neg (fun k => absurd k.1 (by omega))] at e
      by_cases hb : (crewOf s i).st = .benched
      · rw [if_pos hb] at e
        obtain ⟨he, hcr, -, -⟩ := hrest 0 (by decide)
        refine ⟨_, e, he, (congrArg Crew.st (hcr i)).trans ?_⟩
        rw [show crewOf (advance t s) = crewOf s from read_advance crewOf (fun _ _ => rfl) t s]; exact hb
      · rw [if_neg hb] at e
        have f : Frame [.crew, .wr, .rch, .sv, .lk, .ic, .spill, .ev, .out, .tb] s (benchUnit i 7 (advance t s)) :=
          (benchUnit_frame _ _ _).comp ((advance_frame t s).widen (by decide)) (by decide)
        obtain ⟨he, hcr, -, -⟩ := complete_rest f (by decide) hc hq 0 (r0 := 0) (r1 := 0) (by decide) (by decide) (by decide)
        exact ⟨_, e, he, (congrArg Crew.st (hcr i)).trans (benchUnit_st hlo hhi _ _)⟩
    · rw [if_pos hd] at e
      exact ⟨_, e, (hrest 8 (by decide)).1⟩
    · rw [if_neg (by rw [dieBusy_unit (by omega)]; decide),
        if_pos ⟨hi, by rw [hs]; rfl⟩] at e
      exact ⟨_, e, (hrest 2 (by decide)).1⟩
  · obtain ⟨hc, -, -, hcur⟩ := serviceCmd_parts h
    have e := execSelfTest_eq h t code
    rw [if_neg (by simp [hd]), if_neg (by rintro ⟨h1, h2⟩; exact hst.elim h1 h2)] at e
    exact ⟨_, e, (complete_rest (advance_frame t s) (by decide) hc hq 0 (by decide) code.isLt (by decide)).1⟩
  · obtain ⟨hc, -, -, hcur⟩ := serviceCmd_parts h
    have e := execSelfTest_eq h t code
    rw [if_neg (by simp [hd]), if_pos ⟨h1, h2⟩] at e
    exact ⟨_, e, (complete_rest (advance_frame t s) (by decide) hc hq 2 (by decide) (by decide) (by decide)).1⟩
  · obtain ⟨hc, -, -, hcur⟩ := serviceCmd_parts h
    have e := execTelltaleStart_eq h t
    rw [if_pos ⟨hlc, hmv⟩] at e
    obtain ⟨he, -, -, ht⟩ := complete_rest (advance_frame t s) (by decide) hc hq 0x0401 (r0 := 0) (r1 := 0) (by decide) (by decide)
      (by decide)
    exact ⟨_, e, he, ht.trans (advance_tt t s)⟩
  · obtain ⟨hc, -, -, hcur⟩ := serviceCmd_parts h
    have e := execTelltaleStart_eq h t
    rw [if_neg (by rintro ⟨h1, h2⟩; exact hlc.elim (fun k => k h1) (fun k => by rw [k] at h2; cases h2)),
      if_neg (by rw [hst]; decide), if_neg (by rw [hst]; decide)] at e
    have f : Frame [.tt, .tb] s (telltaleStarted (advance t s)) :=
      (telltaleStarted_frame _).comp ((advance_frame t s).widen (by decide)) (by decide)
    have hrun := telltaleStarted_unit (s := advance t s) (by rw [advance_tt]; exact hst)
    have hgen := fun g h => telltaleStarted_gen (advance t s) (g := g) h
    rw [show genOf (advance t s) = genOf s from read_advance genOf (fun _ _ => rfl) t s] at hgen
    generalize telltaleStarted (advance t s) = y at e f hrun hgen
    obtain ⟨he, -, -, ht⟩ := complete_rest f (by decide) hc hq 0 (r0 := 0) (r1 := 0) (by decide) (by decide) (by decide)
    refine ⟨_, e, he, (congrArg (fun w => w.unit.st) ht).trans hrun, ?_, fun g hg => ?_⟩
    · have hz : (tidy (complete ref 0 0 0 false y)).tt = y.tt := by rw [(tidy_frame _).tt_eq, (complete_frame _ _ _ _ _ _).tt_eq]
      have hg : (tidy (complete ref 0 0 0 false y)).gl = s.gl := by
        rw [(tidy_frame _).gl_eq, (complete_frame _ _ _ _ _ _).gl_eq, f.gl_eq]
      unfold serviceEnds
      rw [tapeRest_service (by rw [hz, hrun]; decide) (by rw [hg]; exact hcur), hg]
      exact hcur
    · have hz : genOf (serviceEnds ref 0 0 y) g = genStarted (genOf s g) := by
        rw [← hgen g hg]; unfold genOf; exact congrArg (fun w => tabGet genDefault w.gens g) ht
      rw [hz]
      exact ⟨rfl, rfl, rfl⟩
  · obtain ⟨hc, -, -, hcur⟩ := serviceCmd_parts h
    obtain rfl := findCmd_ref hc
    have e := execTelltaleStop_eq h t hr
    have hl : injectedSlots (advance t s) = [] := by
      rw [show injectedSlots (advance t s) = injectedSlots s from read_advance injectedSlots (fun _ _ => rfl) t s]
      exact injectedSlots_nil.mpr hn
    obtain ⟨hs, hu, hleft, hstop, hcmd⟩ := telltaleStopping_parts (s := advance t s) (by rw [advance_tt]; exact hr)
      ((findCmd_advance t s c.ref).trans hc)
    obtain ⟨he, hend⟩ := telltaleSettle_stops hu (hleft.trans hl) hstop hcmd hq
    exact ⟨_, e, (he.after hs).after (advance_frame t s), hend⟩
  · obtain ⟨hc, -, -, hcur⟩ := serviceCmd_parts h
    obtain rfl := findCmd_ref hc
    have e := execTelltaleStop_eq h t hr
    have hl : injectedSlots (advance t s) ≠ [] := by
      rw [show injectedSlots (advance t s) = injectedSlots s from read_advance injectedSlots (fun _ _ => rfl) t s]
      intro k
      obtain ⟨i, hi, h1, h2⟩ := hn
      exact (injectedSlots_nil.mp k i hi).elim h1 h2
    obtain ⟨hs, hu, hleft, hstop, hcmd⟩ := telltaleStopping_parts (s := advance t s) (by rw [advance_tt]; exact hr)
      ((findCmd_advance t s c.ref).trans hc)
    rw [telltaleSettle_owes (by rw [hleft]; exact hl)] at e
    exact ⟨_, e, hcmd, by rw [hu], hstop⟩

end Sys2Proof.Machine
end

section
/-!
Interrupt delivery (O44)
-/

namespace Sys2Proof.Machine
set_option Elab.async false

/-! ## Interrupt delivery (O44) -/

theorem srcLine_setSrc (f g : Fn) (m n : Nat) (v : Src) (s : State) : srcLine (setSrc f m v s) g n = srcLine s g n := rfl

theorem fastLine_setFast (m n : Nat) (v : Src) (s : State) : fastLine (setFast m v s) n = fastLine s n := rfl

/-- A loop over sources does not change the lines that it reads. -/
theorem forEach_setSrc_line (f : Fn) (op : Bool → Src → Src) (l : List Nat) (s : State) :
    forEach l (fun n x => setSrc f n (op (srcLine x f n) (srcOf x f n)) x) s
      = forEach l (fun n x => setSrc f n (op (srcLine s f n) (srcOf x f n)) x) s := by
  induction l generalizing s with
  | nil => rw [forEach_nil, forEach_nil]
  | cons m r ih =>
    have e : srcLine (setSrc f m (op (srcLine s f m) (srcOf s f m)) s) f = srcLine s f :=
      funext fun n => srcLine_setSrc f f m n _ s
    rw [forEach_cons, forEach_cons, ih, e]

theorem forEach_setFast_line (op : Bool → Src → Src) (l : List Nat) (s : State) :
    forEach l (fun n x => setFast n (op (fastLine x n) (fastOf x n)) x) s
      = forEach l (fun n x => setFast n (op (fastLine s n) (fastOf x n)) x) s := by
  induction l generalizing s with
  | nil => rfl
  | cons m r ih => simp only [forEach_cons, ih, fastLine_setFast]

/-! ### Delivery -/

theorem messageWrite_clear {f : Fn} {v : Nat} {s : State} (h : msixMasked s f v = false) :
    messageWrite f v s = emit (.msix f v) s := by unfold messageWrite; rw [h]; rfl

theorem messageWrite_masked {f : Fn} {v : Nat} {s : State} (h : msixMasked s f v = true) :
    messageWrite f v s = { s with ic := { s.ic with pba := tabSet false s.ic.pba (vecKey f v) true } } := by
  unfold messageWrite; rw [h]; rfl

theorem messageWrite_srcs (f : Fn) (v : Nat) (s : State) :
    (messageWrite f v s).ic.srcs = s.ic.srcs ∧ (messageWrite f v s).ic.fast = s.ic.fast := by
  unfold messageWrite; split <;> exact ⟨rfl, rfl⟩

theorem srcOf_of_srcs {s u : State} (h : u.ic.srcs = s.ic.srcs) (f : Fn) (n : Nat) : srcOf u f n = srcOf s f n := by
  unfold srcOf; rw [h]

theorem fastOf_of_fast {s u : State} (h : u.ic.fast = s.ic.fast) (n : Nat) : fastOf u n = fastOf s n := by
  unfold fastOf; rw [h]

/-- The claims of a delivery (R345). -/
def claimed (f : Fn) (l : List Nat) (s : State) : State := forEach l (fun n x => setSrc f n (claim (srcOf x f n)) x) s

def fastClaimed (l : List Nat) (s : State) : State := forEach l (fun n x => setFast n (claim (fastOf x n)) x) s

/-- The message of a delivered group, by the mask. -/
def Messaged (f : Fn) (v : Nat) (s u : State) : Prop :=
  (msixMasked s f v = false → u.out = .msix f v :: s.out)
    ∧ (msixMasked s f v = true → u.out = s.out ∧ tabGet false u.ic.pba (vecKey f v) = true)

theorem messageWrite_messaged (f : Fn) (v : Nat) (s : State) : Messaged f v s (messageWrite f v s) := by
  refine ⟨fun h => by rw [messageWrite_clear h]; rfl, fun h => ?_⟩
  rw [messageWrite_masked h]
  exact ⟨rfl, tabGet_tabSet_same false s.ic.pba (vecKey f v) true⟩

theorem claimed_parts (f : Fn) (l : List Nat) (s : State) :
    (claimed f l s).out = s.out ∧ (claimed f l s).ic.msix = s.ic.msix ∧ (claimed f l s).ic.fmask = s.ic.fmask :=
  ⟨forEach_keeps (fun z : State => z.out) l (fun n x => setSrc f n (claim (srcOf x f n)) x) (fun _ _ => rfl) s,
    forEach_keeps (fun z : State => z.ic.msix) l (fun n x => setSrc f n (claim (srcOf x f n)) x) (fun _ _ => rfl) s,
    forEach_keeps (fun z : State => z.ic.fmask) l (fun n x => setSrc f n (claim (srcOf x f n)) x) (fun _ _ => rfl) s⟩

theorem fastClaimed_parts (l : List Nat) (s : State) :
    (fastClaimed l s).out = s.out ∧ (fastClaimed l s).ic.msix = s.ic.msix ∧ (fastClaimed l s).ic.fmask = s.ic.fmask :=
  ⟨forEach_keeps (fun z : State => z.out) l (fun n x => setFast n (claim (fastOf x n)) x) (fun _ _ => rfl) s,
    forEach_keeps (fun z : State => z.ic.msix) l (fun n x => setFast n (claim (fastOf x n)) x) (fun _ _ => rfl) s,
    forEach_keeps (fun z : State => z.ic.fmask) l (fun n x => setFast n (claim (fastOf x n)) x) (fun _ _ => rfl) s⟩

theorem msixMasked_congr {s u : State} (h1 : u.ic.msix = s.ic.msix) (h2 : u.ic.fmask = s.ic.fmask) (f : Fn) (v : Nat) :
    msixMasked u f v = msixMasked s f v := by unfold msixMasked msixWord; rw [h1, h2]

theorem Messaged.of_base {f : Fn} {v : Nat} {s x u : State} (ho : x.out = s.out) (h1 : x.ic.msix = s.ic.msix)
    (h2 : x.ic.fmask = s.ic.fmask) (h : Messaged f v x u) : Messaged f v s u := by
  unfold Messaged at h ⊢; rwa [msixMasked_congr h1 h2, ho] at h

theorem Frame.upd_ic (s : State) (v : Ic) : Frame [.ic] s { s with ic := v } := by
  refine ⟨fun b hb => ?_, List.suffix_refl _⟩
  cases b <;> first | exact absurd (by decide) hb | exact refs_id rfl | rfl

/-- What the delivery of a group leaves. -/
theorem deliverGroup_parts (f : Fn) (v : Nat) {s : State} (h : (groupPending s f v).Nodup) :
    (∀ n, srcOf (deliverGroup f v s) f n = if n ∈ groupPending s f v then claim (srcOf s f n) else srcOf s f n)
      ∧ Messaged f v s (deliverGroup f v s) := by
  obtain ⟨ho, h1, h2⟩ := claimed_parts f (groupPending s f v) s
  have hm := (messageWrite_messaged f v (claimed f (groupPending s f v) s)).of_base ho h1 h2
  refine ⟨fun n => ?_, hm⟩
  refine (srcOf_of_srcs (messageWrite_srcs f v (claimed f (groupPending s f v) s)).1 f n).trans ?_
  exact srcOf_forEach_setSrc f (fun _ => claim) h s n

theorem deliverFast_parts (s : State) :
    (∀ n, fastOf (deliverFast s) n = if n ∈ fastPending s then claim (fastOf s n) else fastOf s n)
      ∧ Messaged 0 0 s (deliverFast s) := by
  obtain ⟨ho, h1, h2⟩ := fastClaimed_parts (fastPending s) s
  have hm := (messageWrite_messaged 0 0 (fastClaimed (fastPending s) s)).of_base ho h1 h2
  refine ⟨fun n => ?_, hm⟩
  refine (fastOf_of_fast (messageWrite_srcs 0 0 (fastClaimed (fastPending s) s)).2 n).trans ?_
  exact fastOf_forEach_setFast (fun _ => claim) (List.nodup_range.filter _) s n

/-! ### End of service and the look -/

theorem srcOf_eoiGroup {f : Fn} {v : Nat} {s : State} (h : (sourcesOf s f).Nodup) (n : Nat) :
    srcOf (eoiGroup f v s) f n = if n ∈ groupSources s f v ∧ (srcOf s f n).insvc = true then eoiSrc (srcLine s f n) (srcOf s f n)
      else srcOf s f n := by
  unfold eoiGroup
  rw [forEach_setSrc_line, srcOf_forEach_setSrc f (fun m => eoiSrc (srcLine s f m))
    (nodup_filter _ (nodup_filter _ h) : (List.filter _ (groupSources s f v)).Nodup)]
  simp only [List.mem_filter]

theorem fastOf_eoiFast {s : State} {n : Nat} (h : n < 32) :
    fastOf (eoiFast s) n = if (fastOf s n).insvc = true then eoiSrc (fastLine s n) (fastOf s n) else fastOf s n := by
  unfold eoiFast
  rw [forEach_setFast_line, fastOf_forEach_setFast (fun m => eoiSrc (fastLine s m)) (List.nodup_range.filter _)]
  simp only [List.mem_filter, List.mem_range, h, true_and]

theorem lookSrc_looked (line : Bool) (v : Src) :
    (lookSrc line v).looked = (v.looked || (v.insvc && decide (v.sense < 2) && lineActive v.sense line)) := by
  unfold lookSrc activeBit
  by_cases h : v.sense < 2
  · simp only [h, decide_true, show ¬2 ≤ v.sense by omega, decide_false, Bool.false_or, Bool.and_true]
    cases v.insvc <;> cases lineActive v.sense line <;> simp
  · simp [h]

theorem lookWord_looked {f : Fn} {w n : Nat} {s : State} (hw : n / 32 = w) (hn : srcExists s f n = true) :
    srcOf (lookWord f w s) f n = lookSrc (srcLine s f n) (srcOf s f n) := by
  unfold lookWord
  rw [forEach_setSrc_line, srcOf_forEach_setSrc f (fun m => lookSrc (srcLine s f m)) (nodup_filter _ List.nodup_range'),
    if_pos (mem_sources_of_word.mpr ⟨hw, hn⟩)]

theorem lookFast_looked {n : Nat} (h : n < 32) (s : State) :
    fastOf (lookFast s) n = lookSrc (fastLine s n) (fastOf s n) := by
  unfold lookFast
  rw [forEach_setFast_line, fastOf_forEach_setFast (fun m => lookSrc (fastLine s m)) List.nodup_range,
    if_pos (List.mem_range.mpr h)]

/-! ### Messages that the PBA holds -/

theorem vecKey_inj (f : Fn) {v w : Nat} : vecKey f v = vecKey f w ↔ v = w := Nat.add_left_cancel_iff

theorem messageHeld_msix (f : Fn) (w : Nat) (s : State) :
    (messageHeld f w s).ic.msix = s.ic.msix ∧ (messageHeld f w s).ic.fmask = s.ic.fmask := by
  unfold messageHeld; split <;> exact ⟨rfl, rfl⟩

theorem messageHeld_goes {f : Fn} {v : Nat} {s : State} (hm : msixMasked s f v = false) :
    tabGet false (messageHeld f v s).ic.pba (vecKey f v) = false
      ∧ (tabGet false s.ic.pba (vecKey f v) = true → (messageHeld f v s).out = .msix f v :: s.out) := by
  unfold messageHeld
  cases hp : tabGet false s.ic.pba (vecKey f v) with
  | false => rw [if_neg (by simp)]; exact ⟨hp, fun h => by cases h⟩
  | true => rw [if_pos (by simp [hm])]; exact ⟨tabGet_tabSet_same false s.ic.pba (vecKey f v) false, fun _ => rfl⟩

theorem messageHeld_stays {f : Fn} {v : Nat} {s : State} (hm : msixMasked s f v = true) : messageHeld f v s = s := by
  unfold messageHeld; rw [if_neg (by simp [hm])]

theorem messageHeld_other {f : Fn} {v w : Nat} (s : State) (h : v ≠ w) :
    tabGet false (messageHeld f w s).ic.pba (vecKey f v) = tabGet false s.ic.pba (vecKey f v) := by
  unfold messageHeld
  split
  · exact tabGet_tabSet_other false s.ic.pba false (mt (vecKey_inj f).mp h)
  · rfl

/-- A pass over held messages leaves no bit of an unmasked vector, and sends its message where the bit was set. -/
theorem messagesHeld_go {f : Fn} {v : Nat} (l : List Nat) {s : State} (hm : msixMasked s f v = false) :
    (tabGet false s.ic.pba (vecKey f v) = false → tabGet false (forEach l (messageHeld f) s).ic.pba (vecKey f v) = false)
      ∧ (v ∈ l → tabGet false s.ic.pba (vecKey f v) = true → Sent s (forEach l (messageHeld f) s) (.msix f v)
        ∧ tabGet false (forEach l (messageHeld f) s).ic.pba (vecKey f v) = false) := by
  induction l generalizing s with
  | nil => exact ⟨id, fun h => by cases h⟩
  | cons w r ih =>
    rw [forEach_cons]
    obtain ⟨h1, h2⟩ := messageHeld_msix f w s
    obtain ⟨keep, go⟩ := ih (s := messageHeld f w s) (by rw [msixMasked_congr h1 h2]; exact hm)
    by_cases hv : v = w
    · subst hv
      obtain ⟨hc, hs⟩ := messageHeld_goes hm
      refine ⟨fun _ => keep hc, fun _ hp => ⟨?_, keep hc⟩⟩
      have hsent : Sent s (messageHeld f v s) (.msix f v) := ⟨[.msix f v], by rw [hs hp]; rfl, List.mem_singleton_self _⟩
      exact hsent.frame (Frame.forEach (l := [.ic, .out]) r (messageHeld f) (fun a z k => (messageHeld_frame f a z).comp k (by decide))
        (Frame.refl _ _))
    · rw [messageHeld_other s hv] at keep go
      refine ⟨keep, fun hmem hp => ?_⟩
      obtain ⟨hs, hf⟩ := go ((List.mem_cons.mp hmem).resolve_left hv) hp
      exact ⟨hs.after (messageHeld_frame f w s), hf⟩

theorem messagesHeld_stay {f : Fn} {v : Nat} (l : List Nat) {s : State} (hm : msixMasked s f v = true) :
    tabGet false (forEach l (messageHeld f) s).ic.pba (vecKey f v) = tabGet false s.ic.pba (vecKey f v) := by
  induction l generalizing s with
  | nil => rfl
  | cons w r ih =>
    rw [forEach_cons]
    obtain ⟨h1, h2⟩ := messageHeld_msix f w s
    rw [ih (by rw [msixMasked_congr h1 h2]; exact hm)]
    by_cases hv : v = w
    · subst hv; rw [messageHeld_stays hm]
    · exact messageHeld_other s hv

theorem mem_of_tabGet {α : Type} {d : α} {t : List (Nat × α)} {i : Nat} (h : tabGet d t i ≠ d) : ∃ p ∈ t, p.1 = i := by
  induction t with
  | nil => exact absurd rfl h
  | cons p r ih =>
    unfold tabGet at h
    by_cases hi : i = p.1
    · exact ⟨p, List.mem_cons_self, hi.symm⟩
    · rw [if_neg hi] at h
      obtain ⟨q, hq, he⟩ := ih h
      exact ⟨q, List.mem_cons_of_mem _ hq, he⟩

theorem sourcesOf_advance (t : Time) (s : State) (f : Fn) : sourcesOf (advance t s) f = sourcesOf s f :=
  read_advance (fun z => sourcesOf z f) (fun _ _ => rfl) t s

theorem msixMasked_advance (t : Time) (s : State) (f : Fn) (v : Nat) : msixMasked (advance t s) f v = msixMasked s f v :=
  read_advance (fun z => msixMasked z f v) (fun _ _ => rfl) t s

theorem groupSources_advance (t : Time) (s : State) (f : Fn) (v : Nat) : groupSources (advance t s) f v = groupSources s f v :=
  read_advance (fun z => groupSources z f v) (fun _ _ => rfl) t s

theorem Messaged.after_advance {f : Fn} {v : Nat} {t : Time} {s u : State} (h : Messaged f v (advance t s) u) :
    Messaged f v s u := h.of_base (advance_out t s) (by rw [advance_ic]) (by rw [advance_ic])

/-- What the end of service of one source leaves (R346). -/
theorem eoiSrc_ended (line : Bool) (a : Src) :
    (eoiSrc line a).insvc = false ∧ (eoiSrc line a).count = a.count ∧ (eoiSrc line a).edges = a.edges
      ∧ (eoiSrc line a).vanished
        = if a.sense < 2 ∧ lineActive a.sense line = false ∧ a.looked = false then satInc a.vanished else a.vanished := by
  refine ⟨rfl, rfl, rfl, ?_⟩
  simp [eoiSrc, and_assoc]

theorem fnLive_parts {s : State} {f : Fn} (h : fnLive s f = true) :
    regsLive s = true ∧ fetching s = true ∧ (f == 0 || s.hq.vfEnable) = true := by
  obtain ⟨hr, hf⟩ := Bool.and_eq_true_iff.mp h
  exact ⟨hr, (Bool.and_eq_true_iff.mp hr).1, hf⟩

/-- A read of an IC_ACTIVE word of a function whose registers respond. -/
theorem execIcActiveRead_eq {f : Fn} {s : State} (h : fnLive s f = true) (t : Time) {word : Nat} (hw : word < icWords f) :
    exec (.icActiveRead t f false word) s = .next (lookWord f word
      (emit (.readValue f (0x1B00 + 4 * word) ((activeWord (advance t s) f word).setWidth 64)) (advance t s))) := by
  obtain ⟨hr, hf, hv⟩ := fnLive_parts ((fnLive_advance t s f).trans h)
  change execIcActiveRead t f false word s = _
  unfold execIcActiveRead
  extract_lets x
  rw [if_neg (by rw [hf, hv]; decide), if_neg (by rw [hr]; decide), if_neg Bool.false_ne_true, if_neg (Nat.not_le.mpr hw)]

theorem execIcFActiveRead_eq {s : State} (h : fnLive s 0 = true) (t : Time) :
    exec (.icActiveRead t 0 true 0) s = .next (lookFast
      (emit (.readValue 0 0xF00C ((fastActiveWord (advance t s)).setWidth 64)) (advance t s))) := by
  obtain ⟨hr, hf, hv⟩ := fnLive_parts ((fnLive_advance t s 0).trans h)
  change execIcActiveRead t 0 true 0 s = _
  unfold execIcActiveRead
  extract_lets x
  rw [if_neg (by rw [hf, hv]; decide), if_neg (by rw [hr]; decide), if_pos rfl, if_pos rfl]

/-- The mask bit of an MSI-X word is cleared, and nothing else that a held message looks at changes. -/
theorem setMsixWord_clear (f : Fn) (v : Nat) (s : State) :
    let x := setMsixWord f v 3 (msixWord s f v 3 &&& 0xFFFFFFFE#32) s
    (msixWord x f v 3).getLsbD 0 = false ∧ x.ic.fmask = s.ic.fmask ∧ x.ic.pba = s.ic.pba ∧ x.out = s.out := by
  have e : msixWord (setMsixWord f v 3 (msixWord s f v 3 &&& 0xFFFFFFFE#32) s) f v 3 = msixWord s f v 3 &&& 0xFFFFFFFE#32 :=
    tabGet_tabSet_same _ _ _ _
  refine ⟨?_, rfl, rfl, rfl⟩
  rw [e]; simp

/-- A function's own MSI-X mask is cleared. -/
def fnUnmasked (f : Fn) (s : State) : State := { s with ic := { s.ic with fmask := tabSet false s.ic.fmask f.toNat false } }

theorem fnUnmasked_parts (f : Fn) (s : State) :
    Frame [.ic] s (fnUnmasked f s) ∧ tabGet false (fnUnmasked f s).ic.fmask f.toNat = false
      ∧ (fnUnmasked f s).ic.pba = s.ic.pba ∧ ∀ v, msixWord (fnUnmasked f s) f v 3 = msixWord s f v 3 :=
  ⟨Frame.upd_ic _ _, tabGet_tabSet_same false s.ic.fmask f.toNat false, rfl, fun _ => rfl⟩

/-- Settles O44: each claim of a delivery, an EOI and a look is a loop over distinct sources, and a held message goes once
nothing masks its vector. -/
theorem interruptDelivery : Obligations.InterruptDelivery := by
  unfold Obligations.InterruptDelivery
  refine ⟨fun t s => ⟨fun h => ?_, fun f v h hn => ?_, fun h => ?_, fun h => ?_⟩, fun t f value s hl hn => ?_,
    fun t f s hl => ⟨fun word hw => ?_, fun hf => ?_⟩, fun t f v s => ⟨fun h => ?_, fun h => ?_, fun h => ?_⟩,
    fun t f v s hv => ⟨?_, ?_⟩⟩
  · change execInterruptDelivery t s = _
    unfold execInterruptDelivery
    extract_lets x
    rw [show nextGroup x = none from h]
  · have e : exec (.interruptDelivery t) s = .next (deliverGroup f v (advance t s)) := by
      change execInterruptDelivery t s = _
      unfold execInterruptDelivery
      extract_lets x
      rw [show nextGroup x = some (f, v) from h]
    rw [← sourcesOf_advance t s f] at hn
    obtain ⟨hsrc, hm⟩ := deliverGroup_parts f v (s := advance t s) (nodup_filter _ (nodup_filter _ hn))
    simp only [srcOf_advance] at hsrc
    have hm := hm.after_advance
    exact ⟨_, e, fun n h => by rw [hsrc, if_pos h]; rfl, fun n h => by rw [hsrc, if_neg h], hm.1, hm.2⟩
  · change Host.Outcome.next (if fastReady (advance t s) then _ else _) = _
    rw [h]; rfl
  · have e : exec (.fastDelivery t) s = .next (deliverFast (advance t s)) := by
      change Host.Outcome.next (if fastReady (advance t s) then _ else _) = _
      rw [h]; rfl
    obtain ⟨hsrc, hm⟩ := deliverFast_parts (advance t s)
    simp only [fastOf_advance] at hsrc
    have hm := hm.after_advance
    exact ⟨_, e, fun n h => by rw [hsrc, if_pos h]; rfl, fun n h => by rw [hsrc, if_neg h], hm.1, hm.2⟩
  · intro ended
    refine ⟨⟨eoiGroup f (bits value 0 11) (advance t s), ?_, fun n => ?_⟩, fun hf hv => ?_⟩
    · change Host.Outcome.next (if fnLive (advance t s) f then _ else _) = _
      rw [fnLive_advance, hl]; rfl
    · intro a
      rw [srcOf_eoiGroup (by rw [sourcesOf_advance]; exact hn), groupSources_advance, srcOf_advance]
      by_cases hin : n ∈ groupSources s f (bits value 0 11) ∧ a.insvc = true
      · rw [if_pos hin, if_pos hin]; exact eoiSrc_ended _ a
      · rw [if_neg hin, if_neg hin]
    · subst hf
      refine ⟨eoiFast (advance t s), ?_, fun n hn => ?_⟩
      · change Host.Outcome.next (if regsLive (advance t s) && value.getLsbD 0 then _ else _) = _
        rw [(fnLive_parts ((fnLive_advance t s 0).trans hl)).1, hv]; rfl
      · intro a
        rw [fastOf_eoiFast hn, fastOf_advance]
        by_cases hin : a.insvc = true
        · rw [if_pos hin, if_pos hin]; exact eoiSrc_ended _ a
        · rw [if_neg hin, if_neg hin]
  · refine ⟨_, execIcActiveRead_eq hl t hw, ?_, fun n hn hx => ?_⟩
    · refine (forEach_keeps (fun z : State => z.out) _ (fun n x => setSrc f n (lookSrc (srcLine x f n) (srcOf x f n)) x)
        (fun _ _ => rfl) _).trans ?_
      exact congrArg (List.cons _) (advance_out t s)
    · rw [lookWord_looked (s := emit _ (advance t s)) hn ((srcExists_advance t s f n).trans hx), lookSrc_looked]
      rw [show ∀ o, srcOf (emit o (advance t s)) f n = srcOf s f n from fun o => srcOf_advance t s f n]
      rfl
  · subst hf
    refine ⟨_, execIcFActiveRead_eq hl t, ?_, fun n hn => ?_⟩
    · refine (forEach_keeps (fun z : State => z.out) _ (fun n x => setFast n (lookSrc (fastLine x n) (fastOf x n)) x)
        (fun _ _ => rfl) _).trans ?_
      exact congrArg (List.cons _) (advance_out t s)
    · rw [lookFast_looked hn, lookSrc_looked]
      rw [show ∀ o, fastOf (emit o (advance t s)) n = fastOf s n from fun o => fastOf_advance t s n]
      rfl
  · refine ⟨{ advance t s with ic := { (advance t s).ic with holdEnd := tabSet 0 (advance t s).ic.holdEnd (vecKey f v) 0 } }, ?_,
      tabGet_tabSet_same 0 (advance t s).ic.holdEnd (vecKey f v) 0, by rw [advance_ic]⟩
    change execHoldoffExpiry t f false v s = _
    unfold execHoldoffExpiry
    extract_lets x
    rw [if_neg Bool.false_ne_true, if_neg (by rw [h]; exact Bool.false_ne_true)]
  · change execHoldoffExpiry t f false v s = _
    unfold execHoldoffExpiry
    extract_lets x
    rw [if_neg Bool.false_ne_true, if_pos h]
  · refine ⟨{ advance t s with ic := { (advance t s).ic with fHoldEnd := 0 } }, ?_, rfl⟩
    change execHoldoffExpiry t f true v s = _
    unfold execHoldoffExpiry
    extract_lets x
    rw [if_pos rfl, if_pos (by rw [show x.ic = s.ic from advance_ic t s]; exact h)]
  · obtain ⟨hw, hfm, hp, ho⟩ := setMsixWord_clear f v (advance t s)
    refine ⟨messageHeld f v (setMsixWord f v 3 (msixWord (advance t s) f v 3 &&& 0xFFFFFFFE#32) (advance t s)), rfl, ?_⟩
    generalize setMsixWord f v 3 (msixWord (advance t s) f v 3 &&& 0xFFFFFFFE#32) (advance t s) = x at hw hfm hp ho ⊢
    rw [advance_ic] at hfm hp
    rw [advance_out] at ho
    have hmask : msixMasked x f v = tabGet false s.ic.fmask f.toNat := by unfold msixMasked; rw [hw, hfm, Bool.false_or]
    refine ⟨?_, fun hf => ?_, fun hf => ?_⟩
    · unfold msixWord at hw ⊢; rw [(messageHeld_msix f v x).1]; exact hw
    · obtain ⟨h1, h2⟩ := messageHeld_goes (hmask.trans hf)
      rw [hp, ho] at h2
      exact ⟨h1, h2⟩
    · rw [messageHeld_stays (hmask.trans hf)]
      exact ⟨ho, hp⟩
  · obtain ⟨hf, hfm, hp, hw⟩ := fnUnmasked_parts f (advance t s)
    have e : exec (.msixUnmask t f none) s = .next (forEach (((fnUnmasked f (advance t s)).ic.pba.filter fun p =>
        p.1 / 2048 == f.toNat).map fun p => p.1 % 2048) (messageHeld f) (fnUnmasked f (advance t s))) := rfl
    generalize fnUnmasked f (advance t s) = x at e hf hfm hp hw
    rw [advance_ic] at hp
    have hw : msixWord x f v 3 = msixWord s f v 3 := (hw v).trans (by unfold msixWord; rw [advance_ic])
    have hmask : msixMasked x f v = (msixWord s f v 3).getLsbD 0 := by unfold msixMasked; rw [hfm, hw, Bool.or_false]
    refine ⟨_, e, ?_, fun hpba hm => ?_, fun hm => ?_⟩
    · rw [forEach_keeps (fun z : State => tabGet false z.ic.fmask f.toNat) _ (messageHeld f)
        (fun a z => by rw [(messageHeld_msix f a z).2]) x]
      exact hfm
    · have hmem : v ∈ (x.ic.pba.filter fun p => p.1 / 2048 == f.toNat).map fun p => p.1 % 2048 := by
        obtain ⟨p, hpm, hpk⟩ := mem_of_tabGet (show tabGet false x.ic.pba (vecKey f v) ≠ false by rw [hp, hpba]; decide)
        refine List.mem_map.mpr ⟨p, List.mem_filter.mpr ⟨hpm, ?_⟩, ?_⟩
        · rw [hpk]; simp only [vecKey, beq_iff_eq]; omega
        · rw [hpk]; simp only [vecKey]; omega
      obtain ⟨hs, hc⟩ := (messagesHeld_go _ (hmask.trans hm)).2 hmem (by rw [hp]; exact hpba)
      exact ⟨(hs.after hf).after (advance_frame t s), hc⟩
    · rw [messagesHeld_stay _ (hmask.trans hm), hp]

end Sys2Proof.Machine
end

section
/-!
Spill queues (O45)
-/

namespace Sys2Proof.Machine
set_option Elab.async false

/-! ## Spill queues (O45) -/

theorem spillOf_of {s u : State} (h : u.spill = s.spill) (q : Nat) : spillOf u q = spillOf s q := by unfold spillOf; rw [h]

theorem canBatch_stopped {v : Spill} (h : v.unit.st ≠ .running) : canBatch v = false := by
  unfold canBatch
  split
  · rename_i e; exact absurd e h
  · rfl

/-- A consumer that cannot write leaves the queue alone. -/
theorem pump_idle {q : Nat} {s : State} (h : canBatch (spillOf s q) = false) (n : Nat) : pump q n s = s := by
  cases n with
  | zero => rfl
  | succ n =>
    unfold pump
    dsimp only
    rw [if_pos (by rw [h]; rfl)]

theorem pumpAll_idle {q : Nat} {s : State} (h : canBatch (spillOf s q) = false) : pumpAll q s = s := pump_idle h _

theorem closeFull_idle {q : Nat} {s : State} (h : canBatch (spillOf s q) = false) (n : Nat) : closeFull q n s = s := by
  cases n with
  | zero => rfl
  | succ n =>
    unfold closeFull
    dsimp only
    rw [if_neg (by rw [h]; exact Bool.false_ne_true)]

theorem pump_empty {q : Nat} {s : State} (h : (spillOf s q).queue = []) (n : Nat) : pump q n s = s := by
  cases n with
  | zero => rfl
  | succ n =>
    unfold pump
    dsimp only
    rw [if_pos (by rw [h]; simp [takeBatch])]

/-- The items of a queue whose consumer does not run are offered and nothing is written. -/
theorem offerItem_idle {q : Nat} {s : State} (words : List DWord) (h : (offerWhole s.tb words (spillOf s q)).unit.st ≠ .running) :
    pumpAll q (offerItem q words s) = setSpill q (offerWhole s.tb words (spillOf s q)) s := by
  have hc : canBatch (spillOf (setSpill q (offerWhole s.tb words (spillOf s q)) s) q) = false := by
    rw [spillOf_setSpill]; exact canBatch_stopped h
  unfold offerItem
  rw [closeFull_idle hc, pumpAll_idle hc]

theorem offerWhole_unit (t : Time) (words : List DWord) (v : Spill) : (offerWhole t words v).unit = v.unit := by
  have hp : (placeHeldGap v).unit = v.unit := by
    unfold placeHeldGap
    split
    · rfl
    · split <;> rfl
  unfold offerWhole
  extract_lets w
  have hd : (dropItem t w).unit = w.unit := by
    unfold dropItem
    extract_lets y
    split
    · rfl
    · split
      · rfl
      · split <;> rfl
  split
  · exact hp
  · rw [hd]; exact hp

/-- An item that is offered whole on a queue with no flush waiting and its consumer not running. -/
theorem itemEnd_idle {q : Nat} {words : List DWord} {s : State} (hp : (spillOf s q).part = none) (hf : (spillOf s q).flush = none)
    (hr : (spillOf s q).unit.st ≠ .running) (hw : words ≠ []) (hn : words.length ≤ 16) :
    ∃ x, itemEnd q words s = setSpill q (offerWhole s.tb words (spillOf s q)) x ∧ x.spill = (setSpill q (spillOf s q) s).spill := by
  have hv : { spillOf s q with part := none } = spillOf s q := by rw [← hp]
  have hx : spillOf (setSpill q (spillOf s q) s) q = spillOf s q := spillOf_setSpill _ _ _
  have hflush : flushRun q (setSpill q (spillOf s q) s) = setSpill q (spillOf s q) s := by
    unfold flushRun
    rw [hx]
    dsimp only
    rw [hf]
  unfold itemEnd
  rw [hv, hflush]
  dsimp only
  rw [if_neg (by simp [hw, hn]), offerItem_idle words (by rw [offerWhole_unit, hx]; exact hr), hx]
  exact ⟨_, rfl, rfl⟩

/-- No other queue changed. -/
def OtherSpills (q : Nat) (s u : State) : Prop := ∀ k, k ≠ q → spillOf u k = spillOf s k

theorem OtherSpills.set {q : Nat} {s x : State} (v : Spill) (h : OtherSpills q s x) : OtherSpills q s (setSpill q v x) :=
  fun k hk => (spillOf_setSpill_other q v x hk).trans (h k hk)

theorem OtherSpills.of_spill {q : Nat} {s u : State} (h : u.spill = s.spill) : OtherSpills q s u := fun k _ => spillOf_of h k

/-- A flush that takes effect while the consumer does not run. -/
theorem flushRun_idle {q n : Nat} {push : Bool} {s : State} (hf : (spillOf s q).flush = some (n, push))
    (hr : (spillOf s q).unit.st ≠ .running) :
    spillOf (flushRun q s) q = { flushEffect s.tb (spillOf s q) with pushing := (spillOf s q).pushing || push }
      ∧ OtherSpills q s (flushRun q s) := by
  have hu : ∀ p : Bool, canBatch { flushEffect s.tb (spillOf s q) with pushing := p } = false := fun p => by
    refine canBatch_stopped ?_
    unfold flushEffect; rw [hf]; exact hr
  unfold flushRun
  dsimp only
  rw [hf]
  dsimp only
  generalize hy : (if q < 64 then _ else _) = y
  have hs : y.spill = (setSpill q { flushEffect s.tb (spillOf s q) with pushing := (spillOf s q).pushing || push } s).spill := by
    rw [← hy]; split <;> rfl
  have hq : spillOf y q = { flushEffect s.tb (spillOf s q) with pushing := (spillOf s q).pushing || push } :=
    (spillOf_of hs q).trans (spillOf_setSpill _ _ _)
  rw [pumpAll_idle (by rw [hq]; exact hu _)]
  exact ⟨hq, fun k hk => (spillOf_of hs k).trans (spillOf_setSpill_other _ _ _ hk)⟩

theorem placeHeldGap_none {v : Spill} (h : v.gapHeld = none) : placeHeldGap v = v := by unfold placeHeldGap; rw [h]

/-- The one waiting item of a queue goes in a batch. -/
theorem writeBatch_one {q : Nat} {s : State} {i : Item} (hg : (spillOf s q).gapHeld = none) :
    OtherSpills q s (writeBatch q true [i] [] s)
      ∧ (writeBatch q true [i] [] s).out = .batch q ((spillOf s q).base + BitVec.ofNat 64 (4096 * (spillOf s q).tail))
        (batchOf q (spillOf s q) true [i]) :: s.out
      ∧ (spillOf (writeBatch q true [i] [] s) q).queue = []
      ∧ (spillOf (writeBatch q true [i] [] s) q).seq = (spillOf s q).seq + 1
      ∧ (spillOf (writeBatch q true [i] [] s) q).tail
        = (if (spillOf s q).tail = (spillOf s q).size then 0 else (spillOf s q).tail + 1)
      ∧ (spillOf (writeBatch q true [i] [] s) q).phase
        = if (spillOf s q).tail = (spillOf s q).size then !(spillOf s q).phase else (spillOf s q).phase := by
  unfold writeBatch
  dsimp only
  rw [placeHeldGap_none (by exact hg)]
  generalize hw : Spill.mk _ _ _ _ _ _ _ _ _ _ _ _ _ _ _ _ _ _ _ = w
  have e : ∀ o, spillOf (emit o (setSpill q w s)) q = w := fun o => spillOf_setSpill q w s
  refine ⟨fun k hk => spillOf_setSpill_other q w s hk, rfl, ?_⟩
  rw [e, ← hw]
  exact ⟨rfl, rfl, rfl, rfl⟩

theorem pumpAll_one {q : Nat} {s : State} {i : Item} (hc : canBatch (spillOf s q) = true) (hq : (spillOf s q).queue = [i])
    (hl : i.words.length ≤ batchWords) (hp : (spillOf s q).pushing = false) (hg : (spillOf s q).gapHeld = none)
    (hi : idleDue s (spillOf s q) = true) : pumpAll q s = writeBatch q true [i] [] s := by
  have hend : ∀ n, pump q n (writeBatch q true [i] [] s) = writeBatch q true [i] [] s := fun n =>
    pump_empty (writeBatch_one hg).2.2.1 n
  have htake : takeBatch batchWords [i] = ([i], []) := by simp [takeBatch, hl]
  unfold pumpAll
  rw [hq]
  unfold pump
  dsimp only
  rw [hq, htake]
  dsimp only
  rw [if_neg (by rw [hc]; exact Bool.false_ne_true),
    if_neg (show ¬(!List.isEmpty ([] : List Item)) = true from Bool.false_ne_true), hp, if_neg Bool.false_ne_true, if_pos hi]
  split
  · exact hend _
  · rename_i h
    rw [List.takeWhile_cons]
    split
    · exact hend _
    · rename_i hn
      exact absurd (by rw [List.takeWhile_cons, if_neg hn]; rfl) h

theorem spillOf_advance (t : Time) (s : State) (q : Nat) : spillOf (advance t s) q = spillOf s q := spillOf_of (advance_spill t s) q

/-- What a start of a stopped queue sets (R358). -/
theorem spillSettle_start {v : Spill} (h : v.unit.st = .stopped) :
    spillSettle { v with unit := unitEnable v.unit }
      = { v with unit := { st := .running, latch := none }, head := 0, tail := 0, seq := 0, phase := true, halted := false } := by
  simp [spillSettle, unitEnable, unitDone, h, spillBegin]

theorem spillSettle_stop {v : Spill} (h : v.unit.st = .running) :
    spillSettle { v with unit := unitDisable v.unit } = { v with unit := unitStopped } := by
  simp [spillSettle, unitDisable, unitDone, h, unitStopped]

theorem offerWhole_fits {t : Time} {words : List DWord} {v : Spill} (hg : v.gapHeld = none)
    (h : spillUsed v + words.length + 1 ≤ spillCapacity) :
    offerWhole t words v = { v with queue := v.queue ++ [{ kind := .data, words := words, at_ := t }], items := satInc v.items,
                                    gapOpen := false } := by
  unfold offerWhole
  rw [placeHeldGap_none hg]
  dsimp only
  rw [if_pos (by simp [h, hg])]

theorem offerWhole_drops {t : Time} {words : List DWord} {v : Spill} (hg : v.gapHeld = none) (ho : v.gapOpen = false)
    (h : spillCapacity < spillUsed v + words.length + 1) :
    (offerWhole t words v).drop = satInc v.drop ∧ (offerWhole t words v).items = v.items
      ∧ if spillUsed v < spillCapacity then (offerWhole t words v).queue = v.queue ++ [gapItem 1 t]
        else (offerWhole t words v).gapHeld = some (1, t) ∧ (offerWhole t words v).queue = v.queue := by
  have e : offerWhole t words v = dropItem t v := by
    unfold offerWhole
    rw [placeHeldGap_none hg]
    dsimp only
    rw [if_neg (by simp [hg]; omega)]
  rw [e]
  unfold dropItem
  dsimp only
  rw [ho, if_neg Bool.false_ne_true, hg]
  dsimp only
  split
  · rename_i hs
    rw [if_pos (show spillUsed v < spillCapacity from hs)]; exact ⟨rfl, rfl, rfl⟩
  · rename_i hs
    rw [if_neg (show ¬spillUsed v < spillCapacity from hs)]; exact ⟨rfl, rfl, rfl, rfl⟩

/-- What a flush that discards leaves. -/
theorem flushEffect_discards {v : Spill} {n : Nat} (hf : v.flush = some (n, false)) (t : Time) :
    flushEffect t v =
      { v with queue := v.queue.drop (min n v.queue.length) ++ [{ kind := .mark, words := [t, BitVec.ofNat 64
          (min n v.queue.length + (match v.gapHeld with | none => 0 | some (k, _) => k) * 2 ^ 32)], at_ := t }],
               flushed := satAdd v.flushed (min n v.queue.length), gapHeld := none, gapOpen := false, flush := none } := by
  unfold flushEffect
  rw [hf]
  rfl

/-- A write of FLUSH between items takes effect at once. -/
theorem flushRequest_now {q : Nat} {s : State} (hp : (spillOf s q).part = none) (hf : (spillOf s q).flush = none) :
    flushRequest q false s
      = flushRun q (setSpill q { spillOf s q with flush := some ((spillOf s q).queue.length, false) } s) := by
  unfold flushRequest
  dsimp only
  rw [hf, if_neg (by decide), if_pos (by unfold betweenItems; rw [hp]; rfl)]

theorem flushRequest_waits {q : Nat} {s : State} {l : List DWord} (hp : (spillOf s q).part = some l)
    (hf : (spillOf s q).flush = none) :
    flushRequest q false s = setSpill q { spillOf s q with flush := some ((spillOf s q).queue.length, false) } s := by
  unfold flushRequest
  dsimp only
  rw [hf, if_neg (by decide), if_neg (by unfold betweenItems; rw [hp]; exact Bool.false_ne_true)]

/-- An offer of a whole item between items. -/
theorem execItemOffer_whole {q : Nat} {s : State} (h : (spillOf s q).part = none) (t : Time) (words : List DWord) :
    exec (.itemOffer t q .whole words) s = .next (itemEnd q words (advance t s)) := by
  change execItemOffer t q .whole words s = _
  unfold execItemOffer
  dsimp only
  rw [spillOf_advance, h]

theorem execItemOffer_begin {q : Nat} {s : State} (h : (spillOf s q).part = none) (t : Time) {words : List DWord}
    (hw : words ≠ []) :
    exec (.itemOffer t q .begin_ words) s = .next (setSpill q { spillOf s q with part := some words } (advance t s)) := by
  change execItemOffer t q .begin_ words s = _
  unfold execItemOffer
  dsimp only
  rw [spillOf_advance, h]
  dsimp only
  rw [if_neg (by simpa using hw)]

theorem execSpillFlush_live {t : Time} {s : State} (h : regsLive (advance t s) = true) (q : Nat) :
    exec (.spillFlush t q) s = .next (flushRequest q false (advance t s)) := by
  change Host.Outcome.next (if regsLive (advance t s) then _ else _) = _
  rw [h]; rfl

/-- A write of HEAD by what it would release. -/
theorem execSpillHeadWrite_live {t : Time} {s : State} (h : regsLive (advance t s) = true) (q : Nat) (value : Word) :
    exec (.spillHeadWrite t q value) s =
      .next (if (spillOf s q).size + 1 ≤ bits value 0 16
          ∨ unreleased (spillOf s q) < (bits value 0 16 + ((spillOf s q).size + 1) - (spillOf s q).head) % ((spillOf s q).size + 1)
        then advance t s else pumpAll q (setSpill q { spillOf s q with head := bits value 0 16 } (advance t s))) := by
  change Host.Outcome.next (if regsLive (advance t s) then headWrite q (bits value 0 16) (advance t s) else _) = _
  rw [h, if_pos rfl]
  unfold headWrite
  rw [spillOf_advance]

/-- Settles O45: items, flushes and batches by what the queue holds; a consumer that does not run writes nothing. -/
theorem spillQueues : Obligations.SpillQueues := by
  unfold Obligations.SpillQueues
  intro t q s v tb alone
  have hv : spillOf (advance t s) q = v := spillOf_advance t s q
  have hlive : regsLive (advance t s) = regsLive s := read_advance regsLive (fun _ _ => rfl) t s
  have ha : OtherSpills q s (advance t s) := .of_spill (advance_spill t s)
  have htrans : ∀ u, OtherSpills q (advance t s) u → alone u := fun u h k hk => (h k hk).trans (ha k hk)
  have htb : tb = (advance t s).tb := rfl
  have hset : ∀ w, alone (setSpill q w (advance t s)) := fun w => ha.set w
  refine ⟨fun hp hf hg hr => ⟨fun words hw hn => ?_, fun hl => ?_⟩, fun l hp hf hl => ?_, fun n hf hr => ⟨fun hp => ?_, fun l hp => ?_⟩,
    fun i hc hq hw hps hg hi => ?_, fun value hl hr => ?_, fun hl hst hq => ?_, fun hl hr => ?_, fun hr => ?_, fun hr => ?_⟩
  · obtain ⟨y, hy, hys⟩ := itemEnd_idle (s := advance t s) (hv ▸ hp) (hv ▸ hf) (hv ▸ hr) hw hn
    have e := execItemOffer_whole (s := s) hp t words
    rw [hv] at hy hys
    rw [hy] at e
    have hal : ∀ w, alone (setSpill q w y) := fun w k hk =>
      (spillOf_setSpill_other q w y hk).trans ((spillOf_of hys k).trans (hset v k hk))
    refine ⟨fun hfit => ⟨_, e, hal _, ?_⟩, fun hfull ho => ⟨_, e, hal _, ?_⟩,
      ⟨_, execItemOffer_begin (s := s) hp t hw, spillOf_setSpill _ _ _, hset _⟩⟩
    · rw [spillOf_setSpill, offerWhole_fits hg hfit]; exact ⟨rfl, rfl, rfl⟩
    · rw [spillOf_setSpill]; exact offerWhole_drops hg ho hfull
  · have e := execSpillFlush_live (hlive.trans hl) q
    rw [flushRequest_now (hv ▸ hp) (hv ▸ hf), hv] at e
    obtain ⟨h1, h2⟩ := flushRun_idle (s := setSpill q { v with flush := some (v.queue.length, false) } (advance t s)) (q := q)
      (by rw [spillOf_setSpill]) (by rw [spillOf_setSpill]; exact hr)
    refine ⟨_, e, fun k hk => (h2 k hk).trans (hset _ k hk), ?_⟩
    rw [h1, spillOf_setSpill, flushEffect_discards rfl]
    dsimp only
    rw [hg]
    rw [htb]
    simp
  · have e := execSpillFlush_live (hlive.trans hl) q
    rw [flushRequest_waits (hv ▸ hp) (hv ▸ hf), hv] at e
    exact ⟨_, e, spillOf_setSpill _ _ _, hset _⟩
  · have e : exec (.spillFlushEffect t q) s = .next (flushRun q (advance t s)) := by
      change Host.Outcome.next (if betweenItems (spillOf (advance t s) q) then _ else _) = _
      rw [hv, if_pos (by unfold betweenItems; rw [hp]; rfl)]
    obtain ⟨h1, h2⟩ := flushRun_idle (s := advance t s) (q := q) (hv ▸ hf) (hv ▸ hr)
    refine ⟨_, e, ?_, htrans _ h2, ?_⟩
    · rw [h1, hv, flushEffect_discards hf]
    · rw [h1, hv, flushEffect_discards hf]
      simp
  · change Host.Outcome.next (if betweenItems (spillOf (advance t s) q) then _ else _) = _
    rw [hv, if_neg (by unfold betweenItems; rw [hp]; exact Bool.false_ne_true)]
  · have e : exec (.batchIdleTimeout t q) s = .next (pumpAll q (advance t s)) := rfl
    rw [pumpAll_one (hv ▸ hc) (hv ▸ hq) hw (hv ▸ hps) (hv ▸ hg) (hv.symm ▸ hi)] at e
    obtain ⟨h1, h2, h3⟩ := writeBatch_one (s := advance t s) (q := q) (i := i) (hv ▸ hg)
    rw [hv, advance_out] at h2
    rw [hv] at h3
    exact ⟨_, e, htrans _ h1, h2, h3⟩
  · have e := execSpillHeadWrite_live (hlive.trans hl) q value
    intro n
    refine ⟨fun hn hu => ?_, fun h => ?_⟩
    · rw [if_neg (not_or.mpr ⟨Nat.not_le.mpr (Nat.lt_succ_of_le hn), Nat.not_lt.mpr hu⟩),
        pumpAll_idle (by rw [spillOf_setSpill]; exact canBatch_stopped hr)] at e
      exact ⟨_, e, spillOf_setSpill _ _ _, hset _⟩
    · exact e.trans (congrArg Host.Outcome.next (if_pos h))
  · have e : exec (.spillStart t q) s = .next (spillEnable q (advance t s)) := by
      change Host.Outcome.next (if regsLive (advance t s) then _ else _) = _
      rw [hlive, hl]; rfl
    unfold spillEnable pumpAll at e
    dsimp only at e
    rw [hv, spillSettle_start hst, pump_empty (by rw [spillOf_setSpill]; exact hq)] at e
    exact ⟨_, e, hset _, spillOf_setSpill _ _ _⟩
  · have e : exec (.spillStop t q) s = .next (spillDisable q (advance t s)) := by
      change Host.Outcome.next (if regsLive (advance t s) then _ else _) = _
      rw [hlive, hl]; rfl
    unfold spillDisable at e
    dsimp only at e
    rw [hv, spillSettle_stop hr] at e
    exact ⟨_, e, hset _, spillOf_setSpill _ _ _⟩
  · have e : exec (.spillConsumerHalt t q) s = .next (setSpill q { v with halted := true } (advance t s)) := by
      change execSpillConsumerHalt t q s = _
      unfold execSpillConsumerHalt
      dsimp only
      rw [hv, hr]
    exact ⟨_, e, spillOf_setSpill _ _ _, hset _⟩
  · change execSpillConsumerHalt t q s = _
    unfold execSpillConsumerHalt
    dsimp only
    rw [hv]
    split
    · rename_i k; exact absurd k hr
    · rfl

end Sys2Proof.Machine
end

section
/-!
The stroke schedule (O46)
-/

namespace Sys2Proof.Machine
set_option Elab.async false

/-! ## The stroke schedule (O46) -/

/-! ### What a mode change leaves of the trim engine -/

theorem foldl_keeps {α β : Type} (p : State → β) (op : State → α → State) (h : ∀ a x, p (op x a) = p x) (l : List α) (s : State) :
    p (l.foldl op s) = p s := by
  induction l generalizing s with
  | nil => rfl
  | cons a r ih => rw [List.foldl_cons, ih, h]

/-- The trim engine but for its slots. -/
def ceRest (s : State) : Trim := { s.ce with slots := [] }

theorem ceRest_setSlot (i : Nat) (v : Slot) (s : State) : ceRest (setSlot i v s) = ceRest s := rfl

theorem ceRest_of_ce {s u : State} (h : u.ce = s.ce) : ceRest u = ceRest s := by unfold ceRest; rw [h]

theorem stopCustom_ceRest (m : Mode) (s : State) : ceRest (stopCustom m s) = ceRest s := by
  unfold stopCustom
  split
  · rfl
  · refine foldl_keeps ceRest _ (fun a x => ?_) _ s
    split <;> rfl

theorem modeLoops_ceRest (m : Mode) (s : State) : ceRest (modeLoops m s) = ceRest s := by
  unfold modeLoops
  split
  · rfl
  · refine foldl_keeps ceRest _ (fun a x => ?_) _ s
    dsimp only
    split
    · rfl
    · split <;> rfl

theorem setMode_ceRest (m : Mode) (s : State) : ceRest (setMode m s) = ceRest s := by
  unfold setMode
  split
  · rfl
  · rw [ceRest_of_ce (senseFast_frame _ _).ce_eq, ceRest_of_ce (pulseInternal_frame _ _).ce_eq, modeLoops_ceRest, stopCustom_ceRest]
    rfl

/-- What an overrun looks at of a slot. -/
def slotRunKey (s : State) (k : Nat) : Option Latched × Nat × Bool := ((slotOf s k).run, (slotOf s k).ovrRun, slotCrit (slotOf s k))

theorem slotRunKey_of_ce {s u : State} (h : u.ce = s.ce) (k : Nat) : slotRunKey u k = slotRunKey s k := by
  unfold slotRunKey slotOf; rw [h]

theorem slotCrit_slotStop (v : Slot) : slotCrit (slotStop v) = slotCrit v := by
  simp [slotCrit, slotStop]

theorem stopCustom_runKey (m : Mode) (s : State) (k : Nat) : slotRunKey (stopCustom m s) k = slotRunKey s k := by
  unfold stopCustom
  split
  · rfl
  · refine foldl_keeps (slotRunKey · k) _ (fun a x => ?_) _ s
    split
    · by_cases hk : k = a
      · subst hk
        unfold slotRunKey
        rw [slotOf_setSlot, slotCrit_slotStop]
        rfl
      · unfold slotRunKey; rw [slotOf_setSlot_other _ _ _ hk]
    · rfl

theorem setMode_hold_runKey (s : State) (k : Nat) : slotRunKey (setMode .hold s) k = slotRunKey s k := by
  unfold setMode
  split
  · rfl
  · rw [slotRunKey_of_ce (senseFast_frame _ _).ce_eq, slotRunKey_of_ce (pulseInternal_frame _ _).ce_eq]
    unfold modeLoops modeSlots
    exact stopCustom_runKey _ _ k

/-- Entry to HOLD stops custom slots, and leaves what an overrun looks at. -/
theorem enterHold_ce (s : State) :
    ceRest (enterHold s) = ceRest s ∧ ∀ k, slotRunKey (enterHold s) k = slotRunKey s k := by
  have h0 : ∀ x, x.ce = (setMode .hold (endSessions (dropBurst s))).ce → ceRest x = ceRest s ∧ ∀ k, slotRunKey x k = slotRunKey s k := by
    intro x hx
    have he : (endSessions (dropBurst s)).ce = s.ce := (endSessions_frame _).ce_eq.trans (dropBurst_frame _).ce_eq
    exact ⟨by rw [ceRest_of_ce hx, setMode_ceRest, ceRest_of_ce he],
      fun k => by rw [slotRunKey_of_ce hx, setMode_hold_runKey, slotRunKey_of_ce he]⟩
  apply h0
  unfold enterHold
  extract_lets s1 s2 s3 s4 _ s5
  have h5 : s5.ce = s4.ce := by clear_value s4; rfl
  clear_value s5
  rw [(holdCommands_frame s5).ce_eq, h5, (closeGates_frame s3).ce_eq, (event_frame 0 0 0x19 _ s2).ce_eq]

theorem holdCause_ce (b : Nat) (s : State) :
    ceRest (holdCause b s) = ceRest s ∧ ∀ k, slotRunKey (holdCause b s) k = slotRunKey s k := by
  unfold holdCause
  dsimp only
  split
  · exact ⟨ceRest_of_ce rfl, slotRunKey_of_ce rfl⟩
  · exact enterHold_ce _

/-! ### An overrun -/

/-- The counts and the arming of the engine. -/
def ceClock (s : State) : DWord × Time × Option (Nat × Nat × Bool) × Bool := (s.ce.cnt, s.ce.tb, s.ce.swap, s.ce.holdOn)

theorem ceClock_of_rest {s u : State} (h : ceRest u = ceRest s) : ceClock u = ceClock s := by
  have e : ∀ x : State, ceClock x = ((ceRest x).cnt, (ceRest x).tb, (ceRest x).swap, (ceRest x).holdOn) := fun _ => rfl
  rw [e, e, h]

theorem clock_parts {s : State} {n : DWord} {tb : Time} {w : Option (Nat × Nat × Bool)} {on : Bool} (h : ceClock s = (n, tb, w, on)) :
    s.ce.cnt = n ∧ s.ce.tb = tb ∧ s.ce.swap = w ∧ s.ce.holdOn = on := by
  simpa [ceClock] using h

theorem ceClock_of_ce {s u : State} (h : u.ce = s.ce) : ceClock u = ceClock s := by unfold ceClock; rw [h]

theorem slotOf_of_slots {s u : State} (h : u.ce.slots = s.ce.slots) (k : Nat) : slotOf u k = slotOf s k := by
  unfold slotOf; rw [h]

theorem slotOf_of_ce {s u : State} (h : u.ce = s.ce) (k : Nat) : slotOf u k = slotOf s k := slotOf_of_slots (by rw [h]) k

theorem slotOpen_iff {s : State} {k : Nat} :
    slotOpen s k = true ↔ (k ∈ s.ce.ready ∨ ∃ p ∈ s.ce.waiting, p.1 = k) ∨ (slotOf s k).run.isSome = true := by
  simp [slotOpen]

/-- A slot that overran (R302). -/
def overran (v : Slot) : Slot := { v with run := none, overrun := true, ovr := satInc v.ovr, ovrRun := min 255 (v.ovrRun + 1) }

/-- An overrun before it is a HOLD cause. -/
def overrunBase (i : Nat) (s : State) : State :=
  let v := slotOf s i
  let s := setSlot i (overran v) s
  let s := { s with ce := { s.ce with
    ready := s.ce.ready.filter fun k => k != i
    waiting := s.ce.waiting.filter fun p => p.1 != i
    ovrAny := s.ce.ovrAny ||| BitVec.ofNat 64 (2 ^ i) } }
  senseFast 5 (releaseWaiting i (capture i v.dueTb v.dueCnt 2 s))

theorem slotOverrun_eq (i : Nat) (s : State) :
    slotOverrun i s = if slotCrit (slotOf s i) ∧ (slotOf s i).ovrRun + 1 = 3 then holdCause 0 (overrunBase i s) else overrunBase i s := rfl

theorem Frame.upd_ce (s : State) (v : Trim) : Frame [.ce] s { s with ce := v } := by
  refine ⟨fun b hb => ?_, List.suffix_refl _⟩
  cases b <;> first | exact absurd (by decide) hb | exact refs_id rfl | rfl

/-- A table whose entries change behind their keys has the same keys. -/
theorem exists_map_fst {α : Type} {g : Nat × α → Nat × α} (hg : ∀ p, (g p).1 = p.1) (l : List (Nat × α)) (k : Nat) :
    (∃ p ∈ l.map g, p.1 = k) ↔ ∃ p ∈ l, p.1 = k := by
  constructor
  · rintro ⟨_, hp, hk⟩
    obtain ⟨p, hpl, rfl⟩ := List.mem_map.mp hp
    exact ⟨p, hpl, (hg p).symm.trans hk⟩
  · rintro ⟨p, hp, hk⟩
    exact ⟨g p, List.mem_map_of_mem hp, (hg p).trans hk⟩

/-- What is queued of a slot other than the one that is released is queued still. -/
theorem releaseWaiting_queued {i k : Nat} (s : State) :
    (k ∈ (releaseWaiting i s).ce.ready ∨ ∃ p ∈ (releaseWaiting i s).ce.waiting, p.1 = k)
      ↔ (k ∈ s.ce.ready ∨ ∃ p ∈ s.ce.waiting, p.1 = k) := by
  unfold releaseWaiting
  extract_lets w
  dsimp only
  rw [mem_sortBy, List.mem_append, List.mem_map]
  have hw : (∃ p ∈ w, p.1 = k) ↔ ∃ p ∈ s.ce.waiting, p.1 = k :=
    exists_map_fst (g := fun p => (p.1, p.2.filter fun k => k != i)) (fun _ => rfl) s.ce.waiting k
  rw [← hw, or_assoc]
  refine or_congr_right ⟨?_, ?_⟩
  · rintro (⟨p, hp, he⟩ | ⟨p, hp, he⟩) <;> exact ⟨p, (List.mem_filter.mp hp).1, he⟩
  · rintro ⟨p, hp, he⟩
    by_cases h : p.2.isEmpty = true
    · exact .inl ⟨p, List.mem_filter.mpr ⟨hp, h⟩, he⟩
    · exact .inr ⟨p, List.mem_filter.mpr ⟨hp, by simp [h]⟩, he⟩

/-- What an overrun leaves, but for a HOLD cause. -/
structure OverrunOf (i : Nat) (s y : State) : Prop where
  frame : Frame [.ce, .ic, .spill, .out] s y
  clock : ceClock y = ceClock s
  slot : slotOf y i = overran (slotOf s i)
  others : ∀ k, k ≠ i → slotOf y k = slotOf s k
  opens : ∀ k, k ≠ i → slotOpen y k = slotOpen s k
  closed : slotOpen y i = false
  any : y.ce.ovrAny = s.ce.ovrAny ||| BitVec.ofNat 64 (2 ^ i)

theorem overrunBase_parts (i : Nat) (s : State) : OverrunOf i s (overrunBase i s) := by
  obtain ⟨x, hx⟩ : ∃ x : State, x = { setSlot i (overran (slotOf s i)) s with ce := { (setSlot i (overran (slotOf s i)) s).ce with
    ready := s.ce.ready.filter fun k => k != i
    waiting := s.ce.waiting.filter fun p => p.1 != i
    ovrAny := s.ce.ovrAny ||| BitVec.ofNat 64 (2 ^ i) } } := ⟨_, rfl⟩
  have e : overrunBase i s = senseFast 5 (releaseWaiting i (capture i (slotOf s i).dueTb (slotOf s i).dueCnt 2 x)) := by rw [hx]; rfl
  have fx : Frame [.ce] s x := by rw [hx]; exact (Frame.upd_ce _ _).comp (setSlot_frame _ _ _) (by decide)
  have hc : (capture i (slotOf s i).dueTb (slotOf s i).dueCnt 2 x).ce = x.ce := (capture_frame _ _ _ _ _).ce_eq
  have hs : ∀ k, slotOf x k = slotOf (setSlot i (overran (slotOf s i)) s) k := fun k => by rw [hx]; rfl
  have hk : ceClock x = ceClock s := by rw [hx]; rfl
  have hr : x.ce.ready = s.ce.ready.filter (fun k => k != i) ∧ x.ce.waiting = s.ce.waiting.filter (fun p => p.1 != i)
      ∧ x.ce.ovrAny = s.ce.ovrAny ||| BitVec.ofNat 64 (2 ^ i) := by rw [hx]; exact ⟨rfl, rfl, rfl⟩
  have f : Frame [.ce, .ic, .spill, .out] s (overrunBase i s) := by
    rw [e]
    exact (senseFast_frame _ _).comp ((releaseWaiting_frame _ _).comp ((capture_frame _ _ _ _ _).comp (fx.widen (by decide))
      (by decide)) (by decide)) (by decide)
  clear hx
  generalize hz : capture i (slotOf s i).dueTb (slotOf s i).dueCnt 2 x = z at e hc
  have hce : (overrunBase i s).ce = (releaseWaiting i z).ce := by rw [e]; exact (senseFast_frame _ _).ce_eq
  have hslot : ∀ k, slotOf (overrunBase i s) k = slotOf (setSlot i (overran (slotOf s i)) s) k := fun k => by
    rw [slotOf_of_ce hce, ← hs]
    exact slotOf_of_slots (show (releaseWaiting i z).ce.slots = x.ce.slots by rw [← hc]; rfl) k
  have hq : ∀ k, (k ∈ (overrunBase i s).ce.ready ∨ ∃ p ∈ (overrunBase i s).ce.waiting, p.1 = k)
      ↔ k ≠ i ∧ (k ∈ s.ce.ready ∨ ∃ p ∈ s.ce.waiting, p.1 = k) := fun k => by
    rw [hce, releaseWaiting_queued, hc, hr.1, hr.2.1]
    simp only [List.mem_filter, bne_iff_ne, ne_eq]
    constructor
    · rintro (⟨h1, h2⟩ | ⟨p, ⟨h1, h2⟩, rfl⟩)
      · exact ⟨h2, .inl h1⟩
      · exact ⟨h2, .inr ⟨p, h1, rfl⟩⟩
    · rintro ⟨h2, h1 | ⟨p, h1, rfl⟩⟩
      · exact .inl ⟨h1, h2⟩
      · exact .inr ⟨p, ⟨h1, h2⟩, rfl⟩
  refine ⟨f, ?_, ?_, ?_, ?_, ?_, ?_⟩
  · rw [ceClock_of_ce hce, ← hk]
    exact (show ceClock (releaseWaiting i z) = ceClock z from rfl).trans (ceClock_of_ce hc)
  · rw [hslot, slotOf_setSlot]
  · exact fun k h => by rw [hslot, slotOf_setSlot_other _ _ _ h]
  · intro k h
    rw [Bool.eq_iff_iff, slotOpen_iff, slotOpen_iff, hq, hslot, slotOf_setSlot_other _ _ _ h]
    simp [h]
  · rw [← Bool.not_eq_true, slotOpen_iff, hq, hslot, slotOf_setSlot]
    simp [overran]
  · rw [hce, ← hr.2.2, ← hc]; rfl

/-- The first pass over the due slots: the open ones overrun. -/
def overrunIf (i : Nat) (s : State) : State := if slotOpen s i then slotOverrun i s else s

/-- The slots of a list that were open overran, and no other slot changed. -/
structure Overruns (l : List Nat) (s y : State) : Prop where
  frame : Frame [.ce, .ic, .spill, .out] s y
  clock : ceClock y = ceClock s
  slot : ∀ k, slotOf y k = if k ∈ l ∧ slotOpen s k = true then overran (slotOf s k) else slotOf s k
  any : ∀ k, k ∈ l → slotOpen s k = true → y.ce.ovrAny.getLsbD k = decide (k < 64)
  keeps : ∀ k, s.ce.ovrAny.getLsbD k = true → y.ce.ovrAny.getLsbD k = true

theorem getLsbD_twoPow (i k : Nat) : (BitVec.ofNat 64 (2 ^ i)).getLsbD k = (decide (k < 64) && decide (i = k)) := by
  rw [BitVec.getLsbD_ofNat, Nat.testBit_two_pow]

/-- Overruns of slots none of which is critical. -/
theorem overruns_calm {l : List Nat} (hl : l.Nodup) {s : State} (hc : ∀ k, slotCrit (slotOf s k) = true → slotOpen s k = false) :
    Overruns l s (forEach l overrunIf s) := by
  induction l generalizing s with
  | nil => exact ⟨Frame.refl _ _, rfl, fun k => by simp [forEach_nil], fun k h => (List.not_mem_nil h).elim, fun k h => h⟩
  | cons i r ih =>
    obtain ⟨hi, hr⟩ := List.nodup_cons.mp hl
    rw [forEach_cons]
    by_cases ho : slotOpen s i = true
    · have hcr : slotCrit (slotOf s i) = false := by
        cases h : slotCrit (slotOf s i) with
        | false => rfl
        | true => rw [hc i h] at ho; cases ho
      have e : overrunIf i s = overrunBase i s := by
        unfold overrunIf
        rw [if_pos ho, slotOverrun_eq, if_neg (by rw [hcr]; simp)]
      have b := overrunBase_parts i s
      rw [e]
      have hcalm : ∀ k, slotCrit (slotOf (overrunBase i s) k) = true → slotOpen (overrunBase i s) k = false := fun k h => by
        by_cases hk : k = i
        · subst hk; exact b.closed
        · rw [b.opens k hk]; rw [b.others k hk] at h; exact hc k h
      have o := ih hr hcalm
      have hany : ∀ k, (overrunBase i s).ce.ovrAny.getLsbD k
          = (s.ce.ovrAny.getLsbD k || (decide (k < 64) && decide (i = k))) := fun k => by
        rw [b.any, BitVec.getLsbD_or, getLsbD_twoPow]
      refine ⟨o.frame.comp b.frame (by decide), o.clock.trans b.clock, fun k => ?_, fun k hk hop => ?_, fun k h => ?_⟩
      · rw [o.slot]
        by_cases hk : k = i
        · subst hk
          rw [if_neg (fun h => hi h.1), b.slot, if_pos ⟨List.mem_cons_self, ho⟩]
        · rw [b.opens k hk, b.others k hk]
          simp [hk]
      · by_cases hk' : k = i
        · subst hk'
          by_cases h64 : k < 64
          · rw [decide_eq_true h64]; exact o.keeps k (by rw [hany]; simp [h64])
          · rw [decide_eq_false h64]; exact BitVec.getLsbD_of_ge _ _ (Nat.not_lt.mp h64)
        · exact o.any k ((List.mem_cons.mp hk).resolve_left hk') (by rw [b.opens k hk']; exact hop)
      · exact o.keeps k (by rw [hany, h]; rfl)
    · have e : overrunIf i s = s := if_neg ho
      rw [e]
      have o := ih hr hc
      refine ⟨o.frame, o.clock, fun k => ?_, fun k hk hop => ?_, o.keeps⟩
      · rw [o.slot]
        by_cases hk : k = i
        · subst hk; simp [ho]
        · simp [hk]
      · exact o.any k ((List.mem_cons.mp hk).resolve_left (fun hk' => ho (hk' ▸ hop))) hop

/-! ### Slots that stop, skip or go -/

/-- An operation that changes one slot, and of the trim engine nothing else. -/
structure SlotStep (i : Nat) (g : Slot → Slot) (s y : State) : Prop where
  frame : Frame [.ce, .tt, .sp, .ic, .spill, .out] s y
  rest : ceRest y = ceRest s
  tt : y.tt.unit = s.tt.unit
  slot : slotOf y i = g (slotOf s i)
  others : ∀ k, k ≠ i → slotOf y k = slotOf s k

/-- The clocks that the passes over the due slots read. -/
def SameBeat (s x : State) : Prop := x.tb = s.tb ∧ ceRest x = ceRest s ∧ x.tt.unit = s.tt.unit

theorem SameBeat.step {s x y : State} {i : Nat} {g : Slot → Slot} (h : SameBeat s x) (k : SlotStep i g x y) : SameBeat s y :=
  ⟨k.frame.tb_eq.trans h.1, k.rest.trans h.2.1, k.tt.trans h.2.2⟩

/-- A pass that changes each slot of a list. -/
structure SlotPass (l : List Nat) (g : Nat → Slot → Slot) (s y : State) : Prop where
  frame : Frame [.ce, .tt, .sp, .ic, .spill, .out] s y
  beat : SameBeat s y
  slot : ∀ k, slotOf y k = if k ∈ l then g k (slotOf s k) else slotOf s k

theorem forEach_slotPass {op : Nat → State → State} {g : Nat → Slot → Slot} {s0 : State}
    (h : ∀ i x, SameBeat s0 x → SlotStep i (g i) x (op i x)) {l : List Nat} (hl : l.Nodup) {s : State} (hs : SameBeat s0 s) :
    SlotPass l g s (forEach l op s) := by
  induction l generalizing s with
  | nil => exact ⟨Frame.refl _ _, ⟨rfl, rfl, rfl⟩, fun k => by simp [forEach_nil]⟩
  | cons i r ih =>
    obtain ⟨hi, hr⟩ := List.nodup_cons.mp hl
    have k := h i s hs
    have o := ih hr (hs.step k)
    rw [forEach_cons]
    refine ⟨o.frame.comp k.frame (by decide),
      ⟨o.beat.1.trans k.frame.tb_eq, o.beat.2.1.trans k.rest, o.beat.2.2.trans k.tt⟩, fun j => ?_⟩
    rw [o.slot]
    by_cases hj : j = i
    · subst hj; simp [hi, k.slot]
    · simp [hj, k.others j hj]

/-- A slot that has stopped (R300, R49). -/
def halted (v : Slot) : Slot :=
  let w : Slot := { v with unit := unitDone v.unit, ovrRun := 0 }
  match w.unit.st with | .starting => slotArm w | _ => w

theorem telltaleSettle_running {s : State} (h : s.tt.unit.st ≠ .stopping) : telltaleSettle s = s := by
  unfold telltaleSettle
  rw [if_neg (fun k => h k.1)]

/-- While the Telltale does not stop, a boundary without injection is only taken off its account. -/
theorem telltalePast_running {i : Nat} {s : State} (h : s.tt.unit.st ≠ .stopping) :
    telltalePast i s = { s with tt := { s.tt with left := s.tt.left.filter fun k => k != i } } := by
  unfold telltalePast
  exact telltaleSettle_running h

theorem telltalePast_frame_running {i : Nat} {s : State} (h : s.tt.unit.st ≠ .stopping) : Frame [.tt] s (telltalePast i s) := by
  rw [telltalePast_running h]; exact Frame.upd_tt _ _

theorem telltalePast_unit_running {i : Nat} {s : State} (h : s.tt.unit.st ≠ .stopping) :
    (telltalePast i s).tt.unit = s.tt.unit := by rw [telltalePast_running h]

theorem sendWord_sent (w : Nat) (x : Word) (s : State) : Sent s (sendWord w x s) (.packet (w / 4) (w % 4) x) :=
  ⟨[.packet (w / 4) (w % 4) x], rfl, List.mem_singleton_self _⟩

/-- The SAFE word of a slot that stops, where it has a destination. -/
def safeSent (v : Slot) (s : State) : State :=
  if v.regs.out.getLsbD 7 ∧ bits v.regs.out 0 7 < 96 then sendWord (bits v.regs.out 0 7) v.regs.safe s else s

theorem safeSent_frame (v : Slot) (s : State) : Frame [.sp, .out] s (safeSent v s) := by
  unfold safeSent
  split
  · exact sendWord_frame _ _ _
  · exact Frame.refl _ _

theorem slotHalt_eq (i : Nat) (s : State) :
    slotHalt i s = telltalePast i (senseFast 5 (safeSent (slotOf s i) (setSlot i (halted (slotOf s i)) s))) := rfl

theorem slotHalt_step {i : Nat} {s : State} (h : s.tt.unit.st ≠ .stopping) : SlotStep i halted s (slotHalt i s) := by
  rw [slotHalt_eq]
  have f1 : Frame [.ce, .sp, .ic, .out] s (senseFast 5 (safeSent (slotOf s i) (setSlot i (halted (slotOf s i)) s))) :=
    (senseFast_frame _ _).comp ((safeSent_frame _ _).comp ((setSlot_frame _ _ _).widen (by decide)) (by decide)) (by decide)
  have hce : (senseFast 5 (safeSent (slotOf s i) (setSlot i (halted (slotOf s i)) s))).ce = (setSlot i (halted (slotOf s i)) s).ce := by
    rw [(senseFast_frame _ _).ce_eq, (safeSent_frame _ _).ce_eq]
  generalize senseFast 5 (safeSent (slotOf s i) (setSlot i (halted (slotOf s i)) s)) = y at f1 hce
  have ht : y.tt.unit.st ≠ .stopping := by rw [f1.tt_eq]; exact h
  have hp : (telltalePast i y).ce = (setSlot i (halted (slotOf s i)) s).ce := (telltalePast_frame_running ht).ce_eq.trans hce
  refine ⟨(telltalePast_frame_running ht).comp (f1.widen (by decide)) (by decide),
    (ceRest_of_ce hp).trans (ceRest_setSlot _ _ _), ?_, ?_, fun k hk => ?_⟩
  · rw [telltalePast_unit_running ht, f1.tt_eq]
  · rw [slotOf_of_ce hp, slotOf_setSlot]
  · rw [slotOf_of_ce hp, slotOf_setSlot_other _ _ _ hk]

theorem slotHalt_sent {i : Nat} {s : State} (h : s.tt.unit.st ≠ .stopping) (h7 : (slotOf s i).regs.out.getLsbD 7 = true)
    (h96 : bits (slotOf s i).regs.out 0 7 < 96) :
    Sent s (slotHalt i s) (.packet (bits (slotOf s i).regs.out 0 7 / 4) (bits (slotOf s i).regs.out 0 7 % 4) (slotOf s i).regs.safe) := by
  rw [slotHalt_eq]
  have k : Sent s (safeSent (slotOf s i) (setSlot i (halted (slotOf s i)) s)) (.packet (bits (slotOf s i).regs.out 0 7 / 4)
      (bits (slotOf s i).regs.out 0 7 % 4) (slotOf s i).regs.safe) := by
    unfold safeSent
    rw [if_pos ⟨h7, h96⟩]
    exact (sendWord_sent _ _ _).after (setSlot_frame _ _ _)
  have f1 : Frame [.ce, .sp, .ic, .out] s (senseFast 5 (safeSent (slotOf s i) (setSlot i (halted (slotOf s i)) s))) :=
    (senseFast_frame _ _).comp ((safeSent_frame _ _).comp ((setSlot_frame _ _ _).widen (by decide)) (by decide)) (by decide)
  exact (k.frame (senseFast_frame _ _)).frame (telltalePast_frame_running (by rw [f1.tt_eq]; exact h))

/-- A slot that skipped at the boundary of `tb` and count `n` (R301). -/
def skipped (tb : Time) (n : Nat) (v : Slot) : Slot := { v with frozen := true, ovrRun := 0, dueTb := tb, dueCnt := n }

theorem slotSkip_step {i : Nat} {s : State} (h : s.tt.unit.st ≠ .stopping) :
    SlotStep i (skipped s.tb s.ce.cnt.toNat) s (slotSkip i s) := by
  have e : slotSkip i s
      = senseFast 5 (capture i s.tb s.ce.cnt.toNat 4 (setSlot i (skipped s.tb s.ce.cnt.toNat (slotOf s i)) s)) := by
    unfold slotSkip
    dsimp only
    refine if_neg ?_
    rw [(senseFast_frame _ _).tt_eq, (capture_frame _ _ _ _ _).tt_eq]
    exact h
  rw [e]
  have hce : (senseFast 5 (capture i s.tb s.ce.cnt.toNat 4 (setSlot i (skipped s.tb s.ce.cnt.toNat (slotOf s i)) s))).ce
      = (setSlot i (skipped s.tb s.ce.cnt.toNat (slotOf s i)) s).ce := by
    rw [(senseFast_frame _ _).ce_eq, (capture_frame _ _ _ _ _).ce_eq]
  refine ⟨(senseFast_frame _ _).comp ((capture_frame _ _ _ _ _).comp ((setSlot_frame _ _ _).widen (by decide)) (by decide))
    (by decide), (ceRest_of_ce hce).trans (ceRest_setSlot _ _ _), ?_, ?_, fun k hk => ?_⟩
  · rw [(senseFast_frame _ _).tt_eq, (capture_frame _ _ _ _ _).tt_eq]; rfl
  · rw [slotOf_of_ce hce, slotOf_setSlot]
  · rw [slotOf_of_ce hce, slotOf_setSlot_other _ _ _ hk]

/-- A slot whose computation is due at the boundary of `tb` and count `n`. -/
def dued (tb : Time) (n : Nat) (v : Slot) : Slot := { v with frozen := false, dueTb := tb, dueCnt := n }

theorem slotGo_step (i n : Nat) (s : State) : SlotStep i (dued s.tb n) s (setSlot i (dued s.tb n (slotOf s i)) s) :=
  ⟨(setSlot_frame _ _ _).widen (by decide), rfl, rfl, slotOf_setSlot _ _ _, fun _ hk => slotOf_setSlot_other _ _ _ hk⟩

/-! ### The passes of a boundary -/

/-- The slots due at the present count. -/
def dueList (s : State) : List Nat := (s.ce.slots.filter fun p => slotDue s.ce.cnt.toNat p.2).map Prod.fst

def overPass (s : State) : State := forEach (dueList s) overrunIf s

def stopList (s : State) : List Nat := (dueList s).filter fun i => decide ((slotOf (overPass s) i).unit.st = .stopping)

def restList (s : State) : List Nat := (dueList s).filter fun i => decide ((slotOf (overPass s) i).unit.st ≠ .stopping)

def skipList (s : State) : List Nat := (restList s).filter (slotSkips (overPass s))

def goList (s : State) : List Nat := (restList s).filter fun i => !slotSkips (overPass s) i

def stopPass (s : State) : State := forEach (stopList s) slotHalt (overPass s)

def skipPass (s : State) : State := forEach (skipList s) slotSkip (stopPass s)

def goPass (s : State) : State :=
  forEach (goList s) (fun i x => setSlot i (dued x.tb s.ce.cnt.toNat (slotOf x i)) x) (skipPass s)

/-- The lower-numbered slots that each slot waits for. -/
def goDeps (s : State) : List (Nat × List Nat) := (goList s).map fun i => (i, slotDeps (goPass s) (goList s) i)

theorem dueSlots_eq (s : State) :
    dueSlots s = { goPass s with ce := { (goPass s).ce with
      due := goList s
      waiting := (goPass s).ce.waiting ++ (goDeps s).filter fun p => !p.2.isEmpty
      ready := sortBy (fun a b => decide (a < b))
        ((goPass s).ce.ready ++ ((goDeps s).filter fun p => p.2.isEmpty).map Prod.fst) } } := rfl

theorem dueSlots_slot (s : State) (k : Nat) : slotOf (dueSlots s) k = slotOf (goPass s) k := rfl

/-- A slot that goes is ready or waits for lower-numbered ones. -/
theorem dueSlots_queued {s : State} {i : Nat} (h : i ∈ goList s) :
    i ∈ (dueSlots s).ce.ready ∨ ∃ l, (i, l) ∈ (dueSlots s).ce.waiting := by
  rw [dueSlots_eq]
  dsimp only
  have hm : (i, slotDeps (goPass s) (goList s) i) ∈ goDeps s := List.mem_map.mpr ⟨i, h, rfl⟩
  by_cases he : (slotDeps (goPass s) (goList s) i).isEmpty = true
  · refine .inl ((mem_sortBy _ _ _).mpr (List.mem_append_right _ (List.mem_map.mpr ⟨_, List.mem_filter.mpr ⟨hm, he⟩, rfl⟩)))
  · exact .inr ⟨_, List.mem_append_right _ (List.mem_filter.mpr ⟨hm, by simp [he]⟩)⟩

theorem tabGet_of_mem {α : Type} {d : α} {t : List (Nat × α)} (hn : (t.map Prod.fst).Nodup) {p : Nat × α} (hp : p ∈ t) :
    tabGet d t p.1 = p.2 := by
  induction t with
  | nil => cases hp
  | cons q r ih =>
    rw [List.map_cons, List.nodup_cons] at hn
    obtain ⟨k, v⟩ := q
    unfold tabGet
    rcases List.mem_cons.mp hp with h | h
    · subst h; exact if_pos rfl
    · rw [if_neg (fun e : p.1 = k => hn.1 (e ▸ List.mem_map_of_mem (f := Prod.fst) h : k ∈ r.map Prod.fst))]
      exact ih hn.2 h

theorem mem_or_tabGet {α : Type} (d : α) (t : List (Nat × α)) (i : Nat) : (i, tabGet d t i) ∈ t ∨ tabGet d t i = d := by
  induction t with
  | nil => exact .inr rfl
  | cons q r ih =>
    obtain ⟨k, v⟩ := q
    unfold tabGet
    by_cases h : i = k
    · rw [if_pos h]; subst h; exact .inl List.mem_cons_self
    · rw [if_neg h]; exact ih.imp (List.mem_cons_of_mem _) id

theorem slotDue_default (n : Nat) : slotDue n slotDefault = false := by unfold slotDue; rfl

/-- A slot that is due is on the list, and with distinct slots only those are. -/
theorem mem_dueList_of {s : State} {k : Nat} (h : slotDue s.ce.cnt.toNat (slotOf s k) = true) : k ∈ dueList s := by
  rcases mem_or_tabGet slotDefault s.ce.slots k with hm | hd
  · exact List.mem_map.mpr ⟨_, List.mem_filter.mpr ⟨hm, h⟩, rfl⟩
  · unfold slotOf at h; rw [hd, slotDue_default] at h; cases h

theorem mem_dueList {s : State} (hn : (s.ce.slots.map Prod.fst).Nodup) {k : Nat} :
    k ∈ dueList s ↔ slotDue s.ce.cnt.toNat (slotOf s k) = true := by
  refine ⟨fun h => ?_, mem_dueList_of⟩
  obtain ⟨p, hp, rfl⟩ := List.mem_map.mp h
  obtain ⟨hp, hd⟩ := List.mem_filter.mp hp
  unfold slotOf
  rw [tabGet_of_mem hn hp]
  exact hd

theorem dueList_nodup {s : State} (hn : (s.ce.slots.map Prod.fst).Nodup) : (dueList s).Nodup :=
  hn.sublist (List.filter_sublist.map _)

/-- What a boundary leaves where no open slot is critical and the Telltale does not stop. -/
structure CalmBeat (s u : State) : Prop where
  frame : Frame [.ce, .tt, .sp, .ic, .spill, .out] s u
  clock : ceClock u = ceClock s
  any : ∀ k, k ∈ dueList s → slotOpen s k = true → u.ce.ovrAny.getLsbD k = decide (k < 64)
  slot : ∀ k, slotOf u k =
    if k ∈ goList s then dued s.tb s.ce.cnt.toNat (slotOf (overPass s) k)
    else if k ∈ skipList s then skipped s.tb s.ce.cnt.toNat (slotOf (overPass s) k)
    else if k ∈ stopList s then halted (slotOf (overPass s) k) else slotOf (overPass s) k

theorem mem_passes {s : State} {k : Nat} :
    (k ∈ stopList s ↔ k ∈ dueList s ∧ (slotOf (overPass s) k).unit.st = .stopping)
      ∧ (k ∈ skipList s ↔ k ∈ dueList s ∧ (slotOf (overPass s) k).unit.st ≠ .stopping ∧ slotSkips (overPass s) k = true)
      ∧ (k ∈ goList s ↔ k ∈ dueList s ∧ (slotOf (overPass s) k).unit.st ≠ .stopping ∧ slotSkips (overPass s) k = false) := by
  simp only [stopList, skipList, goList, restList, List.mem_filter, decide_eq_true_eq, Bool.not_eq_true', and_assoc, and_self]

theorem dueSlots_calm {s : State} (hn : (s.ce.slots.map Prod.fst).Nodup)
    (hc : ∀ k, slotCrit (slotOf s k) = true → slotOpen s k = false) (ht : s.tt.unit.st ≠ .stopping) :
    Overruns (dueList s) s (overPass s) ∧ CalmBeat s (dueSlots s) := by
  have hd := dueList_nodup hn
  have o : Overruns (dueList s) s (overPass s) := overruns_calm hd hc
  have htt : (overPass s).tt.unit = s.tt.unit := by rw [o.frame.tt_eq]
  have hcnt : (overPass s).ce.cnt = s.ce.cnt := congrArg Prod.fst o.clock
  have htb : (overPass s).tb = s.tb := o.frame.tb_eq
  have run : ∀ x, SameBeat (overPass s) x → x.tt.unit.st ≠ .stopping := fun x h => by rw [h.2.2, htt]; exact ht
  have beat : ∀ x, SameBeat (overPass s) x → x.tb = s.tb ∧ x.ce.cnt = s.ce.cnt := fun x h =>
    ⟨h.1.trans htb, (congrArg Trim.cnt h.2.1).trans hcnt⟩
  have p1 : SlotPass (stopList s) (fun _ => halted) (overPass s) (stopPass s) :=
    forEach_slotPass (fun i x h => slotHalt_step (run x h)) (hd.filter _) ⟨rfl, rfl, rfl⟩
  have p2 : SlotPass (skipList s) (fun _ => skipped s.tb s.ce.cnt.toNat) (stopPass s) (skipPass s) :=
    forEach_slotPass (s0 := overPass s) (fun i x h => by
      obtain ⟨h1, h2⟩ := beat x h
      rw [← h1, ← h2]; exact slotSkip_step (run x h)) ((hd.filter _).filter _) p1.beat
  have b2 : SameBeat (overPass s) (skipPass s) :=
    ⟨p2.beat.1.trans p1.beat.1, p2.beat.2.1.trans p1.beat.2.1, p2.beat.2.2.trans p1.beat.2.2⟩
  have p3 : SlotPass (goList s) (fun _ => dued s.tb s.ce.cnt.toNat) (skipPass s) (goPass s) :=
    forEach_slotPass (s0 := overPass s) (fun i x h => by
      rw [← (beat x h).1]; exact slotGo_step i s.ce.cnt.toNat x) ((hd.filter _).filter _) b2
  have rest : ceRest (goPass s) = ceRest (overPass s) := p3.beat.2.1.trans b2.2.1
  refine ⟨o, ?_, ?_, fun k hk hop => ?_, fun k => ?_⟩
  · rw [dueSlots_eq]
    exact (Frame.upd_ce _ _).comp (p3.frame.comp (p2.frame.comp (p1.frame.comp (o.frame.widen (by decide)) (by decide))
      (by decide)) (by decide)) (by decide)
  · rw [← o.clock, ← ceClock_of_rest rest, dueSlots_eq]; rfl
  · rw [← o.any k hk hop, dueSlots_eq]
    have ha := congrArg Trim.ovrAny rest
    exact congrArg (fun w : DWord => w.getLsbD k) ha
  · rw [dueSlots_slot, p3.slot, p2.slot, p1.slot]
    have hx := mem_passes (s := s) (k := k)
    by_cases hg : k ∈ goList s
    · rw [if_pos hg, if_pos hg, if_neg, if_neg]
      · exact fun h => (hx.2.2.mp hg).2.1 (hx.1.mp h).2
      · exact fun h => absurd ((hx.2.2.mp hg).2.2.symm.trans (hx.2.1.mp h).2.2) Bool.false_ne_true
    · rw [if_neg hg, if_neg hg]
      by_cases hs : k ∈ skipList s
      · rw [if_pos hs, if_pos hs, if_neg]
        exact fun h => (hx.2.1.mp hs).2.1 (hx.1.mp h).2
      · rw [if_neg hs, if_neg hs]

/-- A property that each step of a loop keeps holds after the loop. -/
theorem forEach_holds {α : Type} (P : State → Prop) (l : List α) (op : α → State → State) (h : ∀ a x, P x → P (op a x)) {s : State}
    (hs : P s) : P (forEach l op s) := by
  induction l generalizing s with
  | nil => exact hs
  | cons a r ih => rw [forEach_cons]; exact ih (h a s hs)

/-- Each slot that stops sends its SAFE word. -/
theorem stopPass_sent {l : List Nat} (hl : l.Nodup) {s : State} (ht : s.tt.unit.st ≠ .stopping) {i : Nat} (hi : i ∈ l)
    (h7 : (slotOf s i).regs.out.getLsbD 7 = true) (h96 : bits (slotOf s i).regs.out 0 7 < 96) :
    Sent s (forEach l slotHalt s) (.packet (bits (slotOf s i).regs.out 0 7 / 4) (bits (slotOf s i).regs.out 0 7 % 4)
      (slotOf s i).regs.safe) := by
  induction l generalizing s with
  | nil => cases hi
  | cons j r ih =>
    obtain ⟨hj, hr⟩ := List.nodup_cons.mp hl
    have k := slotHalt_step (i := j) ht
    have ht' : (slotHalt j s).tt.unit.st ≠ .stopping := by rw [k.tt]; exact ht
    rw [forEach_cons]
    by_cases he : i = j
    · subst he
      exact (slotHalt_sent ht h7 h96).frame (Frame.forEach (l := [.gl, .crew, .hq, .eng, .cy, .vol, .rdr, .sm, .ce, .tt, .sp, .ic,
        .spill, .ev, .out]) r slotHalt (fun a z h => (slotHalt_frame a z).comp h (by decide)) (Frame.refl _ _))
    · have o := k.others i he
      rw [← o] at h7 h96 ⊢
      exact (ih hr ht' ((List.mem_cons.mp hi).resolve_left he) h7 h96).after k.frame

theorem dueSlots_safe {s : State} (hn : (s.ce.slots.map Prod.fst).Nodup)
    (hc : ∀ k, slotCrit (slotOf s k) = true → slotOpen s k = false) (ht : s.tt.unit.st ≠ .stopping) {i : Nat} (hi : i ∈ stopList s)
    (h7 : (slotOf (overPass s) i).regs.out.getLsbD 7 = true) (h96 : bits (slotOf (overPass s) i).regs.out 0 7 < 96) :
    Sent s (dueSlots s) (.packet (bits (slotOf (overPass s) i).regs.out 0 7 / 4) (bits (slotOf (overPass s) i).regs.out 0 7 % 4)
      (slotOf (overPass s) i).regs.safe) := by
  obtain ⟨o, -⟩ := dueSlots_calm hn hc ht
  have k := stopPass_sent (s := overPass s) (l := stopList s) ((dueList_nodup hn).filter _) (by rw [o.frame.tt_eq]; exact ht) hi h7 h96
  have f2 : Frame [.gl, .crew, .hq, .eng, .cy, .vol, .rdr, .sm, .ce, .tt, .ic, .spill, .ev, .out] (stopPass s) (skipPass s) :=
    Frame.forEach _ _ (fun a z h => (slotSkip_frame a z).comp h (by decide)) (Frame.refl _ _)
  have f3 : Frame [.ce] (skipPass s) (goPass s) :=
    Frame.forEach _ _ (fun a z h => (setSlot_frame _ _ _).comp h (by decide)) (Frame.refl _ _)
  rw [dueSlots_eq]
  exact ((((k.frame f2).frame f3).frame (Frame.upd_ce _ _))).after o.frame

/-! ### What every boundary keeps -/

theorem tapeRest_ceRest (s : State) : ceRest (tapeRest s) = ceRest s := by
  unfold tapeRest
  extract_lets busy work telltale
  split
  · rfl
  · split
    · exact setMode_ceRest _ _
    · rfl

theorem telltaleSettle_ceRest (s : State) : ceRest (telltaleSettle s) = ceRest s := by
  unfold telltaleSettle
  split
  · extract_lets streams _ x y
    have hy : y.ce = s.ce := (Frame.forEach (l := [.spill, .ev, .out]) streams (fun q s => flushRequest q true s)
      (fun _ _ k => (flushRequest_frame _ _ _).comp k (by decide)) (Frame.refl _ _)).ce_eq
    clear_value y
    split
    · exact ceRest_of_ce hy
    · rw [tapeRest_ceRest, ceRest_of_ce (tidy_frame _).ce_eq, ceRest_of_ce (complete_frame _ _ _ _ _ _).ce_eq]
      exact ceRest_of_ce hy
  · rfl

theorem telltaleSettle_latched (s : State) : (telltaleSettle s).gl.latched = s.gl.latched := by
  unfold telltaleSettle
  split
  · extract_lets streams _ x y
    have hy : y.gl = s.gl := (Frame.forEach (l := [.spill, .ev, .out]) streams (fun q s => flushRequest q true s)
      (fun _ _ k => (flushRequest_frame _ _ _).comp k (by decide)) (Frame.refl _ _)).gl_eq
    clear_value y
    split
    · rw [hy]
    · have h : ∀ x, (tapeRest x).gl.latched = x.gl.latched := fun x => by rcases tapeRest_gl x with h | h <;> rw [h]
      rw [h, (tidy_frame _).gl_eq, (complete_frame _ _ _ _ _ _).gl_eq]
      exact congrArg Global.latched hy
  · rfl

/-- The clock runs on, and a LATCHED_CRIT stays. -/
structure BeatKept (s u : State) : Prop where
  clock : ceClock u = ceClock s
  latched : s.gl.latched.getLsbD 0 = true → u.gl.latched.getLsbD 0 = true

theorem BeatKept.trans {s x u : State} (h : BeatKept s x) (k : BeatKept x u) : BeatKept s u :=
  ⟨k.clock.trans h.clock, fun hl => k.latched (h.latched hl)⟩

theorem BeatKept.refl (s : State) : BeatKept s s := ⟨rfl, id⟩

theorem BeatKept.of_parts {s u : State} (hc : ceRest u = ceRest s) (hg : u.gl.latched = s.gl.latched) : BeatKept s u :=
  ⟨ceClock_of_rest hc, fun h => by rw [hg]; exact h⟩

theorem BeatKept.forEach {α : Type} (l : List α) (op : α → State → State) (h : ∀ a x, BeatKept x (op a x)) (s : State) :
    BeatKept s (Machine.forEach l op s) :=
  forEach_holds (BeatKept s) l op (fun a _ hx => hx.trans (h a _)) (.refl s)

theorem beatKept_telltalePast (i : Nat) (s : State) : BeatKept s (telltalePast i s) := by
  unfold telltalePast
  exact .of_parts ((telltaleSettle_ceRest _).trans (ceRest_of_ce rfl)) (telltaleSettle_latched _)

theorem beatKept_of_frame {l : List Region} {s u : State} (f : Frame l s u) (h1 : l.contains .ce = false := by decide)
    (h2 : l.contains .gl = false := by decide) (h3 : l.contains .life = false := by decide) : BeatKept s u :=
  .of_parts (ceRest_of_ce (f.same .ce (not_mem_of_contains h1))) (congrArg Global.latched (f.gl_eq h2 h3))

theorem beatKept_setSlot (i : Nat) (v : Slot) (s : State) : BeatKept s (setSlot i v s) := .of_parts rfl rfl

theorem beatKept_slotHalt (i : Nat) (s : State) : BeatKept s (slotHalt i s) := by
  rw [slotHalt_eq]
  exact (((beatKept_setSlot _ _ _).trans (beatKept_of_frame (safeSent_frame _ _))).trans (beatKept_of_frame (senseFast_frame _ _))).trans
    (beatKept_telltalePast _ _)

theorem beatKept_slotSkip (i : Nat) (s : State) : BeatKept s (slotSkip i s) := by
  have k : BeatKept s (senseFast 5 (capture i s.tb s.ce.cnt.toNat 4 (setSlot i (skipped s.tb s.ce.cnt.toNat (slotOf s i)) s))) :=
    ((beatKept_setSlot _ _ _).trans (beatKept_of_frame (capture_frame _ _ _ _ _))).trans (beatKept_of_frame (senseFast_frame _ _))
  unfold slotSkip
  extract_lets v x y
  split
  · exact BeatKept.trans k (beatKept_telltalePast _ _)
  · exact k

theorem beatKept_holdCause (b : Nat) (s : State) : BeatKept s (holdCause b s) :=
  ⟨ceClock_of_rest (holdCause_ce b s).1, fun h => by rw [(holdCause_modes b s).1, BitVec.getLsbD_or, h, Bool.true_or]⟩

theorem beatKept_overrunIf (i : Nat) (s : State) : BeatKept s (overrunIf i s) := by
  have b := overrunBase_parts i s
  have k : BeatKept s (overrunBase i s) := ⟨b.clock, fun h => by rw [b.frame.gl_eq]; exact h⟩
  unfold overrunIf
  split
  · rw [slotOverrun_eq]
    split
    · exact k.trans (beatKept_holdCause _ _)
    · exact k
  · exact .refl s

theorem beatKept_afterOver (s : State) : BeatKept (overPass s) (dueSlots s) := by
  have k1 : BeatKept (overPass s) (stopPass s) := .forEach _ _ beatKept_slotHalt _
  have k2 : BeatKept (stopPass s) (skipPass s) := .forEach _ _ beatKept_slotSkip _
  have k3 : BeatKept (skipPass s) (goPass s) := .forEach _ _ (fun _ _ => beatKept_setSlot _ _ _) _
  have k4 : BeatKept (goPass s) (dueSlots s) := by rw [dueSlots_eq]; exact ⟨rfl, id⟩
  exact ((k1.trans k2).trans k3).trans k4

theorem beatKept_dueSlots (s : State) : BeatKept s (dueSlots s) :=
  (BeatKept.forEach (dueList s) overrunIf beatKept_overrunIf s).trans (beatKept_afterOver s)

/-- A critical slot that overruns for the third time in a row. -/
def ThirdOverrun (i : Nat) (s : State) : Prop :=
  slotCrit (slotOf s i) = true ∧ (slotOf s i).ovrRun = 2 ∧ slotOpen s i = true

theorem thirdOverrun_latches {i : Nat} {s : State} (h : ThirdOverrun i s) : (overrunIf i s).gl.latched.getLsbD 0 = true := by
  obtain ⟨hc, ho, hop⟩ := h
  unfold overrunIf
  rw [if_pos hop, slotOverrun_eq, if_pos ⟨hc, by rw [ho]⟩, (holdCause_modes _ _).1, BitVec.getLsbD_or]
  simp

theorem slotOpen_of_parts {s u : State} (hr : ceRest u = ceRest s) {k : Nat} (hk : (slotOf u k).run = (slotOf s k).run) :
    slotOpen u k = slotOpen s k := by
  have h1 := congrArg Trim.ready hr
  have h2 := congrArg Trim.waiting hr
  unfold slotOpen
  rw [show u.ce.ready = s.ce.ready from h1, show u.ce.waiting = s.ce.waiting from h2, hk]

/-- Another slot's turn leaves a third overrun to come. -/
theorem thirdOverrun_kept {i j : Nat} (hij : i ≠ j) {s : State} (h : ThirdOverrun i s) : ThirdOverrun i (overrunIf j s) := by
  obtain ⟨hc, ho, hop⟩ := h
  have b := overrunBase_parts j s
  have hb : ThirdOverrun i (overrunBase j s) := by
    refine ⟨?_, ?_, ?_⟩
    · rw [b.others i hij]; exact hc
    · rw [b.others i hij]; exact ho
    · rw [b.opens i hij]; exact hop
  unfold overrunIf
  split
  · rw [slotOverrun_eq]
    split
    · obtain ⟨hr, hk⟩ := holdCause_ce 0 (overrunBase j s)
      have hkey := hk i
      obtain ⟨hb1, hb2, hb3⟩ := hb
      refine ⟨(congrArg (fun w => w.2.2) hkey).trans hb1, (congrArg (fun w => w.2.1) hkey).trans hb2, ?_⟩
      rw [slotOpen_of_parts hr (congrArg Prod.fst hkey)]
      exact hb3
    · exact hb
  · exact ⟨hc, ho, hop⟩

theorem overPass_latches {l : List Nat} {i : Nat} (hi : i ∈ l) {s : State} (h : ThirdOverrun i s) :
    (forEach l overrunIf s).gl.latched.getLsbD 0 = true := by
  induction l generalizing s with
  | nil => cases hi
  | cons j r ih =>
    rw [forEach_cons]
    by_cases hj : i = j
    · subst hj
      exact (BeatKept.forEach r overrunIf beatKept_overrunIf _).latched (thirdOverrun_latches h)
    · exact ih ((List.mem_cons.mp hi).resolve_left hj) (thirdOverrun_kept hj h)

/-- A critical slot that overruns a third time is a HOLD cause (R302). -/
theorem dueSlots_latches {s : State} {i : Nat} (h : ThirdOverrun i s) (hd : slotDue s.ce.cnt.toNat (slotOf s i) = true) :
    (dueSlots s).gl.latched.getLsbD 0 = true :=
  (beatKept_afterOver s).latched (overPass_latches (mem_dueList_of hd) h)

/-! ### The registers of slots at a boundary -/

def RegsKept (s u : State) : Prop := ∀ k, (slotOf u k).regs = (slotOf s k).regs

theorem SlotStep.regs {i : Nat} {g : Slot → Slot} {s y : State} (h : SlotStep i g s y) (hg : ∀ v, (g v).regs = v.regs) :
    RegsKept s y := fun k => by
  by_cases hk : k = i
  · subst hk; rw [h.slot, hg]
  · rw [h.others k hk]

theorem halted_regs (v : Slot) : (halted v).regs = v.regs := by
  unfold halted
  dsimp only
  split <;> rfl

theorem halted_unit (v : Slot) : (halted v).unit = unitDone v.unit := by
  unfold halted
  dsimp only
  split <;> rfl

theorem halted_overran (v : Slot) :
    (halted (overran v)).run = none ∧ (halted (overran v)).overrun = true ∧ (halted (overran v)).ovr = satInc v.ovr := by
  unfold halted
  dsimp only
  split <;> exact ⟨rfl, rfl, rfl⟩

/-- A pass of steps that keep the registers while the Telltale does not stop. -/
theorem forEach_regs {op : Nat → State → State} {g : State → Nat → Slot → Slot} (l : List Nat)
    (h : ∀ i x, x.tt.unit.st ≠ .stopping → SlotStep i (g x i) x (op i x)) (hg : ∀ x i v, (g x i v).regs = v.regs) {s : State}
    (ht : s.tt.unit.st ≠ .stopping) : RegsKept s (forEach l op s) ∧ (forEach l op s).tt.unit.st ≠ .stopping :=
  forEach_holds (fun x => RegsKept s x ∧ x.tt.unit.st ≠ .stopping) l op
    (fun a x hx => ⟨fun k => ((h a x hx.2).regs (hg x a) k).trans (hx.1 k), by rw [(h a x hx.2).tt]; exact hx.2⟩)
    ⟨fun _ => rfl, ht⟩

/-- In HOLD, or with no computation open, overruns keep the registers. -/
theorem overPass_regs (l : List Nat) {s : State} (h : s.gl.cur = .hold ∨ ∀ k, slotOpen s k = false) :
    RegsKept s (forEach l overrunIf s) ∧ (forEach l overrunIf s).tt.unit = s.tt.unit := by
  rcases h with h | h
  · have := forEach_holds (fun x => (RegsKept s x ∧ x.tt.unit = s.tt.unit) ∧ x.gl.cur = .hold) l overrunIf (fun i x hx => ?_)
      ⟨⟨fun _ => rfl, rfl⟩, h⟩
    · exact this.1
    · obtain ⟨⟨h1, h2⟩, h3⟩ := hx
      have b := overrunBase_parts i x
      have hbase : (RegsKept s (overrunBase i x) ∧ (overrunBase i x).tt.unit = s.tt.unit) ∧ (overrunBase i x).gl.cur = .hold := by
        refine ⟨⟨fun k => ?_, by rw [b.frame.tt_eq]; exact h2⟩, by rw [b.frame.gl_eq]; exact h3⟩
        rw [← h1 k]
        by_cases hk : k = i
        · subst hk; rw [b.slot]; rfl
        · rw [b.others k hk]
      unfold overrunIf
      split
      · rw [slotOverrun_eq]
        split
        · rw [holdCause_gl_stay 0 (.inr (.inr hbase.2))]
          exact ⟨⟨fun k => hbase.1.1 k, hbase.1.2⟩, hbase.2⟩
        · exact hbase
      · exact ⟨⟨h1, h2⟩, h3⟩
  · have e : forEach l overrunIf s = s :=
      forEach_holds (fun x => x = s) l overrunIf (fun i x hx => by
        rw [hx]; unfold overrunIf; rw [if_neg (by rw [h]; exact Bool.false_ne_true)]) rfl
    rw [e]
    exact ⟨fun _ => rfl, rfl⟩

theorem dueSlots_regs {s : State} (h : s.gl.cur = .hold ∨ ∀ k, slotOpen s k = false) (ht : s.tt.unit.st ≠ .stopping) :
    RegsKept s (dueSlots s) := by
  obtain ⟨k0, t0⟩ := overPass_regs (dueList s) h
  obtain ⟨k1, t1⟩ := forEach_regs (g := fun _ _ => halted) (stopList s) (fun i x hx => slotHalt_step hx) (fun _ _ => halted_regs)
    (s := overPass s) (by unfold overPass; rw [t0]; exact ht)
  obtain ⟨k2, t2⟩ := forEach_regs (g := fun x _ => skipped x.tb x.ce.cnt.toNat) (skipList s) (fun i x hx => slotSkip_step hx)
    (fun _ _ _ => rfl) (s := stopPass s) t1
  obtain ⟨k3, -⟩ := forEach_regs (g := fun x _ => dued x.tb s.ce.cnt.toNat) (goList s) (fun i x _ => slotGo_step i s.ce.cnt.toNat x)
    (fun _ _ _ => rfl) (s := skipPass s) t2
  exact fun k => (k3 k).trans ((k2 k).trans ((k1 k).trans (k0 k)))

/-! ### Before the passes: the count, the exchange and HOLD -/

/-- The count of a boundary. -/
def counted (s : State) : State := { s with ce := { s.ce with cnt := s.ce.cnt + 1, tb := s.tb } }

/-- The state that the passes of a boundary start from. -/
def beatStart (s : State) : State := rateCells (holdSlots (swapSlots (counted s)))

theorem execStrokeBoundary_eq {s : State} (h : s.gl.locked = true) (t : Time) :
    exec (.strokeBoundary t) s = .next (dueSlots (beatStart (advance t s))) := by
  change execStrokeBoundary t s = _
  unfold execStrokeBoundary
  extract_lets x
  rw [if_neg (by rw [show x.gl = s.gl from advance_gl t s, h]; exact Bool.false_ne_true)]
  rfl

/-- What the exchange and HOLD leave of a slot, but for its OUT word and its CTL. -/
def slotStill (v : Slot) : Word × Word × Unit_ × Nat × Option Latched := (v.regs.ctl, v.regs.out, v.unit, v.ovrRun, v.run)

/-- One slot at the beginning of a boundary in HOLD (R303). -/
def holdSlot (i : Nat) (s : State) : State :=
  let v := slotOf s i
  if bits v.regs.ctl 28 2 = 1 then setSlot i { v with regs := { v.regs with ramp := { v.regs.ramp with tgt := 0 } } } s else s

def heldFrom (on : Bool) (s : State) : State := { s with ce := { s.ce with holdOn := on } }

theorem holdSlots_eq (s : State) :
    holdSlots s = if s.gl.cur = .hold then forEach (s.ce.slots.map Prod.fst) holdSlot (heldFrom true s) else heldFrom false s := by
  unfold holdSlots
  by_cases h : s.gl.cur = .hold
  · simp only [h, decide_true, if_true]; rfl
  · simp only [h, decide_false, if_false, Bool.false_eq_true]; rfl

theorem holdSlot_still (i k : Nat) (s : State) : slotStill (slotOf (holdSlot i s) k) = slotStill (slotOf s k) := by
  unfold holdSlot
  dsimp only
  split
  · by_cases hk : k = i
    · subst hk; rw [slotOf_setSlot]; rfl
    · rw [slotOf_setSlot_other _ _ _ hk]
  · rfl

theorem holdSlot_rest (i : Nat) (s : State) : ceRest (holdSlot i s) = ceRest s := by
  unfold holdSlot
  dsimp only
  split <;> rfl

theorem holdSlots_still (s : State) (k : Nat) : slotStill (slotOf (holdSlots s) k) = slotStill (slotOf s k) := by
  rw [holdSlots_eq]
  split
  · exact (forEach_keeps (fun z : State => slotStill (slotOf z k)) _ holdSlot (fun i z => holdSlot_still i k z) _).trans rfl
  · rfl

theorem holdSlots_rest (s : State) : ceRest (holdSlots s) = { ceRest s with holdOn := decide (s.gl.cur = .hold) } := by
  rw [holdSlots_eq]
  split
  · rename_i h
    rw [decide_eq_true h]
    exact (forEach_keeps ceRest _ holdSlot holdSlot_rest _).trans rfl
  · rename_i h
    rw [decide_eq_false h]; rfl

theorem bits_of_still {v w : Slot} (h : slotStill v = slotStill w) : v.regs.ctl = w.regs.ctl := congrArg Prod.fst h

theorem run_of_still {v w : Slot} (h : slotStill v = slotStill w) : v.run = w.run := congrArg (fun x => x.2.2.2.2) h

theorem out_of_still {v w : Slot} (h : slotStill v = slotStill w) : v.regs.out = w.regs.out := congrArg (fun x => x.2.1) h

/-- The slots of a list that HOLD sends to 0 are at 0. -/
theorem holdSlot_tgt {l : List Nat} {i : Nat} {s : State} (hb : bits (slotOf s i).regs.ctl 28 2 = 1)
    (h : i ∈ l ∨ (slotOf s i).regs.ramp.tgt = 0) : (slotOf (forEach l holdSlot s) i).regs.ramp.tgt = 0 := by
  induction l generalizing s with
  | nil => exact h.resolve_left List.not_mem_nil
  | cons j r ih =>
    rw [forEach_cons]
    refine ih (by rw [bits_of_still (holdSlot_still j i s)]; exact hb) ?_
    by_cases hj : i = j
    · subst hj
      refine .inr ?_
      unfold holdSlot
      dsimp only
      rw [if_pos hb, slotOf_setSlot]
    · have e : slotOf (holdSlot j s) i = slotOf s i := by
        unfold holdSlot
        dsimp only
        split
        · exact slotOf_setSlot_other _ _ _ hj
        · rfl
      rw [e]
      exact h.imp (fun m => (List.mem_cons.mp m).resolve_left hj) id

theorem holdSlots_tgt {s : State} (hc : s.gl.cur = .hold) {i : Nat} (hb : bits (slotOf s i).regs.ctl 28 2 = 1) :
    (slotOf (holdSlots s) i).regs.ramp.tgt = 0 := by
  rw [holdSlots_eq, if_pos hc]
  refine holdSlot_tgt (s := heldFrom true s) hb (.inl ?_)
  rcases mem_or_tabGet slotDefault s.ce.slots i with h | h
  · exact List.mem_map_of_mem (f := Prod.fst) h
  · unfold slotOf at hb; rw [h] at hb; exact absurd hb (by decide)

/-! ### The exchange -/

def withOut (v : Slot) (o c : Word) : Slot := { v with regs := { v.regs with out := o, ctl := c } }

theorem withOut_run (v : Slot) (o c : Word) : (withOut v o c).run = v.run := rfl

theorem withOut_regs (v : Slot) (o c : Word) : (withOut v o c).regs = { v.regs with out := o, ctl := c } := rfl

/-- A slot that takes OUT, CRIT and HOLD_ACT of another (R305). -/
def takesOut (v w : Slot) : Slot :=
  withOut v w.regs.out (putBits (putBits v.regs.ctl 2 1 (bits w.regs.ctl 2 1)) 28 2 (bits w.regs.ctl 28 2))

theorem takesOut_fields (v w : Word) :
    bits (putBits (putBits v 2 1 (bits w 2 1)) 28 2 (bits w 28 2)) 2 1 = bits w 2 1
      ∧ bits (putBits (putBits v 2 1 (bits w 2 1)) 28 2 (bits w 28 2)) 28 2 = bits w 28 2 := by
  have hv := v.isLt
  have hw := w.isLt
  simp only [putBits, bits, BitVec.toNat_ofNat]
  constructor <;> omega

theorem slotCrit_eq (v : Slot) : slotCrit v = decide (bits v.regs.ctl 2 1 = 1) := by
  unfold slotCrit bits
  rw [BitVec.getLsbD, Nat.testBit_eq_decide_div_mod_eq, Nat.pow_one]

theorem takesOut_run (v w : Slot) : (takesOut v w).run = v.run := withOut_run _ _ _

theorem takesOut_ctl (v w : Slot) : (takesOut v w).regs.ctl
    = putBits (putBits v.regs.ctl 2 1 (bits w.regs.ctl 2 1)) 28 2 (bits w.regs.ctl 28 2) := by
  unfold takesOut; rw [withOut_regs]

theorem takesOut_out (v w : Slot) : (takesOut v w).regs.out = w.regs.out := by
  unfold takesOut; rw [withOut_regs]

theorem takesOut_crit (v w : Slot) : slotCrit (takesOut v w) = slotCrit w := by
  rw [slotCrit_eq, slotCrit_eq, takesOut_ctl, (takesOut_fields v.regs.ctl w.regs.ctl).1]

/-- A table mapped entry by entry reads, of what the map keeps, as it did. -/
theorem tabGet_map_keeps {α β : Type} (q : α → β) (d : α) (f : α → α) (hf : ∀ v, q (f v) = q v) (l : List (Nat × α)) (i : Nat) :
    q (tabGet d (l.map fun p => (p.1, f p.2)) i) = q (tabGet d l i) := by
  induction l with
  | nil => rfl
  | cons p r ih =>
    obtain ⟨k, v⟩ := p
    rw [List.map_cons]
    unfold tabGet
    split
    · exact hf v
    · exact ih

/-- The two slots with their words exchanged. -/
def swapOuts (a b : Nat) (s : State) : State :=
  setSlot b (takesOut (slotOf s b) (slotOf s a)) (setSlot a (takesOut (slotOf s a) (slotOf s b)) s)

def swapRegs (a b : Nat) (v : Slot) : Slot :=
  { v with regs := { v.regs with src0 := swapWord a b v.regs.src0, src1 := swapWord a b v.regs.src1 } }

/-- Every source that names one of the slots names the other. -/
def swapSources (a b : Nat) (s : State) : State :=
  { s with ce := { s.ce with
      swap := none, finesp0 := swapFine a b s.ce.finesp0, finesp1 := swapFine a b s.ce.finesp1
      slots := s.ce.slots.map fun p => (p.1, swapRegs a b p.2) } }

/-- The values that a copying exchange hands over. -/
def swapCopy (b : Nat) (copy : Bool) (va : Slot) (s : State) : State :=
  if copy then
    let v := slotOf s b
    setSlot b { v with vals := { v.vals with rampSp := va.vals.rampSp, rate := va.vals.rate, integ := va.vals.integ } } s
  else s

theorem swapSlots_eq {s : State} {a b : Nat} {copy : Bool} (hs : s.ce.swap = some (a, b, copy)) :
    swapSlots s = senseFast 6 (senseFast 5 (swapCopy b copy (slotOf s a) (swapSources a b (swapOuts a b s)))) := by
  unfold swapSlots
  rw [hs]
  unfold swapCopy swapSources swapOuts takesOut withOut swapRegs
  rfl

theorem swapOuts_slot {a b : Nat} (hab : a ≠ b) (s : State) :
    slotOf (swapOuts a b s) a = takesOut (slotOf s a) (slotOf s b) ∧ slotOf (swapOuts a b s) b = takesOut (slotOf s b) (slotOf s a)
      ∧ ∀ k, (slotOf (swapOuts a b s) k).run = (slotOf s k).run := by
  unfold swapOuts
  have ha : slotOf (setSlot b (takesOut (slotOf s b) (slotOf s a)) (setSlot a (takesOut (slotOf s a) (slotOf s b)) s)) a
      = takesOut (slotOf s a) (slotOf s b) := by rw [slotOf_setSlot_other _ _ _ hab, slotOf_setSlot]
  refine ⟨ha, slotOf_setSlot _ _ _, fun k => ?_⟩
  by_cases h2 : k = b
  · subst h2; rw [slotOf_setSlot, takesOut_run]
  · rw [slotOf_setSlot_other _ _ _ h2]
    by_cases h1 : k = a
    · subst h1; rw [slotOf_setSlot, takesOut_run]
    · rw [slotOf_setSlot_other _ _ _ h1]

theorem swapSources_still (a b : Nat) (s : State) (k : Nat) :
    slotStill (slotOf (swapSources a b s) k) = slotStill (slotOf s k) :=
  tabGet_map_keeps slotStill slotDefault (swapRegs a b) (fun _ => rfl) s.ce.slots k

theorem swapCopy_still (b : Nat) (copy : Bool) (va : Slot) (s : State) (k : Nat) :
    slotStill (slotOf (swapCopy b copy va s) k) = slotStill (slotOf s k) := by
  unfold swapCopy
  split
  · dsimp only
    by_cases hk : k = b
    · subst hk; rw [slotOf_setSlot]; rfl
    · rw [slotOf_setSlot_other _ _ _ hk]
  · rfl

theorem swapCopy_rest (b : Nat) (copy : Bool) (va : Slot) (s : State) : ceRest (swapCopy b copy va s) = ceRest s := by
  unfold swapCopy
  split <;> rfl

theorem swapOuts_rest (a b : Nat) (s : State) : ceRest (swapOuts a b s) = ceRest s := by
  unfold swapOuts
  rw [ceRest_setSlot, ceRest_setSlot]

theorem swapSources_rest (a b : Nat) (s : State) : ceRest (swapSources a b s) = { ceRest s with
    swap := none, finesp0 := swapFine a b (ceRest s).finesp0, finesp1 := swapFine a b (ceRest s).finesp1 } := rfl

theorem swapSlots_ce {s : State} {a b : Nat} {copy : Bool} (hs : s.ce.swap = some (a, b, copy)) :
    (swapSlots s).ce = (swapCopy b copy (slotOf s a) (swapSources a b (swapOuts a b s))).ce := by
  rw [swapSlots_eq hs, (senseFast_frame _ _).ce_eq, (senseFast_frame _ _).ce_eq]

theorem swapSlots_rest {s : State} {a b : Nat} {copy : Bool} (hs : s.ce.swap = some (a, b, copy)) :
    ceRest (swapSlots s) = { ceRest s with
      swap := none, finesp0 := swapFine a b (ceRest s).finesp0, finesp1 := swapFine a b (ceRest s).finesp1 } := by
  rw [ceRest_of_ce (swapSlots_ce hs), swapCopy_rest, swapSources_rest, swapOuts_rest]

/-- What the exchange leaves of the two slots and of what is open. -/
theorem swapSlots_parts {s : State} {a b : Nat} {copy : Bool} (hs : s.ce.swap = some (a, b, copy)) (hab : a ≠ b) :
    slotStill (slotOf (swapSlots s) a) = slotStill (takesOut (slotOf s a) (slotOf s b))
      ∧ slotStill (slotOf (swapSlots s) b) = slotStill (takesOut (slotOf s b) (slotOf s a))
      ∧ ∀ k, (slotOf (swapSlots s) k).run = (slotOf s k).run := by
  obtain ⟨ha, hb, hr⟩ := swapOuts_slot hab s
  have hk : ∀ k, slotStill (slotOf (swapSlots s) k) = slotStill (slotOf (swapOuts a b s) k) := fun k => by
    rw [slotOf_of_ce (swapSlots_ce hs), swapCopy_still, swapSources_still]
  refine ⟨by rw [hk, ha], by rw [hk, hb], fun k => ?_⟩
  rw [← hr k]; exact run_of_still (hk k)

theorem swapSlots_none {s : State} (h : s.ce.swap = none) : swapSlots s = s := by unfold swapSlots; rw [h]

/-! ### The state that the passes start from -/

theorem counted_slot (s : State) (k : Nat) : slotOf (counted s) k = slotOf s k := rfl

theorem counted_open (s : State) (k : Nat) : slotOpen (counted s) k = slotOpen s k := rfl

theorem beatStart_ce (s : State) : (beatStart s).ce = (holdSlots (swapSlots (counted s))).ce := (rateCells_frame _).ce_eq

theorem beatStart_frame (s : State) : Frame [.sm, .out, .fresh, .ce, .ic] s (beatStart s) :=
  (rateCells_frame _).comp ((holdSlots_frame _).comp ((swapSlots_frame _).comp ((Frame.upd_ce s { s.ce with
    cnt := s.ce.cnt + 1, tb := s.tb }).widen (l := [.sm, .out, .fresh, .ce, .ic]) (by decide)) (by decide)) (by decide)) (by decide)

theorem beatStart_rest (s : State) :
    ceRest (beatStart s) = { ceRest (swapSlots (counted s)) with holdOn := decide (s.gl.cur = .hold) } := by
  rw [ceRest_of_ce (beatStart_ce s), holdSlots_rest, (swapSlots_frame _).gl_eq]
  rfl

theorem beatStart_still (s : State) (k : Nat) :
    slotStill (slotOf (beatStart s) k) = slotStill (slotOf (swapSlots (counted s)) k) := by
  rw [slotOf_of_ce (beatStart_ce s), holdSlots_still]

theorem beatStart_clock (s : State) :
    ceClock (beatStart s) = (s.ce.cnt + 1, s.tb, none, decide (s.gl.cur = .hold)) := by
  have e : ∀ x : State, ceClock x = ((ceRest x).cnt, (ceRest x).tb, (ceRest x).swap, (ceRest x).holdOn) := fun _ => rfl
  rw [e, beatStart_rest]
  cases h : s.ce.swap with
  | none => rw [swapSlots_none (s := counted s) h]; exact congrArg (fun w => (s.ce.cnt + 1, s.tb, w, decide (s.gl.cur = .hold))) h
  | some p =>
    obtain ⟨a, b, copy⟩ := p
    rw [swapSlots_rest (s := counted s) h]
    rfl

/-- With no exchange and outside HOLD the passes start from the slots as they were. -/
theorem beatStart_calm {s : State} (h : s.ce.swap = none) (hc : s.gl.cur ≠ .hold) :
    (beatStart s).ce = { s.ce with cnt := s.ce.cnt + 1, tb := s.tb, holdOn := false } := by
  rw [beatStart_ce, swapSlots_none (s := counted s) h, holdSlots_eq, if_neg (show ¬(counted s).gl.cur = .hold from hc)]
  rfl

/-! ### What a skip looks at -/

/-- Whether a slot skips depends on its registers, on the STATE of slots, on HOLD and on the servo and the links alone. -/
theorem slotSkips_congr {s u : State} (hsv : u.sv = s.sv) (hsp : u.sp = s.sp) (hcr : u.crew = s.crew) (htb : u.tb = s.tb)
    (hh : u.ce.holdOn = s.ce.holdOn) (hu : ∀ k, (slotOf u k).unit = (slotOf s k).unit) {i : Nat}
    (hr : (slotOf u i).regs = (slotOf s i).regs) : slotSkips u i = slotSkips s i := by
  have hmod : ∀ k, servoMod u k = servoMod s k := fun k => by unfold servoMod; rw [hsv]
  have hrd : ∀ k, servoRd u k = servoRd s k := fun k => by unfold servoRd; rw [hsv]
  have htr : ∀ k, readerTracks u k = readerTracks s k := fun k => by unfold readerTracks crewOf; rw [hrd, hcr]
  have htrk : tracking u = tracking s := by unfold tracking; rw [funext htr]
  have hvalid : ∀ w, srcValid u w = srcValid s w := fun w => by
    have hskew : skewOf u = skewOf s := by unfold skewOf; simp only [htrk, hrd, hsv]
    have hmb : mbarValid u = mbarValid s := by unfold mbarValid; simp only [htrk, hrd, hmod, htb]
    have hrv : ∀ n, readerValid u n = readerValid s n := fun n => by unfold readerValid; rw [htr, hrd]
    have hhs : ∀ n, hasServo u n = hasServo s n := fun n => by unfold hasServo; rw [htr, htr]
    have hln : ∀ n, linkInSync u n = linkInSync s n := fun n => by unfold linkInSync; rw [hsp]
    have hsl : ∀ n, slotRunning (slotOf u n) = slotRunning (slotOf s n) := fun n => by unfold slotRunning; rw [hu]
    unfold srcValid
    simp only [hskew, hmb, hrv, hhs, hln, hsl, hmod, htrk]
  unfold slotSkips
  simp only [hr, hvalid, hmod, hh]

/-! ### The boundary itself -/

theorem slotOpen_of_ce {s u : State} (h : u.ce.ready = s.ce.ready) (hw : u.ce.waiting = s.ce.waiting) {k : Nat}
    (hk : (slotOf u k).run = (slotOf s k).run) : slotOpen u k = slotOpen s k := by
  unfold slotOpen; rw [h, hw, hk]

theorem slotDue_of_still {v w : Slot} (h : slotStill v = slotStill w) (n : Nat) : slotDue n v = slotDue n w := by
  unfold slotDue
  rw [bits_of_still h, show v.unit = w.unit from congrArg (fun x => x.2.2.1) h]

/-- An exchange at a boundary with no computation open. -/
theorem strokeBoundary_exchange {s : State} {a b : Nat} {copy : Bool} (hs : s.ce.swap = some (a, b, copy)) (hab : a ≠ b)
    (ho : ∀ k, slotOpen s k = false) (ht : s.tt.unit.st ≠ .stopping) :
    let u := dueSlots (beatStart s)
    u.ce.swap = none ∧ (slotOf u a).regs.out = (slotOf s b).regs.out ∧ (slotOf u b).regs.out = (slotOf s a).regs.out
      ∧ slotCrit (slotOf u a) = slotCrit (slotOf s b) ∧ slotCrit (slotOf u b) = slotCrit (slotOf s a)
      ∧ bits (slotOf u a).regs.ctl 28 2 = bits (slotOf s b).regs.ctl 28 2
      ∧ bits (slotOf u b).regs.ctl 28 2 = bits (slotOf s a).regs.ctl 28 2 := by
  intro u
  obtain ⟨ha, hb, hr⟩ := swapSlots_parts (s := counted s) hs hab
  have hrest := beatStart_rest s
  rw [swapSlots_rest (s := counted s) hs] at hrest
  have hopen : ∀ k, slotOpen (beatStart s) k = false := fun k => by
    have h1 := congrArg Trim.ready hrest
    have h2 := congrArg Trim.waiting hrest
    rw [slotOpen_of_ce (s := s) h1 h2]
    · exact ho k
    · rw [run_of_still (beatStart_still s k), hr]; rfl
  have hk : RegsKept (beatStart s) u := dueSlots_regs (.inr hopen) (by rw [(beatStart_frame s).tt_eq]; exact ht)
  have hctl : ∀ k, (slotOf u k).regs.ctl = (slotOf (swapSlots (counted s)) k).regs.ctl := fun k => by
    rw [hk k, bits_of_still (beatStart_still s k)]
  have hout : ∀ k, (slotOf u k).regs.out = (slotOf (swapSlots (counted s)) k).regs.out := fun k => by
    rw [hk k]; exact out_of_still (beatStart_still s k)
  have fin : ∀ {j k : Nat}, slotStill (slotOf (swapSlots (counted s)) j) = slotStill (takesOut (slotOf s j) (slotOf s k)) →
      (slotOf u j).regs.out = (slotOf s k).regs.out ∧ slotCrit (slotOf u j) = slotCrit (slotOf s k)
        ∧ bits (slotOf u j).regs.ctl 28 2 = bits (slotOf s k).regs.ctl 28 2 := fun {j k} h => by
    have hc : (slotOf u j).regs.ctl = (takesOut (slotOf s j) (slotOf s k)).regs.ctl := (hctl j).trans (bits_of_still h)
    refine ⟨((hout j).trans (out_of_still h)).trans (takesOut_out _ _), ?_, ?_⟩
    · rw [← takesOut_crit (slotOf s j) (slotOf s k), slotCrit_eq, slotCrit_eq, hc]
    · rw [hc, takesOut_ctl, (takesOut_fields _ _).2]
  obtain ⟨a1, a2, a3⟩ := fin (j := a) (k := b) ha
  obtain ⟨b1, b2, b3⟩ := fin (j := b) (k := a) hb
  refine ⟨?_, a1, b1, a2, b2, a3, b3⟩
  exact (clock_parts ((beatKept_dueSlots (beatStart s)).clock.trans (beatStart_clock s))).2.2.1

/-- A boundary with no exchange armed, outside HOLD, with no critical slot open. -/
theorem strokeBoundary_calm {s : State} (hs : s.ce.swap = none) (hn : (s.ce.slots.map Prod.fst).Nodup)
    (ht : s.tt.unit.st ≠ .stopping) (hh : s.gl.cur ≠ .hold) (hc : ∀ k, slotCrit (slotOf s k) = true → slotOpen s k = false) :
    let n := (s.ce.cnt + 1).toNat
    let u := dueSlots (beatStart s)
    let r := { s with ce := { s.ce with holdOn := false } }
    ∀ i, let v := slotOf s i; let w := slotOf u i
      (slotDue n v = false → w = v)
      ∧ (slotDue n v = true → slotOpen s i = true → w.run = none ∧ w.overrun = true ∧ w.ovr = satInc v.ovr
        ∧ u.ce.ovrAny.getLsbD i = decide (i < 64) ∧ (v.unit.st ≠ .stopping → w.vals = v.vals))
      ∧ (slotDue n v = true → slotOpen s i = false → v.unit.st = .stopping → w.unit = unitDone v.unit
        ∧ (v.regs.out.getLsbD 7 = true → bits v.regs.out 0 7 < 96 →
          Sent s u (.packet (bits v.regs.out 0 7 / 4) (bits v.regs.out 0 7 % 4) v.regs.safe)))
      ∧ (slotDue n v = true → slotOpen s i = false → v.unit.st ≠ .stopping → slotSkips r i = true →
        w = { v with frozen := true, ovrRun := 0, dueTb := s.tb, dueCnt := n })
      ∧ (slotDue n v = true → v.unit.st ≠ .stopping → slotSkips r i = false → w.frozen = false ∧ w.dueTb = s.tb
        ∧ w.dueCnt = n ∧ (i ∈ u.ce.ready ∨ ∃ l, (i, l) ∈ u.ce.waiting)) := by
  intro n u r i v w
  have hce := beatStart_calm hs hh
  have hf := beatStart_frame s
  obtain ⟨x, hx⟩ : ∃ x, x = beatStart s := ⟨_, rfl⟩
  have hu : u = dueSlots x := by rw [hx]
  rw [← hx] at hce hf
  have hslot : ∀ k, slotOf x k = slotOf s k := fun k => slotOf_of_slots (by rw [hce]) k
  have hopen : ∀ k, slotOpen x k = slotOpen s k := fun k => slotOpen_of_ce (by rw [hce]) (by rw [hce]) (by rw [hslot])
  have hcnt : x.ce.cnt.toNat = n := by rw [hce]
  have hn' : (x.ce.slots.map Prod.fst).Nodup := by rw [hce]; exact hn
  obtain ⟨o, b⟩ := dueSlots_calm hn' (fun k h => by rw [hopen]; rw [hslot] at h; exact hc k h) (by rw [hf.tt_eq]; exact ht)
  have hd : ∀ k, k ∈ dueList x ↔ slotDue n (slotOf s k) = true := fun k => by rw [mem_dueList hn', hcnt, hslot]
  have hov : ∀ k, slotOf (overPass x) k = if slotDue n (slotOf s k) = true ∧ slotOpen s k = true then overran (slotOf s k) else slotOf s k :=
    fun k => by simp only [o.slot k, hd, hopen, hslot]
  have hou : ∀ k, (slotOf (overPass x) k).unit = (slotOf s k).unit ∧ (slotOf (overPass x) k).regs = (slotOf s k).regs := fun k => by
    rw [hov]; split <;> exact ⟨rfl, rfl⟩
  have hsk : ∀ k, slotSkips (overPass x) k = slotSkips r k := fun k =>
    slotSkips_congr (s := r) (by rw [o.frame.sv_eq, hf.sv_eq]) (by rw [o.frame.sp_eq, hf.sp_eq])
      (by rw [o.frame.crew_eq, hf.crew_eq]) (by rw [o.frame.tb_eq, hf.tb_eq])
      ((congrArg (fun w => w.2.2.2) o.clock).trans (by rw [show (ceClock x).2.2.2 = x.ce.holdOn from rfl, hce]))
      (fun j => (hou j).1) (hou k).2
  obtain ⟨mstop, mskip, mgo⟩ := mem_passes (s := x) (k := i)
  rw [hd, (hou i).1] at mstop
  rw [hd, (hou i).1, hsk] at mskip mgo
  have hw := b.slot i
  rw [hf.tb_eq, hcnt, ← hu] at hw
  have hov' := hov i
  have hos := hou i
  refine ⟨fun h => ?_, fun h hop => ?_, fun h hop hst => ⟨?_, fun h7 h96 => ?_⟩, fun h hop hst hs => ?_, fun h hst hs => ?_⟩
  · rw [if_neg (fun k => by rw [h] at mgo; exact Bool.false_ne_true (mgo.mp k).1),
      if_neg (fun k => by rw [h] at mskip; exact Bool.false_ne_true (mskip.mp k).1),
      if_neg (fun k => by rw [h] at mstop; exact Bool.false_ne_true (mstop.mp k).1), hov',
      if_neg (fun k => by rw [h] at k; exact Bool.false_ne_true k.1)] at hw
    exact hw
  · rw [if_pos ⟨h, hop⟩] at hov'
    rw [hov'] at hw
    have hany := b.any i ((hd i).mpr h) (by rw [hopen]; exact hop)
    have hw4 : w.run = none ∧ w.overrun = true ∧ w.ovr = satInc v.ovr := by
      change slotOf u i = _ at hw
      rw [show w = slotOf u i from rfl, hw]
      split
      · exact ⟨rfl, rfl, rfl⟩
      · split
        · exact ⟨rfl, rfl, rfl⟩
        · split
          · exact halted_overran v
          · exact ⟨rfl, rfl, rfl⟩
    refine ⟨hw4.1, hw4.2.1, hw4.2.2, by rw [hu]; exact hany, fun hst => ?_⟩
    change slotOf u i = _ at hw
    rw [show w = slotOf u i from rfl, hw]
    split
    · rfl
    · split
      · rfl
      · rw [if_neg (fun k => hst (mstop.mp k).2)]; rfl
  · rw [if_neg (fun k => (mgo.mp k).2.1 hst), if_neg (fun k => (mskip.mp k).2.1 hst), if_pos (mstop.mpr ⟨h, hst⟩), hov',
      if_neg (fun k => by rw [hop] at k; exact Bool.false_ne_true k.2)] at hw
    change slotOf u i = _ at hw
    rw [show w = slotOf u i from rfl, hw]
    exact halted_unit v
  · have e : slotOf (overPass x) i = v := hov'.trans (if_neg (fun k => by rw [hop] at k; exact Bool.false_ne_true k.2))
    have k := dueSlots_safe hn' (fun k h => by rw [hopen]; rw [hslot] at h; exact hc k h) (by rw [hf.tt_eq]; exact ht)
      (mstop.mpr ⟨h, hst⟩) (by rw [e]; exact h7) (by rw [e]; exact h96)
    rw [e, ← hu] at k
    exact k.after hf
  · rw [if_neg (fun k => by rw [hs] at mgo; exact Bool.false_ne_true (mgo.mp k).2.2.symm), if_pos (mskip.mpr ⟨h, hst, hs⟩), hov',
      if_neg (fun k => by rw [hop] at k; exact Bool.false_ne_true k.2)] at hw
    exact hw
  · have hg := mgo.mpr ⟨h, hst, hs⟩
    rw [if_pos hg] at hw
    change slotOf u i = _ at hw
    refine ⟨?_, ?_, ?_, by rw [hu]; exact dueSlots_queued hg⟩ <;> rw [show w = slotOf u i from rfl, hw] <;> rfl

/-- HOLD at a boundary (R303). -/
theorem strokeBoundary_hold {s : State} (hc : s.gl.cur = .hold) (hs : s.ce.swap = none) (ht : s.tt.unit.st ≠ .stopping) {i : Nat}
    (hb : bits (slotOf s i).regs.ctl 28 2 = 1) : (slotOf (dueSlots (beatStart s)) i).regs.ramp.tgt = 0 := by
  have hf := beatStart_frame s
  have k := dueSlots_regs (s := beatStart s) (.inl (by rw [hf.gl_eq]; exact hc)) (by rw [hf.tt_eq]; exact ht)
  rw [k i, slotOf_of_ce (beatStart_ce s), swapSlots_none (s := counted s) hs]
  exact holdSlots_tgt (s := counted s) hc hb

/-- A critical slot that is due with its third overrun latches its cause. -/
theorem strokeBoundary_latches {s : State} (hs : s.ce.swap = none) {i : Nat} (hcr : slotCrit (slotOf s i) = true)
    (hd : slotDue (s.ce.cnt + 1).toNat (slotOf s i) = true) (ho : slotOpen s i = true) (hr : (slotOf s i).ovrRun = 2) :
    (dueSlots (beatStart s)).gl.latched.getLsbD 0 = true := by
  have hst : slotStill (slotOf (beatStart s) i) = slotStill (slotOf s i) := by
    rw [beatStart_still, swapSlots_none (s := counted s) hs]; rfl
  have hrest := beatStart_rest s
  rw [swapSlots_none (s := counted s) hs] at hrest
  have h1 := congrArg Trim.ready hrest
  have h2 := congrArg Trim.waiting hrest
  have hcnt : (beatStart s).ce.cnt = s.ce.cnt + 1 := congrArg Prod.fst (beatStart_clock s)
  refine dueSlots_latches (i := i) ⟨?_, ?_, ?_⟩ ?_
  · rw [slotCrit_eq, bits_of_still hst, ← slotCrit_eq]; exact hcr
  · rw [← hr]; exact congrArg (fun x => x.2.2.2.1) hst
  · rw [slotOpen_of_ce (s := s) h1 h2 (run_of_still hst)]; exact ho
  · rw [hcnt, slotDue_of_still hst]; exact hd

theorem slotOf_advance (t : Time) (s : State) (k : Nat) : slotOf (advance t s) k = slotOf s k := slotOf_of_ce (advance_ce t s) k

theorem slotOpen_advance (t : Time) (s : State) (k : Nat) : slotOpen (advance t s) k = slotOpen s k := by
  unfold slotOpen; rw [advance_ce, slotOf_advance]

/-- A lane takes the first ready slot. -/
theorem execSlotStart_ready {s : State} {i : Nat} {rest : List Nat} (h : s.ce.ready = i :: rest) (t : Time) :
    exec (.slotStart t) s = .next (setSlot i { slotOf s i with run := some (slotLatch (advance t s) i) }
      { advance t s with ce := { (advance t s).ce with ready := rest } }) := by
  change execSlotStart t s = _
  unfold execSlotStart
  dsimp only
  rw [show (advance t s).ce.ready = i :: rest by rw [advance_ce]; exact h]
  dsimp only
  rw [slotOf_advance]

theorem injection_none {s : State} (h : s.tt.unit.st ≠ .running) (i p : Nat) : injection s i p = 0 := by
  unfold injection ttInjects
  rw [decide_eq_false h, if_neg Bool.false_ne_true]

/-- Settles O46: the exchange, HOLD and the four passes over the due slots, each of which changes a slot once. -/
theorem strokeSchedule : Obligations.StrokeSchedule := by
  unfold Obligations.StrokeSchedule
  refine ⟨fun t s hl => ?_, fun t s hl => ?_, fun t s => ⟨fun h => ?_, fun i rest h => ?_⟩⟩
  · intro n
    obtain ⟨hcnt, htb, hswap, hon⟩ :=
      clock_parts ((beatKept_dueSlots (beatStart (advance t s))).clock.trans (beatStart_clock (advance t s)))
    have hgl : (advance t s).gl = s.gl := advance_gl t s
    have htt : (advance t s).tt = s.tt := advance_tt t s
    have hce : (advance t s).ce = s.ce := advance_ce t s
    refine ⟨_, execStrokeBoundary_eq hl t, ?_, ?_, fun hc hs ht => ⟨?_, fun i hb => ?_⟩, fun a b copy hs hab ho ht => ?_,
      fun hs hn => ⟨fun i hcr hd ho hr => ?_, fun ht hh hc => ⟨?_, ?_, ?_⟩⟩⟩
    · rw [hcnt, hce]
    · exact htb
    · rw [hon, hgl]; exact decide_eq_true hc
    · exact strokeBoundary_hold (by rw [hgl]; exact hc) (by rw [hce]; exact hs) (by rw [htt]; exact ht)
        (by rw [slotOf_advance]; exact hb)
    · have k := strokeBoundary_exchange (s := advance t s) (by rw [hce]; exact hs) hab
        (fun k => by rw [slotOpen_advance]; exact ho k) (by rw [htt]; exact ht)
      simp only [slotOf_advance] at k
      exact k
    · exact strokeBoundary_latches (by rw [hce]; exact hs) (by rw [slotOf_advance]; exact hcr)
        (by rw [slotOf_advance, hce]; exact hd) (by rw [slotOpen_advance]; exact ho) (by rw [slotOf_advance]; exact hr)
    · exact hswap
    · rw [hon, hgl]; exact decide_eq_false hh
    · have k := strokeBoundary_calm (s := advance t s) (by rw [hce]; exact hs) (by rw [hce]; exact hn) (by rw [htt]; exact ht)
        (by rw [hgl]; exact hh) (fun k h => by rw [slotOpen_advance]; rw [slotOf_advance] at h; exact hc k h)
      simp only [slotOf_advance, slotOpen_advance, hce] at k
      intro r i v w
      obtain ⟨k1, k2, k3, k4, k5⟩ := k i
      exact ⟨k1, k2, fun h1 h2 h3 => ⟨(k3 h1 h2 h3).1, fun h7 h96 => ((k3 h1 h2 h3).2 h7 h96).after (advance_frame t s)⟩, k4, k5⟩
  · change execStrokeBoundary t s = _
    have e : advance t s = s := by unfold advance; rw [hl]; rfl
    unfold execStrokeBoundary
    rw [e]
    dsimp only
    rw [hl]
    rfl
  · change execSlotStart t s = _
    unfold execSlotStart
    dsimp only
    rw [show (advance t s).ce.ready = [] by rw [advance_ce]; exact h]
  · refine ⟨_, slotLatch (advance t s) i, execSlotStart_ready h t, rfl, slotOf_setSlot _ _ _, fun k hk => ?_, ?_, ?_⟩
    · exact (slotOf_setSlot_other _ _ _ hk).trans (slotOf_advance t s k)
    · have k := congrArg (fun w : Trim => (w.waiting, w.due, w.cnt, w.swap)) (advance_ce t s)
      exact k
    · intro r a
      have hr : (slotOf a i).regs = r := by rw [slotOf_advance]
      refine ⟨hr, by rw [← slotOf_advance t s i]; rfl, ?_, ?_, ?_, ?_, fun hn => ?_⟩
      · rw [← hr]; rfl
      · rw [← hr]; rfl
      · rw [← hr]; rfl
      · rw [← hr]; rfl
      · have hi := injection_none (s := advance t s) (by rw [advance_tt]; exact hn) i
        exact ⟨hi 0, hi 1, hi 2⟩

end Sys2Proof.Machine
end

section
/-!
A slot's computation, its registers and its table (O47)
-/

namespace Sys2Proof.Machine
set_option Elab.async false

/-! ## A slot's computation, its registers and its table (O47) -/

/-- A chain of disabled sections passes its input (R297). -/
theorem sectionChain_disabled {l : List (SectRegs × SectHist)} (h : ∀ p ∈ l, p.1.en = false) (x : Int) : (sectionChain l x).1 = x := by
  induction l generalizing x with
  | nil => rfl
  | cons p r ih =>
    obtain ⟨g, k⟩ := p
    have he : g.en = false := h (g, k) List.mem_cons_self
    unfold sectionChain section1
    rw [he]
    exact ih (fun q hq => h q (List.mem_cons_of_mem _ hq)) x

theorem zip_disabled {l : List SectRegs} (h : ∀ g ∈ l, g.en = false) (k : List SectHist) : ∀ p ∈ l.zip k, p.1.en = false :=
  fun p hp => h p.1 (List.of_mem_zip (a := p.1) (b := p.2) hp).1

/-- The error, the output before its limits and the output of a computation with no section and no table (R296). -/
def plainSp (first : Bool) (l : Latched) : Int := if first = true ∧ l.regs.ctl.getLsbD 4 = true then l.m * 65536 else l.vals.rampSp

def plainErr (first : Bool) (l : Latched) : Int :=
  satN 32 (satN 32 (rne (plainSp first l) 16 + l.s1 + l.s2 + l.injSp) - l.m + l.injErr)

def plainOut (first : Bool) (l : Latched) : Int :=
  satN 32 (term l.regs.gains.kp (plainErr first l) + rne l.vals.integ 16
    + term l.regs.gains.kd (plainErr first l - (if first = true then plainErr first l else l.vals.ePrev))
    + term l.regs.gains.kff l.f + l.injOut)

def plainY (first : Bool) (l : Latched) : Int := max (i32 l.regs.omin) (min (plainOut first l) (i32 l.regs.omax))

/-- A computation with every section disabled and no learning table. -/
theorem compute_plain {first : Bool} {l : Latched} (hs : ∀ g ∈ l.regs.sects, g.en = false) (hb : l.bin = none) :
    (compute first l).vals.y = plainY first l ∧ (compute first l).u = plainY first l
      ∧ (compute first l).vals.ePrev = plainErr first l
      ∧ (compute first l).vals.integ = max (i32 l.regs.imin * 65536)
        (min (satN 48 (l.vals.integ + iterm l.regs.gains.ki (plainErr first l)
          + iterm l.regs.gains.kaw (plainY first l - plainOut first l))) (i32 l.regs.imax * 65536)) := by
  have hz := zip_disabled hs l.vals.hist
  have ht : ∀ (n : Nat) (x : Int), (sectionChain ((l.regs.sects.zip l.vals.hist).take n) x).1 = x := fun n x =>
    sectionChain_disabled (fun p hp => hz p (List.mem_of_mem_take hp)) x
  have hd : ∀ (n : Nat) (x : Int), (sectionChain ((l.regs.sects.zip l.vals.hist).drop n) x).1 = x := fun n x =>
    sectionChain_disabled (fun p hp => hz p (List.mem_of_mem_drop hp)) x
  have hrc : rcOut l = 0 := by unfold rcOut; rw [hb]
  have hsp : (if (first && l.regs.ctl.getLsbD 4) = true then l.m * 65536 else l.vals.rampSp) = plainSp first l := by
    simp only [plainSp, Bool.and_eq_true]
  have he : (sat32f ((sat32f (rne (plainSp first l) 16 + l.s1 + l.s2 + l.injSp)).1 - l.m + l.injErr)).1 = plainErr first l := rfl
  unfold compute
  simp only [ht, hd, hrc, hsp, he, Int.add_zero]
  exact ⟨rfl, rfl, trivial, rfl⟩

/-! ### A computation completes -/

/-- The values that a completed computation leaves. -/
def doneVals (i : Nat) (l : Latched) (s : State) : SlotVals :=
  let v := slotOf s i
  let c := compute v.fresh l
  let cap := tabGet 0 s.tt.caps i
  let table := match rcLearn l c.e with | some (k, w, _) => tabSet 0 v.vals.table k w | none => v.vals.table
  { c.vals with table := table, rcAddr := v.vals.rcAddr
                capA := capPoint l c (bits cap 0 4), capB := capPoint l c (bits cap 4 4) }

/-- The slot that a completed computation leaves. -/
def doneSlot (i : Nat) (l : Latched) (s : State) : Slot :=
  let v := slotOf s i
  let c := compute v.fresh l
  { v with vals := doneVals i l s, unit := match v.unit.st with | .starting => unitDone v.unit | _ => v.unit
           fresh := false, ovrRun := 0, seq := v.seq + 1, sat := v.sat || c.sat
           clampOut := c.clampOut, clampInt := c.clampInt, run := none }

/-- The slot, the engine's counts and the word of a completed computation. -/
def doneSent (i : Nat) (l : Latched) (s : State) : State :=
  let v := slotOf s i
  let c := compute v.fresh l
  let s := setSlot i (doneSlot i l s) s
  let s := { s with ce := { s.ce with
    lane := BitVec.ofNat 16 (max s.ce.lane.toNat (min 65535 ((s.tb - v.dueTb).toNat / 2)))
    satAny := if c.sat then s.ce.satAny ||| BitVec.ofNat 64 (2 ^ i) else s.ce.satAny } }
  if l.regs.out.getLsbD 7 ∧ bits l.regs.out 0 7 < 96 then sendWord (bits l.regs.out 0 7) (w32 c.u) s else s

/-- What else follows a completed computation. -/
def doneRest (i : Nat) (l : Latched) (v : Slot) (s : State) : State :=
  let c := compute v.fresh l
  let s := senseFast 6 (senseFast 5 (releaseWaiting i (capture i v.dueTb v.dueCnt (b2n c.sat) s)))
  let s := if l.quiet then s else forEach (gensOf s i) (fun g s => setGen g (genNext (genOf s g)) s) s
  if i = 12 ∨ i = 13 then profileWords s else s

theorem slotFinish_eq (i : Nat) (l : Latched) (s : State) :
    slotFinish i l s = if l.quiet then telltalePast i (doneRest i l (slotOf s i) (doneSent i l s))
      else doneRest i l (slotOf s i) (doneSent i l s) := rfl

/-- What a profile write leaves of a slot: all but its ramp limits. -/
def slotBody (v : Slot) : SlotVals × Unit_ × Bool × Nat × BitVec 16 × Option Latched := (v.vals, v.unit, v.fresh, v.ovrRun, v.seq, v.run)

theorem body_parts {v : Slot} {a : SlotVals} {b : Unit_} {c : Bool} {d : Nat} {e : BitVec 16} {f : Option Latched}
    (h : slotBody v = (a, b, c, d, e, f)) :
    v.vals = a ∧ v.unit = b ∧ v.fresh = c ∧ v.ovrRun = d ∧ v.seq = e ∧ v.run = f := by
  simpa [slotBody] using h

theorem profileWords_slot (s : State) (k : Nat) :
    slotBody (slotOf (profileWords s) k) = slotBody (slotOf s k) ∧ (k ≠ 12 → k ≠ 13 → slotOf (profileWords s) k = slotOf s k) := by
  have step : ∀ (j : Nat) (v : RampRegs) (x : State),
      slotBody (slotOf (setSlot (12 + j) { slotOf x (12 + j) with regs := { (slotOf x (12 + j)).regs with ramp := v } } x) k)
        = slotBody (slotOf x k) := fun j v x => by
    by_cases hk : k = 12 + j
    · subst hk; rw [slotOf_setSlot]; rfl
    · rw [slotOf_setSlot_other _ _ _ hk]
  refine ⟨?_, fun h1 h2 => ?_⟩
  · unfold profileWords
    refine foldl_keeps (fun z => slotBody (slotOf z k)) _ (fun j x => ?_) _ s
    dsimp only
    split
    · rfl
    · exact step j _ x
  · unfold profileWords
    simp only [show List.range 2 = [0, 1] from rfl, List.foldl_cons, List.foldl_nil]
    split
    · split
      · rfl
      · exact slotOf_setSlot_other _ _ _ h2
    · split
      · exact slotOf_setSlot_other _ _ _ h1
      · exact (slotOf_setSlot_other _ _ _ h2).trans (slotOf_setSlot_other _ _ _ h1)

theorem releaseWaiting_slots (i : Nat) (s : State) : (releaseWaiting i s).ce.slots = s.ce.slots := rfl

theorem doneRest_parts (i : Nat) (l : Latched) (v : Slot) (s : State) :
    Frame [.ce, .tt, .ic, .spill, .out] s (doneRest i l v s)
      ∧ (doneRest i l v s).tt.unit = s.tt.unit ∧ (doneRest i l v s).tt.left = s.tt.left
      ∧ (∀ k, slotBody (slotOf (doneRest i l v s) k) = slotBody (slotOf s k))
      ∧ (∀ k, k ≠ 12 → k ≠ 13 → slotOf (doneRest i l v s) k = slotOf s k) := by
  unfold doneRest
  extract_lets c x y
  have fx : Frame [.ce, .tt, .ic, .spill, .out] s x :=
    (senseFast_frame _ _).comp ((senseFast_frame _ _).comp ((releaseWaiting_frame _ _).comp ((capture_frame _ _ _ _ _).widen
      (l := [.ce, .tt, .ic, .spill, .out]) (by decide)) (by decide)) (by decide)) (by decide)
  have sx : x.ce.slots = s.ce.slots := by
    simp only [x, (senseFast_frame _ _).ce_eq]
    have k := congrArg Trim.slots (capture_frame i v.dueTb v.dueCnt (b2n c.sat) s).ce_eq
    exact (releaseWaiting_slots _ _).trans k
  have tx : x.tt = s.tt := by
    simp only [x, (senseFast_frame _ _).tt_eq, (releaseWaiting_frame _ _).tt_eq, (capture_frame _ _ _ _ _).tt_eq]
  clear_value x
  have hy : Frame [.tt] x y ∧ y.tt.unit = x.tt.unit ∧ y.tt.left = x.tt.left := by
    unfold y
    split
    · exact ⟨Frame.refl _ _, rfl, rfl⟩
    · exact ⟨Frame.forEach _ _ (fun _ _ h => (setGen_frame _ _ _).comp h (by decide)) (Frame.refl _ _),
        forEach_keeps (fun z : State => z.tt.unit) _ (fun g s => setGen g (genNext (genOf s g)) s) (fun _ _ => rfl) x,
        forEach_keeps (fun z : State => z.tt.left) _ (fun g s => setGen g (genNext (genOf s g)) s) (fun _ _ => rfl) x⟩
  obtain ⟨fy, uy, ly⟩ := hy
  clear_value y
  have fxy : Frame [.ce, .tt, .ic, .spill, .out] s y := fy.comp fx (by decide)
  have hs : ∀ k, slotOf y k = slotOf s k := fun k => slotOf_of_slots (by rw [fy.ce_eq, sx]) k
  split
  · refine ⟨(profileWords_frame _).comp fxy (by decide), ?_, ?_, fun k => ?_, fun k h1 h2 => ?_⟩
    · rw [(profileWords_frame _).tt_eq, uy, tx]
    · rw [(profileWords_frame _).tt_eq, ly, tx]
    · rw [(profileWords_slot y k).1, hs]
    · rw [(profileWords_slot y k).2 h1 h2, hs]
  · exact ⟨fxy, by rw [uy, tx], by rw [ly, tx], fun k => by rw [hs], fun k _ _ => hs k⟩

/-- A Telltale that stops with nothing owed is STOPPED. -/
theorem telltaleSettle_ends {s : State} (h : s.tt.unit = { st := .stopping, latch := none }) (hl : s.tt.left = []) :
    (telltaleSettle s).tt.unit = unitStopped ∧ (telltaleSettle s).tt.left = [] := by
  unfold telltaleSettle
  rw [if_pos ⟨by rw [h], hl⟩]
  extract_lets streams _ x y
  have hx : x.tt.unit = unitStopped ∧ x.tt.left = [] := ⟨by simp only [x, h]; rfl, hl⟩
  have fy : Frame [.spill, .ev, .out] x y :=
    Frame.forEach _ _ (fun _ _ k => (flushRequest_frame _ _ _).comp k (by decide)) (Frame.refl _ _)
  clear_value y
  have hy : y.tt.unit = unitStopped ∧ y.tt.left = [] := by rw [fy.tt_eq]; exact hx
  split
  · exact hy
  · rw [(tapeRest_frame _).tt_eq, (tidy_frame _).tt_eq, (complete_frame _ _ _ _ _ _).tt_eq]
    exact hy

theorem doneSent_parts (i : Nat) (l : Latched) (s : State) :
    Frame [.ce, .sp, .out] s (doneSent i l s) ∧ slotOf (doneSent i l s) i = doneSlot i l s
      ∧ (∀ k, k ≠ i → slotOf (doneSent i l s) k = slotOf s k)
      ∧ (l.regs.out.getLsbD 7 = true → bits l.regs.out 0 7 < 96 →
        tabGet 0 (doneSent i l s).sp.cmd (bits l.regs.out 0 7) = w32 (compute (slotOf s i).fresh l).u
          ∧ Sent s (doneSent i l s) (.packet (bits l.regs.out 0 7 / 4) (bits l.regs.out 0 7 % 4)
            (w32 (compute (slotOf s i).fresh l).u)))
      ∧ (l.regs.out.getLsbD 7 = false → (doneSent i l s).sp = s.sp) := by
  unfold doneSent
  extract_lets v c x _ y
  have fy : Frame [.ce] s y := (Frame.upd_ce _ _).comp (setSlot_frame i (doneSlot i l s) s) (by decide)
  have hy : y.ce.slots = x.ce.slots := rfl
  have h1 : slotOf y i = doneSlot i l s := (slotOf_of_slots hy i).trans (slotOf_setSlot _ _ _)
  have h2 : ∀ k, k ≠ i → slotOf y k = slotOf s k := fun k hk => (slotOf_of_slots hy k).trans (slotOf_setSlot_other _ _ _ hk)
  clear_value y
  split
  · rename_i h
    have f := sendWord_frame (bits l.regs.out 0 7) (w32 c.u) y
    refine ⟨f.comp (fy.widen (by decide)) (by decide), (slotOf_of_ce f.ce_eq i).trans h1,
      fun k hk => (slotOf_of_ce f.ce_eq k).trans (h2 k hk), fun _ _ => ⟨tabGet_tabSet_same _ _ _ _, (sendWord_sent _ _ _).after fy⟩,
      fun h7 => ?_⟩
    rw [h7] at h
    exact absurd h.1 Bool.false_ne_true
  · rename_i h
    exact ⟨fy.widen (by decide), h1, h2, fun h7 h96 => absurd ⟨h7, h96⟩ h, fun _ => fy.sp_eq⟩

theorem execSlotComplete_none {s : State} {slot : BitVec 6} (h : (slotOf s slot.toNat).run = none) (t : Time) :
    exec (.slotComplete t slot) s = .next (advance t s) := by
  change execSlotComplete t slot s = _
  unfold execSlotComplete
  dsimp only
  rw [slotOf_advance, h]

theorem execSlotComplete_some {s : State} {slot : BitVec 6} {l : Latched} (h : (slotOf s slot.toNat).run = some l) (t : Time) :
    exec (.slotComplete t slot) s = .next (slotFinish slot.toNat l (advance t s)) := by
  change execSlotComplete t slot s = _
  unfold execSlotComplete
  dsimp only
  rw [slotOf_advance, h]

/-- What a completed computation leaves while the Telltale does not stop. -/
theorem slotFinish_parts {i : Nat} {l : Latched} {s : State} (ht : s.tt.unit.st ≠ .stopping) :
    slotBody (slotOf (slotFinish i l s) i) = slotBody (doneSlot i l s)
      ∧ (∀ k, k ≠ i → k ≠ 12 → k ≠ 13 → slotOf (slotFinish i l s) k = slotOf s k)
      ∧ (l.regs.out.getLsbD 7 = true → bits l.regs.out 0 7 < 96 →
        tabGet 0 (slotFinish i l s).sp.cmd (bits l.regs.out 0 7) = w32 (compute (slotOf s i).fresh l).u
          ∧ Sent s (slotFinish i l s) (.packet (bits l.regs.out 0 7 / 4) (bits l.regs.out 0 7 % 4)
            (w32 (compute (slotOf s i).fresh l).u)))
      ∧ (l.regs.out.getLsbD 7 = false → (slotFinish i l s).sp = s.sp) := by
  obtain ⟨f1, d1, d2, d3, d4⟩ := doneSent_parts i l s
  obtain ⟨f2, u2, -, b2, o2⟩ := doneRest_parts i l (slotOf s i) (doneSent i l s)
  have hu : (doneRest i l (slotOf s i) (doneSent i l s)).tt.unit.st ≠ .stopping := by rw [u2, f1.tt_eq]; exact ht
  obtain ⟨f, hf⟩ : Frame [.tt] (doneRest i l (slotOf s i) (doneSent i l s)) (slotFinish i l s) ∧ True := by
    refine ⟨?_, trivial⟩
    rw [slotFinish_eq]
    split
    · exact telltalePast_frame_running hu
    · exact Frame.refl _ _
  have hsp : (slotFinish i l s).sp = (doneSent i l s).sp := by rw [f.sp_eq, f2.sp_eq]
  refine ⟨?_, fun k h1 h2 h3 => ?_, fun h7 h96 => ?_, fun h7 => ?_⟩
  · rw [slotOf_of_ce f.ce_eq, b2, d1]
  · rw [slotOf_of_ce f.ce_eq, o2 k h2 h3, d2 k h1]
  · obtain ⟨k1, k2⟩ := d3 h7 h96
    exact ⟨by rw [hsp]; exact k1, (k2.frame f2).frame f⟩
  · rw [hsp]; exact d4 h7

/-- The last computation that a STOPPING Telltale waited for (R308). -/
theorem slotFinish_stops {i : Nat} {l : Latched} {s : State} (hq : l.quiet = true)
    (ht : s.tt.unit = { st := .stopping, latch := none }) (hl : ∀ k ∈ s.tt.left, k = i) :
    (slotFinish i l s).tt.unit = unitStopped ∧ (slotFinish i l s).tt.left = [] := by
  obtain ⟨f1, -⟩ := doneSent_parts i l s
  obtain ⟨-, u2, l2, -⟩ := doneRest_parts i l (slotOf s i) (doneSent i l s)
  rw [f1.tt_eq] at u2 l2
  rw [slotFinish_eq, if_pos hq]
  generalize doneRest i l (slotOf s i) (doneSent i l s) = y at u2 l2
  have hnil : (y.tt.left.filter fun k => k != i) = [] := by
    rw [l2, List.filter_eq_nil_iff]
    intro k hk
    rw [hl k hk]; simp
  unfold telltalePast
  rw [hnil]
  exact telltaleSettle_ends (by rw [← ht, ← u2]) rfl

/-! ### A write of CTL -/

theorem bits_eq_extract (v : Word) (o n : Nat) : bits v o n = (v.extractLsb' o n).toNat := by
  unfold bits; rw [BitVec.extractLsb'_toNat, Nat.shiftRight_eq_div_pow]

/-- A field replaced by itself. -/
theorem putBits_bits (v : Word) (o n : Nat) : putBits v o n (bits v o n) = v := by
  unfold putBits
  have hle : bits v o n * 2 ^ o ≤ v.toNat :=
    Nat.le_trans (Nat.mul_le_mul_right _ (Nat.mod_le _ _)) (Nat.div_mul_le_self _ _)
  rw [Nat.mod_eq_of_lt (show bits v o n < 2 ^ n from Nat.mod_lt _ (Nat.two_pow_pos n)), Nat.sub_add_cancel hle,
    BitVec.ofNat_toNat, BitVec.setWidth_eq]

/-- The bits of CTL that a write carries. -/
abbrev ctlMask : Word := 0x3FFFFF1E#32

theorem bits_ctlMask (w : Word) : bits (w &&& ctlMask) 24 4 = bits w 24 4 ∧ bits (w &&& ctlMask) 28 2 = bits w 28 2 := by
  simp only [bits_eq_extract, BitVec.extractLsb'_and]
  rw [show ctlMask.extractLsb' 24 4 = BitVec.allOnes 4 by decide, show ctlMask.extractLsb' 28 2 = BitVec.allOnes 2 by decide]
  simp only [BitVec.and_allOnes, and_self]

/-- The fields of a write whose SPLIT and HOLD_ACT are in range are those of the masked word. -/
theorem ctl_written {w : Word} (h1 : bits w 24 4 ≤ 8) (h2 : bits w 28 2 ≠ 3) (old : Word) :
    putBits (putBits (w &&& ctlMask) 24 4 (if bits w 24 4 ≤ 8 then bits w 24 4 else bits old 24 4)) 28 2
      (if bits w 28 2 = 3 then bits old 28 2 else bits w 28 2) = w &&& ctlMask := by
  obtain ⟨e1, e2⟩ := bits_ctlMask w
  rw [if_pos h1, if_neg h2, ← e1, putBits_bits, ← e2, putBits_bits]

theorem bits_or_one (w : Word) : bits (w ||| 1#32) 24 4 = bits w 24 4 ∧ bits (w ||| 1#32) 28 2 = bits w 28 2 := by
  simp only [bits_eq_extract, BitVec.extractLsb'_or]
  rw [show (1#32).extractLsb' 24 4 = 0#4 by decide, show (1#32).extractLsb' 28 2 = 0#2 by decide]
  simp

theorem bits_and_even (w : Word) :
    bits (w &&& 0xFFFFFFFE#32) 24 4 = bits w 24 4 ∧ bits (w &&& 0xFFFFFFFE#32) 28 2 = bits w 28 2 := by
  simp only [bits_eq_extract, BitVec.extractLsb'_and]
  rw [show (0xFFFFFFFE#32).extractLsb' 24 4 = BitVec.allOnes 4 by decide,
    show (0xFFFFFFFE#32).extractLsb' 28 2 = BitVec.allOnes 2 by decide]
  simp only [BitVec.and_allOnes, and_self]

theorem ctlMask_even : ctlMask.getLsbD 0 = false := by decide

theorem ctl_started (value old : Word) :
    (((value ||| 1#32) &&& ctlMask) ||| (old &&& 1#32)) ||| 1#32 = (value &&& ctlMask) ||| 1#32 := by
  apply BitVec.eq_of_getLsbD_eq
  intro i hi
  simp only [BitVec.getLsbD_or, BitVec.getLsbD_and]
  by_cases h : i = 0
  · subst h; rw [ctlMask_even]; simp
  · have h1 : (1#32).getLsbD i = false := by simp [BitVec.getLsbD_one, h]
    simp [h1]

theorem ctl_stopped (value old : Word) :
    (((value &&& 0xFFFFFFFE#32) &&& ctlMask) ||| (old &&& 1#32)) &&& 0xFFFFFFFE#32 = value &&& ctlMask := by
  apply BitVec.eq_of_getLsbD_eq
  intro i hi
  simp only [BitVec.getLsbD_or, BitVec.getLsbD_and]
  by_cases h : i = 0
  · subst h; rw [ctlMask_even]; simp
  · have h1 : (1#32).getLsbD i = false := by simp [BitVec.getLsbD_one, h]
    have h2 : (0xFFFFFFFE#32).getLsbD i = true := by
      rw [show (0xFFFFFFFE#32) = ~~~1#32 from rfl, BitVec.getLsbD_not, h1, decide_eq_true hi]; decide
    simp [h1, h2]

/-- The slot that a write of CTL makes, before EN acts. -/
def ctlSlot (v : Slot) (w : Word) : Slot := { v with regs := { v.regs with ctl := (w &&& ctlMask) ||| (v.regs.ctl &&& 1#32) } }

theorem slotCtlWrite_taken {i : Nat} {w : Word} {s : State} (hw : slotWritable s i = true)
    (hs : w.getLsbD 0 = true → slotsMayStart s = true) (h1 : bits w 24 4 ≤ 8) (h2 : bits w 28 2 ≠ 3) :
    slotCtlWrite i w s = senseFast 6 (senseFast 5 (setSlot i
      (if w.getLsbD 0 then slotStart (ctlSlot (slotOf s i) w) else slotStop (ctlSlot (slotOf s i) w)) s)) := by
  have hg : (!slotWritable s i || (w.getLsbD 0 && !slotsMayStart s)) = false := by
    rw [hw]
    cases h : w.getLsbD 0 with
    | false => rfl
    | true => rw [hs h]; rfl
  unfold slotCtlWrite
  rw [hg, if_neg Bool.false_ne_true]
  dsimp only
  rw [ctl_written h1 h2]
  rfl

theorem slotCtlWrite_ignored {i : Nat} {w : Word} {s : State}
    (h : slotWritable s i = false ∨ (w.getLsbD 0 = true ∧ slotsMayStart s = false)) : slotCtlWrite i w s = s := by
  unfold slotCtlWrite
  rw [if_pos]
  rcases h with h | ⟨h1, h2⟩
  · rw [h]; rfl
  · rw [h1, h2]; simp

theorem setSlot_sensed (i : Nat) (v : Slot) (s : State) :
    slotOf (senseFast 6 (senseFast 5 (setSlot i v s))) i = v
      ∧ ∀ k, k ≠ i → slotOf (senseFast 6 (senseFast 5 (setSlot i v s))) k = slotOf s k := by
  have h : ∀ k, slotOf (senseFast 6 (senseFast 5 (setSlot i v s))) k = slotOf (setSlot i v s) k := fun k =>
    slotOf_of_ce (by rw [(senseFast_frame _ _).ce_eq, (senseFast_frame _ _).ce_eq]) k
  exact ⟨by rw [h, slotOf_setSlot], fun k hk => by rw [h, slotOf_setSlot_other _ _ _ hk]⟩

/-- The registers of slot `i` may be written and the slot started. -/
theorem slotWritable_of {s : State} {i : Nat} (h : s.gl.cur = .service ∨ (s.gl.cur = .calibrate ∧ 24 ≤ i)) (t : Time) :
    slotWritable (advance t s) i = true ∧ slotsMayStart (advance t s) = true := by
  unfold slotWritable slotsMayStart fetching
  rw [advance_gl]
  rcases h with h | ⟨h, hi⟩
  · simp [h]
  · simp [h, hi]

theorem slotWritable_not {s : State} {i : Nat} (h1 : s.gl.cur ≠ .service) (h2 : i < 24) (t : Time) :
    slotWritable (advance t s) i = false := by
  unfold slotWritable
  rw [advance_gl, decide_eq_false h1, decide_eq_false (Nat.not_le.mpr h2)]
  simp

theorem slotWritable_if {s : State} {i : Nat} (h : s.gl.cur = .service ∨ (24 ≤ i ∧ s.gl.cur ≠ .reset ∧ s.gl.cur ≠ .fill)) (t : Time) :
    slotWritable (advance t s) i = true := by
  unfold slotWritable fetching
  rw [advance_gl]
  rcases h with h | ⟨hi, h1, h2⟩
  · simp [h]
  · simp [hi, h1, h2]

theorem slotStart_stopped {v : Slot} (h : v.unit.st = .stopped) : slotStart v
    = slotArm { v with regs := { v.regs with ctl := v.regs.ctl ||| 1#32 }, unit := { st := .starting, latch := none } } := by
  unfold slotStart
  rw [h]
  simp [unitEnable, h]

theorem slotStop_running {v : Slot} (h : v.unit.st = .running) : slotStop v
    = { v with regs := { v.regs with ctl := v.regs.ctl &&& 0xFFFFFFFE#32 }, unit := { st := .stopping, latch := none } } := by
  unfold slotStop unitDisable
  rw [h]

theorem ceSwap_parts (w : Word) (s : State) : (ceSwap w s).ce.slots = s.ce.slots
    ∧ (w.getLsbD 31 = true → (ceSwap w s).ce.swap = some (bits w 0 6, bits w 8 6, w.getLsbD 16)) := by
  refine ⟨rfl, fun h => ?_⟩
  unfold ceSwap
  rw [h]
  rfl

/-- Settles O47: the arithmetic of a plain computation, and what each write of the slot's registers sets. -/
theorem slotComputation : Obligations.SlotComputation := by
  unfold Obligations.SlotComputation
  refine ⟨fun t slot s => ?_, fun t slot value s => ?_, fun t value s h1 h2 => ?_, fun t slot s => ?_⟩
  · intro i v
    refine ⟨fun h => execSlotComplete_none h t, fun l hl ht hsec hbin => ?_, fun l hl hq ht hlat hleft => ?_⟩
    · intro r g spIn x d w y
      have hv : slotOf (advance t s) i = v := slotOf_advance t s i
      obtain ⟨hb, ho, hc, hsp⟩ := slotFinish_parts (i := i) (l := l) (s := advance t s) (by rw [advance_tt]; exact ht)
      rw [hv] at hc
      obtain ⟨cy, cu, ce, ci⟩ := compute_plain (first := v.fresh) hsec hbin
      rw [cu] at hc
      have hdone : slotBody (doneSlot i l (advance t s)) = (doneVals i l (advance t s),
          (match v.unit.st with | .starting => unitDone v.unit | _ => v.unit), false, 0, v.seq + 1, none) := by rw [← hv]; rfl
      have hvals : (doneVals i l (advance t s)).y = y ∧ (doneVals i l (advance t s)).ePrev = x
          ∧ (doneVals i l (advance t s)).integ = max (i32 r.imin * 65536)
            (min (satN 48 (l.vals.integ + iterm g.ki x + iterm g.kaw (y - w))) (i32 r.imax * 65536)) := by
        unfold doneVals
        rw [hv]
        exact ⟨cy, ce, ci⟩
      rw [hdone] at hb
      obtain ⟨b1, b2, b3, b4, b5, b6⟩ := body_parts hb
      refine ⟨_, execSlotComplete_some hl t, ?_, ?_, ?_, b6, b3, b4, b5, ?_, fun k h1 h2 h3 => ?_, fun h7 h96 => ?_, fun h7 => ?_⟩
      · rw [b1]; exact hvals.1
      · rw [b1]; exact hvals.2.1
      · rw [b1]; exact hvals.2.2
      · rw [b2]
        cases h : v.unit.st <;> simp
      · exact (ho k h1 h2 h3).trans (slotOf_advance t s k)
      · exact ⟨(hc h7 h96).1, (hc h7 h96).2.after (advance_frame t s)⟩
      · rw [hsp h7, advance_sp]
    · have hu : (advance t s).tt.unit = { st := .stopping, latch := none } := by
        rw [advance_tt]
        cases hx : s.tt.unit with
        | mk a b => rw [hx] at ht hlat; exact (Unit_.mk.injEq ..).mpr ⟨ht, hlat⟩
      exact ⟨_, execSlotComplete_some hl t, slotFinish_stops hq hu (by rw [advance_tt]; exact hleft)⟩
  · intro i v
    have hv : slotOf (advance t s) i = v := slotOf_advance t s i
    refine ⟨fun hm h1 h2 => ⟨fun hst => ?_, fun hst => ?_⟩, fun h1 h2 => ?_, fun h1 h2 => ⟨?_, ?_⟩⟩
    · obtain ⟨hw, hs⟩ := slotWritable_of hm t
      have e : exec (.loopStart t slot value) s = .next (slotCtlWrite i (value ||| 1#32) (advance t s)) := rfl
      rw [slotCtlWrite_taken hw (fun _ => hs) (by rw [(bits_or_one value).1]; exact h1) (by rw [(bits_or_one value).2]; exact h2),
        if_pos (by simp), hv, slotStart_stopped (v := ctlSlot v (value ||| 1#32)) hst] at e
      obtain ⟨k1, k2⟩ := setSlot_sensed i (slotArm { ctlSlot v (value ||| 1#32) with
        regs := { (ctlSlot v (value ||| 1#32)).regs with ctl := (ctlSlot v (value ||| 1#32)).regs.ctl ||| 1#32 },
        unit := { st := .starting, latch := none } }) (advance t s)
      refine ⟨_, e, fun k hk => (k2 k hk).trans (slotOf_advance t s k), ?_⟩
      intro w
      rw [show w = _ from k1]
      exact ⟨rfl, congrArg (fun c => { v.regs with ctl := c }) (ctl_started value v.regs.ctl), rfl, rfl⟩
    · obtain ⟨hw, -⟩ := slotWritable_of hm t
      have e : exec (.loopStop t slot value) s = .next (slotCtlWrite i (value &&& 0xFFFFFFFE#32) (advance t s)) := rfl
      have h0 : (value &&& 0xFFFFFFFE#32).getLsbD 0 = false := by simp
      rw [slotCtlWrite_taken hw (fun h => by rw [h0] at h; cases h) (by rw [(bits_and_even value).1]; exact h1)
        (by rw [(bits_and_even value).2]; exact h2), h0, if_neg Bool.false_ne_true, hv] at e
      obtain ⟨k1, k2⟩ := setSlot_sensed i (slotStop (ctlSlot v (value &&& 0xFFFFFFFE#32))) (advance t s)
      refine ⟨_, e, fun k hk => (k2 k hk).trans (slotOf_advance t s k), ?_⟩
      rw [k1, slotStop_running (v := ctlSlot v (value &&& 0xFFFFFFFE#32)) hst]
      exact congrArg (fun c => { v with unit := { st := .stopping, latch := none }, regs := { v.regs with ctl := c } })
        (ctl_stopped value v.regs.ctl)
    · have e : exec (.loopStart t slot value) s = .next (slotCtlWrite i (value ||| 1#32) (advance t s)) := rfl
      rw [e, slotCtlWrite_ignored (.inr ⟨by simp, ?_⟩)]
      unfold slotsMayStart; rw [advance_gl]; simp [h1, h2]
    · have e : exec (.loopStart t slot value) s = .next (slotCtlWrite i (value ||| 1#32) (advance t s)) := rfl
      rw [e, slotCtlWrite_ignored (.inl (slotWritable_not h1 h2 t))]
    · have e : exec (.loopStop t slot value) s = .next (slotCtlWrite i (value &&& 0xFFFFFFFE#32) (advance t s)) := rfl
      rw [e, slotCtlWrite_ignored (.inl (slotWritable_not h1 h2 t))]
  · have hf : fetching (advance t s) = true := by rw [fetching_advance]; simp [fetching, h1, h2]
    have e : exec (.ceSwapWrite t value) s = .next (ceSwap value (advance t s)) := by
      change Host.Outcome.next (if fetching (advance t s) then _ else _) = _
      rw [hf]; rfl
    refine ⟨_, e, ?_, fun h => ?_⟩
    · exact (ceSwap_parts value (advance t s)).1.trans (by rw [advance_ce])
    · exact (ceSwap_parts value (advance t s)).2 h
  · intro i v next
    have hv : slotOf (advance t s) i = v := slotOf_advance t s i
    refine ⟨fun hl => ?_, fun value hm => ?_, fun value h1 h2 => ?_⟩
    · have hl' : regsLive (advance t s) = true := (read_advance regsLive (fun _ _ => rfl) t s).trans hl
      have e : exec (.rcDataAccess t slot none) s = .next (emit (.readValue 0 (0x18098 + 1024 * (i % 32))
          ((w32 (tabGet 0 v.vals.table v.vals.rcAddr)).setWidth 64)) (setSlot i next (advance t s))) := by
        change execRcDataAccess t slot none s = _
        unfold execRcDataAccess
        dsimp only
        rw [hl', if_pos rfl]
        unfold rcData
        dsimp only
        rw [hv]
      refine ⟨_, e, slotOf_setSlot i next (advance t s), ?_, fun k hk => ?_⟩
      · exact congrArg (List.cons _) (advance_out t s)
      · exact (slotOf_setSlot_other i next (advance t s) hk).trans (slotOf_advance t s k)
    · have e : exec (.rcDataAccess t slot (some value)) s = .next (setSlot i { v with vals := { v.vals with
          table := tabSet 0 v.vals.table v.vals.rcAddr (i32 value), rcAddr := (v.vals.rcAddr + 1) % 1024 } } (advance t s)) := by
        change execRcDataAccess t slot (some value) s = _
        unfold execRcDataAccess rcData
        dsimp only
        rw [if_pos (slotWritable_if hm t), hv]
      refine ⟨_, e, ?_, ?_, fun k hk => ?_, fun k hk => ?_⟩
      · rw [slotOf_setSlot]
      · rw [slotOf_setSlot]; exact tabGet_tabSet_same _ _ _ _
      · rw [slotOf_setSlot]; exact tabGet_tabSet_other _ _ _ hk
      · exact (slotOf_setSlot_other _ _ _ hk).trans (slotOf_advance t s k)
    · change execRcDataAccess t slot (some value) s = _
      unfold execRcDataAccess rcData
      dsimp only
      rw [if_neg (by rw [slotWritable_not h1 h2 t]; exact Bool.false_ne_true)]

end Sys2Proof.Machine
end

section
/-!
PROOFS. The board bus, the requests of the SPDM responder and the DOE mailbox (O42).
-/

namespace Sys2Proof.Machine
set_option Elab.async false

/-! ### Lengths of byte strings -/

theorem length_natLe (n v : Nat) : (natLe n v).length = n := by
  induction n generalizing v with
  | zero => rfl
  | succ n ih => exact congrArg (· + 1) (ih _)

theorem length_natBe (n v : Nat) : (natBe n v).length = n := by
  unfold natBe
  rw [List.length_reverse, length_natLe]

theorem length_shaRound {l : List Word} (h : l.length = 8) (kw : Word) : (shaRound l kw).length = 8 := by
  unfold shaRound
  split
  · rfl
  · exact h

theorem length_shaRounds {l : List Word} (h : l.length = 8) (kws : List Word) :
    (kws.foldl shaRound l).length = 8 := by
  induction kws generalizing l with
  | nil => exact h
  | cons kw kws ih => exact ih (length_shaRound h kw)

theorem length_shaBlock {l : List Word} (h : l.length = 8) (blk : List Byte) : (shaBlock l blk).length = 8 := by
  unfold shaBlock
  rw [List.length_zipWith, h, length_shaRounds h]
  rfl

theorem length_shaBlocks (n : Nat) {l : List Word} (h : l.length = 8) (p : List Byte) : (shaBlocks n l p).length = 8 := by
  induction n generalizing l p with
  | zero => exact h
  | succ n ih => exact ih (length_shaBlock h _) _

theorem length_shaH0 : shaH0.length = 8 := by
  unfold shaH0
  rw [List.length_map]
  rfl

/-- A hash is 32 bytes. -/
theorem length_sha256 (m : List Byte) : (sha256 m).length = 32 := by
  unfold sha256
  extract_lets z p
  rw [List.length_flatMap, show (fun w : Word => (natBe 4 w.toNat).length) = fun _ => 4 from funext fun w => length_natBe 4 _,
    List.map_const', List.sum_replicate_nat, length_shaBlocks _ length_shaH0]

theorem length_spdmHead (code p1 p2 : Nat) : (spdmHead code p1 p2).length = 4 := rfl

theorem four_le_spdmChain : 4 ≤ spdmChain.length := by
  unfold spdmChain
  simp only [List.length_append, length_natLe, List.length_cons, List.length_nil]
  omega

theorem length_slice_of {α : Type} {l : List α} {n : Nat} (h : n ≤ l.length) : (slice l 0 n).length = n := by
  unfold slice
  rw [List.drop_zero, List.length_take, Nat.min_eq_left h]

/-! ### The responder's answers -/

/-- The connection that a request does not come over. -/
def otherConn (c : SpdmConn) : SpdmConn := if c = .doe then .task else .doe

theorem spdmOf_setSpdm (c : SpdmConn) (v : Spdm) (x : State) :
    spdmOf (setSpdm c v x) c = v ∧ spdmOf (setSpdm c v x) (otherConn c) = spdmOf x (otherConn c) := by
  cases c <;> exact ⟨rfl, rfl⟩

/-- A response leaves, with its connection in state `v` and the other one as it was. -/
structure Replied (c : SpdmConn) (v : Spdm) (resp : List Byte) (x u : State) : Prop where
  own : spdmOf u c = v
  others : spdmOf u (otherConn c) = spdmOf x (otherConn c)
  out : u.out = .spdm c resp :: x.out

theorem Replied.sent {c : SpdmConn} {v : Spdm} {resp : List Byte} {x u : State} (h : Replied c v resp x u) :
    Sent x u (.spdm c resp) := ⟨[_], h.out, List.mem_singleton.2 rfl⟩

section
variable {c : SpdmConn} {x : State}

/-- A response of the responder, with no task command under way, changes no connection. -/
theorem spdmSend_parts (hb : c = .task → x.task.busy = false) (resp : List Byte) :
    (∀ k, spdmOf (spdmSend c resp x) k = spdmOf x k) ∧ (spdmSend c resp x).out = .spdm c resp :: x.out := by
  cases c with
  | doe => exact ⟨fun k => by cases k <;> rfl, rfl⟩
  | task =>
    have e : spdmSend .task resp x = emit (.spdm .task resp) x :=
      if_neg (by rw [show (emit (.spdm .task resp) x).task.busy = false from hb rfl]; decide)
    rw [e]
    exact ⟨fun k => by cases k <;> rfl, rfl⟩

theorem spdmReply_parts (hb : c = .task → x.task.busy = false) {v : Spdm} {resp : List Byte} (h4 : resp.length ≤ 4096)
    (hl : resp.length ≤ v.limit) : Replied c v resp x (spdmReply c v resp x) := by
  have e : spdmReply c v resp x = spdmSend c resp (setSpdm c v x) := if_neg (by omega)
  have hb' : c = .task → (setSpdm c v x).task.busy = false := by
    rw [(setSpdm_frame c v x).task_eq]
    exact hb
  obtain ⟨hc, ho⟩ := spdmSend_parts hb' resp
  obtain ⟨h1, h2⟩ := spdmOf_setSpdm c v x
  rw [e]
  exact ⟨(hc _).trans h1, (hc _).trans h2, by rw [ho, (setSpdm_frame c v x).out_eq]⟩

/-- `n` fresh numbers are used up. -/
def spent (n : Nat) (x : State) : State := { x with fresh := x.fresh + n }

theorem spdmOf_spent (n : Nat) (x : State) (k : SpdmConn) : spdmOf (spent n x) k = spdmOf x k := by cases k <;> rfl

theorem Replied.of_spent {v : Spdm} {resp : List Byte} {n : Nat} {u : State} (h : Replied c v resp (spent n x) u) :
    Replied c v resp x u := ⟨h.own, h.others.trans (spdmOf_spent n x _), h.out⟩

/-- A response that needs a signature waits for it, and a free RSA engine takes the operation. -/
theorem spdmSign_parts {v : Spdm} {resp msg : List Byte} (h4 : resp.length + 384 ≤ 4096)
    (hl : resp.length + 384 ≤ v.limit) (hr : x.se.rsa = none) (hw : x.se.rsaWait = []) :
    let u := spdmSign c v resp msg x
    u.se.rsa = some (.spdm c) ∧ (spdmOf u c).wait.isSome = true ∧ spdmOf u (otherConn c) = spdmOf x (otherConn c) := by
  intro u
  have e : u = rsaSubmit (.spdm c) (setSpdm c { v with wait := some (resp, msg) } x) := if_neg (by omega)
  have hr' : (setSpdm c { v with wait := some (resp, msg) } x).se.rsa = none := by cases c <;> exact hr
  have hw' : (setSpdm c { v with wait := some (resp, msg) } x).se.rsaWait = [] := by cases c <;> exact hw
  have hs := rsaSubmit_free hr' hw' (.spdm c)
  rw [← e] at hs
  have hk : ∀ k, spdmOf u k = spdmOf (setSpdm c { v with wait := some (resp, msg) } x) k := by
    intro k
    cases k
    · exact (congrArg Sec.doe hs :)
    · exact (congrArg Sec.task hs :)
  obtain ⟨h1, h2⟩ := spdmOf_setSpdm c { v with wait := some (resp, msg) } x
  exact ⟨congrArg Sec.rsa hs, by rw [hk, h1]; rfl, (hk _).trans h2⟩

theorem two_le_of_spdmCode {m : List Byte} (h : spdmCode m ≠ 0) : 2 ≤ m.length := by
  match m with
  | [] => exact absurd rfl h
  | [_] => exact absurd rfl h
  | _ :: _ :: _ => exact Nat.le_add_left 2 _

/-- A request of its row reaches the responder. -/
theorem spdmRow_reaches {code : Nat} {m : List Byte} (hf : fetching x = true) (hw : (spdmOf x c).wait = none)
    (hb : c = .task → x.task.busy = false) (hm : spdmCode m = code) : spdmRow code c m x = spdmAnswer c m x := by
  refine if_pos ?_
  rw [hf, hw, hm]
  cases c with
  | doe => simp
  | task => simp [hb rfl]

/-- A listed request of version 1.2, by its code. -/
theorem spdmAnswer_listed {m : List Byte} (h4 : m.length ≤ 4096) (hc : spdmListed (spdmCode m) = true)
    (hv : m.headD 0 = 0x12) (hn : spdmCode m ≠ 0x84) : spdmAnswer c m x =
      if spdmCode m = 0xE1 then spdmCapabilities c m x
      else if spdmCode m = 0xE3 then spdmAlgorithms c m x
      else if spdmCode m = 0x81 then spdmDigests c m x
      else if spdmCode m = 0x82 then spdmCertificate c m x
      else if spdmCode m = 0x83 then spdmChallenge c m x
      else spdmMeasurements c m x := by
  have h2 : 2 ≤ m.length := two_le_of_spdmCode (by intro h; rw [h] at hc; exact absurd hc (by decide))
  unfold spdmAnswer
  dsimp only
  rw [if_neg (by omega), if_neg (by simp [hc]), if_neg hn, if_neg (not_not_intro hv)]

/-- GET_VERSION is answered whatever the state of the connection. -/
theorem spdmVersion_parts {m : List Byte} (hb : c = .task → x.task.busy = false) (h4 : 4 ≤ m.length)
    (hv : m.headD 0 = 0x10) : Replied c (versioned m) versionResp x (spdmVersion c m x) := by
  have e : spdmVersion c m x = spdmReply c (versioned m) versionResp x := by
    unfold spdmVersion
    rw [if_neg (by omega), if_neg (not_not_intro hv)]
    rfl
  rw [e]
  exact spdmReply_parts hb (by decide) (show (8 : Nat) ≤ 4096 by decide)

theorem spdmCapabilities_parts {m : List Byte} (hb : c = .task → x.task.busy = false) (h1 : (spdmOf x c).st = 1)
    (hm : 20 ≤ m.length) (hl : 42 ≤ fieldLe m 12 4) (hs : fieldLe m 12 4 ≤ fieldLe m 16 4) :
    ∃ v resp, Replied c v resp x (spdmCapabilities c m x) ∧ v.st = 2 ∧ v.limit = fieldLe m 12 4 := by
  unfold spdmCapabilities
  extract_lets v resp
  rw [if_neg (by simp [v, h1]), if_neg (by omega)]
  have hr : resp.length = 20 := by
    simp only [resp, List.length_append, length_natLe, length_spdmHead, List.length_cons, List.length_nil]
  exact ⟨_, resp, spdmReply_parts hb (by omega) (by dsimp only; omega), rfl, rfl⟩

theorem spdmAlgorithms_parts {m : List Byte} (hb : c = .task → x.task.busy = false) (h2 : (spdmOf x c).st = 2)
    (hl : 42 ≤ (spdmOf x c).limit) (hm : 32 ≤ m.length) (hf : fieldLe m 4 2 = m.length)
    (h8 : (fieldLe m 8 4).testBit 2 = true) (h12 : (fieldLe m 12 4).testBit 0 = true) :
    ∃ v resp, Replied c v resp x (spdmAlgorithms c m x) ∧ v.st = 3 := by
  unfold spdmAlgorithms
  extract_lets v dmtf resp
  rw [if_neg (by simp [v, h2]), if_neg (by rw [h8, h12, hf]; simp; omega)]
  have hr : resp.length = 36 := by
    simp only [resp, List.length_append, length_natLe, length_spdmHead, List.length_cons, List.length_nil,
      List.length_replicate]
  have hv : 42 ≤ v.limit := hl
  exact ⟨_, resp, spdmReply_parts hb (by omega) (by dsimp only; omega), rfl⟩

section
variable {m : List Byte} (hb : c = .task → x.task.busy = false) (h3 : (spdmOf x c).st = 3) (hl : 42 ≤ (spdmOf x c).limit)
include hb h3 hl

theorem spdmDigests_parts (hm : 4 ≤ m.length) (hc : x.se.chain = true) :
    ∃ v, Replied c v (spdmHead 0x01 0 1 ++ sha256 spdmChain) x (spdmDigests c m x) := by
  unfold spdmDigests
  extract_lets v resp
  rw [if_neg (by simp [v, h3]), if_neg (by omega), if_neg (by simp [hc])]
  have hr : resp.length = 36 := by simp only [resp, List.length_append, length_sha256, length_spdmHead]
  have hv : 42 ≤ v.limit := hl
  exact ⟨_, spdmReply_parts hb (show resp.length ≤ _ by omega) (show resp.length ≤ v.limit by omega)⟩

theorem spdmCertificate_parts (hm : 8 ≤ m.length) (hs : fieldLe m 2 1 = 0) (ho : fieldLe m 4 2 = 0)
    (hn : fieldLe m 6 2 = 4) (hc : x.se.chain = true) :
    ∃ v, Replied c v (spdmHead 0x02 0 0 ++ natLe 2 4 ++ natLe 2 (spdmChain.length - 0 - 4) ++ slice spdmChain 0 4) x
      (spdmCertificate c m x) := by
  have h4 := four_le_spdmChain
  unfold spdmCertificate
  rw [ho, hn, hs]
  extract_lets v o n resp
  have hv : 42 ≤ v.limit := hl
  have en : n = 4 := by
    simp only [n, o]
    omega
  rw [if_neg (by simp [v, h3]), if_neg (by omega), if_neg (by simp [hc])]
  have er : resp = spdmHead 0x02 0 0 ++ natLe 2 4 ++ natLe 2 (spdmChain.length - 0 - 4) ++ slice spdmChain 0 4 := by
    simp only [resp, en, o]
  have hr : resp.length = 12 := by
    simp only [er, List.length_append, length_natLe, length_spdmHead, length_slice_of h4]
  rw [← er]
  exact ⟨_, spdmReply_parts hb (by omega) (show resp.length ≤ v.limit by omega)⟩

theorem spdmMeasurements_parts (hm : 4 ≤ m.length) (hs : fieldLe m 2 1 = 0) (ho : fieldLe m 3 1 = 0) :
    ∃ v rest, Replied c v (spdmHead 0x60 7 0 ++ rest) x (spdmMeasurements c m x) := by
  have hn : (measureNonce false x).1.length = 32 := by simp [measureNonce]
  have e : ∃ v : Spdm, v.limit = (spdmOf x c).limit ∧ spdmMeasurements c m x = spdmReply c v
      (spdmHead 0x60 7 0 ++ (natLe 1 0 ++ natLe 3 0 ++ (measureNonce false x).1 ++ [0#8, 0#8])) (spent 32 x) := by
    unfold spdmMeasurements
    rw [hs, ho]
    dsimp only
    rw [if_neg (by simp [h3]), if_neg (by simp; omega), if_neg (by simp), if_neg (by simp)]
    refine ⟨_, ?_, rfl⟩
    rfl
  obtain ⟨v, hv, e⟩ := e
  rw [e]
  refine ⟨v, _, (spdmReply_parts (x := spent 32 x) hb ?_ ?_).of_spent⟩ <;>
    simp only [List.length_append, length_natLe, length_spdmHead, hn, List.length_cons, List.length_nil] <;> omega

omit hb hl in
theorem spdmChallenge_parts (hl : 454 ≤ (spdmOf x c).limit) (hm : 36 ≤ m.length) (hs : fieldLe m 2 1 = 0)
    (ht : fieldLe m 3 1 = 0) (hk : x.se.idKey = true) (hd : x.cy.seeded = true) (hr : x.se.rsa = none)
    (hw : x.se.rsaWait = []) :
    let u := spdmChallenge c m x
    u.se.rsa = some (.spdm c) ∧ (spdmOf u c).wait.isSome = true ∧ spdmOf u (otherConn c) = spdmOf x (otherConn c) := by
  have hn : (drbgBytes 32 x).1.length = 32 := by simp [drbgBytes]
  have e : ∃ (v : Spdm) (msg : List Byte), v.limit = (spdmOf x c).limit ∧ spdmChallenge c m x = spdmSign c v
      (spdmHead 0x03 0 1 ++ sha256 spdmChain ++ (drbgBytes 32 x).1 ++ [] ++ [0#8, 0#8]) msg (spent 32 x) := by
    unfold spdmChallenge
    rw [hs, ht]
    dsimp only
    rw [if_neg (by simp [h3]), if_neg (by simp; omega), if_neg (by simp [hk]), if_neg (by simp [hd])]
    refine ⟨_, _, ?_, rfl⟩
    rfl
  obtain ⟨v, msg, hv, e⟩ := e
  have hlen : (spdmHead 0x03 0 1 ++ sha256 spdmChain ++ (drbgBytes 32 x).1 ++ [] ++ [0#8, 0#8]).length = 70 := by
    simp only [List.length_append, length_sha256, length_spdmHead, hn, List.length_cons, List.length_nil]
  have h := spdmSign_parts (c := c) (x := spent 32 x) (msg := msg) (by rw [hlen]; decide)
    (show _ ≤ v.limit by rw [hlen]; omega) hr hw
  rw [← e, spdmOf_spent] at h
  exact h

end

end

/-! ### The board bus -/

theorem fieldLe_natLe (v : Word) : BitVec.ofNat 32 (fieldLe (natLe 4 v.toNat) 0 4) = v := by
  have h : slice (natLe 4 v.toNat) 0 4 = natLe 4 v.toNat := rfl
  unfold fieldLe
  rw [h, leNat_natLe 4 v.toNat v.isLt, BitVec.ofNat_toNat, BitVec.setWidth_eq]

/-- A write of one word to TK_ARG0, where the registers respond and no command runs. -/
theorem boardTake_arg {src : BusSource} {x : State} (hl : taskLive src x = true) (hb : x.task.busy = false) (v : Word) :
    boardTake src (natLe 2 0x10 ++ natLe 4 v.toNat) x = setTaskArg 0 v x := by
  have ho : fieldLe (natLe 2 0x10 ++ natLe 4 v.toNat) 0 2 = 0x10 := rfl
  have hr : boardRegs (natLe 2 0x10 ++ natLe 4 v.toNat).length 0x10 ((natLe 2 0x10 ++ natLe 4 v.toNat).drop 2)
      = [(0x10, BitVec.ofNat 32 (fieldLe (natLe 4 v.toNat) 0 4))] := rfl
  unfold boardTake
  dsimp only
  rw [ho, if_neg (by decide), hr, fieldLe_natLe, forEach_cons, forEach_nil]
  dsimp only
  unfold taskWrite
  rw [if_neg (by simp [hl]), if_neg (by decide), if_pos (by decide), if_neg (by simp [hb]), if_pos (by decide)]

theorem taskArg_setTaskArg (n : Nat) (v : Word) (x : State) : taskArg (setTaskArg n v x) n = v := tabGet_tabSet_same ..

/-- The mode of the bus is settled. -/
def busMode (sm : Bool) (x : State) : State := { x with task := { x.task with smbus := some sm } }

section
variable {t : Time} {s : State} {address : BitVec 7}

theorem boardAddress_advance : boardAddress (advance t s) = boardAddress s := by
  unfold boardAddress
  rw [advance_task, (advance_frame t s).pins_eq]

section
variable (hf : fetching s = true) (ha : address = boardAddress s)
include hf ha

/-- A transaction to the device's address in I3C mode is taken. -/
theorem boardBusWrite_i3c (hs : s.task.smbus ≠ some true) (bytes : List Byte) :
    exec (.boardBusWrite t .i3c address bytes) s = .next (boardTake .i3c bytes (busMode false (advance t s))) := by
  have hf' : fetching (advance t s) = true := by rw [fetching_advance]; exact hf
  change execBoardBusWrite t .i3c address bytes s = _
  unfold execBoardBusWrite
  dsimp only
  rw [if_neg (by simp [hf', ha, boardAddress_advance]), if_neg (by rw [advance_task]; exact hs)]
  rfl

/-- A transaction to the device's address in SMBus mode is taken where its PEC is right, and counted where it is not. -/
theorem boardBusWrite_smbus (hs : s.task.smbus ≠ some false) {body : List Byte} (hb : 2 ≤ body.length) (pec : Byte) :
    exec (.boardBusWrite t .smbus address (body ++ [pec])) s = .next
      (if pec = boardPec address body then boardTake .smbus body (busMode true (advance t s))
      else { busMode true (advance t s) with
        task := { (busMode true (advance t s)).task with pecErrs := satInc s.task.pecErrs } }) := by
  have hf' : fetching (advance t s) = true := by rw [fetching_advance]; exact hf
  have hp : (busMode true (advance t s)).task.pecErrs = s.task.pecErrs := by
    rw [show (busMode true (advance t s)).task.pecErrs = (advance t s).task.pecErrs from rfl, advance_task]
  change execBoardBusWrite t .smbus address (body ++ [pec]) s = _
  unfold execBoardBusWrite
  dsimp only
  rw [if_neg (by simp [hf', ha, boardAddress_advance]), if_neg (by rw [advance_task]; exact hs),
    List.dropLast_concat, List.getLast?_concat]
  by_cases h : pec = boardPec address body
  · rw [if_pos h, if_neg (by simp), if_neg (by simp [h]; omega)]
    rfl
  · rw [if_neg h, if_neg (by simp), if_pos (by simp [h]), ← hp]
    rfl

end

/-- The board bus: writes in both modes, a wrong PEC, a timeout and a new address. -/
theorem boardBus (hf : fetching s = true) :
    (∀ (v : Word), address = boardAddress s → s.task.smbus ≠ some true → s.task.busy = false →
        ∃ u, exec (.boardBusWrite t .i3c address (natLe 2 0x10 ++ natLe 4 v.toNat)) s = .next u ∧ taskArg u 0 = v
          ∧ u.task.smbus = some false ∧ u.task.seq = s.task.seq)
      ∧ (∀ (body : List Byte) (pec : Byte), address = boardAddress s → s.task.smbus ≠ some false → 2 ≤ body.length →
        pec ≠ boardPec address body →
        ∃ u, exec (.boardBusWrite t .smbus address (body ++ [pec])) s = .next u
          ∧ u.task = { s.task with smbus := some true, pecErrs := satInc s.task.pecErrs })
      ∧ (∀ (v : Word), address = boardAddress s → s.task.smbus ≠ some false → s.task.busy = false →
        let body := natLe 2 0x10 ++ natLe 4 v.toNat
        ∃ u, exec (.boardBusWrite t .smbus address (body ++ [boardPec address body])) s = .next u ∧ taskArg u 0 = v
          ∧ u.task.smbus = some true ∧ u.task.pecErrs = s.task.pecErrs)
      ∧ exec (.smbusTimeout t) s = .next (advance t s)
      ∧ (s.task.smbus ≠ some true → ∃ u, exec (.setdasaOrEntdaa t address) s = .next u ∧ boardAddress u = address) := by
  have hf' : fetching (advance t s) = true := by rw [fetching_advance]; exact hf
  have hbusy : ∀ sm, s.task.busy = false → (busMode sm (advance t s)).task.busy = false := by
    intro sm h
    rw [show (busMode sm (advance t s)).task.busy = (advance t s).task.busy from rfl, advance_task, h]
  have htask : ∀ sm, (busMode sm (advance t s)).task = { s.task with smbus := some sm } := by
    intro sm
    rw [show (busMode sm (advance t s)).task = { (advance t s).task with smbus := some sm } from rfl, advance_task]
  refine ⟨fun v ha hs hb => ?_, fun body pec ha hs hb hp => ?_, fun v ha hs hb => ?_, rfl, fun hs => ?_⟩
  · refine ⟨_, boardBusWrite_i3c hf ha hs _, ?_⟩
    rw [boardTake_arg (src := .i3c) (x := busMode false (advance t s)) hf' (hbusy false hb)]
    exact ⟨taskArg_setTaskArg 0 v _, rfl, (congrArg Task.seq (htask false) :)⟩
  · refine ⟨_, boardBusWrite_smbus hf ha hs hb pec, ?_⟩
    rw [if_neg hp]
    exact congrArg (fun k : Task => { k with pecErrs := satInc s.task.pecErrs }) (htask true)
  · refine ⟨_, boardBusWrite_smbus hf ha hs (by simp [length_natLe]) _, ?_⟩
    rw [if_pos rfl, boardTake_arg (src := .smbus) (x := busMode true (advance t s)) hf' (hbusy true hb)]
    exact ⟨taskArg_setTaskArg 0 v _, rfl, (congrArg Task.pecErrs (htask true) :)⟩
  · refine ⟨{ advance t s with task := { (advance t s).task with smbus := some false, dynAddr := some address } }, ?_, rfl⟩
    change execSetdasaOrEntdaa t address s = _
    unfold execSetdasaOrEntdaa
    dsimp only
    rw [if_neg (by rw [hf', advance_task]; simpa using hs)]

/-! ### The requests of a connection -/

theorem spdmOf_advance (c : SpdmConn) : spdmOf (advance t s) c = spdmOf s c := by
  cases c <;> simp only [spdmOf, advance_se]

theorem Replied.of_advance {c : SpdmConn} {v : Spdm} {resp : List Byte} {u : State} (h : Replied c v resp (advance t s) u) :
    Replied c v resp s u :=
  ⟨h.own, h.others.trans (spdmOf_advance _), by rw [h.out, advance_out]⟩

/-- What the requests of a connection rest on: the device is up, and the connection can take one. -/
structure Asks (c : SpdmConn) (m : List Byte) (s : State) : Prop where
  up : fetching s = true
  free : (spdmOf s c).wait = none
  task : c = .task → s.task.busy = false
  short : m.length ≤ 4096
  limit : 42 ≤ (spdmOf s c).limit

variable {c : SpdmConn} {m : List Byte}

theorem Asks.advance (h : Asks c m s) : Asks c m (advance t s) := by
  obtain ⟨hu, hw, hb, hs, hl⟩ := h
  exact ⟨by rw [fetching_advance]; exact hu, by rw [spdmOf_advance]; exact hw, by rw [advance_task]; exact hb, hs,
    by rw [spdmOf_advance]; exact hl⟩

theorem Asks.row (h : Asks c m s) {code : Nat} (hm : spdmCode m = code) : spdmRow code c m s = spdmAnswer c m s :=
  spdmRow_reaches h.up h.free h.task hm

theorem getVersion_answered (h : Asks c m s) (hc : spdmCode m = 0x84) (hv : m.headD 0 = 0x10) (h4 : 4 ≤ m.length) :
    ∃ u, exec (.getVersion t c m) s = .next u ∧ Replied c (versioned m) versionResp s u := by
  have k := h.advance (t := t)
  have e : spdmRow 0x84 c m (Machine.advance t s) = spdmVersion c m (Machine.advance t s) := by
    rw [k.row hc]
    unfold spdmAnswer
    dsimp only
    rw [if_neg (by have := k.short; omega), if_neg (by rw [hc]; decide), if_pos hc]
  exact ⟨_, congrArg Host.Outcome.next e, (spdmVersion_parts k.task h4 hv).of_advance⟩

section
variable (h : Asks c m s) (hv : m.headD 0 = 0x12)
include h hv

theorem getCapabilities_runs (hc : spdmCode m = 0xE1) :
    exec (.getCapabilities t c m) s = .next (spdmCapabilities c m (Machine.advance t s)) := by
  have k := h.advance (t := t)
  refine congrArg Host.Outcome.next ((k.row hc).trans ?_)
  rw [spdmAnswer_listed k.short (by rw [hc]; decide) hv (by omega), if_pos hc]

theorem negotiateAlgorithms_runs (hc : spdmCode m = 0xE3) :
    exec (.negotiateAlgorithms t c m) s = .next (spdmAlgorithms c m (Machine.advance t s)) := by
  have k := h.advance (t := t)
  refine congrArg Host.Outcome.next ((k.row hc).trans ?_)
  rw [spdmAnswer_listed k.short (by rw [hc]; decide) hv (by omega), hc]
  rfl

theorem getDigests_runs (hc : spdmCode m = 0x81) :
    exec (.getDigests t c m) s = .next (spdmDigests c m (Machine.advance t s)) := by
  have k := h.advance (t := t)
  refine congrArg Host.Outcome.next ((k.row hc).trans ?_)
  rw [spdmAnswer_listed k.short (by rw [hc]; decide) hv (by omega), hc]
  rfl

theorem getCertificate_runs (hc : spdmCode m = 0x82) :
    exec (.getCertificate t c m) s = .next (spdmCertificate c m (Machine.advance t s)) := by
  have k := h.advance (t := t)
  refine congrArg Host.Outcome.next ((k.row hc).trans ?_)
  rw [spdmAnswer_listed k.short (by rw [hc]; decide) hv (by omega), hc]
  rfl

theorem challenge_runs (hc : spdmCode m = 0x83) :
    exec (.challenge t c m) s = .next (spdmChallenge c m (Machine.advance t s)) := by
  have k := h.advance (t := t)
  refine congrArg Host.Outcome.next ((k.row hc).trans ?_)
  rw [spdmAnswer_listed k.short (by rw [hc]; decide) hv (by omega), hc]
  rfl

theorem getMeasurements_runs (hc : spdmCode m = 0xE0) :
    exec (.getMeasurements t c m) s = .next (spdmMeasurements c m (Machine.advance t s)) := by
  have k := h.advance (t := t)
  refine congrArg Host.Outcome.next ((k.row hc).trans ?_)
  rw [spdmAnswer_listed k.short (by rw [hc]; decide) hv (by omega), hc]
  rfl

end

/-- The DOE mailbox: Discovery, Abort and a read of the response. -/
theorem doeMailbox (hf : fetching s = true) :
      (∀ index : Byte, ∃ u, exec (.doeDiscovery t index) s = .next u ∧ u.se.doe = s.se.doe
        ∧ u.se.doeResp = some (natLe 4 (if index = 0 then 0x01000001 else if index = 1 then 0x00010001 else 0x0000FFFF)))
      ∧ (∃ u, exec (.doeAbort t) s = .next u ∧ u.se.doe = spdmInitial ∧ u.se.doeResp = none ∧ u.se.task = s.se.task)
      ∧ ∀ b, s.se.doeResp = some b → ∃ u, exec (.doeResponseRead t) s = .next u ∧ Sent s u (.doe b) ∧ u.se.doeResp = none := by
  have hf' : fetching (advance t s) = true := by rw [fetching_advance]; exact hf
  refine ⟨fun index => ?_, ?_, fun b hb => ?_⟩
  · refine ⟨_, if_neg (by simp [hf']), (congrArg Sec.doe (advance_se t s) :), congrArg (fun n => some (natLe 4 n)) ?_⟩
    split
    · next h => rw [if_pos (BitVec.eq_of_toNat_eq h)]
    · next h => rw [if_neg (by rintro rfl; exact absurd h (by decide)), if_pos (BitVec.eq_of_toNat_eq h)]
    · next h0 h1 =>
      rw [if_neg (by rintro rfl; exact h0 rfl), if_neg (by rintro rfl; exact h1 rfl)]
  · exact ⟨_, if_neg (by simp [hf']), rfl, rfl, (congrArg Sec.task (advance_se t s) :)⟩
  · refine ⟨emit (.doe b) { advance t s with se := { (advance t s).se with doeResp := none } }, ?_,
      ⟨[_], congrArg _ (advance_out t s), List.mem_singleton.2 rfl⟩, rfl⟩
    change execDoeResponseRead t s = _
    unfold execDoeResponseRead
    dsimp only
    rw [show (advance t s).se.doeResp = some b by rw [advance_se]; exact hb]

end

/-- Settles O42: a board-bus write names one register of the block, each SPDM request that is in order is answered by
its own row with the other connection untouched, and the DOE mailbox holds one response. -/
theorem boardBusAndSpdm : Obligations.BoardBusAndSpdm := by
  unfold Obligations.BoardBusAndSpdm
  refine ⟨fun t address s hf => boardBus hf, fun t conn m s hf hw hb hm hl => ?_, fun t s hf => doeMailbox hf⟩
  intro other
  have ho : other = otherConn conn := rfl
  clear_value other
  subst ho
  have h : Asks conn m s := ⟨hf, hw, hb, hm, hl⟩
  obtain ⟨-, -, ka, -, kl⟩ := h.advance (t := t)
  have hst : spdmOf (advance t s) conn = spdmOf s conn := spdmOf_advance conn
  have hse : (advance t s).se = s.se := advance_se t s
  refine ⟨fun hc hv h4 => ?_, fun hv => ⟨fun hc hlen h42 hle h1 => ?_, fun hc h1 => ?_, fun hc hlen hf4 h8 h12 h2 => ?_,
    fun h3 => ?_⟩⟩
  · obtain ⟨u, hu, r⟩ := getVersion_answered (t := t) h hc hv h4
    exact ⟨u, hu, by rw [r.own]; rfl, r.others, r.sent⟩
  · obtain ⟨v, resp, r, hv2, hvl⟩ := spdmCapabilities_parts ka (by rw [hst]; exact h1) hlen h42 hle
    have r := r.of_advance
    exact ⟨_, getCapabilities_runs h hv hc, by rw [r.own]; exact hv2, by rw [r.own]; exact hvl, r.others⟩
  · have e : spdmCapabilities conn m (advance t s) = spdmSend conn (spdmError 4 0) (advance t s) :=
      if_pos (by rw [hst]; exact h1)
    obtain ⟨hk, hout⟩ := spdmSend_parts ka (spdmError 4 0)
    refine ⟨_, getCapabilities_runs h hv hc, ?_⟩
    rw [e]
    exact ⟨⟨[_], hout.trans (congrArg _ (advance_out t s)), List.mem_singleton.2 rfl⟩, (hk conn).trans hst⟩
  · obtain ⟨v, resp, r, hv3⟩ := spdmAlgorithms_parts ka (by rw [hst]; exact h2) kl hlen hf4 h8 h12
    have r := r.of_advance
    exact ⟨_, negotiateAlgorithms_runs h hv hc, by rw [r.own]; exact hv3, r.others⟩
  have k3 : (spdmOf (advance t s) conn).st = 3 := by rw [hst]; exact h3
  refine ⟨fun hc hlen hch => ?_, fun hc hlen h2 h4 h6 hch => ?_, fun hc hlen h2 hz hid hsd hlim hr hrw => ?_,
    fun hc hlen h2 hz => ?_⟩
  · obtain ⟨v, r⟩ := spdmDigests_parts ka k3 kl hlen (by rw [hse]; exact hch)
    exact ⟨_, getDigests_runs h hv hc, r.of_advance.sent, r.of_advance.others⟩
  · obtain ⟨v, r⟩ := spdmCertificate_parts ka k3 kl hlen h2 h4 h6 (by rw [hse]; exact hch)
    exact ⟨_, getCertificate_runs h hv hc, r.of_advance.sent, r.of_advance.others⟩
  · obtain ⟨h1, hwt, hot⟩ := spdmChallenge_parts k3 (by rw [hst]; exact hlim) hlen h2 hz (by rw [hse]; exact hid)
      (by rw [advance_cy]; exact hsd) (by rw [hse]; exact hr) (by rw [hse]; exact hrw)
    exact ⟨_, challenge_runs h hv hc, h1, hwt, hot.trans (spdmOf_advance _)⟩
  · obtain ⟨v, rest, r⟩ := spdmMeasurements_parts ka k3 kl hlen h2 hz
    exact ⟨_, rest, getMeasurements_runs h hv hc, r.of_advance.sent, r.of_advance.others⟩

end Sys2Proof.Machine
end

section
/-!
PROOFS. The results of read-while-write verify (O53).
-/

namespace Sys2Proof.Machine
set_option Elab.async false

/-! ### What a failing attempt leaves alone -/

/-- No copy is awaited anew, and the statistics of the channels and the counts of failed frames stand. -/
structure VerifyKept (s u : State) : Prop where
  copies : ∀ x ∈ u.wr.copies, ∃ y ∈ s.wr.copies, y.id = x.id
  elems : u.wr.elems = s.wr.elems
  fail : u.fm.vfyFail = s.fm.vfyFail
  late : u.fm.vfyLate = s.fm.vfyLate

theorem VerifyKept.refl (s : State) : VerifyKept s s := ⟨fun x hx => ⟨x, hx, rfl⟩, rfl, rfl, rfl⟩

theorem VerifyKept.trans {s u w : State} (h : VerifyKept s u) (k : VerifyKept u w) : VerifyKept s w := by
  refine ⟨fun x hx => ?_, k.elems.trans h.elems, k.fail.trans h.fail, k.late.trans h.late⟩
  obtain ⟨y, hy, e⟩ := k.copies x hx
  obtain ⟨z, hz, e'⟩ := h.copies y hy
  exact ⟨z, hz, e'.trans e⟩

theorem VerifyKept.of_eq {s u : State} (hw : u.wr = s.wr) (hf : u.fm = s.fm) : VerifyKept s u :=
  ⟨fun x hx => ⟨x, hw ▸ hx, rfl⟩, by rw [hw], by rw [hf], by rw [hf]⟩

theorem VerifyKept.forEach {α : Type} (l : List α) {op : α → State → State} (h : ∀ a x, VerifyKept x (op a x)) (s : State) :
    VerifyKept s (forEach l op s) := by
  induction l generalizing s with
  | nil => exact .refl s
  | cons a r ih => rw [forEach_cons]; exact (h a s).trans (ih _)

theorem exists_id_of_mem_map {l : List Copy} {f : Copy → Copy} (h : ∀ c, (f c).id = c.id) {x : Copy} (hx : x ∈ l.map f) :
    ∃ y ∈ l, y.id = x.id := by
  obtain ⟨y, hy, rfl⟩ := List.mem_map.1 hx
  exact ⟨y, hy, (h y).symm⟩

theorem setFails_verifyKept (d : DataSet) (s : State) : VerifyKept s (setFails d s) := by
  unfold setFails
  extract_lets p out ranges v v' _ _ x y
  have hx : VerifyKept s x := ⟨fun z hz => exists_id_of_mem_map (fun c => by split <;> rfl) hz, rfl, rfl, rfl⟩
  have hy : VerifyKept x y :=
    have hl : ∀ l : Lost, ∀ z, VerifyKept z
        (addLosses 2 (((out.find? fun o => o.block == l.first).map fun o => o.seq).getD 0) [l] z) := fun l z =>
      .of_eq (addLosses_frame _ _ _ _).wr_eq (addLosses_frame _ _ _ _).fm_eq
    .forEach ranges hl x
  have hz : VerifyKept y (tidy (dropElements p y)) :=
    .of_eq (by rw [(tidy_frame _).wr_eq, (dropElements_frame _ _).wr_eq])
      (by rw [(tidy_frame _).fm_eq, (dropElements_frame _ _).fm_eq])
  exact (hx.trans hy).trans hz

theorem goBack_verifyKept (d : Nat) (next : SetRun → Nat) (s : State) : VerifyKept s (goBack d next s) :=
  ⟨fun _ hz => exists_id_of_mem_map (fun c => by split <;> rfl) hz, rfl, rfl, rfl⟩

theorem attemptsFail_verifyKept (dsns : List Nat) (s : State) : VerifyKept s (attemptsFail dsns s) := by
  unfold attemptsFail
  extract_lets runs counted _ x ends backs y
  have hx : VerifyKept s x := ⟨fun z hz => ⟨z, hz, rfl⟩, rfl, rfl, rfl⟩
  have hy : VerifyKept x y := .forEach ends (fun r z => setFails_verifyKept r.set z) x
  clear_value x y
  split
  · exact hx.trans hy
  · exact (hx.trans hy).trans (goBack_verifyKept _ _ _)

/-! ### A channel that is benched or degraded -/

theorem bumpEpochs_cause (units : List Nat) (s : State) (i : Nat) :
    (crewOf (bumpEpochs units s) i).cause = (crewOf s i).cause := by
  unfold bumpEpochs
  extract_lets x c y
  have hx : (crewOf x i).cause = (crewOf s i).cause :=
    forEach_keeps (fun z => (crewOf z i).cause) units _ (fun a z => by
      by_cases k : i = a
      · subst k; simp
      · simp [crewOf_setCrew_other _ _ _ k]) s
  have hy : y.crew.roster = x.crew.roster := rfl
  clear_value x y
  have hf : Frame [.lk, .out] y (forEach (List.filterMap laneOfUnit units).eraseDups sessionAdvance y) :=
    Frame.forEach _ _ (fun a z h => (sessionAdvance_frame _ _).comp h (by decide)) (Frame.refl _ _)
  rw [crewOf_congr (s := x) (by rw [hf.crew_eq, hy]), hx]

/-- A unit that is benched holds the cause (R43). -/
theorem setUnitState_benched_cause {i : Nat} {s : State} (h : (crewOf s i).st ≠ .benched) (cause : Nat) :
    (crewOf (setUnitState i .benched cause s) i).cause = BitVec.ofNat 4 cause := by
  unfold setUnitState setUnitsState unitsChange
  extract_lets ch olds x y
  have hch : ch = [(i, .benched)] := List.filter_eq_self.2 (by simpa using h)
  have hx : (crewOf x i).cause = BitVec.ofNat 4 cause := by
    simp only [x, hch, forEach_cons, forEach_nil]
    have e := fun v => congrArg Crew.cause (crewOf_setCrew i v s)
    unfold crewOf at e ⊢
    rw [e]
    simp only [if_true]
  have hy : (crewOf y i).cause = (crewOf x i).cause := bumpEpochs_cause _ x i
  clear_value x y
  have hf : ∀ l : List (Nat × CrewSt × CrewSt), Frame [.ic, .spill, .ev, .out] y (forEach l (fun (i, old, st) s =>
    let c := crewOf s i
    pulseInternal 214 (event 0 0 0x10
      [BitVec.ofNat 64 (i + crewCode old * 2 ^ 16 + crewCode st * 2 ^ 18 + c.cause.toNat * 2 ^ 20 + c.epoch.toNat * 2 ^ 32)] s)) y) :=
    fun l => Frame.forEach _ _ (fun a z h => (pulseInternal_frame _ _).comp ((event_frame _ _ _ _ _).comp h (by decide)) (by decide)) (Frame.refl _ _)
  rw [crewOf_congr (s := y) (by rw [(hf olds).crew_eq]), hy, hx]

/-- What a benching leaves of the write side: the data sets, the rewrites and the counts of each channel. -/
structure BenchKept (s u : State) : Prop where
  copies : ∀ x ∈ u.wr.copies, ∃ y ∈ s.wr.copies, y.id = x.id
  queue : u.wr.queue = s.wr.queue
  sets : u.wr.sets = s.wr.sets
  stats : ∀ e, (elemOf u e).fails = (elemOf s e).fails ∧ (elemOf u e).run = (elemOf s e).run
    ∧ (elemOf u e).window = (elemOf s e).window

theorem benchElem_wr (e cause : Nat) (s : State) : (benchElem e cause s).wr =
    { s.wr with copies := s.wr.copies.map fun c => if c.elem = e then { c with doomed := true } else c } := by
  unfold benchElem doomCopies
  dsimp only
  rw [(setUnitState_frame e .benched cause s).wr_eq]

theorem benchElem_crew (e cause : Nat) (s : State) :
    crewOf (benchElem e cause s) e = crewOf (setUnitState e .benched cause s) e := rfl

theorem elemOf_congr {s u : State} (h : u.wr.elems = s.wr.elems) (e : Nat) : elemOf u e = elemOf s e :=
  congrArg (fun l => tabGet elemStatZero l e) h

theorem benchElem_kept (e cause : Nat) (s : State) : BenchKept s (benchElem e cause s) := by
  have h := benchElem_wr e cause s
  generalize benchElem e cause s = u at h
  have hs := elemOf_congr (s := s) (u := u) (by rw [h])
  refine ⟨fun x hx => ?_, by rw [h], by rw [h], fun k => ?_⟩
  · rw [h] at hx
    exact exists_id_of_mem_map (fun c => by split <;> rfl) hx
  · rw [hs]; exact ⟨rfl, rfl, rfl⟩

/-- A channel is marked degraded. -/
def degrade (e : Nat) (s : State) : State := setElem e { elemOf s e with degraded := true } s

theorem degrade_kept (e : Nat) (s : State) : BenchKept s (degrade e s) := by
  refine ⟨fun x hx => ⟨x, hx, rfl⟩, rfl, rfl, fun k => ?_⟩
  by_cases hk : k = e
  · subst hk
    unfold degrade
    rw [elemOf_setElem]
    exact ⟨rfl, rfl, rfl⟩
  · unfold degrade
    rw [elemOf_setElem_other _ _ _ hk]
    exact ⟨rfl, rfl, rfl⟩

theorem BenchKept.of_wr {s u w : State} (h : BenchKept s u) (e : w.wr = u.wr) : BenchKept s w := by
  obtain ⟨hc, hq, hs, hst⟩ := h
  refine ⟨by rw [e]; exact hc, by rw [e, hq], by rw [e, hs], fun k => ?_⟩
  rw [elemOf_congr (s := u) (by rw [e])]
  exact hst k

theorem benchOrDegrade_kept (e : Nat) (s : State) : BenchKept s (benchOrDegrade e s) := by
  unfold benchOrDegrade
  split
  · exact ⟨fun x hx => ⟨x, hx, rfl⟩, rfl, rfl, fun _ => ⟨rfl, rfl, rfl⟩⟩
  · split
    · exact benchElem_kept e 1 s
    · exact (degrade_kept e s).of_wr (event_frame ..).wr_eq

/-- An active channel that meets R221 is benched where its module has a spare left, and degraded where it has none. -/
theorem benchOrDegrade_active {e : Nat} {s : State} (ha : (crewOf s e).st = .active) (hd : (elemOf s e).degraded = false) :
    let u := benchOrDegrade e s
    if spareLeft s (e / 128) then (crewOf u e).st = .benched ∧ (crewOf u e).cause = 1
    else (elemOf u e).degraded = true ∧ crewOf u e = crewOf s e := by
  intro u
  have hu : u = if spareLeft s (e / 128) then benchElem e 1 s else event 0 0 0x11 [BitVec.ofNat 64 e] (degrade e s) :=
    if_neg (by simp [ha, hd])
  clear_value u
  subst hu
  split
  · rw [benchElem_crew]
    exact ⟨setUnitState_st_same .., setUnitState_benched_cause (by simp [ha]) 1⟩
  · constructor
    · rw [elemOf_congr (s := degrade e s) (by rw [(event_frame ..).wr_eq])]
      unfold degrade
      rw [elemOf_setElem]
    · exact crewOf_congr (s := s) (by rw [(event_frame ..).crew_eq]; rfl) e

/-! ### The result of a frame enters the statistics of its channel -/

section
variable {c : Copy} {failed : Bool} {s : State}

/-- The statistics of a channel behind one more result that counts. -/
def withResult (failed : Bool) (v : ElemStat) : ElemStat :=
  { v with window := (failed :: v.window).take 256, run := if failed then v.run + 1 else 0 }

/-- Whether the result of a counting copy benches its channel (R221). -/
def benchesNow (c : Copy) (failed : Bool) (v : ElemStat) : Bool :=
  failed && ((c.limits.failRun != 0 && decide (c.limits.failRun ≤ (withResult failed v).run))
    || (c.limits.failWin != 0 && decide (c.limits.failWin ≤ ((withResult failed v).window.filter id).length)))

theorem elemResult_eq (c : Copy) (failed : Bool) (s : State) : elemResult c failed s =
    if c.counts && !c.gated then
      let x := setElem c.elem (withResult failed (elemOf s c.elem)) s
      if benchesNow c failed (elemOf s c.elem) then benchOrDegrade c.elem x else x
    else s := rfl

theorem elemResult_counts (hc : c.counts = true) (hg : c.gated = false) : elemResult c failed s =
    if benchesNow c failed (elemOf s c.elem) then
      benchOrDegrade c.elem (setElem c.elem (withResult failed (elemOf s c.elem)) s)
    else setElem c.elem (withResult failed (elemOf s c.elem)) s := by
  rw [elemResult_eq, if_pos (by simp [hc, hg])]

theorem elemResult_idle (h : ¬(c.counts && !c.gated) = true) : elemResult c failed s = s := by
  rw [elemResult_eq, if_neg h]

/-- What a result leaves: the copies awaited are fewer, and the rewrites, data sets and count of fails stand. -/
structure ResultKept (e : Nat) (s u : State) : Prop where
  copies : ∀ x ∈ u.wr.copies, ∃ y ∈ s.wr.copies, y.id = x.id
  queue : u.wr.queue = s.wr.queue
  sets : u.wr.sets = s.wr.sets
  fails : (elemOf u e).fails = (elemOf s e).fails

theorem elemResult_kept (c : Copy) (failed : Bool) (s : State) : ResultKept c.elem s (elemResult c failed s) := by
  by_cases h : (c.counts && !c.gated) = true
  · have hx : ∀ v : ElemStat, v.fails = (elemOf s c.elem).fails → ResultKept c.elem s (setElem c.elem v s) := fun v hv =>
      ⟨fun x hx => ⟨x, hx, rfl⟩, rfl, rfl, by rw [elemOf_setElem, hv]⟩
    have hx := hx (withResult failed (elemOf s c.elem)) rfl
    rw [elemResult_eq, if_pos h]
    dsimp only
    generalize setElem c.elem (withResult failed (elemOf s c.elem)) s = x at hx
    split
    · obtain ⟨kc, kq, ks, kst⟩ := benchOrDegrade_kept c.elem x
      refine ⟨fun z hz => ?_, kq.trans hx.queue, ks.trans hx.sets, (kst c.elem).1.trans hx.fails⟩
      obtain ⟨y, hy, e⟩ := kc z hz
      obtain ⟨w, hw, e'⟩ := hx.copies y hy
      exact ⟨w, hw, e'.trans e⟩
    · exact hx
  · rw [elemResult_idle h]
    exact ⟨fun x hx => ⟨x, hx, rfl⟩, rfl, rfl, rfl⟩

/-- A counting result is the channel's newest. -/
theorem elemResult_stats (hc : c.counts = true) (hg : c.gated = false) :
    (elemOf (elemResult c failed s) c.elem).run = (if failed then (elemOf s c.elem).run + 1 else 0)
      ∧ (elemOf (elemResult c failed s) c.elem).window = (failed :: (elemOf s c.elem).window).take 256 := by
  rw [elemResult_counts hc hg]
  have hx : elemOf (setElem c.elem (withResult failed (elemOf s c.elem)) s) c.elem
      = withResult failed (elemOf s c.elem) := elemOf_setElem ..
  split
  · obtain ⟨-, -, -, kst⟩ := benchOrDegrade_kept c.elem (setElem c.elem (withResult failed (elemOf s c.elem)) s)
    obtain ⟨-, hr, hw⟩ := kst c.elem
    rw [hr, hw, hx]
    exact ⟨rfl, rfl⟩
  · rw [hx]
    exact ⟨rfl, rfl⟩

theorem spareLeft_congr {u : State} (hm : u.wr.map = s.wr.map) (hr : u.crew.roster = s.crew.roster) (m : Nat) :
    spareLeft u m = spareLeft s m := by
  have h1 : ∀ t, trackElem u t = trackElem s t := fun t => congrArg (fun l => tabGet (freshElem t) l t) hm
  have h2 : ∀ e, crewOf u e = crewOf s e := crewOf_congr hr
  have hw : tracksWaiting u m = tracksWaiting s m := by simp only [tracksWaiting, elemBenched, h1, h2]
  have hs : moduleSpares u m = moduleSpares s m := by simp only [moduleSpares, h2]
  unfold spareLeft
  rw [hw, hs]

/-- A run of fails that reaches FAIL_RUN benches or degrades an active channel (R221, R223). -/
theorem elemResult_benches (hc : c.counts = true) (hg : c.gated = false) (h0 : c.limits.failRun ≠ 0)
    (hr : c.limits.failRun ≤ (elemOf s c.elem).run + 1) (ha : (crewOf s c.elem).st = .active)
    (hd : (elemOf s c.elem).degraded = false) :
    let u := elemResult c true s
    if spareLeft s (c.elem / 128) then (crewOf u c.elem).st = .benched ∧ (crewOf u c.elem).cause = 1
    else (elemOf u c.elem).degraded = true ∧ crewOf u c.elem = crewOf s c.elem := by
  intro u
  have hb : benchesNow c true (elemOf s c.elem) = true := by
    have : c.limits.failRun ≤ (withResult true (elemOf s c.elem)).run := hr
    simp [benchesNow, h0, this]
  have hu : u = benchOrDegrade c.elem (setElem c.elem (withResult true (elemOf s c.elem)) s) := by
    rw [show u = elemResult c true s from rfl, elemResult_counts hc hg, if_pos hb]
  have hx : elemOf (setElem c.elem (withResult true (elemOf s c.elem)) s) c.elem
      = withResult true (elemOf s c.elem) := elemOf_setElem ..
  have k := benchOrDegrade_active (e := c.elem) (s := setElem c.elem (withResult true (elemOf s c.elem)) s)
    ha (by rw [hx]; exact hd)
  rw [← hu] at k
  rwa [spareLeft_congr (s := s) (u := setElem c.elem (withResult true (elemOf s c.elem)) s) rfl rfl] at k

/-! ### A frame that fails, and one that passes -/

/-- A failed frame is counted, device-wide and for its channel. -/
def failCounted (c : Copy) (late : Bool) (s : State) : State :=
  let s := dropCopy c s
  let s := { s with fm := if late then { s.fm with vfyLate := satInc s.fm.vfyLate } else { s.fm with vfyFail := satInc s.fm.vfyFail } }
  setElem c.elem { elemOf s c.elem with fails := satInc (elemOf s c.elem).fails } s

theorem dropCopy_gone (c : Copy) (s : State) : ∀ x ∈ (dropCopy c s).wr.copies, x.id ≠ c.id := by
  intro x hx
  obtain ⟨-, h⟩ := List.mem_filter.1 hx
  simpa using h

theorem failCounted_parts (c : Copy) (late : Bool) (s : State) :
    let u := failCounted c late s
    (∀ x ∈ u.wr.copies, x.id ≠ c.id) ∧ elemOf u c.elem = { elemOf s c.elem with fails := satInc (elemOf s c.elem).fails }
      ∧ u.fm.vfyFail = (if late then s.fm.vfyFail else satInc s.fm.vfyFail)
      ∧ u.fm.vfyLate = (if late then satInc s.fm.vfyLate else s.fm.vfyLate)
      ∧ u.wr.sets = s.wr.sets ∧ u.wr.map = s.wr.map ∧ u.crew = s.crew ∧ u.tb = s.tb :=
  ⟨dropCopy_gone c s, elemOf_setElem .., by cases late <;> rfl, by cases late <;> rfl, rfl, rfl, rfl, rfl⟩

/-- The queued rewrite of a copy's codeword. -/
def rewriteOf (c : Copy) (s : State) : Rewrite := { tb := s.tb, dsn := c.dsn, cw := c.cw, track := c.track, lane := c.lane }

/-- A copy's codeword is queued for a rewrite (R215). -/
def queueRewrite (c : Copy) (s : State) : State :=
  { s with wr := { s.wr with queue := insertBy rewriteBefore (rewriteOf c s) s.wr.queue } }

/-- A frame that fails has its codeword, not yet resolved, queued for a rewrite, or its attempt fails. -/
theorem verifyFails_eq {late : Bool} {x : State} {r : SetRun}
    (hx : (if late then failCounted c late s else elemResult c true (failCounted c late s)) = x)
    (hf : c.cw ≠ fillerCw) (hr : runOf x c.dsn = some r) (hn : c.cw ∉ r.passed) : verifyFails c late s =
      if c.block = c.dsn + 7 then attemptsFail [c.dsn] (queueRewrite c x) else queueRewrite c x := by
  change (match (if c.cw = fillerCw then none else
      runOf (if late then failCounted c late s else elemResult c true (failCounted c late s)) c.dsn) with
    | none => (if late then failCounted c late s else elemResult c true (failCounted c late s))
    | some r => if r.passed.contains c.cw then (if late then failCounted c late s else elemResult c true (failCounted c late s)) else
      if c.block = c.dsn + 7 then attemptsFail [c.dsn]
        (queueRewrite c (if late then failCounted c late s else elemResult c true (failCounted c late s)))
      else queueRewrite c (if late then failCounted c late s else elemResult c true (failCounted c late s))) = _
  rw [hx, if_neg hf, hr]
  exact if_neg (by simpa using hn)

/-- What a frame that fails leaves: its copy gone, the counts, and the rewrite in the queue. -/
theorem verifyFails_parts {late : Bool} {x : State} {r : SetRun}
    (hx : (if late then failCounted c late s else elemResult c true (failCounted c late s)) = x)
    (hf : c.cw ≠ fillerCw) (hr : runOf s c.dsn = some r) (hn : c.cw ∉ r.passed) :
    let u := verifyFails c late s
    (∀ y ∈ u.wr.copies, y.id ≠ c.id) ∧ u.fm.vfyFail = (if late then s.fm.vfyFail else satInc s.fm.vfyFail)
      ∧ u.fm.vfyLate = (if late then satInc s.fm.vfyLate else s.fm.vfyLate) ∧ elemOf u c.elem = elemOf x c.elem
      ∧ (elemOf u c.elem).fails = satInc (elemOf s c.elem).fails
      ∧ crewOf u c.elem = crewOf x c.elem ∧ (c.block ≠ c.dsn + 7 → ∃ q ∈ u.wr.queue,
          q.dsn = c.dsn ∧ q.cw = c.cw ∧ q.track = c.track ∧ q.lane = c.lane ∧ q.tb = s.tb) := by
  intro u
  obtain ⟨hg, he, hff, hl, hs, -, -, ht⟩ := failCounted_parts c late s
  have k : ResultKept c.elem (failCounted c late s) x ∧ x.fm = (failCounted c late s).fm ∧ x.tb = (failCounted c late s).tb := by
    rw [← hx]
    split
    · exact ⟨⟨fun y hy => ⟨y, hy, rfl⟩, rfl, rfl, rfl⟩, rfl, rfl⟩
    · exact ⟨elemResult_kept .., (elemResult_frame ..).fm_eq, (elemResult_frame ..).tb_eq⟩
  obtain ⟨⟨kc, -, ks, kf⟩, kfm, ktb⟩ := k
  have hu := verifyFails_eq hx hf (by rw [← hr]; exact congrArg (List.find? _) (ks.trans hs)) hn
  have hv : VerifyKept x u := by
    rw [show u = _ from hu]
    have h0 : VerifyKept x (queueRewrite c x) := ⟨fun y hy => ⟨y, hy, rfl⟩, rfl, rfl, rfl⟩
    split
    · exact h0.trans (attemptsFail_verifyKept _ _)
    · exact h0
  have hcrew : u.crew = x.crew := by
    rw [show u = _ from hu]
    split
    · rw [(attemptsFail_frame _ _).crew_eq]; rfl
    · rfl
  have heq : elemOf u c.elem = elemOf x c.elem := elemOf_congr hv.elems _
  refine ⟨fun y hy => ?_, by rw [hv.fail, kfm, hff], by rw [hv.late, kfm, hl], heq, by rw [heq, kf, he],
    crewOf_congr (by rw [hcrew]) _, fun hb => ?_⟩
  · obtain ⟨z, hz, e⟩ := hv.copies y hy
    obtain ⟨w, hw, e'⟩ := kc z hz
    rw [← e, ← e']
    exact hg w hw
  · rw [show u = _ from hu, if_neg hb]
    exact ⟨rewriteOf c x, (mem_insertBy _ _ _ _).2 (.inl rfl), rfl, rfl, rfl, rfl, ktb.trans ht⟩

/-- A codeword of a data set has its passing copy. -/
def resolved (r : SetRun) (c : Copy) : SetRun := { r with passed := c.cw :: r.passed }

/-- The runs with one more codeword resolved. -/
def resolveIn (r : SetRun) (c : Copy) (s : State) : State :=
  { s with wr := { s.wr with sets := s.wr.sets.map fun x => if x.set.dsn = c.dsn then resolved r c else x } }

theorem verifyPasses_eq {r : SetRun} (hf : c.cw ≠ fillerCw)
    (hr : runOf (elemResult c false (dropCopy c s)) c.dsn = some r) (hn : c.cw ∉ r.passed) :
    verifyPasses c s = if (resolved r c).passed.length = 7936 then
      setSettles (resolved r c) (resolveIn r c (elemResult c false (dropCopy c s))) else resolveIn r c (elemResult c false (dropCopy c s)) := by
  unfold verifyPasses
  dsimp only
  rw [if_neg hf, hr]
  exact if_neg (by simpa using hn)

theorem find_map_replaced {l : List SetRun} {n : Nat} {r r' : SetRun} (h : (l.find? fun x => x.set.dsn == n && !x.failed) = some r)
    (hd : r'.set.dsn = n) (hf : r'.failed = false) :
    ((l.map fun x => if x.set.dsn = n then r' else x).find? fun x => x.set.dsn == n && !x.failed) = some r' := by
  induction l with
  | nil => exact absurd h (by simp)
  | cons a l ih =>
    rw [List.map_cons]
    by_cases ha : a.set.dsn = n
    · rw [if_pos ha, List.find?_cons_of_pos (by simp [hd, hf])]
    · rw [if_neg ha, List.find?_cons_of_neg (by simp [ha])]
      rw [List.find?_cons_of_neg (by simp [ha])] at h
      exact ih h

theorem runOf_resolveIn {x : State} {r : SetRun} (h : runOf x c.dsn = some r) :
    runOf (resolveIn r c x) c.dsn = some (resolved r c) := by
  have hp := List.find?_some h
  simp only [Bool.and_eq_true, beq_iff_eq, Bool.not_eq_true'] at hp
  exact find_map_replaced h hp.1 hp.2

theorem dropElements_placed (p : Nat) (s : State) : (partOf (dropElements p s) p).placed = (partOf s p).placed := by
  unfold dropElements
  extract_lets held kept v out
  have hf : ∀ x, Frame [.hq, .eng, .rdr, .sm] x (forEach out (fun e s => releaseRecord p e.block s) x) := fun x =>
    Frame.forEach _ _ (fun a z h => (releaseRecord_frame _ _ _).comp h (by decide)) (Frame.refl _ _)
  have e : ∀ x, partOf (forEach out (fun e s => releaseRecord p e.block s) x) p = partOf x p := fun x => by
    unfold partOf
    rw [(hf x).vol_eq]
  rw [e, partOf_setPart]

/-- A settled data set stands in its partition's table. -/
theorem setSettles_placed (r : SetRun) (s : State) : ∃ d ∈ (partOf (setSettles r s) r.set.part).placed,
    d.dsn = r.set.dsn ∧ d.at_ = r.at_ ∧ d.kind = r.set.kind ∧ d.session = r.set.session ∧ d.first = r.set.first
      ∧ d.next = r.set.next := by
  unfold setSettles
  extract_lets p v d void v'
  refine ⟨d, ?_, rfl, rfl, rfl, rfl, rfl, rfl⟩
  rw [dropElements_placed, partOf_setPart]
  exact (mem_sortBy _ _ _).2 (List.mem_cons_self ..)

/-- What a frame that passes leaves: its copy gone, its result counted, its codeword resolved. -/
theorem verifyPasses_parts {r : SetRun} (hf : c.cw ≠ fillerCw) (hr : runOf s c.dsn = some r) (hn : c.cw ∉ r.passed) :
    let u := verifyPasses c s
    (∀ y ∈ u.wr.copies, y.id ≠ c.id) ∧ u.wr.queue = s.wr.queue ∧ u.fm = s.fm
      ∧ (c.counts = true → c.gated = false → (elemOf u c.elem).run = 0
        ∧ (elemOf u c.elem).window = (false :: (elemOf s c.elem).window).take 256)
      ∧ (r.passed.length + 1 ≠ 7936 → runOf u c.dsn = some (resolved r c))
      ∧ (r.passed.length + 1 = 7936 → ∃ d ∈ (partOf u r.set.part).placed, d.dsn = r.set.dsn ∧ d.at_ = r.at_
        ∧ d.kind = r.set.kind ∧ d.session = r.set.session ∧ d.first = r.set.first ∧ d.next = r.set.next) := by
  intro u
  obtain ⟨kc, kq, ks, -⟩ := elemResult_kept c false (dropCopy c s)
  have kst := elemResult_stats (c := c) (failed := false) (s := dropCopy c s)
  have kfm : (elemResult c false (dropCopy c s)).fm = s.fm := (elemResult_frame ..).fm_eq.trans (dropCopy_frame ..).fm_eq
  have hrx : runOf (elemResult c false (dropCopy c s)) c.dsn = some r := by
    rw [← hr]
    exact congrArg (List.find? _) ks
  have hu : u = _ := verifyPasses_eq hf hrx hn
  clear_value u
  generalize elemResult c false (dropCopy c s) = x at kc kq ks kst kfm hrx hu
  have hgone : ∀ y ∈ x.wr.copies, y.id ≠ c.id := fun y hy => by
    obtain ⟨z, hz, e⟩ := kc y hy
    rw [← e]
    exact dropCopy_gone c s z hz
  have hl : (resolved r c).passed.length = r.passed.length + 1 := rfl
  rw [hl] at hu
  have hw : u.wr = (resolveIn r c x).wr ∧ u.fm = x.fm := by
    rw [hu]
    split
    · exact ⟨(setSettles_frame ..).wr_eq, (setSettles_frame ..).fm_eq⟩
    · exact ⟨rfl, rfl⟩
  have hel : elemOf u c.elem = elemOf x c.elem := elemOf_congr (by rw [hw.1]; rfl) _
  refine ⟨by rw [hw.1]; exact hgone, by rw [hw.1]; exact kq, hw.2.trans kfm, fun h1 h2 => by rw [hel]; exact kst h1 h2,
    fun h => ?_, fun h => ?_⟩
  · rw [hu, if_neg h]
    exact runOf_resolveIn hrx
  · rw [hu, if_pos h]
    exact setSettles_placed (resolved r c) _

end

section
variable {t : Time} {id : Nat} {s : State}

theorem copies_advance : (advance t s).wr = s.wr := (advance_frame t s).wr_eq

theorem verifyResult_unknown (h : ∀ c ∈ s.wr.copies, c.id ≠ id) (obs : VerifyObs) :
    exec (.verifyResult t id obs) s = .next (advance t s) := by
  change execVerifyResult t id obs s = _
  unfold execVerifyResult
  dsimp only
  rw [show ((advance t s).wr.copies.find? fun c => c.id == id) = none by
    rw [copies_advance]; exact List.find?_eq_none.2 (by simpa using h)]

theorem verifyDeadline_unknown (h : ∀ c ∈ s.wr.copies, c.id ≠ id) :
    exec (.verifyDeadline t id) s = .next (advance t s) := by
  change execVerifyDeadline t id s = _
  unfold execVerifyDeadline
  dsimp only
  rw [show ((advance t s).wr.copies.find? fun c => c.id == id) = none by
    rw [copies_advance]; exact List.find?_eq_none.2 (by simpa using h)]

section
variable {c : Copy} (hc : (s.wr.copies.find? fun x => x.id == id) = some c)
include hc

theorem verifyResult_known (obs : VerifyObs) : exec (.verifyResult t id obs) s = .next
    (if (advance t s).tb.toNat < c.first.toNat ∨ c.first.toNat + c.window ≤ (advance t s).tb.toNat then verifyFails c true (advance t s)
    else if obsPasses c obs && !c.doomed && !c.gated then verifyPasses c (advance t s)
    else verifyFails c false (advance t s)) := by
  change execVerifyResult t id obs s = _
  unfold execVerifyResult
  dsimp only
  rw [show ((advance t s).wr.copies.find? fun c => c.id == id) = some c by rw [copies_advance]; exact hc]
  dsimp only
  repeat' split
  all_goals rfl

theorem verifyDeadline_known : exec (.verifyDeadline t id) s = .next
    (if c.first.toNat + c.window ≤ (advance t s).tb.toNat then verifyFails c true (advance t s) else advance t s) := by
  change execVerifyDeadline t id s = _
  unfold execVerifyDeadline
  dsimp only
  rw [show ((advance t s).wr.copies.find? fun c => c.id == id) = some c by rw [copies_advance]; exact hc]
  dsimp only
  repeat' split
  all_goals rfl

end

theorem obsPasses_iff (c : Copy) (o : VerifyObs) : obsPasses c o = true ↔
    o.syncFound = true ∧ o.hdrDecoded = true ∧ o.hdrFixed ≤ 2 ∧ o.hdrEqual = true ∧ o.converged = true ∧ o.bitsEqual = true
      ∧ o.weak ≤ c.limits.weakMax := by
  simp [obsPasses, and_assoc]

theorem elemOf_advance (e : Nat) : elemOf (advance t s) e = elemOf s e := elemOf_congr (by rw [copies_advance]) e

theorem runOf_advance (d : Nat) : runOf (advance t s) d = runOf s d := by
  unfold runOf
  rw [copies_advance]

theorem crewOf_advance (e : Nat) : crewOf (advance t s) e = crewOf s e :=
  crewOf_congr (by rw [(advance_frame t s).crew_eq]) e

end

/-- Settles O53: a copy that is awaited resolves its codeword where its result passes inside its window, and otherwise
is counted and has its codeword queued for a rewrite; one that is not awaited changes nothing. -/
theorem verifyOutcomes : Obligations.VerifyOutcomes := by
  unfold Obligations.VerifyOutcomes
  intro t id s now
  refine ⟨fun h => ⟨verifyResult_unknown h, verifyDeadline_unknown h⟩, fun c r hc hf hr hn => ?_⟩
  intro e queued gone late
  have hid : c.id = id := by simpa using List.find?_some hc
  have hr' : runOf (advance t s) c.dsn = some r := (runOf_advance _).trans hr
  have hfm : (advance t s).fm = s.fm := (advance_frame t s).fm_eq
  have he : elemOf (advance t s) c.elem = e := elemOf_advance _
  have isLate : late (verifyFails c true (advance t s)) := by
    obtain ⟨hg, hff, hl, hx, hfs, -, hq⟩ := verifyFails_parts (s := advance t s) (late := true) (if_pos rfl) hf hr' hn
    obtain ⟨-, hfe, -⟩ := failCounted_parts c true (advance t s)
    refine ⟨fun x hx => hid ▸ hg x hx, by rw [hl, hfm]; rfl, by rw [hff, hfm]; rfl, by rw [hfs, he], by rw [hx, hfe, he],
      by rw [hx, hfe, he], fun hb => ?_⟩
    obtain ⟨q, hq, h1, h2, h3, h4, h5⟩ := hq hb
    exact ⟨q, hq, h1, h2, h3, h4, congrArg BitVec.toNat h5⟩
  refine ⟨fun h1 h2 => ⟨?_, fun obs => ?_⟩, fun h obs => ⟨_, verifyResult_known hc obs, by rw [if_pos h]; exact isLate⟩,
    fun h => ⟨_, verifyDeadline_known hc, by rw [if_pos h]; exact isLate⟩⟩
  · rw [verifyDeadline_known hc, if_neg (by omega)]
  intro passes
  have hp : obsPasses c obs = true ↔ passes := obsPasses_iff c obs
  have e0 := verifyResult_known (t := t) hc obs
  rw [if_neg (by omega)] at e0
  refine ⟨fun ⟨hps, hd, hgt⟩ => ⟨_, e0, ?_⟩, fun hbad => ⟨_, e0, ?_⟩⟩
  · rw [if_pos (by rw [hp.2 hps, hd, hgt]; rfl)]
    obtain ⟨hg, hq, hfl, hst, h1, h2⟩ := verifyPasses_parts (s := advance t s) hf hr' hn
    refine ⟨fun x hx => hid ▸ hg x hx, by rw [hfl, hfm], by rw [hq, copies_advance], fun hco => ?_, h1, h2⟩
    obtain ⟨hrun, hwin⟩ := hst hco hgt
    exact ⟨hrun, by rw [hwin, he]⟩
  · rw [if_neg (by
      simp only [Bool.and_eq_true, Bool.not_eq_true', hp, Classical.not_and_iff_not_or_not, Bool.not_eq_false]
      exact or_assoc.2 hbad)]
    obtain ⟨hg, hff, hl, hx, hfs, hcr, hq⟩ := verifyFails_parts (s := advance t s) (late := false) (if_neg (by decide)) hf hr' hn
    obtain ⟨-, hfe, -, -, -, hmap, hcrew, -⟩ := failCounted_parts c false (advance t s)
    refine ⟨fun x hx => hid ▸ hg x hx, by rw [hff, hfm]; rfl, by rw [hl, hfm]; rfl, by rw [hfs, he], fun hco hga => ?_,
      fun hb => ?_, fun hco hga h0 hle hact hdeg => ?_⟩
    · obtain ⟨hrun, hwin⟩ := elemResult_stats (failed := true) (s := failCounted c false (advance t s)) hco hga
      rw [hx, hrun, hwin, hfe, he]
      exact ⟨rfl, rfl⟩
    · obtain ⟨q, hq, h1, h2, h3, h4, h5⟩ := hq hb
      exact ⟨q, hq, h1, h2, h3, h4, congrArg BitVec.toNat h5⟩
    · have hcs : crewOf (failCounted c false (advance t s)) c.elem = crewOf s c.elem :=
        (crewOf_congr (by rw [hcrew]) _).trans (crewOf_advance _)
      have k := elemResult_benches (s := failCounted c false (advance t s)) hco hga h0 (by rw [hfe, he]; exact hle)
        (by rw [hcs]; exact hact) (by rw [hfe, he]; exact hdeg)
      rw [spareLeft_congr (s := s) (by rw [hmap, copies_advance]) (by rw [hcrew, (advance_frame t s).crew_eq]), hcs] at k
      rw [hx, hcr]
      exact k

end Sys2Proof.Machine
end

section
/-!
PROOFS. Decode engines, the end of a decode, and blank tape (O54).
-/

namespace Sys2Proof.Machine
set_option Elab.async false

/-! ### Counters of 16 bits in a word -/

theorem bits_bump16_low (w : Word) :
    bits (bump16 w 0) 0 16 = min 65535 (bits w 0 16 + 1) ∧ bits (bump16 w 0) 16 16 = bits w 16 16 := by
  have hw : w.toNat < 4294967296 := w.isLt
  unfold bump16 putBits bits
  simp only [BitVec.toNat_ofNat]
  simp only [Nat.reducePow, Nat.div_one, Nat.mul_one]
  omega

theorem bits_bump16_high (w : Word) :
    bits (bump16 w 16) 16 16 = min 65535 (bits w 16 16 + 1) ∧ bits (bump16 w 16) 0 16 = bits w 0 16 := by
  have hw : w.toNat < 4294967296 := w.isLt
  unfold bump16 putBits bits
  simp only [BitVec.toNat_ofNat]
  simp only [Nat.reducePow, Nat.div_one, Nat.mul_one]
  omega

/-! ### Decode queues -/

section
variable {s : State} {d : Nat}

theorem dieQueue_setQueue (d : Nat) (q : List FrameJob) (s : State) : dieQueue (setQueue d q s) d = q := by
  have h : ((s.rch.queues.filter fun x => x.1 != d).find? fun x => x.1 == d) = none :=
    List.find?_eq_none.2 fun x hx => by
      obtain ⟨-, hx⟩ := List.mem_filter.1 hx
      simpa using hx
  unfold dieQueue setQueue
  dsimp only
  rw [List.find?_append, h]
  simp

theorem dieQueue_setQueue_other {j : Nat} (h : j ≠ d) (q : List FrameJob) : dieQueue (setQueue d q s) j = dieQueue s j := by
  have hf : ((s.rch.queues.filter fun x => x.1 != d).find? fun x => x.1 == j) = s.rch.queues.find? fun x => x.1 == j := by
    rw [List.find?_filter]
    refine congrFun (congrArg _ (funext fun x => ?_)) _
    by_cases hx : x.1 = j
    · simp [hx, h]
    · simp [hx]
  unfold dieQueue setQueue
  dsimp only
  rw [List.find?_append, hf]
  simp [Ne.symm h]

theorem dieQueue_congr {u : State} (h : u.rch.queues = s.rch.queues) (j : Nat) : dieQueue u j = dieQueue s j := by
  unfold dieQueue
  rw [h]

theorem occupancy_congr {u : State} (hr : u.rch = s.rch) (hc : u.crew = s.crew) (j : Nat) : occupancy u j = occupancy s j := by
  unfold occupancy dieQueue dieHeld dieDecodes crewOf
  rw [hr, hc]

/-- Whether die `d` cuts budgets behind a look at its occupancy (R250). -/
def cuts (s : State) (d : Nat) : Bool :=
  if bits s.rch.queueR 0 10 ≤ occupancy s d then true
  else if occupancy s d < bits s.rch.queueR 16 10 then false else s.rch.cutting.getLsbD d

theorem cutPass_parts (h : d < 4) (s : State) :
    (cutPass d s).rch = { s.rch with cutting := (cutPass d s).rch.cutting } ∧ (cutPass d s).rch.cutting.getLsbD d = cuts s d := by
  have hb : (BitVec.ofNat 4 (2 ^ d)).getLsbD d = true := by
    rw [BitVec.getLsbD_ofNat, Nat.testBit_two_pow]
    simp [h]
  unfold cutPass cuts
  extract_lets o mask
  split
  · exact ⟨rfl, by rw [show mask = BitVec.ofNat 4 (2 ^ d) from rfl, BitVec.getLsbD_or, hb, Bool.or_true]⟩
  · split
    · exact ⟨rfl, by rw [show mask = BitVec.ofNat 4 (2 ^ d) from rfl, BitVec.getLsbD_and, BitVec.getLsbD_not, hb]; simp⟩
    · exact ⟨rfl, rfl⟩

/-- The job as an engine takes it. -/
def takenJob (ecc : Word) (s : State) (d k : Nat) (job : FrameJob) : FrameJob :=
  { job with epoch := (crewOf s (decodeUnit k)).epoch, ecc := ecc, cut := cuts s d && job.verify.isNone }

/-- A decode whose budget is cut is counted. -/
def countCut (cut : Bool) (s : State) : State :=
  if cut then { s with rch := { s.rch with cut := satInc s.rch.cut } } else s

theorem countCut_parts (cut : Bool) (s : State) :
    (countCut cut s).rch = { s.rch with cut := if cut then satInc s.rch.cut else s.rch.cut } := by
  cases cut <;> rfl

/-- Engine `k` begins a decode. -/
def engineBegins (k : Nat) (job : FrameJob) (s : State) : State :=
  { s with rch := { s.rch with engines := s.rch.engines ++ [(k, job)] } }

/-- The engine takes the job, which leaves the queue of its die. -/
def engineTakes (d k : Nat) (job : FrameJob) (rest : List FrameJob) (s : State) : State :=
  setQueue d rest (engineBegins k (takenJob (cutPass d s).fm.ecc s d k job)
    (countCut (cuts s d && job.verify.isNone) (cutPass d s)))

theorem engineTakes_parts (h : d < 4) (k : Nat) (job : FrameJob) (rest : List FrameJob) (s : State) :
    let u := engineTakes d k job rest s
    let cut := cuts s d && job.verify.isNone
    dieQueue u d = rest ∧ u.rch.cutting.getLsbD d = cuts s d ∧ u.rch.engines = s.rch.engines ++ [(k, takenJob s.fm.ecc s d k job)]
      ∧ u.rch.cut = (if cut then satInc s.rch.cut else s.rch.cut) ∧ ∀ j, j ≠ d → dieQueue u j = dieQueue s j := by
  intro u cut
  obtain ⟨hr, hc⟩ := cutPass_parts h s
  have hf : (cutPass d s).fm = s.fm := (cutPass_frame ..).fm_eq
  have hy := countCut_parts cut (cutPass d s)
  have hu : u = setQueue d rest (engineBegins k (takenJob s.fm.ecc s d k job) (countCut cut (cutPass d s))) := by
    rw [← hf]; rfl
  generalize countCut cut (cutPass d s) = y at hy hu
  generalize cutPass d s = x at hr hc hy
  have h1 : y.rch.cutting = x.rch.cutting := by rw [hy]
  have h2 : y.rch.engines = s.rch.engines := by rw [hy]; exact (congrArg ReadCh.engines hr :)
  have h3 : y.rch.queues = s.rch.queues := by rw [hy]; exact (congrArg ReadCh.queues hr :)
  have h4 : y.rch.cut = if cut then satInc s.rch.cut else s.rch.cut := by
    rw [hy, show x.rch.cut = s.rch.cut from (congrArg ReadCh.cut hr :)]
  clear_value u
  subst hu
  refine ⟨dieQueue_setQueue .., ?_, ?_, h4, fun j hj => (dieQueue_setQueue_other hj _).trans (dieQueue_congr h3 j)⟩
  · rw [← hc, ← h1]; rfl
  · rw [← h2]; rfl

end

section
variable {t : Time} {s : State} {die : BitVec 2} {engine : BitVec 5}

theorem frameDecodeStart_idle (h : dieQueue s die.toNat = [] ∨ (crewOf s (decodeUnit (32 * die.toNat + engine.toNat))).st ≠ .active
    ∨ ∃ x ∈ s.rch.engines, x.1 = 32 * die.toNat + engine.toNat) :
    exec (.frameDecodeStart t die engine) s = .next (advance t s) := by
  have hr : (advance t s).rch = s.rch := (advance_frame t s).rch_eq
  change execFrameDecodeStart t die engine s = _
  unfold execFrameDecodeStart
  dsimp only
  rw [dieQueue_congr (s := s) (by rw [hr]), crewOf_advance, hr]
  split
  · rfl
  · next job rest hq =>
    refine if_pos ?_
    rcases h with h | h | h
    · rw [h] at hq; exact absurd hq (by simp)
    · exact .inl h
    · exact .inr (List.any_eq_true.2 (by simpa using h))

theorem frameDecodeStart_takes {job : FrameJob} {rest : List FrameJob} (hq : dieQueue s die.toNat = job :: rest)
    (hc : (crewOf s (decodeUnit (32 * die.toNat + engine.toNat))).st = .active)
    (he : ∀ x ∈ s.rch.engines, x.1 ≠ 32 * die.toNat + engine.toNat) :
    exec (.frameDecodeStart t die engine) s
      = .next (engineTakes die.toNat (32 * die.toNat + engine.toNat) job rest (advance t s)) := by
  have hr : (advance t s).rch = s.rch := (advance_frame t s).rch_eq
  have hn : ¬((crewOf (advance t s) (decodeUnit (32 * die.toNat + engine.toNat))).st ≠ .active
      ∨ ((advance t s).rch.engines.any fun x => x.1 == 32 * die.toNat + engine.toNat) = true) := by
    rw [crewOf_advance, hr, hc]
    rintro (h | h)
    · exact h rfl
    · obtain ⟨x, hx, e⟩ := List.any_eq_true.1 h
      exact he x hx (by simpa using e)
  change execFrameDecodeStart t die engine s = _
  unfold execFrameDecodeStart
  dsimp only
  rw [show dieQueue (advance t s) die.toNat = job :: rest by rw [dieQueue_congr (s := s) (by rw [hr])]; exact hq]
  dsimp only
  rw [if_neg hn, (cutPass_parts die.isLt _).2]
  rfl

theorem frameDecodeDone_idle (he : ∀ x ∈ s.rch.engines, x.1 ≠ 32 * die.toNat + engine.toNat) :
    exec (.frameDecodeDone t die engine) s = .next (advance t s) := by
  change execFrameDecodeDone t die engine s = _
  unfold execFrameDecodeDone
  dsimp only
  rw [show ((advance t s).rch.engines.find? fun x => x.1 == 32 * die.toNat + engine.toNat) = none by
    rw [(advance_frame t s).rch_eq]
    exact List.find?_eq_none.2 (by simpa using he)]

/-- Engine `k` is free again. -/
def engineFree (k : Nat) (s : State) : State :=
  { s with rch := { s.rch with engines := s.rch.engines.filter fun x => x.1 != k } }

theorem frameDecodeDone_known {job : FrameJob}
    (he : (s.rch.engines.find? fun x => x.1 == 32 * die.toNat + engine.toNat) = some (32 * die.toNat + engine.toNat, job)) :
    let k := 32 * die.toNat + engine.toNat
    let x := engineFree k (advance t s)
    exec (.frameDecodeDone t die engine) s = .next
      (if itemAccepted s (decodeUnit k) job.epoch then
        if job.verify.isSome then x else refinePass job.channel (decodeEnds job x)
      else countStale (decodeUnit k) x) := by
  intro k x
  have ha : itemAccepted x (decodeUnit k) job.epoch = itemAccepted s (decodeUnit k) job.epoch := by
    unfold itemAccepted
    rw [crewOf_congr (s := s) (u := x) (by rw [show x.crew = (advance t s).crew from rfl, (advance_frame t s).crew_eq])]
  change execFrameDecodeDone t die engine s = _
  unfold execFrameDecodeDone
  dsimp only
  rw [show ((advance t s).rch.engines.find? fun x => x.1 == 32 * die.toNat + engine.toNat) = some (k, job) by
    rw [(advance_frame t s).rch_eq]; exact he]
  dsimp only
  change (if (!itemAccepted x (decodeUnit k) job.epoch) = true then Host.Outcome.next (countStale (decodeUnit k) x)
    else if job.verify.isSome = true then .next x else .next (refinePass job.channel (decodeEnds job x))) = _
  rw [ha]
  cases itemAccepted s (decodeUnit k) job.epoch
  · rfl
  · cases job.verify <;> rfl

end

/-! ### What a decode leaves of the read channel -/

/-- The count of alternatives and of lost frames stands, and so does what the engines hold. -/
structure AltKept (s u : State) : Prop where
  alt : u.rch.alt = s.rch.alt
  engines : u.rch.engines = s.rch.engines

theorem AltKept.refl (s : State) : AltKept s s := ⟨rfl, rfl⟩

theorem AltKept.trans {s x u : State} (h : AltKept s x) (k : AltKept x u) : AltKept s u :=
  ⟨k.alt.trans h.alt, k.engines.trans h.engines⟩

theorem AltKept.of_rch {s u : State} (h : u.rch = s.rch) : AltKept s u := ⟨by rw [h], by rw [h]⟩

theorem joinRun_altKept (e : Nat) (s : State) : AltKept s (joinRun e s) := by
  unfold joinRun
  split
  · exact .refl s
  · split <;> exact ⟨rfl, rfl⟩

theorem correctIndex_altKept (job : FrameJob) (won : Nat) (s : State) : AltKept s (correctIndex job won s) := by
  unfold correctIndex
  split
  · split <;> exact ⟨rfl, rfl⟩
  · exact .refl s

theorem sumFrame_altKept (job : FrameJob) (s : State) : AltKept s (sumFrame job s) := by
  unfold sumFrame
  split <;> exact ⟨rfl, rfl⟩

theorem rneQuot_rch (a b : Int) (s : State) : (rneQuot a b s).2.rch = s.rch := by
  unfold rneQuot
  split
  · rfl
  · split <;> rfl

theorem refined_rch (v : RefSums) (entry : List Byte) (s : State) : (refined v entry s).2.rch = s.rch := by
  unfold refined
  dsimp only
  rw [rneQuot_rch, rneQuot_rch, rneQuot_rch]

theorem refinePass_altKept (e : Nat) (s : State) : AltKept s (refinePass e s) := by
  refine forEach_holds (fun z => AltKept s z) _ _ (fun x z hz => hz.trans ?_) (.refl s)
  dsimp only
  split
  · exact ⟨rfl, rfl⟩
  · obtain ⟨y, hy⟩ : ∃ y, y = { z with rch := { z.rch with sums := z.rch.sums.filter fun y => y.1 != x.1 } } := ⟨_, rfl⟩
    have ha : AltKept z y := by rw [hy]; exact ⟨rfl, rfl⟩
    rw [← hy]
    have h := refined_rch x.2 (workingEntry y e (x.1 % 16)) y
    generalize refined x.2 (workingEntry y e (x.1 % 16)) y = p at h
    exact ha.trans ⟨(congrArg ReadCh.alt h :), (congrArg ReadCh.engines h :)⟩

theorem frameLost_alt (e : Nat) (found : Bool) (s : State) :
    (frameLost e found s).rch.alt = bump16 s.rch.alt 16 ∧ (frameLost e found s).rch.engines = s.rch.engines := by
  unfold frameLost
  extract_lets _ x
  have hx : x.rch.alt = bump16 s.rch.alt 16 ∧ x.rch.engines = s.rch.engines := ⟨rfl, rfl⟩
  clear_value x
  split
  · exact ⟨(joinRun_altKept e x).alt.trans hx.1, (joinRun_altKept e x).engines.trans hx.2⟩
  · exact hx

theorem frameWins_alt (e : Nat) (found alt : Bool) (s : State) :
    (frameWins e found alt s).rch.alt = (if alt then bump16 s.rch.alt 0 else s.rch.alt)
      ∧ (frameWins e found alt s).rch.engines = s.rch.engines := by
  unfold frameWins
  extract_lets _ x
  have hx : x.rch.alt = (if alt then bump16 s.rch.alt 0 else s.rch.alt) ∧ x.rch.engines = s.rch.engines := by
    cases alt <;> exact ⟨rfl, rfl⟩
  clear_value x
  split
  · exact hx
  · split <;> exact hx

/-! ### The end of a decode -/

theorem decodeEnds_lost {job : FrameJob} (h : decodeJob job job.trials = none) (s : State) :
    decodeEnds job s = frameLost job.channel job.found s := by
  unfold decodeEnds
  rw [h]

/-- The frame counts as read with its winning alignment. -/
def frameRead (job : FrameJob) (w : FrameTrial) (s : State) : State :=
  frameWins job.channel job.found w.alt (correctIndex job w.at_ s)

theorem decodeEnds_won {job : FrameJob} {w : FrameTrial} {b : Option (List Byte)} (h : decodeJob job job.trials = some (w, b))
    (s : State) : decodeEnds job s = match (generalizing := false) b with
      | none => frameRead job w s
      | some x =>
        let hd := headerFields w.header
        let y := sumFrame job (frameRead job w s)
        if y.gl.cur = .read ∨ y.gl.cur = .verify then takeCodeword hd.part hd.dsn hd.cw x y else y := by
  unfold decodeEnds
  rw [h]
  rfl

theorem decodeEnds_alt {job : FrameJob} {w : FrameTrial} {b : Option (List Byte)} (h : decodeJob job job.trials = some (w, b))
    (s : State) : (decodeEnds job s).rch.alt = (if w.alt then bump16 s.rch.alt 0 else s.rch.alt)
      ∧ (decodeEnds job s).rch.engines = s.rch.engines := by
  have hf : (frameRead job w s).rch.alt = (if w.alt then bump16 s.rch.alt 0 else s.rch.alt)
      ∧ (frameRead job w s).rch.engines = s.rch.engines := by
    obtain ⟨h1, h2⟩ := frameWins_alt job.channel job.found w.alt (correctIndex job w.at_ s)
    obtain ⟨k1, k2⟩ := correctIndex_altKept job w.at_ s
    unfold frameRead
    rw [h1, h2, k1, k2]
    exact ⟨rfl, rfl⟩
  rw [decodeEnds_won h]
  cases b with
  | none => exact hf
  | some x =>
    obtain ⟨k1, k2⟩ := sumFrame_altKept job (frameRead job w s)
    dsimp only
    split
    · rw [(takeCodeword_frame ..).rch_eq, k1, k2]
      exact hf
    · rw [k1, k2]
      exact hf

theorem gatherOf_setGather {s : State} {g g' : Gather} {part d : Nat} (h : gatherOf s part d = some g) (hp : g'.part = part)
    (hd : g'.dsn = d) : gatherOf (setGather g' s) part d = some g' := by
  have loop : ∀ l : List Gather, (l.find? fun g => g.part == part && g.dsn == d) = some g →
      ((l.map fun x => if x.part = g'.part ∧ x.dsn = g'.dsn then g' else x).find? fun g => g.part == part && g.dsn == d) = some g' := by
    intro l
    induction l with
    | nil => intro h; exact absurd h (by simp)
    | cons a l ih =>
      intro h
      rw [List.map_cons]
      by_cases ha : a.part = part ∧ a.dsn = d
      · rw [if_pos (by rw [hp, hd]; exact ha), List.find?_cons_of_pos (by simp [hp, hd])]
      · rw [if_neg (by rw [hp, hd]; exact ha), List.find?_cons_of_neg (by simpa using ha)]
        rw [List.find?_cons_of_neg (by simpa using ha)] at h
        exact ih h
  exact loop _ h

/-- A codeword of a data set that is gathered joins it, where it is not the last one. -/
theorem takeCodeword_have {s : State} {part d cw : Nat} {b : List Byte} {g : Gather} (h : gatherOf s part d = some g)
    (hn : g.cws.length + 1 ≠ 7936) : haveCodeword (takeCodeword part d cw b s) part d cw = true := by
  have hg := List.find?_some h
  simp only [Bool.and_eq_true, beq_iff_eq] at hg
  unfold takeCodeword
  rw [h]
  dsimp only
  by_cases hc : (g.cws.any fun x => x.1 == cw) = true
  · rw [if_pos hc]
    unfold haveCodeword
    rw [h]
    dsimp only
    rw [hc, Bool.or_true]
  · rw [if_neg hc, if_neg hn]
    have k := gatherOf_setGather (g' := { g with cws := (cw, b) :: g.cws }) h hg.1 hg.2
    unfold haveCodeword
    rw [k]
    simp

section
variable {t : Time} {s : State} {k : Nat} {job : FrameJob}

/-- An engine that is free again changes nothing else of the read side. -/
theorem engineFree_parts (k : Nat) (t : Time) (s : State) :
    (engineFree k (advance t s)).rch = { s.rch with engines := s.rch.engines.filter fun x => x.1 != k }
      ∧ (engineFree k (advance t s)).rdr = s.rdr ∧ (engineFree k (advance t s)).gl.cur = s.gl.cur
      ∧ (engineFree k (advance t s)).crew = s.crew := by
  have h : (engineFree k (advance t s)).rch = { (advance t s).rch with engines := (advance t s).rch.engines.filter fun x => x.1 != k } := rfl
  refine ⟨by rw [h, (advance_frame t s).rch_eq], advance_rdr t s, ?_, (advance_frame t s).crew_eq⟩
  rw [show (engineFree k (advance t s)).gl = (advance t s).gl from rfl, (advance_frame t s).gl_eq]

/-- What the end of a decode that counts leaves, by its outcome. -/
def DecodeLeft (job : FrameJob) (s u : State) : Prop :=
  match decodeJob job job.trials with
  | none => bits u.rch.alt 16 16 = min 65535 (bits s.rch.alt 16 16 + 1) ∧ bits u.rch.alt 0 16 = bits s.rch.alt 0 16
    ∧ u.rdr = s.rdr
  | some (w, b) =>
    bits u.rch.alt 0 16 = (if w.alt then min 65535 (bits s.rch.alt 0 16 + 1) else bits s.rch.alt 0 16)
    ∧ (∀ x g, b = some x → s.gl.cur = .read ∨ s.gl.cur = .verify →
      let h := headerFields w.header
      gatherOf s h.part h.dsn = some g → g.cws.length + 1 ≠ 7936 → haveCodeword u h.part h.dsn h.cw = true)

theorem haveCodeword_congr {x u : State} (h : u.rdr = x.rdr) (hd : ∀ p d, cachedSet u p d = cachedSet x p d) (p d c : Nat) :
    haveCodeword u p d c = haveCodeword x p d c := by
  unfold haveCodeword gatherOf
  rw [hd, h]

theorem cachedSet_congr {x u : State} (h : u.rdr = x.rdr) (p d : Nat) : cachedSet u p d = cachedSet x p d := by
  unfold cachedSet
  rw [h]

theorem decodeEnds_left {x : State} (ha : x.rch.alt = s.rch.alt) (hr : x.rdr = s.rdr) (hg : x.gl.cur = s.gl.cur) :
    DecodeLeft job s (refinePass job.channel (decodeEnds job x))
      ∧ (refinePass job.channel (decodeEnds job x)).rch.engines = x.rch.engines := by
  obtain ⟨k1, k2⟩ := refinePass_altKept job.channel (decodeEnds job x)
  have k3 : (refinePass job.channel (decodeEnds job x)).rdr = (decodeEnds job x).rdr := (refinePass_frame ..).rdr_eq
  generalize refinePass job.channel (decodeEnds job x) = u at k1 k2 k3
  unfold DecodeLeft
  split
  · next hd =>
    rw [decodeEnds_lost hd] at k1 k2 k3
    obtain ⟨h1, h2⟩ := frameLost_alt job.channel job.found x
    obtain ⟨b1, b2⟩ := bits_bump16_high x.rch.alt
    rw [k1, k2, k3, h1, h2, b1, b2, (frameLost_frame ..).rdr_eq, ha]
    exact ⟨⟨rfl, rfl, hr⟩, rfl⟩
  · next w b hd =>
    obtain ⟨h1, h2⟩ := decodeEnds_alt hd x
    obtain ⟨b1, -⟩ := bits_bump16_low x.rch.alt
    refine ⟨⟨?_, fun c g hb hm => ?_⟩, k2.trans h2⟩
    · rw [k1, h1, ← ha]
      split
      · exact b1
      · rfl
    · intro hf hgt hn
      rw [haveCodeword_congr k3 (cachedSet_congr k3), decodeEnds_won hd, hb]
      dsimp only
      have hy : (sumFrame job (frameRead job w x)).rdr = s.rdr ∧ (sumFrame job (frameRead job w x)).gl.cur = s.gl.cur := by
        unfold frameRead
        rw [(sumFrame_frame ..).rdr_eq, (frameWins_frame ..).rdr_eq, (correctIndex_frame ..).rdr_eq, hr,
          (sumFrame_frame ..).gl_eq, (frameWins_frame ..).gl_eq, (correctIndex_frame ..).gl_eq, hg]
        exact ⟨rfl, rfl⟩
      generalize sumFrame job (frameRead job w x) = y at hy
      rw [if_pos (by rw [hy.2]; exact hm)]
      refine takeCodeword_have (g := g) ?_ hn
      unfold gatherOf at hgt ⊢
      rw [hy.1]
      exact hgt

/-- The end of a decode: its engine is free, and what it counts goes by its epoch, its kind and its outcome. -/
theorem decodeDone_parts :
    let x := engineFree k (advance t s)
    let u := if itemAccepted s (decodeUnit k) job.epoch then
        if job.verify.isSome then x else refinePass job.channel (decodeEnds job x)
      else countStale (decodeUnit k) x
    u.rch.engines = s.rch.engines.filter (fun x => x.1 != k)
      ∧ (itemAccepted s (decodeUnit k) job.epoch = false → u.rdr = s.rdr ∧ u.rch.fronts = s.rch.fronts
        ∧ tabGet 0 u.crew.stale (rosterClass (decodeUnit k)) = satInc (tabGet 0 s.crew.stale (rosterClass (decodeUnit k))))
      ∧ (itemAccepted s (decodeUnit k) job.epoch = true →
        (job.verify.isSome = true → u.rdr = s.rdr ∧ u.rch.alt = s.rch.alt)
        ∧ (job.verify = none → DecodeLeft job s u)) := by
  intro x u
  obtain ⟨hr, hd, hg, hc⟩ := engineFree_parts k t s
  rw [show engineFree k (advance t s) = x from rfl] at hr hd hg hc
  have hu : u = if itemAccepted s (decodeUnit k) job.epoch then
        if job.verify.isSome then x else refinePass job.channel (decodeEnds job x)
      else countStale (decodeUnit k) x := rfl
  clear_value x u
  have e1 : x.rch.engines = s.rch.engines.filter (fun x => x.1 != k) := by rw [hr]
  have e2 : x.rch.alt = s.rch.alt := by rw [hr]
  by_cases ha : itemAccepted s (decodeUnit k) job.epoch = true
  · rw [if_pos ha] at hu
    obtain ⟨h1, h2⟩ := decodeEnds_left (job := job) e2 hd hg
    refine ⟨?_, fun h => absurd ha (by rw [h]; decide), fun _ => ⟨fun h => ?_, fun h => ?_⟩⟩
    · rw [hu]
      split
      · exact e1
      · exact h2.trans e1
    · rw [hu, if_pos h]
      exact ⟨hd, e2⟩
    · rw [hu, if_neg (by rw [h]; decide)]
      exact h1
  · rw [if_neg ha] at hu
    refine ⟨by rw [hu]; exact e1, fun _ => ⟨by rw [hu]; exact hd, by rw [hu]; exact (congrArg ReadCh.fronts hr :), ?_⟩,
      fun h => absurd h ha⟩
    rw [hu, ← hc]
    exact tabGet_tabSet_same ..

end

/-! ### Blank tape -/

/-- The place from which the tape is blank stands. -/
def BlankKept (s u : State) : Prop := u.rdr.blankAt = s.rdr.blankAt

theorem EndKept.blank {s u : State} (h : EndKept s u) : BlankKept s u := (congrArg Reader.blankAt h.rdr :)

theorem BlankKept.trans {s x u : State} (h : BlankKept s x) (k : BlankKept x u) : BlankKept s u := Eq.trans k h

theorem BlankKept.of_rdr {s u : State} (h : u.rdr = s.rdr) : BlankKept s u := congrArg Reader.blankAt h

theorem reefStep_rdr (k : Nat) (s : State) : (reefStep k s).rdr = s.rdr := rfl

theorem paceRead_rdr (s : State) : (paceRead s).rdr = s.rdr := by
  unfold paceRead
  extract_lets b _ x
  have hx : x.rdr = s.rdr := rfl
  clear_value x
  repeat' split
  all_goals exact hx

theorem enterCache_blank (part d kind : Nat) (payload : List (Option Byte)) (s : State) :
    BlankKept s (enterCache part d kind payload s) := by
  unfold enterCache
  extract_lets c x _ y
  have hy : BlankKept s y := rfl
  clear_value y
  exact (hy.trans (EndKept.trimCache _ y).blank).trans (.of_rdr (paceRead_rdr _))

theorem finishPass_blank (part d : Nat) (s : State) : BlankKept s (finishPass part d s) := by
  have hc : ∀ (gs : List GroupEnd) (c : Bool) (z : State), BlankKept z (if c then z else countC2 gs z) := by
    intro gs c z
    cases c <;> rfl
  have he : ∀ (kind : Nat) (p : List (Option Byte)) (a b : Bool) (z : State),
      BlankKept z (enterCache part d kind p (countC3 a b z)) := fun kind p a b z =>
    BlankKept.trans (s := z) (x := countC3 a b z) rfl (enterCache_blank ..)
  unfold finishPass
  split
  · rfl
  · next g hg =>
    extract_lets gs payload x
    have hx : BlankKept s x := hc gs g.span s
    clear_value x
    split
    · exact hx.trans (he ..)
    · split
      · exact hx.trans rfl
      · split
        · exact hx.trans (he ..)
        · split
          · exact hx.trans rfl
          · exact hx.trans (he ..)

theorem forEach_blank {α : Type} (l : List α) {op : α → State → State} (h : ∀ a x, BlankKept x (op a x)) (s : State) :
    BlankKept s (forEach l op s) :=
  forEach_keeps (fun z => z.rdr.blankAt) l op (fun a x => h a x) s

theorem spansGoOn_blank (s : State) : BlankKept s (spansGoOn s) := forEach_blank _ (fun _ _ => finishPass_blank ..) s

theorem passEnds_blank (part d : Nat) (s : State) : BlankKept s (passEnds part d s) :=
  (finishPass_blank ..).trans (spansGoOn_blank _)

theorem readEnds_blank (c : InFlight) (status mark : Nat) (s : State) : BlankKept s (readEnds c status mark s) := by
  unfold readEnds
  split <;> exact (EndKept.complete ..).blank

theorem blankReads_blank (x : Nat) (s : State) : BlankKept s (blankReads x s) := by
  refine forEach_blank _ (fun c z => ?_) s
  have he : BlankKept z (tidy (readEnds c 0x0201 0 z)) := (readEnds_blank ..).trans (EndKept.tidy _).blank
  split
  · rfl
  · split
    · split
      · split
        · exact he
        · rfl
      · exact he
    · rfl

section
variable {t : Time} {s : State}

theorem frontRuns_advance : frontRuns (advance t s) = frontRuns s := by
  have h : tracking (advance t s) = tracking s := by
    have hr : readerTracks (advance t s) = readerTracks s := funext fun n => by
      unfold readerTracks servoRd
      rw [(advance_frame t s).sv_eq, crewOf_advance]
    unfold tracking
    rw [hr]
  unfold frontRuns
  rw [(advance_frame t s).gl_eq, h]

/-- What keeps the tape from being found blank now. -/
def blankIdle (t : Time) (s : State) : Prop := frontRuns s = false ∨ s.gl.cur = .write ∨ s.gl.cur = .calibrate
  ∨ s.rdr.blankAt = some s.rdr.lastHdr ∨ headPath (advance t s) < s.rdr.lastHdr + 2 * slotLen

theorem blankDetect_test : ((!frontRuns (advance t s) || decide ((advance t s).gl.cur = .write) || decide ((advance t s).gl.cur = .calibrate)
    || (advance t s).rdr.blankAt == some (advance t s).rdr.lastHdr
    || decide (headPath (advance t s) < (advance t s).rdr.lastHdr + 2 * slotLen)) = true) ↔ blankIdle t s := by
  rw [frontRuns_advance, (advance_frame t s).gl_eq, advance_rdr]
  simp [blankIdle, or_assoc]

theorem blankDetect_idle (h : blankIdle t s) : exec (.blankDetect t) s = .next (advance t s) :=
  if_pos (blankDetect_test.2 h)

theorem blankDetect_finds (h : ¬blankIdle t s) :
    ∃ u, exec (.blankDetect t) s = .next u ∧ u.rdr.blankAt = some s.rdr.lastHdr := by
  have hx : (advance t s).rdr.lastHdr = s.rdr.lastHdr := by rw [advance_rdr]
  refine ⟨_, if_neg (mt blankDetect_test.1 h), ?_⟩
  rw [← hx]
  obtain ⟨y, hy⟩ : ∃ y, y = { advance t s with rdr := { (advance t s).rdr with blankAt := some (advance t s).rdr.lastHdr } } := ⟨_, rfl⟩
  have hb : y.rdr.blankAt = some (advance t s).rdr.lastHdr := by rw [hy]
  rw [← hy]
  have k : BlankKept y _ := forEach_blank (y.rdr.gathers.filter fun g => g.seen) (fun g z => passEnds_blank g.part g.dsn z) y
  have k := ((k.trans (spansGoOn_blank _)).trans (blankReads_blank (advance t s).rdr.lastHdr _)).trans (EndKept.tapeRest _).blank
  exact Eq.trans k hb

end

/-- Settles O54: an engine takes the head of its die's queue under the occupancy of that instant, a decode that ends
frees its engine and counts once, and the tape is blank where no header came over two data-set lengths. -/
theorem decodeEngines : Obligations.DecodeEngines := by
  unfold Obligations.DecodeEngines
  refine ⟨fun t die engine s => ?_, fun t s => ⟨fun h1 h2 h3 h4 h5 => blankDetect_finds ?_, fun h => blankDetect_idle h⟩⟩
  · intro d k c
    have hr : (advance t s).rch = s.rch := (advance_frame t s).rch_eq
    have hcr : (advance t s).crew = s.crew := (advance_frame t s).crew_eq
    refine ⟨frameDecodeStart_idle, fun job rest hq hc he => ?_, frameDecodeDone_idle, fun job he => ?_⟩
    · intro o cutting cut
      have hcut : cuts (advance t s) d = cutting := by
        unfold cuts
        rw [occupancy_congr hr hcr, hr]
      obtain ⟨h1, h2, h3, h4, h5⟩ := engineTakes_parts die.isLt k job rest (advance t s)
      rw [show cuts (advance t s) die.toNat = cutting from hcut] at h2 h4
      refine ⟨_, frameDecodeStart_takes hq hc he, h1, h2, ?_, by rw [h4, hr], fun j hj => (h5 j hj).trans (dieQueue_congr (by rw [hr]) j)⟩
      rw [h3, hr]
      unfold takenJob
      rw [show cuts (advance t s) die.toNat = cutting from hcut, crewOf_advance, (advance_frame t s).fm_eq]
    · exact ⟨_, frameDecodeDone_known he, decodeDone_parts⟩
  · rintro (h | h | h | h | h)
    · rw [h1] at h; exact absurd h (by decide)
    · exact h2 h
    · exact h3 h
    · exact h4 h
    · omega

end Sys2Proof.Machine
end

section
/-!
PROOFS. Sheet Port packets, links, encoders and general inputs (O50).
-/

namespace Sys2Proof.Machine
set_option Elab.async false

/-! ### Bits of a word -/

/-- One bit of a word replaced. -/
theorem getLsbD_putBit (w : Word) {p j : Nat} (hp : p < 32) (hj : j < 32) (b : Bool) :
    (putBits w p 1 (b2n b)).getLsbD j = if j = p then b else w.getLsbD j := by
  have hb : b2n b < 2 := by cases b <;> decide
  have ht : ∀ h c : Nat, c < 2 → (2 * h + c).testBit 0 = decide (c = 1) := by
    intro h c hc
    rw [Nat.testBit_zero, show (2 * h + c) % 2 = c by omega]
  have hs : ∀ h c k : Nat, c < 2 → (2 * h + c).testBit (k + 1) = h.testBit k := by
    intro h c k hc
    rw [Nat.testBit_succ, show (2 * h + c) / 2 = h by omega]
  obtain ⟨hi, c, lo, hc, hlo, hw⟩ : ∃ hi c lo, c < 2 ∧ lo < 2 ^ p ∧ w.toNat = 2 ^ p * (2 * hi + c) + lo :=
    ⟨w.toNat / 2 ^ p / 2, w.toNat / 2 ^ p % 2, w.toNat % 2 ^ p, Nat.mod_lt _ (by decide), Nat.mod_lt _ (Nat.two_pow_pos p), by
      rw [Nat.div_add_mod, Nat.div_add_mod]⟩
  have hdiv : w.toNat / 2 ^ p = 2 * hi + c := by
    rw [hw, Nat.mul_add_div (Nat.two_pow_pos p), Nat.div_eq_of_lt hlo, Nat.add_zero]
  have hbits : bits w p 1 = c := by
    unfold bits
    rw [hdiv]
    omega
  have hval : w.toNat - bits w p 1 * 2 ^ p + b2n b % 2 ^ 1 * 2 ^ p = 2 ^ p * (2 * hi + b2n b) + lo := by
    rw [hbits, hw, Nat.mod_eq_of_lt (show b2n b < 2 ^ 1 from hb)]
    have e1 : 2 ^ p * (2 * hi + c) = 2 ^ p * (2 * hi) + c * 2 ^ p := by rw [Nat.mul_add, Nat.mul_comm _ c]
    have e2 : 2 ^ p * (2 * hi + b2n b) = 2 ^ p * (2 * hi) + b2n b * 2 ^ p := by rw [Nat.mul_add, Nat.mul_comm _ (b2n b)]
    omega
  have hl : (putBits w p 1 (b2n b)).getLsbD j = (2 ^ p * (2 * hi + b2n b) + lo).testBit j := by
    unfold putBits
    rw [BitVec.getLsbD_ofNat, hval]
    simp [hj]
  have hr : w.getLsbD j = (2 ^ p * (2 * hi + c) + lo).testBit j := by rw [BitVec.getLsbD, hw]
  rw [hl, hr, Nat.testBit_two_pow_mul_add _ hlo, Nat.testBit_two_pow_mul_add _ hlo]
  rcases Nat.lt_trichotomy j p with h | h | h
  · rw [if_pos h, if_pos h, if_neg (by omega)]
  · subst h
    rw [if_neg (by omega), if_pos rfl, Nat.sub_self, ht _ _ hb]
    cases b <;> rfl
  · obtain ⟨k, hk⟩ : ∃ k, j - p = k + 1 := ⟨j - p - 1, by omega⟩
    rw [if_neg (by omega), if_neg (by omega), if_neg (by omega), hk, hs _ _ _ hb, hs _ _ _ hc]

theorem bits_putBits_byte (w : Word) (x : Nat) : bits (putBits w 16 8 x) 16 8 = x % 256 := by
  have hw : w.toNat < 4294967296 := w.isLt
  unfold putBits bits
  simp only [BitVec.toNat_ofNat]
  simp only [Nat.reducePow, Nat.div_one, Nat.mul_one]
  omega

/-! ### Packets -/

section
variable {t : Time} {s : State} {link : BitVec 5} {code : BitVec 3} {data : BitVec 32} {crc : Byte} {intact : Bool}

theorem sp_advance : (advance t s).sp = s.sp := (advance_frame t s).sp_eq

theorem linkInSync_advance (n : Nat) : linkInSync (advance t s) n = linkInSync s n := by
  unfold linkInSync
  rw [sp_advance]

theorem sheetPacket_unsynced (h : linkInSync s link.toNat = false) :
    exec (.sheetPacketReceive t link code data crc intact) s = .next (advance t s) :=
  if_pos (by rw [linkInSync_advance]; exact .inr (.inr h))

/-- A measurement word takes a value, and a step that saturated is noted. -/
def setMeasure (w : Nat) (m : Int) (sat : Bool) (s : State) : State :=
  { s with sp := { s.sp with
    meas := tabSet 0 s.sp.meas w m
    err := if sat then s.sp.err ||| 0x80000000#32 else s.sp.err } }

theorem sheetPacket_synced (hn : link.toNat < 24) (hk : code.toNat ≤ 4) (h : linkInSync s link.toNat = true) :
    exec (.sheetPacketReceive t link code data crc intact) s = .next
      (if intact = false ∨ crc ≠ packetCrc code.toNat data then sheetError 0 16 (advance t s)
      else if code.toNat = 4 then event 0 0 0x18 [BitVec.ofNat 64 (link.toNat + bits data 0 8 * 2 ^ 8 + bits data 8 24 * 2 ^ 24)] (advance t s)
      else setMeasure (4 * link.toNat + code.toNat) (measured s (4 * link.toNat + code.toNat) data).1
        (measured s (4 * link.toNat + code.toNat) data).2 (advance t s)) := by
  have hm : measured (advance t s) (4 * link.toNat + code.toNat) data = measured s (4 * link.toNat + code.toNat) data := by
    unfold measured calOf
    rw [sp_advance]
  change execSheetPacketReceive t link code data crc intact s = _
  unfold execSheetPacketReceive
  dsimp only
  rw [if_neg (by rw [linkInSync_advance, h]; simp; omega), hm]
  have hb : ((!intact || packetCrc code.toNat data != crc) = true) ↔ (intact = false ∨ crc ≠ packetCrc code.toNat data) := by
    rw [Bool.or_eq_true, Bool.not_eq_true', bne_iff_ne]
    exact or_congr Iff.rfl ne_comm
  by_cases hx : intact = false ∨ crc ≠ packetCrc code.toNat data
  · rw [if_pos (hb.2 hx), if_pos hx]
  · rw [if_neg (mt hb.1 hx), if_neg hx]
    by_cases h4 : code.toNat = 4
    · rw [if_pos h4, if_pos h4]
    · rw [if_neg h4, if_neg h4]
      rfl

theorem sheetError_low (s : State) : bits (sheetError 0 16 s).sp.err 0 16 = min 65535 (bits s.sp.err 0 16 + 1)
    ∧ bits (sheetError 0 16 s).sp.err 16 16 = bits s.sp.err 16 16 ∧ (sheetError 0 16 s).sp.meas = s.sp.meas :=
  ⟨(bits_bump16_low s.sp.err).1, (bits_bump16_low s.sp.err).2, rfl⟩

theorem sheetError_losses (s : State) : bits (sheetError 16 8 s).sp.err 16 8 = min 255 (bits s.sp.err 16 8 + 1) := by
  refine (bits_putBits_byte s.sp.err _).trans (Nat.mod_eq_of_lt ?_)
  exact Nat.lt_of_le_of_lt (Nat.min_le_left _ _) (by decide)

/-- Both steps of the correction, and whether one of them saturates (R330). -/
theorem measured_eq (s : State) (w : Nat) (raw : Word) :
    let off := i32 (tabGet 0 s.sp.cal (2 * w))
    let gain := (tabGet 0x40000000#32 s.sp.cal (2 * w + 1)).toNat
    let a := rne ((i32 raw - off) * gain) 30
    let b := term (tabGet coefZero s.sp.nom w) (satN 32 a)
    measured s w raw = (satN 32 b, a != satN 32 a || b != satN 32 b) := rfl

theorem saturates_iff {α : Type} (x x' y y' : Int) (e e' : α) :
    (if (x != x' || y != y') = true then e' else e) = if x' = x ∧ y' = y then e else e' := by
  by_cases hx : x' = x
  · subst hx
    by_cases hy : y' = y
    · subst hy
      simp
    · simp [hy, Ne.symm hy]
  · simp [hx, Ne.symm hx]

theorem setMeasure_parts (w : Nat) (m : Int) (sat : Bool) (s : State) :
    let u := setMeasure w m sat s
    tabGet 0 u.sp.meas w = m ∧ (∀ j, j ≠ w → tabGet 0 u.sp.meas j = tabGet 0 s.sp.meas j)
      ∧ u.sp.err = if sat then s.sp.err ||| 0x80000000#32 else s.sp.err :=
  ⟨tabGet_tabSet_same .., fun _ hj => tabGet_tabSet_other _ _ _ hj, rfl⟩

end

/-! ### Link sync -/

section
variable {t : Time} {s : State} {link : BitVec 5}

theorem linksUp_congr {x u : State} (h1 : u.sp.sync = x.sp.sync) (h2 : u.sp.ctl = x.sp.ctl) : linksUp u = linksUp x := by
  unfold linksUp linkEnabled linkInSync
  rw [h1, h2]

/-- The instant from which every enabled link is in sync. -/
theorem linksNote_parts (s : State) : (linksNote s).sp.sync = s.sp.sync ∧ (linksNote s).sp.err = s.sp.err
    ∧ (linksNote s).gl = s.gl ∧ linksUp (linksNote s) = linksUp s
    ∧ (linksNote s).sp.allUp = if linksUp s then some (s.sp.allUp.getD s.tb) else none := by
  refine ⟨rfl, rfl, rfl, linksUp_congr rfl rfl, ?_⟩
  unfold linksNote
  dsimp only
  cases s.sp.allUp <;> rfl

/-- Link `n` in sync or out of it. -/
def setSync (n : Nat) (on : Bool) (s : State) : State :=
  { s with sp := { s.sp with
    sync := if on then s.sp.sync ||| BitVec.ofNat 24 (2 ^ n) else s.sp.sync &&& ~~~(BitVec.ofNat 24 (2 ^ n)) } }

theorem linkInSync_setSync (n : Nat) (on : Bool) (s : State) {j : Nat} (hj : j < 24) :
    linkInSync (setSync n on s) j = if j = n then on else linkInSync s j := by
  have hb : (BitVec.ofNat 24 (2 ^ n)).getLsbD j = decide (j = n) := by
    rw [BitVec.getLsbD_ofNat, Nat.testBit_two_pow]
    simp [hj, eq_comm]
  unfold linkInSync setSync
  dsimp only
  cases on
  · rw [if_neg (by decide), BitVec.getLsbD_and, BitVec.getLsbD_not, hb]
    by_cases h : j = n <;> simp [h, hj]
  · rw [if_pos rfl, BitVec.getLsbD_or, hb]
    by_cases h : j = n <;> simp [h]

theorem sheetLinkSync_runs (hn : link.toNat < 24) (hl : s.gl.locked = true) :
    exec (.sheetLinkSync t link) s = .next (linksNote (setSync link.toNat true (advance t s))) := by
  have hl' : (advance t s).gl.locked = true := by rw [(advance_frame t s).gl_eq]; exact hl
  exact if_neg (by rw [hl']; simp; omega)

theorem sheetLinkLoss_runs (hn : link.toNat < 24) (h : linkInSync s link.toNat = true) :
    exec (.sheetLinkLoss t link) s = .next
      (if linkEnabled s link.toNat then sheetDown (sheetError 16 8 (setSync link.toNat false (advance t s)))
      else setSync link.toNat false (advance t s)) := by
  have he : linkEnabled (setSync link.toNat false (advance t s)) link.toNat = linkEnabled s link.toNat := by
    unfold linkEnabled
    rw [show (setSync link.toNat false (advance t s)).sp.ctl = (advance t s).sp.ctl from rfl, sp_advance]
  change execSheetLinkLoss t link s = _
  unfold execSheetLinkLoss
  dsimp only
  rw [if_neg (by rw [linkInSync_advance, h]; simp; omega)]
  change (if linkEnabled (setSync link.toNat false (advance t s)) link.toNat = true then
    Host.Outcome.next (sheetDown (sheetError 16 8 (setSync link.toNat false (advance t s))))
    else .next (setSync link.toNat false (advance t s))) = _
  rw [he]
  repeat' split
  all_goals rfl

/-- An enabled link that is down is a HOLD cause, and no 1 ms runs (R333). -/
theorem sheetDown_parts {x : State} {n : Nat} (hn : n < 24) (he : linkEnabled x n = true) (hs : linkInSync x n = false) :
    let u := sheetDown x
    u.sp.sync = x.sp.sync ∧ u.sp.err = x.sp.err ∧ u.sp.allUp = none ∧ u.gl.liveSheet = true
      ∧ u.gl.latched = x.gl.latched ||| 8#7 ∧ (x.gl.cur ≠ .reset → x.gl.cur ≠ .fill → u.gl.cur = .hold) := by
  intro u
  obtain ⟨y, hy⟩ : ∃ y, y = linksNote { x with gl := { x.gl with liveSheet := true } } := ⟨_, rfl⟩
  obtain ⟨k1, k2, k3, -, k5⟩ := linksNote_parts { x with gl := { x.gl with liveSheet := true } }
  rw [← hy] at k1 k2 k3 k5
  have hup : linksUp { x with gl := { x.gl with liveSheet := true } } = false := by
    refine Bool.eq_false_iff.2 fun h => ?_
    have := List.all_eq_true.1 h n (List.mem_range.2 hn)
    rw [show linkEnabled { x with gl := { x.gl with liveSheet := true } } n = true from he,
      show linkInSync { x with gl := { x.gl with liveSheet := true } } n = false from hs] at this
    exact absurd this (by decide)
  have k5 : y.sp.allUp = none := by rw [k5, hup]; rfl
  have kc : y.gl.cur = x.gl.cur := by rw [k3]
  have kl : y.gl.latched = x.gl.latched := by rw [k3]
  have kv : y.gl.liveSheet = true := by rw [k3]
  have hu : u = senseFast 3 (holdCause 3 y) := by rw [hy]; rfl
  have hsp : u.sp = y.sp := by rw [hu, (senseFast_frame ..).sp_eq, (holdCause_frame ..).sp_eq]
  have hgl : u.gl = (holdCause 3 y).gl := by rw [hu, (senseFast_frame ..).gl_eq]
  clear_value u
  have hg : (holdCause 3 y).gl.liveSheet = true ∧ (holdCause 3 y).gl.latched = y.gl.latched ||| 8#7
      ∧ (y.gl.cur ≠ .reset → y.gl.cur ≠ .fill → (holdCause 3 y).gl.cur = .hold) := by
    by_cases h : y.gl.cur = .reset ∨ y.gl.cur = .fill ∨ y.gl.cur = .hold
    · rw [holdCause_gl_stay 3 h]
      refine ⟨kv, rfl, fun h1 h2 => ?_⟩
      rcases h with h | h | h
      · exact absurd h h1
      · exact absurd h h2
      · exact h
    · rw [holdCause_gl 3 (not_or_or h)]
      exact ⟨kv, rfl, fun _ _ => rfl⟩
  rw [hsp, hgl, ← kl, ← kc]
  exact ⟨k1, k2, k5, hg⟩

theorem sheetLinkStable_clears {a : Time} (ha : s.sp.allUp = some a) (hu : linksUp s = true)
    (ht : a.toNat + 1600000 ≤ (advance t s).tb.toNat) :
    ∃ u, exec (.sheetLinkStable t) s = .next u ∧ u.gl = { s.gl with liveSheet := false } ∧ u.sp = s.sp := by
  have hup : linksUp (advance t s) = true := by
    rw [linksUp_congr (x := s) (by rw [sp_advance]) (by rw [sp_advance])]
    exact hu
  refine ⟨senseFast 3 { advance t s with gl := { (advance t s).gl with liveSheet := false } }, ?_, ?_, ?_⟩
  · change execSheetLinkStable t s = _
    unfold execSheetLinkStable
    dsimp only
    rw [show (advance t s).sp.allUp = some a by rw [sp_advance]; exact ha]
    dsimp only
    rw [if_pos (by simp [hup, ht])]
  · rw [(senseFast_frame ..).gl_eq, ← (advance_frame t s).gl_eq]
  · rw [(senseFast_frame ..).sp_eq]
    exact sp_advance

theorem sheetLinkStable_idle (ha : s.sp.allUp = none) : exec (.sheetLinkStable t) s = .next (advance t s) := by
  change execSheetLinkStable t s = _
  unfold execSheetLinkStable
  dsimp only
  rw [show (advance t s).sp.allUp = none by rw [sp_advance]; exact ha]

/-! ### Refresh -/

/-- The packet of command word `w`. -/
def wordPacket (cmd : List (Nat × Word)) (w : Nat) : Out := .packet (w / 4) (w % 4) (tabGet 0 cmd w)

theorem refresh_out (l : List Nat) (s : State) :
    (forEach l (fun w s => emit (.packet (w / 4) (w % 4) (tabGet 0 s.sp.cmd w)) s) s).out
      = (l.map (wordPacket s.sp.cmd)).reverse ++ s.out := by
  induction l generalizing s with
  | nil => rfl
  | cons a l ih =>
    rw [forEach_cons, ih]
    simp [wordPacket, emit]

/-- The command words of the enabled links, in order. -/
def refreshWords (s : State) : List Nat :=
  ((List.range 24).filter (linkEnabled s)).flatMap fun n => (List.range 4).map fun i => 4 * n + i

theorem length_refreshWords (s : State) : (refreshWords s).length = 4 * ((List.range 24).filter (linkEnabled s)).length := by
  unfold refreshWords
  rw [List.length_flatMap]
  simp [List.map_const', Nat.mul_comm]

theorem mem_refreshWords {n i : Nat} (hn : n < 24) (hi : i < 4) (he : linkEnabled s n = true) : 4 * n + i ∈ refreshWords s :=
  List.mem_flatMap.2 ⟨n, List.mem_filter.2 ⟨List.mem_range.2 hn, he⟩, List.mem_map.2 ⟨i, List.mem_range.2 hi, rfl⟩⟩

theorem sheetRefresh_sends (hl : s.gl.locked = true) : ∃ u, exec (.sheetRefresh t) s = .next u
    ∧ ∃ l, u.out = l ++ s.out ∧ l.length = 4 * ((List.range 24).filter (linkEnabled s)).length
      ∧ ∀ n i, n < 24 → i < 4 → linkEnabled s n = true → .packet n i (tabGet 0 s.sp.cmd (4 * n + i)) ∈ l := by
  have hl' : (advance t s).gl.locked = true := by rw [(advance_frame t s).gl_eq]; exact hl
  have hw : refreshWords (advance t s) = refreshWords s := by
    unfold refreshWords linkEnabled
    rw [sp_advance]
  refine ⟨_, if_neg (by rw [hl']; decide), ((refreshWords s).map (wordPacket s.sp.cmd)).reverse, ?_, ?_, fun n i hn hi he => ?_⟩
  · refine (refresh_out (refreshWords (advance t s)) _).trans ?_
    rw [hw, sp_advance, advance_out]
  · rw [List.length_reverse, List.length_map, length_refreshWords]
  · refine List.mem_reverse.2 (List.mem_map.2 ⟨_, mem_refreshWords hn hi he, ?_⟩)
    unfold wordPacket
    rw [show (4 * n + i) / 4 = n by omega, show (4 * n + i) % 4 = i by omega]

end

/-! ### Encoders -/

section
variable {s : State} {x : Nat} {a b : Bool}

theorem encOf_setEnc (x : Nat) (v : Enc) (s : State) : encOf (setEnc x v s) x = v := tabGet_tabSet_same ..

theorem encOf_setEnc_other {x y : Nat} (h : y ≠ x) (v : Enc) (s : State) : encOf (setEnc x v s) y = encOf s y :=
  tabGet_tabSet_other _ _ _ h

theorem encOf_congr {u : State} (h : u.sp.encs = s.sp.encs) (y : Nat) : encOf u y = encOf s y := by
  unfold encOf
  rw [h]

theorem encMove_still (ha : (encOf s x).a = a) (hb : (encOf s x).b = b) : encMove x a b s = s := if_pos ⟨ha, hb⟩

/-- Both lines at once: the count stands, and an error is counted (R334). -/
theorem encMove_both (ha : (encOf s x).a ≠ a) (hb : (encOf s x).b ≠ b) :
    (encMove x a b s).sp.encErr = bump16 s.sp.encErr 16 ∧ encOf (encMove x a b s) x = { encOf s x with a := a, b := b }
      ∧ ∀ y, y ≠ x → encOf (encMove x a b s) y = encOf s y := by
  have e : encMove x a b s = { setEnc x { encOf s x with a := a, b := b } s with
      sp := { (setEnc x { encOf s x with a := a, b := b } s).sp with encErr := bump16 s.sp.encErr 16 } } :=
    (if_neg (fun h => ha h.1)).trans (if_pos ⟨ha, hb⟩)
  rw [e]
  exact ⟨rfl, encOf_setEnc .., fun y hy => encOf_setEnc_other hy _ _⟩

/-- One line: the count moves by one, and the edge is kept with the new count (R334). -/
theorem encMove_one (h : (encOf s x).a = a ∧ (encOf s x).b ≠ b ∨ (encOf s x).a ≠ a ∧ (encOf s x).b = b) :
    let u := encMove x a b s
    let n := wrapCount ((encOf s x).count + quadStep (s.sp.encCtl.getLsbD (16 + x)) (encOf s x) a b)
    u.sp.encErr = s.sp.encErr ∧ (encOf u x).a = a ∧ (encOf u x).b = b ∧ (encOf u x).count = n
      ∧ (encOf u x).edges.head? = some (s.tb, n) ∧ ∀ y, y ≠ x → encOf u y = encOf s y := by
  intro u n
  obtain ⟨v, hv, ha, hb, hc, he⟩ : ∃ v, u = setEnc x v s ∧ v.a = a ∧ v.b = b ∧ v.count = n ∧ v.edges.head? = some (s.tb, n) := by
    refine ⟨_, (if_neg ?_).trans (if_neg ?_), rfl, rfl, rfl, rfl⟩
    · rintro ⟨h1, h2⟩
      rcases h with h | h
      · exact h.2 h2
      · exact h.1 h1
    · rintro ⟨h1, h2⟩
      rcases h with h | h
      · exact h1 h.1
      · exact h2 h.2
  rw [hv, encOf_setEnc]
  exact ⟨rfl, ha, hb, hc, he, fun y hy => encOf_setEnc_other hy _ _⟩

theorem encMove_lines (x : Nat) (a b : Bool) (s : State) : (encOf (encMove x a b s) x).a = a ∧ (encOf (encMove x a b s) x).b = b
    ∧ ∀ y, y ≠ x → encOf (encMove x a b s) y = encOf s y := by
  by_cases ha : (encOf s x).a = a
  · by_cases hb : (encOf s x).b = b
    · rw [encMove_still ha hb]
      exact ⟨ha, hb, fun _ _ => rfl⟩
    · obtain ⟨-, h1, h2, -, -, h3⟩ := encMove_one (.inl ⟨ha, hb⟩)
      exact ⟨h1, h2, h3⟩
  · by_cases hb : (encOf s x).b = b
    · obtain ⟨-, h1, h2, -, -, h3⟩ := encMove_one (.inr ⟨ha, hb⟩)
      exact ⟨h1, h2, h3⟩
    · obtain ⟨-, h1, h2⟩ := encMove_both ha hb
      rw [h1]
      exact ⟨rfl, rfl, h2⟩

theorem encRests_congr {u : State} (h : u.tb = s.tb) (v : Enc) : encRests u v = encRests s v := by
  unfold encRests
  rw [h]

theorem tapeRests_congr {u : State} (ht : u.tb = s.tb) (hs : u.sp = s.sp) : tapeRests u = tapeRests s := by
  unfold tapeRests
  have h : ∀ y, encOf u y = encOf s y := encOf_congr (by rw [hs])
  rw [encRests_congr ht, encRests_congr ht, h, h]

/-- MOVING behind an accepted edge (R20). -/
def noteMoving (s : State) : State :=
  if tapeRests s then s else senseFast 4 { s with gl := { s.gl with moving := true } }

theorem noteMoving_parts (s : State) : (noteMoving s).sp = s.sp ∧ (noteMoving s).tb = s.tb
    ∧ (noteMoving s).gl.moving = (if tapeRests s then s.gl.moving else true) := by
  unfold noteMoving
  split
  · exact ⟨rfl, rfl, rfl⟩
  · exact ⟨(senseFast_frame ..).sp_eq, (senseFast_frame ..).tb_eq, congrArg Global.moving (senseFast_frame ..).gl_eq⟩

section
variable {t : Time} {enc : BitVec 1}

theorem encoderEdge_runs (hf : fetching s = true) : exec (.encoderEdge t enc a b) s
    = .next (servoSpeed (noteMoving (encMove enc.toNat a b (advance t s)))) :=
  if_neg (by rw [fetching_advance, hf]; decide)

theorem encOf_advance (y : Nat) : encOf (advance t s) y = encOf s y := encOf_congr (by rw [sp_advance]) y

/-- An accepted edge: the encoder's lines follow it, and MOVING follows the test of R20. -/
theorem encoderEdge_parts (hf : fetching s = true) : ∃ u, exec (.encoderEdge t enc a b) s = .next u
    ∧ u.sp = (encMove enc.toNat a b (advance t s)).sp
    ∧ u.gl.moving = (if tapeRests u then s.gl.moving else true) := by
  obtain ⟨h1, h2, h3⟩ := noteMoving_parts (encMove enc.toNat a b (advance t s))
  refine ⟨_, encoderEdge_runs hf, by rw [(servoSpeed_frame _).sp_eq, h1], ?_⟩
  rw [tapeRests_congr (s := encMove enc.toNat a b (advance t s)) (by rw [(servoSpeed_frame _).tb_eq, h2])
    (by rw [(servoSpeed_frame _).sp_eq, h1]), (servoSpeed_frame _).gl_eq, h3, (encMove_frame ..).gl_eq, (advance_frame t s).gl_eq]

end

/-- An encoder's count moved to `n`, its kept edges with it. -/
def turnedTo (n : Int) (v : Enc) : Enc :=
  { v with count := n, edges := v.edges.map fun e => (e.1, wrapCount (e.2 + n - v.count))
           base := wrapCount (v.base + n - v.count) }

theorem encTurn_first (h : (encOf s x).idx = false) : encTurn x s = setEnc x { turnedTo 0 (encOf s x) with idx := true } s :=
  if_pos (by rw [h]; rfl)

theorem encTurn_whole (h : (encOf s x).idx = true) (hr : (encOf s x).count.toNat % (encOf s x).cpr.toNat = 0) :
    encTurn x s = s :=
  (if_neg (by rw [h]; decide)).trans (if_pos hr)

theorem encTurn_between (h : (encOf s x).idx = true) (hr : (encOf s x).count.toNat % (encOf s x).cpr.toNat ≠ 0) :
    (encTurn x s).sp.encErr = bump16 s.sp.encErr 0 ∧ encOf (encTurn x s) x = turnedTo (nearestTurn s (encOf s x)).1 (encOf s x) := by
  have hsp : (nearestTurn s (encOf s x)).2.sp = s.sp := (nearestTurn_frame s (encOf s x)).sp_eq
  have e : encTurn x s = (fun p : Int × State =>
      { setEnc x (turnedTo p.1 (encOf s x)) p.2 with
        sp := { (setEnc x (turnedTo p.1 (encOf s x)) p.2).sp with encErr := bump16 p.2.sp.encErr 0 } }) (nearestTurn s (encOf s x)) :=
    (if_neg (by rw [h]; decide)).trans (if_neg hr)
  rw [e]
  generalize nearestTurn s (encOf s x) = p at hsp
  exact ⟨congrArg (fun r : Sheet => bump16 r.encErr 0) hsp, encOf_setEnc ..⟩

theorem wrapCount_natCast (n : Nat) : wrapCount n = (n % 2 ^ 32 : Nat) := by
  unfold wrapCount
  omega

/-- The nearest multiple of CPR, where one is nearer than the other (R334). -/
theorem nearestTurn_parts (s : State) (v : Enc) :
    let c := v.cpr.toNat
    let r := v.count.toNat % c
    (2 * r < c → (nearestTurn s v).1 = (v.count.toNat / c * c : Nat))
      ∧ (c < 2 * r → (nearestTurn s v).1 = ((v.count.toNat / c * c + c) % 2 ^ 32 : Nat)) := by
  intro c r
  have hr : v.count.toNat - v.count.toNat / c * c = r := by
    have := Nat.div_add_mod v.count.toNat c
    rw [Nat.mul_comm] at this
    omega
  unfold nearestTurn
  extract_lets n lo
  have hr' : n - lo = r := hr
  refine ⟨fun h => ?_, fun h => ?_⟩
  · rw [if_pos (by rw [hr']; exact h)]
  · rw [if_neg (by rw [hr']; exact Nat.lt_asymm h), if_pos (by rw [hr']; exact h)]
    exact wrapCount_natCast (lo + c)

end

section
variable {t : Time} {s : State}

/-- The tape is at rest, as both encoders show it (R20, R265). -/
theorem tapeAtRest_rests (h : tapeRests (advance t s) = true) : ∃ u, exec (.tapeAtRest t) s = .next u ∧ u.gl.moving = false
    ∧ u.sm.hitch = (if s.sm.hitch = .stopping then .waiting else s.sm.hitch) ∧ u.sp = s.sp := by
  obtain ⟨y, hy⟩ : ∃ y, y = { advance t s with
      gl := { (advance t s).gl with moving := false }
      sm := { (advance t s).sm with hitch := if (advance t s).sm.hitch = Hitch.stopping then Hitch.waiting else (advance t s).sm.hitch } } :=
    ⟨_, rfl⟩
  have e : exec (.tapeAtRest t) s = .next (senseFast 4 (servoSpeed y)) := by
    rw [hy]
    exact if_neg (by rw [h]; decide)
  have h1 : y.gl.moving = false := by rw [hy]
  have h2 : y.sm.hitch = (if s.sm.hitch = Hitch.stopping then Hitch.waiting else s.sm.hitch) := by
    rw [hy, ← (advance_frame t s).sm_eq]
  have h3 : y.sp = s.sp := by
    rw [hy]
    exact sp_advance
  refine ⟨_, e, ?_, ?_, ?_⟩
  · rw [(senseFast_frame ..).gl_eq, (servoSpeed_frame _).gl_eq, h1]
  · rw [(senseFast_frame ..).sm_eq, (servoSpeed_frame _).sm_eq, h2]
  · rw [(senseFast_frame ..).sp_eq, (servoSpeed_frame _).sp_eq, h3]

theorem tapeAtRest_moves (h : tapeRests (advance t s) = false) : exec (.tapeAtRest t) s = .next (advance t s) :=
  if_pos (by rw [h]; rfl)

/-- A general input takes its accepted level. -/
theorem gpiEdge_level {pin : BitVec 5} {level : Bool} (hl : s.gl.locked = true) : ∃ u, exec (.gpiEdge t pin level) s = .next u
    ∧ ∀ p, p < 32 → u.sp.gpi.getLsbD p = if p = pin.toNat then level else s.sp.gpi.getLsbD p := by
  have hl' : (advance t s).gl.locked = true := by rw [(advance_frame t s).gl_eq]; exact hl
  refine ⟨_, if_neg (by rw [hl']; decide), fun p hp => ?_⟩
  rw [(senseSrc_frame ..).sp_eq, ← sp_advance (t := t) (s := s)]
  exact getLsbD_putBit _ pin.isLt hp level

end

/-- Settles O50: a packet acts by its sync, its CRC and its code, a link that changes moves the 1 ms of R333, a refresh
sends every command word of the enabled links, and an encoder counts each edge of one line. -/
theorem sheetPortLinks : Obligations.SheetPortLinks := by
  unfold Obligations.SheetPortLinks
  refine ⟨fun t link code data crc intact s => ?_, fun t s => ⟨fun a => sheetLinkStable_clears, sheetLinkStable_idle,
    sheetRefresh_sends, tapeAtRest_rests, tapeAtRest_moves⟩, fun t enc a b s => ?_, fun t pin level s => gpiEdge_level⟩
  · intro n k w
    have hsp : (advance t s).sp = s.sp := sp_advance
    refine ⟨sheetPacket_unsynced, fun hn hk hsy => ⟨fun hbad => ?_, fun hi hcrc => ?_⟩, fun hn hl => ?_, fun hn hsy => ?_⟩
    · refine ⟨_, sheetPacket_synced hn hk hsy, ?_⟩
      obtain ⟨h1, h2, h3⟩ := sheetError_low (advance t s)
      rw [if_pos (show intact = false ∨ crc ≠ packetCrc code.toNat data from hbad), h1, h2, h3, hsp]
      exact ⟨rfl, rfl, rfl⟩
    · have e := sheetPacket_synced (t := t) (data := data) (crc := crc) (intact := intact) hn hk hsy
      have hno : ¬(intact = false ∨ crc ≠ packetCrc code.toNat data) := by
        rintro (h | h)
        · rw [hi] at h; exact absurd h (by decide)
        · exact h hcrc
      rw [if_neg hno] at e
      refine ⟨fun h4 => ?_, fun h4 => ?_⟩
      · intro off gain x y
        rw [if_neg (show ¬code.toNat = 4 by omega), measured_eq] at e
        obtain ⟨h1, h2, h3⟩ := setMeasure_parts w (satN 32 y) (x != satN 32 x || y != satN 32 y) (advance t s)
        refine ⟨_, e, h1, fun j hj => (h2 j hj).trans (by rw [hsp]), h3.trans ?_⟩
        rw [hsp, saturates_iff]
      · rw [e, if_pos h4]
    · obtain ⟨h1, -, -, h4, h5⟩ := linksNote_parts (setSync n true (advance t s))
      refine ⟨_, sheetLinkSync_runs hn hl, fun j hj => ?_, ?_⟩
      · have hj' := linkInSync_setSync n true (advance t s) hj
        rw [linkInSync_advance] at hj'
        refine (congrArg (fun v : BitVec 24 => v.getLsbD j) h1).trans (hj'.trans ?_)
        by_cases h : j = n <;> simp [h]
      · rw [h4, h5, ← hsp]
        rfl
    · have hall : ∀ j, j < 24 → linkInSync (setSync n false (advance t s)) j = (!decide (j = n) && linkInSync s j) := by
        intro j hj
        rw [linkInSync_setSync n false _ hj, linkInSync_advance]
        by_cases h : j = n <;> simp [h]
      have hgl : (setSync n false (advance t s)).gl = s.gl := (advance_frame t s).gl_eq
      have herr : (setSync n false (advance t s)).sp.err = s.sp.err := (congrArg Sheet.err hsp :)
      refine ⟨_, sheetLinkLoss_runs hn hsy, ?_⟩
      by_cases he : linkEnabled s n = true
      · have hen : linkEnabled (sheetError 16 8 (setSync n false (advance t s))) n = true := by
          rw [← he]
          exact (congrArg (fun p : Sheet => p.ctl.getLsbD n) hsp :)
        have hns : linkInSync (sheetError 16 8 (setSync n false (advance t s))) n = false := by
          refine (hall n hn).trans ?_
          simp
        obtain ⟨h1, h2, h3, h4, h5, h6⟩ := sheetDown_parts hn hen hns
        rw [if_pos he]
        refine ⟨fun j hj => (congrArg (fun v : BitVec 24 => v.getLsbD j) h1).trans (hall j hj),
          fun h => absurd he (by rw [h]; decide), fun _ => ⟨h4, h5.trans ?_, h3, ?_, fun k1 k2 => h6 ?_ ?_⟩⟩
        · rw [← hgl]; rfl
        · rw [h2, sheetError_losses, herr]
        · rw [← hgl] at k1; exact k1
        · rw [← hgl] at k2; exact k2
      · rw [if_neg he]
        exact ⟨hall, fun _ => ⟨hgl, herr⟩, fun h => absurd h he⟩
  · intro x v
    have hsp : (advance t s).sp = s.sp := sp_advance
    have hv : encOf (advance t s) enc.toNat = v := encOf_advance _
    refine ⟨fun h1 h2 => ?_, fun h1 h2 => ?_, fun h => ⟨if_pos ?_, congrArg Host.Outcome.next (if_neg ?_)⟩⟩
    · have hf : fetching s = true := by simp [fetching, h1, h2]
      obtain ⟨u, hu, hus, hm⟩ := encoderEdge_parts (t := t) (enc := enc) (a := a) (b := b) hf
      refine ⟨u, hu, ?_⟩
      intro w
      have hw : ∀ y, encOf u y = encOf (encMove enc.toNat a b (advance t s)) y := fun y => encOf_congr (by rw [hus]) y
      obtain ⟨l1, l2, l3⟩ := encMove_lines enc.toNat a b (advance t s)
      have hwx : w = encOf (encMove enc.toNat a b (advance t s)) enc.toNat := hw _
      refine ⟨by rw [hwx, l1], by rw [hwx, l2], fun y hy => by rw [hw, l3 y hy, encOf_advance],
        fun h => by rw [hm, h]; rfl, fun h => by rw [hm, h]; rfl, fun h => ?_, fun h => ?_, fun h => ?_⟩
      · rw [encMove_still (by rw [hv]; exact h.1) (by rw [hv]; exact h.2)] at hwx hus
        rw [hwx, hus, hsp]
        exact ⟨hv, rfl⟩
      · obtain ⟨k1, k2, -⟩ := encMove_both (s := advance t s) (by rw [hv]; exact h.1) (by rw [hv]; exact h.2)
        rw [hwx, k2, hus, k1, hv, hsp]
        exact ⟨rfl, (bits_bump16_high _).1⟩
      · obtain ⟨k1, -, -, k4, k5, -⟩ := encMove_one (s := advance t s) (x := enc.toNat) (a := a) (b := b) (by rw [hv]; exact h)
        rw [hwx, hus, k1, k5, k4, hv, hsp]
        exact ⟨rfl, rfl, rfl⟩
    · have hf : fetching (advance t s) = true := by rw [fetching_advance]; simp [fetching, h1, h2]
      have hu : exec (.encoderIndex t enc) s = .next (radiiUpdate (encTurn enc.toNat (advance t s))) :=
        congrArg Host.Outcome.next (if_pos hf)
      refine ⟨_, hu, ?_⟩
      have hus : (radiiUpdate (encTurn enc.toNat (advance t s))).sp = (encTurn enc.toNat (advance t s)).sp :=
        (radiiUpdate_frame _).sp_eq
      generalize radiiUpdate (encTurn enc.toNat (advance t s)) = u at hus
      intro w
      have hw : w = encOf (encTurn enc.toNat (advance t s)) enc.toNat := encOf_congr (by rw [hus]) _
      clear_value w
      rw [hus]
      cases hi : v.idx with
      | false =>
        rw [encTurn_first (by rw [hv]; exact hi)] at hw ⊢
        rw [encOf_setEnc] at hw
        rw [hw]
        exact ⟨rfl, fun _ => ⟨rfl, (congrArg Sheet.encErr hsp :)⟩, fun h => absurd h (by decide)⟩
      | true =>
        have hi' : (encOf (advance t s) enc.toNat).idx = true := by rw [hv]; exact hi
        by_cases hr : v.count.toNat % v.cpr.toNat = 0
        · rw [encTurn_whole hi' (by rw [hv]; exact hr)] at hw ⊢
          rw [hw, hv, hsp]
          exact ⟨hi, fun h => absurd h (by decide), fun _ => ⟨fun _ => ⟨rfl, rfl⟩, fun h => absurd hr h⟩⟩
        · obtain ⟨k1, k2⟩ := encTurn_between hi' (by rw [hv]; exact hr)
          obtain ⟨n1, n2⟩ := nearestTurn_parts (advance t s) v
          rw [hw, k2, hv, k1, hsp]
          exact ⟨hi, fun h => absurd h (by decide), fun _ => ⟨fun h => absurd h hr, fun _ => ⟨(bits_bump16_low _).1, n1, n2⟩⟩⟩
    · have : fetching (advance t s) = false := by rw [fetching_advance]; simp [fetching, h]
      rw [this]; rfl
    · have : fetching (advance t s) = false := by rw [fetching_advance]; simp [fetching, h]
      rw [this]; decide

end Sys2Proof.Machine
end

section
/-!
PROOFS. Resume, demand, reef ramps, wrap changes and the read-wait limit (O52).
-/

namespace Sys2Proof.Machine
set_option Elab.async false

/-! ### Passes over a list of keys -/

/-- A pass of which each step brings its own key to a state that the other steps keep. -/
theorem forEach_reaches {α : Type} (P : α → State → Prop) {op : α → State → State} (h : ∀ a x, P a (op a x))
    (k : ∀ a b x, P a x → P a (op b x)) (l : List α) (s : State) : ∀ a ∈ l, P a (forEach l op s) := by
  induction l generalizing s with
  | nil => intro a ha; cases ha
  | cons b r ih =>
    intro a ha
    rw [forEach_cons]
    rcases List.mem_cons.1 ha with rfl | ha
    · exact forEach_holds (P a) r op (fun b x hx => k a b x hx) (h a s)
    · exact ih _ a ha

section
variable {α κ β γ : Type} {key : α → κ} {get : κ → State → β} {inv : State → γ} {op : α → State → State}
  (ho : ∀ k b x, k ≠ key b → get k (op b x) = get k x) (hi : ∀ b x, inv (op b x) = inv x)
include ho

/-- A pass leaves the keys that it does not visit. -/
theorem forEach_misses {l : List α} {k : κ} (hk : ∀ b ∈ l, key b ≠ k) (s : State) : get k (forEach l op s) = get k s := by
  induction l generalizing s with
  | nil => rfl
  | cons b r ih =>
    rw [forEach_cons, ih (fun c hc => hk c (List.mem_cons_of_mem _ hc)), ho _ _ _ (hk b (List.mem_cons_self ..)).symm]

include hi

/-- A pass over distinct keys visits each of them once, with its value still the first one. -/
theorem forEach_visits {l : List α} (hl : (l.map key).Nodup) {a : α} (ha : a ∈ l) (s : State) :
    ∃ x, get (key a) x = get (key a) s ∧ inv x = inv s ∧ get (key a) (forEach l op s) = get (key a) (op a x) := by
  induction l generalizing s with
  | nil => cases ha
  | cons b r ih =>
    rw [List.map_cons] at hl
    obtain ⟨hb, hr⟩ := List.nodup_cons.1 hl
    rw [forEach_cons]
    rcases List.mem_cons.1 ha with rfl | ha
    · exact ⟨s, rfl, rfl, forEach_misses ho (fun c hc e => hb (List.mem_map.2 ⟨c, hc, e⟩)) _⟩
    · obtain ⟨x, h1, h2, h3⟩ := ih hr ha (op b s)
      have hab : key a ≠ key b := fun e => hb (List.mem_map.2 ⟨a, ha, e⟩)
      exact ⟨x, h1.trans (ho _ _ _ hab), h2.trans (hi _ _), h3⟩

end

/-- A pass over distinct numbers visits each of them once. -/
theorem forEach_visits_self {β γ : Type} {get : Nat → State → β} {inv : State → γ} {op : Nat → State → State}
    (ho : ∀ k b x, k ≠ b → get k (op b x) = get k x) (hi : ∀ b x, inv (op b x) = inv x) {l : List Nat} (hl : l.Nodup)
    {k : Nat} (hk : k ∈ l) (s : State) :
    ∃ x, get k x = get k s ∧ inv x = inv s ∧ get k (forEach l op s) = get k (op k x) :=
  forEach_visits (key := fun b : Nat => b) ho hi (by rw [List.map_id']; exact hl) hk s

section
variable {t : Time} {s : State}

theorem sm_advance : (advance t s).sm = s.sm := (advance_frame t s).sm_eq

theorem lanesUp_advance : lanesUp (advance t s) = lanesUp s := by
  unfold lanesUp laneOf
  rw [(advance_frame t s).lk_eq]

theorem partOf_advance (p : Nat) : partOf (advance t s) p = partOf s p := by
  unfold partOf
  rw [(advance_frame t s).vol_eq]

theorem mayResume_advance (p : Nat) : mayResume (advance t s) p = mayResume s p := by
  unfold mayResume
  rw [lanesUp_advance, partOf_advance, sm_advance, (advance_frame t s).wr_eq]

/-! ### Resume and the stop of a read -/

theorem tapeResume_waiting {p : Nat} (hh : s.sm.hitch = .waiting) (hp : s.wr.part = some p) : exec (.tapeResume t) s
    = .next (if mayResume s p then { advance t s with sm := { s.sm with hitch := .none, laneStop := false, reef := s.sm.resumeK } }
      else advance t s) := by
  have e : ∀ sm : Speed, sm = s.sm → ({ advance t s with sm := { sm with hitch := .none, laneStop := false, reef := sm.resumeK } } : State)
      = { advance t s with sm := { s.sm with hitch := .none, laneStop := false, reef := s.sm.resumeK } } := by
    rintro _ rfl
    rfl
  change execTapeResume t s = _
  unfold execTapeResume
  dsimp only
  rw [show (advance t s).sm.hitch = .waiting by rw [sm_advance]; exact hh,
    show (advance t s).wr.part = some p by rw [(advance_frame t s).wr_eq]; exact hp]
  dsimp only
  rw [mayResume_advance, e _ sm_advance]
  repeat' split
  all_goals rfl

theorem tapeResume_idle (h : s.sm.hitch ≠ .waiting ∨ lanesUp s = false) : exec (.tapeResume t) s = .next (advance t s) := by
  change execTapeResume t s = _
  unfold execTapeResume
  dsimp only
  split
  · next p hh hp =>
    have hw : s.sm.hitch = .waiting := by rw [← sm_advance (t := t)]; exact hh
    refine if_neg ?_
    have hl : lanesUp s = false := h.resolve_left (fun k => k hw)
    rw [mayResume_advance]
    unfold mayResume
    rw [hl]
    simp
  · rfl

theorem readBacklog_advance : readBacklog (advance t s) = readBacklog s := by
  unfold readBacklog
  rw [advance_rdr]

theorem cur_advance : (advance t s).gl.cur = s.gl.cur := by rw [(advance_frame t s).gl_eq]

theorem readAheadStop_runs : exec (.readAheadStop t) s = .next
    (if (s.gl.cur = .read ∨ s.gl.cur = .verify) ∧ bits s.sm.resume 16 12 ≤ readBacklog s then
      { advance t s with sm := { s.sm with readStop := true } } else advance t s) := by
  change execReadAheadStop t s = _
  unfold execReadAheadStop
  dsimp only
  rw [cur_advance, sm_advance, readBacklog_advance]
  repeat' split
  all_goals rfl

/-! ### Demand -/

/-- The 1 ms update of one partition (R260). -/
def demandStep (x : Nat × Part) (s : State) : State :=
  let u : Int := packableBytes x.2
  let r : Int := max 0 (u - tabGet 0 s.sm.inMs x.1)
  let d : Int := demandOf s x.1
  let d' := d + (r * 1000 * 2 ^ 20 - d) / 1000
  { s with sm := { s.sm with demand := tabSet 0 s.sm.demand x.1 d'.toNat, inMs := tabSet 0 s.sm.inMs x.1 u } }

/-- Demand and bytes of the last millisecond of a partition. -/
def pace (p : Nat) (s : State) : Nat × Int := (demandOf s p, tabGet 0 s.sm.inMs p)

theorem pace_demandStep (x : Nat × Part) (s : State) :
    let d : Int := demandOf s x.1
    pace x.1 (demandStep x s) = ((d + (max 0 ((packableBytes x.2 : Int) - tabGet 0 s.sm.inMs x.1) * 1000 * 2 ^ 20 - d) / 1000).toNat,
      (packableBytes x.2 : Int)) :=
  Prod.ext (tabGet_tabSet_same ..) (tabGet_tabSet_same ..)

theorem pace_demandStep_other {p : Nat} {x : Nat × Part} (h : p ≠ x.1) (s : State) : pace p (demandStep x s) = pace p s :=
  Prod.ext (tabGet_tabSet_other _ _ _ h) (tabGet_tabSet_other _ _ _ h)

theorem demandUpdate_runs (hf : fetching s = true) (hl : s.vol.loaded = true) :
    exec (.demandUpdate t) s = .next (forEach s.vol.parts demandStep (advance t s)) := by
  have hv : (advance t s).vol = s.vol := (advance_frame t s).vol_eq
  change execDemandUpdate t s = _
  unfold execDemandUpdate
  dsimp only
  rw [fetching_advance, hf, hv, hl]
  rfl

theorem pace_advance (p : Nat) : pace p (advance t s) = pace p s := by
  unfold pace demandOf
  rw [sm_advance]

/-- Each update of the demand: every partition of the volume, and no other. -/
theorem demandUpdate_parts (hf : fetching s = true) (hl : s.vol.loaded = true) (hn : (s.vol.parts.map Prod.fst).Nodup) :
    ∃ u, exec (.demandUpdate t) s = .next u ∧ (∀ p, (∀ x ∈ s.vol.parts, x.1 ≠ p) → demandOf u p = demandOf s p)
      ∧ ∀ x ∈ s.vol.parts, let n : Int := packableBytes x.2; let d : Int := demandOf s x.1
        (demandOf u x.1 : Int) = max 0 (d + (max 0 (n - tabGet 0 s.sm.inMs x.1) * 1000 * 2 ^ 20 - d) / 1000)
        ∧ tabGet 0 u.sm.inMs x.1 = n := by
  have ho : ∀ (k : Nat) (b : Nat × Part) x, k ≠ b.1 → pace k (demandStep b x) = pace k x := fun k b x h => pace_demandStep_other h x
  refine ⟨_, demandUpdate_runs hf hl, fun p hp => ?_, fun x hx => ?_⟩
  · exact congrArg Prod.fst ((forEach_misses ho hp (advance t s)).trans (pace_advance p))
  · intro n d
    obtain ⟨y, h1, -, h3⟩ := forEach_visits (inv := fun _ => ()) ho (fun _ _ => rfl) hn hx (advance t s)
    have h1 := h1.trans (pace_advance x.1)
    have hd : demandOf y x.1 = demandOf s x.1 := congrArg Prod.fst h1
    have hm : tabGet 0 y.sm.inMs x.1 = tabGet 0 s.sm.inMs x.1 := congrArg Prod.snd h1
    have h4 := h3.trans (pace_demandStep x y)
    rw [hd, hm] at h4
    refine ⟨?_, congrArg Prod.snd h4⟩
    rw [show demandOf (forEach s.vol.parts demandStep (advance t s)) x.1 = _ from congrArg Prod.fst h4]
    exact (Int.toNat_eq_max _).trans (Int.max_comm _ _)

/-! ### A wrap change -/

/-- What is counted per wrap starts again for lane and reader `l`. -/
def clearLosses (l : Nat) (s : State) : State :=
  setServoRd l { servoRd s l with lostN := 0 } (setLane l { laneOf s l with losses := 0 } s)

theorem clearLosses_other {j l : Nat} (h : j ≠ l) (s : State) :
    laneOf (clearLosses l s) j = laneOf s j ∧ servoRd (clearLosses l s) j = servoRd s j :=
  ⟨laneOf_setLane_other l _ s h, servoRd_setServoRd_other l _ s h⟩

theorem clearLosses_same (l : Nat) (s : State) : laneOf (clearLosses l s) l = { laneOf s l with losses := 0 }
    ∧ servoRd (clearLosses l s) l = { servoRd s l with lostN := 0 } :=
  ⟨laneOf_setLane l _ s, servoRd_setServoRd l _ _⟩

/-- A lane and the reader of its number. -/
def laneAndReader (l : Nat) (s : State) : Lane × ServoRd := (laneOf s l, servoRd s l)

/-- Every lane and reader behind a pass that clears its losses. -/
theorem clearLosses_all (s : State) {l : Nat} (hl : l < 16) :
    laneOf (forEach (List.range 16) clearLosses s) l = { laneOf s l with losses := 0 }
      ∧ servoRd (forEach (List.range 16) clearLosses s) l = { servoRd s l with lostN := 0 } := by
  obtain ⟨x, h1, -, h3⟩ := forEach_visits_self (get := laneAndReader) (inv := fun _ => ())
    (fun k b x h => Prod.ext (clearLosses_other h x).1 (clearLosses_other h x).2) (fun _ _ => rfl) List.nodup_range
    (List.mem_range.2 hl) s
  obtain ⟨k1, k2⟩ := clearLosses_same l x
  obtain ⟨e1, e2⟩ := Prod.mk.inj h1
  obtain ⟨e3, e4⟩ := Prod.mk.inj h3
  rw [e3, e4, k1, k2, e1, e2]
  exact ⟨rfl, rfl⟩

/-- The set-point of fine slot `k` on wrap `w` (R279). -/
def fineAim (w k : Nat) (s : State) : State :=
  let v := slotOf s k
  if v.regs == slotRegsDefault then s
  else
    let y := i32 (tabGet 0xFFEE0800#32 s.sv.y0 k) + 102400 * w
    setSlot k { v with regs := { v.regs with ramp := { v.regs.ramp with tgt := w32 y } } } s

theorem fineAim_other {j k : Nat} (h : j ≠ k) (w : Nat) (s : State) : slotOf (fineAim w k s) j = slotOf s j := by
  unfold fineAim
  extract_lets v y
  split
  · rfl
  · exact slotOf_setSlot_other k _ s h

theorem fineAim_sv (w k : Nat) (s : State) : (fineAim w k s).sv = s.sv := by
  unfold fineAim
  extract_lets v y
  split <;> rfl

theorem fineAim_tgt {k : Nat} {s : State} (h : (slotOf s k).regs ≠ slotRegsDefault) (w : Nat) :
    (slotOf (fineAim w k s) k).regs.ramp.tgt = w32 (i32 (tabGet 0xFFEE0800#32 s.sv.y0 k) + 102400 * w) := by
  unfold fineAim
  dsimp only
  rw [if_neg (by simpa using h), slotOf_setSlot]

theorem fineTargets_parts (w : Nat) (s : State) :
    (∀ k, k < 8 → (slotOf s k).regs ≠ slotRegsDefault → (slotOf (fineTargets w s) k).regs.ramp.tgt
      = w32 (i32 (tabGet 0xFFEE0800#32 s.sv.y0 k) + 102400 * w)) ∧ ∀ k, 8 ≤ k → slotOf (fineTargets w s) k = slotOf s k := by
  have e : fineTargets w s = forEach (List.range 8) (fineAim w) s := rfl
  have ho : ∀ (k b : Nat) x, k ≠ b → slotOf (fineAim w b x) k = slotOf x k := fun k b x h => fineAim_other h w x
  rw [e]
  refine ⟨fun k hk hr => ?_, fun k hk => forEach_misses (key := fun b : Nat => b) (get := fun k x => slotOf x k) ho (fun b hb h => ?_) s⟩
  · obtain ⟨x, h1, h2, h3⟩ := forEach_visits_self (get := fun k x => slotOf x k) (inv := fun x => x.sv) ho
      (fineAim_sv w) List.nodup_range (List.mem_range.2 hk) s
    have h1 : slotOf x k = slotOf s k := h1
    have h3 : slotOf (forEach (List.range 8) (fineAim w) s) k = slotOf (fineAim w k x) k := h3
    rw [h3, fineAim_tgt (by rw [h1]; exact hr), h2]
  · have := List.mem_range.1 hb
    have : b = k := h
    omega

/-- The read channel behind a wrap change starts anew. -/
def freshReads (s : State) : State :=
  reloadZones { s with rch := { s.rch with fronts := [], votes := [], tuple := [], tupleIn := [], held := [] } }

/-- The wrap is set. -/
def setWrap (w : Nat) (s : State) : State := { s with sv := { s.sv with wrap := w } }

theorem cart_advance : (advance t s).gl.cart = s.gl.cart := by rw [(advance_frame t s).gl_eq]

theorem wrapChange_runs {w : Nat} (hw : w < 24) (hc : s.gl.cart = true) : exec (.wrapChange t w) s
    = .next (fineTargets w (freshReads (forEach (List.range 16) clearLosses (setWrap w (advance t s))))) :=
  if_neg (by rw [cart_advance, hc]; simp; omega)

theorem wrapChange_idle {w : Nat} (h : 24 ≤ w ∨ s.gl.cart = false) : exec (.wrapChange t w) s = .next (advance t s) :=
  if_pos (by rw [cart_advance]; simpa using h)

theorem wrapChange_parts {w : Nat} (hw : w < 24) (hc : s.gl.cart = true) : ∃ u, exec (.wrapChange t w) s = .next u ∧ u.sv.wrap = w
    ∧ (∀ l, l < 16 → (laneOf u l).losses = 0 ∧ (laneOf u l).st = (laneOf s l).st ∧ (servoRd u l).lostN = 0
      ∧ (servoRd u l).st = (servoRd s l).st)
    ∧ u.rch.fronts = [] ∧ u.rch.working = [] ∧ u.rch.sums = []
    ∧ (∀ k, k < 8 → (slotOf s k).regs ≠ slotRegsDefault →
      (slotOf u k).regs.ramp.tgt = w32 (i32 (tabGet 0xFFEE0800#32 s.sv.y0 k) + 102400 * w))
    ∧ ∀ k, 8 ≤ k → slotOf u k = slotOf s k := by
  have hs : ∀ l, laneOf (setWrap w (advance t s)) l = laneOf s l := fun l => by
    unfold laneOf
    rw [show (setWrap w (advance t s)).lk = (advance t s).lk from rfl, (advance_frame t s).lk_eq]
  have hr : ∀ l, servoRd (setWrap w (advance t s)) l = servoRd s l := fun l => by
    unfold servoRd
    rw [show (setWrap w (advance t s)).sv.rds = (advance t s).sv.rds from rfl, (advance_frame t s).sv_eq]
  have hy : (setWrap w (advance t s)).sv.y0 = s.sv.y0 :=
    (congrArg Servo.y0 (advance_frame t s).sv_eq :)
  have hce : (setWrap w (advance t s)).ce = s.ce := (advance_frame t s).ce_eq
  have hall := fun l => clearLosses_all (setWrap w (advance t s)) (l := l)
  obtain ⟨y, ey⟩ : ∃ y, y = forEach (List.range 16) clearLosses (setWrap w (advance t s)) := ⟨_, rfl⟩
  have hk : y.ce = s.ce ∧ y.sv.y0 = s.sv.y0 ∧ y.sv.wrap = w := by
    have k1 := forEach_keeps (fun x => (x.ce, x.sv.y0, x.sv.wrap)) (List.range 16) clearLosses (fun _ _ => rfl)
      (setWrap w (advance t s))
    rw [← ey] at k1
    exact ⟨(congrArg Prod.fst k1).trans hce, (congrArg (fun p => p.2.1) k1).trans hy, (congrArg (fun p => p.2.2) k1)⟩
  rw [← ey] at hall
  obtain ⟨hkce, hky, hkw⟩ := hk
  have hsl : ∀ k, slotOf (freshReads y) k = slotOf s k := fun k => slotOf_of_ce hkce k
  obtain ⟨f1, f2⟩ := fineTargets_parts w (freshReads y)
  have f := fineTargets_frame w (freshReads y)
  refine ⟨_, wrapChange_runs hw hc, ?_⟩
  rw [← ey]
  refine ⟨by rw [f.sv_eq]; exact hkw, fun l hl => ?_, by rw [f.rch_eq]; rfl, by rw [f.rch_eq]; rfl, by rw [f.rch_eq]; rfl,
    fun k hk hd => ?_, fun k hk => (f2 k hk).trans (hsl k)⟩
  · obtain ⟨a1, a2⟩ := hall l hl
    have b1 : laneOf (fineTargets w (freshReads y)) l = laneOf y l := congrArg (fun p : Shroud => tabGet laneDefault p.lanes l) f.lk_eq
    have b2 : servoRd (fineTargets w (freshReads y)) l = servoRd y l := congrArg (fun p : Servo => tabGet servoRdDefault p.rds l) f.sv_eq
    rw [b1, b2, a1, a2, hs, hr]
    exact ⟨rfl, rfl, rfl, rfl⟩
  · rw [f1 k hk (by rw [hsl]; exact hd), show (freshReads y).sv.y0 = s.sv.y0 from hky]

/-! ### The read-wait limit -/

/-- The reads on the path under way go back to the queue, from instant `tb` on. -/
def waitAgain (tb : Time) (c : InFlight) : InFlight :=
  if c.stage = .chosen ∧ [0x02, 0x03].contains (eOpcode c.entry) then { c with stage := .queued, mark := tb } else c

theorem waitAgain_ref (tb : Time) (c : InFlight) : (waitAgain tb c).ref = c.ref := by
  unfold waitAgain
  split <;> rfl

theorem find_map_ref {f : InFlight → InFlight} (hf : ∀ c, (f c).ref = c.ref) {l : List InFlight} {r : CmdRef} {c : InFlight}
    (h : (l.find? fun c => c.ref == r) = some c) : ((l.map f).find? fun c => c.ref == r) = some (f c) := by
  rw [List.find?_map, show (fun c : InFlight => c.ref == r) ∘ f = fun c => c.ref == r from funext fun c => by simp [hf], h]
  rfl

theorem writeDue_advance : writeDue (advance t s) = writeDue s := by
  have h : ∀ p v, needsTape (advance t s) p v = needsTape s p v := fun p v => by
    unfold needsTape
    rw [sm_advance, (advance_frame t s).wr_eq]
  unfold writeDue
  simp only [h]
  rw [(advance_frame t s).vol_eq, (advance_frame t s).wr_eq]

theorem anySession_advance : anySession (advance t s) = anySession s := by
  unfold anySession
  rw [(advance_frame t s).vol_eq]

theorem readWait_reads (h : s.gl.cur = .read ∨ s.gl.cur = .verify) (hw : writeDue s = true) :
    ∃ u, exec (.readWaitExpiry t) s = .next u ∧ ∀ ref c, findCmd s ref = some c → findCmd u ref =
      some (if c.stage = .chosen ∧ (eOpcode c.entry = 2 ∨ eOpcode c.entry = 3) then { c with stage := .queued, mark := (advance t s).tb }
        else c) := by
  refine ⟨_, if_pos ⟨by rw [cur_advance]; exact h, by rw [writeDue_advance]; exact hw⟩, fun ref c hc => ?_⟩
  have hl : (advance t s).hq.inflight = s.hq.inflight := by rw [(advance_frame t s).hq_eq]
  have hc' : ((advance t s).hq.inflight.find? fun c => c.ref == ref) = some c := by rw [hl]; exact hc
  have k := find_map_ref (waitAgain_ref (advance t s).tb) hc'
  refine k.trans (congrArg some ?_)
  unfold waitAgain
  simp only [List.contains_cons, List.contains_nil, Bool.or_false, Bool.or_eq_true, beq_iff_eq]

/-- The sessions of all partitions have ended. -/
theorem endSessions_none (s : State) : ∀ x ∈ s.vol.parts, (partOf (endSessions s) x.1).session = none := by
  intro x hx
  have k := forEach_reaches (fun p y => (partOf y p).session = none) (op := endSession) (fun p y => (endSession_parts p y).1)
    (fun p b y hy => ?_) (s.vol.parts.map Prod.fst) s x.1 (List.mem_map_of_mem hx)
  · exact k
  · by_cases h : p = b
    · subst h
      exact (endSession_parts p y).1
    · rw [← hy]
      unfold endSession
      extract_lets v
      split
      · rfl
      · rw [partOf_setPart_other _ _ _ h]

theorem readWait_writes (h1 : s.gl.cur ≠ .read) (h2 : s.gl.cur ≠ .verify) :
    exec (.readWaitExpiry t) s = .next (if readOverdue (advance t s) && anySession s then stopWriting (advance t s) else advance t s) := by
  have e : exec (.readWaitExpiry t) s = if (readOverdue (advance t s) && anySession (advance t s)) = true then
      Host.Outcome.next (stopWriting (advance t s)) else .next (advance t s) := if_neg (by
    rw [cur_advance]
    rintro ⟨h | h, -⟩
    · exact h1 h
    · exact h2 h)
  rw [e, anySession_advance]
  repeat' split
  all_goals rfl

end

/-- Settles O52: the tape resumes and stops by its backlog, demand follows the last millisecond, a wrap change starts
anew what is counted per wrap, and the read-wait limit gives way to the side that has waited. -/
theorem tapePacing : Obligations.TapePacing := by
  unfold Obligations.TapePacing
  intro t s a
  have ha : a.sm = s.sm := sm_advance
  refine ⟨fun p hh hp hl => ⟨fun h => ?_, fun h1 h2 h3 h4 h5 h6 => ?_⟩, tapeResume_idle, fun h => ⟨fun hb => ?_, fun hb => ?_⟩,
    fun h1 h2 => ?_, fun h1 h2 hl hn => ?_, ?_, fun w hw hc => wrapChange_parts hw hc, fun w h => wrapChange_idle h,
    readWait_reads, fun h1 h2 => ⟨fun ho hs => ?_, fun h => ?_⟩⟩
  · rw [tapeResume_waiting hh hp, if_pos]
    simp only [mayResume, hl, Bool.true_and, Bool.or_eq_true, decide_eq_true_eq, Bool.not_eq_true', List.isEmpty_eq_false_iff]
    simpa only [or_assoc] using h
  · rw [tapeResume_waiting hh hp, if_neg]
    simp [mayResume, h1, h2, h3, h4, h5, h6]
  · rw [readAheadStop_runs, if_pos ⟨h, hb⟩]
  · rw [readAheadStop_runs, if_neg (fun k => Nat.not_le.2 hb k.2)]
  · rw [readAheadStop_runs, if_neg (fun k => k.1.elim h1 h2)]
  · exact demandUpdate_parts (by simp [fetching, h1, h2]) hl hn
  · rw [← ha]
    rfl
  · refine ⟨stopWriting a, (readWait_writes h1 h2).trans (congrArg _ (if_pos ?_)), fun x hx => ?_, ?_, ?_⟩
    · rw [hs, Bool.and_true]
      exact ho
    · have hv : a.vol = s.vol := (advance_frame t s).vol_eq
      exact endSessions_none a x (by rw [hv]; exact hx)
    · have hw : (endSessions a).wr = s.wr := (endSessions_frame a).wr_eq.trans (advance_frame t s).wr_eq
      exact congrArg (fun w : Writer => w.part.isSome) hw
    · rw [(stopWriting_frame a).hq_eq]
      exact (advance_frame t s).hq_eq
  · rw [readWait_writes h1 h2, if_neg]
    rcases h with h | h
    · rw [show readOverdue (advance t s) = false from h, Bool.false_and]; decide
    · rw [h, Bool.and_false]; decide

end Sys2Proof.Machine
end

section
/-!
PROOFS. Rows, separators and the start of a write (O51).
-/

namespace Sys2Proof.Machine
set_option Elab.async false

/-! ### Rows -/

theorem sendRow_parts (b : Block) (fs : List RowFrame) (s : State) :
    let u := sendRow b fs s
    u.out = .row b.set.part b.set.dsn b.rows (fs.map (rowFrameBits b b.rows)) :: s.out
      ∧ u.wr.block = some { b with rows := b.rows + 1, sep := false } ∧ u.wr.queue = s.wr.queue ∧ u.wr.sets = s.wr.sets
      ∧ u.wr.copies.length = s.wr.copies.length + fs.length ∧ u.fm = s.fm := by
  refine ⟨rfl, rfl, rfl, rfl, ?_, rfl⟩
  unfold sendRow
  simp only [List.length_append, List.length_map, List.length_zipIdx]
  rfl

/-- With nothing to fail, no attempt fails. -/
theorem attemptsFail_none (s : State) : attemptsFail [] s = s := by
  have h : (s.wr.sets.filter fun r => List.contains ([] : List Nat) r.set.dsn && !r.failed) = [] :=
    List.filter_eq_nil_iff.2 (by simp)
  have hb : bits s.fm.wset 0 16 < 65536 := Nat.mod_lt _ (by decide)
  have hw : putBits s.fm.wset 0 16 (min 65535 (bits s.fm.wset 0 16 + 0)) = s.fm.wset := by
    rw [Nat.add_zero, Nat.min_eq_right (by omega), putBits_bits]
  unfold attemptsFail
  rw [h]
  dsimp only [List.filter_nil, List.length_nil, forEach_nil, List.map_nil]
  rw [hw]
  rfl

section
variable {t : Time} {s : State} {p : Nat}

/-- The queued codewords of which none can be placed any more, where the queue holds none or one that still can. -/
theorem unplaceable_none {b : Block} (hs : b.sep = false) (h : ∀ q ∈ s.wr.queue, b.set.dsn ≤ q.dsn + 7) : unplaceable s b = [] := by
  have e : (s.wr.queue.filter fun q => decide (q.dsn + 7 < b.set.dsn) || (b.sep && decide (q.dsn + 7 ≤ b.set.dsn))) = [] :=
    List.filter_eq_nil_iff.2 fun q hq => by
      have := h q hq
      rw [hs]
      simp
      omega
  unfold unplaceable
  rw [e]
  rfl

theorem overRewritten_none {b : Block} (h : (s.wr.queue.filter (eligible s b)).length ≤ 1) (hr : ∀ r ∈ s.wr.sets, r.rewrites < 248) :
    overRewritten s b = [] := by
  unfold overRewritten
  rw [List.map_eq_nil_iff, List.filter_eq_nil_iff]
  intro r hm
  have h1 := hr r hm
  have h2 := List.length_filter_le (fun x : Rewrite => x.dsn == r.set.dsn) (s.wr.queue.filter (eligible s b))
  simp only [Bool.and_eq_true, decide_eq_true_eq, not_and]
  omega

theorem overRewritten_empty {b : Block} (h : s.wr.queue = []) : overRewritten s b = [] := by
  unfold overRewritten
  rw [h]
  simp

/-! ### The separator behind a block -/

/-- A block that is closed by its separator. -/
def closeBlock (p : Nat) (b : Block) (s : State) : State :=
  let s := emit (.separator p b.set.dsn) s
  { s with wr := { s.wr with
    block := some { b with sep := true }, pos := b.at_ + b.rows * rowLen + sepLen
    rows256 := ((b.rows - 8, b.rows) :: s.wr.rows256).take 256 } }

/-- Whether a data set of the burst waits to be written. -/
theorem takeNext_isSome (p : Nat) (s : State) : (takeNext p s).isSome =
    if (s.wr.again.find? fun x => x.2.part == p).isSome then true
    else if s.wr.images.isEmpty then !(nextSets p (spanParity s) (partOf s p)).1.isEmpty
    else decide ((s.wr.images.map fun d => d.part).head? = some p) := by
  unfold takeNext
  cases s.wr.again.find? fun x => x.2.part == p with
  | some x => rfl
  | none =>
    cases s.wr.images with
    | cons d r =>
      by_cases h : d.part = p <;> simp [h]
    | nil =>
      generalize nextSets p (spanParity s) (partOf s p) = n
      obtain ⟨l, v⟩ := n
      cases l <;> rfl

theorem goesOn_closeBlock {b : Block} (hb : s.wr.block = some b) : goesOn (closeBlock p b s) p = goesOn s p := by
  have h1 : afterEod (closeBlock p b s) p = afterEod s p := by
    unfold afterEod
    rw [hb]
    rfl
  have h2 : (takeNext p (closeBlock p b s)).isSome = (takeNext p s).isSome := by
    rw [takeNext_isSome, takeNext_isSome]
    rfl
  unfold goesOn
  rw [h1, h2]
  rfl

theorem separatorRow_goes {b : Block} (hb : s.wr.block = some b) (h : goesOn s p = true) : separatorRow p b s = closeBlock p b s := by
  have e : separatorRow p b s = if (goesOn (closeBlock p b s) p || unresolved (closeBlock p b s)) = true then closeBlock p b s
    else burstEnds p (closeBlock p b s) := rfl
  rw [e, goesOn_closeBlock hb, h]
  exact if_pos rfl

/-- A dispatch point in WRITE with a partition to write. -/
theorem rowDispatch_runs (hp : s.wr.part = some p) (hc : s.gl.cur = .write) (hh : s.sm.hitch = .none) :
    exec (.rowDispatch t) s = .next (match s.wr.block with
      | none => rowZero p (advance t s)
      | some b => if b.rows < 8 then nominalRow b (advance t s) else
        let y := attemptsFail (unplaceable (advance t s) b) (advance t s)
        if b.sep then rowZero p y else afterRows p b y) := by
  have hw : (advance t s).wr = s.wr := (advance_frame t s).wr_eq
  change execRowDispatch t s = _
  unfold execRowDispatch
  dsimp only
  rw [hw, hp]
  dsimp only
  rw [if_neg (by rw [cur_advance, sm_advance, hc, hh]; simp)]
  cases s.wr.block with
  | none => rfl
  | some b =>
    dsimp only
    repeat' split
    all_goals rfl

theorem rowDispatch_idle (h : s.wr.part = none ∨ s.gl.cur ≠ .write ∨ s.sm.hitch ≠ .none) :
    exec (.rowDispatch t) s = .next (advance t s) := by
  have hw : (advance t s).wr = s.wr := (advance_frame t s).wr_eq
  change execRowDispatch t s = _
  unfold execRowDispatch
  dsimp only
  rw [hw, cur_advance, sm_advance]
  split
  · rfl
  · next p hp =>
    refine if_pos (h.resolve_left ?_)
    rw [hp]
    simp

theorem rowDispatch_nominal {b : Block} (hp : s.wr.part = some p) (hc : s.gl.cur = .write) (hh : s.sm.hitch = .none)
    (hb : s.wr.block = some b) (hr : b.rows < 8) : ∃ u, exec (.rowDispatch t) s = .next u
      ∧ u.out = .row b.set.part b.set.dsn b.rows ((List.range 992).map fun k =>
          rowFrameBits b b.rows { track := k, set := b.set, attempt := b.attempt, cw := 992 * b.rows + k }) :: s.out
      ∧ u.wr.block = some { b with rows := b.rows + 1, sep := false } ∧ u.wr.queue = s.wr.queue ∧ u.wr.sets = s.wr.sets
      ∧ u.wr.copies.length = s.wr.copies.length + 992 := by
  have hw : (advance t s).wr = s.wr := (advance_frame t s).wr_eq
  refine ⟨nominalRow b (advance t s), ?_, ?_⟩
  · rw [rowDispatch_runs hp hc hh, hb]
    exact congrArg _ (if_pos hr)
  · obtain ⟨h1, h2, h3, h4, h5, -⟩ := sendRow_parts b
      ((List.range 992).map fun t => { track := t, set := b.set, attempt := b.attempt, cw := 992 * b.rows + t }) (advance t s)
    rw [hw] at h3 h4 h5
    rw [advance_out, List.map_map] at h1
    rw [List.length_map, List.length_range] at h5
    exact ⟨h1, h2, h3, h4, h5⟩

theorem afterRows_separates {b : Block} (hb : s.wr.block = some b) (hq : s.wr.queue = []) (hg : goesOn s p = true) :
    afterRows p b s = closeBlock p b s := by
  have ho : overRewritten s b = [] := overRewritten_empty hq
  unfold afterRows
  dsimp only
  rw [ho, attemptsFail_none, hq, hg]
  exact (if_neg (by simp)).trans (separatorRow_goes hb hg)

theorem rowDispatch_separates {b : Block} (hp : s.wr.part = some p) (hc : s.gl.cur = .write) (hh : s.sm.hitch = .none)
    (hb : s.wr.block = some b) (hr : 8 ≤ b.rows) (hs : b.sep = false) (hq : s.wr.queue = [])
    (hg : goesOn (advance t s) p = true) : exec (.rowDispatch t) s = .next (closeBlock p b (advance t s)) := by
  have hw : (advance t s).wr = s.wr := (advance_frame t s).wr_eq
  have hu : unplaceable (advance t s) b = [] := unplaceable_none hs (by rw [hw, hq]; intro q h; cases h)
  rw [rowDispatch_runs hp hc hh, hb]
  dsimp only
  rw [if_neg (by omega), hu, attemptsFail_none, hs, if_neg Bool.false_ne_true,
    afterRows_separates (by rw [hw]; exact hb) (by rw [hw]; exact hq) hg]

/-! ### A rewrite row -/

/-- A single queued codeword goes to a free track, and not to the one whose copy failed where another is free. -/
theorem placeRewrites_single (q : Rewrite) {free : List Nat} {t : Nat} (ht : t ∈ free) :
    ∃ k ∈ free, placeRewrites [q] free = [(k, q)] ∧ (t ≠ q.track → k ≠ q.track) := by
  unfold placeRewrites
  cases h : free.find? fun t => t != q.track with
  | some k =>
    have hk : k ≠ q.track := by simpa using List.find?_some h
    exact ⟨k, List.mem_of_find?_eq_some h, rfl, fun _ => hk⟩
  | none =>
    cases free with
    | nil => cases ht
    | cons a r =>
      refine ⟨a, List.mem_cons_self .., rfl, fun hne => ?_⟩
      have := List.find?_eq_none.1 h t ht
      exact absurd (by simpa using this) hne

/-- The frame of track `t` in a rewrite row. -/
def rewriteFrame (b : Block) (put : List (Nat × Rewrite)) (s : State) (t : Nat) : RowFrame :=
  match put.find? fun x => x.1 == t with
  | some (_, q) =>
    (match runOf s q.dsn with
     | some r => { track := t, set := r.set, attempt := r.attempt, cw := q.cw }
     | none => { track := t, set := b.set, attempt := b.attempt, cw := fillerCw })
  | none => { track := t, set := b.set, attempt := b.attempt, cw := fillerCw }

/-- The tracks that rewrites do not avoid. -/
def freeTracks (s : State) : List Nat := (List.range 992).filter fun t => !trackAvoided s t

theorem rewriteRow_eq (b : Block) (s : State) : rewriteRow b s =
    let put := placeRewrites (s.wr.queue.filter (eligible s b)) (freeTracks s)
    let taken := put.map fun x => x.2
    let y := sendRow b ((List.range 992).map (rewriteFrame b put s)) s
    { y with
      wr := { y.wr with
        queue := y.wr.queue.filter fun q => !taken.contains q
        sets := y.wr.sets.map fun r => { r with rewrites := r.rewrites + (taken.filter fun q => q.dsn == r.set.dsn).length } }
      fm := { y.fm with rewrites := satAdd y.fm.rewrites taken.length } } := rfl

theorem rewriteRow_single {b : Block} {q : Rewrite} {track : Nat} (hq : s.wr.queue = [q]) (he : eligible s b q = true)
    (ht : track < 992) (ha : trackAvoided s track = false) : ∃ frames r k,
      let u := rewriteRow b s
      u.out = .row b.set.part b.set.dsn b.rows frames :: s.out ∧ frames.length = 992 ∧ runOf s q.dsn = some r
      ∧ rowFrameBits b b.rows { track := k, set := r.set, attempt := r.attempt, cw := q.cw } ∈ frames
      ∧ k < 992 ∧ trackAvoided s k = false ∧ (track ≠ q.track → k ≠ q.track)
      ∧ u.wr.queue = [] ∧ u.wr.block = some { b with rows := b.rows + 1, sep := false } ∧ u.fm.rewrites = satAdd s.fm.rewrites 1 := by
  have hf : s.wr.queue.filter (eligible s b) = [q] := by rw [hq]; simp [he]
  obtain ⟨r, hr⟩ : ∃ r, runOf s q.dsn = some r := by
    cases h : runOf s q.dsn with
    | some r => exact ⟨r, rfl⟩
    | none =>
      unfold eligible at he
      rw [h] at he
      simp at he
  obtain ⟨k, hk, hput, hne⟩ := placeRewrites_single q (free := freeTracks s) (t := track)
    (List.mem_filter.2 ⟨List.mem_range.2 ht, by simp [ha]⟩)
  obtain ⟨hk1, hk2⟩ := List.mem_filter.1 hk
  have hfr : rewriteFrame b [(k, q)] s k = { track := k, set := r.set, attempt := r.attempt, cw := q.cw } := by
    unfold rewriteFrame
    rw [List.find?_cons_of_pos (by simp)]
    dsimp only
    rw [hr]
  obtain ⟨h1, h2, h3, h4, h5, h6⟩ := sendRow_parts b ((List.range 992).map (rewriteFrame b [(k, q)] s)) s
  refine ⟨((List.range 992).map (rewriteFrame b [(k, q)] s)).map (rowFrameBits b b.rows), r, k, ?_⟩
  rw [rewriteRow_eq, hf, hput]
  dsimp only [List.map_cons, List.map_nil, List.length_cons, List.length_nil]
  rw [h3, h6, hq]
  refine ⟨h1, by simp, hr, ?_, List.mem_range.1 hk1, by simpa using hk2, hne, by simp, h2, rfl⟩
  refine List.mem_map.2 ⟨_, List.mem_map.2 ⟨k, hk1, rfl⟩, ?_⟩
  rw [hfr]

theorem afterRows_rewrites {b : Block} {q : Rewrite} (hq : s.wr.queue = [q]) (he : eligible s b q = true) (hr : b.rows < 64)
    (hw : ∀ r ∈ s.wr.sets, r.rewrites < 248) (hf : rowFits s b = true) : afterRows p b s = rewriteRow b s := by
  have ho : overRewritten s b = [] := overRewritten_none (by rw [hq]; exact List.length_filter_le _ _) hw
  unfold afterRows
  dsimp only
  rw [ho, attemptsFail_none, if_pos (by rw [hq]; simp [he]), if_pos (by simp [hr, hf])]

theorem rowDispatch_rewrites {b : Block} {q : Rewrite} (hp : s.wr.part = some p) (hc : s.gl.cur = .write)
    (hh : s.sm.hitch = .none) (hb : s.wr.block = some b) (hr : 8 ≤ b.rows) (hr' : b.rows < 64) (hs : b.sep = false)
    (hq : s.wr.queue = [q]) (he : eligible (advance t s) b q = true) (hw : ∀ r ∈ s.wr.sets, r.rewrites < 248)
    (hf : rowFits s b = true) : exec (.rowDispatch t) s = .next (rewriteRow b (advance t s)) := by
  have hwr : (advance t s).wr = s.wr := (advance_frame t s).wr_eq
  have hfit : rowFits (advance t s) b = true := by
    unfold rowFits
    rw [partOf_advance]
    exact hf
  have hlast : b.set.dsn ≤ q.dsn + 7 := by
    unfold eligible at he
    cases h : runOf (advance t s) q.dsn with
    | none => rw [h] at he; simp at he
    | some r =>
      have hd := List.find?_some h
      rw [h] at he
      simp only [Bool.and_eq_true, decide_eq_true_eq, beq_iff_eq] at he hd
      omega
  have hu : unplaceable (advance t s) b = [] := unplaceable_none hs (by
    rw [hwr, hq]
    intro x hx
    rw [List.mem_singleton.1 hx]
    exact hlast)
  rw [rowDispatch_runs hp hc hh, hb]
  dsimp only
  rw [if_neg (by omega), hu, attemptsFail_none, hs, if_neg Bool.false_ne_true,
    afterRows_rewrites (by rw [hwr]; exact hq) he hr' (by rw [hwr]; exact hw) hfit]

theorem trackAvoided_advance (k : Nat) : trackAvoided (advance t s) k = trackAvoided s k :=
  read_advance (fun x => trackAvoided x k) (fun _ _ => rfl) t s

/-! ### Row 0 of the next set -/

/-- The state in which the next set's block begins: the ramp has the backlog, and the separator is out. -/
def beginsBlock (p : Nat) (d : DataSet) (b : Int) (s : State) : State := emit (.separator p d.dsn) (paceWrite b s)

theorem beginSet_fresh {d : DataSet} {a x pos : Nat} {b : Int} (hb : s.wr.block = none) :
    ∃ blk z, beginSet p d a x pos b s = nominalRow blk z ∧ z.out = (beginsBlock p d b s).out
      ∧ blk.set = d ∧ blk.attempt = a ∧ blk.rows = 0 ∧ blk.sep = false := by
  have hn : (paceWrite b s).wr.block.isNone = true := by
    rw [(paceWrite_frame b s).wr_eq, hb]
    rfl
  refine ⟨_, _, rfl, ?_, rfl, rfl, rfl, rfl⟩
  dsimp only
  rw [hn, Bool.true_or]
  rfl

theorem takeNext_block {d : DataSet} {a : Nat} {s1 : State} (h : takeNext p s = some (d, a, s1)) :
    s1.wr.block = s.wr.block ∧ s1.out = s.out := by
  unfold takeNext at h
  split at h
  · cases h
    exact ⟨rfl, rfl⟩
  · split at h
    · split at h
      · cases h
        exact ⟨rfl, rfl⟩
      · cases h
    · split at h
      · cases h
      · cases h
        exact ⟨rfl, rfl⟩

theorem latchMap_block (s : State) : (latchMap s).wr.block = s.wr.block := by
  unfold latchMap
  refine forEach_keeps (fun z => z.wr.block) _ _ (fun k z => ?_) s
  dsimp only
  split
  · rfl
  · exact (congrArg Writer.block (setUnitState_frame ..).wr_eq :)

theorem rowDispatch_begins {d : DataSet} {a : Nat} {s1 : State} {x : Nat} (hp : s.wr.part = some p) (hc : s.gl.cur = .write)
    (hh : s.sm.hitch = .none) (hb : s.wr.block = none) (hl : lanesUp s = true) (ht : takeNext p (advance t s) = some (d, a, s1))
    (hx : beginAt (partOf s p) 25 (partOf s p).at_ = some x) :
    exec (.rowDispatch t) s
      = .next (beginSet p d a x (partOf s p).at_ (backlog (partOf s p)) (latchMap s1)) := by
  have hw : (advance t s).wr = s.wr := (advance_frame t s).wr_eq
  have hg : goesOn (advance t s) p = true := by
    unfold goesOn afterEod
    rw [lanesUp_advance, hl, ht, hw, hb]
    rfl
  rw [rowDispatch_runs hp hc hh, hb]
  dsimp only
  unfold rowZero
  rw [if_neg (by simp [hg]), ht]
  unfold rowTaken
  dsimp only
  rw [hw, hb, partOf_advance]
  change Host.Outcome.next (placeSet p d a (beginAt (partOf s p) 25 (partOf s p).at_) (partOf s p).at_ _ s1) = _
  rw [hx]
  rfl

/-- Behind a separator of its own, row 0 of the next set (R189, R216). -/
theorem rowDispatch_first {d : DataSet} {a : Nat} {s1 : State} {x : Nat} (hp : s.wr.part = some p) (hc : s.gl.cur = .write)
    (hh : s.sm.hitch = .none) (hb : s.wr.block = none) (hl : lanesUp s = true) (ht : takeNext p (advance t s) = some (d, a, s1))
    (hx : beginAt (partOf s p) 25 (partOf s p).at_ = some x) :
    ∃ u frames b, exec (.rowDispatch t) s = .next u ∧ Sent s u (.separator p d.dsn) ∧ Sent s u (.row d.part d.dsn 0 frames)
      ∧ frames.length = 992 ∧ u.wr.block = some b ∧ b.set = d ∧ b.attempt = a ∧ b.rows = 1 ∧ b.sep = false := by
  obtain ⟨k1, k2⟩ := takeNext_block ht
  have hb1 : (latchMap s1).wr.block = none := by
    rw [latchMap_block, k1, (advance_frame t s).wr_eq, hb]
  obtain ⟨blk, z, e, hz, h1, h2, h3, h4⟩ := beginSet_fresh (p := p) (d := d) (a := a) (x := x) (pos := (partOf s p).at_)
    (b := backlog (partOf s p)) hb1
  obtain ⟨fs, hfs, hlen⟩ : ∃ fs : List RowFrame, nominalRow blk z = sendRow blk fs z ∧ fs.length = 992 :=
    ⟨_, rfl, by rw [List.length_map, List.length_range]⟩
  obtain ⟨o1, o2, -, -, -, -⟩ := sendRow_parts blk fs z
  obtain ⟨l, hlm⟩ : s1.out <:+ (latchMap s1).out := (latchMap_frame s1).out
  have hout : z.out = .separator p d.dsn :: (l ++ s.out) := by
    rw [hz, show (beginsBlock p d (backlog (partOf s p)) (latchMap s1)).out
      = .separator p d.dsn :: (paceWrite (backlog (partOf s p)) (latchMap s1)).out from rfl, (paceWrite_frame ..).out_eq, ← hlm,
      k2, advance_out]
  rw [hout, h1, h3] at o1
  rw [hfs] at e
  exact ⟨_, _, _, (rowDispatch_begins hp hc hh hb hl ht hx).trans (congrArg _ e),
    ⟨_ :: _ :: l, o1, List.mem_cons_of_mem _ (List.mem_cons_self ..)⟩, ⟨_ :: _ :: l, o1, List.mem_cons_self ..⟩,
    by rw [List.length_map, hlen], o2, h1, h2, by rw [h3], rfl⟩

/-! ### The start of a write -/

/-- k₀ is the smallest reef point up to REEF_MAX that carries the demand (R261). -/
theorem reefFor_parts (s : State) (d q : Nat) : reefFor s d q ≤ reefMax s
    ∧ (∀ k, k < reefFor s d q → reefCarries s d q k = false)
    ∧ (reefFor s d q < reefMax s → reefCarries s d q (reefFor s d q) = true) := by
  unfold reefFor
  cases h : (List.range (reefMax s + 1)).find? (reefCarries s d q) with
  | none =>
    refine ⟨Nat.le_refl _, fun k hk => ?_, fun h => absurd h (Nat.lt_irrefl _)⟩
    exact Bool.eq_false_iff.2 (List.find?_eq_none.1 h k (List.mem_range.2 (Nat.lt_succ_of_lt hk)))
  | some n =>
    have hn := List.mem_range.1 (List.mem_of_find?_eq_some h)
    refine ⟨Nat.le_of_lt_succ hn, fun k hk => ?_, fun _ => List.find?_some h⟩
    obtain ⟨-, i, hi, he, hall⟩ := List.find?_eq_some_iff_getElem.1 h
    rw [List.getElem_range] at he
    subst he
    have := hall k hk
    rw [List.getElem_range] at this
    simpa using this

/-- The write of partition `p` has the tape (R23, R261). -/
def writeBegins (p : Nat) (v : Part) (s : State) : State :=
  { s with
    wr := { s.wr with part := some p, block := none, ending := v.session.isNone, ord := 0 }
    sm := { s.sm with reef := reefFor s (demandOf s p) (parityOf s v), trim := 0, readSide := false, hitch := .none } }

/-- The head is under way to the append point. -/
def locateTo (x : Nat) (s : State) : State := { s with rdr := { s.rdr with locate := some (x, 0) } }

theorem headAt_writeBegins (p : Nat) (v : Part) (s : State) (x : Nat) : headAt (writeBegins p v s) x = headAt s x := rfl

section
variable {hk : HkWrite} (hm : s.gl.cur ≠ .reset) (hm' : s.gl.cur ≠ .fill) (hh : s.gl.cur ≠ .hold)
  (hi : s.gl.cur = .idle → s.gl.moving = false) (hp : s.wr.part = none) (hf : freeToWrite s = true) (hc : calReq s = false)
  (hl : serviceLasts s = false) (hn : writeNext (advance t s) = some p)
include hm hm' hh hi hp hf hc hl hn

theorem writeSessionStart_choice {o : Host.Outcome State Fault Refusal}
    (h : (if !diesRun (advance t s) then Host.Outcome.next (wakeDies (advance t s)) else
      let v := partOf (advance t s) p
      let r := coverSession (if (advance t s).wr.images.isEmpty then packSession v else 0) hk (advance t s)
      if !r.1 then .next (failStream p r.2)
      else
        if headAt (writeBegins p v r.2) v.at_ then .next (setMode .write (writeBegins p v r.2))
        else .next (setMode .locate (locateTo v.at_ (writeBegins p v r.2)))) = o) :
    exec (.writeSessionStart t hk) s = o := by
  have h1 : (!fetching (advance t s) || decide ((advance t s).gl.cur = .hold) || (advance t s).wr.part.isSome || !freeToWrite (advance t s)
      || calReq (advance t s) || (decide ((advance t s).gl.cur = .idle) && (advance t s).gl.moving) || serviceLasts (advance t s)) = false := by
    have e := read_advance (fun x => !fetching x || decide (x.gl.cur = .hold) || x.wr.part.isSome || !freeToWrite x
      || calReq x || (decide (x.gl.cur = .idle) && x.gl.moving) || serviceLasts x) (fun _ _ => rfl) t s
    rw [e, hp, hf, hc, hl]
    have hfet : fetching s = true := by simp [fetching, hm, hm']
    rw [hfet]
    by_cases hid : s.gl.cur = .idle
    · simp [hh, hi hid]
    · simp [hh, hid]
  change execWriteSessionStart t hk s = o
  rw [← h]
  unfold execWriteSessionStart
  dsimp only
  rw [if_neg (by rw [h1]; decide), hn]
  all_goals rfl

theorem writeSessionStart_wakes (hd : diesRun s = false) : exec (.writeSessionStart t hk) s = .next (wakeDies (advance t s)) := by
  refine writeSessionStart_choice hm hm' hh hi hp hf hc hl hn (if_pos ?_)
  rw [read_advance diesRun (fun _ _ => rfl) t s, hd]
  rfl

theorem writeSessionStart_begins (hd : diesRun s = true)
    (hv : (if s.wr.images.isEmpty then packSession (partOf s p) else 0) ≤ s.vol.hwm) :
    exec (.writeSessionStart t hk) s = .next
      (if headAt (advance t s) (partOf s p).at_ then setMode .write (writeBegins p (partOf s p) (advance t s))
      else setMode .locate (locateTo (partOf s p).at_ (writeBegins p (partOf s p) (advance t s)))) := by
  refine writeSessionStart_choice hm hm' hh hi hp hf hc hl hn ?_
  have hx1 : partOf (advance t s) p = partOf s p := partOf_advance p
  have hx2 : (advance t s).wr = s.wr := (advance_frame t s).wr_eq
  have hx3 : (advance t s).vol = s.vol := (advance_frame t s).vol_eq
  have hx4 : diesRun (advance t s) = true := by rw [read_advance diesRun (fun _ _ => rfl) t s, hd]
  generalize advance t s = x at hx1 hx2 hx3 hx4
  have hcov : coverSession (if x.wr.images.isEmpty then packSession (partOf x p) else 0) hk x = (true, x) := by
    unfold coverSession
    rw [hx1, hx2, hx3]
    exact if_pos hv
  dsimp only
  rw [hx4, hcov, hx1, headAt_writeBegins]
  cases headAt x (partOf s p).at_ <;> rfl

end

end

/-- What the start of a write leaves, at the head or under way to it. -/
theorem writeBegins_parts (p : Nat) (v : Part) (x : State) (m : Mode) (at_ : Nat) :
    let y := writeBegins p v x
    ∀ u, u = setMode m y ∨ u = setMode m (locateTo at_ y) →
      u.wr.part = some p ∧ u.wr.block = none ∧ u.wr.ord = 0 ∧ u.wr.ending = v.session.isNone ∧ u.sm.trim = 0
        ∧ u.sm.hitch = .none ∧ u.sm.reef = reefFor x (demandOf x p) (parityOf x v) ∧ u.gl.cur = m
        ∧ (u = setMode m (locateTo at_ y) → u.rdr.locate = some (at_, 0)) := by
  intro y u hu
  have h : u.wr = y.wr ∧ u.sm = y.sm ∧ u.gl.cur = m := by
    rcases hu with rfl | rfl
    · obtain ⟨_, _, hg⟩ := setMode_gl_any m y
      exact ⟨(setMode_frame m y).wr_eq, (setMode_frame m y).sm_eq, by rw [hg]⟩
    · obtain ⟨_, _, hg⟩ := setMode_gl_any m (locateTo at_ y)
      exact ⟨(setMode_frame m _).wr_eq, (setMode_frame m _).sm_eq, by rw [hg]⟩
  obtain ⟨hw, hs, hc⟩ := h
  rw [hw, hs]
  refine ⟨rfl, rfl, rfl, rfl, rfl, rfl, rfl, hc, fun e => ?_⟩
  rw [e, (setMode_frame m _).rdr_eq]
  rfl

/-- Settles O51: a dispatch point sends what the state of its block asks for, and a write that starts takes the smallest
reef point that carries its demand. -/
theorem writingRows : Obligations.WritingRows := by
  unfold Obligations.WritingRows
  refine ⟨fun t s => ⟨rowDispatch_idle, fun p hp hc hh => ⟨fun b hb hr => rowDispatch_nominal hp hc hh hb hr,
    fun b hb hr hs hq hg => ?_, fun b q track hb hr hr' hs hq he hw hf ht ha => ?_,
    fun d a s1 x hb hl ht hx => rowDispatch_first hp hc hh hb hl ht hx⟩⟩, fun t hk s p => ?_⟩
  · refine ⟨_, rowDispatch_separates hp hc hh hb hr hs hq hg, ?_, rfl, rfl, ?_⟩
    · exact congrArg (Out.separator p b.set.dsn :: ·) (advance_out t s)
    · exact (congrArg Writer.copies (advance_frame t s).wr_eq :)
  · have hwr : (advance t s).wr = s.wr := (advance_frame t s).wr_eq
    have hfm : (advance t s).fm = s.fm := (advance_frame t s).fm_eq
    obtain ⟨frames, r, k, h1, h2, h3, h4, h5, h6, h7, h8, h9, h10⟩ := rewriteRow_single (s := advance t s) (by rw [hwr]; exact hq) he ht
      (by rw [trackAvoided_advance]; exact ha)
    refine ⟨_, frames, r, k, rowDispatch_rewrites hp hc hh hb hr hr' hs hq he hw hf, by rw [h1, advance_out], h2, ?_, h4, h5,
      by rw [← trackAvoided_advance (t := t)]; exact h6, h7, h8, by rw [h9, hs], by rw [h10, hfm]⟩
    rw [← h3, runOf_advance]
  · intro a v hm hm' hh hi hp hf hc hl hn
    refine ⟨fun hd hv => ?_, writeSessionStart_wakes hm hm' hh hi hp hf hc hl hn⟩
    have e := writeSessionStart_begins (hk := hk) hm hm' hh hi hp hf hc hl hn hd hv
    have hd : demandOf a p = demandOf s p := congrArg Prod.fst (pace_advance p)
    have hpar : parityOf a v = parityOf s v := read_advance (fun x => parityOf x v) (fun _ _ => rfl) t s
    have hmax : reefMax a = reefMax s := read_advance reefMax (fun _ _ => rfl) t s
    have hcar : ∀ d q k, reefCarries a d q k = reefCarries s d q k := fun d q k =>
      read_advance (fun x => reefCarries x d q k) (fun _ _ => rfl) t s
    obtain ⟨r1, r2, r3⟩ := reefFor_parts a (demandOf a p) (parityOf a v)
    simp only [hcar] at r2 r3
    rw [hmax] at r1 r3
    rw [hd, hpar] at r1 r2 r3
    have hparts := writeBegins_parts p v a
    rw [hd, hpar] at hparts
    by_cases hat : headAt a v.at_ = true
    · obtain ⟨k1, k2, k3, k4, k5, k6, k7, k8, -⟩ := hparts .write v.at_ _ (.inl rfl)
      refine ⟨_, e.trans (congrArg _ (if_pos hat)), k1, k2, k3, k4, k5, k6, ?_⟩
      rw [k7]
      exact ⟨r1, r2, r3, fun _ => k8, fun h => absurd hat (by rw [h]; decide)⟩
    · obtain ⟨k1, k2, k3, k4, k5, k6, k7, k8, k9⟩ := hparts .locate v.at_ _ (.inr rfl)
      refine ⟨_, e.trans (congrArg _ (if_neg hat)), k1, k2, k3, k4, k5, k6, ?_⟩
      rw [k7]
      exact ⟨r1, r2, r3, fun h => absurd h hat, fun _ => ⟨k8, k9 rfl⟩⟩

end Sys2Proof.Machine
end

section
/-!
The servo loops' samples (R271 to R277, R282 to R284): what a searching reader keeps, burst windows, module samples, the write
gate and the loss limits. Settles O49.
-/

namespace Sys2Proof.Machine
set_option Elab.async false

/-! ### What leaves the readers alone -/

theorem servoRd_of_rds {s u : State} (h : u.sv.rds = s.sv.rds) (n : Nat) : servoRd u n = servoRd s n := by
  unfold servoRd
  rw [h]

theorem closeGate_rds (k : Nat) (s : State) : (closeGate k s).sv.rds = s.sv.rds := by
  unfold closeGate
  dsimp only
  split <;> rfl

theorem badPass_sv (s : State) : (badPass s).sv = { s.sv with bad := s.sv.bad.filter (lossHolds s) } := by
  unfold badPass
  rw [(senseFast_frame 4 _).sv_eq]

theorem servoPass_rds (k : Nat) (s : State) : (servoPass k s).sv.rds = s.sv.rds := by
  unfold servoPass
  dsimp only
  split
  · rw [badPass_sv]
    split <;> rfl
  · rw [badPass_sv]
    exact closeGate_rds k s

theorem coarsePass_rds (s : State) : (coarsePass s).sv.rds = s.sv.rds := by
  have freeze (b : Bool) (x : State) : (freezeFine b x).sv = x.sv := (freezeFine_frame b x).sv_eq
  have slot (i : Nat) (v : Slot) (x : State) : (setSlot i v x).sv = x.sv := rfl
  unfold coarsePass
  dsimp only
  split
  · rfl
  · split
    · rw [freeze]
    · rw [slot, freeze]

theorem headSamples_rds (s : State) : (headSamples s).sv.rds = s.sv.rds := by
  unfold headSamples
  dsimp only
  rw [coarsePass_rds]
  split <;> split <;> rfl

/-! ### A searching reader keeps its samples (R271, R274, R283) -/

/-- Reader `n` is not in TRACK, its last sample has index `i` and its samples are `w`. -/
def SearchesAt (n i : Nat) (w : List Int) (s : State) : Prop :=
  (servoRd s n).st ≠ .track ∧ (servoRd s n).sidx = i ∧ (servoRd s n).wave = w

theorem SearchesAt.congr {n i : Nat} {w : List Int} {s u : State} (h : SearchesAt n i w s) (e : u.sv.rds = s.sv.rds) :
    SearchesAt n i w u := by
  unfold SearchesAt
  rw [servoRd_of_rds e]
  exact h

/-- Setting other fields of the reader leaves it searching. -/
theorem SearchesAt.set {n i : Nat} {w : List Int} {s : State} (h : SearchesAt n i w s) {v : ServoRd} (x : State)
    (hst : v.st = (servoRd s n).st) (hi : v.sidx = (servoRd s n).sidx) (hw : v.wave = (servoRd s n).wave) :
    SearchesAt n i w (setServoRd n v x) := by
  unfold SearchesAt
  rw [servoRd_setServoRd, hst, hi, hw]
  exact h

theorem SearchesAt.takeWord {n i : Nat} {w : List Int} {s : State} (h : SearchesAt n i w s) (l : List Bool) :
    SearchesAt n i w (takeWord n l s) := by
  unfold Machine.takeWord
  extract_lets r v here d
  have set (known : Bool) (lpos : Nat) (agree : Option Int) :
      SearchesAt n i w (setServoRd n { r with known := known, lpos := lpos, agree := agree } s) := h.set s rfl rfl rfl
  clear_value here d
  split
  · exact h.congr rfl
  · split
    · exact h
    · split
      · exact set true here none
      · split
        · exact set r.known r.lpos none
        · split
          · exact (set r.known here none).congr rfl
          · exact set r.known r.lpos (some d)

theorem SearchesAt.frameDone {n i : Nat} {w : List Int} {s : State} (h : SearchesAt n i w s) (a b : Option (List Nat)) :
    SearchesAt n i w (frameDone n a b s) := by
  unfold Machine.frameDone
  dsimp only
  split
  · refine SearchesAt.congr ?_ (headSamples_rds _)
    split
    · exact h.set s rfl rfl rfl
    · refine SearchesAt.takeWord ?_ _
      exact h.set s rfl rfl rfl
  · exact h.set s rfl rfl rfl

theorem SearchesAt.giveSample {n i : Nat} {w : List Int} {s : State} (h : SearchesAt n i w s) (ab : Bool) (y : Option Int) :
    SearchesAt n i w (giveSample n ab y s) := by
  unfold Machine.giveSample
  dsimp only
  split
  · exact absurd ‹_› h.1
  · exact h
  · exact h.set s rfl rfl rfl

theorem SearchesAt.sampleDone {n i : Nat} {w : List Int} {s : State} (h : SearchesAt n i w s) :
    SearchesAt n i w (sampleDone n s) := by
  unfold Machine.sampleDone
  split
  · dsimp only
    repeat' split
    all_goals apply_rules [SearchesAt.giveSample]
  · exact h

theorem SearchesAt.burstDone {n i : Nat} {w : List Int} {s : State} (h : SearchesAt n i w s) (k : Nat)
    (res : Option (List Nat)) : SearchesAt n i w (burstDone n k res s) := by
  unfold Machine.burstDone
  dsimp only
  apply SearchesAt.sampleDone
  have set : SearchesAt n i w (setServoRd n { servoRd s n with bursts := ((k, res, (servoRd s n).kb) :: (servoRd s n).bursts).take 6 } s) :=
    h.set s rfl rfl rfl
  split
  · split
    · exact set
    · exact set.frameDone _ _
  · split
    · exact set.frameDone _ _
    · exact set
  · exact set

/-- What `SearchesAt` says of the samples alone; it stays when the reader enters TRACK. -/
def SampledAt (n i : Nat) (w : List Int) (s : State) : Prop := (servoRd s n).sidx = i ∧ (servoRd s n).wave = w

theorem SearchesAt.enterTrack {n i : Nat} {w : List Int} {s : State} (h : SearchesAt n i w s) :
    SampledAt n i w (enterTrack n s) := by
  unfold Machine.enterTrack
  dsimp only
  split
  · exact h.2
  · unfold SampledAt
    rw [servoRd_of_rds (servoPass_rds _ _)]
    refine Eq.subst (motive := fun r : ServoRd => r.sidx = i ∧ r.wave = w) (servoRd_setServoRd n _ s).symm ?_
    unfold setWindow
    dsimp only
    split <;> exact h.2

theorem SearchesAt.groupDone {n i : Nat} {w : List Int} {s : State} (h : SearchesAt n i w s) :
    SampledAt n i w (groupDone n s) := by
  unfold Machine.groupDone
  dsimp only
  apply SearchesAt.enterTrack
  have set : SearchesAt n i w (setServoRd n { servoRd s n with cross := [], kb := azkOf s (bandOf n) } s) :=
    h.set s rfl rfl rfl
  split
  · split <;> exact ((set.burstDone _ _).burstDone _ _).burstDone _ _
  · split
    · exact set.burstDone _ _
    · exact set.set _ rfl rfl rfl

theorem crossingAt_sampled {n i : Nat} {w : List Int} {s : State} (h : SampledAt n i w s) (c : Nat) :
    SampledAt n i w (crossingAt n c s) := by
  have set (v : ServoRd) (x : State) (hi : v.sidx = i) (hw : v.wave = w) : SampledAt n i w (setServoRd n v x) := by
    unfold SampledAt
    rw [servoRd_setServoRd]
    exact ⟨hi, hw⟩
  unfold crossingAt
  dsimp only
  split
  · exact h
  · exact set _ _ h.1 h.2
  case h_3 hidle htrack =>
    split
    · exact set _ _ h.1 h.2
    · split
      · exact set _ _ h.1 h.2
      · have g : SampledAt n i w (groupDone n s) := SearchesAt.groupDone ⟨fun e => htrack e, h⟩
        exact set _ _ g.1 g.2

theorem detect_keeps (lim : Nat) (r : ServoRd) (x : Int) (at_ : Nat) :
    (detect lim r x at_).1.sidx = r.sidx ∧ (detect lim r x at_).1.wave = (x :: r.wave).take 512 := by
  unfold detect
  dsimp only
  repeat' split
  all_goals exact ⟨rfl, rfl⟩

/-- A servo sample is the newest of its reader afterwards, with its index. -/
theorem servoSample_newest (n idx first : Nat) (x : Int) (s : State) :
    (servoRd (servoSample n idx first x s) n).sidx = idx ∧ (servoRd (servoSample n idx first x s) n).wave.head? = some x := by
  unfold servoSample
  extract_lets r delta at_ r' v
  obtain ⟨hi, hw⟩ := detect_keeps (if v = 0 then 2 ^ 40 else travelSubs 1200 v) { r' with sidx := idx } x at_
  generalize detect (if v = 0 then 2 ^ 40 else travelSubs 1200 v) { r' with sidx := idx } x at_ = d at hi hw ⊢
  obtain ⟨y, c⟩ := d
  dsimp only at hi hw ⊢
  have set : SampledAt n idx ((x :: r'.wave).take 512) (setServoRd n y s) := by
    unfold SampledAt
    rw [servoRd_setServoRd]
    exact ⟨hi, hw⟩
  have newest {u : State} (h : SampledAt n idx ((x :: r'.wave).take 512) u) :
      (servoRd u n).sidx = idx ∧ (servoRd u n).wave.head? = some x := ⟨h.1, by rw [h.2]; rfl⟩
  cases c with
  | none => exact newest set
  | some c => exact newest (crossingAt_sampled set c)

theorem laneOf_advance (t : Time) (s : State) (l : Nat) : laneOf (advance t s) l = laneOf s l := by
  unfold laneOf
  rw [advance_lk]

theorem laneDelivers_advance (t : Time) (s : State) (l : Nat) : laneDelivers (advance t s) l = laneDelivers s l := by
  unfold laneDelivers
  rw [laneOf_advance]

theorem tagOf_advance (t : Time) (s : State) (l : Nat) (session : BitVec 12) (i : Nat) :
    tagOf (advance t s) l session i = tagOf s l session i := by
  unfold tagOf
  rw [laneOf_advance]

theorem itemAccepted_advance (t : Time) (s : State) (i : Nat) (e : BitVec 16) :
    itemAccepted (advance t s) i e = itemAccepted s i e := by
  unfold itemAccepted
  rw [crewOf_advance]

theorem laneDelivers_up {s : State} {l : Nat} (h : (laneOf s l).st = .up) : laneDelivers s l = true := decide_eq_true h

theorem forEach_range_succ (n : Nat) (op : Nat → State → State) (s : State) :
    forEach (List.range (n + 1)) op s = op n (forEach (List.range n) op s) := by
  unfold forEach
  rw [List.range_succ, List.foldl_append]
  rfl

/-- The 8 samples of a servo cell of reader `n` (R314). -/
def servoCellSamples (n : Nat) (cell : BitVec 512) (s : State) : State :=
  forEach (List.range 8) (fun k x =>
    servoSample n ((cellField cell 0 22 + k) % 2 ^ 22) (4 * s.tb.toNat - 64 * (7 - k)) (cellSample cell 8 k) x) s

theorem servoCellSamples_newest (n : Nat) (cell : BitVec 512) (s : State) :
    (servoRd (servoCellSamples n cell s) n).sidx = (cellField cell 0 22 + 7) % 2 ^ 22
      ∧ (servoRd (servoCellSamples n cell s) n).wave.head? = some (cellSample cell 8 7) := by
  unfold servoCellSamples
  rw [forEach_range_succ]
  exact servoSample_newest _ _ _ _ _

/-- A servo cell that a lane takes gives its samples to a reader that searches or tracks. -/
theorem servoSampleCell_eq {t : Time} {lane : BitVec 4} {session : BitVec 12} {cell : BitVec 512} {s : State}
    {tag : BitVec 16} (hup : (laneOf s lane.toNat).st = .up) (htag : tagOf s lane.toNat session (1204 + lane.toNat) = some tag)
    (htype : cellType cell = 2) (hacc : itemAccepted s (1204 + lane.toNat) tag = true)
    (hst : (servoRd (servoSpeed (advance t s)) lane.toNat).st ≠ .idle) :
    exec (.servoSampleCell t lane session cell) s
      = .next (servoCellSamples lane.toNat cell (servoSpeed (advance t s))) := by
  change execServoSampleCell t lane session cell s = _
  unfold execServoSampleCell
  simp only [laneDelivers_advance, laneDelivers_up hup, tagOf_advance, htag, htype, itemAccepted_advance, hacc, Bool.not_true,
    Bool.false_eq_true, if_false, ne_eq, not_true_eq_false]
  rfl

/-! ### Burst windows (R273, R276) -/

/-- A reader whose burst C, valid or not, joins its bursts. -/
def tookBurst (res : Option (List Nat)) (r : ServoRd) : ServoRd :=
  { r with bursts := ((2, res, r.kb) :: r.bursts).take 6 }

/-- Burst C of a forward reader behind A and B ends sample AB; there is a sample where it is valid. -/
theorem burstDone_c {n : Nat} {s : State} {a b : List Nat} {ka kb : Word} {rest : List (Nat × Option (List Nat) × Word)}
    (hbursts : (servoRd s n).bursts = (1, some b, kb) :: (0, some a, ka) :: rest) (res : Option (List Nat)) :
    burstDone n 2 res s = giveSample n true (res.map fun c => sampleAB a b c ka)
      (setServoRd n (tookBurst res (servoRd s n)) s) := by
  unfold burstDone tookBurst
  dsimp only
  rw [hbursts]
  change sampleDone n (setServoRd n { servoRd s n with
    bursts := (2, res, (servoRd s n).kb) :: (1, some b, kb) :: (0, some a, ka) :: rest.take 3 } s) = _
  unfold sampleDone
  rw [servoRd_setServoRd]
  cases res <;> rfl

/-- A sample given in TRACK, kept on the reader. -/
def given (y : Int) (r : ServoRd) : ServoRd :=
  { r with giveAB := some (some y), y := y, seq := r.seq + 1, ts := BitVec.ofNat 64 (r.winTo / 4), run := 0 }

theorem giveSample_given {n : Nat} {s : State} (h : (servoRd s n).st = .track) (y : Int) :
    giveSample n true (some y) s = setServoRd n (given y (servoRd s n)) s := by
  unfold giveSample
  generalize servoRd s n = r at h ⊢
  cases r
  subst h
  rfl

/-- A sample missed in TRACK, counted on the reader. -/
def missed (r : ServoRd) : ServoRd := { r with giveAB := some none, miss := satInc r.miss, run := r.run + 1 }

theorem giveSample_missed {n : Nat} {s : State} (h : (servoRd s n).st = .track) :
    giveSample n true none s = if bits (servoRd s n).ctl 8 4 ≤ (servoRd s n).run + 1
      then readerLost n (setServoRd n (missed (servoRd s n)) s) else setServoRd n (missed (servoRd s n)) s := by
  unfold giveSample
  generalize servoRd s n = r at h ⊢
  cases r
  subst h
  rfl

/-- A lost reader keeps its sample, its count of samples and its misses. -/
theorem readerLost_rd (n : Nat) (s : State) :
    (servoRd (readerLost n s) n).st = .lost ∧ (servoRd (readerLost n s) n).miss = (servoRd s n).miss
      ∧ (servoRd (readerLost n s) n).seq = (servoRd s n).seq ∧ (servoRd (readerLost n s) n).y = (servoRd s n).y := by
  unfold readerLost
  extract_lets r k had other _ s₁ _ s₂ lim s₃
  have h₁ : (servoRd s₁ n).st = .lost ∧ (servoRd s₁ n).miss = r.miss ∧ (servoRd s₁ n).seq = r.seq ∧ (servoRd s₁ n).y = r.y := by
    unfold s₁
    rw [servoRd_setServoRd]
    exact ⟨rfl, rfl, rfl, rfl⟩
  have h₂ : s₂.sv.rds = s₁.sv.rds := by
    unfold s₂
    split <;> rfl
  have h₃ : s₃.sv = s₂.sv := by
    unfold s₃
    split
    · exact (setUnitState_frame _ _ _ _).sv_eq
    · rfl
  rw [servoRd_of_rds ((servoPass_rds k s₃).trans ((congrArg Servo.rds h₃).trans h₂))]
  exact h₁

/-- The next window of a reader changes its window, the burst it awaits and what it takes at a window. -/
theorem setWindow_parts (s : State) (n b : Nat) (r : ServoRd) : ∃ (kb ctl : Word) (a z : Nat),
    setWindow s n b r = { r with nextB := b, kb := kb, ctl := ctl, winFrom := a, winTo := z } := by
  unfold setWindow
  dsimp only
  split <;> exact ⟨_, _, _, _, rfl⟩

/-- The crossings of a reader's window. -/
def windowCross (r : ServoRd) : List Nat := r.cross.filter fun c => decide (r.winFrom ≤ c) && decide (c < r.winTo)

/-- A reader whose window of burst C is over. -/
def windowOver (r : ServoRd) : ServoRd :=
  let pred := match r.preds.find? fun p => p.1 == 2 with | some p => p.2 | none => (0, 0)
  let here := if decide ((windowCross r).length = 3) then endsOf (windowCross r) else (pred.1 + r.ival, pred.2 + r.ival)
  { r with cross := r.cross.filter fun c => decide (r.winTo ≤ c)
           preds := (2, here) :: r.preds.filter fun p => p.1 != 2 }

/-- A reader that still tracks awaits its next burst. -/
def nextWindow (n : Nat) (s : State) : State :=
  if (servoRd s n).st = .track then setServoRd n (setWindow s n (burstAfter (servoRd s n).dir 2) (servoRd s n)) s else s

theorem burstWindowClose_eq {t : Time} {reader : BitVec 4} {s : State}
    (h : ¬((servoRd (servoSpeed (advance t s)) reader.toNat).st ≠ .track
      ∨ 4 * (servoSpeed (advance t s)).tb.toNat < (servoRd (servoSpeed (advance t s)) reader.toNat).winTo))
    (hdir : (servoRd (servoSpeed (advance t s)) reader.toNat).dir = false)
    (hb : (servoRd (servoSpeed (advance t s)) reader.toNat).nextB = 2) :
    exec (.burstWindowClose t reader) s = .next (nextWindow reader.toNat (burstDone reader.toNat 2
      (if decide ((windowCross (servoRd (servoSpeed (advance t s)) reader.toNat)).length = 3)
        then some (windowCross (servoRd (servoSpeed (advance t s)) reader.toNat)) else none)
      (setServoRd reader.toNat (windowOver (servoRd (servoSpeed (advance t s)) reader.toNat)) (servoSpeed (advance t s))))) := by
  change execBurstWindowClose t reader s = _
  unfold execBurstWindowClose
  generalize servoSpeed (advance t s) = q at h hdir hb ⊢
  dsimp only
  rw [if_neg h]
  clear h
  generalize servoRd q reader.toNat = r at hdir hb ⊢
  cases r
  subst hdir hb
  rfl

/-- A reader that still tracks keeps all of its own but the window it goes on to. -/
theorem nextWindow_track {n : Nat} {u : State} (h : (servoRd u n).st = .track) : ∃ (kb ctl : Word) (f z : Nat),
    servoRd (nextWindow n u) n = { servoRd u n with
      nextB := burstAfter (servoRd u n).dir 2, kb := kb, ctl := ctl, winFrom := f, winTo := z } := by
  obtain ⟨kb, ctl, f, z, e⟩ := setWindow_parts u n (burstAfter (servoRd u n).dir 2) (servoRd u n)
  refine ⟨kb, ctl, f, z, ?_⟩
  unfold nextWindow
  rw [if_pos h, servoRd_setServoRd, e]

theorem nextWindow_lost {n : Nat} {u : State} (h : (servoRd u n).st = .lost) : nextWindow n u = u := by
  unfold nextWindow
  rw [if_neg (by rw [h]; decide)]

section
variable {n : Nat} {q : State} {a b : List Nat} {ka kb : Word} {rest : List (Nat × Option (List Nat) × Word)}
variable (hst : (servoRd q n).st = .track) (hbursts : (servoRd q n).bursts = (1, some b, kb) :: (0, some a, ka) :: rest)
include hst hbursts

/-- A valid burst C of a forward reader in TRACK, behind valid bursts A and B, gives sample AB. -/
theorem nextWindow_given (hdir : (servoRd q n).dir = false) (c : List Nat) :
    let w := servoRd (nextWindow n (burstDone n 2 (some c) q)) n
    w.st = .track ∧ w.y = sampleAB a b c ka ∧ w.giveAB = some (some w.y) ∧ w.seq = (servoRd q n).seq + 1
      ∧ w.miss = (servoRd q n).miss ∧ w.run = 0 ∧ w.nextB = 3 ∧ w.cross = (servoRd q n).cross := by
  rw [burstDone_c hbursts]
  generalize hx : setServoRd n (tookBurst (some c) (servoRd q n)) q = x
  have hrd : servoRd x n = tookBurst (some c) (servoRd q n) := by rw [← hx, servoRd_setServoRd]
  generalize hy : giveSample n true ((some c).map fun c => sampleAB a b c ka) x = y
  have hrd' : servoRd y n = given (sampleAB a b c ka) (tookBurst (some c) (servoRd q n)) := by
    rw [← hy, Option.map_some, giveSample_given (by rw [hrd]; exact hst), servoRd_setServoRd, hrd]
  obtain ⟨kb', ctl, f, z, e⟩ := nextWindow_track (n := n) (u := y) (by rw [hrd']; exact hst)
  rw [e, hrd']
  exact ⟨hst, rfl, rfl, rfl, rfl, rfl, by dsimp only [given, tookBurst]; rw [hdir]; rfl, rfl⟩

/-- An invalid burst C of a reader in TRACK, behind bursts A and B, is a miss. -/
theorem nextWindow_missed :
    let w := servoRd (nextWindow n (burstDone n 2 none q)) n; let r := servoRd q n
    w.miss = satInc r.miss ∧ w.seq = r.seq ∧ w.y = r.y ∧ (bits r.ctl 8 4 ≤ r.run + 1 → w.st = .lost)
      ∧ (r.run + 1 < bits r.ctl 8 4 → w.st = .track ∧ w.run = r.run + 1 ∧ w.giveAB = some none) := by
  rw [burstDone_c hbursts]
  generalize hx : setServoRd n (tookBurst none (servoRd q n)) q = x
  have hrd : servoRd x n = tookBurst none (servoRd q n) := by rw [← hx, servoRd_setServoRd]
  rw [Option.map_none, giveSample_missed (by rw [hrd]; exact hst), hrd]
  have hmiss : servoRd (setServoRd n (missed (tookBurst none (servoRd q n))) x) n = missed (tookBurst none (servoRd q n)) :=
    servoRd_setServoRd _ _ _
  generalize setServoRd n (missed (tookBurst none (servoRd q n))) x = y at hmiss ⊢
  by_cases hlim : bits (servoRd q n).ctl 8 4 ≤ (servoRd q n).run + 1
  · rw [if_pos (by exact hlim)]
    obtain ⟨hlost, hm, hseq, hy⟩ := readerLost_rd n y
    rw [hmiss] at hm hseq hy
    rw [nextWindow_lost hlost]
    exact ⟨hm, hseq, hy, fun _ => hlost, fun h => absurd hlim (Nat.not_le.mpr h)⟩
  · rw [if_neg (by exact hlim)]
    obtain ⟨kb', ctl, f, z, e⟩ := nextWindow_track (n := n) (u := y) (by rw [hmiss]; exact hst)
    rw [e, hmiss]
    exact ⟨rfl, rfl, rfl, fun h => absurd h hlim, fun _ => ⟨hst, rfl, rfl⟩⟩

end

/-- The window of burst C of a forward reader closes behind valid bursts A and B: a sample or a miss. -/
theorem burstWindowClose_c {t : Time} {reader : BitVec 4} {s : State} {a b : List Nat} {ka kb : Word}
    {rest : List (Nat × Option (List Nat) × Word)} {q : State} (hq : q = servoSpeed (advance t s)) {r : ServoRd}
    (hr : r = servoRd q reader.toNat) (hst : r.st = .track) (hwin : r.winTo ≤ 4 * q.tb.toNat) (hdir : r.dir = false)
    (hb : r.nextB = 2) (hbursts : r.bursts = (1, some b, kb) :: (0, some a, ka) :: rest) :
    ∃ u, exec (.burstWindowClose t reader) s = .next u ∧ let w := servoRd u reader.toNat
      ((windowCross r).length = 3 → w.st = .track ∧ w.y = sampleAB a b (windowCross r) ka ∧ w.giveAB = some (some w.y)
        ∧ w.seq = r.seq + 1 ∧ w.miss = r.miss ∧ w.run = 0 ∧ w.nextB = 3
        ∧ w.cross = r.cross.filter fun x => decide (r.winTo ≤ x))
      ∧ ((windowCross r).length ≠ 3 → w.miss = satInc r.miss ∧ w.seq = r.seq ∧ w.y = r.y
        ∧ (bits r.ctl 8 4 ≤ r.run + 1 → w.st = .lost)
        ∧ (r.run + 1 < bits r.ctl 8 4 → w.st = .track ∧ w.run = r.run + 1 ∧ w.giveAB = some none)) := by
  subst hq
  have hopen : ¬(r.st ≠ .track ∨ 4 * (servoSpeed (advance t s)).tb.toNat < r.winTo) := by
    rw [not_or, Classical.not_not, Nat.not_lt]
    exact ⟨hst, hwin⟩
  subst hr
  refine ⟨_, burstWindowClose_eq hopen hdir hb, ?_⟩
  generalize servoSpeed (advance t s) = q at hst hdir hb hbursts ⊢
  have hrd : servoRd (setServoRd reader.toNat (windowOver (servoRd q reader.toNat)) q) reader.toNat
      = windowOver (servoRd q reader.toNat) := servoRd_setServoRd _ _ _
  generalize setServoRd reader.toNat (windowOver (servoRd q reader.toNat)) q = x at hrd ⊢
  have hst' : (servoRd x reader.toNat).st = .track := by rw [hrd]; exact hst
  have hbursts' : (servoRd x reader.toNat).bursts = (1, some b, kb) :: (0, some a, ka) :: rest := by rw [hrd]; exact hbursts
  constructor
  · intro h
    rw [decide_eq_true h, if_pos rfl]
    have given := nextWindow_given hst' hbursts' (by rw [hrd]; exact hdir) (windowCross (servoRd q reader.toNat))
    rw [hrd] at given
    exact given
  · intro h
    rw [decide_eq_false h, if_neg Bool.false_ne_true]
    have missed := nextWindow_missed hst' hbursts'
    rw [hrd] at missed
    exact missed

/-! ### Module samples (R277, R282) -/

theorem servoMod_of_mods {s u : State} (h : u.sv.mods = s.sv.mods) (k : Nat) : servoMod u k = servoMod s k := by
  unfold servoMod
  rw [h]

/-- A module whose last sample is that of another: only its write gate and what follows it may differ. -/
def SameSample (m w : ServoMod) : Prop :=
  w.y = m.y ∧ w.m = m.m ∧ w.held = m.held ∧ w.single = m.single ∧ w.valid = m.valid ∧ w.seq = m.seq ∧ w.err = m.err

theorem closeGate_mods (k : Nat) (s : State) : SameSample (servoMod s k) (servoMod (closeGate k s) k)
    ∧ ∀ j, j ≠ k → servoMod (closeGate k s) j = servoMod s j := by
  unfold closeGate
  extract_lets m s₁ _ _ s₂
  have h₂ (j : Nat) : servoMod (emit (.cell (2 * k + 1) (controlCell 2 1 0)) (emit (.cell (2 * k) (controlCell 2 1 0)) s₂)) j
      = servoMod s₁ j := rfl
  split
  · refine ⟨?_, fun j hj => ?_⟩
    · rw [h₂]
      unfold s₁
      rw [servoMod_setServoMod]
      exact ⟨rfl, rfl, rfl, rfl, rfl, rfl, rfl⟩
    · rw [h₂]
      exact servoMod_setServoMod_other k _ s hj
  · exact ⟨⟨rfl, rfl, rfl, rfl, rfl, rfl, rfl⟩, fun j hj => rfl⟩

theorem servoMod_badPass (s : State) (k : Nat) : servoMod (badPass s) k = servoMod s k := by
  refine servoMod_of_mods ?_ k
  rw [badPass_sv]

theorem servoMod_meanMismatch (s : State) (ival k : Nat) : servoMod (meanMismatch s ival) k = servoMod s k := by
  refine servoMod_of_mods ?_ k
  unfold meanMismatch
  dsimp only
  split <;> rfl

theorem fineTarget_congr {s u : State} (h : u.ce = s.ce) (k : Nat) : fineTarget u k = fineTarget s k := by
  unfold fineTarget rampOut
  rw [h, slotOf_of_ce h]

/-- The samples of kind AB or CD of both readers of module `k` are taken. -/
def samplesTaken (k : Nat) (ab : Bool) (s : State) : State :=
  forEach [2 * k, 2 * k + 1] (fun n s =>
    let r := servoRd s n
    setServoRd n (if ab then { r with giveAB := none } else { r with giveCD := none }) s) s

/-- The module as the frame under way sees it (R288). -/
def frameLimits (s : State) (fresh : Bool) (m : ServoMod) : ServoMod :=
  if fresh then { m with limit := s.sv.limit, wi := s.sv.wi } else m

/-- A module's sample from what its readers gave (R277). -/
def combined (m : ServoMod) (now : Time) (lo up : Option Int) : Option ServoMod :=
  match lo, up with
  | some l, some u =>
    let d := satN 32 (u - l)
    some { m with y := asr (l + u) 1, m := d, held := d, single := false, mAt := some now }
  | some l, none => some { m with y := satN 32 (l + asr m.held 1), single := true }
  | none, some u => some { m with y := satN 32 (u - asr m.held 1), single := true }
  | none, none => none

/-- Module `k` publishes sample `m` (R277, R282). -/
def published (k : Nat) (stamp : Time) (ival : Nat) (m : ServoMod) (s : State) : State :=
  let e := satN 32 (fineTarget s k - m.y)
  let m := { m with err := e, seq := m.seq + 1, ts := stamp, valid := true
                    off := if 256 * bits m.limit 0 16 ≤ e.natAbs then m.off + 1 else 0 }
  let s := meanMismatch (setServoMod k m s) ival
  if gateHolds s k then badPass (setServoMod k { m with good := (e.natAbs :: m.good).take 4 } s)
  else badPass (closeGate k (setServoMod k { m with good := [] } s))

/-- A published sample stands in its module, with its error; the other modules stay. -/
theorem published_parts (k : Nat) (stamp : Time) (ival : Nat) (m : ServoMod) (s : State) :
    SameSample { m with valid := true, seq := m.seq + 1, err := satN 32 (fineTarget s k - m.y) }
        (servoMod (published k stamp ival m s) k)
      ∧ ∀ j, j ≠ k → servoMod (published k stamp ival m s) j = servoMod s j := by
  unfold published
  extract_lets e m' s'
  have other (v : ServoMod) (j : Nat) (hj : j ≠ k) : servoMod (setServoMod k v s') j = servoMod s j := by
    rw [servoMod_setServoMod_other k _ _ hj]
    unfold s'
    rw [servoMod_meanMismatch, servoMod_setServoMod_other k _ _ hj]
  split
  · refine ⟨?_, fun j hj => ?_⟩
    · rw [servoMod_badPass, servoMod_setServoMod]
      exact ⟨rfl, rfl, rfl, rfl, rfl, rfl, rfl⟩
    · rw [servoMod_badPass]
      exact other _ j hj
  · refine ⟨?_, fun j hj => ?_⟩
    · rw [servoMod_badPass]
      have gate := (closeGate_mods k (setServoMod k { m' with good := [] } s')).1
      rw [servoMod_setServoMod] at gate
      exact gate
    · rw [servoMod_badPass, (closeGate_mods k _).2 j hj]
      exact other _ j hj

/-- The sample of kind AB or CD that reader `n` gave or missed. -/
def gave (s : State) (ab : Bool) (n : Nat) : Option (Option Int) := if ab then (servoRd s n).giveAB else (servoRd s n).giveCD

/-- What a reader contributes to its module's sample. -/
def contributed (s : State) (ab : Bool) (n : Nat) : Option Int :=
  if readerTracks s n then (gave s ab n).getD none else none

/-- The readers of module `k` in TRACK. -/
def trackers (s : State) (k : Nat) : List Nat := [2 * k, 2 * k + 1].filter (readerTracks s)

theorem mem_trackers {s : State} {k n : Nat} :
    n ∈ trackers s k ↔ (n = 2 * k ∨ n = 2 * k + 1) ∧ readerTracks s n = true := by
  unfold trackers
  rw [List.mem_filter, List.mem_cons, List.mem_singleton]

theorem moduleSample_waits {s : State} {k n : Nat} {ab : Bool} (hn : n = 2 * k ∨ n = 2 * k + 1)
    (ht : readerTracks s n = true) (hg : gave s ab n = none) : moduleSample k ab s = s := by
  have hwait : (trackers s k).any (fun n => (gave s ab n).isNone) = true :=
    List.any_eq_true.mpr ⟨n, mem_trackers.mpr ⟨hn, ht⟩, by rw [hg]; rfl⟩
  unfold moduleSample
  exact if_pos (Bool.or_eq_true_iff.mpr (Or.inr hwait))

theorem moduleSample_eq {s : State} {k : Nat} {ab : Bool} (hservo : hasServo s k = true)
    (hg : ∀ n, n = 2 * k ∨ n = 2 * k + 1 → readerTracks s n = true → gave s ab n ≠ none) :
    moduleSample k ab s =
      let x := samplesTaken k ab s
      let m := frameLimits x (ab != (servoRd s ((trackers s k).headD (2 * k))).dir) (servoMod x k)
      match combined m x.tb (contributed s ab (2 * k)) (contributed s ab (2 * k + 1)) with
      | none => setServoMod k { m with valid := false } x
      | some m => published k (BitVec.ofNat 64 (((trackers s k).map fun n => (servoRd s n).ts.toNat).foldl max 0))
          (((trackers s k).map fun n => (servoRd s n).ival).foldl max 0) m x := by
  have hgo : ¬((trackers s k).isEmpty || (trackers s k).any (fun n => (gave s ab n).isNone)) = true := by
    rw [Bool.or_eq_true_iff, not_or]
    constructor
    · obtain h | h := Bool.or_eq_true_iff.mp hservo
      · exact fun e => List.ne_nil_of_mem (mem_trackers.mpr ⟨Or.inl rfl, h⟩) (List.isEmpty_iff.mp e)
      · exact fun e => List.ne_nil_of_mem (mem_trackers.mpr ⟨Or.inr rfl, h⟩) (List.isEmpty_iff.mp e)
    · rw [List.any_eq_true]
      rintro ⟨n, hn, hnone⟩
      obtain ⟨hn, ht⟩ := mem_trackers.mp hn
      exact hg n hn ht (Option.isNone_iff_eq_none.mp hnone)
  unfold moduleSample
  exact if_neg hgo

theorem samplesTaken_parts (k : Nat) (ab : Bool) (s : State) :
    (samplesTaken k ab s).sv.mods = s.sv.mods ∧ (samplesTaken k ab s).ce = s.ce := ⟨rfl, rfl⟩

/-- Sample limits are no part of a sample. -/
theorem frameLimits_sample (s : State) (fresh : Bool) (m : ServoMod) : SameSample m (frameLimits s fresh m) := by
  unfold frameLimits
  split <;> exact ⟨rfl, rfl, rfl, rfl, rfl, rfl, rfl⟩

/-- The module sample of module `k`, where its readers gave values that combine to `c`. -/
theorem moduleSample_published {s : State} {k : Nat} {ab : Bool} (hservo : hasServo s k = true)
    (hg : ∀ n, n = 2 * k ∨ n = 2 * k + 1 → readerTracks s n = true → gave s ab n ≠ none) {y d h : Int} {one : Bool}
    (hc : ∀ m now, SameSample (servoMod s k) m → ∃ c,
      combined m now (contributed s ab (2 * k)) (contributed s ab (2 * k + 1)) = some c
        ∧ c.y = y ∧ c.m = d ∧ c.held = h ∧ c.single = one ∧ c.seq = m.seq) :
    (∀ j, j ≠ k → servoMod (moduleSample k ab s) j = servoMod s j)
      ∧ let w := servoMod (moduleSample k ab s) k
        w.y = y ∧ w.m = d ∧ w.held = h ∧ w.single = one ∧ w.valid = true ∧ w.seq = (servoMod s k).seq + 1
          ∧ w.err = satN 32 (fineTarget s k - y) := by
  rw [moduleSample_eq hservo hg]
  obtain ⟨hmods, hce⟩ := samplesTaken_parts k ab s
  generalize samplesTaken k ab s = x at hmods hce ⊢
  dsimp only
  have hm : SameSample (servoMod s k)
      (frameLimits x (ab != (servoRd s ((trackers s k).headD (2 * k))).dir) (servoMod x k)) := by
    rw [servoMod_of_mods hmods k]
    exact frameLimits_sample _ _ _
  generalize frameLimits x (ab != (servoRd s ((trackers s k).headD (2 * k))).dir) (servoMod x k) = m at hm ⊢
  obtain ⟨c, e, rfl, rfl, rfl, rfl, hseq⟩ := hc m x.tb hm
  rw [e]
  dsimp only
  obtain ⟨⟨wy, wm, wheld, wsingle, wvalid, wseq, werr⟩, other⟩ := published_parts k
    (BitVec.ofNat 64 (((trackers s k).map fun n => (servoRd s n).ts.toNat).foldl max 0))
    (((trackers s k).map fun n => (servoRd s n).ival).foldl max 0) c x
  obtain ⟨-, -, -, -, -, mseq, -⟩ := hm
  refine ⟨fun j hj => (other j hj).trans (servoMod_of_mods hmods j), wy, wm, wheld, wsingle, wvalid, ?_, ?_⟩
  · rw [wseq, hseq, mseq]
  · rw [werr, fineTarget_congr hce]

theorem asr_one (v : Int) : asr v 1 = v / 2 := rfl

theorem combined_both (m : ServoMod) (now : Time) (a b : Int) : ∃ c, combined m now (some a) (some b) = some c
    ∧ c.y = (a + b) / 2 ∧ c.m = satN 32 (b - a) ∧ c.held = satN 32 (b - a) ∧ c.single = false ∧ c.seq = m.seq :=
  ⟨_, rfl, rfl, rfl, rfl, rfl, rfl⟩

theorem combined_lower (m : ServoMod) (now : Time) (a : Int) : ∃ c, combined m now (some a) none = some c
    ∧ c.y = satN 32 (a + m.held / 2) ∧ c.m = m.m ∧ c.held = m.held ∧ c.single = true ∧ c.seq = m.seq :=
  ⟨_, rfl, rfl, rfl, rfl, rfl, rfl⟩

theorem combined_upper (m : ServoMod) (now : Time) (b : Int) : ∃ c, combined m now none (some b) = some c
    ∧ c.y = satN 32 (b - m.held / 2) ∧ c.m = m.m ∧ c.held = m.held ∧ c.single = true ∧ c.seq = m.seq :=
  ⟨_, rfl, rfl, rfl, rfl, rfl, rfl⟩

/-- Both readers of the module missed: its sample is not valid. -/
theorem moduleSample_missed {s : State} {k : Nat} {ab : Bool} (hservo : hasServo s k = true)
    (hg : ∀ n, n = 2 * k ∨ n = 2 * k + 1 → readerTracks s n = true → gave s ab n ≠ none)
    (hlo : contributed s ab (2 * k) = none) (hup : contributed s ab (2 * k + 1) = none) :
    (servoMod (moduleSample k ab s) k).valid = false ∧ (servoMod (moduleSample k ab s) k).y = (servoMod s k).y
      ∧ (servoMod (moduleSample k ab s) k).seq = (servoMod s k).seq := by
  rw [moduleSample_eq hservo hg, hlo, hup]
  dsimp only [combined]
  rw [servoMod_setServoMod]
  obtain ⟨wy, -, -, -, -, wseq, -⟩ := frameLimits_sample (samplesTaken k ab s)
    (ab != (servoRd s ((trackers s k).headD (2 * k))).dir) (servoMod (samplesTaken k ab s) k)
  rw [servoMod_of_mods (samplesTaken_parts k ab s).1] at wy wseq ⊢
  exact ⟨rfl, wy, wseq⟩

/-! ### The write gate (R282) and the servo-loss limits (R284) -/

/-- The conditions under which the write gate of module `k` opens. -/
def gateReady (s : State) (k : Nat) : Bool :=
  let v := servoMod s k
  !v.gate && decide (s.gl.cur ≠ .hold) && gateHolds s k && decide (v.good.length = 4)
    && v.good.all (fun e => decide (2 * e < bits v.wi 0 16)) && v.closing != some s.tb

theorem gateReady_iff {s : State} {k : Nat} : gateReady s k = true ↔ let v := servoMod s k
    v.gate = false ∧ s.gl.cur ≠ .hold ∧ hasServo s k = true ∧ v.err.natAbs < bits v.wi 0 16
      ∧ v.m.natAbs < 256 * bits v.limit 16 16 ∧ v.good.length = 4 ∧ (∀ e ∈ v.good, 2 * e < bits v.wi 0 16)
      ∧ v.closing ≠ some s.tb := by
  unfold gateReady gateHolds
  simp only [Bool.and_eq_true, decide_eq_true_eq, Bool.not_eq_true', List.all_eq_true, bne_iff_ne, and_assoc]

theorem writeGateOpen_refused {t : Time} {m : BitVec 3} {bit : BitVec 20} {s : State}
    (h : ¬gateReady (advance t s) m.toNat = true) : exec (.writeGateOpen t m bit) s = .next (advance t s) :=
  if_pos (by rw [Bool.not_eq_true] at h; exact congrArg (!·) h)

theorem writeGateOpen_opens {t : Time} {m : BitVec 3} {bit : BitVec 20} {s : State}
    (h : gateReady (advance t s) m.toNat = true) : ∃ u, exec (.writeGateOpen t m bit) s = .next u
      ∧ servoMod u m.toNat = { servoMod s m.toNat with gate := true }
      ∧ (∀ j, j ≠ m.toNat → servoMod u j = servoMod s j)
      ∧ u.out = .cell (2 * m.toNat + 1) (controlCell 2 0 (BitVec.ofNat 480 (bit.toNat * 2 ^ 460)))
        :: .cell (2 * m.toNat) (controlCell 2 0 (BitVec.ofNat 480 (bit.toNat * 2 ^ 460))) :: s.out := by
  refine ⟨_, if_neg (by rw [Bool.not_eq_true]; exact congrArg (!·) h), ?_, fun j hj => ?_, ?_⟩
  · rw [← servoMod_of_mods (congrArg Servo.mods (advance_sv t s)) m.toNat]
    exact servoMod_setServoMod _ _ _
  · rw [← servoMod_of_mods (congrArg Servo.mods (advance_sv t s)) j]
    exact servoMod_setServoMod_other _ _ _ hj
  · rw [← advance_out t s]
    rfl

theorem servoRd_advance (t : Time) (s : State) (n : Nat) : servoRd (advance t s) n = servoRd s n :=
  servoRd_of_rds (congrArg Servo.rds (advance_sv t s)) n

theorem servoMod_advance (t : Time) (s : State) (k : Nat) : servoMod (advance t s) k = servoMod s k :=
  servoMod_of_mods (congrArg Servo.mods (advance_sv t s)) k

theorem readerTracks_advance (t : Time) (s : State) (n : Nat) : readerTracks (advance t s) n = readerTracks s n := by
  unfold readerTracks
  rw [servoRd_advance, crewOf_advance]

theorem hasServo_advance (t : Time) (s : State) (k : Nat) : hasServo (advance t s) k = hasServo s k := by
  unfold hasServo
  rw [readerTracks_advance, readerTracks_advance]

theorem gave_advance (t : Time) (s : State) (ab : Bool) (n : Nat) : gave (advance t s) ab n = gave s ab n := by
  unfold gave
  rw [servoRd_advance]

theorem contributed_advance (t : Time) (s : State) (ab : Bool) (n : Nat) :
    contributed (advance t s) ab n = contributed s ab n := by
  unfold contributed
  rw [readerTracks_advance, gave_advance]

theorem fineTarget_advance (t : Time) (s : State) (k : Nat) : fineTarget (advance t s) k = fineTarget s k :=
  fineTarget_congr (advance_ce t s) k

/-- A servo-loss condition of R284 in words of TB ticks. -/
theorem lossHolds_iff {q : State} {cond : ServoLoss} :
    lossHolds q cond = true ↔
      let past := fun (o : Option Time) (n : Nat) => ∃ a, o = some a ∧ a.toNat + n ≤ q.tb.toNat
      lateralMode q = true ∧ ∃ v, q.sv.speedAt = some v ∧ match cond with
        | .lostHold m => past (servoMod q m.toNat).lostAt (bits q.sv.loss 0 8 * 16000)
        | .modHold => bits q.sv.loss 8 4 ≤ ((List.range 8).filter fun k => (servoMod q k).lostAt.isSome).length
        | .acqHold m => hasServo q m.toNat = false ∧ (servoMod q m.toNat).lostAt = none
            ∧ v.toNat + bits q.sv.loss 16 8 * 1600000 ≤ q.tb.toNat
        | .offTrack m => 3 ≤ (servoMod q m.toNat).off := by
  unfold lossHolds
  dsimp only
  cases hv : q.sv.speedAt with
  | none => simp
  | some v =>
    rw [Bool.and_eq_true]
    refine and_congr Iff.rfl ?_
    simp only [Option.some.injEq, exists_eq_left']
    cases cond with
    | lostHold m =>
      dsimp only
      cases (servoMod q m.toNat).lostAt with
      | none => simp
      | some a =>
        simp only [Option.some.injEq, exists_eq_left']
        exact decide_eq_true_iff
    | modHold => exact decide_eq_true_iff
    | acqHold m =>
      rw [Bool.and_eq_true, Bool.and_eq_true, Bool.not_eq_true', Option.isNone_iff_eq_none, and_assoc]
      exact and_congr Iff.rfl (and_congr Iff.rfl decide_eq_true_iff)
    | offTrack m => exact decide_eq_true_iff

/-- A servo-loss limit whose condition stands already, or does not hold, only senses the speed. -/
theorem servoLossLimit_idle {t : Time} {cond : ServoLoss} {s : State}
    (h : ¬(lossHolds (servoSpeed (advance t s)) cond = true ∧ cond ∉ (servoSpeed (advance t s)).sv.bad)) :
    exec (.servoLossLimit t cond) s = .next (servoSpeed (advance t s)) := by
  refine if_neg fun e => h ?_
  obtain ⟨hl, hb⟩ := Bool.and_eq_true_iff.mp e
  rw [Bool.not_eq_true', ← Bool.not_eq_true, List.contains_iff_mem] at hb
  exact ⟨hl, hb⟩

/-- A condition that comes to hold is a HOLD cause. -/
theorem servoLossLimit_holds {t : Time} {cond : ServoLoss} {s q : State} (hq : q = servoSpeed (advance t s))
    (hl : lossHolds q cond = true) (hb : cond ∉ q.sv.bad) :
    ∃ u, exec (.servoLossLimit t cond) s = .next u ∧ u.gl.cur = .hold ∧ u.gl.latched = q.gl.latched ||| 16#7 := by
  subst hq
  refine ⟨_, if_pos ?_, ?_⟩
  · rw [hl, Bool.true_and, Bool.not_eq_true', ← Bool.not_eq_true, List.contains_iff_mem]
    exact hb
  · have hmode := (lossHolds_iff.mp hl).1
    generalize servoSpeed (advance t s) = q at hmode ⊢
    obtain ⟨x, hx⟩ : ∃ x, x = { q with sv := { q.sv with bad := cond :: q.sv.bad } } := ⟨_, rfl⟩
    have hgl : x.gl = q.gl := by rw [hx]
    rw [← hx, (senseFast_frame 4 _).gl_eq, ← hgl]
    unfold lateralMode at hmode
    rw [← hgl] at hmode
    by_cases hhold : x.gl.cur = .hold
    · rw [holdCause_gl_stay 4 (Or.inr (Or.inr hhold))]
      exact ⟨hhold, rfl⟩
    · have live : x.gl.cur ≠ .reset ∧ x.gl.cur ≠ .fill := by
        constructor <;> (intro e; rw [e] at hmode; exact absurd hmode (by decide))
      rw [holdCause_gl 4 ⟨live.1, live.2, hhold⟩]
      exact ⟨rfl, rfl⟩

/-- Settles O49. Cells, burst windows, module samples, the write gate and the servo-loss limits, each by its own rule;
a module sample turns on what its two readers gave. -/
theorem servoSamples : Obligations.ServoSamples := by
  unfold Obligations.ServoSamples
  refine ⟨?cell, ?module, ?gate, ?loss⟩
  case cell =>
    intro t reader session cell s
    refine ⟨fun tag hup htag htype hacc hst => ?_, fun h => if_pos h, ?_⟩
    · obtain ⟨hi, hw⟩ := servoCellSamples_newest reader.toNat cell (servoSpeed (advance t s))
      exact ⟨_, servoSampleCell_eq hup htag htype hacc hst, hi, hw⟩
    · intro a b ka kb rest hst hwin hdir hb hbursts
      exact burstWindowClose_c rfl rfl hst hwin hdir hb hbursts
  case module =>
    intro t m kind s
    have hgive (n : Nat) : (if kind = .ab then (servoRd s n).giveAB else (servoRd s n).giveCD)
        = gave (advance t s) (decide (kind = .ab)) n := by
      rw [gave_advance]
      cases kind <;> rfl
    have hval (n : Nat) : (if readerTracks s n = true
        then (if kind = .ab then (servoRd s n).giveAB else (servoRd s n).giveCD).getD none else none)
        = contributed (advance t s) (decide (kind = .ab)) n := by
      rw [hgive, ← readerTracks_advance t]
      rfl
    simp only [hval]
    simp only [hgive]
    rw [← hasServo_advance t, ← fineTarget_advance t]
    simp only [← readerTracks_advance t s, ← servoMod_advance t s]
    refine ⟨fun hservo hg => ⟨?_, ?_, ?_, ?_⟩, ?_⟩
    · intro a b ha hb
      refine ⟨_, rfl, moduleSample_published hservo hg fun w now hw => ?_⟩
      rw [ha, hb]
      exact combined_both w now a b
    · intro a ha hb
      refine ⟨_, rfl, moduleSample_published hservo hg fun w now hw => ?_⟩
      rw [ha, hb, ← hw.2.1, ← hw.2.2.1]
      exact combined_lower w now a
    · intro b ha hb
      refine ⟨_, rfl, moduleSample_published hservo hg fun w now hw => ?_⟩
      rw [ha, hb, ← hw.2.1, ← hw.2.2.1]
      exact combined_upper w now b
    · intro ha hb
      exact ⟨_, rfl, moduleSample_missed hservo hg ha hb⟩
    · rintro ⟨n, hn, ht, hnone⟩
      exact congrArg _ (moduleSample_waits hn ht hnone)
  case gate =>
    intro t m bit s
    have hready := gateReady_iff (s := advance t s) (k := m.toNat)
    rw [servoMod_advance, hasServo_advance, advance_gl] at hready
    refine ⟨fun h => ?_, fun h => ?_⟩
    · exact writeGateOpen_opens (hready.mpr h)
    · exact writeGateOpen_refused fun e => h (hready.mp e)
  case loss =>
    intro t cond s
    dsimp only
    refine ⟨fun hl hb => servoLossLimit_holds rfl (lossHolds_iff.mpr hl) hb, fun h => servoLossLimit_idle ?_⟩
    rintro ⟨hl, hb⟩
    exact h.elim (fun e => e (lossHolds_iff.mp hl)) hb

end Sys2Proof.Machine
end

section
/-!
Shroud lanes: what their cells do, the samples a front end has taken, and lanes that are lost and trained (R310 to R325).
Settles O48.
-/

namespace Sys2Proof.Machine
set_option Elab.async false

/-! ### The samples a front end has taken (R235 to R240) -/

theorem follow_n (f : FrontEnd) : (follow f).n = f.n := rfl

theorem frontPass_n (env : FrontEnv) (wrap : Nat) (free : Bool) (f : FrontEnd) : (frontPass env wrap free f).1.n = f.n := by
  unfold frontPass
  dsimp only
  split
  · split
    · rfl
    · split <;> rfl
  · split
    · rfl
    · split <;> rfl

theorem frontInstant_n (env : FrontEnv) (wrap : Nat) (free : Bool) (f : FrontEnd) :
    (frontInstant env wrap free f).1.n = f.n := by
  unfold frontInstant
  dsimp only
  split
  · rfl
  · rw [frontPass_n, follow_n]

theorem frontInstants_n (env : FrontEnv) (wrap : Nat) (free : Bool) (k : Nat) (f : FrontEnd) :
    (frontInstants env wrap free k f).1.n = f.n := by
  induction k generalizing f with
  | zero => rfl
  | succ k ih =>
    unfold frontInstants
    dsimp only
    split
    · rw [ih, frontInstant_n]
    · rfl

theorem frontSample_n (env : FrontEnv) (wrap : Nat) (free : Bool) (x : Int) (f : FrontEnd) :
    (frontSample env wrap free x f).1.n = f.n + 1 := by
  unfold frontSample
  exact frontInstants_n env wrap free 2 _

/-- Each sample counts one. -/
theorem frontSamples_n (env : FrontEnv) (wrap : Nat) (free : Bool) (xs : List Int) (f : FrontEnd) :
    (frontSamples env wrap free xs f).1.n = f.n + xs.length := by
  have loop (l : List Int) (a : FrontEnd × Bool) :
      (l.foldl (fun (a : FrontEnd × Bool) x => let (f, b) := frontSample env wrap free x a.1; (f, a.2 || b)) a).1.n
        = a.1.n + l.length := by
    induction l generalizing a with
    | nil => rfl
    | cons x r ih =>
      rw [List.foldl_cons, ih, List.length_cons]
      dsimp only
      rw [frontSample_n]
      omega
  exact loop xs (f, false)

/-- Channel `e` has a front end, which has taken `n` samples. -/
def FrontAt (e n : Nat) (s : State) : Prop := (∃ x ∈ s.rch.fronts, x.1 = e) ∧ ∀ x ∈ s.rch.fronts, x.1 = e → x.2.n = n

theorem FrontAt.congr {e n : Nat} {s u : State} (h : FrontAt e n s) (hf : u.rch.fronts = s.rch.fronts) : FrontAt e n u := by
  unfold FrontAt
  rw [hf]
  exact h

theorem FrontAt.taken {e n : Nat} {s : State} (h : FrontAt e n s) {f : FrontEnd} (hf : frontOf s e = some f) : f.n = n := by
  obtain ⟨x, hx, rfl⟩ := Option.map_eq_some_iff.mp hf
  have hxe := List.find?_some hx
  exact h.2 x (List.mem_of_find?_eq_some hx) (beq_iff_eq.mp hxe)

theorem FrontAt.front {e n : Nat} {s : State} (h : FrontAt e n s) : ∃ f, frontOf s e = some f ∧ f.n = n := by
  obtain ⟨x, hx, hxe⟩ := h.1
  have hsome : (s.rch.fronts.find? fun x => x.1 == e).isSome := List.find?_isSome.mpr ⟨x, hx, beq_iff_eq.mpr hxe⟩
  obtain ⟨y, hy⟩ := Option.isSome_iff_exists.mp hsome
  have hf : frontOf s e = some y.2 := by
    unfold frontOf
    rw [hy]
    rfl
  exact ⟨y.2, hf, h.taken hf⟩

theorem mem_setFront {e : Nat} {f : FrontEnd} {s : State} {x : Nat × FrontEnd} :
    x ∈ (setFront e f s).rch.fronts ↔ x = (e, f) ∨ (x ∈ s.rch.fronts ∧ x.1 ≠ e) := by
  unfold setFront
  rw [mem_insertBy, List.mem_filter, bne_iff_ne]

theorem frontAt_setFront (e : Nat) (f : FrontEnd) (s : State) : FrontAt e f.n (setFront e f s) := by
  refine ⟨⟨(e, f), mem_setFront.mpr (Or.inl rfl), rfl⟩, fun x hx hxe => ?_⟩
  obtain rfl | ⟨-, hne⟩ := mem_setFront.mp hx
  · rfl
  · exact absurd hxe hne

theorem FrontAt.set {e n : Nat} {s : State} (h : FrontAt e n s) {e' : Nat} {f' : FrontEnd} (hn : e' = e → f'.n = n) :
    FrontAt e n (setFront e' f' s) := by
  by_cases he : e' = e
  · have own := frontAt_setFront e' f' s
    rw [hn he, he] at own
    rw [he]
    exact own
  · obtain ⟨⟨x, hx, hxe⟩, hall⟩ := h
    refine ⟨⟨x, mem_setFront.mpr (Or.inr ⟨hx, fun k => he (k.symm.trans hxe)⟩), hxe⟩, fun y hy hye => ?_⟩
    obtain rfl | ⟨hy, -⟩ := mem_setFront.mp hy
    · exact absurd hye he
    · exact hall y hy hye

/-- A front end that goes on in a new form with the samples it had. -/
theorem FrontAt.update {e n : Nat} {s : State} (h : FrontAt e n s) {e' : Nat} {f : FrontEnd} (hf : frontOf s e' = some f)
    (f' : FrontEnd) (hn : f'.n = f.n) : FrontAt e n (setFront e' f' s) :=
  h.set fun k => hn.trans (h.taken (by rw [← k]; exact hf))

theorem FrontAt.forEach {α : Type} {e n : Nat} (l : List α) (op : α → State → State)
    (hop : ∀ a ∈ l, ∀ x, FrontAt e n x → FrontAt e n (op a x)) {s : State} (h : FrontAt e n s) :
    FrontAt e n (Machine.forEach l op s) := by
  induction l generalizing s with
  | nil => exact h
  | cons a r ih =>
    exact ih (fun b hb => hop b (List.mem_cons_of_mem a hb)) (hop a (List.mem_cons_self ..) s h)

theorem FrontAt.joinRun {e n : Nat} {s : State} (h : FrontAt e n s) (e' : Nat) : FrontAt e n (joinRun e' s) := by
  unfold Machine.joinRun
  split
  · exact h
  case h_2 f hf =>
    split
    · exact h.update hf _ rfl
    · exact (h.update hf { f with run := 0, los := true } rfl).congr rfl

theorem FrontAt.frameWins {e n : Nat} {s : State} (h : FrontAt e n s) (e' : Nat) (found alt : Bool) :
    FrontAt e n (frameWins e' found alt s) := by
  unfold Machine.frameWins
  extract_lets _ x
  have hx : FrontAt e n x := by
    unfold x
    split
    · exact h.congr rfl
    · exact h
  clear_value x
  split
  · exact hx
  case h_2 f hf =>
    split
    · exact hx.update hf _ rfl
    · exact hx

theorem FrontAt.frameLost {e n : Nat} {s : State} (h : FrontAt e n s) (e' : Nat) (found : Bool) :
    FrontAt e n (frameLost e' found s) := by
  have hx : FrontAt e n { s with rch := { s.rch with alt := bump16 s.rch.alt 16 } } := h.congr rfl
  unfold Machine.frameLost
  dsimp only
  split
  · exact hx.joinRun e'
  · exact hx

theorem frameDrop_fronts (job : FrameJob) (s : State) : (frameDrop job s).rch.fronts = s.rch.fronts := by
  unfold frameDrop
  dsimp only
  split
  · rfl
  · rw [(verifyFails_frame _ _ _).rch_eq]

theorem FrontAt.enqueue {e n : Nat} {s : State} (h : FrontAt e n s) (job : FrameJob) : FrontAt e n (enqueue job s) := by
  unfold Machine.enqueue
  dsimp only
  split
  · exact h.congr (frameDrop_fronts job s)
  · exact h.congr rfl

theorem FrontAt.frameTry {e n : Nat} {s : State} (h : FrontAt e n s) (job : FrameJob) : FrontAt e n (frameTry job s) := by
  unfold Machine.frameTry
  split
  · exact h.frameLost _ _
  · extract_lets hd x
    have hx : FrontAt e n x := by
      unfold x
      split
      · exact h
      case h_2 f hf =>
        split
        · exact h.update hf _ rfl
        · exact h
    clear_value x
    split
    · exact hx.frameWins _ _ _
    · exact hx.enqueue job

theorem FrontAt.fixTuple {e n : Nat} {s : State} (h : FrontAt e n s) (d : Nat) : FrontAt e n (fixTuple d s) := by
  unfold Machine.fixTuple
  extract_lets t held _ x y
  have hx : FrontAt e n x := h.congr rfl
  clear_value x
  have hy : FrontAt e n y := by
    unfold y
    clear_value t
    split
    · split
      · exact hx.congr (by rw [(blockSeen_frame _ _ _ _).rch_eq])
      · exact hx
    · exact hx
  exact FrontAt.forEach held _ (fun job _ z hz => hz.frameTry _) hy

theorem FrontAt.reportRowZero {e n : Nat} {s : State} (h : FrontAt e n s) (e' : Nat) (tuple : Option (Nat × Nat × Nat))
    (job : Option FrameJob) : FrontAt e n (reportRowZero e' tuple job s) := by
  unfold Machine.reportRowZero
  extract_lets d x _ y l _ z w
  have hx : FrontAt e n x := by
    unfold x
    split
    · exact h.fixTuple d
    · exact h
  clear_value x
  have hy : FrontAt e n y := by
    unfold y
    split
    · exact hx.congr rfl
    · exact hx
  have hw : FrontAt e n w := hy.congr rfl
  clear_value y w
  split
  · exact hw.fixTuple d
  · exact hw

theorem goOn_n (sep : Bool) (p row : Nat) (f : FrontEnd) : (goOn sep p row f).n = f.n := by
  unfold goOn frontNext
  rfl

theorem FrontAt.votePass {e n : Nat} {s : State} (h : FrontAt e n s) (m : Nat) : FrontAt e n (votePass m s) := by
  unfold Machine.votePass
  extract_lets votes sep followers back row x idle y
  have hx : FrontAt e n x := by
    refine FrontAt.forEach followers _ (fun a ha z hz => ?_) h
    obtain ⟨v, -, hv⟩ := List.mem_filterMap.mp ha
    obtain ⟨f, hf, rfl⟩ := Option.map_eq_some_iff.mp hv
    exact hz.set fun k => (goOn_n _ _ _ _).trans (h.taken (by rw [← k]; exact hf))
  clear_value x back
  have hy : FrontAt e n y := by
    refine FrontAt.forEach idle _ (fun a ha z hz => ?_) hx
    have hn : a.1 = e → a.2.n = n := hx.2 a (List.mem_filter.mp ha).1
    split
    · exact hz
    · split
      · exact hz.set fun k => (goOn_n _ _ _ _).trans (hn k)
      · exact hz
  split
  · exact h
  · exact hy.congr rfl

theorem FrontAt.castVote {e n : Nat} {s : State} (h : FrontAt e n s) (v : Vote) : FrontAt e n (castVote v s) := by
  unfold Machine.castVote
  refine FrontAt.votePass ?_ _
  exact h.congr rfl

theorem frontNext_n (f : FrontEnd) (q row edge : Nat) : (frontNext f q row edge).n = f.n := by
  unfold frontNext
  rfl

theorem withLast_n (f : FrontEnd) (p : Option Nat) : ({ f with last := p } : FrontEnd).n = f.n := rfl

theorem FrontAt.verifyFrame {e n : Nat} {s : State} (h : FrontAt e n s) {e' : Nat} {f : FrontEnd}
    (hf : frontOf s e' = some f) : FrontAt e n (verifyFrame e' f s) := by
  unfold Machine.verifyFrame
  extract_lets trials _ x
  have hx : FrontAt e n x := h.update hf _ ((withLast_n _ none).trans (frontNext_n f 0 0 (f.pred + 9648)))
  clear_value x
  split
  · exact hx
  · split
    · exact hx
    · exact hx.enqueue _

theorem FrontAt.frameEnds {e n : Nat} {s : State} (h : FrontAt e n s) {e' : Nat} {f : FrontEnd}
    (hf : frontOf s e' = some f) : FrontAt e n (frameEnds e' f s) := by
  unfold Machine.frameEnds
  extract_lets trials x own tuple job fits p f' y coasted _ z w
  have hx : x.rch = s.rch := by
    unfold x
    clear_value trials
    split <;> rfl
  have hy : FrontAt e n y := by
    refine (h.congr (by rw [hx])).set fun k => ?_
    rw [k] at hf
    change f.n = n
    exact h.taken hf
  clear_value y
  have hz : FrontAt e n z := by
    unfold z
    split
    · refine FrontAt.joinRun ?_ e'
      exact hy.congr rfl
    · exact hy
  clear_value z
  refine FrontAt.castVote ?_ _
  unfold w
  split
  · exact hz.reportRowZero _ _ _
  · split
    · exact hz
    · exact hz.frameTry _

theorem FrontAt.frontChecks {e n : Nat} {s : State} (h : FrontAt e n s) (e' : Nat) : FrontAt e n (frontChecks e' s) := by
  unfold Machine.frontChecks
  split
  · exact h
  case h_2 f hf =>
    split
    · exact h
    · split
      · split
        · exact h.verifyFrame hf
        · exact h
      · split
        · exact h.frameEnds hf
        · exact h

theorem FrontAt.refinePass {e n : Nat} {s : State} (h : FrontAt e n s) (e' : Nat) : FrontAt e n (refinePass e' s) := by
  unfold Machine.refinePass
  refine FrontAt.forEach _ _ (fun a _ z hz => ?_) h
  extract_lets _ x
  have hx : FrontAt e n x := hz.congr rfl
  clear_value x
  split
  · exact hx
  · have hr := refined_rch a.2 (workingEntry x e' (a.1 % 16)) x
    generalize refined a.2 (workingEntry x e' (a.1 % 16)) x = p at hr ⊢
    exact hx.congr (congrArg ReadCh.fronts hr :)

/-! ### Cells of a lane (R310, R313, R314, R320) -/

/-- The samples that the front end of channel `e` has taken; it starts with the index of its first cell. -/
def samplesSoFar (s : State) (e idx : Nat) : Nat := match frontOf s e with | some g => g.n | none => idx

/-- The samples missing between the `n` taken and index `idx`, which counts modulo 2^22. -/
def missing (idx n : Nat) : Nat := (idx + 2 ^ 22 - n % 2 ^ 22) % 2 ^ 22

/-- The front end that the samples of a cell enter. -/
def frontStart (s : State) (e idx : Nat) : FrontEnd := match frontOf s e with | some f => f | none => frontNew (frontEnv s e) idx

theorem frontStart_n (s : State) (e idx : Nat) : (frontStart s e idx).n = samplesSoFar s e idx := by
  unfold frontStart samplesSoFar
  cases frontOf s e <;> rfl

/-- The front end of channel `e` with the samples of a cell in it. -/
def samplesTakenIn (e idx : Nat) (xs : List Int) (s : State) : FrontEnd × Bool :=
  frontSamples (frontEnv s e) s.sv.wrap (freeFrames s)
    (List.replicate (missing idx (frontStart s e idx).n) 0 ++ xs) (frontStart s e idx)

theorem samplesTakenIn_n (e idx : Nat) (xs : List Int) (s : State) :
    (samplesTakenIn e idx xs s).1.n = samplesSoFar s e idx + missing idx (samplesSoFar s e idx) + xs.length := by
  unfold samplesTakenIn
  rw [frontSamples_n, List.length_append, List.length_replicate, frontStart_n, Nat.add_assoc]

theorem frontCell_eq (e idx : Nat) (xs : List Int) (s : State) : frontCell e idx xs s =
    let r := samplesTakenIn e idx xs s
    refinePass e (votePass (e / 128) (frontChecks e
      (if r.2 then headerSeen 144 (setFront e r.1 s) else setFront e r.1 s))) := rfl

/-- A cell of samples moves its channel's front end on by the samples and those that are missing before them. -/
theorem frontCell_taken (e idx : Nat) (xs : List Int) (s : State) : ∃ f, frontOf (frontCell e idx xs s) e = some f
    ∧ f.n = samplesSoFar s e idx + missing idx (samplesSoFar s e idx) + xs.length := by
  rw [frontCell_eq, ← samplesTakenIn_n]
  dsimp only
  generalize samplesTakenIn e idx xs s = r
  have hset : FrontAt e r.1.n (setFront e r.1 s) := frontAt_setFront e r.1 s
  have hseen : FrontAt e r.1.n (if r.2 then headerSeen 144 (setFront e r.1 s) else setFront e r.1 s) := by
    split
    · exact hset.congr rfl
    · exact hset
  exact (((hseen.frontChecks e).votePass (e / 128)).refinePass e).front

theorem tagOf_stale {s : State} {l : Nat} {session : BitVec 12} (h : ∀ x ∈ (laneOf s l).hist, x.1 ≠ session) (i : Nat) :
    tagOf s l session i = none := by
  have hnone : (laneOf s l).hist.find? (fun x => x.1 == session) = none :=
    List.find?_eq_none.mpr fun x hx k => h x hx (beq_iff_eq.mp k)
  unfold tagOf
  rw [hnone]

theorem laneDelivers_down {s : State} {l : Nat} (h : (laneOf s l).st ≠ .up) : laneDelivers s l = false := decide_eq_false h

section
variable {t : Time} {lane : BitVec 4} {session : BitVec 12} {cell : BitVec 512} {s : State}

theorem cells_of_lane_down (h : (laneOf s lane.toNat).st ≠ .up) :
    exec (.readSampleCell t lane session cell) s = .next (advance t s)
      ∧ exec (.servoSampleCell t lane session cell) s = .next (advance t s)
      ∧ exec (.headStatusCell t lane session cell) s = .next (advance t s) := by
  have hdel : (!laneDelivers (advance t s) lane.toNat) = true := by
    rw [laneDelivers_advance, laneDelivers_down h]
    rfl
  exact ⟨if_pos hdel, if_pos hdel, if_pos hdel⟩

theorem cells_of_old_session (hup : (laneOf s lane.toNat).st = .up) (h : ∀ x ∈ (laneOf s lane.toNat).hist, x.1 ≠ session) :
    let u := setLane lane.toNat { laneOf s lane.toNat with stale := satInc (laneOf s lane.toNat).stale } (advance t s)
    exec (.readSampleCell t lane session cell) s = .next u ∧ exec (.servoSampleCell t lane session cell) s = .next u
      ∧ exec (.headStatusCell t lane session cell) s = .next u := by
  have hdel : ¬(!laneDelivers (advance t s) lane.toNat) = true := by
    rw [laneDelivers_advance, laneDelivers_up hup]
    decide
  have htag (i : Nat) : tagOf (advance t s) lane.toNat session i = none := (tagOf_advance t s _ _ i).trans (tagOf_stale h i)
  have hstale : laneStale lane.toNat (advance t s)
      = setLane lane.toNat { laneOf s lane.toNat with stale := satInc (laneOf s lane.toNat).stale } (advance t s) := by
    unfold laneStale
    rw [laneOf_advance]
  dsimp only
  rw [← hstale]
  refine ⟨(if_neg hdel).trans ?_, (if_neg hdel).trans ?_, (if_neg hdel).trans ?_⟩
  · rw [htag]
  · rw [htag]
  · rw [htag]

/-- The 60 bytes of a head status cell enter the record of its lane (R320). -/
def statusTaken (l o : Nat) (cell : BitVec 512) (s : State) : State :=
  forEach (List.range 60) (fun i s =>
    if 2048 ≤ o + i then s
    else { s with lk := { s.lk with status := tabSet 0 s.lk.status (2048 * l + o + i) (BitVec.ofNat 8 (bits cell (472 - 8 * i) 8)) } }) s

theorem headStatusCell_eq {tag : BitVec 16} (hup : (laneOf s lane.toNat).st = .up)
    (htag : tagOf s lane.toNat session (1188 + lane.toNat) = some tag) (htype : cellType cell = 3)
    (hacc : itemAccepted s (1188 + lane.toNat) tag = true) :
    exec (.headStatusCell t lane session cell) s
      = .next (statusTaken lane.toNat (60 * cellField cell 16 12) cell (advance t s)) := by
  change execHeadStatusCell t lane session cell s = _
  unfold execHeadStatusCell
  simp only [laneDelivers_advance, laneDelivers_up hup, tagOf_advance, htag, htype, itemAccepted_advance, hacc, Bool.not_true,
    Bool.false_eq_true, if_false, ne_eq, not_true_eq_false]
  rfl

end

theorem statusTaken_parts (l o : Nat) (cell : BitVec 512) (s : State) :
    (statusTaken l o cell s).lk.lanes = s.lk.lanes ∧ (statusTaken l o cell s).lk.heads = s.lk.heads
      ∧ ∀ k, tabGet 0 (statusTaken l o cell s).lk.status k = if 2048 * l + o ≤ k ∧ k < 2048 * l + min 2048 (o + 60)
        then BitVec.ofNat 8 (bits cell (472 - 8 * (k - (2048 * l + o))) 8) else tabGet 0 s.lk.status k := by
  unfold statusTaken
  suffices loop : ∀ n, let u := forEach (List.range n) (fun i s =>
      if 2048 ≤ o + i then s
      else { s with lk := { s.lk with status := tabSet 0 s.lk.status (2048 * l + o + i) (BitVec.ofNat 8 (bits cell (472 - 8 * i) 8)) } }) s
      u.lk.lanes = s.lk.lanes ∧ u.lk.heads = s.lk.heads
        ∧ ∀ k, tabGet 0 u.lk.status k = if 2048 * l + o ≤ k ∧ k < 2048 * l + min 2048 (o + n)
          then BitVec.ofNat 8 (bits cell (472 - 8 * (k - (2048 * l + o))) 8) else tabGet 0 s.lk.status k from loop 60
  intro n
  induction n with
  | zero =>
    refine ⟨rfl, rfl, fun k => ?_⟩
    rw [if_neg (by omega)]
    rfl
  | succ n ih =>
    dsimp only at ih ⊢
    rw [forEach_range_succ]
    generalize forEach (List.range n) _ s = x at ih ⊢
    obtain ⟨hlanes, hheads, hstatus⟩ := ih
    split
    case isTrue hover =>
      refine ⟨hlanes, hheads, fun k => ?_⟩
      rw [hstatus, Nat.min_eq_left (by omega), Nat.min_eq_left (by omega)]
    case isFalse hin =>
      refine ⟨hlanes, hheads, fun k => ?_⟩
      dsimp only
      by_cases hk : k = 2048 * l + o + n
      · rw [hk, tabGet_tabSet_same, if_pos (by omega), Nat.add_sub_cancel_left]
      · rw [tabGet_tabSet_other _ _ _ hk, hstatus]
        refine ite_congr (propext ?_) (fun _ => rfl) fun _ => rfl
        omega

section
variable {t : Time} {lane : BitVec 4} {session : BitVec 12} {cell : BitVec 512} {s : State} {tag : BitVec 16} {e : Nat}
variable (hup : (laneOf s lane.toNat).st = .up) (he : e = 64 * lane.toNat + cellField cell 22 6)
  (htag : tagOf s lane.toNat session e = some tag) (htype : cellType cell = 1)
include hup he htag htype

theorem readSampleCell_taken (hacc : itemAccepted s e tag = true) (hst : (crewOf s e).st = .active) (hrun : frontRuns s = true) :
    exec (.readSampleCell t lane session cell) s
      = .next (frontCell e (cellField cell 0 22) ((List.range 80).map (cellSample cell 6)) (advance t s)) := by
  subst he
  have hrun' : frontRuns (advance t s) = true := by
    rw [← hrun]
    unfold frontRuns tracking
    rw [cur_advance, funext (readerTracks_advance t s)]
  change execReadSampleCell t lane session cell s = _
  unfold execReadSampleCell
  simp only [laneDelivers_advance, laneDelivers_up hup, tagOf_advance, htag, htype, itemAccepted_advance, hacc, crewOf_advance,
    hst, hrun', Bool.not_true, Bool.false_eq_true, if_false, ne_eq, not_true_eq_false, decide_false, Bool.or_self]

theorem readSampleCell_stale (h : itemAccepted s e tag = false ∨ (crewOf s e).st ≠ .active) :
    exec (.readSampleCell t lane session cell) s = .next (dropFront e (countStaleN e 80 (advance t s))) := by
  subst he
  have hstale : (!itemAccepted s (64 * lane.toNat + cellField cell 22 6) tag
      || decide ((crewOf s (64 * lane.toNat + cellField cell 22 6)).st ≠ .active)) = true := by
    rw [Bool.or_eq_true_iff, decide_eq_true_iff, Bool.not_eq_true']
    exact h
  change execReadSampleCell t lane session cell s = _
  unfold execReadSampleCell
  simp only [laneDelivers_advance, laneDelivers_up hup, tagOf_advance, htag, htype, itemAccepted_advance, crewOf_advance,
    hstale, Bool.not_true, Bool.false_eq_true, if_false, ne_eq, not_true_eq_false, if_true]

end

theorem dropFront_none (e : Nat) (s : State) : frontOf (dropFront e s) e = none := by
  have hnone : (s.rch.fronts.filter fun x => x.1 != e).find? (fun x => x.1 == e) = none :=
    List.find?_eq_none.mpr fun x hx k => bne_iff_ne.mp (List.mem_filter.mp hx).2 (beq_iff_eq.mp k)
  unfold frontOf dropFront
  rw [hnone]
  rfl

/-! ### Lanes that are lost and trained (R321 to R324) -/

theorem laneOf_congr {s u : State} (h : u.lk.lanes = s.lk.lanes) (l : Nat) : laneOf u l = laneOf s l := by
  unfold laneOf
  rw [h]

theorem headOf_congr {s u : State} (h : u.lk.heads = s.lk.heads) (m : Nat) : headOf u m = headOf s m := by
  unfold headOf
  rw [h]

/-- New sessions leave the lanes' states, and all of the heads (R319). -/
structure LanesKept (s u : State) : Prop where
  st : ∀ l, (laneOf u l).st = (laneOf s l).st
  phase : ∀ l, (laneOf u l).phase = (laneOf s l).phase
  losses : ∀ l, (laneOf u l).losses = (laneOf s l).losses
  heads : u.lk.heads = s.lk.heads

theorem LanesKept.refl (s : State) : LanesKept s s := ⟨fun _ => rfl, fun _ => rfl, fun _ => rfl, rfl⟩

theorem LanesKept.of_lk {s u : State} (h : u.lk = s.lk) : LanesKept s u := by
  have lane (l : Nat) : laneOf u l = laneOf s l := laneOf_congr (by rw [h]) l
  exact ⟨fun l => by rw [lane], fun l => by rw [lane], fun l => by rw [lane], by rw [h]⟩

theorem LanesKept.trans {s x u : State} (h : LanesKept s x) (k : LanesKept x u) : LanesKept s u :=
  ⟨fun l => (k.st l).trans (h.st l), fun l => (k.phase l).trans (h.phase l), fun l => (k.losses l).trans (h.losses l),
    k.heads.trans h.heads⟩

theorem sessionAdvance_lanesKept (l : Nat) (s : State) : LanesKept s (sessionAdvance l s) := by
  have lane (j : Nat) : ∃ n hist, laneOf (sessionAdvance l s) j = { laneOf s j with session := n, hist := hist } := by
    by_cases h : j = l
    · subst h
      exact ⟨_, _, laneOf_setLane _ _ _⟩
    · exact ⟨_, _, laneOf_setLane_other _ _ _ h⟩
  refine ⟨fun j => ?_, fun j => ?_, fun j => ?_, rfl⟩
  · obtain ⟨n, hist, e⟩ := lane j
    rw [e]
  · obtain ⟨n, hist, e⟩ := lane j
    rw [e]
  · obtain ⟨n, hist, e⟩ := lane j
    rw [e]

theorem bumpEpochs_lanesKept (units : List Nat) (s : State) : LanesKept s (bumpEpochs units s) := by
  unfold bumpEpochs
  extract_lets x _ y
  have hx : x.lk = s.lk := by
    unfold x
    refine forEach_keeps (fun z => z.lk) units _ ?_ s
    intro a z
    rfl
  have hy : LanesKept s y := LanesKept.of_lk hx
  clear_value x y
  exact forEach_holds (fun z => LanesKept s z) _ _ (fun l z hz => hz.trans (sessionAdvance_lanesKept l z)) hy

/-- The changes that are not already so. -/
def realChanges (s : State) (changes : List (Nat × CrewSt)) : List (Nat × CrewSt) :=
  changes.filter fun (i, st) => decide ((crewOf s i).st ≠ st)

/-- The roster and its MRAM copy take some changes of STATE, before any new epoch (R43). -/
def rosterTakes (changes : List (Nat × CrewSt)) (cause : Nat) (s : State) : State :=
  forEach changes (fun (i, st) s =>
    let c := crewOf s i
    let c' : Crew :=
      { c with
        st := st, slept := if st = .sleeping then c.st else .active,
        cause := if st = .benched then BitVec.ofNat 4 cause else 0 }
    let s := setCrew i c' s
    { s with crew := { s.crew with stored := tabSet crewZero s.crew.stored i (storedCrew c') } }) s

/-- Changes of STATE in one event: the roster, then new epochs; what reports them touches neither. -/
theorem unitsChange_parts (changes : List (Nat × CrewSt)) (cause : Nat) (bump : List Nat) (s : State) :
    let x := bumpEpochs ((realChanges s changes).map Prod.fst ++ bump) (rosterTakes (realChanges s changes) cause s)
    (unitsChange changes cause bump s).crew = x.crew ∧ (unitsChange changes cause bump s).lk = x.lk := by
  unfold unitsChange
  change (forEach _ _ (bumpEpochs ((realChanges s changes).map Prod.fst ++ bump) (rosterTakes (realChanges s changes) cause s))).crew
      = (bumpEpochs ((realChanges s changes).map Prod.fst ++ bump) (rosterTakes (realChanges s changes) cause s)).crew
    ∧ (forEach _ _ (bumpEpochs ((realChanges s changes).map Prod.fst ++ bump) (rosterTakes (realChanges s changes) cause s))).lk
      = (bumpEpochs ((realChanges s changes).map Prod.fst ++ bump) (rosterTakes (realChanges s changes) cause s)).lk
  generalize bumpEpochs ((realChanges s changes).map Prod.fst ++ bump) (rosterTakes (realChanges s changes) cause s) = y
  constructor
  · refine forEach_keeps (fun z => z.crew) _ _ (fun a z => ?_) y
    dsimp only
    rw [(pulseInternal_frame _ _).crew_eq, (event_frame _ _ _ _ _).crew_eq]
  · refine forEach_keeps (fun z => z.lk) _ _ (fun a z => ?_) y
    dsimp only
    rw [(pulseInternal_frame _ _).lk_eq, (event_frame _ _ _ _ _).lk_eq]

theorem rosterTakes_lk (changes : List (Nat × CrewSt)) (cause : Nat) (s : State) : (rosterTakes changes cause s).lk = s.lk := by
  refine forEach_keeps (fun z => z.lk) changes _ ?_ s
  intro a z
  rfl

theorem unitsChange_lanesKept (changes : List (Nat × CrewSt)) (cause : Nat) (bump : List Nat) (s : State) :
    LanesKept s (unitsChange changes cause bump s) :=
  ((LanesKept.of_lk (rosterTakes_lk _ cause s)).trans (bumpEpochs_lanesKept _ _)).trans
    (.of_lk (unitsChange_parts changes cause bump s).2)

theorem rosterTakes_cons (a : Nat × CrewSt) (l : List (Nat × CrewSt)) (cause : Nat) (s : State) :
    rosterTakes (a :: l) cause s = rosterTakes l cause (rosterTakes [a] cause s) := rfl

/-- One unit takes a STATE; every other unit stays. -/
theorem rosterTakes_one (i : Nat) (st : CrewSt) (cause : Nat) (s : State) :
    (crewOf (rosterTakes [(i, st)] cause s) i).st = st
      ∧ (crewOf (rosterTakes [(i, st)] cause s) i).epoch = (crewOf s i).epoch
      ∧ ∀ j, j ≠ i → crewOf (rosterTakes [(i, st)] cause s) j = crewOf s j := by
  have roster (v : Crew) (x : State) (h : x.crew.roster = (setCrew i v s).crew.roster) (j : Nat) :
      crewOf x j = crewOf (setCrew i v s) j := crewOf_congr h j
  refine ⟨?_, ?_, fun j hj => ?_⟩
  · exact (congrArg Crew.st ((roster _ _ rfl i).trans (crewOf_setCrew _ _ _)) :)
  · exact (congrArg Crew.epoch ((roster _ _ rfl i).trans (crewOf_setCrew _ _ _)) :)
  · exact (roster _ _ rfl j).trans (crewOf_setCrew_other _ _ _ hj)

/-- A unit that every change of it gives one STATE has that STATE where a change names it. -/
theorem rosterTakes_st {i : Nat} {st : CrewSt} (l : List (Nat × CrewSt)) (h : ∀ p ∈ l, p.1 = i → p.2 = st) (cause : Nat) (s : State)
    (hs : (∃ p ∈ l, p.1 = i) ∨ (crewOf s i).st = st) : (crewOf (rosterTakes l cause s) i).st = st := by
  induction l generalizing s with
  | nil => exact hs.resolve_left (by rintro ⟨p, hp, -⟩; exact absurd hp List.not_mem_nil)
  | cons a r ih =>
    obtain ⟨j, t⟩ := a
    rw [rosterTakes_cons]
    obtain ⟨own, -, others⟩ := rosterTakes_one j t cause s
    refine ih (fun p hp => h p (List.mem_cons_of_mem _ hp)) _ ?_
    by_cases hj : j = i
    · right
      rw [← hj, own]
      exact h (j, t) (List.mem_cons_self ..) hj
    · obtain ⟨p, hp, hpi⟩ | hst := hs
      · obtain rfl | hp := List.mem_cons.mp hp
        · exact absurd hpi hj
        · exact Or.inl ⟨p, hp, hpi⟩
      · right
        rw [others i (Ne.symm hj)]
        exact hst

theorem unitsChange_st {i : Nat} {st : CrewSt} {changes : List (Nat × CrewSt)} (h : ∀ p ∈ changes, p.1 = i → p.2 = st)
    (hi : ∃ p ∈ changes, p.1 = i) (cause : Nat) (bump : List Nat) (s : State) :
    (crewOf (unitsChange changes cause bump s) i).st = st := by
  rw [crewOf_congr (congrArg CrewBlock.roster (unitsChange_parts changes cause bump s).1), (bumpEpochs_keeps _ _).1]
  refine rosterTakes_st _ (fun p hp => h p (List.mem_filter.mp hp).1) cause s ?_
  by_cases hst : (crewOf s i).st = st
  · exact Or.inr hst
  · obtain ⟨⟨j, t⟩, hp, rfl⟩ := hi
    have ht : t = st := h (j, t) hp rfl
    exact Or.inl ⟨(j, t), List.mem_filter.mpr ⟨hp, decide_eq_true (by rw [ht]; exact hst)⟩, rfl⟩

/-- A new epoch of one unit of a lane is a new session of the lane (R44, R319). -/
theorem bumpEpochs_one {i l : Nat} (h : laneOfUnit i = some l) (s : State) :
    (laneOf (bumpEpochs [i] s) l).session = (laneOf s l).session + 1
      ∧ (crewOf (bumpEpochs [i] s) i).epoch = (crewOf s i).epoch + 1 := by
  have hlanes : ([i].filterMap laneOfUnit).eraseDups = [l] := by
    rw [List.filterMap_cons_some h, List.filterMap_nil]
    rfl
  unfold bumpEpochs
  rw [hlanes, forEach_cons, forEach_nil, forEach_cons, forEach_nil]
  dsimp only
  unfold sessionAdvance
  dsimp only
  constructor
  · exact (congrArg Lane.session (laneOf_setLane l _ _) :)
  · exact (congrArg Crew.epoch (crewOf_setCrew i _ s) :)

/-- A lane that takes another STATE takes a new epoch, and with it a new session (R43, R319). -/
theorem setUnitState_session {l : Nat} (hl : l < 16) {st : CrewSt} {s : State} (h : (crewOf s (1188 + l)).st ≠ st) (cause : Nat) :
    (laneOf (setUnitState (1188 + l) st cause s) l).session = (laneOf s l).session + 1
      ∧ (crewOf (setUnitState (1188 + l) st cause s) (1188 + l)).epoch = (crewOf s (1188 + l)).epoch + 1 := by
  have hreal : realChanges s [(1188 + l, st)] = [(1188 + l, st)] := List.filter_eq_self.2 (by simpa using h)
  have hparts := unitsChange_parts [(1188 + l, st)] cause [] s
  rw [hreal] at hparts
  obtain ⟨hcrew, hlk⟩ := hparts
  have hlane : laneOfUnit (1188 + l) = some l := by
    unfold laneOfUnit
    simp [show ¬(1188 + l < 1024) by omega, show 1188 + l < 1204 by omega]
  change (laneOf (unitsChange [(1188 + l, st)] cause [] s) l).session = _
    ∧ (crewOf (unitsChange [(1188 + l, st)] cause [] s) (1188 + l)).epoch = _
  rw [laneOf_congr (congrArg _ hlk), crewOf_congr (congrArg _ hcrew)]
  obtain ⟨-, hepoch, -⟩ := rosterTakes_one (1188 + l) st cause s
  have hsession : laneOf (rosterTakes [(1188 + l, st)] cause s) l = laneOf s l := laneOf_congr (by rw [rosterTakes_lk]) l
  obtain ⟨hses, hep⟩ := bumpEpochs_one hlane (rosterTakes [(1188 + l, st)] cause s)
  exact ⟨hses.trans (by rw [hsession]), hep.trans (by rw [hepoch])⟩

/-- Copies of a lost lane fail and do not count (R325). -/
theorem laneDooms_copies {l : Nat} {s : State} {c : Copy} (hc : c ∈ (laneDooms l s).wr.copies) (hl : c.elem / 64 = l) :
    c.doomed = true ∧ c.counts = false := by
  obtain ⟨d, -, rfl⟩ := List.mem_map.mp hc
  by_cases hd : d.elem / 64 = l
  · rw [if_pos hd]
    exact ⟨rfl, rfl⟩
  · rw [if_neg hd] at hl
    exact absurd hl hd

theorem laneDooms_parts (l : Nat) (s : State) : (laneDooms l s).lk = s.lk ∧ (laneDooms l s).crew = s.crew := ⟨rfl, rfl⟩

/-- A benched lane is DOWN, with CAUSE 5, and reports it (R324). -/
theorem laneBench_parts (l : Nat) (s : State) :
    (laneOf (laneBench l s) l).st = .down ∧ (laneOf (laneBench l s) l).losses = (laneOf s l).losses
      ∧ (crewOf (laneBench l s) (1188 + l)).st = .benched
      ∧ ((crewOf s (1188 + l)).st ≠ .benched → (crewOf (laneBench l s) (1188 + l)).cause = 5)
      ∧ (laneBench l s).wr = s.wr := by
  unfold laneBench
  extract_lets _ x
  have hst : (laneOf x l).st = .down := by
    unfold x
    rw [laneOf_setLane]
  have hlosses : (laneOf x l).losses = (laneOf s l).losses := by
    unfold x
    rw [laneOf_setLane]
  have hcrew : crewOf x (1188 + l) = crewOf s (1188 + l) := rfl
  have hwr : x.wr = s.wr := rfl
  clear_value x
  have kept := unitsChange_lanesKept [(1188 + l, CrewSt.benched)] 5 [] x
  have hend : (headEvent (l / 2) 32 (setUnitState (1188 + l) .benched 5 x)).lk = (setUnitState (1188 + l) .benched 5 x).lk
      ∧ (headEvent (l / 2) 32 (setUnitState (1188 + l) .benched 5 x)).crew = (setUnitState (1188 + l) .benched 5 x).crew
      ∧ (headEvent (l / 2) 32 (setUnitState (1188 + l) .benched 5 x)).wr = (setUnitState (1188 + l) .benched 5 x).wr :=
    ⟨(event_frame _ _ _ _ _).lk_eq, (event_frame _ _ _ _ _).crew_eq, (event_frame _ _ _ _ _).wr_eq⟩
  obtain ⟨elk, ecrew, ewr⟩ := hend
  rw [laneOf_congr (congrArg _ elk), crewOf_congr (congrArg _ ecrew), ewr, (setUnitState_frame _ _ _ _).wr_eq]
  refine ⟨(kept.st l).trans hst, (kept.losses l).trans hlosses, setUnitState_st_same _ _ _ _, fun h => ?_, hwr⟩
  exact setUnitState_benched_cause (by rw [hcrew]; exact h) 5

/-- The state of a lane whose loss counts. -/
def laneLost (l : Nat) (s : State) : State :=
  laneDooms l (setLane l { laneOf s l with st := .lost, losses := (laneOf s l).losses + 1 } s)

theorem laneLost_parts (l : Nat) (s : State) :
    (laneOf (laneLost l s) l).losses = (laneOf s l).losses + 1 ∧ (laneOf (laneLost l s) l).session = (laneOf s l).session
      ∧ (laneLost l s).crew = s.crew ∧ (∀ c ∈ (laneLost l s).wr.copies, c.elem / 64 = l → c.doomed = true ∧ c.counts = false) := by
  have hlane : laneOf (laneLost l s) l = { laneOf s l with st := .lost, losses := (laneOf s l).losses + 1 } :=
    laneOf_setLane l _ s
  refine ⟨by rw [hlane], by rw [hlane], rfl, fun c hc hl => laneDooms_copies hc hl⟩

theorem laneLoss_eq {t : Time} {lane : BitVec 4} {s : State} (h : (laneOf s lane.toNat).st = .up) :
    exec (.laneLoss t lane) s = .next (if bits s.lk.ctl 0 4 < (laneOf s lane.toNat).losses + 1
      then laneBench lane.toNat (laneLost lane.toNat (advance t s))
      else laneTrain lane.toNat (setUnitState (1188 + lane.toNat) .sleeping 0 (laneLost lane.toNat (advance t s)))) := by
  change execLaneLoss t lane s = _
  unfold execLaneLoss
  dsimp only
  rw [if_neg (by rw [laneOf_advance, h]; decide), ← laneOf_advance t s, ← advance_lk t s]
  generalize advance t s = x
  change (if bits x.lk.ctl 0 4 < _ then _ else _) = _
  split <;> rfl

/-- A lost lane within RETRY sleeps and trains anew, under a new session where it was active (R324). -/
theorem laneRetrains (l : Nat) (hl : l < 16) (s : State) :
    let u := laneTrain l (setUnitState (1188 + l) .sleeping 0 (laneLost l s))
    (laneOf u l).st = .training ∧ (laneOf u l).phase = 1 ∧ (laneOf u l).losses = (laneOf s l).losses + 1
      ∧ (crewOf u (1188 + l)).st = .sleeping
      ∧ ((crewOf s (1188 + l)).st = .active → (laneOf u l).session = (laneOf s l).session + 1
        ∧ (crewOf u (1188 + l)).epoch = (crewOf s (1188 + l)).epoch + 1)
      ∧ u.wr = (laneLost l s).wr := by
  obtain ⟨hlosses, hsession, hcrew, -⟩ := laneLost_parts l s
  generalize laneLost l s = x at hlosses hsession hcrew ⊢
  have kept := unitsChange_lanesKept [(1188 + l, CrewSt.sleeping)] 0 [] x
  have hst := setUnitState_st_same (1188 + l) .sleeping 0 x
  have hwr : (setUnitState (1188 + l) .sleeping 0 x).wr = x.wr := (setUnitState_frame _ _ _ _).wr_eq
  have hroster : crewOf x (1188 + l) = crewOf s (1188 + l) := crewOf_congr (by rw [hcrew]) _
  have hnew : (crewOf s (1188 + l)).st = .active → _ := fun h =>
    setUnitState_session hl (st := .sleeping) (s := x) (by rw [hroster, h]; decide) 0
  change LanesKept x (setUnitState (1188 + l) .sleeping 0 x) at kept
  generalize setUnitState (1188 + l) .sleeping 0 x = y at kept hst hwr hnew ⊢
  have hlane : laneOf (laneTrain l y) l = { laneOf y l with st := .training, phase := 1 } := laneOf_setLane l _ y
  have hroster' : crewOf (laneTrain l y) (1188 + l) = crewOf y (1188 + l) := rfl
  dsimp only
  rw [hlane, hroster']
  refine ⟨rfl, rfl, (kept.losses l).trans hlosses, hst, fun h => ?_, hwr⟩
  obtain ⟨hs, he⟩ := hnew h
  exact ⟨hs.trans (by rw [hsession]), he.trans (by rw [hroster])⟩

/-- A lane lost once too often is benched with CAUSE 5 (R324). -/
theorem laneLost_benched (l : Nat) (s : State) :
    let u := laneBench l (laneLost l s)
    (laneOf u l).st = .down ∧ (laneOf u l).losses = (laneOf s l).losses + 1 ∧ (crewOf u (1188 + l)).st = .benched
      ∧ ((crewOf s (1188 + l)).st ≠ .benched → (crewOf u (1188 + l)).cause = 5) ∧ u.wr = (laneLost l s).wr := by
  obtain ⟨hlosses, -, hcrew, -⟩ := laneLost_parts l s
  have hroster : crewOf (laneLost l s) (1188 + l) = crewOf s (1188 + l) := crewOf_congr (by rw [hcrew]) _
  rw [← hlosses, ← hroster]
  exact laneBench_parts l (laneLost l s)

/-! ### Training (R321, R322) -/

theorem laneTrainingDone_idle {t : Time} {lane : BitVec 4} {ok : Bool} {lower upper : List Byte} {s : State}
    (h : (laneOf s lane.toNat).st ≠ .training) : exec (.laneTrainingDone t lane ok lower upper) s = .next (advance t s) :=
  if_pos (by rw [laneOf_advance]; exact h)

theorem laneTrainingDone_failed {t : Time} {lane : BitVec 4} {lower upper : List Byte} {s : State}
    (h : (laneOf s lane.toNat).st = .training) :
    exec (.laneTrainingDone t lane false lower upper) s = .next (laneBench lane.toNat (advance t s)) :=
  (if_neg (by rw [laneOf_advance, h]; decide)).trans (if_pos rfl)

theorem laneTrainingDone_trained {t : Time} {lane : BitVec 4} {lower upper : List Byte} {s : State}
    (h : (laneOf s lane.toNat).st = .training) :
    exec (.laneTrainingDone t lane true lower upper) s = .next
      (let r := trainedRecord (advance t s) lane.toNat lower upper
       let x := headFound (lane.toNat / 2) r (advance t s)
       if r.isNone then x else readerFresh lane.toNat (laneUp lane.toNat x)) :=
  (if_neg (by rw [laneOf_advance, h]; decide)).trans (if_neg (by decide))

/-- One record on both lanes is the module's where it is valid. -/
theorem trainedRecord_same (s : State) (l : Nat) (r : List Byte) :
    trainedRecord s l r r = if recordOk r = true then some (r.take 1044) else none := by
  unfold trainedRecord
  dsimp only
  rw [ite_self]
  unfold recordOf
  split <;> simp

/-- Head and lanes of a module whose serial differs from the stored one. -/
theorem serialChanged_parts (m : Nat) (r : List Byte) (s : State) :
    (headOf (serialChanged m r s) m) = { headOf s m with changed := true, stored := recordSerial r } := by
  unfold serialChanged
  extract_lets _ x _ y z w v q
  have hx : headOf x m = { headOf s m with changed := true, stored := recordSerial r } := headOf_setHead m _ s
  have hz : z.lk = x.lk := rfl
  clear_value x z
  have hw : w.lk = z.lk := by
    unfold w
    refine forEach_keeps (fun z => z.lk) _ _ ?_ z
    intro a z
    rfl
  have hv : v.lk.heads = w.lk.heads := (bumpEpochs_lanesKept (moduleUnits m) w).heads
  clear_value w v
  have hq : q.lk = v.lk := rfl
  clear_value q
  have hend : (headEvent m 16 q).lk = q.lk := (event_frame _ _ _ _ _).lk_eq
  rw [headOf_congr (by rw [hend, hq, hv, hw, hz] : (headEvent m 16 q).lk.heads = x.lk.heads), hx]

/-- The head of module `m` with a valid record. -/
def recordTaken (m : Nat) (r : List Byte) (s : State) : State :=
  setHead m { headOf s m with valid := true, noAnswer := false, serial := recordSerial r, record := r } s

theorem headFound_some (m : Nat) (r : List Byte) (s : State) : headFound m (some r) s =
    if recordSerial r ≠ (headOf (recordTaken m r s) m).stored then serialChanged m r (recordTaken m r s)
    else recordTaken m r s := rfl

/-- A valid head record is taken; where its serial differs from the stored one CHANGED is set and the serial stored. -/
theorem headFound_valid (m : Nat) (r : List Byte) (s : State) :
    (headOf (headFound m (some r) s) m).valid = true ∧ (headOf (headFound m (some r) s) m).serial = recordSerial r
      ∧ (headOf (headFound m (some r) s) m).record = r
      ∧ (recordSerial r ≠ (headOf s m).stored → (headOf (headFound m (some r) s) m).changed = true
        ∧ (headOf (headFound m (some r) s) m).stored = recordSerial r) := by
  have hx : headOf (recordTaken m r s) m
      = { headOf s m with valid := true, noAnswer := false, serial := recordSerial r, record := r } := headOf_setHead m _ s
  rw [headFound_some]
  generalize recordTaken m r s = x at hx ⊢
  split
  · rw [serialChanged_parts, hx]
    exact ⟨rfl, rfl, rfl, fun _ => ⟨rfl, rfl⟩⟩
  case isFalse h =>
    rw [hx] at h ⊢
    exact ⟨rfl, rfl, rfl, fun k => absurd k h⟩

/-- A module whose lanes carry no valid record does not answer, and its lanes are benched (R321, R324). -/
theorem headFound_none {m l : Nat} (hl : l / 2 = m) (hm : m < 8) (s : State) :
    (headOf (headFound m none s) m).valid = false ∧ (headOf (headFound m none s) m).noAnswer = true
      ∧ (crewOf (headFound m none s) (1188 + l)).st = .benched := by
  unfold headFound
  extract_lets fresh _ x lanes y z w
  have hx : headOf x m = { headOf s m with valid := false, noAnswer := true } := headOf_setHead m _ s
  have hroster : (crewOf x (1188 + l)).st = (crewOf s (1188 + l)).st := rfl
  have hlanes : lanes = [2 * m, 2 * m + 1].filter fun l => decide ((crewOf x (1188 + l)).st ≠ .benched) := rfl
  clear_value x lanes
  have hyst : (crewOf y (1188 + l)).st = .benched := by
    unfold y
    rw [setUnitsState_st]
    split
    · rfl
    case isFalse hnot =>
      refine Classical.byContradiction fun hst => ?_
      refine hnot (List.mem_map.mpr ⟨l, ?_, rfl⟩)
      rw [hlanes, List.mem_filter, List.mem_cons, List.mem_singleton, decide_eq_true_iff]
      exact ⟨by omega, hst⟩
  have hy : LanesKept x y := unitsChange_lanesKept _ _ _ _
  clear_value y
  have hz : z.lk.heads = y.lk.heads ∧ crewOf z (1188 + l) = crewOf y (1188 + l) := by
    unfold z
    refine ⟨forEach_keeps (fun z => z.lk.heads) lanes _ ?_ y, forEach_keeps (fun z => crewOf z (1188 + l)) lanes _ ?_ y⟩
    · intro a z
      rfl
    · intro a z
      rfl
  clear_value z
  have hwst : (crewOf w (1188 + l)).st = .benched := by
    unfold w
    rw [setUnitsState_st, if_neg, hz.2, hyst]
    intro hmem
    obtain ⟨hmem, -⟩ := List.mem_filter.mp hmem
    obtain hmem | hmem := List.mem_append.mp hmem
    · have := List.mem_range'_1.mp hmem
      omega
    · rw [List.mem_cons, List.mem_singleton] at hmem
      omega
  have hw : LanesKept z w := unitsChange_lanesKept _ _ _ _
  clear_value w
  have hheads : headOf w m = { headOf s m with valid := false, noAnswer := true } := by
    rw [headOf_congr (hw.heads.trans (hz.1.trans hy.heads)), hx]
  have hdone : (headOf w m).valid = false ∧ (headOf w m).noAnswer = true ∧ (crewOf w (1188 + l)).st = .benched := by
    rw [hheads]
    exact ⟨rfl, rfl, hwst⟩
  change (headOf (if fresh then headEvent m (8 + if lanes.isEmpty then 0 else 32) w else w) m).valid = _
    ∧ (headOf (if fresh then headEvent m (8 + if lanes.isEmpty then 0 else 32) w else w) m).noAnswer = _
    ∧ (crewOf (if fresh then headEvent m (8 + if lanes.isEmpty then 0 else 32) w else w) (1188 + l)).st = _
  split
  · unfold headEvent
    rw [headOf_congr (congrArg _ (event_frame _ _ _ _ _).lk_eq) m, crewOf_congr (congrArg _ (event_frame _ _ _ _ _).crew_eq)]
    exact hdone
  · exact hdone

/-- A lane that comes UP is active; the heads stay. -/
theorem laneUp_parts (l : Nat) (s : State) :
    (laneOf (laneUp l s) l).st = .up ∧ (laneOf (laneUp l s) l).phase = 4
      ∧ (crewOf (laneUp l s) (1188 + l)).st = .active ∧ (laneUp l s).lk.heads = s.lk.heads := by
  unfold laneUp
  extract_lets _ x _ y rest wakes
  have hy : laneOf y l = { laneOf s l with st := .up, phase := 4 } := laneOf_setLane l _ s
  have hheads : y.lk.heads = s.lk.heads := rfl
  have hrest : ∀ i ∈ wakes, i ≠ 1188 + l := fun i hi k => by
    have hmem := (List.mem_filter.mp (List.mem_filter.mp hi).1).2
    rw [k, bne_self_eq_false, Bool.false_and] at hmem
    exact Bool.false_ne_true hmem
  clear_value wakes y
  have kept := unitsChange_lanesKept ((1188 + l, .active) :: wakes.map fun i => (i, (crewOf y i).slept)) 0
    (rest.filter fun i => !wakes.contains i) y
  have hst := unitsChange_st (i := 1188 + l) (st := .active)
    (changes := (1188 + l, .active) :: wakes.map fun i => (i, (crewOf y i).slept))
    (fun p hp hpi => by
      obtain rfl | hp := List.mem_cons.mp hp
      · rfl
      · obtain ⟨i, hi, rfl⟩ := List.mem_map.mp hp
        exact absurd hpi (hrest i hi))
    ⟨_, List.mem_cons_self .., rfl⟩ 0 (rest.filter fun i => !wakes.contains i) y
  exact ⟨by rw [kept.st, hy], by rw [kept.phase, hy], hst, kept.heads.trans hheads⟩

theorem readerFresh_parts (l : Nat) (s : State) : (readerFresh l s).lk = s.lk ∧ (readerFresh l s).crew = s.crew := ⟨rfl, rfl⟩

theorem headOf_advance (t : Time) (s : State) (m : Nat) : headOf (advance t s) m = headOf s m :=
  headOf_congr (by rw [advance_lk]) m

/-- A lane whose module has a valid record comes UP with it. -/
theorem laneTrained (l : Nat) (r : List Byte) (s : State) :
    let u := readerFresh l (laneUp l (headFound (l / 2) (some r) s)); let h := headOf u (l / 2)
    (laneOf u l).st = .up ∧ (laneOf u l).phase = 4 ∧ (crewOf u (1188 + l)).st = .active
      ∧ h.valid = true ∧ h.serial = recordSerial r ∧ h.record = r
      ∧ (recordSerial r ≠ (headOf s (l / 2)).stored → h.changed = true ∧ h.stored = recordSerial r) := by
  obtain ⟨elk, ecrew⟩ := readerFresh_parts l (laneUp l (headFound (l / 2) (some r) s))
  obtain ⟨hst, hphase, hactive, hheads⟩ := laneUp_parts l (headFound (l / 2) (some r) s)
  dsimp only
  rw [laneOf_congr (congrArg _ elk), crewOf_congr (congrArg _ ecrew), headOf_congr ((congrArg _ elk).trans hheads)]
  exact ⟨hst, hphase, hactive, headFound_valid (l / 2) r s⟩

/-- The serial stands in the part of a record that the module keeps. -/
theorem recordSerial_take (r : List Byte) : recordSerial (r.take 1044) = recordSerial r := by
  unfold recordSerial fieldLe slice
  rw [List.drop_zero, List.drop_zero, List.take_take]
  rfl

/-- Settles O48. Cells are accepted by session and epoch; a lane that is lost, trained or benched takes its roster entry
and its module's head record with it. -/
theorem lanesAndCells : Obligations.LanesAndCells := by
  unfold Obligations.LanesAndCells
  refine ⟨?cells, ?loss, ?training⟩
  case cells =>
    intro t lane session cell s
    refine ⟨cells_of_lane_down, cells_of_old_session, ?_, ?_⟩
    · intro hup tag htag htype hacc
      obtain ⟨hlanes, hheads, hstatus⟩ := statusTaken_parts lane.toNat (60 * cellField cell 16 12) cell (advance t s)
      rw [advance_lk] at hlanes hheads hstatus
      exact ⟨_, headStatusCell_eq hup htag htype hacc, hlanes, hheads, hstatus⟩
    · intro hup e tag htag htype
      refine ⟨fun hacc hst hrun => ?_, fun h => ?_⟩
      · have hfront : frontOf (advance t s) e = frontOf s e := by
          unfold frontOf
          rw [advance_rch]
        obtain ⟨f, hf, hn⟩ := frontCell_taken e (cellField cell 0 22) ((List.range 80).map (cellSample cell 6)) (advance t s)
        rw [List.length_map, List.length_range] at hn
        unfold samplesSoFar at hn
        rw [hfront] at hn
        exact ⟨_, f, readSampleCell_taken hup rfl htag htype hacc hst hrun, hf, hn⟩
      · refine ⟨_, readSampleCell_stale hup rfl htag htype h, dropFront_none _ _, ?_⟩
        rw [← advance_crew t s]
        exact tabGet_tabSet_same _ _ _ _
  case loss =>
    intro t lane s
    refine ⟨fun h => if_pos (by rw [laneOf_advance]; exact h), fun h => ⟨_, laneLoss_eq h, ?_⟩⟩
    rw [← laneOf_advance t s, ← crewOf_advance (t := t) (s := s), ← advance_lk t s]
    obtain ⟨-, -, -, hcopies⟩ := laneLost_parts lane.toNat (advance t s)
    split
    case isTrue hover =>
      obtain ⟨hst, hl, hbenched, hcause, hwr⟩ := laneLost_benched lane.toNat (advance t s)
      generalize laneBench lane.toNat (laneLost lane.toNat (advance t s)) = u at hst hl hbenched hcause hwr ⊢
      rw [hwr]
      exact ⟨hl, hcopies, fun k => absurd hover (Nat.not_lt.mpr k), fun _ => ⟨hst, hbenched, hcause⟩⟩
    case isFalse hwithin =>
      obtain ⟨hst, hphase, hl, hsleep, hnew, hwr⟩ := laneRetrains lane.toNat (by omega) (advance t s)
      exact ⟨hl, by rw [hwr]; exact hcopies, fun _ => ⟨hst, hphase, hsleep, hnew⟩, fun k => absurd k hwithin⟩
  case training =>
    intro t lane lower upper s
    refine ⟨fun h ok => laneTrainingDone_idle h, fun h => ⟨?_, ?_⟩⟩
    · obtain ⟨hst, -, hbenched, -⟩ := laneBench_parts lane.toNat (advance t s)
      exact ⟨_, laneTrainingDone_failed h, hst, hbenched⟩
    · rintro rfl
      refine ⟨_, laneTrainingDone_trained h, ?_⟩
      rw [trainedRecord_same, ← headOf_advance t s]
      split
      · have trained := laneTrained lane.toNat (upper.take 1044) (advance t s)
        rw [recordSerial_take] at trained
        exact trained
      · exact headFound_none rfl (by omega) (advance t s)

end Sys2Proof.Machine
end

section
/-!
Memory integrity: writes and injectors (R378), the findings of the scrubber (R366 to R370), and the trap of an instruction
fetch (R373). Settles O56.
-/

namespace Sys2Proof.Machine
set_option Elab.async false

/-! ### Writes and injectors (R378) -/

theorem unitBits_of_units {s u : State} (h : u.mi.units = s.mi.units) (c a : Nat) : unitBits u c a = unitBits s c a := by
  unfold unitBits
  rw [h]

theorem unitBits_setUnitBits (c a : Nat) (w : BitVec 288) (s : State) : unitBits (setUnitBits c a w s) c a = w :=
  tabGet_tabSet_same _ _ _ _

theorem injectOf_setInject (c : Nat) (v : Inject) (s : State) : injectOf (setInject c v s) c = v := tabGet_tabSet_same _ _ _ _

/-- A disarmed injector. -/
def disarmed (v : Inject) : Inject := { v with mask := 0, armed := false }

/-- A write that no injector takes stores its bits; besides the unit it touches what is noted of the unit alone. -/
theorem storeUnit_plain {c a : Nat} {s : State} (h : injects s c a = false) (w : BitVec 288) :
    unitBits (storeUnit c a w s) c a = w ∧ (storeUnit c a w s).mi.inj = s.mi.inj := by
  unfold storeUnit
  rw [h]
  exact ⟨tabGet_tabSet_same _ _ _ _, rfl⟩

/-- A write that an injector takes stores its bits with the mask XORed in, and disarms it. -/
theorem storeUnit_injected {c a : Nat} {s : State} (h : injects s c a = true) (w : BitVec 288) :
    unitBits (storeUnit c a w s) c a = w ^^^ unitMask c (injectOf s c).mask
      ∧ injectOf (storeUnit c a w s) c = { injectOf s c with mask := 0, armed := false } := by
  have hw : (if injects s c a then w ^^^ unitMask c (injectOf s c).mask else w) = w ^^^ unitMask c (injectOf s c).mask := if_pos h
  have hs : (if injects s c a then setInject c (disarmed (injectOf s c)) s else s)
      = setInject c (disarmed (injectOf s c)) s := if_pos h
  unfold storeUnit
  unfold disarmed at hs
  dsimp only at hs ⊢
  rw [hw, hs]
  exact ⟨tabGet_tabSet_same _ _ _ _, injectOf_setInject c (disarmed (injectOf s c)) s⟩

theorem storeUnit_other {c a : Nat} (w : BitVec 288) (s : State) {k : Nat} (h : k ≠ memKey c a) :
    tabGet 0 (storeUnit c a w s).mi.units k = tabGet 0 s.mi.units k := by
  unfold storeUnit
  cases injects s c a
  · exact tabGet_tabSet_other _ _ _ h
  · exact tabGet_tabSet_other _ _ _ h

theorem mi_advance (t : Time) (s : State) : (advance t s).mi = s.mi := by
  unfold advance
  split <;> rfl

theorem injectOf_advance (t : Time) (s : State) (c : Nat) : injectOf (advance t s) c = injectOf s c := by
  unfold injectOf
  rw [mi_advance]

theorem injects_advance (t : Time) (s : State) (c a : Nat) : injects (advance t s) c a = injects s c a := by
  unfold injects
  rw [injectOf_advance]

theorem unitBits_advance (t : Time) (s : State) (c a : Nat) : unitBits (advance t s) c a = unitBits s c a :=
  unitBits_of_units (by rw [mi_advance]) c a

theorem regsLive_advance (t : Time) (s : State) : regsLive (advance t s) = regsLive s := by
  unfold regsLive
  rw [fetching_advance, advance_gl]

theorem injectedWrite_stores {t : Time} {cls : BitVec 2} {addr : BitVec 40} {data : BitVec 256} {s : State}
    (hf : fetching s = true) (he : unitExists cls.toNat (unitBase cls.toNat addr.toNat) = true) :
    exec (.injectedWrite t cls addr data) s = .next (storeUnit cls.toNat (unitBase cls.toNat addr.toNat)
      (encodeUnit cls.toNat data) (advance t s)) :=
  if_neg (by rw [fetching_advance, hf, he]; decide)

theorem injectedWrite_refused {t : Time} {cls : BitVec 2} {addr : BitVec 40} {data : BitVec 256} {s : State}
    (h : fetching s = false ∨ unitExists cls.toNat (unitBase cls.toNat addr.toNat) = false) :
    exec (.injectedWrite t cls addr data) s = .next (advance t s) := by
  refine if_pos ?_
  rw [fetching_advance]
  obtain h | h := h
  · exact Or.inl (by rw [h]; rfl)
  · exact Or.inr (by rw [h]; rfl)

/-- The address of an injector as one number (R378). -/
def flipNumber (v : Inject) : Nat := v.addr.toNat + v.addrHi.toNat * 2 ^ 40

/-- An injector armed with an address. -/
def armedAt (n : Nat) (v : Inject) : Inject :=
  { v with addr := BitVec.ofNat 40 n, addrHi := BitVec.ofNat 24 (n / 2 ^ 40), armed := true }

theorem flipNumber_armedAt {n : Nat} (h : n < 2 ^ 64) (v : Inject) : flipNumber (armedAt n v) = n := by
  unfold flipNumber armedAt
  rw [BitVec.toNat_ofNat, BitVec.toNat_ofNat]
  omega

theorem armedAt_parts (n : Nat) (v : Inject) : (armedAt n v).armed = true ∧ (armedAt n v).mask = v.mask
    ∧ (armedAt n v).addr.toNat = n % 2 ^ 40 ∧ (armedAt n v).addrHi.toNat = n / 2 ^ 40 % 2 ^ 24 :=
  ⟨rfl, rfl, BitVec.toNat_ofNat .., BitVec.toNat_ofNat ..⟩

theorem armedAt_armedAt (n m : Nat) (v : Inject) : armedAt n (armedAt m v) = armedAt n v := rfl

theorem flipNumber_lt (v : Inject) : flipNumber v < 2 ^ 64 := by
  unfold flipNumber
  omega

theorem injectOf_flipAddr (c : Nat) (high : Bool) (value : Nat) (s : State) : injectOf (flipAddr c high value s) c =
    armedAt (if high then flipNumber (injectOf s c) % 2 ^ 32 + value * 2 ^ 32
      else flipNumber (injectOf s c) / 2 ^ 32 * 2 ^ 32 + value) (injectOf s c) :=
  tabGet_tabSet_same _ _ _ _

/-- Both halves written arm the injector with the whole address. -/
theorem injectOf_flipAddr_both (c : Nat) (value : DWord) (s : State) :
    injectOf (flipAddr c true (value.toNat / 2 ^ 32) (flipAddr c false (value.toNat % 2 ^ 32) s)) c
      = armedAt value.toNat (injectOf s c) := by
  have hold := flipNumber_lt (injectOf s c)
  rw [injectOf_flipAddr, injectOf_flipAddr, if_pos rfl, if_neg (by decide), armedAt_armedAt, flipNumber_armedAt (by omega)]
  congr 1
  omega

/-- The low half written leaves the high half of the address. -/
theorem injectOf_flipAddr_low (c : Nat) (value : DWord) (s : State) :
    let v := injectOf (flipAddr c false (value.toNat % 2 ^ 32) s) c
    v.armed = true ∧ v.mask = (injectOf s c).mask ∧ v.addrHi = (injectOf s c).addrHi
      ∧ v.addr.toNat = (injectOf s c).addr.toNat / 2 ^ 32 * 2 ^ 32 + value.toNat % 2 ^ 32 := by
  dsimp only
  rw [injectOf_flipAddr, if_neg (by decide)]
  obtain ⟨harmed, hmask, haddr, hhi⟩ := armedAt_parts
    (flipNumber (injectOf s c) / 2 ^ 32 * 2 ^ 32 + value.toNat % 2 ^ 32) (injectOf s c)
  have hnum : flipNumber (injectOf s c) = (injectOf s c).addr.toNat + (injectOf s c).addrHi.toNat * 2 ^ 40 := rfl
  refine ⟨harmed, hmask, BitVec.eq_of_toNat_eq ?_, ?_⟩
  · rw [hhi, hnum]
    omega
  · rw [haddr, hnum]
    omega

theorem miFlipaddrWrite_wide {t : Time} {cls : BitVec 2} {value : DWord} {s : State} (hc : cls.toNat < 3)
    (h : regsLive s = true) : exec (.miFlipaddrWrite t cls false 8 value) s = .next
      (flipAddr cls.toNat true (value.toNat / 2 ^ 32) (flipAddr cls.toNat false (value.toNat % 2 ^ 32) (advance t s))) := by
  refine (if_neg ?_).trans (if_pos rfl)
  rw [regsLive_advance, h]
  simp [hc]

theorem miFlipaddrWrite_half {t : Time} {cls : BitVec 2} {value : DWord} {s : State} (hc : cls.toNat < 3)
    (h : regsLive s = true) : exec (.miFlipaddrWrite t cls false 4 value) s = .next
      (flipAddr cls.toNat false (value.toNat % 2 ^ 32) (advance t s)) := by
  refine (if_neg ?_).trans (if_neg (by decide))
  rw [regsLive_advance, h]
  simp [hc]

/-! ### What the scrubber's findings leave (R366, R369, R370) -/

/-- The scrubber's places and the counters of the findings, with the injectors. -/
structure CountsKept (s u : State) : Prop where
  pos : u.mi.pos = s.mi.pos
  passed : u.mi.passed = s.mi.passed
  corr : u.mi.corr = s.mi.corr
  unc : u.mi.unc = s.mi.unc
  poison : u.mi.poison = s.mi.poison
  wbdrop : u.mi.wbdrop = s.mi.wbdrop

theorem CountsKept.refl (s : State) : CountsKept s s := ⟨rfl, rfl, rfl, rfl, rfl, rfl⟩

theorem CountsKept.trans {s x u : State} (h : CountsKept s x) (k : CountsKept x u) : CountsKept s u :=
  ⟨k.pos.trans h.pos, k.passed.trans h.passed, k.corr.trans h.corr, k.unc.trans h.unc, k.poison.trans h.poison,
    k.wbdrop.trans h.wbdrop⟩

/-- A state whose memory block is that of another but for the fault mask of the functions. -/
def FaultOnly (s u : State) : Prop := u.mi = { s.mi with ffault := u.mi.ffault }

theorem FaultOnly.of_mi {s u : State} (h : u.mi = s.mi) : FaultOnly s u := by
  unfold FaultOnly
  rw [h]

theorem FaultOnly.counts {s u : State} (h : FaultOnly s u) : CountsKept s u := by
  unfold FaultOnly at h
  refine ⟨?_, ?_, ?_, ?_, ?_, ?_⟩ <;> rw [h]

theorem storeUnit_counts (c a : Nat) (w : BitVec 288) (s : State) :
    CountsKept s (storeUnit c a w s) ∧ (storeUnit c a w s).mi.logN = s.mi.logN ∧ (storeUnit c a w s).mi.seen = s.mi.seen := by
  unfold storeUnit
  cases injects s c a
  · exact ⟨⟨rfl, rfl, rfl, rfl, rfl, rfl⟩, rfl, rfl⟩
  · exact ⟨⟨rfl, rfl, rfl, rfl, rfl, rfl⟩, rfl, rfl⟩

theorem logEntry_counts (e : DWord × DWord) (s : State) :
    CountsKept s (logEntry e s) ∧ (logEntry e s).mi.logN = s.mi.logN + 1 := ⟨⟨rfl, rfl, rfl, rfl, rfl, rfl⟩, rfl⟩

theorem functionFault_faultOnly (f : Fn) (ref : Option CmdRef) (s : State) : FaultOnly s (functionFault f ref s) := by
  unfold functionFault
  dsimp only
  cases ref with
  | none => rfl
  | some r =>
    unfold FaultOnly
    rw [(failCmd_frame _ _ _).mi_eq]

/-- What the owner of a bad unit does touches no unit and no finding, but for the zeros written to a free unit. -/
theorem ownerAction_faultOnly (c a owner : Nat) (u : UnitUse) (remapped : Bool) (s : State) (h : owner ≠ 0) :
    FaultOnly s (ownerAction c a owner u remapped s) := by
  unfold ownerAction
  split
  · exact absurd rfl h
  · exact .of_mi (loseStaged_frame _ _).mi_eq
  · split
    · exact .of_mi rfl
    · exact .of_mi (failCmd_frame _ _ _).mi_eq
  · split
    · exact .of_mi rfl
    · exact .of_mi (failCmd_frame _ _ _).mi_eq
    · exact functionFault_faultOnly _ _ _
    · exact .of_mi rfl
    · exact .of_mi (dropItems_frame _ _ _).mi_eq
    · exact .of_mi (slotErase_frame _ _).mi_eq
    · exact .of_mi (setKek_frame _ _ _).mi_eq
    · exact .of_mi (unitHurt_frame _ _ _).mi_eq
    · exact .of_mi (setHeadEntry_frame _ _ _ _).mi_eq
    · exact .of_mi rfl
    · exact .of_mi rfl
    · exact .of_mi rfl

theorem ownerAction_counts (c a owner : Nat) (u : UnitUse) (remapped : Bool) (s : State) :
    CountsKept s (ownerAction c a owner u remapped s) := by
  by_cases h : owner = 0
  · subst h
    exact (storeUnit_counts c a 0 s).1
  · exact (ownerAction_faultOnly c a owner u remapped s h).counts

theorem handleOwner_counts (c a owner : Nat) (u : UnitUse) (remapped : Bool) (e : DWord × DWord) (s : State) :
    CountsKept s (handleOwner c a owner u remapped e s) := by
  unfold handleOwner
  dsimp only
  split
  · exact .refl s
  · refine CountsKept.trans ?_ (ownerAction_counts _ _ _ _ _ _)
    have hmi := (event_frame (memoryLogOf owner u) (memoryLogOf owner u) 0x20 [e.1, e.2]
      { s with mi := { s.mi with handled := memKey c a :: s.mi.handled } }).mi_eq
    refine ⟨?_, ?_, ?_, ?_, ?_, ?_⟩ <;> rw [hmi]

/-- The owner of a unit that is in use is handled: the unit is noted, and nothing else of the memory changes. -/
theorem handleOwner_used {c a owner : Nat} (u : UnitUse) (remapped : Bool) (e : DWord × DWord) (s : State) (h : owner ≠ 0) :
    memKey c a ∈ (handleOwner c a owner u remapped e s).mi.handled
      ∧ (handleOwner c a owner u remapped e s).mi.units = s.mi.units
      ∧ (handleOwner c a owner u remapped e s).mi.logN = s.mi.logN := by
  unfold handleOwner
  dsimp only
  split
  case isTrue hk => exact ⟨List.contains_iff_mem.mp hk, rfl, rfl⟩
  case isFalse hk =>
    have hmi := (event_frame (memoryLogOf owner u) (memoryLogOf owner u) 0x20 [e.1, e.2]
      { s with mi := { s.mi with handled := memKey c a :: s.mi.handled } }).mi_eq
    have hact := ownerAction_faultOnly c a owner u remapped (event (memoryLogOf owner u) (memoryLogOf owner u) 0x20 [e.1, e.2]
      { s with mi := { s.mi with handled := memKey c a :: s.mi.handled } }) h
    unfold FaultOnly at hact
    rw [hact, hmi]
    exact ⟨List.mem_cons_self .., rfl, rfl⟩

theorem remap_counts (c a owner flags : Nat) (bank : BitVec 6) (s : State) : CountsKept s (remap c a owner flags bank s) := by
  unfold remap
  extract_lets b line x units y
  split
  · have hy : CountsKept x y :=
      forEach_holds (fun z => CountsKept x z) units _ (fun k z hz => hz.trans (storeUnit_counts _ _ _ z).1) (.refl x)
    have hx : CountsKept s x := (logEntry_counts _ s).1
    exact (hx.trans hy).trans ⟨rfl, rfl, rfl, rfl, rfl, rfl⟩
  · split
    · exact .refl s
    · exact ⟨rfl, rfl, rfl, rfl, rfl, rfl⟩

/-- A finding that is logged and written: one entry, and where no injector takes the write the bits stand. -/
theorem logged_storeUnit (c a : Nat) (e : DWord × DWord) (w : BitVec 288) (s : State) :
    CountsKept s (storeUnit c a w (logEntry e s)) ∧ (storeUnit c a w (logEntry e s)).mi.logN = s.mi.logN + 1
      ∧ (storeUnit c a w (logEntry e s)).mi.seen = s.mi.seen
      ∧ (injects s c a = false → unitBits (storeUnit c a w (logEntry e s)) c a = w) := by
  obtain ⟨hcounts, hlogN, hseen⟩ := storeUnit_counts c a w (logEntry e s)
  have hinj : injects (logEntry e s) c a = injects s c a := rfl
  exact ⟨(logEntry_counts e s).1.trans hcounts, hlogN, hseen, fun h => (storeUnit_plain (hinj.trans h) w).1⟩

theorem remapIf_counts (b : Bool) (c a owner flags : Nat) (bank : BitVec 6) (s : State) :
    CountsKept s (if b then remap c a owner flags bank s else s) := by
  split
  · exact remap_counts _ _ _ _ _ _
  · exact .refl s

/-- MRAM has no spares (R376). -/
theorem remaps_mram (s : State) : remaps s 2 = false := rfl

/-- The next place of the scrubber in a class, none at the end of its pass (R369). -/
def scrubPlace (c a : Nat) (next : Option Nat) : Option Nat :=
  if c = 1 then (match next with | none => none | some n => if a < n ∧ n < 2 ^ 40 then some n else none)
  else if a + 32 < classBytes c then some (a + 32) else none

theorem scrubMoves_some {c a n : Nat} {next : Option Nat} (h : scrubPlace c a next = some n) (s : State) :
    (scrubMoves c a next s).mi = { s.mi with pos := tabSet 0 s.mi.pos c n } := by
  unfold scrubMoves
  change (match scrubPlace c a next with | some n => _ | none => _ : State).mi = _
  rw [h]

theorem scrubMoves_none {c a : Nat} {next : Option Nat} (h : scrubPlace c a next = none) (s : State) :
    ∃ passes, (scrubMoves c a next s).mi = { s.mi with
      pos := tabSet 0 s.mi.pos c 0, passed := tabSet 0 s.mi.passed c (tabGet 0 s.mi.passed c + 1), passes := passes } := by
  unfold scrubMoves
  change ∃ passes, (match scrubPlace c a next with | some n => _ | none => _ : State).mi = _
  rw [h]
  dsimp only
  split
  · rw [(pulseInternal_frame _ _).mi_eq]
    exact ⟨_, rfl⟩
  · exact ⟨_, rfl⟩

/-- The scrubber moves on: its place and its passes alone change (R369). -/
theorem scrubMoves_parts (c a : Nat) (next : Option Nat) (s : State) :
    ∃ pos passed passes, (scrubMoves c a next s).mi = { s.mi with pos := pos, passed := passed, passes := passes } := by
  cases h : scrubPlace c a next with
  | some n => exact ⟨_, _, _, scrubMoves_some h s⟩
  | none =>
    obtain ⟨passes, e⟩ := scrubMoves_none h s
    exact ⟨_, _, _, e⟩

theorem scrubMoves_within {c a : Nat} (next : Option Nat) (s : State) (hc : c ≠ 1) (ha : a + 32 < classBytes c) :
    tabGet 0 (scrubMoves c a next s).mi.pos c = a + 32 ∧ (scrubMoves c a next s).mi.passed = s.mi.passed := by
  have hplace : scrubPlace c a next = some (a + 32) := (if_neg hc).trans (if_pos ha)
  rw [scrubMoves_some hplace]
  dsimp only
  exact ⟨tabGet_tabSet_same _ _ _ _, rfl⟩

theorem scrubMoves_end {c a : Nat} (next : Option Nat) (s : State) (hc : c ≠ 1) (ha : classBytes c ≤ a + 32) :
    tabGet 0 (scrubMoves c a next s).mi.pos c = 0
      ∧ tabGet 0 (scrubMoves c a next s).mi.passed c = tabGet 0 s.mi.passed c + 1 := by
  have hplace : scrubPlace c a next = none := (if_neg hc).trans (if_neg (by omega))
  obtain ⟨passes, e⟩ := scrubMoves_none hplace s
  rw [e]
  dsimp only
  exact ⟨tabGet_tabSet_same _ _ _ _, tabGet_tabSet_same _ _ _ _⟩

theorem scrubMoves_word {c a n : Nat} {next : Option Nat} (s : State) (hc : c = 1) (hn : next = some n) (ha : a < n)
    (hlt : n < 2 ^ 40) : tabGet 0 (scrubMoves c a next s).mi.pos c = n := by
  have hplace : scrubPlace c a next = some n := by
    unfold scrubPlace
    rw [if_pos hc, hn]
    exact if_pos ⟨ha, hlt⟩
  rw [scrubMoves_some hplace]
  exact tabGet_tabSet_same _ _ _ _

/-- What the scrubber does with the unit it has read. -/
def scrubbed (c a : Nat) (obs : ScrubObs) (s : State) : State :=
  match readUnit c (unitBits s c a ^^^ unitMask c obs.upset) with
  | (.clean, _) => setUnitBits c a (unitBits s c a ^^^ unitMask c obs.upset) s
  | (.corrected d, fixed) => scrubCorrected c a d fixed obs (setUnitBits c a (unitBits s c a ^^^ unitMask c obs.upset) s)
  | (.poisoned, _) => scrubPoisoned c a obs (setUnitBits c a (unitBits s c a ^^^ unitMask c obs.upset) s)
  | (.uncorrectable, _) => scrubUncorrectable c a (unitBits s c a ^^^ unitMask c obs.upset) obs
      (setUnitBits c a (unitBits s c a ^^^ unitMask c obs.upset) s)

theorem scrubRead_off {t : Time} {cls : BitVec 2} {obs : ScrubObs} {s : State}
    (h : 3 ≤ cls.toNat ∨ fetching s = false ∨ s.mi.ctl.getLsbD 1 = false) : exec (.scrubRead t cls obs) s = .next (advance t s) := by
  refine if_pos ?_
  rw [fetching_advance, mi_advance]
  simpa using h

theorem scrubRead_eq {t : Time} {cls : BitVec 2} {obs : ScrubObs} {s : State} (hc : cls.toNat < 3) (hf : fetching s = true)
    (hon : s.mi.ctl.getLsbD 1 = true) : exec (.scrubRead t cls obs) s = .next (tidy (scrubMoves cls.toNat
      (tabGet 0 s.mi.pos cls.toNat) obs.next (scrubbed cls.toNat (tabGet 0 s.mi.pos cls.toNat) obs (advance t s)))) := by
  rw [← mi_advance t s] at hon ⊢
  rw [← fetching_advance t] at hf
  generalize hx : advance t s = x at hf hon ⊢
  change execScrubRead t cls obs s = _
  unfold execScrubRead
  rw [hx]
  refine (if_neg ?_).trans ?_
  · rw [hf, hon]
    simp [hc]
  · rfl

section
variable (c a d : Nat) (fixed : BitVec 288) (obs : ScrubObs) (s : State)

/-- A corrected finding, counted and logged. -/
def corrLogged : State :=
  logEntry (findingOf s c 0 (ownerOf s c a obs.use) 16 d a) { s with mi := { s.mi with corr := countMem s.mi.corr c } }

/-- A corrected unit written back, or dropped where the queue of the buffer is full (R366). -/
def writtenBack : State :=
  if c = 0 ∧ obs.wbFull then
    logEntry (findingOf (corrLogged c a d obs s) c 3 (ownerOf s c a obs.use) 16 255 a)
      { corrLogged c a d obs s with mi := { (corrLogged c a d obs s).mi with wbdrop := satInc (corrLogged c a d obs s).mi.wbdrop } }
  else storeUnit c a fixed (corrLogged c a d obs s)

/-- The position of a correction is kept for the next pass (R376). -/
def seenNoted (y : State) : State := { y with mi := { y.mi with seen := tabSet 0 y.mi.seen (memKey c a) (d + 1) } }

theorem scrubCorrected_eq : scrubCorrected c a d fixed obs s =
    let y := writtenBack c a d fixed obs s
    if (tabGet 0 y.mi.seen (memKey c a) == d + 1) && remaps (seenNoted c a d y) c
      then remap c a (ownerOf s c a obs.use) 16 obs.bank (seenNoted c a d y) else seenNoted c a d y := rfl

theorem corrLogged_parts : (corrLogged c a d obs s).mi.pos = s.mi.pos ∧ (corrLogged c a d obs s).mi.passed = s.mi.passed
    ∧ (corrLogged c a d obs s).mi.corr = countMem s.mi.corr c ∧ (corrLogged c a d obs s).mi.unc = s.mi.unc
    ∧ (corrLogged c a d obs s).mi.poison = s.mi.poison ∧ (corrLogged c a d obs s).mi.wbdrop = s.mi.wbdrop
    ∧ (corrLogged c a d obs s).mi.logN = s.mi.logN + 1 ∧ (corrLogged c a d obs s).mi.seen = s.mi.seen
    ∧ injects (corrLogged c a d obs s) c a = injects s c a ∧ ∀ b, remaps (corrLogged c a d obs s) b = remaps s b :=
  ⟨rfl, rfl, rfl, rfl, rfl, rfl, rfl, rfl, rfl, fun _ => rfl⟩

/-- A written-back unit: the counters of the finding stand, and the bits where no injector takes the write. -/
theorem writtenBack_parts : (writtenBack c a d fixed obs s).mi.pos = s.mi.pos ∧ (writtenBack c a d fixed obs s).mi.passed = s.mi.passed
    ∧ (writtenBack c a d fixed obs s).mi.corr = countMem s.mi.corr c ∧ (writtenBack c a d fixed obs s).mi.unc = s.mi.unc
    ∧ (writtenBack c a d fixed obs s).mi.poison = s.mi.poison
    ∧ (c = 0 → obs.wbFull = true → (writtenBack c a d fixed obs s).mi.wbdrop = satInc s.mi.wbdrop)
    ∧ (c ≠ 0 ∨ obs.wbFull = false → injects s c a = false → unitBits (writtenBack c a d fixed obs s) c a = fixed
      ∧ (writtenBack c a d fixed obs s).mi.logN = s.mi.logN + 1
      ∧ (writtenBack c a d fixed obs s).mi.seen = s.mi.seen ∧ ∀ b, remaps (writtenBack c a d fixed obs s) b = remaps s b) := by
  obtain ⟨hpos, hpassed, hcorr, hunc, hpoison, hwbdrop, hlogN, hseen, hinj, hremaps⟩ := corrLogged_parts c a d obs s
  unfold writtenBack
  generalize corrLogged c a d obs s = x at hpos hpassed hcorr hunc hpoison hwbdrop hlogN hseen hinj hremaps ⊢
  split
  case isTrue h =>
    refine ⟨hpos, hpassed, hcorr, hunc, hpoison, fun _ _ => by rw [← hwbdrop]; rfl, fun k _ => ?_⟩
    obtain k | k := k
    · exact absurd h.1 k
    · exact absurd h.2 (by rw [k]; decide)
  case isFalse h =>
    obtain ⟨kept, kn, kseen⟩ := storeUnit_counts c a fixed x
    refine ⟨kept.pos.trans hpos, kept.passed.trans hpassed, kept.corr.trans hcorr, kept.unc.trans hunc, kept.poison.trans hpoison,
      fun h0 hfull => absurd ⟨h0, hfull⟩ h, fun _ k => ?_⟩
    refine ⟨(storeUnit_plain (hinj.trans k) fixed).1, kn.trans hlogN, kseen.trans hseen, fun b => (Eq.trans ?_ (hremaps b))⟩
    unfold remaps storeUnit
    cases injects x c a <;> rfl

/-- A corrected unit counts; a write-back that is not dropped stores the fixed bits and logs once. -/
theorem scrubCorrected_parts :
    let u := scrubCorrected c a d fixed obs s
    u.mi.pos = s.mi.pos ∧ u.mi.passed = s.mi.passed ∧ tabGet 0 u.mi.corr c = satInc (tabGet 0 s.mi.corr c)
      ∧ u.mi.unc = s.mi.unc ∧ u.mi.poison = s.mi.poison ∧ (c = 0 → obs.wbFull = true → u.mi.wbdrop = satInc s.mi.wbdrop)
      ∧ (c ≠ 0 ∨ obs.wbFull = false → injects s c a = false → tabGet 0 s.mi.seen (memKey c a) ≠ d + 1 ∨ remaps s c = false →
        unitBits u c a = fixed ∧ u.mi.logN = s.mi.logN + 1) := by
  rw [scrubCorrected_eq]
  dsimp only
  obtain ⟨hpos, hpassed, hcorr, hunc, hpoison, hwbdrop, hplain⟩ := writtenBack_parts c a d fixed obs s
  generalize writtenBack c a d fixed obs s = y at hpos hpassed hcorr hunc hpoison hwbdrop hplain ⊢
  have hz : CountsKept y (seenNoted c a d y) := ⟨rfl, rfl, rfl, rfl, rfl, rfl⟩
  have kept := hz.trans (remapIf_counts ((tabGet 0 y.mi.seen (memKey c a) == d + 1) && remaps (seenNoted c a d y) c) c a
    (ownerOf s c a obs.use) 16 obs.bank (seenNoted c a d y))
  refine ⟨kept.pos.trans hpos, kept.passed.trans hpassed, ?_, kept.unc.trans hunc, kept.poison.trans hpoison,
    fun h0 hfull => kept.wbdrop.trans (hwbdrop h0 hfull), fun hback hinj hnew => ?_⟩
  · rw [kept.corr, hcorr]
    exact tabGet_tabSet_same _ _ _ _
  · obtain ⟨hbits, hlogN, hseen, hremaps⟩ := hplain hback hinj
    have hno : ¬((tabGet 0 y.mi.seen (memKey c a) == d + 1) && remaps (seenNoted c a d y) c) = true := by
      have hr : remaps (seenNoted c a d y) c = remaps s c := hremaps c
      rw [hr, hseen, Bool.and_eq_true, beq_iff_eq, Classical.not_and_iff_not_or_not, Bool.not_eq_true]
      exact hnew
    rw [if_neg hno]
    exact ⟨hbits, hlogN⟩

end

/-- A poisoned unit counts in MI_POISON alone. -/
theorem scrubPoisoned_parts (c a : Nat) (obs : ScrubObs) (s : State) :
    let u := scrubPoisoned c a obs s
    u.mi.pos = s.mi.pos ∧ u.mi.passed = s.mi.passed ∧ tabGet 0 u.mi.poison c = satInc (tabGet 0 s.mi.poison c)
      ∧ u.mi.unc = s.mi.unc ∧ u.mi.corr = s.mi.corr := by
  unfold scrubPoisoned
  extract_lets owner e _ x
  have hx : x.mi.pos = s.mi.pos ∧ x.mi.passed = s.mi.passed ∧ x.mi.poison = countMem s.mi.poison c
      ∧ x.mi.unc = s.mi.unc ∧ x.mi.corr = s.mi.corr := ⟨rfl, rfl, rfl, rfl, rfl⟩
  clear_value x
  obtain ⟨hpos, hpassed, hpoison, hunc, hcorr⟩ := hx
  have kept := handleOwner_counts c a owner obs.use true e x
  refine ⟨kept.pos.trans hpos, kept.passed.trans hpassed, ?_, kept.unc.trans hunc, kept.corr.trans hcorr⟩
  rw [kept.poison, hpoison]
  exact tabGet_tabSet_same _ _ _ _

/-- An uncorrectable finding counted. -/
def uncCounted (c : Nat) (s : State) : State := { s with mi := { s.mi with unc := countMem s.mi.unc c } }

theorem uncCounted_parts (c : Nat) (s : State) : (uncCounted c s).mi.pos = s.mi.pos ∧ (uncCounted c s).mi.passed = s.mi.passed
    ∧ (uncCounted c s).mi.unc = countMem s.mi.unc c ∧ (uncCounted c s).mi.corr = s.mi.corr
    ∧ (uncCounted c s).mi.poison = s.mi.poison ∧ (uncCounted c s).mi.logN = s.mi.logN :=
  ⟨rfl, rfl, rfl, rfl, rfl, rfl⟩

section
variable (c a : Nat) (w : BitVec 288) (obs : ScrubObs) (s : State)

/-- The unit that a newer write took (R369). -/
def newerStored (d : BitVec 256) : State :=
  storeUnit c a (encodeUnit c d)
    (logEntry (findingOf (uncCounted c s) c 1 (ownerOf s c a obs.use) 48 255 a) (uncCounted c s))

/-- The unit that is poisoned (R369). -/
def poisonStored : State :=
  storeUnit c a (poisonUnit c w)
    (logEntry (findingOf (uncCounted c s) c 1 (ownerOf s c a obs.use) 16 255 a) (uncCounted c s))

theorem scrubUncorrectable_newer {d : BitVec 256} (h : obs.newer = some d) : scrubUncorrectable c a w obs s =
    if remaps (newerStored c a obs s d) c then remap c a (ownerOf s c a obs.use) 16 obs.bank (newerStored c a obs s d)
    else newerStored c a obs s d := by
  unfold scrubUncorrectable
  rw [h]
  rfl

theorem scrubUncorrectable_bad (h : obs.newer = none) : scrubUncorrectable c a w obs s =
    let y := poisonStored c a w obs s
    let z := if remaps y c then remap c a (ownerOf s c a obs.use) 16 obs.bank y else y
    handleOwner c a (ownerOf s c a obs.use) obs.use (decide (y.mi.remapped.length < z.mi.remapped.length))
      (findingOf (uncCounted c s) c 1 (ownerOf s c a obs.use) 16 255 a) z := by
  unfold scrubUncorrectable
  rw [h]
  rfl

/-- An uncorrectable unit counts in MI_UNC alone. -/
theorem scrubUncorrectable_counts : CountsKept (uncCounted c s) (scrubUncorrectable c a w obs s) := by
  cases h : obs.newer with
  | some d =>
    rw [scrubUncorrectable_newer c a w obs s h]
    exact (logged_storeUnit c a _ (encodeUnit c d) _).1.trans (remapIf_counts _ _ _ _ _ _ _)
  | none =>
    rw [scrubUncorrectable_bad c a w obs s h]
    exact ((logged_storeUnit c a _ (poisonUnit c w) _).1.trans (remapIf_counts _ _ _ _ _ _ _)).trans
      (handleOwner_counts _ _ _ _ _ _ _)

/-- An uncorrectable unit of MRAM is logged and takes the newer write, or is poisoned with its owner handled. -/
theorem scrubUncorrectable_mram (h : injects s 2 a = false) :
    let u := scrubUncorrectable 2 a w obs s
    u.mi.logN = s.mi.logN + 1 ∧ match obs.newer with
      | some d => unitBits u 2 a = encodeUnit 2 d
      | none => unitBits u 2 a = poisonUnit 2 w ∧ memKey 2 a ∈ u.mi.handled := by
  have hinj : injects (uncCounted 2 s) 2 a = false := h
  have howner : ownerOf s 2 a obs.use = 15 := if_pos rfl
  cases hn : obs.newer with
  | some d =>
    obtain ⟨-, hlog, -, hbits⟩ := logged_storeUnit 2 a
      (findingOf (uncCounted 2 s) 2 1 (ownerOf s 2 a obs.use) 48 255 a) (encodeUnit 2 d) (uncCounted 2 s)
    rw [scrubUncorrectable_newer 2 a w obs s hn, remaps_mram]
    exact ⟨hlog, hbits hinj⟩
  | none =>
    obtain ⟨-, hlog, -, hbits⟩ := logged_storeUnit 2 a
      (findingOf (uncCounted 2 s) 2 1 (ownerOf s 2 a obs.use) 16 255 a) (poisonUnit 2 w) (uncCounted 2 s)
    rw [scrubUncorrectable_bad 2 a w obs s hn]
    dsimp only
    rw [remaps_mram, if_neg Bool.false_ne_true, howner]
    rw [howner] at hlog hbits
    have hy : poisonStored 2 a w obs s = storeUnit 2 a (poisonUnit 2 w)
        (logEntry (findingOf (uncCounted 2 s) 2 1 15 16 255 a) (uncCounted 2 s)) := by
      rw [← howner]
      rfl
    rw [← hy] at hlog hbits
    generalize poisonStored 2 a w obs s = y at hlog hbits ⊢
    obtain ⟨hk, hunits, hlogN⟩ := handleOwner_used (c := 2) (a := a) obs.use (decide (y.mi.remapped.length < y.mi.remapped.length))
      (findingOf (uncCounted 2 s) 2 1 15 16 255 a) y (show 15 ≠ 0 by decide)
    exact ⟨hlogN.trans hlog, (unitBits_of_units hunits 2 a).trans (hbits hinj), hk⟩

end

/-- What a read of the scrubber leaves of the unit and its counters, by the decision of its code. -/
def ScrubLeaves (c a : Nat) (obs : ScrubObs) (s u : State) : Prop :=
  match readUnit c (unitBits s c a ^^^ unitMask c obs.upset) with
  | (.clean, _) => u.mi.corr = s.mi.corr ∧ u.mi.unc = s.mi.unc ∧ u.mi.poison = s.mi.poison ∧ u.mi.log = s.mi.log
      ∧ unitBits u c a = unitBits s c a ^^^ unitMask c obs.upset
  | (.corrected d, fixed) => tabGet 0 u.mi.corr c = satInc (tabGet 0 s.mi.corr c) ∧ u.mi.unc = s.mi.unc
      ∧ u.mi.poison = s.mi.poison
      ∧ (c = 0 → obs.wbFull = true → u.mi.wbdrop = satInc s.mi.wbdrop)
      ∧ (c ≠ 0 ∨ obs.wbFull = false → injects s c a = false → tabGet 0 s.mi.seen (memKey c a) ≠ d + 1 ∨ remaps s c = false →
        unitBits u c a = fixed ∧ u.mi.logN = s.mi.logN + 1)
  | (.poisoned, _) => tabGet 0 u.mi.poison c = satInc (tabGet 0 s.mi.poison c) ∧ u.mi.unc = s.mi.unc ∧ u.mi.corr = s.mi.corr
  | (.uncorrectable, _) => tabGet 0 u.mi.unc c = satInc (tabGet 0 s.mi.unc c) ∧ u.mi.corr = s.mi.corr
      ∧ u.mi.poison = s.mi.poison
      ∧ (c = 2 → injects s c a = false → u.mi.logN = s.mi.logN + 1 ∧ match obs.newer with
        | some d => unitBits u c a = encodeUnit c d
        | none => unitBits u c a = poisonUnit c (unitBits s c a ^^^ unitMask c obs.upset) ∧ memKey c a ∈ u.mi.handled)

/-- The place and the passes of the scrubber are no part of what it finds. -/
theorem ScrubLeaves.moved {c a : Nat} {obs : ScrubObs} {s x u : State} (h : ScrubLeaves c a obs s x)
    (hu : ∃ pos passed passes, u.mi = { x.mi with pos := pos, passed := passed, passes := passes }) :
    ScrubLeaves c a obs s u := by
  obtain ⟨pos, passed, passes, e⟩ := hu
  unfold ScrubLeaves at h ⊢
  unfold unitBits at h ⊢
  rw [e]
  exact h

theorem setUnitBits_parts (c a : Nat) (w : BitVec 288) (s : State) :
    (setUnitBits c a w s).mi = { s.mi with units := tabSet 0 s.mi.units (memKey c a) w } := rfl

/-- The four outcomes of a read of the scrubber. -/
theorem scrubbed_leaves (c a : Nat) (obs : ScrubObs) (s : State) :
    ScrubLeaves c a obs s (scrubbed c a obs s) ∧ (scrubbed c a obs s).mi.pos = s.mi.pos
      ∧ (scrubbed c a obs s).mi.passed = s.mi.passed := by
  unfold scrubbed ScrubLeaves
  have hbits := unitBits_setUnitBits c a (unitBits s c a ^^^ unitMask c obs.upset) s
  obtain ⟨x, hx⟩ : ∃ x, setUnitBits c a (unitBits s c a ^^^ unitMask c obs.upset) s = x := ⟨_, rfl⟩
  have hmi := setUnitBits_parts c a (unitBits s c a ^^^ unitMask c obs.upset) s
  rw [hx] at hbits hmi ⊢
  generalize unitBits s c a ^^^ unitMask c obs.upset = w at *
  have hinj : injects x c a = injects s c a := by
    unfold injects injectOf
    rw [hmi]
  have hremaps : remaps x c = remaps s c := by
    unfold remaps
    rw [hmi]
  rcases readUnit c w with ⟨_ | d | _ | _, fixed⟩
  · dsimp only
    refine ⟨⟨?_, ?_, ?_, ?_, hbits⟩, ?_, ?_⟩ <;> rw [hmi]
  · obtain ⟨hpos, hpassed, hcorr, hunc, hpoison, hwb, hplain⟩ := scrubCorrected_parts c a d fixed obs x
    rw [hinj, hremaps] at hplain
    rw [hmi] at hpos hpassed hcorr hunc hpoison hwb hplain
    exact ⟨⟨hcorr, hunc, hpoison, hwb, hplain⟩, hpos, hpassed⟩
  · obtain ⟨hpos, hpassed, hpoison, hunc, hcorr⟩ := scrubPoisoned_parts c a obs x
    rw [hmi] at hpos hpassed hpoison hunc hcorr
    exact ⟨⟨hpoison, hunc, hcorr⟩, hpos, hpassed⟩
  · have kept := scrubUncorrectable_counts c a w obs x
    obtain ⟨hpos, hpassed, hunc, hcorr, hpoison, -⟩ := uncCounted_parts c x
    refine ⟨⟨?_, ?_, ?_, ?_⟩, ?_, ?_⟩
    · rw [kept.unc, hunc, hmi]
      exact tabGet_tabSet_same _ _ _ _
    · rw [kept.corr, hcorr, hmi]
    · rw [kept.poison, hpoison, hmi]
    · rintro rfl hs
      have mram := scrubUncorrectable_mram a w obs x (hinj.trans hs)
      rw [show x.mi.logN = s.mi.logN by rw [hmi]] at mram
      exact mram
    · rw [kept.pos, hpos, hmi]
    · rw [kept.passed, hpassed, hmi]

theorem ScrubLeaves.advance {c a : Nat} {obs : ScrubObs} {t : Time} {s u : State}
    (h : ScrubLeaves c a obs (advance t s) u) : ScrubLeaves c a obs s u := by
  unfold ScrubLeaves injects injectOf remaps unitBits at h ⊢
  rw [mi_advance] at h
  exact h

/-- A read of the scrubber: its place moves on by one unit, and the unit and the counters are left by the decision. -/
theorem scrubRead_reads {t : Time} {cls : BitVec 2} {obs : ScrubObs} {s : State} (hc : cls.toNat < 3) (hf : fetching s = true)
    (hon : s.mi.ctl.getLsbD 1 = true) {a : Nat} (ha : a = tabGet 0 s.mi.pos cls.toNat) :
    ∃ u, exec (.scrubRead t cls obs) s = .next u
      ∧ (cls.toNat ≠ 1 → a + 32 < classBytes cls.toNat → tabGet 0 u.mi.pos cls.toNat = a + 32 ∧ u.mi.passed = s.mi.passed)
      ∧ (cls.toNat ≠ 1 → classBytes cls.toNat ≤ a + 32 → tabGet 0 u.mi.pos cls.toNat = 0
        ∧ tabGet 0 u.mi.passed cls.toNat = tabGet 0 s.mi.passed cls.toNat + 1)
      ∧ (∀ n, cls.toNat = 1 → obs.next = some n → a < n → n < 2 ^ 40 → tabGet 0 u.mi.pos cls.toNat = n)
      ∧ ScrubLeaves cls.toNat a obs s u := by
  subst ha
  refine ⟨_, scrubRead_eq hc hf hon, ?_⟩
  obtain ⟨hleaves, -, hpassed⟩ := scrubbed_leaves cls.toNat (tabGet 0 s.mi.pos cls.toNat) obs (advance t s)
  rw [mi_advance] at hpassed
  replace hleaves := hleaves.advance
  generalize scrubbed cls.toNat (tabGet 0 s.mi.pos cls.toNat) obs (advance t s) = x at hleaves hpassed ⊢
  rw [(tidy_frame _).mi_eq, ← hpassed]
  refine ⟨scrubMoves_within obs.next x, scrubMoves_end obs.next x, fun n => scrubMoves_word x, ?_⟩
  refine hleaves.moved ?_
  rw [(tidy_frame _).mi_eq]
  exact scrubMoves_parts _ _ _ x

/-! ### Instruction fetches (R373) -/

theorem fetchHolds_iff {s : State} {f : FetchFault} : fetchHolds s f = true ↔
    f.fromRom = true ∨ f.refetchOk = false ∨ (s.gl.patched = true ∧ f.hash ≠ sha256 s.se.active) ∨ f.addr ∈ s.mi.traps := by
  unfold fetchHolds
  rw [Bool.or_eq_true_iff, Bool.or_eq_true_iff, Bool.or_eq_true_iff, Bool.and_eq_true, Bool.not_eq_true', bne_iff_ne,
    List.contains_iff_mem, or_assoc, or_assoc]

/-- A finding in the patch RAM counts in its own counter; one in ROM counts nowhere. -/
theorem fetchFinding_parts (f : FetchFault) (s : State) :
    (fetchFinding f s).gl = s.gl ∧ (fetchFinding f s).se = s.se ∧ (fetchFinding f s).mi.traps = s.mi.traps
      ∧ (f.fromRom = true → (fetchFinding f s).mi.unc = s.mi.unc ∧ (fetchFinding f s).mi.poison = s.mi.poison)
      ∧ (f.fromRom = false → f.poisoned = true → tabGet 0 (fetchFinding f s).mi.poison 1 = satInc (tabGet 0 s.mi.poison 1)
        ∧ (fetchFinding f s).mi.unc = s.mi.unc)
      ∧ (f.fromRom = false → f.poisoned = false → tabGet 0 (fetchFinding f s).mi.unc 1 = satInc (tabGet 0 s.mi.unc 1)
        ∧ (fetchFinding f s).mi.poison = s.mi.poison) := by
  cases hrom : f.fromRom with
  | true =>
    have : fetchFinding f s = s := if_pos hrom
    rw [this]
    exact ⟨rfl, rfl, rfl, fun _ => ⟨rfl, rfl⟩, fun k => absurd k (by decide), fun k => absurd k (by decide)⟩
  | false =>
    unfold fetchFinding
    rw [hrom, if_neg Bool.false_ne_true]
    extract_lets e _ x
    have hx : x.gl = s.gl ∧ x.se = s.se ∧ x.mi.traps = s.mi.traps ∧ x.mi.unc = (if f.poisoned then s.mi.unc else countMem s.mi.unc 1)
        ∧ x.mi.poison = (if f.poisoned then countMem s.mi.poison 1 else s.mi.poison) := ⟨rfl, rfl, rfl, rfl, rfl⟩
    clear_value x e
    obtain ⟨hgl, hse, htraps, hunc, hpoison⟩ := hx
    have fr := event_frame 0 0 0x20 [e.1, e.2] x
    rw [fr.gl_eq, fr.se_eq, fr.mi_eq]
    refine ⟨hgl, hse, htraps, fun k => absurd k (by decide), fun _ hp => ?_, fun _ hp => ?_⟩
    · rw [hpoison, hunc, hp]
      exact ⟨tabGet_tabSet_same _ _ _ _, rfl⟩
    · rw [hpoison, hunc, hp]
      exact ⟨tabGet_tabSet_same _ _ _ _, rfl⟩

/-- A trap taken: the patch RAM from an active copy with the right hash, and the address kept. -/
def trapTaken (f : FetchFault) (s : State) : State :=
  let s := if s.gl.patched && f.hash == sha256 s.se.active then
      { s with se := { s.se with patchRam := slice s.se.active 512 (bundleLen s.se.active) } } else s
  { s with mi := { s.mi with traps := f.addr :: s.mi.traps.filter (· != f.addr) } }

theorem trapTaken_parts (f : FetchFault) (s : State) :
    (trapTaken f s).gl = s.gl ∧ f.addr ∈ (trapTaken f s).mi.traps ∧ (trapTaken f s).mi.unc = s.mi.unc
      ∧ (trapTaken f s).mi.poison = s.mi.poison
      ∧ (s.gl.patched = true ∧ f.hash = sha256 s.se.active →
        (trapTaken f s).se = { s.se with patchRam := slice s.se.active 512 (bundleLen s.se.active) })
      ∧ (¬(s.gl.patched = true ∧ f.hash = sha256 s.se.active) → (trapTaken f s).se = s.se) := by
  have hright : (s.gl.patched && f.hash == sha256 s.se.active) = true ↔ s.gl.patched = true ∧ f.hash = sha256 s.se.active := by
    rw [Bool.and_eq_true, beq_iff_eq]
  rw [← hright]
  unfold trapTaken
  by_cases h : (s.gl.patched && f.hash == sha256 s.se.active) = true
  · rw [if_pos h]
    exact ⟨rfl, List.mem_cons_self .., rfl, rfl, fun _ => rfl, fun k => absurd h k⟩
  · rw [if_neg h]
    exact ⟨rfl, List.mem_cons_self .., rfl, rfl, fun k => absurd k h, fun _ => rfl⟩

/-- The device enters HOLD for an instruction fetch. -/
def fetchHeld (s : State) : State := senseFastAll (holdCause 5 { s with gl := { s.gl with liveFetch := true } })

theorem fetchHeld_parts {s : State} (h : fetching s = true) :
    (fetchHeld s).gl.cur = .hold ∧ (fetchHeld s).gl.liveFetch = true ∧ (fetchHeld s).gl.latched = s.gl.latched ||| 32#7
      ∧ (fetchHeld s).mi = s.mi ∧ (fetchHeld s).se = s.se := by
  obtain ⟨hr, hfill⟩ := Bool.and_eq_true_iff.mp h
  have live : s.gl.cur ≠ .reset ∧ s.gl.cur ≠ .fill := ⟨of_decide_eq_true hr, of_decide_eq_true hfill⟩
  obtain ⟨x, hx⟩ : ∃ x, x = { s with gl := { s.gl with liveFetch := true } } := ⟨_, rfl⟩
  have hgl : x.gl = { s.gl with liveFetch := true } := by rw [hx]
  have hlat : x.gl.latched = s.gl.latched := by rw [hgl]
  have hrest : x.mi = s.mi ∧ x.se = s.se := by rw [hx]; exact ⟨rfl, rfl⟩
  unfold fetchHeld
  rw [← hx, (senseFastAll_frame _).gl_eq, (senseFastAll_frame _).mi_eq, (senseFastAll_frame _).se_eq,
    (holdCause_frame 5 x).mi_eq, (holdCause_frame 5 x).se_eq]
  refine (and_congr_right fun _ => and_congr_right fun _ => and_iff_left hrest).mpr ?_
  by_cases hhold : x.gl.cur = .hold
  · rw [holdCause_gl_stay 5 (Or.inr (Or.inr hhold))]
    exact ⟨hhold, by rw [hgl], congrArg (· ||| 32#7) hlat⟩
  · have hcur : x.gl.cur = s.gl.cur := by rw [hgl]
    rw [holdCause_gl 5 ⟨by rw [hcur]; exact live.1, by rw [hcur]; exact live.2, hhold⟩]
    exact ⟨rfl, by rw [hgl], congrArg (· ||| 32#7) hlat⟩

theorem instructionFetchTrap_eq {t : Time} {f : FetchFault} {s : State} (hf : fetching s = true) :
    exec (.instructionFetchTrap t f) s = .next
      (if fetchHolds (fetchFinding f (advance t s)) f then fetchHeld (trapTaken f (fetchFinding f (advance t s)))
        else trapTaken f (fetchFinding f (advance t s))) := by
  refine (if_neg (by rw [fetching_advance, hf]; decide)).trans ?_
  generalize advance t s = x
  change (if !fetchHolds (fetchFinding f x) f then Host.Outcome.next (trapTaken f (fetchFinding f x))
    else .next (fetchHeld (trapTaken f (fetchFinding f x)))) = _
  cases fetchHolds (fetchFinding f x) f <;> rfl

/-- An instruction fetch trap: what its state counts and keeps, before a HOLD. -/
theorem trapTaken_finding (f : FetchFault) (s : State) :
    let u := trapTaken f (fetchFinding f s)
    u.gl = s.gl ∧ f.addr ∈ u.mi.traps
      ∧ (f.fromRom = true → u.mi.unc = s.mi.unc ∧ u.mi.poison = s.mi.poison)
      ∧ (f.fromRom = false → f.poisoned = true → tabGet 0 u.mi.poison 1 = satInc (tabGet 0 s.mi.poison 1) ∧ u.mi.unc = s.mi.unc)
      ∧ (f.fromRom = false → f.poisoned = false → tabGet 0 u.mi.unc 1 = satInc (tabGet 0 s.mi.unc 1) ∧ u.mi.poison = s.mi.poison)
      ∧ (s.gl.patched = true ∧ f.hash = sha256 s.se.active →
        u.se = { s.se with patchRam := slice s.se.active 512 (bundleLen s.se.active) })
      ∧ (¬(s.gl.patched = true ∧ f.hash = sha256 s.se.active) → u.se = s.se) := by
  obtain ⟨hgl, hse, -, hrom, hpoisoned, hunc⟩ := fetchFinding_parts f s
  generalize fetchFinding f s = x at hgl hse hrom hpoisoned hunc ⊢
  obtain ⟨tgl, ttraps, tunc, tpoison, tright, twrong⟩ := trapTaken_parts f x
  rw [hgl, hse] at tright twrong
  dsimp only
  rw [tunc, tpoison]
  exact ⟨tgl.trans hgl, ttraps, hrom, hpoisoned, hunc, tright, twrong⟩

theorem fetchHolds_finding (f : FetchFault) (s : State) : fetchHolds (fetchFinding f s) f = fetchHolds s f := by
  obtain ⟨hgl, hse, htraps, -⟩ := fetchFinding_parts f s
  unfold fetchHolds
  rw [hgl, hse, htraps]

/-- Settles O56. A write, an injector, a read of the scrubber by its four outcomes, and the trap of an instruction
fetch. -/
theorem memoryIntegrity : Obligations.MemoryIntegrity := by
  unfold Obligations.MemoryIntegrity
  refine ⟨?units, ?fetch⟩
  case units =>
    intro t cls s
    refine ⟨?write, ?flip, ?scrub⟩
    case write =>
      intro addr data
      refine ⟨fun hf he => ⟨_, injectedWrite_stores hf he, fun h => ?_, fun h => ?_, fun k hk => ?_⟩, injectedWrite_refused⟩
      · obtain ⟨hbits, hinj⟩ := storeUnit_plain ((injects_advance t s _ _).trans h) (encodeUnit cls.toNat data)
        exact ⟨hbits, hinj.trans (by rw [mi_advance])⟩
      · have stored := storeUnit_injected ((injects_advance t s _ _).trans h) (encodeUnit cls.toNat data)
        rw [injectOf_advance] at stored
        exact stored
      · exact (storeUnit_other _ _ hk).trans (by rw [mi_advance])
    case flip =>
      intro value hc hl
      refine ⟨⟨_, miFlipaddrWrite_wide hc hl, ?_⟩, _, miFlipaddrWrite_half hc hl, ?_⟩
      · rw [injectOf_flipAddr_both, injectOf_advance]
        rfl
      · rw [← injectOf_advance t s]
        exact injectOf_flipAddr_low _ _ _
    case scrub =>
      exact fun obs => ⟨scrubRead_off, fun hc hf hon => scrubRead_reads hc hf hon rfl⟩
  case fetch =>
    intro t f s hf
    dsimp only
    refine ⟨_, instructionFetchTrap_eq hf, ?_⟩
    have trap := trapTaken_finding f (advance t s)
    have hf' : fetching (trapTaken f (fetchFinding f (advance t s))) = true := by
      unfold fetching
      rw [trap.1, advance_gl]
      exact hf
    rw [fetchHolds_finding]
    dsimp only at trap
    rw [advance_gl, mi_advance, advance_se] at trap
    have hholds := fetchHolds_iff (s := advance t s) (f := f)
    rw [advance_gl, mi_advance, advance_se] at hholds
    rw [← hholds]
    obtain ⟨hgl, htraps, hrom, hpoisoned, hunc, hright, hwrong⟩ := trap
    obtain ⟨kcur, klive, klatched, kmi, kse⟩ := fetchHeld_parts hf'
    cases fetchHolds (advance t s) f with
    | true =>
      rw [if_pos rfl, kmi, kse]
      exact ⟨htraps, hrom, hpoisoned, hunc, hright, hwrong, fun _ => ⟨kcur, klive, klatched.trans (by rw [hgl])⟩,
        fun k => absurd rfl k⟩
    | false =>
      exact ⟨htraps, hrom, hpoisoned, hunc, hright, hwrong, fun k => absurd k (by decide), fun _ => hgl⟩

end Sys2Proof.Machine
end

section
/-!
BAR0 accesses (R5, R8, R396, R405). Settles O57.
-/

namespace Sys2Proof.Machine
set_option Elab.async false

/-! ### Rejected accesses (R396) -/

theorem fnPresent_advance (t : Time) (s : State) (f : Fn) : fnPresent (advance t s) f = fnPresent s f := by
  unfold fnPresent
  rw [advance_hq]

/-- GL_ACC_ERR with one more rejected access at `offset`. -/
def accErrNext (old : Word) (offset : Nat) : Word :=
  BitVec.ofNat 32 ((satInc (old.setWidth 16 : BitVec 16)).toNat + bits (BitVec.ofNat 20 offset) 4 16 * 2 ^ 16)

theorem satInc_toNat_le (c : BitVec 16) : (satInc c).toNat = min 65535 (c.toNat + 1) := by
  unfold satInc
  split
  case isTrue h => rw [h]; rfl
  case isFalse h =>
    have hne : c.toNat ≠ 65535 := fun k => h (BitVec.eq_of_toNat_eq k)
    rw [BitVec.toNat_add]
    have : (1 : BitVec 16).toNat = 1 := rfl
    omega

theorem accErrNext_fields (old : Word) (offset : Nat) :
    bits (accErrNext old offset) 0 16 = min 65535 (bits old 0 16 + 1)
      ∧ bits (accErrNext old offset) 16 16 = offset / 16 % 2 ^ 16 := by
  have hold : (old.setWidth 16 : BitVec 16).toNat = bits old 0 16 := by
    unfold bits
    rw [BitVec.toNat_setWidth]
    omega
  have hoff : bits (BitVec.ofNat 20 offset) 4 16 = offset / 16 % 2 ^ 16 := by
    unfold bits
    rw [BitVec.toNat_ofNat]
    omega
  have hlt : min 65535 (bits old 0 16 + 1) < 2 ^ 16 := by omega
  unfold accErrNext
  rw [satInc_toNat_le, hold, hoff]
  generalize min 65535 (bits old 0 16 + 1) = n at hlt ⊢
  unfold bits
  rw [BitVec.toNat_ofNat]
  omega

theorem bar0AccessReject_counts {t : Time} {f : Fn} {isWrite : Bool} {offset width : Nat} {s : State} (hf : fetching s = true)
    (hp : fnPresent s f = true) (hb : accessBad f offset width = true) :
    exec (.bar0AccessReject t f isWrite offset width) s = .next { advance t s with
      gl := { s.gl with accErr := accErrNext s.gl.accErr offset }
      out := if isWrite then s.out else .readValue f offset 0 :: s.out } := by
  refine (if_neg ?_).trans ?_
  · rw [fetching_advance, fnPresent_advance, hf, hp, hb]
    decide
  · rw [← advance_gl t s, ← advance_out t s]
    cases isWrite <;> rfl

theorem accesses_off {t : Time} {f : Fn} {s : State} (hf : fetching s = false) (isWrite : Bool) (offset width : Nat) :
    exec (.bar0AccessReject t f isWrite offset width) s = .next (advance t s)
      ∧ exec (.rocRead t f offset width) s = .next (advance t s) ∧ exec (.lowHalfRead t f offset) s = .next (advance t s)
      ∧ ∀ bar value, exec (.registerWrite t f bar offset width value) s = .next (advance t s) := by
  have hoff : fetching (advance t s) = false := (fetching_advance ..).trans hf
  refine ⟨if_pos ?_, if_pos ?_, if_pos ?_, fun bar value => if_pos ?_⟩ <;> rw [hoff] <;> rfl

/-! ### Counters that a read clears (R5) -/

/-- A read of `o` clears what it reads, and sends nothing. -/
def ReadClears (o : Nat) : Prop :=
  ∀ (s : State) (x : Out), (pfRead s o).2.out = s.out ∧ (pfRead (emit x (pfRead s o).2) o).1 = 0

/-- A counter of a table that reads at `o` as its entry `c`. -/
theorem readClears_entry {o : Nat} (tab : State → List (Nat × Word)) (c : Nat)
    (hread : ∀ s, (pfRead s o).1 = tabGet 0 (tab s) c := by intros; rfl)
    (hclear : ∀ s x, tab (emit x (pfRead s o).2) = tabSet 0 (tab s) c 0 := by intros; rfl)
    (hout : ∀ s, (pfRead s o).2.out = s.out := by intros; rfl) : ReadClears o := fun s x =>
  ⟨hout s, by rw [hread, hclear, tabGet_tabSet_same]⟩

/-- A counter of its own that reads at `o`. -/
theorem readClears_word {o : Nat} (hclear : ∀ s x, (pfRead (emit x (pfRead s o).2) o).1 = 0 := by intros; rfl)
    (hout : ∀ s, (pfRead s o).2.out = s.out := by intros; rfl) : ReadClears o := fun s x => ⟨hout s, hclear s x⟩

/-- The counters of the PF that a read clears (R5). -/
def clearedOffsets : List Nat :=
  [0x48, 0x80, 0x84, 0x88, 0x8C, 0x90, 0x94, 0x98, 0x10010, 0x10014, 0x10018, 0x10020, 0x10024, 0x10028, 0x10030, 0x10034,
    0x10038, 0x10040, 0x14028, 0x20018, 0x2001C, 0x28008, 0x2803C, 0x34110, 0x34114, 0x34118, 0x3411C, 0x34120, 0x34124, 0x34220,
    0x34224, 0x34228, 0x3422C, 0x34318, 0x3C004]

theorem clearedOffsets_clear : ∀ o ∈ clearedOffsets, ReadClears o := by
  unfold clearedOffsets
  simp only [List.forall_mem_cons, List.not_mem_nil, false_imp_iff, implies_true, and_true]
  refine ⟨readClears_word, readClears_entry (fun s => s.crew.stale) 0, readClears_entry (fun s => s.crew.stale) 1,
    readClears_entry (fun s => s.crew.stale) 2, readClears_entry (fun s => s.crew.stale) 3,
    readClears_entry (fun s => s.crew.stale) 4, readClears_entry (fun s => s.crew.stale) 5,
    readClears_entry (fun s => s.crew.stale) 6, readClears_entry (fun s => s.mi.corr) 0, readClears_entry (fun s => s.mi.corr) 1,
    readClears_entry (fun s => s.mi.corr) 2, readClears_entry (fun s => s.mi.unc) 0, readClears_entry (fun s => s.mi.unc) 1,
    readClears_entry (fun s => s.mi.unc) 2, readClears_entry (fun s => s.mi.poison) 0, readClears_entry (fun s => s.mi.poison) 1,
    readClears_entry (fun s => s.mi.poison) 2, ?_, ?_, ?_, ?_, ?_, ?_, ?_, ?_, ?_, ?_, ?_, ?_, ?_, ?_, ?_, ?_, ?_, ?_⟩
  all_goals exact readClears_word

/-- None of them is the low half of a pair, and each is a word of the window. -/
theorem clearedOffsets_words : ∀ o ∈ clearedOffsets, pfPair o = false ∧ accessOk 0 o 4 = true := by
  decide

theorem latchKey_pf (o : Nat) : latchKey 0 o = o := by
  unfold latchKey
  exact Nat.zero_add o

theorem fnPresent_pf (s : State) : fnPresent s 0 = true := rfl

theorem barRead_word {o : Nat} {s : State} (hl : regsLive s = true) :
    barRead 0 o 4 s = ((readWord32 0 s o).1.setWidth 64, (readWord32 0 s o).2) := by
  unfold barRead
  dsimp only
  rw [if_pos rfl, if_pos (by rw [hl]; rfl)]

/-- A 4-byte read of the PF while BAR0 is live. -/
theorem rocRead_pf {t : Time} {o : Nat} {s : State} (hl : regsLive s = true) (ho : accessOk 0 o 4 = true) :
    exec (.rocRead t 0 o 4) s = .next
      (emit (.readValue 0 o ((readWord32 0 (advance t s) o).1.setWidth 64)) (readWord32 0 (advance t s) o).2) := by
  have hl' : regsLive (advance t s) = true := (regsLive_advance t s).trans hl
  refine (if_neg ?_).trans ?_
  · rw [(Bool.and_eq_true_iff.mp hl').1, fnPresent_pf, ho]
    decide
  · change Host.Outcome.next (emit (.readValue 0 o (barRead 0 o 4 (advance t s)).1) (barRead 0 o 4 (advance t s)).2) = _
    rw [barRead_word hl']

/-- A 4-byte read of the low half of a pair of the PF while BAR0 is live. -/
theorem lowHalfRead_pf {t : Time} {o : Nat} {s : State} (hl : regsLive s = true) (ho : accessOk 0 o 4 = true) :
    exec (.lowHalfRead t 0 o) s = .next
      (emit (.readValue 0 o ((readWord32 0 (advance t s) o).1.setWidth 64)) (readWord32 0 (advance t s) o).2) := by
  have hl' : regsLive (advance t s) = true := (regsLive_advance t s).trans hl
  refine (if_neg ?_).trans ?_
  · rw [(Bool.and_eq_true_iff.mp hl').1, fnPresent_pf, ho]
    decide
  · change Host.Outcome.next (emit (.readValue 0 o (barRead 0 o 4 (advance t s)).1) (barRead 0 o 4 (advance t s)).2) = _
    rw [barRead_word hl']

/-- A word that is no half of a pair reads its register. -/
theorem readWord32_plain {o : Nat} {s : State} (hp : pfPair o = false) (hlatch : tabGet none s.latch o = none) :
    readWord32 0 s o = pfRead s o := by
  unfold readWord32
  rw [if_neg (by rw [show pairLow 0 o = pfPair o from rfl, hp]; decide), latchKey_pf, hlatch]
  rfl

theorem rocRead_clears {t : Time} {o : Nat} {s : State} (hl : regsLive s = true) (ho : o ∈ clearedOffsets)
    (hlatch : tabGet none s.latch o = none) :
    ∃ u, exec (.rocRead t 0 o 4) s = .next u ∧ u.out = .readValue 0 o ((pfRead (advance t s) o).1.setWidth 64) :: s.out
      ∧ (pfRead u o).1 = 0 := by
  obtain ⟨hp, hok⟩ := clearedOffsets_words o ho
  have hword := readWord32_plain (s := advance t s) hp (by rw [advance_latch]; exact hlatch)
  obtain ⟨hout, hzero⟩ := clearedOffsets_clear o ho (advance t s) (.readValue 0 o ((pfRead (advance t s) o).1.setWidth 64))
  refine ⟨_, rocRead_pf hl hok, ?_, ?_⟩
  · rw [hword, ← advance_out t s]
    exact congrArg _ hout
  · rw [hword]
    exact hzero

/-! ### The halves of a pair (R8) -/

section
variable {o : Nat} (s : State)

theorem pfRead_spill (h : 0xC000 ≤ o) (h' : o < 0xD000) : pfRead s o = spillRead ((o - 0xC000) / 64) s (o % 64) := by
  unfold pfRead
  simp only [Bool.and_eq_true, decide_eq_true_eq]
  iterate 6 rw [if_neg (by omega)]
  rw [if_pos (by omega)]

theorem pfRead_spillHigh (h : 0x2C800 ≤ o) (h' : o < 0x2CC00) :
    pfRead s o = spillRead (64 + (o - 0x2C800) / 64) s (o % 64) := by
  unfold pfRead
  simp only [Bool.and_eq_true, Bool.or_eq_true, decide_eq_true_eq]
  iterate 16 rw [if_neg (by omega)]
  rw [if_pos (by omega)]

theorem pfRead_mi (h : 0x10000 ≤ o) (h' : o < 0x102C0) : pfRead s o = miRead s (o - 0x10000) := by
  unfold pfRead
  simp only [Bool.and_eq_true, decide_eq_true_eq]
  iterate 9 rw [if_neg (by omega)]
  rw [if_pos (by omega)]

theorem pfRead_aperture (h : 0x18000 ≤ o) (h' : o < 0x20000) : pfRead s o = apertureRead s (o - 0x18000) := by
  unfold pfRead
  simp only [Bool.and_eq_true, decide_eq_true_eq]
  iterate 11 rw [if_neg (by omega)]
  rw [if_pos (by omega)]

theorem pfRead_sv (h : 0x20000 ≤ o) (h' : o < 0x20388) : pfRead s o = svRead s (o - 0x20000) := by
  unfold pfRead
  simp only [Bool.and_eq_true, decide_eq_true_eq]
  iterate 12 rw [if_neg (by omega)]
  rw [if_pos (by omega)]

theorem pfRead_lk (h : 0x24000 ≤ o) (h' : o < 0x24280) : pfRead s o = lkRead s (o - 0x24000) := by
  unfold pfRead
  simp only [Bool.and_eq_true, Bool.or_eq_true, decide_eq_true_eq]
  iterate 13 rw [if_neg (by omega)]
  rw [if_pos (by omega)]

end

/-- The low half of a pair of the PF: an 8-byte place of the window whose read changes nothing. -/
structure PairWord (o : Nat) : Prop where
  aligned : o % 8 = 0
  inside : o + 8 ≤ 1048576
  quiet : ∀ s, (pfRead s o).2 = s

theorem pairWord_single : ∀ o ∈ [0x18, 0x38, 0x4018, 0x4020, 0x10068, 0x14008, 0x14010, 0x14030, 0x3C010], PairWord o := by
  simp only [List.forall_mem_cons, List.not_mem_nil, false_imp_iff, implies_true, and_true]
  refine ⟨?_, ?_, ?_, ?_, ?_, ?_, ?_, ?_, ?_⟩
  all_goals exact ⟨by decide, by decide, fun _ => rfl⟩

theorem miRead_log {o : Nat} (s : State) (h : 0x100 ≤ o) (h' : o < 0x200) : (miRead s o).2 = s := by
  unfold miRead
  dsimp only
  iterate 5 rw [if_neg (by omega)]
  rw [if_pos ⟨h, h'⟩]

theorem miRead_inject {o : Nat} (s : State) (h : 0x200 ≤ o) (h' : o < 0x2C0) : (miRead s o).2 = s := by
  unfold miRead
  dsimp only
  iterate 6 rw [if_neg (by omega)]
  rw [if_pos ⟨h, h'⟩]

theorem svRead_reader {o : Nat} (s : State) (h : 0x100 ≤ o) (h' : o < 0x300) (hr : o % 32 = 0x10) : (svRead s o).2 = s := by
  unfold svRead
  rw [if_neg (by omega), if_neg (by omega), if_pos ⟨h, h'⟩, hr]
  rfl

theorem lkRead_head {o : Nat} (s : State) (h : 0x200 ≤ o) (h' : o < 0x280) : (lkRead s o).2 = s := by
  unfold lkRead
  rw [if_neg (by omega), if_pos ⟨h, h'⟩]

theorem apertureRead_pair {o : Nat} (s : State) (h : o % 1024 = 0x80) : (apertureRead s o).2 = s := by
  unfold apertureRead slotAt
  dsimp only
  rw [h]
  rfl

theorem spillRead_pair (q : Nat) (s : State) : (spillRead q s 8).2 = s := rfl

theorem pfPair_word {o : Nat} (h : pfPair o = true) : PairWord o := by
  unfold pfPair at h
  simp only [Bool.or_eq_true, Bool.and_eq_true, decide_eq_true_eq, beq_iff_eq, List.contains_iff_mem] at h
  obtain (((((((h | ⟨⟨lo, hi⟩, hm⟩) | ⟨⟨lo, hi⟩, hm⟩) | ⟨⟨lo, hi⟩, hm⟩) | ⟨⟨lo, hi⟩, hm⟩) | ⟨⟨lo, hi⟩, hm⟩) | ⟨⟨lo, hi⟩, hm⟩)
    | ⟨⟨lo, hi⟩, hm⟩) := h
  · exact pairWord_single o h
  · exact ⟨by omega, by omega, fun s => by rw [pfRead_spill s lo hi, hm, spillRead_pair]⟩
  · exact ⟨by omega, by omega, fun s => by rw [pfRead_spillHigh s lo hi, hm, spillRead_pair]⟩
  · exact ⟨by omega, by omega, fun s => by rw [pfRead_mi s (by omega) (by omega), miRead_log s (by omega) (by omega)]⟩
  · exact ⟨by omega, by omega, fun s => by rw [pfRead_mi s (by omega) (by omega), miRead_inject s (by omega) (by omega)]⟩
  · exact ⟨by omega, by omega, fun s => by rw [pfRead_aperture s lo hi, apertureRead_pair s (by omega)]⟩
  · exact ⟨by omega, by omega, fun s => by
      rw [pfRead_sv s (by omega) (by omega), svRead_reader s (by omega) (by omega) (by omega)]⟩
  · exact ⟨by omega, by omega, fun s => by rw [pfRead_lk s (by omega) (by omega), lkRead_head s (by omega) (by omega)]⟩

/-- The high half of a pair is no low half. -/
theorem pfPair_high {o : Nat} (h : pfPair o = true) : pfPair (o + 4) = false := by
  have low := (pfPair_word h).aligned
  refine Classical.byContradiction fun k => ?_
  have high := (pfPair_word (Bool.not_eq_false _ ▸ k)).aligned
  omega

theorem accessOk_word {o : Nat} (h : o % 4 = 0) (h' : o + 4 ≤ 1048576) : accessOk 0 o 4 = true := by
  unfold accessOk
  simp [h, h']

/-- A read of a low half keeps the high half of that instant. -/
theorem readWord32_low {o : Nat} {s : State} (h : pfPair o = true) :
    readWord32 0 s o = ((pfRead s o).1, setLatch 0 (o + 4) (some (pfRead s (o + 4)).1) s) := by
  unfold readWord32
  rw [if_pos (show pairLow 0 o = true from h)]
  change ((pfRead s o).1, setLatch 0 (o + 4) (some (pfRead (pfRead s o).2 (o + 4)).1) (pfRead s o).2) = _
  rw [(pfPair_word h).quiet]

/-- The next read of the high half answers with the value kept. -/
theorem readWord32_high {o : Nat} {v : Word} {s : State} (h : pfPair o = false) (hlatch : tabGet none s.latch o = some v) :
    readWord32 0 s o = (v, setLatch 0 o none s) := by
  unfold readWord32
  rw [if_neg (by rw [show pairLow 0 o = pfPair o from rfl, h]; decide), latchKey_pf, hlatch]

theorem latch_kept (o : Nat) (v : Word) (x : Out) (s : State) :
    tabGet none (emit x (setLatch 0 o (some v) s)).latch o = some v := by
  change tabGet none (tabSet none s.latch (latchKey 0 o) (some v)) o = some v
  rw [latchKey_pf, tabGet_tabSet_same]

theorem lowHalfRead_latches {t : Time} {o : Nat} {s : State} (hl : regsLive s = true) (ho : pfPair o = true) :
    ∃ u, exec (.lowHalfRead t 0 o) s = .next u
      ∧ u.out = .readValue 0 o ((pfRead (advance t s) o).1.setWidth 64) :: s.out
      ∧ ∀ (later : Time) (v : State), regsLive v = true → v.latch = u.latch →
        ∃ w, exec (.rocRead later 0 (o + 4) 4) v = .next w
          ∧ w.out = .readValue 0 (o + 4) ((pfRead (advance t s) (o + 4)).1.setWidth 64) :: v.out := by
  have word := pfPair_word ho
  refine ⟨_, lowHalfRead_pf hl (accessOk_word (by have := word.aligned; omega) (by have := word.inside; omega)), ?_, ?_⟩
  · rw [readWord32_low ho, ← advance_out t s]
    rfl
  · intro later v hv hlatch
    refine ⟨_, rocRead_pf hv (accessOk_word (by have := word.aligned; omega) (by have := word.inside; omega)), ?_⟩
    have hkept : tabGet none (advance later v).latch (o + 4) = some (pfRead (advance t s) (o + 4)).1 := by
      rw [advance_latch, hlatch, readWord32_low ho]
      exact latch_kept ..
    rw [readWord32_high (pfPair_high ho) hkept, ← advance_out later v]
    rfl

/-! ### Writes of plain registers (R396, R405) -/

theorem halfOf_low (v : DWord) : halfOf v false = v.setWidth 32 := rfl

theorem halfOf_high (v : DWord) : halfOf v true = (v >>> 32).setWidth 32 := rfl

/-- A write of the PF that BAR0 takes. -/
theorem registerWrite_pf {t : Time} {o width : Nat} {value : DWord} {s : State} (hl : regsLive s = true)
    (ho : accessOk 0 o width = true) : exec (.registerWrite t 0 0 o width value) s = .next
      (if width = 8 then regWrite 0 (o + 4) (halfOf value true) (regWrite 0 o (halfOf value false) (advance t s))
      else regWrite 0 o (halfOf value false) (advance t s)) := by
  have hf : fetching (advance t s) = true := (Bool.and_eq_true_iff.mp ((regsLive_advance t s).trans hl)).1
  refine (if_neg ?_).trans (if_pos ⟨rfl, ho⟩)
  rw [hf, fnPresent_pf]
  decide

/-- A word that the PF writes anywhere but at GL_RESET. -/
theorem regWrite_pf {o : Nat} {v : Word} {s : State} (hl : regsLive s = true) (ho : o ≠ 0x28) :
    regWrite 0 o v s = pfWrite o v s := by
  unfold regWrite
  rw [if_neg fun h => ho h.2, if_pos (by rw [hl]; rfl), if_pos rfl]

/-- A register that reads what was last written to it, in the bits `m`. -/
def KeepsWord (o : Nat) (m : Word) : Prop := ∀ (v : Word) (s : State), (pfRead (pfWrite o v s) o).1 = v &&& m

/-- A register of a table that is written and read at `o` as its entry `c`. -/
theorem keepsWord_entry {o : Nat} (d : Word) (tab : State → List (Nat × Word)) (c : Nat)
    (hread : ∀ s, (pfRead s o).1 = tabGet d (tab s) c := by intros; rfl)
    (hwrite : ∀ v s, tab (pfWrite o v s) = tabSet d (tab s) c v := by intros; rfl) : KeepsWord o 0xFFFFFFFF := fun v s => by
  rw [hread, hwrite, tabGet_tabSet_same]
  exact BitVec.and_allOnes.symm

/-- A register of its own. -/
theorem keepsWord_word {o : Nat} {m : Word} (hwrite : ∀ v s, (pfRead (pfWrite o v s) o).1 = v &&& m := by intros; rfl) :
    KeepsWord o m := hwrite

/-- CE_PAGE reads its one bit. -/
theorem ofNat_b2n_getLsbD (v : Word) : BitVec.ofNat 32 (b2n (v.getLsbD 0)) = v &&& 1#32 := by
  apply BitVec.eq_of_toNat_eq
  rw [BitVec.toNat_and, BitVec.toNat_ofNat, show (1#32).toNat = 2 ^ 1 - 1 from rfl, Nat.and_two_pow_sub_one_eq_mod]
  unfold b2n BitVec.getLsbD
  rw [Nat.testBit_zero]
  have := Nat.mod_two_eq_zero_or_one v.toNat
  rcases this with h | h <;> rw [h] <;> rfl

/-- LK_HREC_SEL reads its three bits. -/
theorem ofNat_bits_low (v : Word) : BitVec.ofNat 32 (bits v 0 3) = v &&& 7#32 := by
  apply BitVec.eq_of_toNat_eq
  rw [BitVec.toNat_and, BitVec.toNat_ofNat, show (7#32).toNat = 2 ^ 3 - 1 from rfl, Nat.and_two_pow_sub_one_eq_mod]
  unfold bits
  omega

/-- The plain registers of the PF, each with the bits it has. -/
def plainWords : List (Nat × Word) :=
  [(0x10000, 3), (0x10050, 0xFFFFFFFF), (0x10054, 0xFFFFFFFF), (0x10058, 0xFFFFFFFF), (0x14000, 0xFFFF),
    (0x14018, 1), (0x14020, 0x3F3F3F3F), (0x14024, 0x3F3F3F3F), (0x14080, 0xFFFFFFFF), (0x24008, 7), (0x28010, 0xFFFFFFFF)]

theorem plainWords_keep : ∀ x ∈ plainWords, KeepsWord x.1 x.2 := by
  unfold plainWords
  simp only [List.forall_mem_cons, List.not_mem_nil, false_imp_iff, implies_true, and_true]
  exact ⟨keepsWord_word, keepsWord_entry threshDefault (fun s => s.mi.thresh) 0,
    keepsWord_entry threshDefault (fun s => s.mi.thresh) 1, keepsWord_entry threshDefault (fun s => s.mi.thresh) 2,
    keepsWord_word, fun v _ => ofNat_b2n_getLsbD v, keepsWord_word, keepsWord_word,
    keepsWord_entry 0 (fun s => s.ce.consts) 0, fun v _ => ofNat_bits_low v, keepsWord_entry 0 (fun s => s.sp.deb) 0⟩

theorem plainWords_words : ∀ x ∈ plainWords, x.1 ≠ 0x28 ∧ accessOk 0 x.1 4 = true := by
  decide

theorem registerWrite_plainWord {t : Time} {x : Nat × Word} {s : State} (hl : regsLive s = true) (hx : x ∈ plainWords)
    (value : DWord) : ∃ u, exec (.registerWrite t 0 0 x.1 4 value) s = .next u
      ∧ (pfRead u x.1).1 = value.setWidth 32 &&& x.2 := by
  obtain ⟨hne, hok⟩ := plainWords_words x hx
  refine ⟨_, registerWrite_pf hl hok, ?_⟩
  rw [if_neg (by decide), regWrite_pf ((regsLive_advance t s).trans hl) hne, plainWords_keep x hx, halfOf_low]

theorem regsLive_finesp0 (v : Word) (s : State) : regsLive (pfWrite 0x14020 v s) = regsLive s := rfl

/-- An 8-byte write takes both words. -/
theorem registerWrite_wide {t : Time} {s : State} (hl : regsLive s = true) (value : DWord) :
    ∃ u, exec (.registerWrite t 0 0 0x14020 8 value) s = .next u ∧ u.ce.finesp0 = value.setWidth 32 &&& 0x3F3F3F3F#32
      ∧ u.ce.finesp1 = (value >>> 32).setWidth 32 &&& 0x3F3F3F3F#32 := by
  have hl' : regsLive (advance t s) = true := (regsLive_advance t s).trans hl
  refine ⟨_, registerWrite_pf hl (by decide), ?_⟩
  rw [if_pos rfl, regWrite_pf hl' (by decide), regWrite_pf ((regsLive_finesp0 ..).trans hl') (by decide)]
  exact ⟨rfl, rfl⟩

/-! ### Words that only SERVICE writes -/

section
variable {o : Nat} (v : Word) (s : State)

theorem pfWrite_sp (h : 0x28000 ≤ o) (h' : o < 0x28B00) : pfWrite o v s = spWrite (o - 0x28000) v s := by
  unfold pfWrite
  simp only [Bool.and_eq_true, decide_eq_true_eq]
  iterate 10 rw [if_neg (by omega)]
  rw [if_pos (by omega)]

theorem pfWrite_sv (h : 0x20000 ≤ o) (h' : o < 0x20388) : pfWrite o v s = svWrite (o - 0x20000) v s := by
  unfold pfWrite
  simp only [Bool.and_eq_true, decide_eq_true_eq]
  iterate 8 rw [if_neg (by omega)]
  rw [if_pos (by omega)]

end

/-- A correction or board-map word of the Sheet Port, a servo target or a band scale. -/
def ServiceWord (o : Nat) : Prop :=
  (0x28400 ≤ o ∧ o < 0x28700) ∨ (0x28800 ≤ o ∧ o < 0x28B00) ∨ (0x20020 ≤ o ∧ o < 0x20060)

theorem spWrite_cal {o : Nat} {s : State} (hs : s.gl.cur ≠ .service) (h : 0x400 ≤ o ∧ o < 0x700) (v : Word) :
    spWrite o v s = s := by
  refine (if_pos h).trans (if_neg ?_)
  rw [decide_eq_true_eq]
  exact hs

theorem spWrite_nom {o : Nat} {s : State} (hs : s.gl.cur ≠ .service) (h : 0x800 ≤ o ∧ o < 0xB00) (v : Word) :
    spWrite o v s = s := by
  refine (if_neg (by omega)).trans ((if_pos h).trans (if_neg ?_))
  rw [decide_eq_true_eq]
  exact hs

theorem svWrite_y0 {o : Nat} {s : State} (hs : s.gl.cur ≠ .service) (h : 0x20 ≤ o ∧ o < 0x40) (v : Word) :
    svWrite o v s = s := by
  refine (if_pos h).trans (if_neg ?_)
  rw [decide_eq_true_eq]
  exact hs

theorem svWrite_azk {o : Nat} {s : State} (hs : s.gl.cur ≠ .service) (h : 0x40 ≤ o ∧ o < 0x64) (v : Word) :
    svWrite o v s = s := by
  refine (if_neg (by omega)).trans ((if_pos h).trans (if_neg ?_))
  rw [decide_eq_true_eq]
  exact hs

/-- Outside SERVICE such a word does not change. -/
theorem regWrite_serviceWord {o : Nat} {s : State} (hl : regsLive s = true) (hs : s.gl.cur ≠ .service) (ho : ServiceWord o)
    (v : Word) : regWrite 0 o v s = s := by
  rw [regWrite_pf hl (by unfold ServiceWord at ho; omega)]
  rcases ho with h | h | h
  · rw [pfWrite_sp v s (by omega) (by omega), spWrite_cal hs (by omega)]
  · rw [pfWrite_sp v s (by omega) (by omega), spWrite_nom hs (by omega)]
  · rw [pfWrite_sv v s (by omega) (by omega)]
    by_cases hy : o < 0x20040
    · exact svWrite_y0 hs (by omega) v
    · exact svWrite_azk hs (by omega) v

theorem accessOk_aligned {o width : Nat} (h : accessOk 0 o width = true) : (width = 4 ∨ width = 8) ∧ o % width = 0 := by
  unfold accessOk at h
  simp only [Bool.and_eq_true, Bool.or_eq_true, beq_iff_eq] at h
  exact h.1

/-- The second word of an 8-byte access lies in the same register file as the first. -/
theorem serviceWord_next {o : Nat} (h : ServiceWord o) (ha : o % 8 = 0) : ServiceWord (o + 4) := by
  unfold ServiceWord at h ⊢
  omega

theorem registerWrite_serviceWord {t : Time} {o width : Nat} {s : State} (hl : regsLive s = true)
    (hs : s.gl.cur ≠ .service) (hok : accessOk 0 o width = true) (ho : ServiceWord o) (value : DWord) :
    exec (.registerWrite t 0 0 o width value) s = .next (advance t s) := by
  have hl' : regsLive (advance t s) = true := (regsLive_advance t s).trans hl
  have hs' : (advance t s).gl.cur ≠ .service := by rwa [advance_gl]
  rw [registerWrite_pf hl hok, regWrite_serviceWord hl' hs' ho]
  by_cases hw : width = 8
  · rw [if_pos hw, regWrite_serviceWord hl' hs' (serviceWord_next ho (hw ▸ (accessOk_aligned hok).2))]
  · rw [if_neg hw]

/-- Settles O57: a rejected access counts and answers 0 (R396); each counter of the list reads and clears (R5); the
low half of a pair keeps the high half for its next read (R8); each plain register keeps the word written, and the
words of SERVICE keep theirs elsewhere (R405). -/
theorem registerAccess : Obligations.RegisterAccess := by
  unfold Obligations.RegisterAccess
  refine ⟨fun t f isWrite offset width s => ⟨fun hf hp hb => ?_, fun hf => accesses_off hf isWrite offset width⟩,
    fun t s hl => ⟨fun o ho hlatch => rocRead_clears hl ho hlatch, fun o ho => lowHalfRead_latches hl ho,
      fun x hx value => registerWrite_plainWord hl hx value, fun value => registerWrite_wide hl value,
      fun hs o width value hok ho => registerWrite_serviceWord hl hs hok ho value⟩⟩
  obtain ⟨count, place⟩ := accErrNext_fields s.gl.accErr offset
  exact ⟨_, bar0AccessReject_counts hf hp hb, rfl, count, place, rfl⟩

end Sys2Proof.Machine
end
